-- ==== Sys2Proof/Word.lean ====
section
/-! DEFINITION. Word.lean: the word types of Renen and the sparse store type that registers, tiles, scratchpad and memory use. -/

namespace Sys2Proof

/-- An instruction word and a lane's register (04 R76, R95). -/
abbrev Word := BitVec 32

/-- A uniform register, a CSR, a program counter (04 R76). -/
abbrev DWord := BitVec 64

/-- A lane mask: bit l belongs to lane l (04 R80, 00 R11). -/
abbrev Mask := BitVec 32

/-- A sparse array of words: (index, value) pairs, indices strictly rising, no value zero; an unlisted index reads zero. -/
abbrev SMap (w : Nat) := List (Nat × BitVec w)

end Sys2Proof
end

