-- ==== Sys2Proof/Config.lean ====
section
/-! DEFINITION. Config.lean: what an implementation of Renen fixes, and the free values. No constant here has a body a proof could evaluate. -/

namespace Sys2Proof.Config

/-- The free values: applied to State.freeCtr, which every use advances (log 5). -/
opaque freeValue : Nat → BitVec 64

/-- The arithmetic-clock cycles that pass with the n-th issue choice (07 R179; log 4). -/
opaque cyclesTaken : Nat → Nat

/-- The value an approximate FUNARY function would deliver: the function's code and the input bits (08 R193; log 5). -/
opaque approx : BitVec 8 → BitVec 32 → BitVec 32

/-- Where the 4 KiB front-end window of a virtual device lies in the device range of Table 12.5 (02 R38; log 7). -/
opaque feWindow : Nat → Nat

/-- What a device register of which the manual says nothing returns when read (12 Table 12.5; log 7). -/
opaque deviceRead : Nat → Nat → BitVec 64

/-- Whether a fresh scratchpad keeps the byte an earlier team of the same virtual device left there: team number, offset (01 R23; log 13). -/
opaque keepByte : Nat → Nat → Bool

/-- How many cells' siblings the spill area of a virtual device's metadata region holds (14 R357; log 47). -/
opaque spillRoom : Nat → Nat

/-- Whether the pool device that holds a 64 KiB block of the pool is known to advertise far-operation messages (13 R332; log 61). -/
opaque farOps : Nat → Bool

/-- The number of this package among those the Coupler joins (17 R435, R437; log 22). -/
opaque packageNumber : BitVec 7

/-- Whether the relay group of a virtual device has instances on other packages (17 R436; log 81). -/
opaque relayPeers : Nat → Bool

end Sys2Proof.Config
end

