-- ==== Sys2Proof/Syntax.lean ====
section
/-! DEFINITION. Syntax.lean: Instr, one constructor per row of spec/opcode_table.json. The first 235 rows are instruction words in the ten
formats of 04 R96-R105; the others are the steps of the package, with the arguments that name their subject (95 "What each step holds").
The fields of a word are exactly the bits of its format; Machine/Legal.lean says which values are legal. -/

namespace Sys2Proof

/-- Format A (04 Table 4.5). -/
structure FmtA where
  d : BitVec 7
  a : BitVec 7
  b : BitVec 7
  x : Bool
  u : Bool
  n : Bool
  z : Bool
  deriving DecidableEq, Repr

/-- Format A of major 0x05, whose x bit selects between JMPI and CALLI (06 R146). -/
structure FmtJ where
  d : BitVec 7
  a : BitVec 7
  b : BitVec 7
  u : Bool
  n : Bool
  z : Bool
  deriving DecidableEq, Repr

/-- Format P (04 Table 4.6); the reserved bit 1 is not representable. -/
structure FmtP where
  pd : BitVec 3
  cond : BitVec 4
  a : BitVec 7
  b : BitVec 7
  x : Bool
  u : Bool
  z : Bool
  deriving DecidableEq, Repr

/-- Format Q (04 Table 4.7). -/
structure FmtQ where
  d : BitVec 7
  a : BitVec 7
  b : BitVec 7
  ps : BitVec 3
  n : Bool
  deriving DecidableEq, Repr

/-- Format L (04 Table 4.8). -/
structure FmtL where
  d : BitVec 7
  imm : BitVec 16
  u : Bool
  z : Bool
  deriving DecidableEq, Repr

/-- Format M (04 Table 4.9). -/
structure FmtM where
  d : BitVec 7
  a : BitVec 7
  off : BitVec 7
  ord : BitVec 2
  u : Bool
  z : Bool
  deriving DecidableEq, Repr

/-- Format AT (04 Table 4.10); the sub field is the constructor's, the reserved bit 0 is not representable. -/
structure FmtAT where
  d : BitVec 7
  a : BitVec 7
  b : BitVec 7
  ar : Bool
  deriving DecidableEq, Repr

/-- Format C (04 Table 4.11); the reserved bit 0 is not representable. -/
structure FmtC where
  p : BitVec 3
  n : Bool
  off : BitVec 19
  u : Bool
  deriving DecidableEq, Repr

/-- Format T (04 Table 4.12). -/
structure FmtT where
  td : BitVec 4
  a : BitVec 7
  b : BitVec 7
  f : BitVec 7
  deriving DecidableEq, Repr

/-- Format X (04 Table 4.13); the fn field is the constructor's and its parameters. -/
structure FmtX where
  d : BitVec 7
  a : BitVec 7
  u : Bool
  n : Bool
  z : Bool
  deriving DecidableEq, Repr

/-- Format S, word 0 of SWITCH (04 Table 4.14). -/
structure FmtS where
  a : BitVec 7
  cnt : BitVec 3
  recon : BitVec 15
  deriving DecidableEq, Repr

/-- Where groups run: a compute cluster of a die, the supervisor core of a die that hosts a virtual device's die kernel, or the SMC core
(00 R2, R4; 16 R414). -/
inductive Site where
  | cluster (die : Nat) (n : Nat)
  | core (die : Nat) (vd : Nat)
  | smc
  deriving DecidableEq, Repr

/-- A block the compactor may move (03 R70): a group's registers and tiles, or a team's scratchpad. -/
inductive Block where
  | regs (handle : Nat)
  | scratch (team : Nat)
  deriving DecidableEq, Repr

/-- The run-time failures of a Dray command (13 Table 13.3, codes 0x10 to 0x13). -/
inductive DrayErr where
  | space
  | index
  | device
  | abort
  deriving DecidableEq, Repr

/-- What the target package's SMC answers to an OPENS (17 Table 17.8). -/
inductive PeerAnswer where
  | opened (gpa : Nat)
  | noWin
  | refused
  deriving DecidableEq, Repr

/-- What the SMC writes through its management path (03 R73; 02 Table 2.5; 16 R410). -/
inductive MgmtWrite where
  | ilim (field : Nat) (val : BitVec 16)
  | clearCfail (vd : Nat)
  | clearSavef (vd : Nat)
  deriving DecidableEq, Repr

/-- What firmware chooses when a virtual device is created, beyond its descriptor (01 R29; 16 R413, R415; log 6); tables are the
frames, of 4 KiB each, in which the SMC builds stage-2 tables. -/
structure VdSetup where
  codeVa : Nat
  codePa : Nat
  kernelPa : Nat
  saveGpa : Nat
  kernelEntry : Nat
  tables : List Nat
  deriving DecidableEq, Repr

/-- Which PUT from another package bytes belong to, among those under way, and whether they are its last (17 R435). -/
structure PutPart where
  put : Nat
  last : Bool
  deriving DecidableEq, Repr

/-- One constructor per row of the opcode table. -/
inductive Instr where
  /-- BRA (R144): Moves the fragment to PC plus the signed word offset. -/
  | bra (w : FmtC)
  /-- BRC (R144): Conditional branch on a predicate per lane, diverging where lanes disagree, or following the leader when U = 1. -/
  | brc (w : FmtC)
  /-- CALL (R145): Writes PC + 4 to s23 and moves the fragment to the PC-relative target. -/
  | call (w : FmtC)
  /-- RET (R145): Moves the fragment to the address in s23, raising LANDING if it is misaligned. -/
  | ret (w : FmtX)
  /-- JMPI (R146): Indirect jump to per-lane or uniform targets that must be LAND words, diverging by target. -/
  | jmpi (w : FmtJ)
  /-- CALLI (R146): Indirect call: as JMPI and also writes PC + 4 to s23. -/
  | calli (w : FmtJ)
  /-- SWITCH (R148): Multiway branch on a selector over up to eight case bytes, pushing its own reconvergence entry. -/
  | switch (w : FmtS)
  /-- RECON (R147): Pushes a RECON divergence-stack entry with the given reconvergence PC. -/
  | recon (w : FmtC)
  /-- JOIN (R149): Marks the fragment's lanes arrived at the top entry and runs Settle to pop and fuse. -/
  | join (w : FmtX)
  /-- LAND (R150): Landing point; changes no state. -/
  | land (w : FmtL)
  /-- EXIT (R151): Ends the active lanes of the fragment and starts draining when no lane is left. -/
  | exit (w : FmtX)
  /-- NOP (R152): Changes no state. -/
  | nop (w : FmtX)
  /-- YIELD (R152): Makes the fragment the youngest of its class for issue choice. -/
  | yield (w : FmtX)
  /-- VOTE_ANY (R153): Result 1 if some active lane has a nonzero value. -/
  | voteAny (w : FmtX)
  /-- VOTE_ALL (R153): Result 1 if every active lane has a nonzero value. -/
  | voteAll (w : FmtX)
  /-- VOTE_BALLOT (R153): Mask of active lanes with a nonzero value. -/
  | voteBallot (w : FmtX)
  /-- VOTE_COUNT (R153): Count of active lanes with a nonzero value. -/
  | voteCount (w : FmtX)
  /-- VOTE_FIRST (R153): Lowest active lane with a nonzero value, or 32. -/
  | voteFirst (w : FmtX)
  /-- VOTE_UNIQ (R153): Mask of the first active lane of each distinct value. -/
  | voteUniq (w : FmtX)
  /-- WINB (R154): Sets the register window base WBASE to 16 times the step. -/
  | winb (w : FmtL)
  /-- TRAP (R155): Raises TRAPI with the code and the leader's a value. -/
  | trap (w : FmtX) (c : BitVec 7)
  /-- BKPT (R155): Breakpoint: raises TRAPI with bit 7 of the code set. -/
  | bkpt (w : FmtX) (c : BitVec 7)
  /-- DSTK_DEPTH (R156): Writes the packed resident and spilled divergence-stack depth. -/
  | dstkDepth (w : FmtX)
  /-- DSTK_SPILL (R157): Moves the deepest resident stack entries of a stopped group to its spill area. -/
  | dstkSpill (w : FmtX)
  /-- DSTK_FILL (R157): Moves spilled stack entries of a stopped group back under the resident ones, checking them. -/
  | dstkFill (w : FmtX)
  /-- IADD (R163): 32-bit wrapping add. -/
  | iadd (w : FmtA)
  /-- ISUB (R163): 32-bit wrapping subtract. -/
  | isub (w : FmtA)
  /-- IMUL (R163): Low 32 bits of the product. -/
  | imul (w : FmtA)
  /-- IMULH (R163): High 32 bits of the signed product. -/
  | imulh (w : FmtA)
  /-- IMULHU (R163): High 32 bits of the unsigned product. -/
  | imulhu (w : FmtA)
  /-- IMAD (R166): Multiply-add into the destination, wrapping. -/
  | imad (w : FmtA)
  /-- IMIN (R163): Signed minimum. -/
  | imin (w : FmtA)
  /-- IMAX (R163): Signed maximum. -/
  | imax (w : FmtA)
  /-- IMINU (R163): Unsigned minimum. -/
  | iminu (w : FmtA)
  /-- IMAXU (R163): Unsigned maximum. -/
  | imaxu (w : FmtA)
  /-- IUNARY_NEG (R167): Two's complement negate. -/
  | iunaryNeg (w : FmtX)
  /-- IUNARY_ABS (R167): Absolute value, wrapping. -/
  | iunaryAbs (w : FmtX)
  /-- IUNARY_NOT (R167): Bitwise not. -/
  | iunaryNot (w : FmtX)
  /-- IUNARY_POPC (R167): Population count. -/
  | iunaryPopc (w : FmtX)
  /-- IUNARY_CLZ (R167): Count leading zeros. -/
  | iunaryClz (w : FmtX)
  /-- IUNARY_CTZ (R167): Count trailing zeros. -/
  | iunaryCtz (w : FmtX)
  /-- IUNARY_BREV (R167): Bit reverse. -/
  | iunaryBrev (w : FmtX)
  /-- IUNARY_BSWAP (R167): Byte swap. -/
  | iunaryBswap (w : FmtX)
  /-- IUNARY_SEXTB (R167): Sign-extend the low byte. -/
  | iunarySextb (w : FmtX)
  /-- IUNARY_SEXTH (R167): Sign-extend the low halfword. -/
  | iunarySexth (w : FmtX)
  /-- SHL (R164): Shift left, zero for amounts of 32 or more. -/
  | shl (w : FmtA)
  /-- SHR (R164): Logical shift right. -/
  | shr (w : FmtA)
  /-- SHRA (R164): Arithmetic shift right. -/
  | shra (w : FmtA)
  /-- ROTL (R164): Rotate left by the amount mod 32. -/
  | rotl (w : FmtA)
  /-- AND (R163): Bitwise and. -/
  | and (w : FmtA)
  /-- OR (R163): Bitwise or. -/
  | or (w : FmtA)
  /-- XOR (R163): Bitwise exclusive or. -/
  | xor (w : FmtA)
  /-- ANDN (R163): a and not b. -/
  | andn (w : FmtA)
  /-- BFX (R165): Extracts a bit field, zero- or sign-extended by x. -/
  | bfx (w : FmtA)
  /-- BFI (R165): Inserts a bit field into the destination. -/
  | bfi (w : FmtA)
  /-- ICMP (R171): Signed 32-bit compare writing a predicate. -/
  | icmp (w : FmtP)
  /-- ICMPU (R171): Unsigned 32-bit compare writing a predicate. -/
  | icmpu (w : FmtP)
  /-- SEL (R172): Per-lane select between a and b by a predicate. -/
  | sel (w : FmtQ)
  /-- MOVI (R168): Writes a sign-extended 16-bit immediate. -/
  | movi (w : FmtL)
  /-- MOVHI (R168): Writes the immediate to bits [31:16], keeping the rest. -/
  | movhi (w : FmtL)
  /-- MOV (R169): Copies 32 or 64 bits between vector and uniform registers. -/
  | mov (w : FmtA)
  /-- IADD64 (R170): 64-bit add for addresses. -/
  | iadd64 (w : FmtA)
  /-- LEA (R170): 64-bit base plus sign-extended index, optionally scaled by 4. -/
  | lea (w : FmtA)
  /-- ICMP64 (R171): 64-bit compare writing a predicate. -/
  | icmp64 (w : FmtP)
  /-- DP4 (R166): Four-byte dot product accumulated into the destination. -/
  | dp4 (w : FmtA)
  /-- VADDMIN (R166): Destination := signed min of itself and a + b. -/
  | vaddmin (w : FmtA)
  /-- LANE_SHUP (R173): Moves values up by k lanes with fill. -/
  | laneShup (w : FmtX) (f : BitVec 1) (k : BitVec 5)
  /-- LANE_SHDN (R173): Moves values down by k lanes with fill. -/
  | laneShdn (w : FmtX) (f : BitVec 1) (k : BitVec 5)
  /-- LANE_XOR (R173): Exchanges values between lanes l and l xor k. -/
  | laneXor (w : FmtX) (k : BitVec 5)
  /-- LANEIDX (R174): Reads a from a per-lane source lane index. -/
  | laneidx (w : FmtA)
  /-- BCAST (R174): Broadcasts one lane's value to the fragment. -/
  | bcast (w : FmtA)
  /-- GRED_ADD (R175): Wrapping sum over active lanes by the fixed tree. -/
  | gredAdd (w : FmtX)
  /-- GRED_MIN (R175): Signed minimum over active lanes. -/
  | gredMin (w : FmtX)
  /-- GRED_MAX (R175): Signed maximum over active lanes. -/
  | gredMax (w : FmtX)
  /-- GRED_MINU (R175): Unsigned minimum over active lanes. -/
  | gredMinu (w : FmtX)
  /-- GRED_MAXU (R175): Unsigned maximum over active lanes. -/
  | gredMaxu (w : FmtX)
  /-- GRED_AND (R175): Bitwise and over active lanes. -/
  | gredAnd (w : FmtX)
  /-- GRED_OR (R175): Bitwise or over active lanes. -/
  | gredOr (w : FmtX)
  /-- GRED_XOR (R175): Bitwise xor over active lanes. -/
  | gredXor (w : FmtX)
  /-- GRED_FADD (R175): FP32 sum over active lanes by the fixed tree. -/
  | gredFadd (w : FmtX)
  /-- GRED_FMIN (R175): FP32 minimumNumber over active lanes. -/
  | gredFmin (w : FmtX)
  /-- GRED_FMAX (R175): FP32 maximumNumber over active lanes. -/
  | gredFmax (w : FmtX)
  /-- GSCAN_ADD (R176): Inclusive or exclusive wrapping prefix sum over active lanes. -/
  | gscanAdd (w : FmtX) (e : BitVec 1)
  /-- GSCAN_MIN (R176): Prefix signed minimum over active lanes. -/
  | gscanMin (w : FmtX) (e : BitVec 1)
  /-- GSCAN_MAX (R176): Prefix signed maximum over active lanes. -/
  | gscanMax (w : FmtX) (e : BitVec 1)
  /-- GETID_LANE (R177): Writes the lane number. -/
  | getidLane (w : FmtX)
  /-- GETID_GROUP (R177): Writes the group number in the team. -/
  | getidGroup (w : FmtX)
  /-- GETID_TEAMX (R177): Writes the team's grid x index. -/
  | getidTeamx (w : FmtX)
  /-- GETID_TEAMY (R177): Writes the team's grid y index. -/
  | getidTeamy (w : FmtX)
  /-- GETID_TEAMZ (R177): Writes the team's grid z index. -/
  | getidTeamz (w : FmtX)
  /-- GETID_ROLE (R177): Writes the role number. -/
  | getidRole (w : FmtX)
  /-- GETID_VDIE (R177): Writes the virtual die of the group's cluster. -/
  | getidVdie (w : FmtX)
  /-- GETID_NVDIE (R177): Writes the VD's virtual die count. -/
  | getidNvdie (w : FmtX)
  /-- GETID_CLUSTER (R177): Writes the cluster number the group occupies. -/
  | getidCluster (w : FmtX)
  /-- GETID_BAY (R177): Writes the bay number. -/
  | getidBay (w : FmtX)
  /-- GETID_GRIDX (R177): Writes the node's GX. -/
  | getidGridx (w : FmtX)
  /-- GETID_GRIDY (R177): Writes the node's GY. -/
  | getidGridy (w : FmtX)
  /-- GETID_GRIDZ (R177): Writes the node's GZ. -/
  | getidGridz (w : FmtX)
  /-- VDHOP (R178): Writes the hop distance between two virtual dies. -/
  | vdhop (w : FmtA)
  /-- CYCLE (R179): Writes the die's 64-bit cycle counter. -/
  | cycle (w : FmtX)
  /-- FADD (R189): FP32 add, rounded once in RNE or the GCFG direction. -/
  | fadd (w : FmtA)
  /-- FSUB (R189): FP32 subtract. -/
  | fsub (w : FmtA)
  /-- FMUL (R189): FP32 multiply. -/
  | fmul (w : FmtA)
  /-- FFMA (R189): FP32 fused multiply-add into the destination. -/
  | ffma (w : FmtA)
  /-- FMIN (R190): IEEE minimumNumber. -/
  | fmin (w : FmtA)
  /-- FMAX (R190): IEEE maximumNumber. -/
  | fmax (w : FmtA)
  /-- FCMP (R192): FP32 compare writing a predicate. -/
  | fcmp (w : FmtP)
  /-- FUNARY_NEG (R193): FP32 negate. -/
  | funaryNeg (w : FmtX)
  /-- FUNARY_ABS (R193): FP32 absolute value. -/
  | funaryAbs (w : FmtX)
  /-- FUNARY_RCP (R193): Reciprocal within 1 ulp. -/
  | funaryRcp (w : FmtX)
  /-- FUNARY_RSQ (R193): Reciprocal square root within 1 ulp. -/
  | funaryRsq (w : FmtX)
  /-- FUNARY_SQRT (R193): Correctly rounded square root. -/
  | funarySqrt (w : FmtX)
  /-- FUNARY_EXP2 (R193): 2 to the x within 2 ulp. -/
  | funaryExp2 (w : FmtX)
  /-- FUNARY_LOG2 (R193): Base-2 logarithm within 2 ulp. -/
  | funaryLog2 (w : FmtX)
  /-- FUNARY_SINPI (R193): sin(pi x) within 2 ulp. -/
  | funarySinpi (w : FmtX)
  /-- FUNARY_COSPI (R193): cos(pi x) within 2 ulp. -/
  | funaryCospi (w : FmtX)
  /-- FUNARY_FLOOR (R193): Floor to integer. -/
  | funaryFloor (w : FmtX)
  /-- FUNARY_CEIL (R193): Ceiling to integer. -/
  | funaryCeil (w : FmtX)
  /-- FUNARY_TRUNC (R193): Truncate to integer. -/
  | funaryTrunc (w : FmtX)
  /-- FUNARY_RNDNE (R193): Round to nearest integer, ties to even. -/
  | funaryRndne (w : FmtX)
  /-- FUNARY_FRACT (R193): x minus floor(x), capped below 1.0. -/
  | funaryFract (w : FmtX)
  /-- FSCALE (R191): Multiplies by 2 to an integer power with one rounding. -/
  | fscale (w : FmtA)
  /-- HADD2 (R195): Packed FP16 add. -/
  | hadd2 (w : FmtA)
  /-- HMUL2 (R195): Packed FP16 multiply. -/
  | hmul2 (w : FmtA)
  /-- HFMA2 (R195): Packed FP16 fused multiply-add. -/
  | hfma2 (w : FmtA)
  /-- BADD2 (R195): Packed BF16 add. -/
  | badd2 (w : FmtA)
  /-- BMUL2 (R195): Packed BF16 multiply. -/
  | bmul2 (w : FmtA)
  /-- BFMA2 (R195): Packed BF16 fused multiply-add. -/
  | bfma2 (w : FmtA)
  /-- FAMAX (R190): Destination := maxNumber(destination, |a|). -/
  | famax (w : FmtA)
  /-- CVT (R196): Converts between FP32, FP16, BF16 and integer types with the coded rounding. -/
  | cvt (w : FmtX) (t : BitVec 3) (s : BitVec 3) (m : BitVec 2)
  /-- CVTN (R212): Converts two FP32 values to E4M3, E5M2 or E2M1 codes merged into the destination. -/
  | cvtn (w : FmtA)
  /-- QSCALE (R215): Turns an absolute maximum into an E8M0 block scale. -/
  | qscale (w : FmtA)
  /-- CBLD (R216): Loads a 64-byte codebook block from scratchpad into the cluster table and team image. -/
  | cbld (w : FmtX) (k : BitVec 4)
  /-- CBDEC (R218): Decodes an LC2 index into eight E4M3 codes. -/
  | cbdec (w : FmtA)
  /-- MMA (R237): Adds A x B over one K-chunk into a tile with one rounding per element. -/
  | mma (w : FmtT)
  /-- MMAF (R238): Four-in-hand matrix operation sharing B quarters across the set at a rendezvous. -/
  | mmaf (w : FmtT)
  /-- MMAZ (R237): Overwrites a tile with A x B over one K-chunk. -/
  | mmaz (w : FmtT)
  /-- TZERO (R243): Writes +0.0 to the active rows of a tile. -/
  | tzero (w : FmtT)
  /-- TRD (R245): Copies tile rows into a register block. -/
  | trd (w : FmtT)
  /-- TWR (R246): Writes a register block into tile rows. -/
  | twr (w : FmtT)
  /-- TWM (R247): Writes the tile's watermark to a uniform register. -/
  | twm (w : FmtT)
  /-- FHSET (R239): Records or dissolves the group's four-in-hand specification. -/
  | fhset (w : FmtX)
  /-- TCVT (R248): Converts FP32 tile rows into packed BF16 or FP8 A-operand form. -/
  | tcvt (w : FmtT)
  /-- TSCL (R249): Applies row and column scales to a tile with one rounding. -/
  | tscl (w : FmtT)
  /-- LDB (R267): Loads one byte, zero-extended. -/
  | ldb (w : FmtM)
  /-- LDH (R267): Loads a halfword, zero-extended. -/
  | ldh (w : FmtM)
  /-- LDW (R267): Loads a word. -/
  | ldw (w : FmtM)
  /-- LDD (R267): Loads a doubleword. -/
  | ldd (w : FmtM)
  /-- LDQ (R267): Loads 16 bytes. -/
  | ldq (w : FmtM)
  /-- STB (R267): Stores one byte. -/
  | stb (w : FmtM)
  /-- STH (R267): Stores a halfword. -/
  | sth (w : FmtM)
  /-- STW (R267): Stores a word. -/
  | stw (w : FmtM)
  /-- STD (R267): Stores a doubleword. -/
  | std (w : FmtM)
  /-- STQ (R267): Stores 16 bytes. -/
  | stq (w : FmtM)
  /-- LDX_LDSC (R361): Loads a federated cell's lowest-die word and token at its home. -/
  | ldxLdsc (w : FmtX) (r : BitVec 2)
  /-- LDX_LSIB (R361): Loads sibling i of a federated cell with its dot and token. -/
  | ldxLsib (w : FmtX) (r : BitVec 2) (i : BitVec 3)
  /-- LDX_LDNC (R275): Load that neither reads nor fills the L1. -/
  | ldxLdnc (w : FmtX) (r : BitVec 2) (s : BitVec 3)
  /-- LDX_PREF (R276): Prefetches a line into the L1 and entry slice; failures are dropped. -/
  | ldxPref (w : FmtX)
  /-- LDS (R273): Loads from the team's scratchpad. -/
  | lds (w : FmtM)
  /-- STS (R273): Stores to the team's scratchpad, refusing the barrier area. -/
  | sts (w : FmtM)
  /-- MEMX_FENCE (R278): Blocks memory issue until all counters are zero, with package-scope write-back and invalidation where named. -/
  | memxFence (w : FmtX) (s : BitVec 4)
  /-- MEMX_FENCEVA (R279): Waits for W = 0 and invalidates the cluster's L1 to order virtual aliases. -/
  | memxFenceva (w : FmtX)
  /-- MEMX_WAITC (R280): Blocks the fragment until a counter is at or below a threshold. -/
  | memxWaitc (w : FmtX) (c : BitVec 4)
  /-- MEMX_CNTQ (R281): Writes the named counter's value. -/
  | memxCntq (w : FmtX) (c : BitVec 4)
  /-- MEMX_CINV (R282): Invalidates a VA range in the cluster's L1. -/
  | memxCinv (w : FmtX)
  /-- MEMX_SPLITQ (R283): Writes the team's SCRATCH and the cluster's split. -/
  | memxSplitq (w : FmtX)
  /-- DRAY_COPY (R317): Dray command copying bytes between memory and scratchpad. -/
  | drayCopy (w : FmtX) (m : BitVec 1)
  /-- DRAY_COPY2D (R317): Dray command copying strided rows. -/
  | drayCopy2d (w : FmtX) (m : BitVec 1)
  /-- DRAY_GATHER (R317): Dray command gathering indexed elements. -/
  | drayGather (w : FmtX) (m : BitVec 1)
  /-- DRAY_SCATTER (R317): Dray command scattering elements to indexed places. -/
  | drayScatter (w : FmtX) (m : BitVec 1)
  /-- DRAY_SPILL (R317): Dray command writing tile rows to memory. -/
  | draySpill (w : FmtX) (m : BitVec 1)
  /-- DRAY_GCOPY (R323): Dray command copying federated cells with siblings, dots and stamps. -/
  | drayGcopy (w : FmtX) (m : BitVec 1)
  /-- DRAY_PUT (R317): Dray command writing to a Coupler window of another package. -/
  | drayPut (w : FmtX) (m : BitVec 1)
  /-- DRAY_GET (R317): Dray command reading from a Coupler window. -/
  | drayGet (w : FmtX) (m : BitVec 1)
  /-- DRAY_FILL (R317): Dray command filling a range with a pattern. -/
  | drayFill (w : FmtX) (m : BitVec 1)
  /-- DRAY_POOLFILL (R332): Fills a pool range, near memory or emulated. -/
  | drayPoolfill (w : FmtX) (m : BitVec 1)
  /-- DRAY_POOLCMP (R332): Compares two ranges and stores the first differing offset. -/
  | drayPoolcmp (w : FmtX) (m : BitVec 1)
  /-- DRAY_POOLRED (R333): Reduces an operand range into a pool range element by element. -/
  | drayPoolred (w : FmtX) (m : BitVec 1)
  /-- DRAY_PUB (R329): Swaps a publishable buffer's front and shadow frames at one point. -/
  | drayPub (w : FmtX) (m : BitVec 1)
  /-- DRAY_STAT (R327): Writes the state of a Dray command id. -/
  | drayStat (w : FmtX)
  /-- DWAIT_ONE (R326): Waits for one Dray command id and reports its logged failure. -/
  | dwaitOne (w : FmtX)
  /-- DWAIT_ALL (R326): Waits for all earlier Dray commands and reports the oldest logged failure. -/
  | dwaitAll (w : FmtX)
  /-- BAR_INIT (R338): Initialises a barrier object's arrivals and bytes. -/
  | barInit (w : FmtX)
  /-- BAR_ARR (R340): One arrival at a barrier object, a team-scope release. -/
  | barArr (w : FmtX)
  /-- BAR_ARRN (R338): n arrivals at a barrier object. -/
  | barArrn (w : FmtX)
  /-- BAR_EXPB (R338): Announces bytes expected in the current phase. -/
  | barExpb (w : FmtX)
  /-- BAR_WAIT (R338): Blocks until the phase of the given parity completes; a team-scope acquire. -/
  | barWait (w : FmtX) (p : BitVec 1)
  /-- BAR_TRY (R338): Tests whether the phase of the given parity has completed. -/
  | barTry (w : FmtX) (p : BitVec 1)
  /-- BAR_QRY (R338): Returns the barrier object's state. -/
  | barQry (w : FmtX)
  /-- ATARITH_ADD (R342): Returning atomic add at home. -/
  | atarithAdd (w : FmtAT)
  /-- ATARITH_FADD (R342): Returning atomic FP32 add at home. -/
  | atarithFadd (w : FmtAT)
  /-- ATARITH_DECP (R342): Returning atomic decrement if the old value is at least B. -/
  | atarithDecp (w : FmtAT)
  /-- ATARITH_INCW (R342): Returning atomic increment wrapping to 0 at B. -/
  | atarithIncw (w : FmtAT)
  /-- ATMINMAX_MIN (R342): Returning atomic signed minimum. -/
  | atminmaxMin (w : FmtAT)
  /-- ATMINMAX_MAX (R342): Returning atomic signed maximum. -/
  | atminmaxMax (w : FmtAT)
  /-- ATMINMAX_MINU (R342): Returning atomic unsigned minimum. -/
  | atminmaxMinu (w : FmtAT)
  /-- ATMINMAX_MAXU (R342): Returning atomic unsigned maximum. -/
  | atminmaxMaxu (w : FmtAT)
  /-- ATLOGIC_AND (R342): Returning atomic and. -/
  | atlogicAnd (w : FmtAT)
  /-- ATLOGIC_OR (R342): Returning atomic or. -/
  | atlogicOr (w : FmtAT)
  /-- ATLOGIC_XOR (R342): Returning atomic xor. -/
  | atlogicXor (w : FmtAT)
  /-- ATLOGIC_SWAP (R342): Returning atomic swap. -/
  | atlogicSwap (w : FmtAT)
  /-- ATCAS_CAS32 (R342): 32-bit compare-and-swap at home. -/
  | atcasCas32 (w : FmtAT)
  /-- ATCAS_CAS64 (R342): 64-bit compare-and-swap at home. -/
  | atcasCas64 (w : FmtAT)
  /-- ATCAS_ADD64 (R342): Returning 64-bit atomic add. -/
  | atcasAdd64 (w : FmtAT)
  /-- RED_ADD (R345): Non-returning atomic add, mergeable in routers. -/
  | redAdd (w : FmtAT)
  /-- RED_FADD (R345): Non-returning atomic FP32 add. -/
  | redFadd (w : FmtAT)
  /-- RED_MIN (R345): Non-returning atomic signed minimum. -/
  | redMin (w : FmtAT)
  /-- RED_MAX (R345): Non-returning atomic signed maximum. -/
  | redMax (w : FmtAT)
  /-- WAITA (R347): Compares a cell with an expected value and arms a monitor in one step at home. -/
  | waita (w : FmtAT)
  /-- WAITA_TO (R347): WAITA with a timeout. -/
  | waitaTo (w : FmtAT)
  /-- WAKE_ONE (R350): Wakes the oldest monitor armed on a word. -/
  | wakeOne (w : FmtAT)
  /-- WAKE_ALL (R350): Wakes every monitor armed on a word. -/
  | wakeAll (w : FmtAT)
  /-- RCN (R362): Reconciles a federated cell with a 4-byte value if the token still matches. -/
  | rcn (w : FmtAT)
  /-- RCN_D (R362): Reconciles a federated cell with an 8-byte value. -/
  | rcnD (w : FmtAT)
  /-- SEND (R354): Writes a 128-byte slot into the target team's channel ring, blocking for room. -/
  | send (w : FmtX) (c : BitVec 6)
  /-- RECV (R355): Claims the oldest full slot of a channel ring into a register. -/
  | recv (w : FmtX) (c : BitVec 6)
  /-- CHQ (R355): Writes the channel's full-slot count and size. -/
  | chq (w : FmtX) (c : BitVec 6)
  /-- SYSCALL (R418): Raises SYSCALL to the die-kernel instance, resuming after the word. -/
  | syscall (w : FmtX)
  /-- ERET (R419): Resumes, kills lanes of, kills or starts a stopped context. -/
  | eret (w : FmtX)
  /-- WFI (R420): Blocks a kernel fragment until a ring record, relay message, doorbell or timer. -/
  | wfi (w : FmtX)
  /-- HALT (R421): Stops all issue on the SMC core until reset. -/
  | halt (w : FmtX)
  /-- CSRR (R422): Reads a CSR into a uniform register. -/
  | csrr (w : FmtL)
  /-- CSRW (R422): Writes a uniform register to a CSR. -/
  | csrw (w : FmtL)
  /-- RLY_SEND (R423): Sends a 64-byte message to relay instances or the SMC service queue. -/
  | rlySend (w : FmtX)
  /-- RLY_RECV (R423): Stores the oldest received message to memory without blocking. -/
  | rlyRecv (w : FmtX)
  /-- RLY_POLL (R423): Returns the receive-queue length. -/
  | rlyPoll (w : FmtX)
  /-- XLAT_INVR (R303): Invalidates translations of a range on the issuing die only. -/
  | xlatInvr (w : FmtX)
  /-- XLAT_BLOCK (R303): Sends a BLOCK relay message for a range to every die of the VD. -/
  | xlatBlock (w : FmtX)
  /-- XLAT_PURGE (R303): Sends a PURGE relay message for a range to every die of the VD. -/
  | xlatPurge (w : FmtX)
  /-- XLAT_PROBE (R304): Walks a translation without filling or faulting and returns the result. -/
  | xlatProbe (w : FmtX)
  /-- XLAT_SCRUB (R305): Zero-fills HBM frames and removes every cached trace of them. -/
  | xlatScrub (w : FmtX)
  /-- XLAT_PIN (R306): Sets or clears PIN in the stage-2 leaves of a GPA range. -/
  | xlatPin (w : FmtX)
  /-- PWR_ISLQ (R424): Reads a field's ISLIM. -/
  | pwrIslq (w : FmtX) (f : BitVec 3)
  /-- PWR_DORM (R424): Returns STATE and, when idle, expires the idle timer at once. -/
  | pwrDorm (w : FmtX)
  /-- PWR_WAKEQ (R424): Returns state, wake class, last wake cause and duration. -/
  | pwrWakeq (w : FmtX)
  /-- LAUNCH (R39): Write of a launch word to the front end, checked and either dropped or accepted whole. -/
  | launch (vd : Nat) (off : Nat) (size : Nat) (val : BitVec 64)
  /-- WAKE_WRITE (R53): A write to the front end's WAKE register wakes the VD. -/
  | wakeWrite (vd : Nat) (size : Nat)
  /-- REGISTER_WRITE (R8): Write to a register with no behaviour of its own. -/
  | registerWrite (vd : Nat) (off : Nat) (size : Nat) (val : BitVec 64)
  /-- HWBASE_WRITE (R434): Write of the aperture base, taking effect for later aperture accesses. -/
  | hwbaseWrite (vd : Nat) (val : BitVec 64)
  /-- HOST_APERTURE_ACCESS (R434): A host access through the memory aperture is translated and performed at home, or aborted. -/
  | hostApertureAccess (vd : Nat) (off : Nat) (size : Nat) (isWrite : Bool) (val : Nat)
  /-- FUNCTION_LEVEL_RESET (R432): PCI Express function-level reset: a VF reset for a VF, mailbox reset for the PF. -/
  | functionLevelReset (fn : Nat)
  /-- REGISTER_A_GRAPH (R27): Mailbox operation 0x01: registration checks, copy to the code region, distribution and reply word. -/
  | registerAGraph (vd : Nat)
  /-- UNREGISTER (R32): Mailbox operation 0x02: unregisters a handle at one point in the front end. -/
  | unregister (vd : Nat)
  /-- CREATE_A_VD (R34): Mailbox management operation 0x10: the SMC checks a VD descriptor and creates the VD or refuses it. -/
  | createAVd (desc : Option (List (BitVec 8))) (setup : VdSetup)
  /-- DESTROY_A_VD (R54): Mailbox management operation 0x11: resets, scrubs and frees a VD. -/
  | destroyAVd (num : Option Nat)
  /-- RESET_THE_VF (R411): Mailbox management operation 0x12: starts a VF reset. -/
  | resetTheVf (num : Option Nat)
  /-- UNKNOWN_OPERATION_CODE (R433): A mailbox doorbell with an unknown or disallowed code replies BADOP. -/
  | unknownOperationCode (vd : Nat)
  /-- VF_RESET (R411): Reset of one VD on every die: stop, reclaim, abort collectives, write back, restart instances, post RESET records. -/
  | vfReset (vd : Nat)
  /-- DISPATCH_TEAM (R59): A dispatcher makes the lowest undispatched team resident on a fitting cluster once one fits. -/
  | dispatchTeam (vd : Nat) (vdie : Nat)
  /-- STEAL_REQUEST (R64): An idle dispatcher sends a steal probe to the next victim. -/
  | stealRequest (vd : Nat) (vdie : Nat)
  /-- STEAL_HANDLED (R65): A victim gives the top half of its range or refuses. -/
  | stealHandled (id : Nat)
  /-- STEAL_REPLY (R65): A thief receives teams as its range or probes the next victim after a refusal. -/
  | stealReply (id : Nat)
  /-- COMPACTION_MOVE (R70): The compactor moves a live register/tile or scratchpad block to make room. -/
  | compactionMove (die : Nat) (cluster : Nat) (blk : Block) (dst : Nat)
  /-- COMPACTOR_RETRY (R70): Every 256 cycles the compactor tries again to fit a waiting team. -/
  | compactorRetry (vd : Nat) (vdie : Nat)
  /-- STEERING_CAP (R74): A matrix-heavy team held by steering is placed 100 us after it first fitted. -/
  | steeringCap (vd : Nat) (vdie : Nat)
  /-- IMEAS_UPDATE (R73): Every microsecond the field's mean current is updated, entering or leaving steering. -/
  | imeasUpdate (field : Nat) (val : BitVec 16)
  /-- TOKEN_REFILL (R43): Each microsecond a VD's token bucket gains RREQ tokens up to its depth. -/
  | tokenRefill (vd : Nat) (die : Nat)
  /-- EGRESS_RELEASE (R43): The oldest waiting request takes tokens and leaves its egress queue once tokens suffice. -/
  | egressRelease (vd : Nat) (die : Nat)
  /-- SURGE_GRANT (R45): The field arbiter grants up to 8 start requests per 64-cycle window. -/
  | surgeGrant (field : Nat)
  /-- DIE_FAILURE (R63): A compute die fails: its teams are lost, ranges pass on, frames are lost and records posted. -/
  | dieFailure (die : Nat)
  /-- WORK_BEGINS (R52): Work arises without a launch and brings the VD out of idle or starts a wake. -/
  | workBegins (vd : Nat)
  /-- WORK_ENDS (R46): An active VD without work enters idle and starts its timer. -/
  | workEnds (vd : Nat)
  /-- TIMER_EXPIRES (R52): The idle timer of IDLEMS expires and collapse begins. -/
  | timerExpires (vd : Nat)
  /-- COLLAPSE_STEP_DONE (R47): A collapse step completes on every die; the next begins, or a waiting launch turns it to waking, or step 4 makes the VD dormant. -/
  | collapseStepDone (vd : Nat)
  /-- SAVE_FAULT_IN_STEP_1 (R52): A save fault during collapse returns the VD to idle with CFAIL set. -/
  | saveFaultInStep1 (vd : Nat)
  /-- WAKE_DONE (R52): A wake completes and the VD becomes active or idle. -/
  | wakeDone (vd : Nat) (us : BitVec 32)
  /-- ISSUE_CHOICE (R128): Each bay issues at most one word per cycle from the highest-class oldest ready group. -/
  | issueChoice (site : Site) (bay : Nat)
  /-- SLICE_REQUEST (R256): A request arrives at its entry slice, is translated and served, forwarded, stalled or refused. -/
  | sliceRequest (req : Nat)
  /-- HOME_PERFORM (R365): A request is performed at its home slice with L1 invalidations, monitors and siblings. -/
  | homePerform (req : Nat)
  /-- REMOTE_WRITEBACK (R258): Dirty remote words are written back to their home on eviction or recall. -/
  | remoteWriteback (die : Nat) (pa : Nat)
  /-- REPLY_ARRIVES (R261): A load's data or an acknowledgement returns, writing registers and lowering counters in order. -/
  | replyArrives (req : Nat)
  /-- REMAP_RESEND (R312): A request refused with REMAP is rehashed and sent again as a new request. -/
  | remapResend (req : Nat)
  /-- BLOCK_AT_SLICE (R298): A BLOCK relay message takes effect at a slice and is acknowledged. -/
  | blockAtSlice (op : Nat) (die : Nat) (slice : Nat)
  /-- PURGE_AT_SLICE (R299): A PURGE relay message invalidates, drains, writes back, purges, unlocks and acknowledges at a slice. -/
  | purgeAtSlice (op : Nat) (die : Nat) (slice : Nat)
  /-- SHOOTDOWN_COMPLETE (R303): The last die's acknowledgement writes the XLAT status. -/
  | shootdownComplete (op : Nat)
  /-- PUB_SLICE_BLOCK (R329): A PUB blocks, drains and purges the buffer at each slice of its scope and acknowledges. -/
  | pubSliceBlock (cmd : Nat) (die : Nat) (slice : Nat)
  /-- SWAP_POINT (R329): When all slices have acknowledged, the record's home inverts FRONT and increments GEN, then lifts the blocks. -/
  | swapPoint (cmd : Nat)
  /-- SLICE_MAP_CHANGE (R313): The SMC installs a new slice map and hands lines over to their new homes. -/
  | sliceMapChange (die : Nat) (keep : BitVec 64)
  /-- SWEEP_PASS_START (R384): A sweep pass snapshots every die's release count and starts aging dots. -/
  | sweepPassStart (vd : Nat)
  /-- SWEEP_PASS_END (R385): When every slice has finished, vectors are floored and the next pass begins. -/
  | sweepPassEnd (vd : Nat)
  /-- DRAY_UNIT_DONE (R322): A Dray unit lands or is written, crediting barrier bytes. -/
  | drayUnitDone (cmd : Nat)
  /-- DRAY_COMPLETE (R324): A Dray command completes or fails, lowering counters, freeing its slot and logging failures. -/
  | drayComplete (cmd : Nat) (err : Option DrayErr)
  /-- DRAY_REMAINDER_RESUME (R325): A saved Dray remainder takes a free slot after restore and resumes. -/
  | drayRemainderResume (handle : Nat) (vd : Nat)
  /-- POOL_RESPONSE (R331): A CXL.mem response's DevLoad sets the VD's pace level on the port. -/
  | poolResponse (port : Nat) (vd : Nat) (devLoad : BitVec 2)
  /-- MONITOR_WAKE (R349): An armed monitor wakes its waiter for store, wake, evict or restore, writing the status. -/
  | monitorWake (mon : Nat)
  /-- WAITA_TIMEOUT (R349): A timed monitor expires and wakes its waiter with TIMEOUT. -/
  | waitaTimeout (mon : Nat)
  /-- MMAF_RENDEZVOUS (R240): The fourth member arrives; formats compared and the operation started in all four arrays. -/
  | mmafRendezvous (team : Nat) (group : Nat)
  /-- WFI_WAKE (R420): A WFI condition holds and the blocked kernel fragment becomes ready. -/
  | wfiWake (vd : Nat) (handle : Nat)
  /-- KTIMER_EXPIRES (R420): CYCLE reaches KTIMER and wakes the instance's WFI. -/
  | ktimerExpires (vd : Nat) (vdie : Nat)
  /-- GROUP_STOP (R395): A trap or fault stops a group: settles accesses, saves its context and frees its slot. -/
  | groupStop (vd : Nat) (handle : Nat)
  /-- SAVE_COMPLETE (R395): A stopped group's save finishes and its TRAP record is posted. -/
  | saveComplete (vd : Nat) (handle : Nat)
  /-- FAULT_RECORD_POST (R403): A record is written to the fault ring, waiting or discarded when the ring is full. -/
  | faultRecordPost (vd : Nat) (vdie : Nat)
  /-- SAVE_WRITE_FAULT (R410): A save write takes a stage-2 fault; SAVEF set and the SMC told. -/
  | saveWriteFault (vd : Nat) (handle : Nat)
  /-- GROUP_RESTORE (R400): A resumed group gets room, is restored and issues its replay entries first. -/
  | groupRestore (vd : Nat) (handle : Nat)
  /-- QUANTUM_EXPIRES (R407): At a team's quantum end it is pre-empted and saved, or a new quantum begins. -/
  | quantumExpires (team : Nat)
  /-- WATCHDOG (R409): Quiescence not reached 500 us after quantum end kills the VD's groups on the cluster. -/
  | watchdog (die : Nat) (cluster : Nat)
  /-- DRAIN_END (R426): A draining group's traffic is all home: it posts its records and frees its resources. -/
  | drainEnd (vd : Nat) (handle : Nat)
  /-- TEAM_RETIRE (R427): Every group of a team has drained or been killed; its scratchpad frees and its node may complete. -/
  | teamRetire (team : Nat)
  /-- RELAY_MESSAGE_ARRIVES (R416): A relay message reaches an instance's receive queue in sequence order. -/
  | relayMessageArrives (vd : Nat) (vdie : Nat)
  /-- OPENT (R437): SMC service: opens a target Coupler window. -/
  | opent (vd : Nat)
  /-- OPENS (R437): SMC service: opens a source path to a remote window. -/
  | opens (vd : Nat) (peer : PeerAnswer)
  /-- CLOSE (R437): SMC service: closes a target window or source path. -/
  | close (vd : Nat)
  /-- ABORT (R436): SMC service: aborts a collective, setting PEER-ABORT in every counter of the tag. -/
  | abort (vd : Nat)
  /-- COUPLER_PUT_ARRIVES (R435): A PUT's bytes are performed at the target and its counter increments. -/
  | couplerPutArrives (win : Nat) (off : Nat) (bytes : List (BitVec 8)) (part : PutPart)
  /-- PUT_ACKNOWLEDGED (R435): The target's acknowledgement returns, incrementing the source counter and lowering F. -/
  | putAcknowledged (cmd : Nat)
  /-- INTEGRITY (R439): A carried-check mismatch on data leaving faults the load or posts an INTEGRITY record. -/
  | integrity (req : Nat) (pa : Nat)
  /-- FIELD_IN_SERVICE (R431): A field passes calibration and enters service during bring-up. -/
  | fieldInService (field : Nat)
  /-- EARLY_SERVICE_END (R431): Die 0 moves from 1.2 GHz to 2.5 GHz once paths are calibrated and field 7 is up. -/
  | earlyServiceEnd
  /-- FIELD_RECALIBRATION (R440): A field is recalibrated while the rest runs, aborted by a wake. -/
  | fieldRecalibration (field : Nat)
  /-- HBM_CHANNEL_SERVICE (R440): An HBM channel is serviced while requests for its lines are held. -/
  | hbmChannelService (die : Nat) (chan : Nat)
  /-- COUPLER_PORT_SERVICE (R440): A Coupler port is serviced and its messages resent on other ports. -/
  | couplerPortService (port : Nat)
  /-- SMC_FAILOVER (R440): The active SMC halts and the standby takes over. -/
  | smcFailover
  /-- PACKAGE_RESET (R179): Package reset and power-on set every slice's stamp counter so that its next value is 1, and start bring-up, after which each field's CYCLE counts from zero. -/
  | packageReset
  /-- MANAGEMENT_PATH_WRITE (R73): The SMC writes ILIM or clears CFAIL or SAVEF through its management path, which can change steering or restart a VD's stopped idle timer. -/
  | managementPathWrite (what : MgmtWrite)
  /-- PEER_ABORT (R436): An abort of a collective made on another package reaches this package over the Coupler and sets PEER-ABORT in both counters of every window of the tag, failing later PUT and GET with ABORT. -/
  | peerAbort (tag : BitVec 16)
  /-- RECALIBRATION_END (R428): The end of a recalibration, slice-map change or SMC failover lets an idle timer that expired during the work take effect, and placement on the field resumes. -/
  | recalibrationEnd (field : Nat)
  /-- COMPUTE_DIE_RETIREMENT (R56): The SMC retires a compute die that no VD's die table names, so that later descriptors naming it are refused with PDIE. -/
  | computeDieRetirement (die : Nat)
  deriving DecidableEq, Repr

end Sys2Proof
end

