-- ==== Sys2Proof/Decode.lean ====
section
/-! DEFINITION. Decode.lean: the decoder of instruction words, total on any word and any bytes, and after it the encoder
(04 R95-R105; 05 R116-R122). A word that matches no row of the opcode table is rejected by name; which field values of a
decoded word are legal is said in Machine/Legal.lean. -/

namespace Sys2Proof

/-- Why a word is no instruction; each makes the word raise ILLEGAL (05 R123). -/
inductive DecodeError where
  /-- The major opcode is unassigned (05 R116). -/
  | unassignedMajor
  /-- A reserved bit of the format is 1 (04 R97, R101, R102). -/
  | reservedBit
  /-- The fn value is not listed in 05 Table 5.3 (R120). -/
  | badFn
  /-- The sub value is illegal in 05 Table 5.4 (R121). -/
  | badSub
  /-- Fewer than four bytes. -/
  | short
  deriving DecidableEq, Repr

/-- Bit i of a word (00 R6). -/
def bitAt (w : Word) (i : Nat) : Bool := w.getLsbD i

def fieldsA (w : Word) : FmtA :=
  { d := w.extractLsb' 18 7, a := w.extractLsb' 11 7, b := w.extractLsb' 4 7, x := bitAt w 3, u := bitAt w 2, n := bitAt w 1, z := bitAt w 0 }

def fieldsJ (w : Word) : FmtJ :=
  { d := w.extractLsb' 18 7, a := w.extractLsb' 11 7, b := w.extractLsb' 4 7, u := bitAt w 2, n := bitAt w 1, z := bitAt w 0 }

def fieldsP (w : Word) : FmtP :=
  { pd := w.extractLsb' 22 3, cond := w.extractLsb' 18 4, a := w.extractLsb' 11 7, b := w.extractLsb' 4 7, x := bitAt w 3, u := bitAt w 2, z := bitAt w 0 }

def fieldsQ (w : Word) : FmtQ :=
  { d := w.extractLsb' 18 7, a := w.extractLsb' 11 7, b := w.extractLsb' 4 7, ps := w.extractLsb' 1 3, n := bitAt w 0 }

def fieldsL (w : Word) : FmtL :=
  { d := w.extractLsb' 18 7, imm := w.extractLsb' 2 16, u := bitAt w 1, z := bitAt w 0 }

def fieldsM (w : Word) : FmtM :=
  { d := w.extractLsb' 18 7, a := w.extractLsb' 11 7, off := w.extractLsb' 4 7, ord := w.extractLsb' 2 2, u := bitAt w 1, z := bitAt w 0 }

def fieldsAT (w : Word) : FmtAT :=
  { d := w.extractLsb' 18 7, a := w.extractLsb' 11 7, b := w.extractLsb' 4 7, ar := bitAt w 1 }

def fieldsC (w : Word) : FmtC :=
  { p := w.extractLsb' 22 3, n := bitAt w 21, off := w.extractLsb' 2 19, u := bitAt w 1 }

def fieldsT (w : Word) : FmtT :=
  { td := w.extractLsb' 21 4, a := w.extractLsb' 14 7, b := w.extractLsb' 7 7, f := w.extractLsb' 0 7 }

def fieldsX (w : Word) : FmtX :=
  { d := w.extractLsb' 18 7, a := w.extractLsb' 11 7, u := bitAt w 2, n := bitAt w 1, z := bitAt w 0 }

def fieldsS (w : Word) : FmtS :=
  { a := w.extractLsb' 18 7, cnt := w.extractLsb' 15 3, recon := w.extractLsb' 0 15 }

/-- A format P word, unless its reserved bit 1 is set (04 R97). -/
def wordP (w : Word) (i : Instr) : Except DecodeError Instr := if bitAt w 1 then .error .reservedBit else .ok i

/-- A format AT or C word, unless its reserved bit 0 is set (04 R101, R102). -/
def wordEven (w : Word) (i : Instr) : Except DecodeError Instr := if bitAt w 0 then .error .reservedBit else .ok i

/-- The sub-functions of major 0x04 (05 Table 5.3). -/
def fnOf04 (x : FmtX) (fn : BitVec 8) : Except DecodeError Instr :=
  match fn with
  | 0x00#8 => .ok (.ret x)
  | _ => .error .badFn

/-- The sub-functions of major 0x08 (05 Table 5.3). -/
def fnOf08 (x : FmtX) (fn : BitVec 8) : Except DecodeError Instr :=
  match fn with
  | 0x00#8 => .ok (.join x)
  | _ => .error .badFn

/-- The sub-functions of major 0x0A (05 Table 5.3). -/
def fnOf0A (x : FmtX) (fn : BitVec 8) : Except DecodeError Instr :=
  match fn with
  | 0x00#8 => .ok (.exit x)
  | _ => .error .badFn

/-- The sub-functions of major 0x0B (05 Table 5.3). -/
def fnOf0B (x : FmtX) (fn : BitVec 8) : Except DecodeError Instr :=
  match fn with
  | 0x00#8 => .ok (.nop x)
  | 0x01#8 => .ok (.yield x)
  | _ => .error .badFn

/-- The sub-functions of major 0x0C (05 Table 5.3). -/
def fnOf0C (x : FmtX) (fn : BitVec 8) : Except DecodeError Instr :=
  match fn with
  | 0x00#8 => .ok (.voteAny x)
  | 0x01#8 => .ok (.voteAll x)
  | 0x02#8 => .ok (.voteBallot x)
  | 0x03#8 => .ok (.voteCount x)
  | 0x04#8 => .ok (.voteFirst x)
  | 0x05#8 => .ok (.voteUniq x)
  | _ => .error .badFn

/-- The sub-functions of major 0x0E (05 Table 5.3). -/
def fnOf0E (x : FmtX) (fn : BitVec 8) : Except DecodeError Instr :=
  if fn.extractLsb' 7 1 = 0 then .ok (.trap x (fn.extractLsb' 0 7))
  else if fn.extractLsb' 7 1 = 1 then .ok (.bkpt x (fn.extractLsb' 0 7))
  else .error .badFn

/-- The sub-functions of major 0x0F (05 Table 5.3). -/
def fnOf0F (x : FmtX) (fn : BitVec 8) : Except DecodeError Instr :=
  match fn with
  | 0x00#8 => .ok (.dstkDepth x)
  | 0x01#8 => .ok (.dstkSpill x)
  | 0x02#8 => .ok (.dstkFill x)
  | _ => .error .badFn

/-- The sub-functions of major 0x1A (05 Table 5.3). -/
def fnOf1A (x : FmtX) (fn : BitVec 8) : Except DecodeError Instr :=
  match fn with
  | 0x00#8 => .ok (.iunaryNeg x)
  | 0x01#8 => .ok (.iunaryAbs x)
  | 0x02#8 => .ok (.iunaryNot x)
  | 0x03#8 => .ok (.iunaryPopc x)
  | 0x04#8 => .ok (.iunaryClz x)
  | 0x05#8 => .ok (.iunaryCtz x)
  | 0x06#8 => .ok (.iunaryBrev x)
  | 0x07#8 => .ok (.iunaryBswap x)
  | 0x08#8 => .ok (.iunarySextb x)
  | 0x09#8 => .ok (.iunarySexth x)
  | _ => .error .badFn

/-- The sub-functions of major 0x30 (05 Table 5.3). -/
def fnOf30 (x : FmtX) (fn : BitVec 8) : Except DecodeError Instr :=
  if fn.extractLsb' 6 2 = 0 then .ok (.laneShup x (fn.extractLsb' 5 1) (fn.extractLsb' 0 5))
  else if fn.extractLsb' 6 2 = 1 then .ok (.laneShdn x (fn.extractLsb' 5 1) (fn.extractLsb' 0 5))
  else if fn.extractLsb' 5 3 = 4 then .ok (.laneXor x (fn.extractLsb' 0 5))
  else .error .badFn

/-- The sub-functions of major 0x33 (05 Table 5.3). -/
def fnOf33 (x : FmtX) (fn : BitVec 8) : Except DecodeError Instr :=
  match fn with
  | 0x00#8 => .ok (.gredAdd x)
  | 0x01#8 => .ok (.gredMin x)
  | 0x02#8 => .ok (.gredMax x)
  | 0x03#8 => .ok (.gredMinu x)
  | 0x04#8 => .ok (.gredMaxu x)
  | 0x05#8 => .ok (.gredAnd x)
  | 0x06#8 => .ok (.gredOr x)
  | 0x07#8 => .ok (.gredXor x)
  | 0x08#8 => .ok (.gredFadd x)
  | 0x09#8 => .ok (.gredFmin x)
  | 0x0A#8 => .ok (.gredFmax x)
  | _ => .error .badFn

/-- The sub-functions of major 0x34 (05 Table 5.3). -/
def fnOf34 (x : FmtX) (fn : BitVec 8) : Except DecodeError Instr :=
  if fn.extractLsb' 0 7 = 0 then .ok (.gscanAdd x (fn.extractLsb' 7 1))
  else if fn.extractLsb' 0 7 = 1 then .ok (.gscanMin x (fn.extractLsb' 7 1))
  else if fn.extractLsb' 0 7 = 2 then .ok (.gscanMax x (fn.extractLsb' 7 1))
  else .error .badFn

/-- The sub-functions of major 0x35 (05 Table 5.3). -/
def fnOf35 (x : FmtX) (fn : BitVec 8) : Except DecodeError Instr :=
  match fn with
  | 0x00#8 => .ok (.getidLane x)
  | 0x01#8 => .ok (.getidGroup x)
  | 0x02#8 => .ok (.getidTeamx x)
  | 0x03#8 => .ok (.getidTeamy x)
  | 0x04#8 => .ok (.getidTeamz x)
  | 0x05#8 => .ok (.getidRole x)
  | 0x06#8 => .ok (.getidVdie x)
  | 0x07#8 => .ok (.getidNvdie x)
  | 0x08#8 => .ok (.getidCluster x)
  | 0x09#8 => .ok (.getidBay x)
  | 0x0A#8 => .ok (.getidGridx x)
  | 0x0B#8 => .ok (.getidGridy x)
  | 0x0C#8 => .ok (.getidGridz x)
  | _ => .error .badFn

/-- The sub-functions of major 0x37 (05 Table 5.3). -/
def fnOf37 (x : FmtX) (fn : BitVec 8) : Except DecodeError Instr :=
  match fn with
  | 0x00#8 => .ok (.cycle x)
  | _ => .error .badFn

/-- The sub-functions of major 0x3F (05 Table 5.3). -/
def fnOf3F (x : FmtX) (fn : BitVec 8) : Except DecodeError Instr :=
  match fn with
  | 0x00#8 => .ok (.funaryNeg x)
  | 0x01#8 => .ok (.funaryAbs x)
  | 0x02#8 => .ok (.funaryRcp x)
  | 0x03#8 => .ok (.funaryRsq x)
  | 0x04#8 => .ok (.funarySqrt x)
  | 0x05#8 => .ok (.funaryExp2 x)
  | 0x06#8 => .ok (.funaryLog2 x)
  | 0x07#8 => .ok (.funarySinpi x)
  | 0x08#8 => .ok (.funaryCospi x)
  | 0x09#8 => .ok (.funaryFloor x)
  | 0x0A#8 => .ok (.funaryCeil x)
  | 0x0B#8 => .ok (.funaryTrunc x)
  | 0x0C#8 => .ok (.funaryRndne x)
  | 0x0D#8 => .ok (.funaryFract x)
  | _ => .error .badFn

/-- The sub-functions of major 0x48 (05 Table 5.3). -/
def fnOf48 (x : FmtX) (fn : BitVec 8) : Except DecodeError Instr :=
  .ok (.cvt x (fn.extractLsb' 5 3) (fn.extractLsb' 2 3) (fn.extractLsb' 0 2))

/-- The sub-functions of major 0x4B (05 Table 5.3). -/
def fnOf4B (x : FmtX) (fn : BitVec 8) : Except DecodeError Instr :=
  if fn.extractLsb' 4 4 = 0 then .ok (.cbld x (fn.extractLsb' 0 4))
  else .error .badFn

/-- The sub-functions of major 0x57 (05 Table 5.3). -/
def fnOf57 (x : FmtX) (fn : BitVec 8) : Except DecodeError Instr :=
  match fn with
  | 0x00#8 => .ok (.fhset x)
  | _ => .error .badFn

/-- The sub-functions of major 0x64 (05 Table 5.3). -/
def fnOf64 (x : FmtX) (fn : BitVec 8) : Except DecodeError Instr :=
  if fn.extractLsb' 0 6 = 0 then .ok (.ldxLdsc x (fn.extractLsb' 6 2))
  else if fn.extractLsb' 0 3 = 1 then .ok (.ldxLsib x (fn.extractLsb' 6 2) (fn.extractLsb' 3 3))
  else if fn.extractLsb' 0 3 = 2 then .ok (.ldxLdnc x (fn.extractLsb' 6 2) (fn.extractLsb' 3 3))
  else if fn.extractLsb' 0 8 = 3 then .ok (.ldxPref x)
  else .error .badFn

/-- The sub-functions of major 0x67 (05 Table 5.3). -/
def fnOf67 (x : FmtX) (fn : BitVec 8) : Except DecodeError Instr :=
  if fn.extractLsb' 4 4 = 0 then .ok (.memxFence x (fn.extractLsb' 0 4))
  else if fn.extractLsb' 0 8 = 16 then .ok (.memxFenceva x)
  else if fn.extractLsb' 4 4 = 2 then .ok (.memxWaitc x (fn.extractLsb' 0 4))
  else if fn.extractLsb' 4 4 = 3 then .ok (.memxCntq x (fn.extractLsb' 0 4))
  else if fn.extractLsb' 0 8 = 64 then .ok (.memxCinv x)
  else if fn.extractLsb' 0 8 = 80 then .ok (.memxSplitq x)
  else .error .badFn

/-- The sub-functions of major 0x68 (05 Table 5.3). -/
def fnOf68 (x : FmtX) (fn : BitVec 8) : Except DecodeError Instr :=
  if fn.extractLsb' 0 7 = 0 then .ok (.drayCopy x (fn.extractLsb' 7 1))
  else if fn.extractLsb' 0 7 = 1 then .ok (.drayCopy2d x (fn.extractLsb' 7 1))
  else if fn.extractLsb' 0 7 = 2 then .ok (.drayGather x (fn.extractLsb' 7 1))
  else if fn.extractLsb' 0 7 = 3 then .ok (.drayScatter x (fn.extractLsb' 7 1))
  else if fn.extractLsb' 0 7 = 4 then .ok (.draySpill x (fn.extractLsb' 7 1))
  else if fn.extractLsb' 0 7 = 5 then .ok (.drayGcopy x (fn.extractLsb' 7 1))
  else if fn.extractLsb' 0 7 = 6 then .ok (.drayPut x (fn.extractLsb' 7 1))
  else if fn.extractLsb' 0 7 = 7 then .ok (.drayGet x (fn.extractLsb' 7 1))
  else if fn.extractLsb' 0 7 = 8 then .ok (.drayFill x (fn.extractLsb' 7 1))
  else if fn.extractLsb' 0 7 = 9 then .ok (.drayPoolfill x (fn.extractLsb' 7 1))
  else if fn.extractLsb' 0 7 = 10 then .ok (.drayPoolcmp x (fn.extractLsb' 7 1))
  else if fn.extractLsb' 0 7 = 11 then .ok (.drayPoolred x (fn.extractLsb' 7 1))
  else if fn.extractLsb' 0 7 = 12 then .ok (.drayPub x (fn.extractLsb' 7 1))
  else if fn.extractLsb' 0 8 = 13 then .ok (.drayStat x)
  else .error .badFn

/-- The sub-functions of major 0x69 (05 Table 5.3). -/
def fnOf69 (x : FmtX) (fn : BitVec 8) : Except DecodeError Instr :=
  match fn with
  | 0x00#8 => .ok (.dwaitOne x)
  | 0x01#8 => .ok (.dwaitAll x)
  | _ => .error .badFn

/-- The sub-functions of major 0x6C (05 Table 5.3). -/
def fnOf6C (x : FmtX) (fn : BitVec 8) : Except DecodeError Instr :=
  if fn.extractLsb' 0 8 = 0 then .ok (.barInit x)
  else if fn.extractLsb' 0 8 = 16 then .ok (.barArr x)
  else if fn.extractLsb' 0 8 = 32 then .ok (.barArrn x)
  else if fn.extractLsb' 0 8 = 48 then .ok (.barExpb x)
  else if fn.extractLsb' 1 7 = 32 then .ok (.barWait x (fn.extractLsb' 0 1))
  else if fn.extractLsb' 1 7 = 40 then .ok (.barTry x (fn.extractLsb' 0 1))
  else if fn.extractLsb' 0 8 = 96 then .ok (.barQry x)
  else .error .badFn

/-- The sub-functions of major 0x75 (05 Table 5.3). -/
def fnOf75 (x : FmtX) (fn : BitVec 8) : Except DecodeError Instr :=
  if fn.extractLsb' 6 2 = 0 then .ok (.send x (fn.extractLsb' 0 6))
  else .error .badFn

/-- The sub-functions of major 0x76 (05 Table 5.3). -/
def fnOf76 (x : FmtX) (fn : BitVec 8) : Except DecodeError Instr :=
  if fn.extractLsb' 6 2 = 0 then .ok (.recv x (fn.extractLsb' 0 6))
  else .error .badFn

/-- The sub-functions of major 0x77 (05 Table 5.3). -/
def fnOf77 (x : FmtX) (fn : BitVec 8) : Except DecodeError Instr :=
  if fn.extractLsb' 6 2 = 0 then .ok (.chq x (fn.extractLsb' 0 6))
  else .error .badFn

/-- The sub-functions of major 0x78 (05 Table 5.3). -/
def fnOf78 (x : FmtX) (fn : BitVec 8) : Except DecodeError Instr :=
  match fn with
  | 0x00#8 => .ok (.syscall x)
  | 0x01#8 => .ok (.eret x)
  | 0x02#8 => .ok (.wfi x)
  | 0x03#8 => .ok (.halt x)
  | _ => .error .badFn

/-- The sub-functions of major 0x7B (05 Table 5.3). -/
def fnOf7B (x : FmtX) (fn : BitVec 8) : Except DecodeError Instr :=
  match fn with
  | 0x00#8 => .ok (.rlySend x)
  | 0x01#8 => .ok (.rlyRecv x)
  | 0x02#8 => .ok (.rlyPoll x)
  | _ => .error .badFn

/-- The sub-functions of major 0x7C (05 Table 5.3). -/
def fnOf7C (x : FmtX) (fn : BitVec 8) : Except DecodeError Instr :=
  match fn with
  | 0x00#8 => .ok (.xlatInvr x)
  | 0x01#8 => .ok (.xlatBlock x)
  | 0x02#8 => .ok (.xlatPurge x)
  | 0x03#8 => .ok (.xlatProbe x)
  | 0x04#8 => .ok (.xlatScrub x)
  | 0x05#8 => .ok (.xlatPin x)
  | _ => .error .badFn

/-- The sub-functions of major 0x7D (05 Table 5.3). -/
def fnOf7D (x : FmtX) (fn : BitVec 8) : Except DecodeError Instr :=
  if fn.extractLsb' 3 5 = 0 then .ok (.pwrIslq x (fn.extractLsb' 0 3))
  else if fn.extractLsb' 0 8 = 16 then .ok (.pwrDorm x)
  else if fn.extractLsb' 0 8 = 32 then .ok (.pwrWakeq x)
  else .error .badFn

/-- The operations of major 0x6D (05 Table 5.4). -/
def subOf6D (t : FmtAT) (sub : BitVec 2) : Except DecodeError Instr :=
  match sub with
  | 0#2 => .ok (.atarithAdd t)
  | 1#2 => .ok (.atarithFadd t)
  | 2#2 => .ok (.atarithDecp t)
  | 3#2 => .ok (.atarithIncw t)

/-- The operations of major 0x6E (05 Table 5.4). -/
def subOf6E (t : FmtAT) (sub : BitVec 2) : Except DecodeError Instr :=
  match sub with
  | 0#2 => .ok (.atminmaxMin t)
  | 1#2 => .ok (.atminmaxMax t)
  | 2#2 => .ok (.atminmaxMinu t)
  | 3#2 => .ok (.atminmaxMaxu t)

/-- The operations of major 0x6F (05 Table 5.4). -/
def subOf6F (t : FmtAT) (sub : BitVec 2) : Except DecodeError Instr :=
  match sub with
  | 0#2 => .ok (.atlogicAnd t)
  | 1#2 => .ok (.atlogicOr t)
  | 2#2 => .ok (.atlogicXor t)
  | 3#2 => .ok (.atlogicSwap t)

/-- The operations of major 0x70 (05 Table 5.4). -/
def subOf70 (t : FmtAT) (sub : BitVec 2) : Except DecodeError Instr :=
  match sub with
  | 0#2 => .ok (.atcasCas32 t)
  | 1#2 => .ok (.atcasCas64 t)
  | 2#2 => .ok (.atcasAdd64 t)
  | _ => .error .badSub

/-- The operations of major 0x71 (05 Table 5.4). -/
def subOf71 (t : FmtAT) (sub : BitVec 2) : Except DecodeError Instr :=
  match sub with
  | 0#2 => .ok (.redAdd t)
  | 1#2 => .ok (.redFadd t)
  | 2#2 => .ok (.redMin t)
  | 3#2 => .ok (.redMax t)

/-- The operations of major 0x72 (05 Table 5.4). -/
def subOf72 (t : FmtAT) (sub : BitVec 2) : Except DecodeError Instr :=
  match sub with
  | 0#2 => .ok (.waita t)
  | 1#2 => .ok (.waitaTo t)
  | _ => .error .badSub

/-- The operations of major 0x73 (05 Table 5.4). -/
def subOf73 (t : FmtAT) (sub : BitVec 2) : Except DecodeError Instr :=
  match sub with
  | 0#2 => .ok (.wakeOne t)
  | 1#2 => .ok (.wakeAll t)
  | _ => .error .badSub

/-- The operations of major 0x74 (05 Table 5.4). -/
def subOf74 (t : FmtAT) (sub : BitVec 2) : Except DecodeError Instr :=
  match sub with
  | 0#2 => .ok (.rcn t)
  | 1#2 => .ok (.rcnD t)
  | _ => .error .badSub

/-- The instruction a word is, by its major opcode (05 Table 5.1, Table 5.2). -/
def decodeWord (w : Word) : Except DecodeError Instr :=
  match w.extractLsb' 25 7 with
  | 0x01#7 => wordEven w (.bra (fieldsC w))
  | 0x02#7 => wordEven w (.brc (fieldsC w))
  | 0x03#7 => wordEven w (.call (fieldsC w))
  | 0x04#7 => fnOf04 (fieldsX w) (w.extractLsb' 3 8)
  | 0x05#7 => .ok (if bitAt w 3 then .calli (fieldsJ w) else .jmpi (fieldsJ w))
  | 0x06#7 => .ok (.switch (fieldsS w))
  | 0x07#7 => wordEven w (.recon (fieldsC w))
  | 0x08#7 => fnOf08 (fieldsX w) (w.extractLsb' 3 8)
  | 0x09#7 => .ok (.land (fieldsL w))
  | 0x0A#7 => fnOf0A (fieldsX w) (w.extractLsb' 3 8)
  | 0x0B#7 => fnOf0B (fieldsX w) (w.extractLsb' 3 8)
  | 0x0C#7 => fnOf0C (fieldsX w) (w.extractLsb' 3 8)
  | 0x0D#7 => .ok (.winb (fieldsL w))
  | 0x0E#7 => fnOf0E (fieldsX w) (w.extractLsb' 3 8)
  | 0x0F#7 => fnOf0F (fieldsX w) (w.extractLsb' 3 8)
  | 0x10#7 => .ok (.iadd (fieldsA w))
  | 0x11#7 => .ok (.isub (fieldsA w))
  | 0x12#7 => .ok (.imul (fieldsA w))
  | 0x13#7 => .ok (.imulh (fieldsA w))
  | 0x14#7 => .ok (.imulhu (fieldsA w))
  | 0x15#7 => .ok (.imad (fieldsA w))
  | 0x16#7 => .ok (.imin (fieldsA w))
  | 0x17#7 => .ok (.imax (fieldsA w))
  | 0x18#7 => .ok (.iminu (fieldsA w))
  | 0x19#7 => .ok (.imaxu (fieldsA w))
  | 0x1A#7 => fnOf1A (fieldsX w) (w.extractLsb' 3 8)
  | 0x1B#7 => .ok (.shl (fieldsA w))
  | 0x1C#7 => .ok (.shr (fieldsA w))
  | 0x1D#7 => .ok (.shra (fieldsA w))
  | 0x1E#7 => .ok (.rotl (fieldsA w))
  | 0x1F#7 => .ok (.and (fieldsA w))
  | 0x20#7 => .ok (.or (fieldsA w))
  | 0x21#7 => .ok (.xor (fieldsA w))
  | 0x22#7 => .ok (.andn (fieldsA w))
  | 0x23#7 => .ok (.bfx (fieldsA w))
  | 0x24#7 => .ok (.bfi (fieldsA w))
  | 0x25#7 => wordP w (.icmp (fieldsP w))
  | 0x26#7 => wordP w (.icmpu (fieldsP w))
  | 0x27#7 => .ok (.sel (fieldsQ w))
  | 0x28#7 => .ok (.movi (fieldsL w))
  | 0x29#7 => .ok (.movhi (fieldsL w))
  | 0x2A#7 => .ok (.mov (fieldsA w))
  | 0x2B#7 => .ok (.iadd64 (fieldsA w))
  | 0x2C#7 => .ok (.lea (fieldsA w))
  | 0x2D#7 => wordP w (.icmp64 (fieldsP w))
  | 0x2E#7 => .ok (.dp4 (fieldsA w))
  | 0x2F#7 => .ok (.vaddmin (fieldsA w))
  | 0x30#7 => fnOf30 (fieldsX w) (w.extractLsb' 3 8)
  | 0x31#7 => .ok (.laneidx (fieldsA w))
  | 0x32#7 => .ok (.bcast (fieldsA w))
  | 0x33#7 => fnOf33 (fieldsX w) (w.extractLsb' 3 8)
  | 0x34#7 => fnOf34 (fieldsX w) (w.extractLsb' 3 8)
  | 0x35#7 => fnOf35 (fieldsX w) (w.extractLsb' 3 8)
  | 0x36#7 => .ok (.vdhop (fieldsA w))
  | 0x37#7 => fnOf37 (fieldsX w) (w.extractLsb' 3 8)
  | 0x38#7 => .ok (.fadd (fieldsA w))
  | 0x39#7 => .ok (.fsub (fieldsA w))
  | 0x3A#7 => .ok (.fmul (fieldsA w))
  | 0x3B#7 => .ok (.ffma (fieldsA w))
  | 0x3C#7 => .ok (.fmin (fieldsA w))
  | 0x3D#7 => .ok (.fmax (fieldsA w))
  | 0x3E#7 => wordP w (.fcmp (fieldsP w))
  | 0x3F#7 => fnOf3F (fieldsX w) (w.extractLsb' 3 8)
  | 0x40#7 => .ok (.fscale (fieldsA w))
  | 0x41#7 => .ok (.hadd2 (fieldsA w))
  | 0x42#7 => .ok (.hmul2 (fieldsA w))
  | 0x43#7 => .ok (.hfma2 (fieldsA w))
  | 0x44#7 => .ok (.badd2 (fieldsA w))
  | 0x45#7 => .ok (.bmul2 (fieldsA w))
  | 0x46#7 => .ok (.bfma2 (fieldsA w))
  | 0x47#7 => .ok (.famax (fieldsA w))
  | 0x48#7 => fnOf48 (fieldsX w) (w.extractLsb' 3 8)
  | 0x49#7 => .ok (.cvtn (fieldsA w))
  | 0x4A#7 => .ok (.qscale (fieldsA w))
  | 0x4B#7 => fnOf4B (fieldsX w) (w.extractLsb' 3 8)
  | 0x4C#7 => .ok (.cbdec (fieldsA w))
  | 0x50#7 => .ok (.mma (fieldsT w))
  | 0x51#7 => .ok (.mmaf (fieldsT w))
  | 0x52#7 => .ok (.mmaz (fieldsT w))
  | 0x53#7 => .ok (.tzero (fieldsT w))
  | 0x54#7 => .ok (.trd (fieldsT w))
  | 0x55#7 => .ok (.twr (fieldsT w))
  | 0x56#7 => .ok (.twm (fieldsT w))
  | 0x57#7 => fnOf57 (fieldsX w) (w.extractLsb' 3 8)
  | 0x58#7 => .ok (.tcvt (fieldsT w))
  | 0x59#7 => .ok (.tscl (fieldsT w))
  | 0x5A#7 => .ok (.ldb (fieldsM w))
  | 0x5B#7 => .ok (.ldh (fieldsM w))
  | 0x5C#7 => .ok (.ldw (fieldsM w))
  | 0x5D#7 => .ok (.ldd (fieldsM w))
  | 0x5E#7 => .ok (.ldq (fieldsM w))
  | 0x5F#7 => .ok (.stb (fieldsM w))
  | 0x60#7 => .ok (.sth (fieldsM w))
  | 0x61#7 => .ok (.stw (fieldsM w))
  | 0x62#7 => .ok (.std (fieldsM w))
  | 0x63#7 => .ok (.stq (fieldsM w))
  | 0x64#7 => fnOf64 (fieldsX w) (w.extractLsb' 3 8)
  | 0x65#7 => .ok (.lds (fieldsM w))
  | 0x66#7 => .ok (.sts (fieldsM w))
  | 0x67#7 => fnOf67 (fieldsX w) (w.extractLsb' 3 8)
  | 0x68#7 => fnOf68 (fieldsX w) (w.extractLsb' 3 8)
  | 0x69#7 => fnOf69 (fieldsX w) (w.extractLsb' 3 8)
  | 0x6C#7 => fnOf6C (fieldsX w) (w.extractLsb' 3 8)
  | 0x6D#7 => if bitAt w 0 then .error .reservedBit else subOf6D (fieldsAT w) (w.extractLsb' 2 2)
  | 0x6E#7 => if bitAt w 0 then .error .reservedBit else subOf6E (fieldsAT w) (w.extractLsb' 2 2)
  | 0x6F#7 => if bitAt w 0 then .error .reservedBit else subOf6F (fieldsAT w) (w.extractLsb' 2 2)
  | 0x70#7 => if bitAt w 0 then .error .reservedBit else subOf70 (fieldsAT w) (w.extractLsb' 2 2)
  | 0x71#7 => if bitAt w 0 then .error .reservedBit else subOf71 (fieldsAT w) (w.extractLsb' 2 2)
  | 0x72#7 => if bitAt w 0 then .error .reservedBit else subOf72 (fieldsAT w) (w.extractLsb' 2 2)
  | 0x73#7 => if bitAt w 0 then .error .reservedBit else subOf73 (fieldsAT w) (w.extractLsb' 2 2)
  | 0x74#7 => if bitAt w 0 then .error .reservedBit else subOf74 (fieldsAT w) (w.extractLsb' 2 2)
  | 0x75#7 => fnOf75 (fieldsX w) (w.extractLsb' 3 8)
  | 0x76#7 => fnOf76 (fieldsX w) (w.extractLsb' 3 8)
  | 0x77#7 => fnOf77 (fieldsX w) (w.extractLsb' 3 8)
  | 0x78#7 => fnOf78 (fieldsX w) (w.extractLsb' 3 8)
  | 0x79#7 => .ok (.csrr (fieldsL w))
  | 0x7A#7 => .ok (.csrw (fieldsL w))
  | 0x7B#7 => fnOf7B (fieldsX w) (w.extractLsb' 3 8)
  | 0x7C#7 => fnOf7C (fieldsX w) (w.extractLsb' 3 8)
  | 0x7D#7 => fnOf7D (fieldsX w) (w.extractLsb' 3 8)
  | _ => .error .unassignedMajor

/-- A word from its four bytes, the lowest address first (00 R6; 04 R95). -/
def wordOfBytes (b0 b1 b2 b3 : BitVec 8) : Word := b3 ++ b2 ++ b1 ++ b0

/-- The instruction at the head of a byte list, and the bytes after it. -/
def decodeBytes : List (BitVec 8) → Except DecodeError (Instr × List (BitVec 8))
  | b0 :: b1 :: b2 :: b3 :: rest =>
    match decodeWord (wordOfBytes b0 b1 b2 b3) with
    | .ok i => .ok (i, rest)
    | .error e => .error e
  | _ => .error .short

/-- Byte i of a number (00 R6). -/
def byteOfNat (n i : Nat) : BitVec 8 := BitVec.ofNat 8 (n >>> (8 * i))

/-- The bytes of the instruction whose bits are w, as the hardware stores them. -/
def tableBytes (w : Nat) : List (BitVec 8) := [byteOfNat w 0, byteOfNat w 1, byteOfNat w 2, byteOfNat w 3]

/-- The instruction the decoder reads from an instruction whose bits are w, numbered as the opcode table numbers them. -/
def decodeTableWord (nbits w : Nat) : Option Instr :=
  match decodeBytes (tableBytes (w % 2 ^ nbits)) with
  | .ok (i, _) => some i
  | .error _ => none

/-! The encoder, written from the same tables. -/

def bit1 (b : Bool) : BitVec 1 := BitVec.ofBool b

def packA (op : BitVec 7) (w : FmtA) : Word := op ++ w.d ++ w.a ++ w.b ++ bit1 w.x ++ bit1 w.u ++ bit1 w.n ++ bit1 w.z
def packJ (op : BitVec 7) (x : Bool) (w : FmtJ) : Word := op ++ w.d ++ w.a ++ w.b ++ bit1 x ++ bit1 w.u ++ bit1 w.n ++ bit1 w.z
def packP (op : BitVec 7) (w : FmtP) : Word := op ++ w.pd ++ w.cond ++ w.a ++ w.b ++ bit1 w.x ++ bit1 w.u ++ 0#1 ++ bit1 w.z
def packQ (op : BitVec 7) (w : FmtQ) : Word := op ++ w.d ++ w.a ++ w.b ++ w.ps ++ bit1 w.n
def packL (op : BitVec 7) (w : FmtL) : Word := op ++ w.d ++ w.imm ++ bit1 w.u ++ bit1 w.z
def packM (op : BitVec 7) (w : FmtM) : Word := op ++ w.d ++ w.a ++ w.off ++ w.ord ++ bit1 w.u ++ bit1 w.z
def packAT (op : BitVec 7) (sub : BitVec 2) (w : FmtAT) : Word := op ++ w.d ++ w.a ++ w.b ++ sub ++ bit1 w.ar ++ 0#1
def packC (op : BitVec 7) (w : FmtC) : Word := op ++ w.p ++ bit1 w.n ++ w.off ++ bit1 w.u ++ 0#1
def packT (op : BitVec 7) (w : FmtT) : Word := op ++ w.td ++ w.a ++ w.b ++ w.f
def packX (op : BitVec 7) (fn : BitVec 8) (w : FmtX) : Word := op ++ w.d ++ w.a ++ fn ++ bit1 w.u ++ bit1 w.n ++ bit1 w.z
def packS (op : BitVec 7) (w : FmtS) : Word := op ++ w.a ++ w.cnt ++ w.recon

/-- Whether a constructor is an instruction word; the others are steps of the package and have no word. -/
def Instr.isWord : Instr → Bool
  | .launch _ _ _ _ => false
  | .wakeWrite _ _ => false
  | .registerWrite _ _ _ _ => false
  | .hwbaseWrite _ _ => false
  | .hostApertureAccess _ _ _ _ _ => false
  | .functionLevelReset _ => false
  | .registerAGraph _ => false
  | .unregister _ => false
  | .createAVd _ _ => false
  | .destroyAVd _ => false
  | .resetTheVf _ => false
  | .unknownOperationCode _ => false
  | .vfReset _ => false
  | .dispatchTeam _ _ => false
  | .stealRequest _ _ => false
  | .stealHandled _ => false
  | .stealReply _ => false
  | .compactionMove _ _ _ _ => false
  | .compactorRetry _ _ => false
  | .steeringCap _ _ => false
  | .imeasUpdate _ _ => false
  | .tokenRefill _ _ => false
  | .egressRelease _ _ => false
  | .surgeGrant _ => false
  | .dieFailure _ => false
  | .workBegins _ => false
  | .workEnds _ => false
  | .timerExpires _ => false
  | .collapseStepDone _ => false
  | .saveFaultInStep1 _ => false
  | .wakeDone _ _ => false
  | .issueChoice _ _ => false
  | .sliceRequest _ => false
  | .homePerform _ => false
  | .remoteWriteback _ _ => false
  | .replyArrives _ => false
  | .remapResend _ => false
  | .blockAtSlice _ _ _ => false
  | .purgeAtSlice _ _ _ => false
  | .shootdownComplete _ => false
  | .pubSliceBlock _ _ _ => false
  | .swapPoint _ => false
  | .sliceMapChange _ _ => false
  | .sweepPassStart _ => false
  | .sweepPassEnd _ => false
  | .drayUnitDone _ => false
  | .drayComplete _ _ => false
  | .drayRemainderResume _ _ => false
  | .poolResponse _ _ _ => false
  | .monitorWake _ => false
  | .waitaTimeout _ => false
  | .mmafRendezvous _ _ => false
  | .wfiWake _ _ => false
  | .ktimerExpires _ _ => false
  | .groupStop _ _ => false
  | .saveComplete _ _ => false
  | .faultRecordPost _ _ => false
  | .saveWriteFault _ _ => false
  | .groupRestore _ _ => false
  | .quantumExpires _ => false
  | .watchdog _ _ => false
  | .drainEnd _ _ => false
  | .teamRetire _ => false
  | .relayMessageArrives _ _ => false
  | .opent _ => false
  | .opens _ _ => false
  | .close _ => false
  | .abort _ => false
  | .couplerPutArrives _ _ _ _ => false
  | .putAcknowledged _ => false
  | .integrity _ _ => false
  | .fieldInService _ => false
  | .earlyServiceEnd => false
  | .fieldRecalibration _ => false
  | .hbmChannelService _ _ => false
  | .couplerPortService _ => false
  | .smcFailover => false
  | .packageReset => false
  | .managementPathWrite _ => false
  | .peerAbort _ => false
  | .recalibrationEnd _ => false
  | .computeDieRetirement _ => false
  | _ => true

/-- The word of an instruction. A step of the package has no word; it encodes as the all-zero word, which is no instruction (05 R116). -/
def encode : Instr → Word
  | .bra w => packC 0x01#7 w
  | .brc w => packC 0x02#7 w
  | .call w => packC 0x03#7 w
  | .ret w => packX 0x04#7 0x00#8 w
  | .jmpi w => packJ 0x05#7 false w
  | .calli w => packJ 0x05#7 true w
  | .switch w => packS 0x06#7 w
  | .recon w => packC 0x07#7 w
  | .join w => packX 0x08#7 0x00#8 w
  | .land w => packL 0x09#7 w
  | .exit w => packX 0x0A#7 0x00#8 w
  | .nop w => packX 0x0B#7 0x00#8 w
  | .yield w => packX 0x0B#7 0x01#8 w
  | .voteAny w => packX 0x0C#7 0x00#8 w
  | .voteAll w => packX 0x0C#7 0x01#8 w
  | .voteBallot w => packX 0x0C#7 0x02#8 w
  | .voteCount w => packX 0x0C#7 0x03#8 w
  | .voteFirst w => packX 0x0C#7 0x04#8 w
  | .voteUniq w => packX 0x0C#7 0x05#8 w
  | .winb w => packL 0x0D#7 w
  | .trap w c => packX 0x0E#7 (0#1 ++ c) w
  | .bkpt w c => packX 0x0E#7 (1#1 ++ c) w
  | .dstkDepth w => packX 0x0F#7 0x00#8 w
  | .dstkSpill w => packX 0x0F#7 0x01#8 w
  | .dstkFill w => packX 0x0F#7 0x02#8 w
  | .iadd w => packA 0x10#7 w
  | .isub w => packA 0x11#7 w
  | .imul w => packA 0x12#7 w
  | .imulh w => packA 0x13#7 w
  | .imulhu w => packA 0x14#7 w
  | .imad w => packA 0x15#7 w
  | .imin w => packA 0x16#7 w
  | .imax w => packA 0x17#7 w
  | .iminu w => packA 0x18#7 w
  | .imaxu w => packA 0x19#7 w
  | .iunaryNeg w => packX 0x1A#7 0x00#8 w
  | .iunaryAbs w => packX 0x1A#7 0x01#8 w
  | .iunaryNot w => packX 0x1A#7 0x02#8 w
  | .iunaryPopc w => packX 0x1A#7 0x03#8 w
  | .iunaryClz w => packX 0x1A#7 0x04#8 w
  | .iunaryCtz w => packX 0x1A#7 0x05#8 w
  | .iunaryBrev w => packX 0x1A#7 0x06#8 w
  | .iunaryBswap w => packX 0x1A#7 0x07#8 w
  | .iunarySextb w => packX 0x1A#7 0x08#8 w
  | .iunarySexth w => packX 0x1A#7 0x09#8 w
  | .shl w => packA 0x1B#7 w
  | .shr w => packA 0x1C#7 w
  | .shra w => packA 0x1D#7 w
  | .rotl w => packA 0x1E#7 w
  | .and w => packA 0x1F#7 w
  | .or w => packA 0x20#7 w
  | .xor w => packA 0x21#7 w
  | .andn w => packA 0x22#7 w
  | .bfx w => packA 0x23#7 w
  | .bfi w => packA 0x24#7 w
  | .icmp w => packP 0x25#7 w
  | .icmpu w => packP 0x26#7 w
  | .sel w => packQ 0x27#7 w
  | .movi w => packL 0x28#7 w
  | .movhi w => packL 0x29#7 w
  | .mov w => packA 0x2A#7 w
  | .iadd64 w => packA 0x2B#7 w
  | .lea w => packA 0x2C#7 w
  | .icmp64 w => packP 0x2D#7 w
  | .dp4 w => packA 0x2E#7 w
  | .vaddmin w => packA 0x2F#7 w
  | .laneShup w f k => packX 0x30#7 (0#2 ++ f ++ k) w
  | .laneShdn w f k => packX 0x30#7 (1#2 ++ f ++ k) w
  | .laneXor w k => packX 0x30#7 (4#3 ++ k) w
  | .laneidx w => packA 0x31#7 w
  | .bcast w => packA 0x32#7 w
  | .gredAdd w => packX 0x33#7 0x00#8 w
  | .gredMin w => packX 0x33#7 0x01#8 w
  | .gredMax w => packX 0x33#7 0x02#8 w
  | .gredMinu w => packX 0x33#7 0x03#8 w
  | .gredMaxu w => packX 0x33#7 0x04#8 w
  | .gredAnd w => packX 0x33#7 0x05#8 w
  | .gredOr w => packX 0x33#7 0x06#8 w
  | .gredXor w => packX 0x33#7 0x07#8 w
  | .gredFadd w => packX 0x33#7 0x08#8 w
  | .gredFmin w => packX 0x33#7 0x09#8 w
  | .gredFmax w => packX 0x33#7 0x0A#8 w
  | .gscanAdd w e => packX 0x34#7 (e ++ 0#7) w
  | .gscanMin w e => packX 0x34#7 (e ++ 1#7) w
  | .gscanMax w e => packX 0x34#7 (e ++ 2#7) w
  | .getidLane w => packX 0x35#7 0x00#8 w
  | .getidGroup w => packX 0x35#7 0x01#8 w
  | .getidTeamx w => packX 0x35#7 0x02#8 w
  | .getidTeamy w => packX 0x35#7 0x03#8 w
  | .getidTeamz w => packX 0x35#7 0x04#8 w
  | .getidRole w => packX 0x35#7 0x05#8 w
  | .getidVdie w => packX 0x35#7 0x06#8 w
  | .getidNvdie w => packX 0x35#7 0x07#8 w
  | .getidCluster w => packX 0x35#7 0x08#8 w
  | .getidBay w => packX 0x35#7 0x09#8 w
  | .getidGridx w => packX 0x35#7 0x0A#8 w
  | .getidGridy w => packX 0x35#7 0x0B#8 w
  | .getidGridz w => packX 0x35#7 0x0C#8 w
  | .vdhop w => packA 0x36#7 w
  | .cycle w => packX 0x37#7 0x00#8 w
  | .fadd w => packA 0x38#7 w
  | .fsub w => packA 0x39#7 w
  | .fmul w => packA 0x3A#7 w
  | .ffma w => packA 0x3B#7 w
  | .fmin w => packA 0x3C#7 w
  | .fmax w => packA 0x3D#7 w
  | .fcmp w => packP 0x3E#7 w
  | .funaryNeg w => packX 0x3F#7 0x00#8 w
  | .funaryAbs w => packX 0x3F#7 0x01#8 w
  | .funaryRcp w => packX 0x3F#7 0x02#8 w
  | .funaryRsq w => packX 0x3F#7 0x03#8 w
  | .funarySqrt w => packX 0x3F#7 0x04#8 w
  | .funaryExp2 w => packX 0x3F#7 0x05#8 w
  | .funaryLog2 w => packX 0x3F#7 0x06#8 w
  | .funarySinpi w => packX 0x3F#7 0x07#8 w
  | .funaryCospi w => packX 0x3F#7 0x08#8 w
  | .funaryFloor w => packX 0x3F#7 0x09#8 w
  | .funaryCeil w => packX 0x3F#7 0x0A#8 w
  | .funaryTrunc w => packX 0x3F#7 0x0B#8 w
  | .funaryRndne w => packX 0x3F#7 0x0C#8 w
  | .funaryFract w => packX 0x3F#7 0x0D#8 w
  | .fscale w => packA 0x40#7 w
  | .hadd2 w => packA 0x41#7 w
  | .hmul2 w => packA 0x42#7 w
  | .hfma2 w => packA 0x43#7 w
  | .badd2 w => packA 0x44#7 w
  | .bmul2 w => packA 0x45#7 w
  | .bfma2 w => packA 0x46#7 w
  | .famax w => packA 0x47#7 w
  | .cvt w t s m => packX 0x48#7 (t ++ s ++ m) w
  | .cvtn w => packA 0x49#7 w
  | .qscale w => packA 0x4A#7 w
  | .cbld w k => packX 0x4B#7 (0#4 ++ k) w
  | .cbdec w => packA 0x4C#7 w
  | .mma w => packT 0x50#7 w
  | .mmaf w => packT 0x51#7 w
  | .mmaz w => packT 0x52#7 w
  | .tzero w => packT 0x53#7 w
  | .trd w => packT 0x54#7 w
  | .twr w => packT 0x55#7 w
  | .twm w => packT 0x56#7 w
  | .fhset w => packX 0x57#7 0x00#8 w
  | .tcvt w => packT 0x58#7 w
  | .tscl w => packT 0x59#7 w
  | .ldb w => packM 0x5A#7 w
  | .ldh w => packM 0x5B#7 w
  | .ldw w => packM 0x5C#7 w
  | .ldd w => packM 0x5D#7 w
  | .ldq w => packM 0x5E#7 w
  | .stb w => packM 0x5F#7 w
  | .sth w => packM 0x60#7 w
  | .stw w => packM 0x61#7 w
  | .std w => packM 0x62#7 w
  | .stq w => packM 0x63#7 w
  | .ldxLdsc w r => packX 0x64#7 (r ++ 0#6) w
  | .ldxLsib w r i => packX 0x64#7 (r ++ i ++ 1#3) w
  | .ldxLdnc w r s => packX 0x64#7 (r ++ s ++ 2#3) w
  | .ldxPref w => packX 0x64#7 0x03#8 w
  | .lds w => packM 0x65#7 w
  | .sts w => packM 0x66#7 w
  | .memxFence w s => packX 0x67#7 (0#4 ++ s) w
  | .memxFenceva w => packX 0x67#7 0x10#8 w
  | .memxWaitc w c => packX 0x67#7 (2#4 ++ c) w
  | .memxCntq w c => packX 0x67#7 (3#4 ++ c) w
  | .memxCinv w => packX 0x67#7 0x40#8 w
  | .memxSplitq w => packX 0x67#7 0x50#8 w
  | .drayCopy w m => packX 0x68#7 (m ++ 0#7) w
  | .drayCopy2d w m => packX 0x68#7 (m ++ 1#7) w
  | .drayGather w m => packX 0x68#7 (m ++ 2#7) w
  | .drayScatter w m => packX 0x68#7 (m ++ 3#7) w
  | .draySpill w m => packX 0x68#7 (m ++ 4#7) w
  | .drayGcopy w m => packX 0x68#7 (m ++ 5#7) w
  | .drayPut w m => packX 0x68#7 (m ++ 6#7) w
  | .drayGet w m => packX 0x68#7 (m ++ 7#7) w
  | .drayFill w m => packX 0x68#7 (m ++ 8#7) w
  | .drayPoolfill w m => packX 0x68#7 (m ++ 9#7) w
  | .drayPoolcmp w m => packX 0x68#7 (m ++ 10#7) w
  | .drayPoolred w m => packX 0x68#7 (m ++ 11#7) w
  | .drayPub w m => packX 0x68#7 (m ++ 12#7) w
  | .drayStat w => packX 0x68#7 0x0D#8 w
  | .dwaitOne w => packX 0x69#7 0x00#8 w
  | .dwaitAll w => packX 0x69#7 0x01#8 w
  | .barInit w => packX 0x6C#7 0x00#8 w
  | .barArr w => packX 0x6C#7 0x10#8 w
  | .barArrn w => packX 0x6C#7 0x20#8 w
  | .barExpb w => packX 0x6C#7 0x30#8 w
  | .barWait w p => packX 0x6C#7 (32#7 ++ p) w
  | .barTry w p => packX 0x6C#7 (40#7 ++ p) w
  | .barQry w => packX 0x6C#7 0x60#8 w
  | .atarithAdd w => packAT 0x6D#7 0#2 w
  | .atarithFadd w => packAT 0x6D#7 1#2 w
  | .atarithDecp w => packAT 0x6D#7 2#2 w
  | .atarithIncw w => packAT 0x6D#7 3#2 w
  | .atminmaxMin w => packAT 0x6E#7 0#2 w
  | .atminmaxMax w => packAT 0x6E#7 1#2 w
  | .atminmaxMinu w => packAT 0x6E#7 2#2 w
  | .atminmaxMaxu w => packAT 0x6E#7 3#2 w
  | .atlogicAnd w => packAT 0x6F#7 0#2 w
  | .atlogicOr w => packAT 0x6F#7 1#2 w
  | .atlogicXor w => packAT 0x6F#7 2#2 w
  | .atlogicSwap w => packAT 0x6F#7 3#2 w
  | .atcasCas32 w => packAT 0x70#7 0#2 w
  | .atcasCas64 w => packAT 0x70#7 1#2 w
  | .atcasAdd64 w => packAT 0x70#7 2#2 w
  | .redAdd w => packAT 0x71#7 0#2 w
  | .redFadd w => packAT 0x71#7 1#2 w
  | .redMin w => packAT 0x71#7 2#2 w
  | .redMax w => packAT 0x71#7 3#2 w
  | .waita w => packAT 0x72#7 0#2 w
  | .waitaTo w => packAT 0x72#7 1#2 w
  | .wakeOne w => packAT 0x73#7 0#2 w
  | .wakeAll w => packAT 0x73#7 1#2 w
  | .rcn w => packAT 0x74#7 0#2 w
  | .rcnD w => packAT 0x74#7 1#2 w
  | .send w c => packX 0x75#7 (0#2 ++ c) w
  | .recv w c => packX 0x76#7 (0#2 ++ c) w
  | .chq w c => packX 0x77#7 (0#2 ++ c) w
  | .syscall w => packX 0x78#7 0x00#8 w
  | .eret w => packX 0x78#7 0x01#8 w
  | .wfi w => packX 0x78#7 0x02#8 w
  | .halt w => packX 0x78#7 0x03#8 w
  | .csrr w => packL 0x79#7 w
  | .csrw w => packL 0x7A#7 w
  | .rlySend w => packX 0x7B#7 0x00#8 w
  | .rlyRecv w => packX 0x7B#7 0x01#8 w
  | .rlyPoll w => packX 0x7B#7 0x02#8 w
  | .xlatInvr w => packX 0x7C#7 0x00#8 w
  | .xlatBlock w => packX 0x7C#7 0x01#8 w
  | .xlatPurge w => packX 0x7C#7 0x02#8 w
  | .xlatProbe w => packX 0x7C#7 0x03#8 w
  | .xlatScrub w => packX 0x7C#7 0x04#8 w
  | .xlatPin w => packX 0x7C#7 0x05#8 w
  | .pwrIslq w f => packX 0x7D#7 (0#5 ++ f) w
  | .pwrDorm w => packX 0x7D#7 0x10#8 w
  | .pwrWakeq w => packX 0x7D#7 0x20#8 w
  | _ => 0#32

end Sys2Proof
end

