-- ==== Sys2Proof/Machine/Legal.lean ====
section
/-! DEFINITION. Machine/Legal.lean: what each word does with its fields (its shape), and from that when an encoding is legal
(04 R78, R84-R87, R96-R105; 05 R117-R122; the "Fields used" of each family's chapter). The order of trap causes (04 R106) is in Machine/Issue.lean. -/

namespace Sys2Proof.Machine

/-- The privilege levels U, K and M (00 R4). -/
inductive Level where
  | u
  | k
  | m
  deriving DecidableEq, Repr

/-- Whether a level may do what needs level n. -/
def Level.has : Level → Level → Bool
  | .m, _ => true
  | .k, .m => false
  | .k, _ => true
  | .u, .u => true
  | .u, _ => false

/-- How a word uses one register field: destination or source, the vector registers of its block (R78), the classes of register it
may name (R84), and for a field that names uniform argument registers how many follow (span) and whether the first is even. -/
structure Opd where
  fld : BitVec 7
  dst : Bool
  n : Nat
  vec : Bool
  uni : Bool
  lat : Bool
  span : Nat
  even : Bool
  deriving DecidableEq, Repr

/-- A source of any class. -/
def Opd.src (fld : BitVec 7) (n : Nat := 1) : Opd :=
  { fld := fld, dst := false, n := n, vec := true, uni := true, lat := true, span := 1, even := false }

/-- A uniform source, or a block of span uniform registers. -/
def Opd.usrc (fld : BitVec 7) (span : Nat := 1) (lat : Bool := false) : Opd :=
  { fld := fld, dst := false, n := 1, vec := false, uni := true, lat := lat, span := span, even := false }

/-- A vector source block. -/
def Opd.vsrc (fld : BitVec 7) (n : Nat := 1) (lat : Bool := false) : Opd :=
  { fld := fld, dst := false, n := n, vec := true, uni := false, lat := lat, span := 1, even := false }

/-- A destination: a vector block of n registers, a uniform register where uni says so. -/
def Opd.dest (fld : BitVec 7) (n : Nat := 1) (vec : Bool := true) (uni : Bool := false) (even : Bool := false) : Opd :=
  { fld := fld, dst := true, n := n, vec := vec, uni := uni, lat := false, span := if even then 2 else 1, even := even }

/-- Whether a field may hold its value (R78, R84, R86). -/
def Opd.ok (u : Bool) (p : Opd) : Bool :=
  let v := p.fld.toNat
  if v < 96 then p.vec && !u && v % p.n == 0 && decide (v + p.n ≤ 96)
  else if v < 120 then p.uni && decide (v + p.span ≤ 120) && (!p.even || v % 2 == 0)
  else p.lat && !p.dst

/-- The shape of a word. -/
structure Shape where
  /-- The U, N and B bits as the word has them. -/
  u : Bool := false
  n : Bool := false
  b : Bool := false
  /-- Whether they may be set (05 Table 5.2). -/
  okU : Bool := false
  okN : Bool := false
  okB : Bool := false
  /-- Every unused field is zero (05 R119). -/
  zero : Bool := true
  /-- The conditions of the instruction's own description that the word alone decides. -/
  own : Bool := true
  opds : List Opd := []
  tiles : List Nat := []
  preds : List Nat := []
  priv : Level := .u
  /-- The majors that raise ILLEGAL on a supervisor core (16 R414). -/
  notCore : Bool := false
  /-- Control-flow word or SYS: no member may follow it (04 R90). -/
  flow : Bool := false
  deriving DecidableEq, Repr

/-- The destination of a word with an N bit: with N = 1 the field is 0 and no register is written, but a word that reads d then reads
v0 (R87, R166, R188). -/
def dstOpds (u n : Bool) (fld : BitVec 7) (k : Nat := 1) (uniOk : Bool := false) (vecOk : Bool := true) (reads : Bool := false) : List Opd :=
  if n then (if reads then [Opd.src fld k] else [])
  else Opd.dest fld k vecOk (u || uniOk) :: (if reads then [Opd.src fld k] else [])

/-- Shape of a format A word with sources a and b: imm says whether x = 1 makes b an immediate. -/
def shapeA (w : FmtA) (ka kb kd : Nat) (imm uniD reads okU okN okB xOk : Bool) : Shape :=
  { u := w.u, n := w.n, b := w.z, okU := okU, okN := okN, okB := okB
    zero := (!w.n || w.d == 0#7)
    own := xOk || !w.x
    opds := Opd.src w.a ka :: (if imm && w.x then [] else [Opd.src w.b kb]) ++ dstOpds w.u w.n w.d kd uniD true reads }

/-- Shape of a format P word. -/
def shapeP (w : FmtP) (k : Nat) (imm : Bool) (top : Nat) : Shape :=
  { u := w.u, b := w.z, okU := true, okB := true
    own := decide (w.cond.toNat ≤ top) && (imm || !w.x)
    opds := Opd.src w.a k :: (if imm && w.x then [] else [Opd.src w.b k])
    preds := [w.pd.toNat] }

/-- Shape of a format X word with source a (unless useA is false) and a destination. -/
def shapeX (w : FmtX) (okU okN okB useA : Bool) (ka kd : Nat) (uniD vecD : Bool) : Shape :=
  { u := w.u, n := w.n, b := w.z, okU := okU, okN := okN, okB := okB
    zero := (useA || w.a == 0#7) && (!w.n || w.d == 0#7)
    opds := (if useA then [Opd.src w.a ka] else []) ++ dstOpds w.u w.n w.d kd uniD vecD }

/-- Shape of a format X word that allows no U, N or B, with its operands named by the caller. -/
def shapeS (w : FmtX) (useA useD : Bool) (opds : List Opd) (priv : Level := .u) (notCore : Bool := false) : Shape :=
  { u := w.u, n := w.n, b := w.z, zero := (useA || w.a == 0#7) && (useD || w.d == 0#7), opds := opds, priv := priv, notCore := notCore }

/-- Shape of a global or far load or store of 2^k bytes (11 Table 11.3). -/
def shapeM (w : FmtM) (store : Bool) (k : Nat) : Shape :=
  let n := if k ≤ 2 then 1 else 2 ^ (k - 2)
  { u := w.u, b := w.z, okU := true, okB := true
    opds := [Opd.src w.a 2,
      if store then { fld := w.d, dst := false, n := n, vec := true, uni := true, lat := k != 4, span := if k = 4 then 2 else 1, even := k == 4 }
      else Opd.dest w.d n true w.u (k == 4)] }

/-- Shape of a scratchpad load or store; ord gives the size (11 R272). -/
def shapeL (w : FmtM) (store : Bool) : Shape :=
  let n := if w.ord = 3#2 then 2 else 1
  { u := w.u, b := w.z, okU := true, okB := true
    opds := [Opd.src w.a, if store then Opd.src w.d n else Opd.dest w.d n true w.u] }

/-- Shape of a returning atomic with destination block kd and operand block kb (14 R342). -/
def shapeAt (w : FmtAT) (kd kb : Nat) : Shape :=
  { opds := [Opd.src w.a 2, Opd.dest w.d kd, { Opd.src w.b kb with even := kb == 4, span := if kb = 4 then 2 else 1 }], preds := [7] }

/-- Tile of a field of format T whose values 96 to 111 name t0 to t15 (R103). -/
def tileOf (f : BitVec 7) : List Nat := if 96 ≤ f.toNat && f.toNat < 112 then [f.toNat - 96] else []

/-- The register that field f of format T names: 0 to 95 per lane, 96 to 119 uniform (R103). -/
def ctlOpd (f : BitVec 7) : Opd := { Opd.src f with lat := false }

/-- Shape of MMA, MMAF and MMAZ (10 Table 10.4). -/
def shapeMma (w : FmtT) : Shape :=
  { own := decide (w.a.toNat < 112)
    opds := (if w.a.toNat < 96 then [Opd.vsrc w.a] else []) ++ [Opd.vsrc w.b, ctlOpd w.f]
    tiles := w.td.toNat :: tileOf w.a
    notCore := true }

/-- The CSR numbers that exist (16 Table 16.4). -/
def csrExists (c : Nat) : Bool :=
  [0x0000, 0x0001, 0x0003, 0x2002, 0x2004, 0x2005, 0x2008, 0x2010, 0x2011, 0x2012, 0x2013, 0x2030, 0x2031, 0x2032, 0x2033, 0x2034, 0x2035,
   0x2036, 0x2037, 0x4020, 0x4022, 0x4023, 0x4024, 0x4028, 0x6021, 0x6025, 0x6026, 0x6027].contains c

/-- The lowest privilege of a CSR number, its bits [15:14] (R83). -/
def csrLevel (c : BitVec 16) : Level :=
  if c.extractLsb' 14 2 = 0#2 then .u else if c.extractLsb' 14 2 = 1#2 then .k else .m

/-- Whether a CVT names a legal pair of types and rounding (05 R122). -/
def cvtOk (dst src rm : BitVec 3) : Bool :=
  !(dst == 7#3 || src == 7#3 || dst == src || (decide (3 ≤ dst.toNat) && decide (3 ≤ src.toNat)) ||
    (rm != 0#3 && (dst == 1#3 || dst == 2#3)) || (rm != 0#3 && dst == 0#3 && (src == 1#3 || src == 2#3)))

/-- The vector registers a CVT type occupies (05 Table 5.5). -/
def cvtRegs (t : BitVec 3) : Nat := if 5 ≤ t.toNat then 2 else 1

/-- The shape of every instruction word. A step of the package has the empty shape. -/
def shape : Instr → Shape
  | .bra w => { u := w.u, zero := w.p == 0#3 && !w.n, flow := true }
  | .brc w => { u := w.u, okU := true, preds := [w.p.toNat], flow := true }
  | .call w => { u := w.u, zero := w.p == 0#3 && !w.n, opds := [Opd.dest 119#7 1 false true], flow := true }
  | .ret w => { shapeS w false false [Opd.usrc 119#7] with flow := true }
  | .jmpi w => { u := w.u, n := w.n, b := w.z, okU := true, zero := w.d == 0#7 && w.b == 0#7, opds := [Opd.src w.a 2], flow := true }
  | .calli w => { u := w.u, n := w.n, b := w.z, okU := true, zero := w.d == 0#7 && w.b == 0#7, opds := [Opd.src w.a 2, Opd.dest 119#7 1 false true], flow := true }
  | .switch w => { own := decide (w.cnt.toNat + 5 ≤ w.recon.toNat), opds := [Opd.src w.a], flow := true }
  | .recon w => { u := w.u, zero := w.p == 0#3 && !w.n, flow := true }
  | .join w => { shapeS w false false [] with flow := true }
  | .land w => { u := w.u, b := w.z, zero := w.d == 0#7, flow := true }
  | .exit w => { shapeS w false false [] with flow := true }
  | .nop w => { shapeS w false false [] with flow := true }
  | .yield w => { shapeS w false false [] with flow := true }
  | .voteAny w => { shapeX w false true false true 1 1 true true with flow := true }
  | .voteAll w => { shapeX w false true false true 1 1 true true with flow := true }
  | .voteBallot w => { shapeX w false true false true 1 1 true true with flow := true }
  | .voteCount w => { shapeX w false true false true 1 1 true true with flow := true }
  | .voteFirst w => { shapeX w false true false true 1 1 true true with flow := true }
  | .voteUniq w => { shapeX w false true false true 1 1 true true with flow := true }
  | .winb w => { u := w.u, b := w.z, zero := w.d == 0#7, own := decide (w.imm.toNat < 32), flow := true }
  | .trap w _ => { shapeS w true false [Opd.src w.a] with flow := true }
  | .bkpt w _ => { shapeS w true false [Opd.src w.a] with flow := true }
  | .dstkDepth w => { shapeX w false true false false 1 1 true true with flow := true }
  | .dstkSpill w => { shapeS w true true [Opd.usrc w.a 2, Opd.dest w.d 1 false true] .k with flow := true }
  | .dstkFill w => { shapeS w true true [Opd.usrc w.a 2, Opd.dest w.d 1 false true] .k with flow := true }
  | .iadd w => shapeA w 1 1 1 true false false true true true true
  | .isub w => shapeA w 1 1 1 true false false true true true true
  | .imul w => shapeA w 1 1 1 true false false true true true true
  | .imulh w => shapeA w 1 1 1 true false false true true true true
  | .imulhu w => shapeA w 1 1 1 true false false true true true true
  | .imad w => shapeA w 1 1 1 true false true true true true true
  | .imin w => shapeA w 1 1 1 true false false true true true true
  | .imax w => shapeA w 1 1 1 true false false true true true true
  | .iminu w => shapeA w 1 1 1 true false false true true true true
  | .imaxu w => shapeA w 1 1 1 true false false true true true true
  | .iunaryNeg w => shapeX w true true true true 1 1 false true
  | .iunaryAbs w => shapeX w true true true true 1 1 false true
  | .iunaryNot w => shapeX w true true true true 1 1 false true
  | .iunaryPopc w => shapeX w true true true true 1 1 false true
  | .iunaryClz w => shapeX w true true true true 1 1 false true
  | .iunaryCtz w => shapeX w true true true true 1 1 false true
  | .iunaryBrev w => shapeX w true true true true 1 1 false true
  | .iunaryBswap w => shapeX w true true true true 1 1 false true
  | .iunarySextb w => shapeX w true true true true 1 1 false true
  | .iunarySexth w => shapeX w true true true true 1 1 false true
  | .shl w => { shapeA w 1 1 1 true false false true true true true with own := !w.x || decide (w.b.toNat < 32) }
  | .shr w => { shapeA w 1 1 1 true false false true true true true with own := !w.x || decide (w.b.toNat < 32) }
  | .shra w => { shapeA w 1 1 1 true false false true true true true with own := !w.x || decide (w.b.toNat < 32) }
  | .rotl w => { shapeA w 1 1 1 true false false true true true true with own := !w.x || decide (w.b.toNat < 32) }
  | .and w => shapeA w 1 1 1 true false false true true true true
  | .or w => shapeA w 1 1 1 true false false true true true true
  | .xor w => shapeA w 1 1 1 true false false true true true true
  | .andn w => shapeA w 1 1 1 true false false true true true true
  | .bfx w => shapeA w 1 1 1 false false false true true true true
  | .bfi w => shapeA w 1 1 1 false false true true true true false
  | .icmp w => shapeP w 1 true 7
  | .icmpu w => shapeP w 1 true 7
  | .sel w => { opds := [Opd.src w.a, Opd.src w.b, Opd.dest w.d], preds := [w.ps.toNat] }
  | .movi w => { u := w.u, b := w.z, okU := true, okB := true, opds := Opd.dest w.d 1 true w.u :: [] }
  | .movhi w => { u := w.u, b := w.z, okU := true, okB := true, opds := Opd.dest w.d 1 true w.u :: [Opd.src w.d] }
  | .mov w => 
    let k := if w.x then 2 else 1
    { u := w.u, n := w.n, b := w.z, okU := true, okN := true, okB := true
      zero := w.b == 0#7 && (!w.n || w.d == 0#7), opds := Opd.src w.a k :: dstOpds w.u w.n w.d k true }
  | .iadd64 w => shapeA w 2 2 2 true false false true true true true
  | .lea w => shapeA w 2 1 2 false false false true true true true
  | .icmp64 w => shapeP w 2 true 11
  | .dp4 w => shapeA w 1 1 1 false false true true true true true
  | .vaddmin w => shapeA w 1 1 1 true false true true true true true
  | .laneShup w _ _ => { shapeX w false true true true 1 1 false true with own := true }
  | .laneShdn w _ _ => { shapeX w false true true true 1 1 false true with own := true }
  | .laneXor w _ => { shapeX w false true true true 1 1 false true with own := true }
  | .laneidx w => shapeA w 1 1 1 false false false false true true true
  | .bcast w => 
    { u := w.u, n := w.n, b := w.z, okN := true, okB := true
      zero := !w.n || w.d == 0#7, own := !w.x || decide (w.b.toNat < 32)
      opds := Opd.src w.a :: (if w.x then [] else [Opd.usrc w.b 1 true]) ++ dstOpds w.u w.n w.d 1 true }
  | .gredAdd w => shapeX w false true true true 1 1 true false
  | .gredMin w => shapeX w false true true true 1 1 true false
  | .gredMax w => shapeX w false true true true 1 1 true false
  | .gredMinu w => shapeX w false true true true 1 1 true false
  | .gredMaxu w => shapeX w false true true true 1 1 true false
  | .gredAnd w => shapeX w false true true true 1 1 true false
  | .gredOr w => shapeX w false true true true 1 1 true false
  | .gredXor w => shapeX w false true true true 1 1 true false
  | .gredFadd w => shapeX w false true true true 1 1 true false
  | .gredFmin w => shapeX w false true true true 1 1 true false
  | .gredFmax w => shapeX w false true true true 1 1 true false
  | .gscanAdd w _ => shapeX w false true true true 1 1 false true
  | .gscanMin w _ => shapeX w false true true true 1 1 false true
  | .gscanMax w _ => shapeX w false true true true 1 1 false true
  | .getidLane w => shapeX w false true true false 1 1 true true
  | .getidGroup w => shapeX w false true true false 1 1 true true
  | .getidTeamx w => shapeX w false true true false 1 1 true true
  | .getidTeamy w => shapeX w false true true false 1 1 true true
  | .getidTeamz w => shapeX w false true true false 1 1 true true
  | .getidRole w => shapeX w false true true false 1 1 true true
  | .getidVdie w => shapeX w false true true false 1 1 true true
  | .getidNvdie w => shapeX w false true true false 1 1 true true
  | .getidCluster w => shapeX w false true true false 1 1 true true
  | .getidBay w => shapeX w false true true false 1 1 true true
  | .getidGridx w => shapeX w false true true false 1 1 true true
  | .getidGridy w => shapeX w false true true false 1 1 true true
  | .getidGridz w => shapeX w false true true false 1 1 true true
  | .vdhop w => shapeA w 1 1 1 true false false true true true true
  | .cycle w => shapeX w false true true false 1 2 true true
  | .fadd w => shapeA w 1 1 1 false false false true true true true
  | .fsub w => shapeA w 1 1 1 false false false true true true true
  | .fmul w => shapeA w 1 1 1 false false false true true true true
  | .ffma w => shapeA w 1 1 1 false false true true true true true
  | .fmin w => shapeA w 1 1 1 false false false true true true false
  | .fmax w => shapeA w 1 1 1 false false false true true true false
  | .fcmp w => shapeP w 1 false 11
  | .funaryNeg w => shapeX w true true true true 1 1 false true
  | .funaryAbs w => shapeX w true true true true 1 1 false true
  | .funaryRcp w => shapeX w true true true true 1 1 false true
  | .funaryRsq w => shapeX w true true true true 1 1 false true
  | .funarySqrt w => shapeX w true true true true 1 1 false true
  | .funaryExp2 w => shapeX w true true true true 1 1 false true
  | .funaryLog2 w => shapeX w true true true true 1 1 false true
  | .funarySinpi w => shapeX w true true true true 1 1 false true
  | .funaryCospi w => shapeX w true true true true 1 1 false true
  | .funaryFloor w => shapeX w true true true true 1 1 false true
  | .funaryCeil w => shapeX w true true true true 1 1 false true
  | .funaryTrunc w => shapeX w true true true true 1 1 false true
  | .funaryRndne w => shapeX w true true true true 1 1 false true
  | .funaryFract w => shapeX w true true true true 1 1 false true
  | .fscale w => shapeA w 1 1 1 true false false true true true true
  | .hadd2 w => shapeA w 1 1 1 false false false true true true false
  | .hmul2 w => shapeA w 1 1 1 false false false true true true false
  | .hfma2 w => shapeA w 1 1 1 false false true true true true false
  | .badd2 w => shapeA w 1 1 1 false false false true true true false
  | .bmul2 w => shapeA w 1 1 1 false false false true true true false
  | .bfma2 w => shapeA w 1 1 1 false false true true true true false
  | .famax w => 
    { u := w.u, n := w.n, b := w.z, okU := true, okN := true, okB := true
      zero := w.b == 0#7 && (!w.n || w.d == 0#7), own := !w.x, opds := Opd.src w.a :: dstOpds w.u w.n w.d 1 false true true }
  | .cvt w t s m => 
    { u := w.u, n := w.n, b := w.z, okU := true, okN := true, okB := true
      zero := !w.n || w.d == 0#7, own := cvtOk t s (m.setWidth 3)
      opds := Opd.src w.a (cvtRegs s) :: dstOpds w.u w.n w.d (cvtRegs t) }
  | .cvtn w => 
    { u := w.u, n := w.n, b := w.z, okU := true, okN := true, okB := true
      zero := !w.n || w.d == 0#7
      opds := { Opd.src w.a 2 with uni := w.u } :: Opd.src w.b :: dstOpds w.u w.n w.d 1 false true true }
  | .qscale w => 
    { u := w.u, n := w.n, b := w.z, okU := true, okN := true, okB := true
      zero := !w.n || w.d == 0#7, own := w.b == 2#7 || w.b == 3#7 || w.b == 4#7
      opds := Opd.src w.a :: dstOpds w.u w.n w.d }
  | .cbld w _ => shapeS w true false [Opd.src w.a] .u true
  | .cbdec w => 
    { u := w.u, n := w.n, b := w.z, okN := true, okB := true
      zero := w.b == 0#7 && (!w.n || w.d == 0#7), opds := Opd.src w.a :: dstOpds w.u w.n w.d 2, notCore := true }
  | .mma w => shapeMma w
  | .mmaf w => shapeMma w
  | .mmaz w => shapeMma w
  | .tzero w => { zero := w.a == 0#7 && w.b == 0#7 && w.f == 0#7, tiles := [w.td.toNat], notCore := true }
  | .trd w => { zero := w.a == 0#7, opds := [Opd.dest w.b, ctlOpd w.f], tiles := [w.td.toNat], notCore := true }
  | .twr w => { zero := w.a == 0#7, opds := [Opd.vsrc w.b, ctlOpd w.f], tiles := [w.td.toNat], notCore := true }
  | .twm w => { zero := w.a == 0#7 && w.b == 0#7, opds := [Opd.dest w.f 1 false true], tiles := [w.td.toNat], notCore := true }
  | .fhset w => shapeS w true false [Opd.usrc w.a] .u true
  | .tcvt w => { zero := w.b == 0#7, own := decide (96 ≤ w.a.toNat) && decide (w.a.toNat < 112), opds := [ctlOpd w.f], tiles := w.td.toNat :: tileOf w.a, notCore := true }
  | .tscl w => { opds := [Opd.vsrc w.a, Opd.vsrc w.b, ctlOpd w.f], tiles := [w.td.toNat], notCore := true }
  | .ldb w => shapeM w false 0
  | .ldh w => shapeM w false 1
  | .ldw w => shapeM w false 2
  | .ldd w => shapeM w false 3
  | .ldq w => shapeM w false 4
  | .stb w => shapeM w true 0
  | .sth w => shapeM w true 1
  | .stw w => shapeM w true 2
  | .std w => shapeM w true 3
  | .stq w => shapeM w true 4
  | .ldxLdsc w _ => { u := w.u, n := w.n, b := w.z, okU := true, okB := true, opds := [Opd.src w.a 2, Opd.dest w.d 2 true w.u] }
  | .ldxLsib w _ _ => { u := w.u, n := w.n, b := w.z, okU := true, okB := true, opds := [Opd.src w.a 2, Opd.dest w.d 4 true w.u true] }
  | .ldxLdnc w _ s => { u := w.u, n := w.n, b := w.z, okU := true, okB := true, own := decide (s.toNat ≤ 4), opds := [Opd.src w.a 2, Opd.dest w.d (if s.toNat ≤ 2 then 1 else 2 ^ (s.toNat - 2)) true w.u (s.toNat == 4)] }
  | .ldxPref w => { u := w.u, n := w.n, b := w.z, okU := true, okB := true, zero := w.d == 0#7, opds := [Opd.src w.a 2] }
  | .lds w => shapeL w false
  | .sts w => shapeL w true
  | .memxFence w s => { shapeS w false false [] with own := decide (s.toNat ≤ 4) }
  | .memxFenceva w => shapeS w false false []
  | .memxWaitc w c => { shapeS w true false [Opd.usrc w.a] with own := decide (c.toNat ≤ 3) }
  | .memxCntq w c => { shapeX w false true false false 1 1 true true with own := decide (c.toNat ≤ 3) }
  | .memxCinv w => shapeS w true false [Opd.usrc w.a 2]
  | .memxSplitq w => shapeX w false true false false 1 1 true false
  | .drayCopy w _ => shapeS w true true [Opd.usrc w.a 4, Opd.dest w.d 1 false true] .u true
  | .drayCopy2d w _ => shapeS w true true [Opd.usrc w.a 4, Opd.dest w.d 1 false true] .u true
  | .drayGather w _ => shapeS w true true [Opd.usrc w.a 4, Opd.dest w.d 1 false true] .u true
  | .drayScatter w _ => shapeS w true true [Opd.usrc w.a 4, Opd.dest w.d 1 false true] .u true
  | .draySpill w _ => shapeS w true true [Opd.usrc w.a 4, Opd.dest w.d 1 false true] .u true
  | .drayGcopy w _ => shapeS w true true [Opd.usrc w.a 4, Opd.dest w.d 1 false true] .u true
  | .drayPut w _ => shapeS w true true [Opd.usrc w.a 4, Opd.dest w.d 1 false true] .u true
  | .drayGet w _ => shapeS w true true [Opd.usrc w.a 4, Opd.dest w.d 1 false true] .u true
  | .drayFill w _ => shapeS w true true [Opd.usrc w.a 4, Opd.dest w.d 1 false true] .u true
  | .drayPoolfill w _ => shapeS w true true [Opd.usrc w.a 4, Opd.dest w.d 1 false true] .u true
  | .drayPoolcmp w _ => shapeS w true true [Opd.usrc w.a 4, Opd.dest w.d 1 false true] .u true
  | .drayPoolred w _ => shapeS w true true [Opd.usrc w.a 4, Opd.dest w.d 1 false true] .u true
  | .drayPub w _ => shapeS w true true [Opd.usrc w.a 4, Opd.dest w.d 1 false true] .u true
  | .drayStat w => shapeS w true true [Opd.usrc w.a, Opd.dest w.d 1 false true] .u true
  | .dwaitOne w => shapeS w true false [Opd.usrc w.a] .u true
  | .dwaitAll w => shapeS w false false [] .u true
  | .barInit w => shapeS w true false [Opd.usrc w.a 2]
  | .barArr w => shapeS w true false [Opd.usrc w.a]
  | .barArrn w => shapeS w true false [Opd.usrc w.a 2]
  | .barExpb w => shapeS w true false [Opd.usrc w.a 2]
  | .barWait w _ => shapeS w true false [Opd.usrc w.a]
  | .barTry w _ => shapeS w true true [Opd.usrc w.a, Opd.dest w.d 1 false true]
  | .barQry w => shapeS w true true [Opd.usrc w.a, Opd.dest w.d 1 false true]
  | .atarithAdd w => shapeAt w 1 1
  | .atarithFadd w => shapeAt w 1 1
  | .atarithDecp w => shapeAt w 1 1
  | .atarithIncw w => shapeAt w 1 1
  | .atminmaxMin w => shapeAt w 1 1
  | .atminmaxMax w => shapeAt w 1 1
  | .atminmaxMinu w => shapeAt w 1 1
  | .atminmaxMaxu w => shapeAt w 1 1
  | .atlogicAnd w => shapeAt w 1 1
  | .atlogicOr w => shapeAt w 1 1
  | .atlogicXor w => shapeAt w 1 1
  | .atlogicSwap w => shapeAt w 1 1
  | .atcasCas32 w => shapeAt w 1 2
  | .atcasCas64 w => shapeAt w 2 4
  | .atcasAdd64 w => shapeAt w 2 2
  | .redAdd w => { zero := w.d == 0#7, opds := [Opd.src w.a 2, Opd.src w.b] }
  | .redFadd w => { zero := w.d == 0#7, opds := [Opd.src w.a 2, Opd.src w.b] }
  | .redMin w => { zero := w.d == 0#7, opds := [Opd.src w.a 2, Opd.src w.b] }
  | .redMax w => { zero := w.d == 0#7, opds := [Opd.src w.a 2, Opd.src w.b] }
  | .waita w => { opds := [Opd.src w.a 2, Opd.dest w.d 2 true true, Opd.src w.b 1] }
  | .waitaTo w => { opds := [Opd.src w.a 2, Opd.dest w.d 2 true true, Opd.src w.b 2] }
  | .wakeOne w => { zero := w.d == 0#7 && w.b == 0#7, opds := [Opd.src w.a 2] }
  | .wakeAll w => { zero := w.d == 0#7 && w.b == 0#7, opds := [Opd.src w.a 2] }
  | .rcn w => { opds := [Opd.src w.a 2, Opd.dest w.d, Opd.src w.d, Opd.src w.b 1] }
  | .rcnD w => { opds := [Opd.src w.a 2, Opd.dest w.d, Opd.src w.d, Opd.src w.b 2] }
  | .send w _ => shapeS w true false [Opd.vsrc w.a] .u true
  | .recv w _ => shapeS w false true [Opd.dest w.d] .u true
  | .chq w _ => shapeS w false true [Opd.dest w.d 1 false true] .u true
  | .syscall w => { shapeS w true false [Opd.usrc w.a] with flow := true }
  | .eret w => { shapeS w true true [Opd.usrc w.a 3, Opd.dest w.d 1 false true] .k with flow := true }
  | .wfi w => { shapeS w false false [] .k with flow := true }
  | .halt w => { shapeS w false false [] .m with flow := true }
  | .csrr w => { u := w.u, b := w.z, own := csrExists w.imm.toNat, opds := [Opd.dest w.d 1 false true], priv := csrLevel w.imm }
  | .csrw w => { u := w.u, b := w.z, own := csrExists w.imm.toNat && !w.imm.getLsbD 13, opds := [Opd.usrc w.d], priv := csrLevel w.imm }
  | .rlySend w => shapeS w true true [Opd.usrc w.a 2, Opd.dest w.d 1 false true] .k
  | .rlyRecv w => shapeS w true true [Opd.usrc w.a, Opd.dest w.d 1 false true] .k
  | .rlyPoll w => shapeS w false true [Opd.dest w.d 1 false true] .k
  | .xlatInvr w => shapeS w true true [Opd.usrc w.a 3, Opd.dest w.d 1 false true] .k
  | .xlatBlock w => shapeS w true true [Opd.usrc w.a 3, Opd.dest w.d 1 false true] .k
  | .xlatPurge w => shapeS w true true [Opd.usrc w.a 3, Opd.dest w.d 1 false true] .k
  | .xlatProbe w => shapeS w true true [Opd.usrc w.a 3, Opd.dest w.d 1 false true] .k
  | .xlatScrub w => shapeS w true false [Opd.usrc w.a 3] .m
  | .xlatPin w => shapeS w true true [Opd.usrc w.a 3, Opd.dest w.d 1 false true] .m
  | .pwrIslq w _ => shapeS w false true [Opd.dest w.d 1 false true]
  | .pwrDorm w => shapeS w false true [Opd.dest w.d 1 false true] .k
  | .pwrWakeq w => shapeS w false true [Opd.dest w.d 1 false true] .k
  | _ => {}

/-- Whether a decoded word is a legal encoding as far as the word alone decides (05 R123). Whether a B = 1 word may stand where it
stands (R90) is decided at issue. -/
def legal (i : Instr) : Bool :=
  let p := shape i
  (p.okU || !p.u) && (p.okN || !p.n) && (p.okB || !p.b) && p.zero && p.own && p.opds.all (Opd.ok p.u)

end Sys2Proof.Machine
end

