-- ==== Sys2Proof/Machine/Store.lean ====
section
/-! DEFINITION. Machine/Store.lean: reading and writing the sparse arrays that hold registers, tiles, scratchpad, code and memory.
Every array is in one canonical form: indices strictly rising, no entry equal to what an unlisted index reads as (zero). -/

namespace Sys2Proof.Machine

/-- The value at index k; an unlisted index reads zero. -/
def rd {w : Nat} : SMap w → Nat → BitVec w
  | [], _ => 0#w
  | (a, v) :: r, k => if a = k then v else rd r k

/-- Puts a value that is not zero at index k. -/
def ins {w : Nat} : SMap w → Nat → BitVec w → SMap w
  | [], k, v => [(k, v)]
  | (a, u) :: r, k, v => if k < a then (k, v) :: (a, u) :: r else if k = a then (a, v) :: r else (a, u) :: ins r k v

/-- Writes v at index k. Writing zero removes the entry. -/
def wr {w : Nat} (m : SMap w) (k : Nat) (v : BitVec w) : SMap w := if v = 0#w then m.filter (fun e => e.1 != k) else ins m k v

/-- The canonical form from a lower bound on. -/
def wfFrom {w : Nat} (lo : Nat) : SMap w → Bool
  | [] => true
  | (a, v) :: r => decide (lo ≤ a) && decide (v ≠ 0#w) && wfFrom (a + 1) r

/-- The canonical form of an array. -/
def SMap.wf {w : Nat} (m : SMap w) : Bool := wfFrom 0 m

/-- The canonical form of memory. -/
abbrev Memory.wf (m : List Host.Cell) : Bool := SMap.wf (w := 8) m

/-- Writes f l at base + l for each lane l of a mask, lanes taken in ascending order. -/
def wrLanes {w : Nat} (m : SMap w) (base : Nat) (mask : Mask) (f : Nat → BitVec w) : SMap w :=
  (List.range 32).foldl (fun m l => if mask.getLsbD l then wr m (base + l) (f l) else m) m

/-- The n bytes from an address on, little-endian, as one number (00 R6). -/
def rdBytes (m : SMap 8) (a : Nat) : Nat → Nat
  | 0 => 0
  | n + 1 => (rd m a).toNat + 256 * rdBytes m (a + 1) n

/-- Writes the n low bytes of a number from an address on, little-endian. -/
def wrBytes (m : SMap 8) (a : Nat) (v : Nat) : Nat → SMap 8
  | 0 => m
  | n + 1 => wrBytes (wr m a (BitVec.ofNat 8 v)) (a + 1) (v / 256) n

/-- Writes a list of bytes from an address on. -/
def wrList (m : SMap 8) (a : Nat) : List (BitVec 8) → SMap 8
  | [] => m
  | b :: r => wrList (wr m a b) (a + 1) r

/-- The n bytes from an address on, lowest first. -/
def rdList (m : SMap 8) (a : Nat) : Nat → List (BitVec 8)
  | 0 => []
  | n + 1 => rd m a :: rdList m (a + 1) n

/-- Writes a list of values from an index on, in one pass: what lies below, the values that are not zero, what lies above. -/
def wrRun {w : Nat} (m : SMap w) (a : Nat) (l : List (BitVec w)) : SMap w :=
  m.filter (fun e => decide (e.1 < a)) ++ ((List.range l.length).filterMap (fun i => match l[i]? with
    | some v => if v = 0#w then none else some (a + i, v)
    | none => none)) ++ m.filter (fun e => decide (a + l.length ≤ e.1))

/-- The n bytes from a on move to b; they leave zeros behind. -/
def shiftBytes (m : SMap 8) (a n b : Nat) : SMap 8 :=
  let within := fun (k : Nat) (e : Nat × BitVec 8) => decide (k ≤ e.1) && decide (e.1 < k + n)
  (m.filter (within a)).foldr (fun e m => wr m (b + (e.1 - a)) e.2) (m.filter (fun e => !within a e && !within b e))

/-- The n low bytes of a number, lowest first. -/
def leBytes (v : Nat) : Nat → List (BitVec 8)
  | 0 => []
  | n + 1 => BitVec.ofNat 8 v :: leBytes (v / 256) n

/-- A list of bytes, lowest first, as one number. -/
def leNat : List (BitVec 8) → Nat
  | [] => 0
  | b :: r => b.toNat + 256 * leNat r

/-- Drops every entry whose index p holds of. -/
def drop {w : Nat} (m : SMap w) (p : Nat → Bool) : SMap w := m.filter (fun e => !p e.1)

end Sys2Proof.Machine
end

