-- ==== Sys2Proof/Machine/State.lean ====
section
/-! DEFINITION. Machine/State.lean: everything the manual gives the machine, as plain data; the reasons a step can stop; the state at reset. -/

namespace Sys2Proof.Machine

/-- Why a step stops. -/
inductive Fault where
  /-- Raised by the meaning of an instruction word when no fragment is issuing (State.cur is none): a word is executed only by a
  fragment (06 R125, R140). Safe. -/
  | noFragment
  deriving DecidableEq, Repr

/-- What the model gives no meaning to. -/
inductive Refusal where
  /-- Raised by an arm of exec whose instruction has no meaning yet. Safe. -/
  | notModelled (mnemonic : String)
  deriving DecidableEq, Repr

/-! ## Groups -/

/-- A bypass latch: invalid, one uniform value, or a value per lane (04 R88). -/
inductive Latch where
  | invalid
  | uni (v : DWord)
  | lanes (v : List DWord)
  deriving DecidableEq, Repr

/-- The kind of a stack entry (06 Table 6.1, KIND). -/
inductive StackKind where
  | recon
  | implicit
  | switch
  deriving DecidableEq, Repr

/-- The parked lanes' mode (06 Table 6.1, PMODE). -/
inductive PMode where
  | none
  | arm
  | remainder
  deriving DecidableEq, Repr

/-- A scoreboard (06 R141): the flights whose pending writes it holds, and the cycles until which vector registers and tile rows are pending. -/
structure Board where
  flights : List Nat
  regs : List (Nat × Nat)
  rows : List (Nat × Nat)
  deriving DecidableEq, Repr

/-- The scope of an order field or a fence (04 Table 4.9; 11 Table 11.4). -/
inductive Scope where
  | none
  | die
  | package
  | system
  deriving DecidableEq, Repr

/-- A trap as an instruction raises it: the cause, the lanes for TRAPM (none: Active), the value for TRAPV, the detail for the record and how
far past the word the frame PC lies. -/
structure Trap where
  cause : BitVec 8
  mask : Option Mask := none
  val : DWord := 0#64
  detail : BitVec 8 := 0#8
  past : DWord := 0#64
  deriving DecidableEq, Repr

/-- The in-flight counters (11 Table 11.2). -/
inductive Ctr where
  | g
  | s
  | f
  | w
  deriving DecidableEq, Repr

/-- What a fragment waits for at its word (06 R127): nothing; a barrier phase of parity par, or its completion; a monitored wait; a
fence; a counter that is to stand at or below the threshold that its WAITC read (11 R280); a four-in-hand rendezvous, with its arrival number, or, once its set has started, the end of the
cycle of the start (10 R240); the Dray commands that a DWAIT.ALL waits for (13 R326); SYS.WFI; XLAT.SCRUB; the end of the other fragment's bonded run, or its being live again, to deliver a
trap that its wait ended in (04 R91; 06 R135). -/
inductive Waiting where
  | no
  | barrier (off : Nat) (par : Bool)
  | barrierDone
  | monitor (flight : Nat)
  | fence (scope : Nat)
  | fenceVa
  | waitc (k : Ctr) (n : Nat)
  | rendezvous (order : Nat)
  | started (cycle : Nat)
  | dwait (ids : List (BitVec 16))
  | wfi
  | wfiDone
  | scrub (base len : Nat)
  | trapDue (t : Trap)
  deriving DecidableEq, Repr

/-- A divergence stack entry (06 Table 6.1); rpc is none when the entry has no reconvergence point. pboard is the scoreboard of the parked
fragment, pwait what it waits for, aboard the union of the scoreboards of the fragments that arrived (06 R135, R136). -/
structure StackEntry where
  rpc : Option DWord
  ppc : DWord
  pmode : PMode
  origin : DWord
  kind : StackKind
  rmask : Mask
  arr : Mask
  pmask : Mask
  pboard : Board
  pwait : Waiting
  aboard : Board
  deriving DecidableEq, Repr

/-- A live fragment (06 R132): PC and Active; the latches, position, head and identity of its bonded run (04 R88, R90); whether the word it
last executed may be followed by a member; whether the next word is a member, so that the bay is its own (R91); its
scoreboard; its age (06 R129); what it waits for. -/
structure Frag where
  pc : DWord
  mask : Mask
  latches : List Latch
  run : Nat
  head : DWord
  runId : Nat
  chain : Bool
  bonded : Bool
  board : Board
  age : Nat
  wait : Waiting
  deriving DecidableEq, Repr

/-- Why a group stops (16 R395, R407, Table 16.7 WHY). -/
inductive Why where
  | trap
  | preempt
  | collapse
  deriving DecidableEq, Repr

/-- Where a group stands: running; stopping (it issues nothing and its words settle); saving; held in its slot by a save that faulted
(16 R410); stopped or pre-empted, its context in its frame unit; queued for restore by ERET; draining after its last lane exited; gone. -/
inductive GStatus where
  | running
  | stopping (why : Why)
  | saving (why : Why)
  | held (why : Why)
  | stopped (why : Why)
  | queued
  | draining
  | gone
  deriving DecidableEq, Repr

/-- One entry of the Dray failure log (13 R324). -/
structure DrayLog where
  id : BitVec 16
  code : BitVec 8
  deriving DecidableEq, Repr

/-- A replay entry (16 Table 16.8). order is its word's place in the issue order of its group, which is given at the restore (16 R399). -/
structure Replay where
  pc : DWord
  word : Word
  mask : Mask
  wb : BitVec 16
  frag : Nat
  order : Nat := 0
  deriving DecidableEq, Repr

/-- A Dray remainder (16 Table 16.9). -/
structure Remainder where
  ctl : DWord
  src : DWord
  dst : DWord
  aux : DWord
  done : Nat
  id : BitVec 16
  fn : BitVec 8
  deriving DecidableEq, Repr

/-- What the device keeps of a command over a stop beside its remainder: the word's PC and lanes, its SIBS, the rows a SPILL read, the difference a POOLCMP has found, the rest of the last 8 bytes
read of its source, with their address (13 R319, R323, R324, R332);
and its place in issue order: while the group is saved, how many of its replay entries come before it (13 R324; 16 R399). -/
structure KeptDray where
  id : BitVec 16
  pc : DWord
  mask : Mask
  sibs : Bool
  rows : List (List Word)
  differ : Option Nat
  ahead : Option (DWord × List (BitVec 8))
  order : Nat
  deriving DecidableEq, Repr

/-- A word in flight: issued and not completed. left are the lanes not yet done, unacc those not yet accepted (16 R398); addrs are the registers it reads as address or data; dst the allocation
registers and udst the uniform registers it will write; faulted the lanes that faulted, with the cause, detail and address of each; order is its place in the issue order of its group (16 R399);
acquire is the scope its completion acquires at, mem whether it is a memory word, held a barrier arrival that R340 still holds; vec are the slice vectors that its answers brought (15 R381); args
are the values an XLAT word or a held arrival was issued with. -/
structure Flight where
  id : Nat
  word : Word
  args : List DWord
  pc : DWord
  frag : Nat
  mask : Mask
  wb : BitVec 16
  runId : Nat
  head : DWord
  pos : Nat
  left : Mask
  unacc : Mask
  srcs : List Nat
  usrcs : List Nat
  dst : List Nat
  udst : List Nat
  pdst : Bool
  acquire : Scope
  vec : List (List Nat)
  mem : Bool
  held : Bool
  faulted : List (Nat × BitVec 8 × BitVec 8 × DWord)
  order : Nat
  deriving DecidableEq, Repr

/-- A SEND that has issued and is blocked (14 R354): the leader and PC of its fragment, the team and channel that it named, and the slot that it formed. -/
structure SendWait where
  leader : Nat
  pc : DWord
  lin : Nat
  chan : Nat
  slot : List Word
  deriving DecidableEq, Repr

/-- A group: identity, registers, CSRs, control state, words in flight. Counters are the queues of the words counted, oldest first, each with whether it has completed (11 R261): a counter's value
is its queue's length. sends are its blocked SENDs in issue order. fhcount counts the MMAF words started since the last FHSET; fhFinal is the cycle in which the last row of
the started ones is final; fhbroken says that a named member which shared the specification has
replaced it since (10 R240, R241). owed says that it stops with its set once its bonded run has issued (10 R242), refault that its save has faulted and is repeated (16 R410).
vaFences counts the FENCEVAs that it has completed (11 R279; 15 R367). -/
structure Group where
  gid : Nat
  vd : Nat
  vdie : Nat
  site : Site
  bay : Nat
  slot : Nat
  level : Level
  team : Nat
  num : Nat
  role : Nat
  handle : Nat
  prio : Nat
  status : GStatus
  vregs : Nat
  tiles : Nat
  regBlk : Nat
  tileBlk : Nat
  v : SMap 32
  s : SMap 64
  p : SMap 32
  t : SMap 32
  wbase : BitVec 64
  gstat : BitVec 64
  gcfg : BitVec 64
  chteam : BitVec 64
  trapc : BitVec 64
  trappc : BitVec 64
  trapv : BitVec 64
  trapm : BitVec 64
  detail : BitVec 8
  frags : List Frag
  lastFrag : Nat
  stack : List StackEntry
  spilled : Nat
  exited : Mask
  fhspec : BitVec 64
  fhcount : Nat
  fhFinal : Nat
  fhbroken : Bool
  refuse : Option DWord
  dlog : List DrayLog
  drayId : BitVec 16
  cg : List (Nat × Bool)
  cs : List (Nat × Bool)
  cf : List (Nat × Bool)
  cw : List (Nat × Bool)
  flights : List Flight
  sends : List SendWait
  rows : List (Nat × Nat)
  replay : List Replay
  remainders : List Remainder
  kept : List KeptDray
  owed : Bool
  refault : Bool
  vaFences : Nat
  deriving DecidableEq, Repr

/-- The fragment that is issuing: its group's gid and its place in the group's list of live fragments. -/
structure Cur where
  gid : Nat
  fi : Nat
  deriving DecidableEq, Repr

/-! ## Teams and clusters -/

/-- A place that a RECV has taken at an empty ring (14 R355): its group, the leader and PC of the fragment, and the allocation register it writes. -/
structure Claim where
  gid : Nat
  leader : Nat
  pc : DWord
  reg : Nat
  deriving DecidableEq, Repr

/-- A dataflow channel's ring (14 R352): SLOTS, the slot that holds the oldest value, how many are full, and the RECVs that wait, in the order they reached it. The slots
lie in the team's scratchpad block above SCRATCH, in channel order (01 R19), where no LDS or STS reaches (11 R253). -/
structure Chan where
  slots : Nat
  head : Nat
  count : Nat
  claims : List Claim
  deriving DecidableEq, Repr

/-- A role of an image (01 Table 1.4): its entry offset, VREGS, TILES and group count. -/
structure RoleRec where
  entry : Nat
  vregs : Nat
  tiles : Nat
  groups : Nat
  deriving DecidableEq, Repr

/-- Where a team stands: resident; saved and waiting to be placed again; retired. -/
inductive TeamStatus where
  | resident
  | saved
  | retired
  deriving DecidableEq, Repr

/-- A team: its place in its launch and grid (01 R14-R16), its declaration, its scratchpad block in the cluster's SRAM, the offset in the save area of the block it
is saved to (16 R407, R413), its channel rings, the frame unit of its group 0, which holds its codebook image (09 R205; 16 R413), the cycle its quantum ends and, once it is
being pre-empted, one more than the cycle in which that began (16 R407, R409), and the cycle at which it first fitted while steering held it (03 R74). -/
structure Team where
  tid : Nat
  vd : Nat
  vdie : Nat
  site : Site
  kernel : Bool
  launch : Nat
  node : Nat
  lin : Nat
  tx : Nat
  ty : Nat
  tz : Nat
  gx : Nat
  gy : Nat
  gz : Nat
  roles : List RoleRec
  scratch : Nat
  nbars : Nat
  fourhand : Bool
  split : Nat
  block : Nat
  size : Nat
  chans : List Chan
  unit0 : Nat
  cbUsed : Bool
  status : TeamStatus
  saveBlk : Option Nat
  drained : Nat
  quantum : Nat
  grace : Nat
  held : Option Nat
  deriving DecidableEq, Repr

/-- A word held in an L1 (11 R254): its address space and virtual word address, the physical word address and the guest physical one that led to it, the data, and whether it is homed on
another die. -/
structure L1Word where
  asid : Nat
  va : Nat
  pa : Nat
  gpa : Nat
  data : Word
  remote : Bool
  sibs : Bool
  deriving DecidableEq, Repr

/-- The matrix array of a bay (10 R229; 02 R45): busy until a cycle, last working cycle, and whether a start grant is held or asked for. -/
structure MatArray where
  until_ : Nat
  last : Nat
  granted : Bool
  asking : Bool
  deriving DecidableEq, Repr

/-- A cluster, or a supervisor core: split, SRAM, L1, codebook table, arrays by bay, the end of its start grant and the cycle of its outstanding request for one, round-robin
pointers and last issue cycles by bay. -/
structure Cluster where
  site : Site
  split : Nat
  sram : SMap 8
  l1 : List L1Word
  codebook : SMap 32
  arrays : List MatArray
  grantUntil : Nat
  asked : Nat
  rr : List (Nat × Nat)
  lastIssue : List (Nat × Nat)
  deriving DecidableEq, Repr

/-! ## Memory traffic -/

/-- The operations of the atomic-class words (14 Table 14.4). -/
inductive AtOp where
  | add
  | fadd
  | decp
  | incw
  | min
  | max
  | minu
  | maxu
  | and
  | or
  | xor
  | swap
  | cas32
  | cas64
  | add64
  deriving DecidableEq, Repr

/-- What a request asks for at its point of performance (15 Table 15.2). sram is an LDS or STS, whose data moved at issue (11 R273). -/
inductive MemOp where
  | load
  | store
  | ldsc
  | lsib (i : Nat)
  | pref
  | atomic (o : AtOp)
  | red (o : AtOp)
  | rcn
  | waita (timed : Bool)
  | wake (all : Bool)
  | sram
  deriving DecidableEq, Repr

/-- Where a lane's operand of a RED stands (14 R346): it goes alone; another access's request carries it; that request has been performed, and was refused or not. -/
inductive Merge where
  | alone
  | carried (req lane : Nat)
  | done (refused : Bool)
  deriving DecidableEq, Repr

/-- One lane's access: its address and its operand (store data, atomic operand; second is the new value of a CAS, the timeout of a WAITA, the
token an RCN compares). terms are the operands of a RED that carries others, each already a combination, in the order in which its home applies them. -/
structure Access where
  lane : Nat
  va : DWord
  data : Nat
  second : Nat
  merge : Merge := .alone
  terms : List Nat := []
  deriving DecidableEq, Repr

/-- A completed translation (12 R291, R294): pages and combined flags. shadow marks the translation of a Dray write to a publishable buffer
(13 R328). -/
structure Xl where
  va : Nat
  size : Nat
  gpa : Nat
  pa : Nat
  r : Bool
  w : Bool
  x : Bool
  k : Bool
  fed : Bool
  rdup : Bool
  publ : Bool
  dev : Bool
  shadow : Bool
  deriving DecidableEq, Repr

/-- An STC entry (12 R294), with the generations of the two stages at its walk. -/
structure StcEntry where
  vd : Nat
  die : Nat
  slice : Nat
  asid : Nat
  gen1 : BitVec 32
  gen2 : BitVec 32
  xl : Xl
  deriving DecidableEq, Repr

/-- A recorded BLOCK (12 R298) or publish block (13 R329) of a slice; asid none is every ASID. -/
structure BlockRec where
  op : Nat
  vd : Nat
  die : Nat
  slice : Nat
  stage2 : Bool
  asid : Option Nat
  base : Nat
  len : Nat
  wonly : Bool
  deriving DecidableEq, Repr

/-- Directory lock bits that a slice's writes-only BLOCK set at the homes of a range (12 R298), until that slice's PURGE clears them (R299). -/
structure LockRec where
  op : Nat
  vd : Nat
  die : Nat
  slice : Nat
  stage2 : Bool
  asid : Option Nat
  base : Nat
  len : Nat
  pa : Nat
  size : Nat
  deriving DecidableEq, Repr

/-- Where a request stands: in its egress queue; at its entry slice; at its home; performed, its answer on the way back; refused with REMAP. -/
inductive Stage where
  | egress
  | entry
  | home
  | reply
  | remap
  deriving DecidableEq, Repr

/-- What a performed lane brings back: its value, and the bit for p7 of a returning atomic. -/
structure LaneResult where
  lane : Nat
  value : Nat
  p7 : Option Bool
  deriving DecidableEq, Repr

/-- A request: one per line of a memory word (11 R255), or a token-taking SEND (14 R354). vd is the tenant, die the die it was sent from, slice its entry slice there and gen the slice-map
generation it carries (12 R312). uni says the result goes to uniform registers. fill are the words its answer brings to the L1 (11 R254). vec is the slice vector read where the request was
performed (15 R381). order is its place in the issue order of its group; out the V_d it carries from its entry slice (R380); home the home its entry slice chose (12 R312); lost says that its
answer carries data whose check did not match (17 R439); half says that the first 8 bytes of a 16-byte access have been performed (11 R269); reached that it has been found at its entry slice,
behind a block or another request, by the time of any later fault of its group (16 R399); fence how many FENCEVAs its group had completed when it was issued (15 R367). -/
structure Req where
  id : Nat
  gid : Nat
  flight : Nat
  vd : Nat
  die : Nat
  vdie : Nat
  site : Site
  asid : Nat
  user : Bool
  op : MemOp
  size : Nat
  uni : Bool
  nc : Bool
  bypass : Bool
  lanes : List Access
  stage : Stage
  slice : Nat
  gen : Nat
  xl : Option Xl
  results : List LaneResult
  fill : List L1Word
  sibs : Bool
  refused : Option DWord
  vec : List Nat
  lost : Bool
  order : Nat
  out : Option (List Nat)
  home : Option (Nat × Nat)
  half : Bool
  reached : Bool
  fence : Nat
  deriving DecidableEq, Repr

/-- A word of a remote line held in an entry slice (11 R258), by physical word number, with the VA and GPA that led to it; gid is the group whose store last
made it dirty. -/
structure RemoteWord where
  gid : Nat
  vd : Nat
  die : Nat
  slice : Nat
  word : Nat
  asid : Nat
  va : Nat
  gpa : Nat
  data : Word
  dirty : Bool
  fed : Bool
  sibs : Bool
  deriving DecidableEq, Repr

/-- One sibling: its value and its dot's fields (14 Table 14.8). -/
structure Sib where
  die : Nat
  rcnt : Nat
  aged : Bool
  value : BitVec 64
  deriving DecidableEq, Repr

/-- A federated cell with a dot of its own, by physical cell number (pa div 8); its siblings in ascending die order. The bytes of the first are also memory's. A
cell not listed has one value with dot 0x10 (15 R383). tab says that the siblings beyond the first are in the home slice's table, not spilled (14 R357). -/
structure FedCell where
  vd : Nat
  cell : Nat
  sibs : List Sib
  stamp : Nat
  tab : Bool
  deriving DecidableEq, Repr

/-- An armed monitor (14 R347, R348), with the address space, VA and GPA under which its word was named. due is the cycle of its home die in which a timed one expires. woken holds the reason and
value once a cause has occurred, until MONITOR_WAKE delivers it. -/
structure Monitor where
  id : Nat
  vd : Nat
  die : Nat
  slice : Nat
  word : Nat
  gid : Nat
  flight : Nat
  timed : Bool
  due : Nat
  asid : Nat
  va : Nat
  gpa : Nat
  vec : List Nat
  woken : Option (Nat × Nat)
  deriving DecidableEq, Repr

/-- Where a Dray command stands: waiting (a PUB that has not started); moving units; a PUB started, its slices blocking; swapped; finished. -/
inductive DrayPhase where
  | waiting
  | moving
  | blocking
  | finished
  deriving DecidableEq, Repr

/-- A Dray command in a slot (13 R319): args are the control word, SRC, DST and AUX; rows the tile rows a SPILL read at issue; got the new bytes
of an emulated POOLRED element that has been read and not yet written (13 R333); ahead the rest of the aligned 8 bytes of the source that its last unit ended in, with their address, as they were
read with it (R323); seq a PUB's place in the relay order (16 R416); srcs the uniform registers
of its arguments, until it has started (16 R398); pend the slices a PUB still waits for; fault a translation fault it met; err a run-time failure found; target the package and window
that a PUT's bytes went to; order its place in the issue order of its group (R324). -/
structure DrayCmd where
  id : Nat
  gid : Nat
  site : Site
  vd : Nat
  die : Nat
  drayId : BitVec 16
  fn : BitVec 4
  atom : Bool
  args : List DWord
  pc : DWord
  mask : Mask
  done : Nat
  rows : List (List Word)
  sibs : Bool
  usesS : Bool
  usesF : Bool
  phase : DrayPhase
  pend : List (Nat × Nat)
  fault : Option (BitVec 8 × BitVec 8 × DWord)
  err : Option DrayErr
  differ : Option Nat
  target : Option (Nat × Nat)
  got : Option (List (BitVec 8))
  ahead : Option (DWord × List (BitVec 8))
  seq : Nat
  srcs : List Nat
  order : Nat
  deriving DecidableEq, Repr

/-- A BLOCK or PURGE on the relay (12 R298, R299): the slices that have not acknowledged, the group and flight whose XLAT word it completes. -/
structure ShootOp where
  id : Nat
  vd : Nat
  gid : Nat
  flight : Nat
  seq : Nat
  purge : Bool
  stage2 : Bool
  asid : Option Nat
  base : Nat
  len : Nat
  wonly : Bool
  pend : List (Nat × Nat)
  failed : Nat
  deriving DecidableEq, Repr

/-! ## Virtual devices -/

/-- A valid die entry (02 Table 2.2) with its slice mask. -/
structure DieEntry where
  pdie : Nat
  clim : Nat
  cbase : Nat
  slices : BitVec 64
  deriving DecidableEq, Repr

/-- A VD descriptor (02 Table 2.1), with the values that 0 selects in place. -/
structure Desc where
  wclass : Nat
  sibmax : Nat
  idlems : Nat
  monlim : Nat
  quantus : Nat
  priomax : Nat
  splits : Nat
  arena : Nat
  arenasz : Nat
  dies : List DieEntry
  rreq : Nat
  rburst : Nat
  saveBase : Nat
  s2root : Nat
  asidBase : Nat
  asidCnt : Nat
  deriving DecidableEq, Repr

/-- A registered image (01 R17-R21, R29): its source address, the addresses of its copied sections, the 64 KiB pages of the code region that hold them, and its declaration. -/
structure Image where
  src : Nat
  code : Nat
  codeSize : Nat
  const : Nat
  constSize : Nat
  pages : List Nat
  argSize : Nat
  roles : List RoleRec
  split : Nat
  nbars : Nat
  chans : List Nat
  scratch : Nat
  fourhand : Bool
  deriving DecidableEq, Repr

/-- A graph node (01 Table 1.6): its image by place in the graph's list. -/
structure GNode where
  image : Nat
  gx : Nat
  gy : Nat
  gz : Nat
  vdfirst : Nat
  vdcount : Nat
  argdisp : Nat
  heavy : Bool
  deriving DecidableEq, Repr

/-- A registered graph (01 R25-R32): live until unregistered; its code stays until its launches end. -/
structure Graph where
  handle : Nat
  asid : Nat
  nodes : List GNode
  edges : List (Nat × Nat)
  images : List Image
  live : Bool
  deriving DecidableEq, Repr

/-- A node's progress in a launch (01 R26): released, its release order, and how many of its teams have retired. -/
structure NodeRun where
  released : Bool
  order : Nat
  retired : Nat
  deriving DecidableEq, Repr

/-- A launch (02 R39-R42): its number, graph, argument offset, effective priority. -/
structure Launch where
  num : Nat
  handle : Nat
  argoff : Nat
  prio : Nat
  nodes : List NodeRun
  deriving DecidableEq, Repr

/-- A dispatcher's undispatched range of a node (03 R58): indices lo to hi - 1; the victims that have refused, whether all have (03 R65), whether a probe is out, and the
cycle at which its next team first fitted while steering held it (03 R74). -/
structure Range where
  launch : Nat
  node : Nat
  lo : Nat
  hi : Nat
  refused : List Nat
  stopped : Bool
  probing : Bool
  held : Option Nat
  deriving DecidableEq, Repr

/-- A steal in flight (03 R64, R65): answer is none until the victim has handled it, then the given indices or a refusal (an empty range). -/
structure Steal where
  id : Nat
  vd : Nat
  launch : Nat
  node : Nat
  thief : Nat
  victim : Nat
  answer : Option (Nat × Nat)
  deriving DecidableEq, Repr

/-- A message in a receive queue (16 R416, R423): a relay message, or a reply of the SMC service; ext says that it came over the Coupler, from another package (17 R436). -/
structure RlyMsg where
  seq : Nat
  src : Nat
  smc : Bool
  ext : Bool
  bytes : List (BitVec 8)
  deriving DecidableEq, Repr

/-- A fault record to be written (16 Table 16.2); the CYCLE field is filled when it is written. gid names the stopped group of a TRAP record. -/
structure Record where
  type : Nat
  cause : BitVec 8
  detail : BitVec 8
  vdie : Nat
  handle : Nat
  trappc : BitVec 64
  trapv : BitVec 64
  trapm : BitVec 32
  nreplay : Nat
  arg0 : BitVec 64
  arg1 : BitVec 64
  deriving DecidableEq, Repr

/-- A die-kernel instance and what the VD keeps on its die (16 R406, R414-R416; 15 R378; 12 R296; 02 R43). bells are the kernel slots whose group has not seen the doorbell since
its last WFI. vec is V_d, indexed by physical die. lag says the pass's SWEEPLAG record was posted. -/
structure Inst where
  vdie : Nat
  pdie : Nat
  failed : Bool
  s1tab : BitVec 64
  quant : Nat
  debt : Nat
  frbase : BitVec 64
  frset : Bool
  frhead : BitVec 32
  frtail : BitVec 32
  frlost : BitVec 32
  ktimer : BitVec 64
  queue : List RlyMsg
  inbox : List RlyMsg
  bells : List Nat
  records : List Record
  ranges : List Range
  tokens : Nat
  vec : List Nat
  base : Nat
  lag : Bool
  s1gen : BitVec 32
  s2gen : BitVec 32
  deriving DecidableEq, Repr

/-- STATE of a VD (02 Table 2.5). -/
inductive VdState where
  | active
  | idle
  | collapsing
  | dormant
  | waking
  deriving DecidableEq, Repr

/-- A function's mailbox (17 Table 17.3). -/
structure Mbox where
  req : List (BitVec 8)
  status : BitVec 64
  result : BitVec 64
  ready : Bool
  busy : Bool
  deriving DecidableEq, Repr

/-- A virtual device. steps counts the collapse steps done; interrupted says a wake event met the collapse; due says a timer expired during service (17 R428); wakeCause and wakeUs are what
PWR.WAKEQ reads; codeVa is where the die-kernel image (16 R415) appears, and above it, from codeNext on, the sections of the graphs registered next; kernelPa and codePa are where the
image and the 256 MiB code region (01 R29) lie; tables are the frames for stage-2 tables that the SMC has left (log 6). -/
structure Vd where
  num : Nat
  desc : Desc
  insts : List Inst
  graphs : List Graph
  launches : List Launch
  steals : List Steal
  state : VdState
  timer : Bool
  due : Bool
  steps : Nat
  interrupted : Bool
  wakeCause : Nat
  wakeUs : BitVec 32
  waits : Bool
  cfail : Bool
  savef : Bool
  resetting : Bool
  dropCause : Nat
  dropCount : Nat
  felast : BitVec 64
  feacc : BitVec 32
  fecmp : BitVec 32
  hwva : Nat
  hwasid : Nat
  hwerr : Nat
  codeVa : Nat
  codeNext : Nat
  codePa : Nat
  kernelPa : Nat
  saveGpa : Nat
  tables : List Nat
  kernelEntry : DWord
  relaySeq : Nat
  pass : Nat
  sweeping : Bool
  snapshot : List Nat
  order : Nat
  deriving DecidableEq, Repr

/-! ## The package -/

/-- A field (03 Table 3.3; 17 R429-R431, R440): service state as FSTATE codes it, ILIM, IMEAS, whether its PLL runs, whether it is being recalibrated and whether that
stops the PLL (log 89). -/
structure FieldSt where
  svc : Nat
  ilim : BitVec 16
  imeas : BitVec 16
  pll : Bool
  recal : Bool
  stops : Bool
  deriving DecidableEq, Repr

/-- A target window of this package (17 R435); bad are the puts that it is receiving of which bytes could not be performed. -/
structure Window where
  num : Nat
  vd : Nat
  asid : Nat
  va : Nat
  size : Nat
  cntva : Nat
  pkg : Nat
  tag : Nat
  aborted : Bool
  bad : List Nat
  deriving DecidableEq, Repr

/-- A source path to a window of another package (17 R435); gpa is where the SMC mapped it. -/
structure SourcePath where
  vd : Nat
  asid : Nat
  pkg : Nat
  win : Nat
  cntva : Nat
  tag : Nat
  gpa : Nat
  isOpen : Bool
  deriving DecidableEq, Repr

/-- A request to the SMC's service queue (17 R437). -/
structure SvcReq where
  vd : Nat
  vdie : Nat
  bytes : List (BitVec 8)
  deriving DecidableEq, Repr

/-- A host access through the memory aperture (17 R434) that waits, with its address space and address: for the channels of its virtual device to leave self-refresh (02 R51),
or for a block to be lifted. fe is no access but an accepted launch, numbered val, that is processed behind the function's earlier writes (02 R40). -/
structure HostOp where
  vd : Nat
  asid : Nat
  va : DWord
  size : Nat
  isWrite : Bool
  val : Nat
  fe : Bool
  deriving DecidableEq, Repr

/-- Bytes of a PUT from another package that wait in the same way: the window, the offset, which PUT they are of and whether they are its last (17 R435). -/
structure PutOp where
  win : Nat
  off : Nat
  bytes : List (BitVec 8)
  part : PutPart
  deriving DecidableEq, Repr

/-- The surge arbiter of a field (02 R45): its window, the grants made in it, the VD last served. -/
structure Surge where
  window : Nat
  grants : Nat
  last : Nat
  deriving DecidableEq, Repr

/-- Who waits for rate tokens beside the clusters' requests (02 R43): a SEND at its word, a dispatcher's steal request, a unit of a Dray command, a request that its home has refused and that goes
out again (12 R312). -/
inductive Taker where
  | send (gid : Nat) (pc : DWord)
  | steal (vdie : Nat)
  | unit (cmd : Nat)
  | resend (req : Nat)
  deriving DecidableEq, Repr

/-- A place in the queues for rate tokens of a virtual device on a die, by age. -/
structure Ticket where
  age : Nat
  vd : Nat
  die : Nat
  who : Taker
  deriving DecidableEq, Repr

/-- A change of a die's slice map that is under way (12 R313): the old masks of its windows, the slices that it retires, the slices and clusters that have not acknowledged. -/
structure MapChange where
  die : Nat
  old : List (BitVec 64)
  gone : BitVec 64
  slices : List Nat
  sites : List Site
  deriving DecidableEq, Repr

/-- The machine. tried are the fragments whose word was found not ready since a word last issued (06 R127). syscalls are the groups whose SYSCALL nobody has served (01 R27).
hostReads is what reads through the memory aperture have returned, with their function (17 R434). Lists keyed by numbers hold only what differs from its reset value. mem is
memory by physical address (12 Table 12.5). -/
structure State where
  groups : List Group
  teams : List Team
  clusters : List Cluster
  cur : Option Cur
  tried : List Cur
  cycles : List (Nat × Nat)
  freeCtr : Nat
  nextId : Nat
  agenda : List Instr
  mem : SMap 8
  vds : List Vd
  reqs : List Req
  stc : List StcEntry
  blocks : List BlockRec
  remote : List RemoteWord
  fed : List FedCell
  monitors : List Monitor
  drays : List DrayCmd
  shoots : List ShootOp
  stamps : List (Nat × Nat)
  hvecs : List (Nat × List Nat)
  sliceMap : List (Nat × BitVec 64)
  mapGen : List (Nat × Nat)
  retiredSlices : List Nat
  fields : List FieldSt
  early : Bool
  surges : List Surge
  failed : List Nat
  retired : List Nat
  integrity : List Nat
  mboxes : List (Nat × Mbox)
  pace : List (Nat × Nat)
  poolFarOps : Bool
  windows : List Window
  paths : List SourcePath
  services : List SvcReq
  smcTold : List Nat
  smcRecords : List (Nat × Record)
  smcHalted : Bool
  standby : Bool
  failover : Bool
  chanService : List (Nat × Nat)
  hostHeld : List HostOp
  hostReads : List (Nat × List (BitVec 8))
  putHeld : List PutOp
  tickets : List Ticket
  locks : List LockRec
  mapChanges : List MapChange
  syscalls : List Nat
  deriving DecidableEq, Repr

/-- A field at package reset: off, at its default current limit (03 Table 3.3; 17 Table 17.4). -/
def FieldSt.reset : FieldSt := { svc := 0, ilim := 13000#16, imeas := 0#16, pll := false, recal := false, stops := false }

/-- The package right after reset: nothing created, nothing in flight, every field off, every stamp counter about to give 1 (14 R359; log 11). -/
def State.reset : State :=
  { groups := [], teams := [], clusters := [], cur := none, tried := [], cycles := [], freeCtr := 0, nextId := 0, agenda := [], mem := [], vds := [], reqs := [],
    stc := [], blocks := [], remote := [], fed := [], monitors := [], drays := [], shoots := [], stamps := [], hvecs := [], sliceMap := [], mapGen := [],
    retiredSlices := [], fields := List.replicate 8 FieldSt.reset, early := false,
    surges := List.replicate 8 { window := 0, grants := 0, last := 0 }, failed := [], retired := [], integrity := [], mboxes := [], pace := [],
    poolFarOps := false, windows := [], paths := [], services := [], smcTold := [], smcRecords := [], smcHalted := false, standby := false, failover := false,
    chanService := [], hostHeld := [], hostReads := [], putHeld := [], tickets := [], locks := [], mapChanges := [], syscalls := [] }

end Sys2Proof.Machine
end

