-- ==== Sys2Proof/Machine/Ops.lean ====
section
/-! DEFINITION. Machine/Ops.lean: the named operations over registers, groups and fragments; taking a trap; the lanes of a mask. -/

namespace Sys2Proof.Machine

/-! ### Lanes -/

/-- The lanes of a mask, ascending. -/
def lanesOf (m : Mask) : List Nat := (List.range 32).filter (fun l => m.getLsbD l)

/-- Leader: the lowest-numbered lane of a mask (00 Table 0.4). -/
def leader (m : Mask) : Nat := ((List.range 32).find? (fun l => m.getLsbD l)).getD 0

/-- The mask of the lanes of which p holds. -/
def maskOf (p : Nat → Bool) : Mask := (List.range 32).foldl (fun m l => if p l then m ||| BitVec.twoPow 32 l else m) 0#32

/-- The active lanes of which p holds. -/
def activeOf (m : Mask) (p : Nat → Bool) : Mask := maskOf (fun l => m.getLsbD l && p l)

/-! ### Sites and groups -/

/-- The die a site lies on. DESIGN CHOICE (log 78): the SMC core, which is on an I/O die, counts as field 0, whose cycle counter its groups read with CYCLE, after a failover too (07 R179). -/
def siteDie : Site → Nat
  | .cluster d _ => d
  | .core d _ => d
  | .smc => 0

/-- Whether a site is a compute cluster. -/
def isCluster : Site → Bool
  | .cluster _ _ => true
  | _ => false

/-- An association list read at k, zero where it lists nothing. -/
def assoc (m : List (Nat × Nat)) (k : Nat) : Nat := ((m.find? (fun e => e.1 == k)).map Prod.snd).getD 0

/-- An association list with k bound to v. -/
def assocSet (m : List (Nat × Nat)) (k v : Nat) : List (Nat × Nat) := (k, v) :: m.filter (fun e => e.1 != k)

/-- The arithmetic-clock cycle counter of a die (07 R179). -/
def cycleOf (s : State) (die : Nat) : Nat := assoc s.cycles die

/-- The group with an identity. -/
def findGroup (s : State) (gid : Nat) : Option Group := s.groups.find? (fun g => g.gid == gid)

/-- Puts a group's record back in its place. -/
def setGroup (s : State) (g : Group) : State :=
  { s with groups := s.groups.map (fun h => if h.gid == g.gid then g else h) }

/-! ### Teams and clusters -/

/-- The team with an identity, a default where there is none. -/
def findTeam (s : State) (tid : Nat) : Option Team := s.teams.find? (fun t => t.tid == tid)

def setTeam (s : State) (t : Team) : State :=
  { s with teams := s.teams.map (fun h => if h.tid == t.tid then t else h) }

/-- A site's cluster record as a fresh one: nothing held, arrays idle since cycle 0. -/
def freshCluster (site : Site) : Cluster :=
  { site := site, split := 0, sram := [], l1 := [], codebook := [], arrays := List.replicate 4 { until_ := 0, last := 0, granted := false, asking := false }, grantUntil := 0, asked := 0,
    rr := [], lastIssue := [] }

/-- The record of a site; a site nothing has touched is fresh. -/
def clusterOf (s : State) (site : Site) : Cluster := (s.clusters.find? (fun k => k.site == site)).getD (freshCluster site)

/-- Puts a site's record in place. -/
def setCluster (s : State) (k : Cluster) : State :=
  if s.clusters.any (fun h => h.site == k.site) then { s with clusters := s.clusters.map (fun h => if h.site == k.site then k else h) }
  else { s with clusters := k :: s.clusters }

/-! ### Registers -/

/-- Lane l of allocation register r (R77). -/
def vget (g : Group) (r l : Nat) : Word := rd g.v (r * 32 + l)

/-- The allocation register that a field value names through the window (R77). -/
def regOf (g : Group) (fld : BitVec 7) : Nat := g.wbase.toNat + fld.toNat

/-- Writes a vector register in the lanes of a mask (R81). -/
def vset (g : Group) (r : Nat) (m : Mask) (f : Nat → Word) : Group := { g with v := wrLanes g.v (r * 32) m f }

/-- A uniform register; s0 reads as zero (R76). -/
def sget (g : Group) (i : Nat) : DWord := if i = 0 then 0#64 else rd g.s i

/-- Writes a uniform register; a write to s0 is discarded (R79). -/
def sset (g : Group) (i : Nat) (x : DWord) : Group := if i = 0 then g else { g with s := wr g.s i x }

/-- A predicate; p0 reads as all ones (R76). -/
def pget (g : Group) (i : Nat) : Mask := if i = 0 then 0xFFFFFFFF#32 else rd g.p i

/-- Writes the bits of a predicate in the lanes of a mask; a write to p0 is discarded (R80). -/
def pset (g : Group) (i : Nat) (m x : Mask) : Group :=
  if i = 0 then g else { g with p := wr g.p i ((rd g.p i &&& ~~~m) ||| (x &&& m)) }

/-- Element (i, j) of tile k (R219). -/
def tget (g : Group) (k i j : Nat) : Word := rd g.t ((k * 32 + i) * 32 + j)

/-- Writes the elements of row i of tile k in the columns of a mask. -/
def trow (g : Group) (k i : Nat) (m : Mask) (f : Nat → Word) : Group := { g with t := wrLanes g.t ((k * 32 + i) * 32) m f }

/-! ### The context a word executes in -/

/-- The fragment that issues: the state, and the working copies of its group and of itself, which commit puts back; bond says whether the
next word is a member of the run (R91), chain whether this word is one that a member may follow (R90). held is the state in which the word has
not issued. -/
structure Ctx where
  s : State
  g : Group
  fi : Nat
  f : Frag
  bond : Bool
  chain : Bool
  held : State := s

/-- The value of the die's cycle counter at the word's issue. -/
def Ctx.cycle (c : Ctx) : Nat := cycleOf c.s (siteDie c.g.site)

/-- Replaces element i of a list. -/
def setAt {α : Type} (l : List α) (i : Nat) (x : α) : List α := l.set i x

/-- The group with the working fragment in its place. -/
def Ctx.group (c : Ctx) : Group := { c.g with frags := setAt c.g.frags c.fi c.f }

/-- The state with the working group in its place. -/
def Ctx.commit (c : Ctx) : State := setGroup c.s c.group

/-- Moves the fragment to a target. No member may follow (R90). -/
def Ctx.goto (c : Ctx) (pc : DWord) : Ctx := { c with f := { c.f with pc := pc, chain := false } }

/-- Puts back a word that has issued and fallen through: the fragment's run is one word longer, its age is this cycle, and the group's last
word was its (R90, R91, R129). -/
def Ctx.finish (c : Ctx) : State :=
  { c with
    g := { c.g with lastFrag := c.fi }
    f := { c.f with pc := c.f.pc + 4#64, chain := c.chain, run := c.f.run + 1, bonded := c.bond, age := c.cycle } }.commit

/-- The latches shift one place and a value enters k0 (R88). -/
def Ctx.push (c : Ctx) (k : Latch) : Ctx := { c with f := { c.f with latches := k :: c.f.latches.take 7 } }

/-- Eight invalid latches. -/
def noLatches : List Latch := List.replicate 8 Latch.invalid

/-- An empty scoreboard. -/
def noBoard : Board := { flights := [], regs := [], rows := [] }

/-- A fragment that becomes live at a PC with a mask, in a cycle. -/
def newFrag (pc : DWord) (m : Mask) (cycle : Nat) : Frag :=
  { pc := pc, mask := m, latches := noLatches, run := 0, head := pc, runId := 0, chain := false, bonded := false, board := noBoard, age := cycle, wait := .no }

/-- The free value for the n-th use, and the state after the use (log 5). -/
def takeFree (s : State) : BitVec 64 × State := (Config.freeValue s.freeCtr, { s with freeCtr := s.freeCtr + 1 })

/-! ### Taking a trap (16 R394, R395) -/

/-- The trap causes of 16 Table 16.1, as TRAPC holds them. -/
def causeIllegal : BitVec 8 := 0x01#8
def causePriv : BitVec 8 := 0x02#8
def causeDivstack : BitVec 8 := 0x03#8
def causeLatch : BitVec 8 := 0x04#8
def causeLanding : BitVec 8 := 0x05#8
def causeFormat : BitVec 8 := 0x06#8
def causeFourhand : BitVec 8 := 0x07#8
def causeUniform : BitVec 8 := 0x08#8
def causeAlign : BitVec 8 := 0x09#8
def causeXlat1 : BitVec 8 := 0x0A#8
def causeXlat2 : BitVec 8 := 0x0B#8
def causePerm : BitVec 8 := 0x0C#8
def causeSiblim : BitVec 8 := 0x0D#8
def causeRegbud : BitVec 8 := 0x0E#8
def causeScratch : BitVec 8 := 0x0F#8
def causeChannel : BitVec 8 := 0x10#8
def causeBarrier : BitVec 8 := 0x11#8
def causeTrapi : BitVec 8 := 0x12#8
def causeSyscall : BitVec 8 := 0x13#8
def causeIntegrity : BitVec 8 := 0x15#8
def causeDrayerr : BitVec 8 := 0x16#8
def causeTile : BitVec 8 := 0x17#8

/-- The head of the run a fragment's word belongs to, and the word's position in it: the word itself when it is a head (R90, R92). -/
def runPos (f : Frag) : DWord × Nat := if f.run = 0 then (f.pc, 0) else (f.head, f.run)

/-- The group as a trap of fragment f leaves it: the trap CSRs and RUNIX are written, the fragment's PC is the run's head, the group
stops (R92, R394, R395). Nothing else changes. DESIGN CHOICE (log 52): of the two outcomes that R94 allows a restarted run that is not idempotent, the model has the one
that executes the run again over the state its partial execution left. -/
def trapGroup (g : Group) (fi : Nat) (f : Frag) (t : Trap) : Group :=
  let p := runPos f
  let run := if f.run = 0 then 0 else f.runId
  { g with
    trapc := t.cause.setWidth 64
    trappc := p.1
    trapv := t.val
    trapm := (t.mask.getD f.mask).setWidth 64
    detail := t.detail
    gstat := (g.gstat &&& ~~~0x700#64) ||| (BitVec.ofNat 64 (p.2 % 8) <<< 8)
    frags := setAt g.frags fi { f with pc := p.1 + t.past, chain := false, bonded := false, run := 0, runId := run, latches := noLatches, wait := .no }
    status := .stopping .trap }

/-- Whether a bonded run of a running group is still issuing (04 R91). -/
def inBonded (g : Group) : Bool := g.status == .running && g.frags.any (fun f => f.bonded)

/-- The group after a waiting fragment's word has met a trap: it is taken at once, or, since no fault suspension begins inside a run, once the other fragment's run has issued (04 R91). -/
def trapWait (g : Group) (fi : Nat) (f : Frag) (t : Trap) : Group :=
  if inBonded g then { g with frags := setAt g.frags fi { f with wait := .trapDue t } } else trapGroup g fi f t

/-- Takes a trap raised by the issuing fragment: the word has no other effect. -/
def raiseTrap (c : Ctx) (t : Trap) : State := setGroup c.s (trapGroup c.g c.fi c.f t)

end Sys2Proof.Machine
end

