-- ==== Sys2Proof/Machine/Memory.lean ====
section
/-! DEFINITION. Machine/Memory.lean: where an address lives (11 R256; 12 R285, R290, R295), and what a store does at its home: the bytes, the
siblings of a federated cell, the L1 words and the monitors (11 R257; 14 R349, R358, R359; 15 R366, R378-R383). -/

namespace Sys2Proof.Machine

/-! ### Virtual devices and instances -/

/-- The virtual device with a number. -/
def findVd (s : State) (n : Nat) : Option Vd := s.vds.find? (fun v => v.num == n)

/-- Puts a virtual device's record back in its place. -/
def setVd (s : State) (v : Vd) : State := { s with vds := s.vds.map (fun u => if u.num == v.num then v else u) }

/-- Changes a virtual device's record. -/
def modVd (s : State) (n : Nat) (f : Vd → Vd) : State := { s with vds := s.vds.map (fun u => if u.num == n then f u else u) }

/-- Changes the fields that p names. -/
def modFields (s : State) (p : Nat → Bool) (f : FieldSt → FieldSt) : State :=
  { s with fields := (List.range s.fields.length).filterMap (fun k => (s.fields[k]?).map (fun x => if p k then f x else x)) }

/-- Changes the instance on a virtual die. -/
def Vd.modInst (v : Vd) (vdie : Nat) (f : Inst → Inst) : Vd :=
  { v with insts := v.insts.map (fun i => if i.vdie == vdie then f i else i) }

/-- The instance on a virtual die. -/
def Vd.inst (v : Vd) (vdie : Nat) : Option Inst := v.insts.find? (fun i => i.vdie == vdie)

/-- The instance on a physical die. -/
def Vd.instAt (v : Vd) (die : Nat) : Option Inst := v.insts.find? (fun i => i.pdie == die)

/-- Changes the instance on a physical die of a virtual device. -/
def modInstAt (s : State) (vd die : Nat) (f : Inst → Inst) : State :=
  modVd s vd (fun v => { v with insts := v.insts.map (fun i => if i.pdie == die then f i else i) })

/-- The physical die of a virtual die. -/
def Vd.pdie (v : Vd) (vdie : Nat) : Nat := ((v.inst vdie).map Inst.pdie).getD 0

/-- The virtual die of a physical die. -/
def Vd.vdieOf (v : Vd) (die : Nat) : Nat := ((v.instAt die).map Inst.vdie).getD 0

/-- The physical dies of a virtual device that have not failed. -/
def Vd.liveDies (v : Vd) : List Nat := (v.insts.filter (fun i => !i.failed)).map Inst.pdie

/-- Changes the group with an identity. -/
def modGroup (s : State) (gid : Nat) (f : Group → Group) : State :=
  { s with groups := s.groups.map (fun h => if h.gid == gid then f h else h) }

/-- Cycles of the arithmetic clock in a microsecond: 2.5 GHz, 1.2 GHz on die 0 during early service (17 R431; log 4). -/
def cyclesPerUs (s : State) (die : Nat) : Nat := if s.early && die == 0 then 1200 else 2500

/-! ### Slices and homes -/

/-- The number of set bits of a mask. -/
def popc64 (m : BitVec 64) : Nat := ((List.range 64).filter (fun i => m.getLsbD i)).length

/-- The i-th set bit of a mask, counting from the lowest. -/
def nthBit (m : BitVec 64) (i : Nat) : Nat := ((List.range 64).filter (fun j => m.getLsbD j)).getD i 0

/-- The mask of the slices of a die that have not been retired. -/
def liveSlices (s : State) (die : Nat) : BitVec 64 :=
  (List.range 64).foldl (fun m i => if s.retiredSlices.contains (die * 64 + i) then m else m ||| BitVec.twoPow 64 i) 0#64

/-- A virtual device's slices on a die under the current map (R285). -/
def vdSlices (s : State) (v : Vd) (die : Nat) : BitVec 64 :=
  ((v.desc.dies.find? (fun d => d.pdie == die)).map DieEntry.slices).getD 0#64 &&& liveSlices s die

/-- The hash of an index: its low 16 bits, its next 16 and the rest, folded (R285, R295). -/
def foldHash (g : Nat) : Nat := (g % 65536) ^^^ (g / 65536 % 65536) ^^^ (g / 4294967296)

/-- The slice that a hash chooses from a mask. -/
def chooseSlice (mask : BitVec 64) (g : Nat) : Nat := nthBit mask (foldHash g * popc64 mask / 65536)

/-- The change of a die's slice map that is under way. -/
def changeOf (s : State) (die : Nat) : Option MapChange := s.mapChanges.find? (fun m => m.die == die)

/-- Whether a slice of a die uses the newest map: it has acknowledged the change that is under way (R313). -/
def sliceNew (s : State) (die slice : Nat) : Bool := (changeOf s die).all (fun m => !m.slices.contains slice)

/-- Whether a cluster of a die uses the newest map (R313). -/
def siteNew (s : State) (die : Nat) (site : Site) : Bool := (changeOf s die).all (fun m => !m.sites.contains site)

/-- The 16-bit generation of a die's newest slice map, or of the one before it (R312). -/
def genUnder (s : State) (die : Nat) (new : Bool) : Nat := if new then assoc s.mapGen die else (assoc s.mapGen die + 65535) % 65536

/-- The slices of a virtual device on a die under the newest map, or under the one before it (R285, R314). -/
def entryMask (s : State) (v : Vd) (die : Nat) (new : Bool) : BitVec 64 :=
  if new then vdSlices s v die &&& ~~~(((changeOf s die).map MapChange.gone).getD 0#64) else vdSlices s v die

/-- The entry slice of a virtual address on a die under a map (R285). -/
def entryIn (s : State) (vd die va : Nat) (new : Bool) : Nat :=
  match findVd s vd with
  | some v => chooseSlice (entryMask s v die new) (va / 65536 % 2 ^ 41)
  | none => 0

/-- The entry slice of a virtual address on a die (R285): while the map changes, that of the old map until it has acknowledged the new one. -/
def entrySlice (s : State) (vd die : Nat) (va : Nat) : Nat :=
  let e := entryIn s vd die va false
  if sliceNew s die e then entryIn s vd die va true else e

/-- The mask of a window of a die: what the slice map holds, else the mask of the window's own slice (R295). -/
def windowMask (s : State) (die w : Nat) : BitVec 64 :=
  match s.sliceMap.find? (fun e => e.1 == die * 64 + w) with
  | some e => e.2
  | none => BitVec.twoPow 64 w

/-- The mask of a window under the newest map, or under the one before it. -/
def windowIn (s : State) (die w : Nat) (new : Bool) : BitVec 64 :=
  if new then windowMask s die w
  else match (changeOf s die).bind (fun m => m.old[w]?) with
    | some m => m
    | none => windowMask s die w

/-- The die of an HBM address (Table 12.5). -/
def paDie (pa : Nat) : Nat := pa / 2 ^ 37 % 8

/-- The home of an HBM address under a map: its die and slice (R295). -/
def homeIn (s : State) (pa : Nat) (new : Bool) : Nat × Nat :=
  (paDie pa, chooseSlice (windowIn s (paDie pa) (pa / 2 ^ 31 % 64) new) (pa / 2 ^ 11 % 2 ^ 26))

/-- The home that holds an HBM address' line (R295): while the map changes, the old home until it has handed its lines over (R313). -/
def homeOf (s : State) (pa : Nat) : Nat × Nat :=
  let h := homeIn s pa false
  if sliceNew s h.1 h.2 then homeIn s pa true else h

/-- What lies at a physical address (Table 12.5). -/
inductive PaKind where
  | hbm
  | device
  | pool
  | coupler
  | none
  deriving DecidableEq, Repr

def paKind (pa : Nat) : PaKind :=
  if pa < 0x010000000000 then .hbm
  else if pa < 0x020000000000 then .device
  else if pa < 0x100000000000 then .none
  else if pa < 0x800000000000 then .pool
  else if pa < 0x1000000000000 then .coupler
  else .none

/-- Whether an address lies in a far range. -/
def isFarPa (pa : Nat) : Bool := paKind pa == .pool || paKind pa == .coupler

/-! ### Release counts (15 R378, R382) -/

/-- Whether count a is later than count b (R382). DESIGN CHOICE (log 90): where the obligation of R387 is broken, so that either answer may come, the arithmetic one does. -/
def later (a b : Nat) : Bool := let d := (a + 2 ^ 21 - b % 2 ^ 21) % 2 ^ 21; decide (1 ≤ d) && decide (d ≤ 2 ^ 20 - 1)

/-- Merge (R382), entry by entry. -/
def mergeVec (v w : List Nat) : List Nat := (List.range 8).map (fun e => if later (w.getD e 0) (v.getD e 0) then w.getD e 0 else v.getD e 0)

/-- V_d of a virtual device (R378). -/
def vecOf (s : State) (vd die : Nat) : List Nat :=
  match findVd s vd with
  | some v => match v.instAt die with
    | some i => i.vec
    | none => List.replicate 8 0
  | none => List.replicate 8 0

/-- The slice vector H_s (R378). -/
def hvecOf (s : State) (die slice : Nat) : List Nat :=
  match s.hvecs.find? (fun e => e.1 == die * 64 + slice) with
  | some e => e.2
  | none => List.replicate 8 0

/-- A performed request merges its vector into the slice's (R380). -/
def mergeH (s : State) (die slice : Nat) (v : List Nat) : State :=
  let k := die * 64 + slice
  { s with hvecs := (k, mergeVec (hvecOf s die slice) v) :: s.hvecs.filter (fun e => e.1 != k) }

/-- Merges a vector into V_d; the die's own entry is not changed (R381). -/
def mergeV (s : State) (vd die : Nat) (w : List Nat) : State :=
  modInstAt s vd die (fun i => { i with vec := (mergeVec i.vec w).set die (i.vec.getD die 0) })

/-- Merges vectors into V_d one after another (R381). -/
def mergeVs (s : State) (vd die : Nat) (ws : List (List Nat)) : State := ws.foldl (fun s w => mergeV s vd die w) s

/-! ### Records -/

/-- A record with every field zero (16 Table 16.2). -/
def emptyRecord (type vdie : Nat) : Record :=
  { type := type, cause := 0#8, detail := 0#8, vdie := vdie, handle := 0xFFFFFFFF, trappc := 0#64, trapv := 0#64, trapm := 0#32, nreplay := 0,
    arg0 := 0#64, arg1 := 0#64 }

/-- Hands a record to the instance of a virtual die; FAULT_RECORD_POST writes it (R403, R405). -/
def postRecord (s : State) (vd vdie : Nat) (r : Record) : State :=
  modVd s vd (fun v => v.modInst vdie (fun i => { i with records := i.records ++ [r] }))

/-- Posts the INTEGRITY record of a mismatch in data that no group waits for, to the instance of its owning die (16 Table 16.2; 17 R439). -/
def postIntegrity (s : State) (vd pa : Nat) : State :=
  match findVd s vd with
  | none => s
  | some v => postRecord s vd (v.vdieOf (paDie pa)) { emptyRecord 8 (v.vdieOf (paDie pa)) with arg0 := BitVec.ofNat 64 pa }

/-- Whether pieces of memory, each an address and a size, cover a 64-byte block. -/
def coversBlock (ps : List (Nat × Nat)) (b : Nat) : Bool := (List.range 64).all (fun i => ps.any (fun p => decide (p.1 ≤ 64 * b + i) && decide (64 * b + i < p.1 + p.2)))

/-- The blocks with a mismatched check that pieces of memory meet (17 R439). -/
def badBlocks (s : State) (ps : List (Nat × Nat)) : List Nat := s.integrity.filter (fun b => ps.any (fun p => decide (p.1 < 64 * b + 64) && decide (64 * b < p.1 + p.2)))

/-- Those that a write of the pieces does not replace whole: the write is refused (17 R439). -/
def keptBlocks (s : State) (ps : List (Nat × Nat)) : List Nat := (badBlocks s ps).filter (fun b => !coversBlock ps b)

/-- A write that covers whole blocks makes their checks afresh (17 R439). -/
def freshChecks (s : State) (ps : List (Nat × Nat)) : State := { s with integrity := s.integrity.filter (fun b => !coversBlock ps b) }

/-- The SWEEP register of a die (15 Table 15.5). -/
def sweepWord (v : Vd) (i : Inst) : BitVec 64 :=
  let c := i.vec.getD i.pdie 0
  BitVec.ofNat 64 (c + (if 2 ^ 18 ≤ (c + 2 ^ 21 - i.base) % 2 ^ 21 then 2 ^ 21 else 0) + i.base * 2 ^ 22 + v.pass % 65536 * 2 ^ 43)

/-- C_d increments; when LAG becomes 1, one SWEEPLAG record of the pass is posted (R379, R387). -/
def bumpCount (s : State) (vd die : Nat) : State :=
  let s := modInstAt s vd die (fun i => { i with vec := i.vec.set die ((i.vec.getD die 0 + 1) % 2 ^ 21) })
  match findVd s vd with
  | none => s
  | some v => match v.instAt die with
    | none => s
    | some i =>
      let w := sweepWord v i
      if w.getLsbD 21 && !i.lag then
        postRecord (modInstAt s vd die (fun j => { j with lag := true })) vd i.vdie { emptyRecord 7 i.vdie with arg0 := w }
      else s

/-! ### L1 words and monitors -/

/-- The clusters of a virtual device on a die, and its core there (02 R35; 16 R414). -/
def ownsSite (v : Vd) (die : Nat) : Site → Bool
  | .cluster d n => d == die && v.desc.dies.any (fun e => e.pdie == die && decide (e.cbase ≤ n) && decide (n ≤ e.clim))
  | .core d u => d == die && u == v.num
  | .smc => false

/-- Drops the L1 words of which p holds, in every cluster of a die, those on their way included (R257). -/
def l1Drop (s : State) (die : Nat) (p : L1Word → Bool) : State :=
  { s with
    clusters := s.clusters.map (fun k => if siteDie k.site == die then { k with l1 := k.l1.filter (fun w => !p w) } else k)
    reqs := s.reqs.map (fun r => if r.die == die then { r with fill := r.fill.filter (fun w => !p w) } else r) }

/-- Changes the L1 words of a die of which p holds in their place, those on their way included. -/
def l1Set (s : State) (die : Nat) (p : L1Word → Bool) (f : L1Word → L1Word) : State :=
  let g := fun (w : L1Word) => if p w then f w else w
  { s with
    clusters := s.clusters.map (fun k => if siteDie k.site == die then { k with l1 := k.l1.map g } else k)
    reqs := s.reqs.map (fun r => if r.die == die then { r with fill := r.fill.map g } else r) }

/-- Drops the L1 words of which p holds, in one cluster, those on their way included (15 R368). -/
def l1DropAt (s : State) (site : Site) (p : L1Word → Bool) : State :=
  { s with
    clusters := s.clusters.map (fun k => if k.site == site then { k with l1 := k.l1.filter (fun w => !p w) } else k)
    reqs := s.reqs.map (fun r => if r.site == site then { r with fill := r.fill.filter (fun w => !p w) } else r) }

/-- The 4 bytes of memory at a word number. -/
def memWord (s : State) (w : Nat) : Word := BitVec.ofNat 32 (rdBytes s.mem (4 * w) 4)

/-- The 8 bytes of memory at a cell number. -/
def memCell (s : State) (c : Nat) : BitVec 64 := BitVec.ofNat 64 (rdBytes s.mem (8 * c) 8)

/-- The reasons of Table 14.5. -/
def reasonMismatch : Nat := 0
def reasonNotArmed : Nat := 1
def reasonSiblings : Nat := 2
def reasonStore : Nat := 3
def reasonWake : Nat := 4
def reasonEvict : Nat := 5
def reasonRestore : Nat := 6
def reasonTimeout : Nat := 7

/-- The first cause that occurs wakes a monitor: reason and the word's value (R349). -/
def wakeMonitors (s : State) (reason : Nat) (p : Monitor → Bool) : State :=
  { s with monitors := s.monitors.map (fun m =>
      if p m && m.woken == Option.none then { m with woken := some (reason, (memWord s m.word).toNat), vec := hvecOf s m.die m.slice } else m) }

/-! ### Cells -/

/-- A store as its point of performance sees it: the tenant that owns the page, the storing die, its release vector (none for the host, the Coupler and
the pool side), whether the page is federated, and the sibling limit. -/
structure Writer where
  vd : Nat
  die : Nat
  vec : Option (List Nat)
  fed : Bool
  sibmax : Nat
  deriving DecidableEq, Repr

/-- Byte i of x where bit i of the mask is set, else of the old value. -/
def mergeBytes (old x : BitVec 64) (mask : BitVec 8) : BitVec 64 :=
  (List.range 8).foldl (fun r i =>
    if mask.getLsbD i then (r &&& ~~~(0xFF#64 <<< (8 * i))) ||| (x &&& (0xFF#64 <<< (8 * i))) else r) old

/-- Writes the masked bytes of a cell in memory. -/
def putCell (s : State) (c : Nat) (x : BitVec 64) : State := { s with mem := wrBytes s.mem (8 * c) x.toNat 8 }

/-- The siblings of a cell; one not listed has one value, aged (R383). -/
def sibsOf (s : State) (c : Nat) : List Sib :=
  match s.fed.find? (fun f => f.cell == c) with
  | some f => f.sibs
  | none => [{ die := 0, rcnt := 0, aged := true, value := memCell s c }]

/-- The stamp of a cell: 0 with one value (R359). -/
def stampOf (s : State) (c : Nat) : Nat := ((s.fed.find? (fun f => f.cell == c)).map FedCell.stamp).getD 0

/-- A cell's token (R359). -/
def tokenOf (s : State) (c : Nat) : Nat := stampOf s c * 256 + (sibsOf s c).length

/-- A cell holds two or more siblings, so that those beyond the first have an entry in a table or a spill area (14 R357). -/
def FedCell.extra (f : FedCell) : Bool := decide (2 ≤ f.sibs.length)

/-- The cells other than c with an entry in the table of a home slice, most recently used first (14 R357). -/
def tableOf (s : State) (h : Nat × Nat) (c : Nat) : List FedCell := s.fed.filter (fun f => f.cell != c && f.extra && f.tab && homeOf s (8 * f.cell) == h)

/-- The cells other than c that a virtual device has spilled. -/
def spilledCells (s : State) (vd c : Nat) : List FedCell := s.fed.filter (fun f => f.cell != c && f.vd == vd && f.extra && !f.tab)

/-- A table entry for a cell at its home: a free one of the 512, or that of the entry least recently used, which spills; none when the spill area has no room either
(14 R357, R360). -/
def takeEntry (s : State) (c : Nat) : Option State :=
  let t := tableOf s (homeOf s (8 * c)) c
  if t.length < 512 then some s
  else match t.getLast? with
    | none => none
    | some old =>
      if (spilledCells s old.vd c).length < Config.spillRoom old.vd then
        some { s with fed := s.fed.map (fun f => if f.cell == old.cell then { f with tab := false } else f) }
      else none

/-- Puts a cell's siblings in place, in the table as the entry most recently used; the first one's bytes are memory's. -/
def putSibs (s : State) (vd c : Nat) (sibs : List Sib) (stamp : Nat) : State :=
  let s := putCell s c ((sibs.head?.map Sib.value).getD 0#64)
  { s with fed := { vd := vd, cell := c, sibs := sibs, stamp := stamp, tab := true } :: s.fed.filter (fun f => f.cell != c) }

/-- A cell that a store without FED reaches has one value and the dot 0x10 (R383). -/
def unfed (s : State) (c : Nat) : State := { s with fed := s.fed.filter (fun f => f.cell != c) }

/-- A sibling takes its place in ascending die order. -/
def insertSib (x : Sib) : List Sib → List Sib
  | [] => [x]
  | y :: r => if x.die ≤ y.die then x :: y :: r else y :: insertSib x r

/-- The slice's next stamp: 1 to 255, then 1 again (R359). -/
def nextStamp (s : State) (die slice : Nat) : Nat × State :=
  let k := die * 64 + slice
  let n := if 255 ≤ assoc s.stamps k then 1 else assoc s.stamps k + 1
  (n, { s with stamps := assocSet s.stamps k n })

/-- Whether a vector covers a dot, for a store of a die (R358). -/
def covers (die : Nat) (v : List Nat) (x : Sib) : Bool := x.die == die || later (v.getD x.die 0) x.rcnt || x.aged

/-- After a write: the L1 words of the home die and the monitors on the written words (R257, R349, R366). -/
def afterWrite (s : State) (c : Nat) (mask : BitVec 8) : State :=
  let lo := mask.extractLsb' 0 4 != 0#4
  let hi := mask.extractLsb' 4 4 != 0#4
  let hit := fun w => (lo && w == 2 * c) || (hi && w == 2 * c + 1)
  wakeMonitors (l1Drop s (paDie (8 * c)) (fun w => hit (w.pa / 4))) reasonStore (fun m => hit m.word)

/-- The L1 words of a federated cell on its home die know whether it holds siblings (11 R257, R270). -/
def markSibs (s : State) (c : Nat) : State := l1Set s (paDie (8 * c)) (fun w => w.pa / 8 == c) (fun w => { w with sibs := decide (2 ≤ (sibsOf s c).length) })

/-- After a write of a federated cell, with what its siblings have become. -/
def afterFed (s : State) (c : Nat) (mask : BitVec 8) : State := markSibs (afterWrite s c mask) c

/-- A performed store merges the vector it carries into its home's (R380). -/
def mergeAtHome (s : State) (w : Writer) (c : Nat) : State :=
  match w.vec with
  | some v => if paKind (8 * c) == .hbm then mergeH s (homeOf s (8 * c)).1 (homeOf s (8 * c)).2 v else s
  | none => s

/-- Writes the masked bytes of a cell at its home, in one step; false when a federated cell refuses it, which changes nothing (R358-R360, R380). -/
def writeCell (s : State) (w : Writer) (c : Nat) (mask : BitVec 8) (x : BitVec 64) : Bool × State :=
  let h := homeOf s (8 * c)
  if w.fed then
    let old := sibsOf s c
    let new := mergeBytes ((old.head?.map Sib.value).getD 0#64) x mask
    match w.vec with
    | none =>
      let sib : Sib := { die := h.1, rcnt := (vecOf s w.vd h.1).getD h.1 0, aged := false, value := new }
      (true, afterFed (putSibs s w.vd c [sib] 0) c mask)
    | some v =>
      let keep := old.filter (fun y => !covers w.die v y)
      let sib : Sib := { die := w.die, rcnt := v.getD w.die 0, aged := false, value := new }
      if keep.isEmpty then (true, afterFed (putSibs (mergeAtHome s w c) w.vd c [sib] 0) c mask)
      else if w.sibmax < keep.length + 1 then (false, s)
      else match takeEntry s c with
        | none => (false, s)
        | some t =>
          let n := nextStamp (mergeAtHome t w c) h.1 h.2
          (true, afterFed (putSibs n.2 w.vd c (insertSib sib keep) n.1) c mask)
  else (true, afterWrite (putCell (unfed (mergeAtHome s w c) c) c (mergeBytes (memCell s c) x mask)) c mask)

/-- The byte mask of n bytes at an address within its cell. -/
def byteMask (pa n : Nat) : BitVec 8 := BitVec.ofNat 8 ((2 ^ n - 1) * 2 ^ (pa % 8))

/-- Writes n bytes (1, 2, 4 or 8, naturally aligned) at their home. -/
def writeHome (s : State) (w : Writer) (pa n x : Nat) : Bool × State :=
  writeCell s w (pa / 8) (byteMask pa n) (BitVec.ofNat 64 (x * 2 ^ (8 * (pa % 8))))

/-- Bytes that the device itself writes to memory, at home, with no vector, pages not federated, but for those of the blocks given. -/
def deviceBytes (bad : List Nat) (s : State) (pa : Nat) : List (BitVec 8) → State
  | [] => s
  | b :: r =>
    deviceBytes bad (if bad.contains (pa / 64) then s else (writeHome s { vd := 0, die := paDie pa, vec := none, fed := false, sibmax := 8 } pa 1 b.toNat).2) (pa + 1) r

/-- The device's own writes to memory (frames, records, table entries): blocks that they cover have their checks afresh, a part of a block with a mismatched check is not written (17 R439; log 24). -/
def deviceWrite (s : State) (pa : Nat) (bs : List (BitVec 8)) : State := deviceBytes (keptBlocks s [(pa, bs.length)]) (freshChecks s [(pa, bs.length)]) pa bs

/-- A write of an 8-byte cell from the host, the Coupler or the pool side into a page of a virtual device: it carries no vector, overwrites every sibling and takes the dot of its home's die
(14 R358). -/
def outsideWrite (s : State) (vd pa : Nat) (fed : Bool) (x : Nat) : State :=
  (writeHome s { vd := vd, die := paDie pa, vec := none, fed := fed, sibmax := 8 } pa 8 x).2

/-! ### Frame units (16 R413) -/

/-- The offset of a frame unit in the save area. -/
def unitOffset (h : Nat) : Nat := 0x10000 + 0x22000 * h

/-- The physical address of a frame unit. -/
def unitPa (v : Vd) (h : Nat) : Nat := v.desc.saveBase + unitOffset h

/-- The divergence spill area and the codebook image within a unit. -/
def spillOffset : Nat := 0x21000
def imageOffset : Nat := 0x21C00

/-- Where a team's codebook image lies: in the frame unit of its group 0 (09 R205; 16 R413). -/
def imagePa (s : State) (t : Team) : Option Nat := (findVd s t.vd).map (fun v => unitPa v t.unit0 + imageOffset)

/-- Whether a directory lock bit holds a write to n bytes at their home (12 R298). -/
def lockHeld (s : State) (pa n : Nat) : Bool := s.locks.any (fun k => decide (pa < k.pa + k.size) && decide (k.pa < pa + n))

/-! ### Remote copies (11 R258, R263, R264; 15 R373) -/

/-- The sibling limit of a virtual device (02 R33). -/
def sibMax (s : State) (vd : Nat) : Nat := ((findVd s vd).map (fun v => v.desc.sibmax)).getD 4

/-- Records a refused store: the first refused address since the group's last release (R360). -/
def noteRefusal (s : State) (gid : Nat) (va : DWord) : State :=
  modGroup s gid (fun g => if g.refuse = none then { g with refuse := some va } else g)

/-- Writes one dirty cell of a die back to its home: its dirty words in one step, with the vector the die holds now (R258, R269, R358). -/
def writeBackCell (s : State) (ws : List RemoteWord) : State :=
  match ws with
  | [] => s
  | r :: _ =>
    let c := r.word / 2
    let mask := ws.foldl (fun m (x : RemoteWord) => m ||| (if x.word % 2 = 0 then 0x0F#8 else 0xF0#8)) 0#8
    let val := ws.foldl (fun m (x : RemoteWord) => m ||| (x.data.setWidth 64 <<< (if x.word % 2 = 0 then 0 else 32))) 0#64
    let o := writeCell s { vd := r.vd, die := r.die, vec := some (vecOf s r.vd r.die), fed := r.fed, sibmax := sibMax s r.vd } c mask val
    if o.1 then o.2 else noteRefusal o.2 r.gid (BitVec.ofNat 64 r.va)

/-- The dirty words of a list grouped by cell, at most n groups. -/
def cellGroups : Nat → List RemoteWord → List (List RemoteWord)
  | 0, _ => []
  | _, [] => []
  | n + 1, r :: rs =>
    let same := fun (x : RemoteWord) => x.word / 2 == r.word / 2 && x.die == r.die && x.vd == r.vd
    (r :: rs.filter same) :: cellGroups n (rs.filter (fun x => !same x))

/-- Writes back every dirty remote word of which p holds; the words stay, clean (R258). What lies in a block with a mismatched check that they do not replace whole is refused, with a
record for each such block (17 R439). -/
def writeBack (s : State) (p : RemoteWord → Bool) : State :=
  let ds := s.remote.filter (fun r => r.dirty && p r)
  let ps := ds.map (fun r => (4 * r.word, 4))
  let bad := keptBlocks s ps
  let good := ds.filter (fun r => !bad.contains (r.word / 16))
  let s := (cellGroups good.length good).foldl writeBackCell (freshChecks s ps)
  let s := bad.foldl (fun s b => postIntegrity s (((ds.find? (fun r => r.word / 16 == b)).map RemoteWord.vd).getD 0) (64 * b)) s
  { s with remote := s.remote.map (fun r => if p r then { r with dirty := false } else r) }

/-- Drops remote words. -/
def dropRemote (s : State) (p : RemoteWord → Bool) : State := { s with remote := s.remote.filter (fun r => !p r) }

/-- The entry slices of a die give up the remote words of which p holds: dirty ones go home first, and the L1 words that they filled on the die go with them (R257, R258). -/
def recallWords (s : State) (die : Nat) (p : RemoteWord → Bool) : State :=
  let ws := (s.remote.filter (fun r => r.die == die && p r)).map RemoteWord.word
  l1Drop (dropRemote (writeBack s (fun r => r.die == die && p r)) (fun r => r.die == die && p r)) die (fun y => ws.contains (y.pa / 4))

/-- Copies of a die give up some words: the dirty words of their cells go home, each cell in one step, and the words, of those of which p holds, leave the copies, and the L1s that they filled
(R255, R258, R269). -/
def recallSpan (s : State) (die : Nat) (p : RemoteWord → Bool) (words : List Nat) : State :=
  let mine := fun (r : RemoteWord) => r.die == die && p r && words.any (fun w => w / 2 == r.word / 2)
  let gone := fun (r : RemoteWord) => r.die == die && p r && words.contains r.word
  let ws := (s.remote.filter gone).map RemoteWord.word
  l1Drop (dropRemote (writeBack s mine) gone) die (fun y => ws.contains (y.pa / 4))

/-- The remote words of a virtual device on a die. -/
def remoteOf (vd die : Nat) (r : RemoteWord) : Bool := r.vd == vd && r.die == die

/-- A package release's half: the die's dirty remote words go home, then C_d increments (R264, R379). -/
def releasePkg (s : State) (vd die : Nat) : State := bumpCount (writeBack s (remoteOf vd die)) vd die

/-- A package acquire: the dirty remote words go home, every remote line of the virtual device on the die is invalidated in slices and L1s, then
the vectors merge (R263, R381). -/
def acquirePkg (s : State) (vd die : Nat) (ws : List (List Nat)) : State :=
  let s := dropRemote (writeBack s (remoteOf vd die)) (remoteOf vd die)
  let s := match findVd s vd with
    | some v =>
      { s with
        clusters := s.clusters.map (fun k => if ownsSite v die k.site then { k with l1 := k.l1.filter (fun x => !x.remote) } else k)
        reqs := s.reqs.map (fun r => if r.vd == vd && r.die == die then { r with fill := r.fill.filter (fun x => !x.remote) } else r) }
    | none => s
  mergeVs s vd die ws

/-- The slice vectors of every slice of a virtual device on every die that has not failed (R381). -/
def allHvecs (s : State) (vd : Nat) : List (List Nat) :=
  match findVd s vd with
  | none => []
  | some v => (v.desc.dies.filter (fun d => v.liveDies.contains d.pdie)).flatMap (fun d =>
      ((List.range 64).filter (fun i => (vdSlices s v d.pdie).getLsbD i)).map (hvecOf s d.pdie))

/-- What the die's slices show of a word: a remote copy held on the die, else memory. -/
def seenWord (s : State) (vd die : Nat) (w : Nat) : Word :=
  match s.remote.find? (fun r => remoteOf vd die r && r.word == w) with
  | some r => r.data
  | none => memWord s w

end Sys2Proof.Machine
end

