-- ==== Sys2Proof/Machine/Translate.lean ====
section
/-! DEFINITION. Machine/Translate.lean: the two stages, the walk and its faults in the order of 12 R292, replica and publish records (12 R284-R294, R310;
13 R328), the STC. -/

namespace Sys2Proof.Machine

/-- How an access uses its page: read; write; both (an atomic, RED, RCN, WAITA with a store side); fetch; a Dray read; a Dray write. -/
inductive AccKind where
  | read
  | write
  | both
  | fetch
  | drayRead
  | drayWrite
  deriving DecidableEq, Repr

def AccKind.reads : AccKind → Bool
  | .read | .both | .drayRead => true
  | _ => false

def AccKind.writes : AccKind → Bool
  | .write | .both | .drayWrite => true
  | _ => false

/-- A translation fault: the trap cause and the detail of Table 12.6. -/
structure XFault where
  cause : BitVec 8
  detail : BitVec 8
  deriving DecidableEq, Repr

def xlat1 (d : BitVec 8) : XFault := { cause := causeXlat1, detail := d }
def xlat2 (d : BitVec 8) : XFault := { cause := causeXlat2, detail := d }
def perm (d : BitVec 8) : XFault := { cause := causePerm, detail := d }

/-- An address is canonical when bits [63:57] all equal bit 56 (R251). -/
def canonical (va : DWord) : Bool :=
  let t := va.extractLsb' 56 8
  t == 0#8 || t == 0xFF#8

/-- A table entry read at its home (R294). -/
def tableEntry (s : State) (pa : Nat) : BitVec 64 := BitVec.ofNat 64 (rdBytes s.mem pa 8)

/-- The bits of an address field. -/
def addrOf (e : BitVec 64) : Nat := (e &&& 0x0000FFFFFFFFFF00#64).toNat

/-- The index shift of a level (Table 12.2). -/
def levelShift : Nat → Nat
  | 0 => 48
  | 1 => 39
  | 2 => 30
  | 3 => 21
  | _ => 16

/-- The entry of a level's table for an address. -/
def levelIndex (lvl a : Nat) : Nat := a / 2 ^ levelShift lvl % (if lvl = 4 then 32 else 512)

/-- The alignment of what an entry of a level points at: a page for a leaf, 256 bytes for a level-4 table, else 4 KiB (R288). -/
def pointAlign (lvl : Nat) (leaf : Bool) : Nat := if leaf then 2 ^ levelShift lvl else if lvl = 3 then 256 else 4096

/-- A leaf is allowed at levels 2 to 4 and required at level 4 (Table 12.2). -/
def leafOk (lvl : Nat) (leaf : Bool) : Bool := if leaf then decide (2 ≤ lvl) else decide (lvl < 4)

/-- A stage-2 leaf: the page's GPA, size and PA, and its permissions. -/
structure S2Leaf where
  gpa : Nat
  size : Nat
  pa : Nat
  r : Bool
  w : Bool
  x : Bool
  dev : Bool
  deriving DecidableEq, Repr

/-- The frame units of a virtual device: 32 + 64 C (16 R413). -/
def unitCount (d : Desc) : Nat := 32 + 64 * (d.dies.map (fun e => e.clim + 1 - e.cbase)).sum

/-- Where the scratch pool starts in the save area: the first 64 KiB boundary after the last unit (R413). -/
def poolBase (d : Desc) : Nat := (0x10000 + 0x22000 * unitCount d + 0xFFFF) / 0x10000 * 0x10000

/-- The size of the save area (R413). -/
def saveSize (d : Desc) : Nat := poolBase d + (d.dies.map (fun e => e.clim + 1 - e.cbase)).sum * 2 ^ 20

/-- The size of the code region (01 R29), and of the largest image (01 Table 1.1), which the die kernel's is at most. -/
def codeSpan : Nat := 2 ^ 28
def kernelSpan : Nat := 2 ^ 23

/-- A whole range lies in one assigned range of Table 12.5 (R290). -/
def assigned (pa size : Nat) : Bool := paKind pa != .none && paKind pa == paKind (pa + size - 1)

/-- The stage-2 walk from a level on (R287, R289). -/
def walk2 (s : State) (table lvl gpa : Nat) : Nat → Except XFault S2Leaf
  | 0 => .error (xlat2 0x21)
  | n + 1 =>
    let e := tableEntry s (table + 8 * levelIndex lvl gpa)
    let leaf := e.getLsbD 1
    if !e.getLsbD 0 then .error (xlat2 0x20)
    else if (e &&& 0xFFF7000000000044#64) != 0#64 || !leafOk lvl leaf || addrOf e % pointAlign lvl leaf ≠ 0 then .error (xlat2 0x21)
    else if leaf then
      let size := 2 ^ levelShift lvl
      if !assigned (addrOf e) size then .error (xlat2 0x21)
      else .ok { gpa := gpa / size * size, size := size, pa := addrOf e, r := e.getLsbD 3, w := e.getLsbD 4, x := e.getLsbD 5, dev := e.getLsbD 7 }
    else walk2 s (addrOf e) (lvl + 1) gpa n

/-- A Coupler PA (Table 12.5; 17 R435): package, window, offset. -/
def couplerPa (pkg win off : Nat) : Nat := 0x800000000000 + pkg % 128 * 2 ^ 40 + win % 256 * 2 ^ 32 + off % 2 ^ 32

/-- Stage 2: the tables at S2ROOT (R284, R287); a frame on a failed die is lost (R315). DESIGN CHOICE (log 74): a GPA of 2^48 or more, which a table address written through S1TAB can hold and
for which the spec names no fault, is one that no stage-2 table maps. -/
def stage2 (s : State) (v : Vd) (gpa : Nat) : Except XFault S2Leaf :=
  if 2 ^ 48 ≤ gpa then .error (xlat2 0x20)
  else match walk2 s v.desc.s2root 1 gpa 4 with
    | .error e => .error e
    | .ok l => if paKind l.pa == .hbm && s.failed.contains (paDie l.pa) then .error (xlat2 0x23) else .ok l

/-! ### The SMC's own stage-2 mappings (02 R34; 01 R29; 17 R437; log 6) -/

/-- Takes a fresh table frame of a virtual device, its bytes zero. -/
def takeFrame (s : State) (vd : Nat) : Option (Nat × State) :=
  match (findVd s vd).bind (fun v => v.tables.head?) with
  | none => none
  | some f => some (f, modVd { s with mem := drop s.mem (fun a => decide (f ≤ a) && decide (a < f + 4096)) } vd (fun v => { v with tables := v.tables.drop 1 }))

/-- The table of a level that serves a GPA, from a table of a level above; those that are missing are made. None where a leaf or the end of the frames is in the way. -/
def tableFor (vd gpa target : Nat) : Nat → State → Nat → Nat → Option (Nat × State)
  | 0, s, table, lvl => if lvl = target then some (table, s) else none
  | n + 1, s, table, lvl =>
    if lvl = target then some (table, s)
    else
      let at_ := table + 8 * levelIndex lvl gpa
      let e := tableEntry s at_
      if e.getLsbD 0 then (if e.getLsbD 1 then none else tableFor vd gpa target n s (addrOf e) (lvl + 1))
      else match takeFrame s vd with
        | none => none
        | some (f, s) => tableFor vd gpa target n { s with mem := wrRun s.mem at_ (leBytes (f + 1) 8) } f (lvl + 1)

/-- Leaves of one level for a run of pages that one table holds: the flags are those of Table 12.4 below ADDR and PIN. -/
def mapRun (s : State) (vd root lvl gpa pa n flags : Nat) : Option State :=
  match tableFor vd gpa lvl 4 s root 1 with
  | none => none
  | some (t, s) => some { s with mem := wrRun s.mem (t + 8 * levelIndex lvl gpa) ((List.range n).flatMap (fun i => leBytes (pa + i * 2 ^ levelShift lvl + flags) 8)) }

/-- The level whose pages map the front of a range, the largest that its addresses allow, and how many of them one table holds. -/
def runAt (gpa pa len : Nat) : Nat × Nat :=
  let fits := fun (lvl : Nat) => gpa % 2 ^ levelShift lvl == 0 && pa % 2 ^ levelShift lvl == 0 && decide (2 ^ levelShift lvl ≤ len)
  let lvl := if fits 2 then 2 else if fits 3 then 3 else 4
  (lvl, min (max 1 (len / 2 ^ levelShift lvl)) ((if lvl = 4 then 32 else 512) - levelIndex lvl gpa))

/-- Maps a range of whole 64 KiB pages, a run of pages at a time; a front that needs smaller pages ends where larger ones begin. -/
def mapRange (vd root flags : Nat) : Nat → State → Nat → Nat → Nat → Option State
  | 0, s, _, _, len => if len = 0 then some s else none
  | n + 1, s, gpa, pa, len =>
    if len = 0 then some s
    else
      let r := runAt gpa pa len
      match mapRun s vd root r.1 gpa pa r.2 flags with
      | none => none
      | some s => mapRange vd root flags n s (gpa + r.2 * 2 ^ levelShift r.1) (pa + r.2 * 2 ^ levelShift r.1) (len - r.2 * 2 ^ levelShift r.1)

/-- The flags of a leaf: V and LEAF with R, W, X and PIN. -/
def leafFlags (w x pin : Bool) : Nat := 0x0B + (if w then 0x10 else 0) + (if x then 0x20 else 0) + (if pin then 2 ^ 51 else 0)

/-- Maps a range for a virtual device; a range that cannot be mapped whole is left as it was. -/
def mapFor (s : State) (vd gpa pa len flags : Nat) : Option State :=
  (findVd s vd).bind (fun v => mapRange vd v.desc.s2root flags (len / 65536 + 1) s gpa pa len)

/-- The save area's mapping: every page read-only but those of frame units, and pinned (16 R413; 02 R34). -/
def mapSaveArea (s : State) (vd : Nat) (d : Desc) (gpa : Nat) : Option State :=
  (mapFor s vd gpa d.saveBase 0x10000 (leafFlags false false true)).bind (fun s =>
    (mapFor s vd (gpa + 0x10000) (d.saveBase + 0x10000) (poolBase d - 0x10000) (leafFlags true false true)).bind (fun s =>
      mapFor s vd (gpa + poolBase d) (d.saveBase + poolBase d) (saveSize d - poolBase d) (leafFlags false false true)))

/-- The PA of a GPA within its leaf. -/
def S2Leaf.at (l : S2Leaf) (gpa : Nat) : Nat := l.pa + (gpa - l.gpa)

/-- An 8-byte read of a table or record by its GPA: the leaf must grant R (R292 step 3). -/
def guestEntry (s : State) (v : Vd) (gpa : Nat) : Except XFault (BitVec 64) :=
  match stage2 s v gpa with
  | .error e => .error e
  | .ok l => if l.r then .ok (tableEntry s (l.at gpa)) else .error (xlat2 0x22)

/-- A stage-1 leaf: the entry, the page's VA and size. -/
structure S1Leaf where
  e : BitVec 64
  va : Nat
  size : Nat
  deriving DecidableEq, Repr

/-- The stage-1 walk from a level on (R287, R288). -/
def walk1 (s : State) (v : Vd) (table lvl va : Nat) : Nat → Except XFault S1Leaf
  | 0 => .error (xlat1 0x04)
  | n + 1 =>
    match guestEntry s v (table + 8 * levelIndex lvl va) with
    | .error f => .error f
    | .ok e =>
      let leaf := e.getLsbD 1
      let rdup := e.getLsbD 50
      let publ := e.getLsbD 49
      let fed := e.getLsbD 51
      let reserved := (e &&& 0xFFF1000000000004#64) != 0#64 || (!leaf && (e &&& 0x000E0000000000FC#64) != 0#64)
      let combo := leaf && ((rdup && (e.getLsbD 4 || fed)) || (publ && (fed || rdup)))
      let align := if leaf && (rdup || publ) then 64 else pointAlign lvl leaf
      if !e.getLsbD 0 then .error (xlat1 0x03)
      else if reserved || combo || !leafOk lvl leaf || addrOf e % align ≠ 0 then .error (xlat1 0x04)
      else if leaf then .ok { e := e, va := va / 2 ^ levelShift lvl * 2 ^ levelShift lvl, size := 2 ^ levelShift lvl }
      else walk1 s v (addrOf e) (lvl + 1) va n

/-- The hop distance between physical dies (03 R57). -/
def hops (d e : Nat) : Nat :=
  (if d / 4 ≤ e / 4 then e / 4 - d / 4 else d / 4 - e / 4) + (if d % 4 ≤ e % 4 then e % 4 - d % 4 else d % 4 - e % 4)

/-- The element that comes first under a key; the earliest of equals. -/
def leastBy {α : Type} (key : α → Nat) : List α → Option α
  | [] => none
  | x :: r => match leastBy key r with
    | none => some x
    | some y => if key x ≤ key y then some x else some y

/-- The replica a virtual die reads (R310): its own entry, else the valid one of fewest hops, lowest virtual die first; entries of failed dies are skipped. DESIGN CHOICE (log 93): an entry with V = 1
and a nonzero reserved bit or a misaligned frame is not usable, and is skipped too. -/
def replica (s : State) (v : Vd) (vdie record size : Nat) : Except XFault Nat :=
  let entries := (List.range 8).map (fun i => (i, guestEntry s v (record + 8 * i)))
  match entries.findSome? (fun e => match e.2 with | .error f => some f | .ok _ => none) with
  | some f => .error f
  | none =>
    let valid := entries.filterMap (fun e => match e.2 with
      | .ok x =>
        match v.inst e.1 with
        | some i => if x.getLsbD 0 && !i.failed && (x &&& 0xFFFF00000000FFFE#64) == 0#64 && x.toNat / 65536 * 65536 % size == 0
            then some (e.1, i.pdie, x.toNat / 65536 * 65536) else none
        | none => none
      | .error _ => none)
    match valid.find? (fun e => e.1 == vdie) with
    | some e => .ok e.2.2
    | none => match leastBy (fun (e : Nat × Nat × Nat) => hops (v.pdie vdie) e.2.1 * 8 + e.1) valid with
      | some e => .ok e.2.2
      | none => .error (xlat1 0x04)

/-- The frame of a publishable buffer that an access reaches, as an offset to add to the VA (R328): the front, or the shadow for a Dray write. -/
def publishFrame (s : State) (v : Vd) (record va page : Nat) (shadow : Bool) : Except XFault Nat :=
  let w := fun i => guestEntry s v (record + 8 * i)
  match w 0, w 1, w 2, w 3, w 4, w 5, w 6, w 7 with
  | .ok f0, .ok f1, .ok st, .ok base, .ok size, .ok r5, .ok r6, .ok r7 =>
    let bad := (f0 &&& 0xFFFF00000000FFFF#64) != 0#64 || (f1 &&& 0xFFFF00000000FFFF#64) != 0#64 || r5 != 0#64 || r6 != 0#64 || r7 != 0#64 ||
      base.toNat % page != 0 || size.toNat % page != 0 || size == 0#64 || decide (va < base.toNat) || decide (base.toNat + size.toNat ≤ va)
    if bad then .error (xlat1 0x04)
    else .ok ((if st.getLsbD 0 != shadow then f1 else f0).toNat + (va - base.toNat))
  | .error f, _, _, _, _, _, _, _ => .error f
  | _, .error f, _, _, _, _, _, _ => .error f
  | _, _, .error f, _, _, _, _, _ => .error f
  | _, _, _, .error f, _, _, _, _ => .error f
  | _, _, _, _, .error f, _, _, _ => .error f
  | _, _, _, _, _, .error f, _, _ => .error f
  | _, _, _, _, _, _, .error f, _ => .error f
  | _, _, _, _, _, _, _, .error f => .error f

/-- The root of an address space (R286): none of the walk reads the table for an ASID outside the virtual device's range. -/
def asidRoot (s : State) (v : Vd) (vdie asid : Nat) : Except XFault Nat :=
  if asid < v.desc.asidBase ∨ v.desc.asidBase + v.desc.asidCnt ≤ asid then .error (xlat1 0x02)
  else
    let tab := match v.inst vdie with
      | some i => i.s1tab.toNat
      | none => 0
    match guestEntry s v (tab + 8 * (asid - v.desc.asidBase)) with
    | .error f => .error f
    | .ok e =>
      if !e.getLsbD 0 then .error (xlat1 0x02)
      else if (e &&& 0xFFFF000000000FFE#64) != 0#64 then .error (xlat1 0x04)
      else .ok (e &&& 0x0000FFFFFFFFF000#64).toNat

/-- The end of a walk: the output GPA through stage 2, its permission, the half, the device size (R292 steps 6 to 8). The page is the smaller of the two leaves' (R291), or
64 KiB where a publishable buffer's frame is aligned to no more (13 R328). -/
def finishWalk (s : State) (v : Vd) (va : DWord) (kind : AccKind) (size : Nat) (leaf : S1Leaf) (gpa : Nat) (shadow : Bool) : Except XFault Xl :=
  match stage2 s v gpa with
  | .error f => .error f
  | .ok l =>
    let pa := l.at gpa
    let page := if gpa % min leaf.size l.size = va.toNat % min leaf.size l.size then min leaf.size l.size else 65536
    let dev := leaf.e.getLsbD 7 || l.dev || paKind pa == .device
    if (kind.reads && !l.r) || (kind.writes && !l.w) || (kind == .fetch && !l.x) then .error (xlat2 0x22)
    else if kind == .fetch && dev then .error (perm 0x12)
    else if va.getLsbD 56 != isFarPa pa then .error (xlat1 0x05)
    else if dev && size != 4 && size != 8 then .error (perm 0x15)
    else .ok
      { va := va.toNat / page * page, size := page, gpa := gpa - va.toNat % page, pa := pa - va.toNat % page,
        r := leaf.e.getLsbD 3 && l.r, w := leaf.e.getLsbD 4 && l.w, x := leaf.e.getLsbD 5 && l.x && !dev,
        k := leaf.e.getLsbD 6, fed := leaf.e.getLsbD 51, rdup := leaf.e.getLsbD 50, publ := leaf.e.getLsbD 49, dev := dev, shadow := shadow }

/-- A size rounded up to 64 KiB. -/
def up64k (n : Nat) : Nat := (n + 65535) / 65536 * 65536

/-- The page of a registered image that holds an address, as an address in its virtual device's memory. -/
def Image.gpa (m : Image) (codePa va : Nat) : Option Nat :=
  let at_ := fun (base size first : Nat) =>
    if base ≤ va ∧ va < base + up64k size then (m.pages[first + (va - base) / 65536]?).map (fun p => codePa + 65536 * p + (va - base) % 65536) else none
  (at_ m.code m.codeSize 0).or (if m.constSize = 0 then none else at_ m.const m.constSize (up64k m.codeSize / 65536))

/-- Where an address of the die-kernel image, in the kernel's address space, or of a section registered in an address space lies (01 R24, R29; 16 R414, R415; log 6). -/
def codeGpa (v : Vd) (asid va : Nat) : Option Nat :=
  if v.codeVa ≤ va ∧ va < v.codeVa + kernelSpan then (if asid = v.desc.asidBase then some (v.kernelPa + (va - v.codeVa)) else none)
  else v.graphs.findSome? (fun g => if g.asid = asid then g.images.findSome? (fun m => m.gpa v.codePa va) else none)

/-- Whether an instance has no stage-1 tables yet: its S1TAB is as at the start of group 0 (16 Table 16.4). -/
def noTables (v : Vd) (vdie : Nat) : Bool := (v.inst vdie).all (fun i => i.s1tab == 0#64)

/-- The stage-1 walk of an address through the tables of its address space, whose first failing check ends it (R284, R286, R292). DESIGN CHOICE (log 6): an entry that the die kernel itself has to write,
for its image or for a registered section (01 R24, R29; 16 R415), stands there although no software has written it: where the entry of the page would be, and on the way to it, the tables hold
V = 0, or where S1TAB has not been written. -/
def leafOf (s : State) (v : Vd) (vdie asid va : Nat) : Except XFault S1Leaf :=
  let tables : Except XFault S1Leaf := match asidRoot s v vdie asid with
    | .error f => .error f
    | .ok root => walk1 s v root 0 (va % 2 ^ 57) 5
  match tables with
  | .ok l => .ok l
  | .error f =>
    if f == xlat1 0x03 || noTables v vdie then
      match codeGpa v asid va with
      | some g => .ok { e := BitVec.ofNat 64 (g / 65536 * 65536) ||| 0x2B#64, va := va / 65536 * 65536, size := 65536 }
      | none => .error f
    else .error f

/-- A walk (R292): VA, ASID, privilege, kind and size to a translation, or the first failing check. -/
def walk (s : State) (v : Vd) (vdie asid : Nat) (user : Bool) (kind : AccKind) (size : Nat) (va : DWord) : Except XFault Xl :=
  if !canonical va then .error (xlat1 0x01)
  else match leafOf s v vdie asid va.toNat with
  | .error f => .error f
  | .ok leaf =>
    let shadow := leaf.e.getLsbD 49 && kind == .drayWrite
    if user && leaf.e.getLsbD 6 then .error (perm 0x13)
    else if leaf.e.getLsbD 50 && kind.writes then .error (perm 0x14)
    else if kind.reads && !leaf.e.getLsbD 3 then .error (perm 0x10)
    else if kind.writes && (!leaf.e.getLsbD 4 || (leaf.e.getLsbD 49 && !shadow)) then .error (perm 0x11)
    else if kind == .fetch && !leaf.e.getLsbD 5 then .error (perm 0x12)
    else
      let off := va.toNat % leaf.size
      if leaf.e.getLsbD 50 then
        match replica s v vdie (addrOf leaf.e) leaf.size with
        | .error f => .error f
        | .ok f => finishWalk s v va kind size leaf (f + off) false
      else if leaf.e.getLsbD 49 then
        match publishFrame s v (addrOf leaf.e) va.toNat leaf.size shadow with
        | .error f => .error f
        | .ok g => finishWalk s v va kind size leaf g shadow
      else finishWalk s v va kind size leaf (addrOf leaf.e + off) false

/-- Whether a translation serves an access (R291). -/
def Xl.serves (x : Xl) (user : Bool) (kind : AccKind) (size : Nat) (va : DWord) : Bool :=
  decide (x.va ≤ va.toNat) && decide (va.toNat < x.va + x.size) && !(user && x.k) && (!kind.reads || x.r) && (!kind.writes || (x.w && !x.rdup && (!x.publ || x.shadow))) &&
  (kind != .fetch || x.x) && x.shadow == (x.publ && kind == .drayWrite) && !(x.dev && size != 4 && size != 8) && canonical va

/-- The PA of a VA within its translation. -/
def Xl.at (x : Xl) (va : DWord) : Nat := x.pa + (va.toNat - x.va)

/-- A translation by the STC of an entry slice (R294): a valid entry that serves the access, else a walk that fills. Faults are never cached. -/
def translate (s : State) (v : Vd) (die vdie slice asid : Nat) (user : Bool) (kind : AccKind) (size : Nat) (va : DWord) : Except XFault (Xl × State) :=
  match s.stc.find? (fun e => e.vd == v.num && e.die == die && e.slice == slice && e.asid == asid && e.xl.serves user kind size va) with
  | some e => .ok (e.xl, s)
  | none =>
    match walk s v vdie asid user kind size va with
    | .error f => .error f
    | .ok x =>
      let gen := fun (g : Inst → BitVec 32) => ((v.instAt die).map g).getD 0#32
      .ok (x, { s with stc := { vd := v.num, die := die, slice := slice, asid := asid, gen1 := gen Inst.s1gen, gen2 := gen Inst.s2gen, xl := x } :: s.stc })

/-- The GPAs of the frame behind an RDUP or PUBL leaf: that of the replica which a virtual die uses (R310), or both of a publishable buffer's (13 R328). -/
def recordGpas (s : State) (v : Vd) (vdie : Nat) (e : BitVec 64) (va page : Nat) : List Nat :=
  if e.getLsbD 50 then (match replica s v vdie (addrOf e) page with
    | .ok f => [f + va % page]
    | .error _ => [])
  else [false, true].filterMap (fun shadow => match publishFrame s v (addrOf e) va page shadow with
    | .ok g => some g
    | .error _ => none)

/-- The GPAs that a walk of a VA reads or ends at, from the root of its address space down to the page, a record that its leaf names and the frame behind it included (R292, R310; 13 R328). -/
def walkGpas (s : State) (v : Vd) (vdie table lvl va : Nat) (full : Nat) : Nat → List Nat
  | 0 => []
  | n + 1 =>
    let at_ := table + 8 * levelIndex lvl va
    at_ :: (match guestEntry s v at_ with
      | .error _ => []
      | .ok e =>
        if !e.getLsbD 0 then []
        else if e.getLsbD 1 then
          (if e.getLsbD 49 || e.getLsbD 50 then addrOf e :: recordGpas s v vdie e full (2 ^ levelShift lvl) else [addrOf e + va % 2 ^ levelShift lvl])
        else walkGpas s v vdie (addrOf e) (lvl + 1) va full n)

/-- Those GPAs for a virtual address of an address space. -/
def gpasOf (s : State) (v : Vd) (vdie asid : Nat) (va : DWord) : List Nat :=
  if asid < v.desc.asidBase ∨ v.desc.asidBase + v.desc.asidCnt ≤ asid then []
  else (((v.inst vdie).map (fun i => i.s1tab.toNat)).getD 0 + 8 * (asid - v.desc.asidBase)) :: ((codeGpa v asid va.toNat).toList ++
    (match asidRoot s v vdie asid with
     | .ok root => walkGpas s v vdie root 0 (va.toNat % 2 ^ 57) va.toNat 5
     | .error _ => []))

/-- Whether the page of a translation meets a block's range. -/
def BlockRec.meets (b : BlockRec) (x : Xl) : Bool :=
  if b.stage2 then decide (x.gpa < b.base + b.len) && decide (b.base < x.gpa + x.size) else decide (x.va < b.base + b.len) && decide (b.base < x.va + x.size)

/-- Whether a block record covers an access of an address space: the access hits an entry that meets the range, or it would walk into the range (R298). DEDUCED (log 75): a walk does so when its
address, its page, or at stage 2 a table entry that it reads, lies in the range. -/
def blockHits (s : State) (v : Vd) (die slice asid : Nat) (kind : AccKind) (va : DWord) : Bool :=
  s.blocks.any (fun b =>
    b.vd == v.num && b.die == die && b.slice == slice && (!b.wonly || kind.writes) && (b.asid == none || b.asid == some asid) &&
    ((!b.stage2 && decide (b.base ≤ va.toNat) && decide (va.toNat < b.base + b.len)) ||
     s.stc.any (fun e => e.vd == v.num && e.die == die && e.slice == slice && e.asid == asid && decide (e.xl.va ≤ va.toNat) && decide (va.toNat < e.xl.va + e.xl.size) && b.meets e.xl) ||
     (match walk s v (v.vdieOf die) asid false kind 8 (va &&& ~~~7#64) with
      | .ok x => b.meets x
      | .error _ => false) ||
     (b.stage2 && (gpasOf s v (v.vdieOf die) asid va).any (fun g => decide (b.base ≤ g) && decide (g < b.base + b.len)))))

end Sys2Proof.Machine
end

