-- ==== Sys2Proof/Machine/Fetch.lean ====
section
/-! DEFINITION. Machine/Fetch.lean: fetching a word through the code path (06 R140; 12 R291). -/

namespace Sys2Proof.Machine

/-- The address space of a group: ASIDBASE for a kernel group (16 R414), else the one recorded with its graph (12 R286). -/
def asidOf (s : State) (g : Group) : Nat :=
  match findVd s g.vd with
  | none => 0
  | some v =>
    match g.level, findTeam s g.team with
    | .u, some t =>
      (match v.launches.find? (fun l => l.num == t.launch) with
       | some l => ((v.graphs.find? (fun h => h.handle == l.handle)).map Graph.asid).getD v.desc.asidBase
       | none => v.desc.asidBase)
    | _, _ => v.desc.asidBase

/-- The trap of a fetch or of an access made at the word, for a translation fault. -/
def faultTrap (f : XFault) (va : DWord) : Trap := { cause := f.cause, val := va, detail := f.detail }

/-- What a fetch reads of a physical word, with its check verified on the way into the cluster (17 R439): a copy that the die holds has been. -/
def fetchHeld (s : State) (die w vd : Nat) (va : DWord) : Except Trap Word :=
  if s.integrity.contains (w / 16) && !s.remote.any (fun r => remoteOf vd die r && r.word == w) then .error { cause := causeIntegrity, val := va } else .ok (seenWord s vd die w)

/-- The word at an address, through the code path: the SMC core addresses memory physically (log 21), every other group through its translation. -/
def fetchWord (s : State) (g : Group) (va : DWord) : Except Trap Word :=
  match g.site with
  | .smc =>
    if s.integrity.contains (va.toNat / 64) then .error { cause := causeIntegrity, val := va } else .ok (BitVec.ofNat 32 (rdBytes s.mem va.toNat 4))
  | _ =>
    match findVd s g.vd with
    | none => .error (faultTrap (xlat1 0x02) va)
    | some v =>
      match translate s v (siteDie g.site) g.vdie (entrySlice s g.vd (siteDie g.site) va.toNat) (asidOf s g) (g.level == .u) .fetch 4 va with
      | .error f => .error (faultTrap f va)
      | .ok x => fetchHeld s (siteDie g.site) (x.1.at va / 4) g.vd va

/-- Whether a block holds the fetch of a word at its entry slice (12 R298). -/
def fetchStalls (s : State) (g : Group) (va : DWord) : Bool :=
  g.site != .smc && (findVd s g.vd).any (fun v =>
    blockHits s v (siteDie g.site) (entrySlice s g.vd (siteDie g.site) va.toNat) (asidOf s g) .fetch va)

end Sys2Proof.Machine
end

