-- ==== Sys2Proof/Machine/Operands.lean ====
section
/-! DEFINITION. Machine/Operands.lean: every operand form of a word, and the writing of results (04 R77-R89; 07 R160, R161). -/

namespace Sys2Proof.Machine

/-- What a latch supplies to lane l: a uniform latch is broadcast (R89). -/
def Latch.at (k : Latch) (l : Nat) : DWord :=
  match k with
  | .invalid => 0#64
  | .uni v => v
  | .lanes vs => vs.getD l 0#64

/-- Latch k of a fragment. -/
def latchOf (f : Frag) (i : Nat) : Latch := f.latches.getD i .invalid

/-- A 32-bit operand in lane l: a vector register, bits [31:0] of a uniform register, or of a latch (R79, R84, R89). -/
def op32 (c : Ctx) (fld : BitVec 7) (l : Nat) : Word :=
  if fld.toNat < 96 then vget c.g (regOf c.g fld) l
  else if fld.toNat < 120 then (sget c.g (fld.toNat - 96)).setWidth 32
  else ((latchOf c.f (fld.toNat - 120)).at l).setWidth 32

/-- A 64-bit operand in lane l: a pair, a uniform register, or a latch (R78). -/
def op64 (c : Ctx) (fld : BitVec 7) (l : Nat) : DWord :=
  if fld.toNat < 96 then vget c.g (regOf c.g fld + 1) l ++ vget c.g (regOf c.g fld) l
  else if fld.toNat < 120 then sget c.g (fld.toNat - 96)
  else (latchOf c.f (fld.toNat - 120)).at l

/-- Uniform argument register i of the block that a field names. -/
def argOf (c : Ctx) (fld : BitVec 7) (i : Nat) : DWord := sget c.g (fld.toNat - 96 + i)

/-- A 32-bit second source of format A: the immediate imm7 with x = 1 (R96, R160). -/
def srcB32 (c : Ctx) (imm : Bool) (b : BitVec 7) (l : Nat) : Word := if imm then b.signExtend 32 else op32 c b l

/-- A 64-bit second source of format A. -/
def srcB64 (c : Ctx) (imm : Bool) (b : BitVec 7) (l : Nat) : DWord := if imm then b.signExtend 64 else op64 c b l

/-- The 32 values of a per-lane result, zero in lanes that are not active. -/
def laneVals (m : Mask) (f : Nat → DWord) : List DWord := (List.range 32).map (fun l => if m.getLsbD l then f l else 0#64)

/-- Writes a result to its destination without touching the latches: a vector register or pair (k = 2) in the active lanes, a uniform
register from the leader, nothing with N = 1 (R78-R81, R87). -/
def writeDst (c : Ctx) (n : Bool) (d : BitVec 7) (k : Nat) (f : Nat → DWord) : Ctx :=
  if n then c
  else if d.toNat < 96 then
    let r := regOf c.g d
    let g := vset c.g r c.f.mask (fun l => (f l).setWidth 32)
    { c with g := if k = 2 then vset g (r + 1) c.f.mask (fun l => (f l).extractLsb' 32 32) else g }
  else { c with g := sset c.g (d.toNat - 96) (f (leader c.f.mask)) }

/-- Writes a per-lane or uniform result and pushes it: per lane, or as one value when it is uniform or goes to a uniform register
(R88, R159). -/
def putResult (c : Ctx) (uni n : Bool) (d : BitVec 7) (k : Nat) (f : Nat → DWord) : Ctx :=
  let c' := writeDst c n d k f
  if uni || (!n && decide (96 ≤ d.toNat)) then c'.push (.uni (f (leader c.f.mask)))
  else c'.push (.lanes (laneVals c.f.mask f))

/-- A 32-bit result, zero-extended in a uniform register and in a latch (R79, R88). -/
def put32 (c : Ctx) (uni n : Bool) (d : BitVec 7) (f : Nat → Word) : Ctx := putResult c uni n d 1 (fun l => (f l).setWidth 64)

/-- A 64-bit result: a pair in vector registers. -/
def put64 (c : Ctx) (uni n : Bool) (d : BitVec 7) (f : Nat → DWord) : Ctx := putResult c uni n d 2 f

/-- One uniform value written to a uniform register, or to every active lane of a vector register, and pushed as a uniform value. -/
def putUni (c : Ctx) (n : Bool) (d : BitVec 7) (k : Nat) (x : DWord) : Ctx := (writeDst c n d k (fun _ => x)).push (.uni x)

/-- Writes one bit per active lane to a predicate (R80); with U = 1 every active lane takes the leader's bit (R97). -/
def putPred (c : Ctx) (u : Bool) (pd : BitVec 3) (f : Nat → Bool) : Ctx :=
  let b := if u then (fun _ => f (leader c.f.mask)) else f
  { c with g := pset c.g pd.toNat c.f.mask (maskOf b) }

/-- The lanes an arithmetic word computes in: the leader alone for a uniform word (R86). -/
def workLanes (c : Ctx) (uni : Bool) : List Nat := if uni then [leader c.f.mask] else lanesOf c.f.mask

end Sys2Proof.Machine
end

