-- ==== Sys2Proof/Machine/Flags.lean ====
section
/-! DEFINITION. Machine/Flags.lean: the status bits of GSTAT and who sets them (08 R186, Table 8.5; 16 Table 16.5), and reading and writing
GSTAT, GCFG and CHTEAM. -/

namespace Sys2Proof.Machine

/-- The five floating-point flags a computation meets (08 Table 8.5). -/
structure FFlags where
  nv : Bool := false
  dz : Bool := false
  of : Bool := false
  uf : Bool := false
  nx : Bool := false
  deriving DecidableEq, Repr

/-- The union of two sets of flags. -/
def FFlags.or (a b : FFlags) : FFlags :=
  { nv := a.nv || b.nv, dz := a.dz || b.dz, of := a.of || b.of, uf := a.uf || b.uf, nx := a.nx || b.nx }

/-- The flags as GSTAT[4:0]. -/
def FFlags.bits (a : FFlags) : BitVec 64 :=
  (if a.nv then 0x10#64 else 0#64) ||| (if a.dz then 0x08#64 else 0#64) ||| (if a.of then 0x04#64 else 0#64) |||
  (if a.uf then 0x02#64 else 0#64) ||| (if a.nx then 0x01#64 else 0#64)

/-- Sets sticky bits of GSTAT; it never clears one (R186). -/
def setStat (g : Group) (bits : BitVec 64) : Group := { g with gstat := g.gstat ||| bits }

/-- GSTAT.UNIV, SIBS and DRAYF (Table 16.5). -/
def statUniv : BitVec 64 := 0x20#64
def statSibs : BitVec 64 := 0x40#64
def statDrayf : BitVec 64 := 0x80#64

/-- The flags of a word: the union over its working lanes (R186). -/
def flagsOver (ls : List Nat) (f : Nat → FFlags) : FFlags := ls.foldl (fun a l => a.or (f l)) {}

/-- A per-lane floating-point result with its flags. -/
def putF32 (c : Ctx) (uni n : Bool) (d : BitVec 7) (f : Nat → Word × FFlags) : Ctx :=
  let fl := flagsOver (workLanes c uni) (fun l => (f l).2)
  put32 { c with g := setStat c.g fl.bits } uni n d (fun l => (f l).1)

/-- What GSTAT is after a CSRW: DRAYF, SIBS, UNIV and the flags are cleared by a written 1, the rest is unchanged (Table 16.5, R8). -/
def gstatWrite (old new : BitVec 64) : BitVec 64 := old &&& ~~~(new &&& 0xFF#64)

/-- What GCFG is after a CSRW: its reserved bits stay zero (Table 16.6, R9). -/
def gcfgWrite (new : BitVec 64) : BitVec 64 := new &&& 0x7#64

/-- What CHTEAM is after a CSRW (14 Table 14.6). -/
def chteamWrite (new : BitVec 64) : BitVec 64 := new &&& 0xFFFFFF#64

/-- GCFG.FRM (08 Table 8.3) and GCFG.STRICTU (16 Table 16.6). -/
def frmOf (g : Group) : BitVec 2 := g.gcfg.extractLsb' 0 2
def strictU (g : Group) : Bool := g.gcfg.getLsbD 2

end Sys2Proof.Machine
end

