-- ==== Sys2Proof/Machine/Issue.lean ====
section
/-! DEFINITION. Machine/Issue.lean: what every word meets before its own effect: its place in a bonded run, the trap causes in their order, the
scoreboard and the other holds (04 R88-R93, R106; 05 R123, R124; 06 R127, R141; 16 R398, R400). -/

namespace Sys2Proof.Machine

/-! ### The registers of a word -/

/-- The allocation registers an operand names (R77). -/
def Opd.regs (g : Group) (o : Opd) : List Nat :=
  if o.fld.toNat < 96 then (List.range o.n).map (fun i => regOf g o.fld + i) else []

/-- The uniform registers an operand names; s0 is never pending. -/
def Opd.unis (o : Opd) : List Nat :=
  if 96 ≤ o.fld.toNat ∧ o.fld.toNat < 120 then ((List.range o.span).map (fun i => o.fld.toNat - 96 + i)).filter (fun i => i != 0) else []

/-- Whether a word accesses memory or scratchpad (15 Table 15.3): loads, stores, LDX but PREF, LDS, STS, atomic-class words, DRAY commands. -/
def isMemWord : Instr → Bool
  | .ldb _ | .ldh _ | .ldw _ | .ldd _ | .ldq _ | .stb _ | .sth _ | .stw _ | .std _ | .stq _ => true
  | .ldxLdsc _ _ | .ldxLsib _ _ _ | .ldxLdnc _ _ _ | .lds _ | .sts _ => true
  | .drayCopy _ _ | .drayCopy2d _ _ | .drayGather _ _ | .drayScatter _ _ | .draySpill _ _ | .drayGcopy _ _ | .drayPut _ _ | .drayGet _ _ => true
  | .drayFill _ _ | .drayPoolfill _ _ | .drayPoolcmp _ _ | .drayPoolred _ _ | .drayPub _ _ => true
  | .atarithAdd _ | .atarithFadd _ | .atarithDecp _ | .atarithIncw _ | .atminmaxMin _ | .atminmaxMax _ | .atminmaxMinu _ | .atminmaxMaxu _ => true
  | .atlogicAnd _ | .atlogicOr _ | .atlogicXor _ | .atlogicSwap _ | .atcasCas32 _ | .atcasCas64 _ | .atcasAdd64 _ => true
  | .redAdd _ | .redFadd _ | .redMin _ | .redMax _ | .waita _ | .waitaTo _ | .wakeOne _ | .wakeAll _ | .rcn _ | .rcnD _ => true
  | _ => false

/-! ### Pending writes -/

/-- Whether an allocation register has a pending write in a fragment's scoreboard (R141). -/
def pendingReg (g : Group) (b : Board) (cycle r : Nat) : Bool :=
  g.flights.any (fun x => b.flights.contains x.id && x.dst.contains r) || b.regs.any (fun e => e.1 == r && decide (cycle < e.2))

/-- Whether a uniform register has a pending write of the group (R141). -/
def pendingUni (g : Group) (i : Nat) : Bool := g.flights.any (fun x => x.udst.contains i)

/-- Whether a row of a tile has a pending write in a fragment's scoreboard (10 R231). -/
def pendingRow (b : Board) (cycle k r : Nat) : Bool := b.rows.any (fun e => e.1 == k * 32 + r && decide (cycle < e.2))

/-- Whether a word must wait for a register it reads or writes. -/
def boardBusy (g : Group) (f : Frag) (cycle : Nat) (p : Shape) : Bool :=
  p.opds.any (fun o => (o.regs g).any (pendingReg g f.board cycle) || o.unis.any (pendingUni g)) ||
  p.preds.any (fun i => i == 7 && g.flights.any (·.pdst))

/-- Whether a word writes a register that a memory word not yet accepted in every lane still reads (16 R398). -/
def sourceHeld (g : Group) (f : Frag) (p : Shape) : Bool :=
  (p.opds.filter Opd.dst).any (fun o =>
    g.flights.any (fun x => x.unacc != 0#32 &&
      ((f.board.flights.contains x.id && (o.regs g).any (fun r => x.srcs.contains r)) || o.unis.any (fun r => x.usrcs.contains r))))

/-- Whether a word is ordered as a memory word is by what the group has outstanding (11 R263; 12 R305; 15 Tables 15.2, 15.3): the memory words, CBLD and the XLAT words that reach slices. A
barrier arrival issues without waiting (14 R340). -/
def ordersAsMem (i : Instr) : Bool :=
  isMemWord i || (match i with
    | .cbld _ _ | .xlatBlock _ | .xlatPurge _ | .xlatInvr _ | .xlatPin _ | .xlatScrub _ => true
    | _ => false)

/-- Whether a word can leave lanes that are not accepted, so that it counts towards the 64 of R400. -/
def countsUnaccepted (i : Instr) : Bool :=
  isMemWord i || (match i with
    | .barArr _ | .barArrn _ => true
    | _ => false)

/-- The uniform registers that the group's Dray commands that have not started were given as arguments (16 R398). -/
def drayHolds (s : State) (g : Group) : List Nat := (s.drays.filter (fun d => d.gid == g.gid)).flatMap DrayCmd.srcs

/-- Whether a fragment's wait holds the memory words of its group: a fence, a barrier phase that is not complete, a SCRUB (11 R278, R279; 14 R340; 12 R305). -/
def Waiting.holdsMem : Waiting → Bool
  | .barrier _ _ | .fence _ | .fenceVa | .scrub _ _ => true
  | _ => false

/-- Whether an acquire of the group is still out, or another of its fragments, live or parked, waits for what holds its memory words (06 R135; 11 R263). -/
def memHeld (g : Group) (fi : Nat) : Bool :=
  g.flights.any (fun x => x.acquire != .none) || (g.frags.eraseIdx fi).any (fun h => h.wait.holdsMem) || g.stack.any (fun e => e.pwait.holdsMem)

/-- Whether a run of two or more words still has an access that has not been translated (04 R93). -/
def runHeld (g : Group) : Bool := g.flights.any (fun x => x.runId != 0 && x.unacc != 0#32)

/-- The number of memory words and held arrivals with a lane not accepted (16 R400). -/
def unaccepted (g : Group) : Nat := (g.flights.filter (fun x => (x.mem || x.held) && x.unacc != 0#32)).length

/-- Whether a fragment's word has issued and blocks it: what it looks at again is only what it waits for (06 R127; 11 R278-R280; 12 R305; 13 R326; 14 R338). -/
def Waiting.issued : Waiting → Bool
  | .barrier _ _ | .barrierDone | .fence _ | .fenceVa | .waitc _ _ | .dwait _ | .scrub _ _ | .wfiDone => true
  | .no | .monitor _ | .rendezvous _ | .started _ | .wfi | .trapDue _ => false

/-- Whether a word that the traps have passed is not ready (R127). -/
def notReady (s : State) (g : Group) (fi : Nat) (f : Frag) (cycle : Nat) (i : Instr) : Bool :=
  let p := shape i
  !f.wait.issued &&
  (boardBusy g f cycle p || sourceHeld g f p || (p.opds.filter Opd.dst).any (fun o => o.unis.any (fun r => (drayHolds s g).contains r)) ||
   (ordersAsMem i && memHeld g fi) || (countsUnaccepted i && decide (64 ≤ unaccepted g)))

/-- Whether the word that a fragment is about to execute cannot be considered yet: a word outside a run waits until the accesses of the run before it have been translated (04 R93),
and a SWITCH until no block holds the fetch of its case values (06 R148; 12 R298). -/
def startHeld (s : State) (g : Group) (f : Frag) (i : Instr) : Bool :=
  (f.run == 0 && !f.wait.issued && runHeld g) ||
  (match i with
   | .switch _ => fetchStalls s g (f.pc + 4#64) || fetchStalls s g (f.pc + 8#64)
   | _ => false)

/-! ### The order of trap causes (R106) -/

/-- A B = 1 word stands only where R90 allows it. -/
def memberOk (f : Frag) : Bool := f.chain && decide (1 ≤ f.run) && decide (f.run < 8)

/-- The ILLEGAL and PRIV traps hold the word (R124). -/
def wordTrap (cause : BitVec 8) (w : Word) : Trap := { cause := cause, val := w.setWidth 64 }

/-- The error of a result. -/
def errOf {α β : Type} : Except α β → Option α
  | .error e => some e
  | .ok _ => none

/-- The case bytes above cnt of a SWITCH are zero, and the words that hold them can be fetched (04 R105; 06 R148). -/
def switchData (s : State) (g : Group) (pc : DWord) (w : FmtS) : Except Trap Bool :=
  let ws : List (Except Trap Word) := (List.range 2).map (fun i => fetchWord s g (pc + BitVec.ofNat 64 (4 * (i + 1))))
  match ws.findSome? (errOf (α := Trap) (β := Word)) with
  | some t => .error t
  | none =>
    let byte := fun (i : Nat) => match ws[i / 4]? with
      | some (.ok x) => byteOfNat x.toNat (i % 4)
      | _ => 0#8
    .ok ((List.range 8).all (fun i => decide (i ≤ w.cnt.toNat) || byte i == 0#8))

/-- The first trap cause, before the word's own (R106). -/
def firstTrap (s : State) (g : Group) (f : Frag) (i : Instr) : Option Trap :=
  let p := shape i
  let illegal := some (wordTrap causeIllegal (encode i))
  if !legal i || (p.notCore && !isCluster g.site) || (p.b && f.run == 0) then illegal
  else
    let data : Except Trap Bool := match i with
      | .switch w => switchData s g f.pc w
      | _ => .ok true
    match data with
    | .error t => some t
    | .ok false => illegal
    | .ok true =>
      if !g.level.has p.priv then some (wordTrap causePriv (encode i))
      else match (p.opds.flatMap (Opd.regs g)).find? (fun r => decide (g.vregs ≤ r)) with
        | some r => some { cause := causeRegbud, val := BitVec.ofNat 64 r }
        | none => match p.tiles.find? (fun t => decide (g.tiles ≤ t)) with
          | some t => some { cause := causeTile, val := BitVec.ofNat 64 t }
          | none => match (p.opds.filter (fun o => !o.dst && decide (120 ≤ o.fld.toNat))).find? (fun o => latchOf f (o.fld.toNat - 120) == .invalid) with
            | some o => some { cause := causeLatch, val := BitVec.ofNat 64 (o.fld.toNat - 120) }
            | none => none

/-! ### Runs -/

/-- Whether a word that is no instruction has its B bit set (04 R90, R96-R105). DESIGN CHOICE (log 54): a word of an unassigned major, which has no format, counts as one whose bit 0 is B, so its
ILLEGAL is delivered at its run's head when that bit is 1 (05 R124). -/
def badWordB (x : Word) : Bool :=
  let m := (x.extractLsb' 25 7).toNat
  x.getLsbD 0 && !([1, 2, 3, 6, 7, 0x27].contains m || (decide (0x50 ≤ m) && decide (m ≤ 0x59) && m != 0x57) || (decide (0x6D ≤ m) && decide (m ≤ 0x74)))

/-- Whether the word after a fragment's next word is a member of its run, so that the bay is the fragment's (R91); a member that is no legal word raises its trap in the run (R92). A word that cannot
be fetched may be one: the bay stays the fragment's until the fault on its fetch has been delivered. -/
def nextMember (s : State) (g : Group) (f : Frag) (p : Shape) : Bool :=
  !p.flow && decide (f.run + 1 < 8) &&
  (match fetchWord s g (f.pc + 4#64) with
   | .ok x => (match decodeWord x with
     | .ok j => (shape j).b
     | .error _ => badWordB x)
   | .error _ => true)

/-- Whether the word after a fragment's next word can be fetched: the identity of a run is given only with one that can. -/
def nextReads (s : State) (g : Group) (f : Frag) : Bool := (errOf (fetchWord s g (f.pc + 4#64))).isNone

/-- Changes what the fragments of a group wait for, the parked ones included. -/
def Group.mapWaits (g : Group) (f : Waiting → Waiting) : Group :=
  { g with
    frags := g.frags.map (fun x => { x with wait := f x.wait })
    stack := g.stack.map (fun e => { e with pwait := f e.pwait }) }

/-- What a fragment waits for once its word is considered: the start of its MMAF lies behind it (10 R240). -/
def Waiting.passed : Waiting → Waiting
  | .started _ => .no
  | w => w

/-- A fragment about to execute a word: a member keeps its run, whose identity it begins where none could be given before; every other word is a head, before which every latch becomes invalid
(R90). -/
def prepared (f : Frag) (b bond : Bool) (fresh : Nat) : Frag :=
  let f := { f with wait := f.wait.passed }
  if b && memberOk f then { f with runId := if f.runId = 0 then fresh else f.runId }
  else { f with run := 0, head := f.pc, latches := noLatches, runId := if bond then fresh else 0, bonded := false }

/-- Whether a word waits where another group or another party acts: SEND and RECV. -/
def isChannelWord : Instr → Bool
  | .send _ _ | .recv _ _ => true
  | _ => false

/-- Whether the next member of a fragment's run waits for words in flight of its own run (own), or for earlier ones: through a register, an acquire, or, once it has been found not ready, a
counter or an order (04 R93; log 53); the fault on the fetch of a word that may be a member waits for its own (06 R140). -/
def memberWaits (s : State) (g : Group) (fi : Nat) (f : Frag) (own : Bool) : Bool :=
  f.bonded &&
  (let p := fun (x : Flight) => (x.runId == f.runId) == own
   let h := { g with flights := g.flights.filter p }
   let b := { f with board := { f.board with regs := [], rows := [] } }
   match fetchWord s g f.pc with
   | .ok w => (match decodeWord w with
     | .ok i =>
       boardBusy h b 0 (shape i) || sourceHeld h b (shape i) || (ordersAsMem i && h.flights.any (fun x => x.acquire != .none)) ||
       ((s.tried.contains { gid := g.gid, fi := fi } || f.wait != .no) && !isChannelWord i &&
         (if own then !g.flights.isEmpty && g.flights.all p else g.flights.any p || s.drays.any (fun d => d.gid == g.gid)))
     | .error _ => false)
   | .error _ => own)

/-- The state in which the word has not issued: its fragment counts as tried (log 9). -/
def Ctx.hold (c : Ctx) : State := c.held

/-- Runs a word's body: its own traps are taken, its effect is the state it answers. -/
def finishIssue (c : Ctx) (body : Ctx → Except Trap State) : State :=
  match body c with
  | .ok s => s
  | .error t => raiseTrap c t

/-- The group record in which a replay entry executes: its window, and the entry as the one fragment (16 R400). -/
def replayGroup (g : Group) (r : Replay) (cycle : Nat) : Group :=
  { g with
    wbase := r.wb.setWidth 64
    frags := [{ newFrag r.pc r.mask cycle with board := (g.frags.getD r.frag (newFrag r.pc r.mask cycle)).board }] }

/-- A scoreboard that takes on words in flight when some of its lanes are theirs. -/
def Board.take (b : Board) (lanes m : Mask) (ids : List Nat) : Board := if lanes &&& m = 0#32 then b else { b with flights := ids ++ b.flights }

/-- The group with words in flight, of the lanes of a mask, in the scoreboard of every fragment, live, parked or arrived, that has one of those lanes; each waits as they make it wait (06 R141;
16 R400). -/
def Group.takeFlights (g : Group) (m : Mask) (ids : List Nat) (w : Waiting) : Group :=
  let wait := fun (lanes : Mask) (x : Waiting) => if w == .no || lanes &&& m = 0#32 then x else w
  { g with
    frags := g.frags.map (fun f => { f with board := f.board.take f.mask m ids, wait := wait f.mask f.wait })
    stack := g.stack.map (fun e => { e with pboard := e.pboard.take e.pmask m ids, pwait := wait e.pmask e.pwait, aboard := e.aboard.take e.arr m ids }) }

/-- What a replay entry leaves: its effect on the group, with the group's own fragments, and the entry gone; a stop keeps it (16 R400). Its word in flight belongs to the fragment that
the entry names and holds the registers of every fragment with its lanes (06 R141). A group whose lanes have all exited drains again when its last entry has issued (17 R426). What an
entry accesses keeps its place before later entries in other aliases: a FENCEVA may have stood between them (15 R367). -/
def afterReplay (old : Group) (r : Replay) (s : State) : State :=
  modGroup s old.gid (fun g =>
    let new := (g.flights.filter (fun (x : Flight) => !old.flights.any (fun (y : Flight) => y.id == x.id))).map Flight.id
    let wait := (g.frags.head?.map Frag.wait).getD .no
    let back := { g with frags := old.frags, flights := g.flights.map (fun (x : Flight) => if new.contains x.id then { x with frag := r.frag, order := r.order } else x) }
    { (if g.status == .running then back.takeFlights r.mask new wait else back) with
      wbase := old.wbase
      lastFrag := old.lastFrag
      vaFences := g.vaFences + 1
      status := if g.status == .running && old.replay.tail.isEmpty && old.exited == 0xFFFFFFFF#32 then .draining else g.status
      replay := if g.status == .running then old.replay.tail else old.replay })

/-- The fragments counted as tried once a word of a group has issued: none of its bay's any longer. -/
def untry (s : State) (g : Group) : List Cur :=
  s.tried.filter (fun u => !s.groups.any (fun h => h.gid == u.gid && h.site == g.site && h.bay == g.bay))

/-- Issues a word from the fragment that is issuing: the traps in their order, the holds, then its own effect. -/
def issue (i : Instr) (s : State) (body : Ctx → Except Trap State) : Host.Outcome State Fault Refusal :=
  match s.cur with
  | none => .fault .noFragment
  | some u =>
    match findGroup s u.gid with
    | none => .fault .noFragment
    | some g0 =>
      let cycle := cycleOf s (siteDie g0.site)
      let g := match g0.replay with
        | r :: _ => replayGroup g0 r cycle
        | [] => g0
      let fi := if g0.replay.isEmpty then u.fi else 0
      match g.frags[fi]? with
      | none => .fault .noFragment
      | some f0 =>
        if g.status != .running then .fault .noFragment
        else
          let p := shape i
          let f1 := prepared f0 p.b false s.nextId
          let bond := g0.replay.isEmpty && nextMember s g f1 p
          let f := prepared f0 p.b (bond && nextReads s g f1) s.nextId
          let base := { s with cur := none, tried := untry s g, nextId := if bond || p.b then s.nextId + 1 else s.nextId }
          let held := { s with cur := none, tried := u :: s.tried }
          let c : Ctx := { s := setGroup base g, g := g, fi := fi, f := f, bond := bond, chain := !p.flow, held := held }
          let t := if startHeld s g f i then held
            else match firstTrap s g f i with
              | some t => raiseTrap c t
              | none => if notReady s g fi f cycle i then held else finishIssue c body
          match g0.replay with
          | [] => .next t
          | r :: _ => .next (if t.tried.contains u then t else afterReplay g0 r t)

/-- A word that does not decode raises ILLEGAL (05 R123, R124). -/
def issueBad (x : Word) (s : State) : Host.Outcome State Fault Refusal :=
  match s.cur with
  | none => .fault .noFragment
  | some u =>
    match findGroup s u.gid with
    | none => .fault .noFragment
    | some g0 =>
      let g := match g0.replay with
        | r :: _ => replayGroup g0 r (cycleOf s (siteDie g0.site))
        | [] => g0
      let fi := if g0.replay.isEmpty then u.fi else 0
      match g.frags[fi]? with
      | none => .fault .noFragment
      | some f0 =>
        if g.status != .running then .fault .noFragment
        else
          let f := prepared f0 (badWordB x && memberOk f0) false 0
          if f.run == 0 && runHeld g then .next { s with cur := none, tried := u :: s.tried }
          else
            let t := raiseTrap { s := { s with cur := none, tried := untry s g }, g := g, fi := fi, f := f, bond := false, chain := false } (wordTrap causeIllegal x)
            match g0.replay with
            | [] => .next t
            | r :: _ => .next (afterReplay g0 r t)

/-- A fetch that faults raises its cause at the word (06 R140). DESIGN CHOICE (log 92): so it does behind the issued words of a run, of which the word may be a member: TRAPPC and the frame PC are
the word's, not the head's, and RUNIX is 0. -/
def issueFetchFault (t : Trap) (s : State) : Host.Outcome State Fault Refusal :=
  match s.cur with
  | none => .fault .noFragment
  | some u =>
    match findGroup s u.gid with
    | none => .fault .noFragment
    | some g =>
      match g.frags[u.fi]? with
      | none => .fault .noFragment
      | some f =>
        if g.status != .running then .fault .noFragment
        else if runHeld g then .next { s with cur := none, tried := u :: s.tried }
        else .next (raiseTrap { s := { s with cur := none, tried := untry s g }, g := g, fi := u.fi, f := { f with run := 0, bonded := false }, bond := false, chain := false } t)

/-- The trap that a fragment's wait has ended in, which it delivers when its bay lets it issue (04 R91; 06 R135). -/
def dueTrap (f : Frag) : Option Trap :=
  match f.wait with
  | .trapDue t => some t
  | _ => none

/-- The trap that the fragment that is issuing has to deliver at its word. -/
def headDue (s : State) (u : Cur) : Option Trap :=
  (findGroup s u.gid).bind (fun g => if g.status == .running && g.replay.isEmpty then (g.frags[u.fi]?).bind dueTrap else none)

/-- Whether another run than that of a fragment's word still has an access that has not been translated (04 R93). -/
def otherHeld (g : Group) (f : Frag) : Bool := g.flights.any (fun x => x.runId != 0 && x.unacc != 0#32 && !(f.run != 0 && x.runId == f.runId))

/-- Delivers it, once the accesses of a run that the group has issued meanwhile have been translated (04 R93). -/
def issueDue (t : Trap) (s : State) : Host.Outcome State Fault Refusal :=
  match s.cur with
  | none => .fault .noFragment
  | some u =>
    match findGroup s u.gid with
    | none => .fault .noFragment
    | some g =>
      match g.frags[u.fi]? with
      | none => .fault .noFragment
      | some f =>
        if otherHeld g f then .next { s with cur := none, tried := u :: s.tried }
        else .next (raiseTrap { s := { s with cur := none, tried := untry s g }, g := g, fi := u.fi, f := f, bond := false, chain := false } t)

/-- A word that only reads and writes registers and predicates: its effect, then the next word. -/
def plain (i : Instr) (s : State) (op : Ctx → Ctx) : Host.Outcome State Fault Refusal := issue i s (fun c => .ok (op c).finish)

/-! ### Words in flight -/

/-- A new word in flight: every active lane still to do. -/
def newFlight (c : Ctx) (w : Word) : Flight :=
  { id := c.s.nextId, word := w, args := [], pc := c.f.pc, frag := c.fi, mask := c.f.mask, wb := c.g.wbase.setWidth 16, runId := c.f.runId, head := c.f.head, pos := c.f.run, left := c.f.mask,
    unacc := 0#32, srcs := [], usrcs := [], dst := [], udst := [], pdst := false, acquire := .none, vec := [], mem := false, held := false, faulted := [], order := c.s.nextId }

/-- Puts a word in flight, in its fragment's scoreboard. -/
def Ctx.launchFlight (c : Ctx) (x : Flight) : Ctx :=
  { c with
    s := { c.s with nextId := c.s.nextId + 1 }
    g := { c.g with flights := c.g.flights ++ [x] }
    f := { c.f with board := { c.f.board with flights := x.id :: c.f.board.flights } } }

/-- The value of a counter (11 R260). -/
def Group.count (g : Group) : Ctr → Nat
  | .g => g.cg.length
  | .s => g.cs.length
  | .f => g.cf.length
  | .w => g.cw.length

/-- Raises a counter for a word (11 R260). -/
def Group.raise (g : Group) (k : Ctr) (id : Nat) : Group :=
  match k with
  | .g => { g with cg := g.cg ++ [(id, false)] }
  | .s => { g with cs := g.cs ++ [(id, false)] }
  | .f => { g with cf := g.cf ++ [(id, false)] }
  | .w => { g with cw := g.cw ++ [(id, false)] }

/-- Completed words at the head leave at once (11 R261). -/
def popDone : List (Nat × Bool) → List (Nat × Bool)
  | (_, true) :: r => popDone r
  | l => l

/-- A word completes in a counter's queue (11 R261). -/
def markDone (q : List (Nat × Bool)) (id : Nat) : List (Nat × Bool) := popDone (q.map (fun e => if e.1 == id then (id, true) else e))

/-- A word completes in every counter that it raised. -/
def Group.lower (g : Group) (id : Nat) : Group :=
  { g with cg := markDone g.cg id, cs := markDone g.cs id, cf := markDone g.cf id, cw := markDone g.cw id }

end Sys2Proof.Machine
end

