-- ==== Sys2Proof/Machine/FourHand.lean ====
section
/-! DEFINITION. Machine/FourHand.lean: four-in-hand sets: the specification, its members, and what breaks a rendezvous (10 R238-R242). -/

namespace Sys2Proof.Machine

/-- Whether a specification names a set (10 Table 10.5, V). -/
def fhValid (spec : BitVec 64) : Bool := spec.getLsbD 31

/-- The group number of the member in bay q. -/
def fhMember (spec : BitVec 64) (q : Nat) : Nat := (spec.extractLsb' (8 * q) 5).toNat

/-- Whether a specification names a group number. -/
def fhNames (spec : BitVec 64) (num : Nat) : Bool := fhValid spec && (List.range 4).any (fun q => fhMember spec q == num)

/-- The reserved bits of a specification. -/
def fhReserved (spec : BitVec 64) : BitVec 64 := spec &&& 0xFFFFFFFF60E0E0E0#64

/-- The group with a number in a team. -/
def teamGroup (s : State) (tid num : Nat) : Option Group := s.groups.find? (fun g => g.team == tid && g.num == num && g.status != .gone)

/-- Whether a fragment waits at a rendezvous. -/
def atRendezvous (f : Frag) : Bool :=
  match f.wait with
  | .rendezvous _ => true
  | _ => false

/-- The index of the group's fragment that arrived first at a rendezvous. -/
def waiter (g : Group) : Option Nat :=
  let order := fun (f : Frag) => match f.wait with
    | .rendezvous n => some n
    | _ => none
  (List.range g.frags.length).foldl (fun best i =>
    match (g.frags[i]?).bind order, best.bind (fun j => (g.frags[j]?).bind order) with
    | some n, some m => if n < m then some i else best
    | some _, none => some i
    | none, _ => best) none

/-- The FOURHAND trap with a code of Table 10.6. -/
def fourhand (code : Nat) : Trap := { cause := causeFourhand, val := BitVec.ofNat 64 code }

/-- A group whose first waiting fragment raises FOURHAND at its MMAF; a group with none waiting, or not running, is unchanged. -/
def trapWaiter (code : Nat) (g : Group) : Group :=
  match waiter g with
  | some i => (match g.frags[i]? with
    | some f => if g.status = .running then trapWait g i f (fourhand code) else g
    | none => g)
  | none => g

/-- Every waiting member of a set that the group num of a team has left raises code 2 (R241): those whose specification is the one the leaver held,
or, for a group that exited or was killed, that names it. A member that arrives later raises it too: its set is broken until its own next FHSET. -/
def breakSets (s : State) (tid num : Nat) (spec : Option (BitVec 64)) : State :=
  { s with groups := s.groups.map (fun g =>
      if g.team == tid && fhNames g.fhspec num && (match spec with | some x => g.fhspec == x | none => true) then { trapWaiter 2 g with fhbroken := g.fhbroken || g.num != num } else g) }

end Sys2Proof.Machine
end

