-- ==== Sys2Proof/Machine/Control.lean ====
section
/-! DEFINITION. Machine/Control.lean: fragments, the divergence stack and the control-flow words of majors 0x01 to 0x0F (06 R132-R158). DSTK.SPILL and
DSTK.FILL, which edit a stopped group's frame, are in Machine/Frame.lean; VOTE is in Machine/LaneOps.lean. -/

namespace Sys2Proof.Machine

/-! ### The stack -/

/-- The union of two scoreboards (R136). -/
def Board.union (a b : Board) : Board := { flights := a.flights ++ b.flights, regs := a.regs ++ b.regs, rows := a.rows ++ b.rows }

/-- A new entry: nobody arrived, nobody parked. -/
def newEntry (kind : StackKind) (rpc : Option DWord) (origin : DWord) (rmask : Mask) : StackEntry :=
  { rpc := rpc, ppc := 0#64, pmode := .none, origin := origin, kind := kind, rmask := rmask, arr := 0#32, pmask := 0#32, pboard := noBoard, pwait := .no, aboard := noBoard }

/-- What a fragment that is parked goes on waiting for: a word that has issued completes while it is parked (R135); one that waits at its word to start executes again. -/
def Waiting.parked : Waiting → Waiting
  | .rendezvous _ | .started _ => .no
  | w => w

/-- Parks a fragment in an entry (R135). -/
def parkIn (e : StackEntry) (o : Frag) (mode : PMode) : StackEntry :=
  { e with ppc := o.pc, pmask := o.mask, pmode := mode, pboard := o.board, pwait := o.wait.parked }

/-- The live fragments other than fragment fi. -/
def otherFrags (g : Group) (fi : Nat) : List Frag := g.frags.eraseIdx fi

/-- Pushes an entry for a word of fragment fi: the other live fragment, if any, is parked in the entry that was on top (R135). The stack has its
top first; none when 16 entries are resident. -/
def pushEntry (g : Group) (fi : Nat) (e : StackEntry) : Option Group :=
  if 16 ≤ g.stack.length then none
  else
    match otherFrags g fi, g.stack with
    | o :: _, t :: rest => some { g with stack := e :: parkIn t o .arm :: rest }
    | _, st => some { g with stack := e :: st }

/-- A fragment of a split: it inherits the issuing fragment's scoreboard (R141). -/
def partFrag (f : Frag) (cycle : Nat) (p : Mask × DWord) : Frag := { newFrag p.2 p.1 cycle with board := f.board }

/-- Diverge (R134): the parts of the issuing fragment, the leader's first; none when a push finds 16 entries resident. DESIGN CHOICE (log 57): after a split, and after a fusion, an unpark
or a restore, fragment 0 counts as the one that issued the group's most recent word (R129). -/
def diverge (g : Group) (fi : Nat) (f : Frag) (cycle : Nat) (parts : List (Mask × DWord)) : Option Group :=
  let inPlace := match g.stack with
    | e :: _ => decide (f.mask = (e.rmask &&& ~~~e.arr))
    | [] => false
  let pushed := if inPlace then some g
    else pushEntry g fi (newEntry .implicit (match g.stack with | e :: _ => e.rpc | [] => none) 0#64 f.mask)
  pushed.map (fun h =>
    match parts with
    | [a, b] => { h with frags := [partFrag f cycle a, partFrag f cycle b], lastFrag := 0 }
    | a :: _ =>
      let rest := f.mask &&& ~~~a.1
      { h with
        frags := [partFrag f cycle a]
        lastFrag := 0
        stack := match h.stack with
          | e :: st => { e with ppc := f.pc, pmask := rest, pmode := .remainder, pboard := f.board, pwait := .no } :: st
          | [] => [] }
    | [] => h)

/-- Unparks the lanes parked in an entry. -/
def unpark (e : StackEntry) (cycle : Nat) : Frag × StackEntry :=
  ({ newFrag e.ppc e.pmask cycle with board := e.pboard, wait := e.pwait }, { e with pmask := 0#32, pmode := .none, pboard := noBoard, pwait := .no })

/-- Settle (R136), on the stack and the live fragments, repeated at most fuel times. -/
def settle (cycle : Nat) : Nat → List StackEntry → List Frag → List StackEntry × List Frag
  | 0, st, live => (st, live)
  | n + 1, st, live =>
    match st with
    | [] => ([], live)
    | e :: rest =>
      if e.arr = e.rmask then
        if e.rmask = 0#32 then settle cycle n rest live
        else if e.kind = .implicit then
          match rest with
          | t :: r => settle cycle n ({ t with arr := t.arr ||| e.rmask, aboard := t.aboard.union e.aboard } :: r) live
          | [] => ([], live)
        else
          let fused := { newFrag (e.rpc.getD 0#64 + 4#64) e.rmask cycle with board := e.aboard }
          match rest with
          | t :: r =>
            if t.pmode = .arm then (((unpark t cycle).2 :: r), [fused, (unpark t cycle).1]) else (rest, [fused])
          | [] => ([], [fused])
      else if live.isEmpty && e.pmode != .none then ((unpark e cycle).2 :: rest, [(unpark e cycle).1])
      else (st, live)

/-- The group after Settle. -/
def settleGroup (g : Group) (cycle : Nat) : Group :=
  let r := settle cycle (g.stack.length + 2) g.stack g.frags
  { g with stack := r.1, frags := r.2, lastFrag := 0 }

/-- Whether Settle has popped the last resident entry while entries are spilled (R138, code 3). -/
def lostSpill (before after : Group) : Bool := !before.stack.isEmpty && after.stack.isEmpty && after.spilled != 0

/-- An entry without some lanes (R137). -/
def entryWithout (m : Mask) (e : StackEntry) : StackEntry :=
  let pm := e.pmask &&& ~~~m
  { e with rmask := e.rmask &&& ~~~m, arr := e.arr &&& ~~~m, pmask := pm, pmode := if pm = 0#32 then .none else e.pmode }

/-- The group after lanes exit or are killed: they leave the fragments and every resident entry; when all have exited it drains and its stack is
discarded, its spilled part too, else Settle runs (R137). -/
def removeLanes (g : Group) (m : Mask) (cycle : Nat) : Group :=
  let ex := g.exited ||| m
  let live := (g.frags.map (fun f => { f with mask := f.mask &&& ~~~m })).filter (fun f => f.mask != 0#32)
  let h := { g with exited := ex, frags := live, stack := g.stack.map (entryWithout m) }
  if ex = 0xFFFFFFFF#32 then { h with frags := [], stack := [], spilled := 0, status := .draining }
  else settleGroup h cycle

/-- The lanes of a mask grouped by target: the leader's part first, the others by their lowest lane (R134). -/
def partsFrom (t : Nat → DWord) : Nat → List Nat → List (Mask × DWord)
  | 0, _ => []
  | _, [] => []
  | n + 1, l :: ls =>
    (maskOf (fun j => (l :: ls).contains j && t j == t l), t l) :: partsFrom t n (ls.filter (fun j => t j != t l))

def partsOf (m : Mask) (t : Nat → DWord) : List (Mask × DWord) := partsFrom t 32 (lanesOf m)

/-! ### Ends of a control word -/

/-- The DIVSTACK trap with a code of Table 6.2. -/
def divstack (code : Nat) : Trap := { cause := causeDivstack, val := BitVec.ofNat 64 code }

/-- Moves the whole fragment to a target. -/
def jumpTo (c : Ctx) (pc : DWord) : State :=
  { c with
    g := { c.g with lastFrag := c.fi }
    f := { c.f with pc := pc, chain := false, bonded := false, run := 0, age := c.cycle } }.commit

/-- Puts back a group whose fragments the word has replaced. -/
def putGroup (c : Ctx) (g : Group) : State := setGroup c.s g

/-- Sends each active lane to its target: the fragment moves when all agree, else it diverges (R134). -/
def spread (c : Ctx) (t : Nat → DWord) : Except Trap State :=
  match partsOf c.f.mask t with
  | [] => .ok (jumpTo c (c.f.pc + 4#64))
  | [p] => .ok (jumpTo c p.2)
  | ps =>
    match diverge c.group c.fi c.f c.cycle ps with
    | some g => .ok (putGroup c g)
    | none => .error (divstack 0)

/-- The target of a format C word (04 R102). -/
def targetC (c : Ctx) (w : FmtC) : DWord := c.f.pc + (w.off.signExtend 64 <<< 2)

/-- The address of the next word. -/
def nextPc (c : Ctx) : DWord := c.f.pc + 4#64

/-! ### The words -/

/-- BRA (R144). -/
def execBra (w : FmtC) (s : State) : Host.Outcome State Fault Refusal := issue (.bra w) s (fun c => .ok (jumpTo c (targetC c w)))

/-- BRC: per lane with U = 0; with U = 1 the whole fragment follows the leader, and a dissenting lane sets UNIV or, in strict mode, raises
UNIFORM (R142, R144). -/
def execBrc (w : FmtC) (s : State) : Host.Outcome State Fault Refusal :=
  issue (.brc w) s (fun c =>
    let bit := fun l => (pget c.g w.p.toNat).getLsbD l != w.n
    let dest := fun l => if bit l then targetC c w else nextPc c
    if w.u then
      let lead := bit (leader c.f.mask)
      let dissent := activeOf c.f.mask (fun l => bit l != lead)
      if dissent ≠ 0#32 && strictU c.g then .error { cause := causeUniform, mask := some dissent }
      else
        let g := if dissent ≠ 0#32 then setStat c.g statUniv else c.g
        .ok (jumpTo { c with g := g } (dest (leader c.f.mask)))
    else spread c dest)

/-- CALL: the return address goes to s23 (R145). -/
def execCall (w : FmtC) (s : State) : Host.Outcome State Fault Refusal :=
  issue (.call w) s (fun c => .ok (jumpTo { c with g := sset c.g 23 (nextPc c) } (targetC c w)))

/-- RET: to the address in s23, which must be word-aligned (R145). -/
def execRet (w : FmtX) (s : State) : Host.Outcome State Fault Refusal :=
  issue (.ret w) s (fun c =>
    let t := sget c.g 23
    if t.extractLsb' 0 2 ≠ 0#2 then .error { cause := causeLanding, val := t } else .ok (jumpTo c t))

/-- Whether a target is a word-aligned LAND word that the VD may execute (R146). DESIGN CHOICE (log 76): a word of LAND's major counts as one whatever its d, U and B hold, though a nonzero
one of them makes it ILLEGAL where it is executed. -/
def landsAt (c : Ctx) (t : DWord) : Bool :=
  t.extractLsb' 0 2 == 0#2 &&
  (match fetchWord c.s c.g t with
   | .ok x => (match decodeWord x with
      | .ok (.land _) => true
      | _ => false)
   | .error _ => false)

/-- JMPI and CALLI: every active lane's target is checked before any lane moves (R146); a target whose fetch a block holds is waited for (12 R298). -/
def indirect (c : Ctx) (a : BitVec 7) (link : Bool) : Except Trap State :=
  let t := fun l => op64 c a l
  if (lanesOf c.f.mask).any (fun l => (t l).extractLsb' 0 2 == 0#2 && fetchStalls c.s c.g (t l)) then .ok c.hold else
  let bad := activeOf c.f.mask (fun l => !landsAt c (t l))
  if bad ≠ 0#32 then .error { cause := causeLanding, mask := some bad, val := t (leader bad) }
  else spread (if link then { c with g := sset c.g 23 (nextPc c) } else c) t

/-- JMPI (R146). -/
def execJmpi (w : FmtJ) (s : State) : Host.Outcome State Fault Refusal := issue (.jmpi w) s (fun c => indirect c w.a false)
/-- CALLI (R146). -/
def execCalli (w : FmtJ) (s : State) : Host.Outcome State Fault Refusal := issue (.calli w) s (fun c => indirect c w.a true)

/-- Opens a reconvergence: pushes an entry (R147). -/
def openEntry (c : Ctx) (e : StackEntry) : Except Trap Ctx :=
  match pushEntry c.group c.fi e with
  | some g => .ok { c with g := { g with frags := [c.f] }, fi := 0 }
  | none => .error (divstack 0)

/-- RECON (R147). -/
def execRecon (w : FmtC) (s : State) : Host.Outcome State Fault Refusal :=
  issue (.recon w) s (fun c =>
    match openEntry c (newEntry .recon (some (targetC c w)) 0#64 c.f.mask) with
    | .ok c' => .ok (jumpTo c' (nextPc c))
    | .error t => .error t)

/-- Word i after the SWITCH word (04 R105). -/
def switchWord (c : Ctx) (i : Nat) : Word :=
  match fetchWord c.s c.g (c.f.pc + BitVec.ofNat 64 (4 * i)) with
  | .ok x => x
  | .error _ => 0#32

/-- The first fetch fault of a SWITCH's slot words (R148). -/
def switchFault (c : Ctx) (w : FmtS) : Option Trap :=
  (List.range (w.cnt.toNat + 2)).findSome? (fun i => errOf (fetchWord c.s c.g (c.f.pc + BitVec.ofNat 64 (4 * (i + 3)))))

/-- Whether a block holds the fetch of one of them (12 R298). -/
def switchStalls (c : Ctx) (w : FmtS) : Bool :=
  (List.range (w.cnt.toNat + 2)).any (fun i => fetchStalls c.s c.g (c.f.pc + BitVec.ofNat 64 (4 * (i + 3))))

/-- Case value i of a SWITCH. -/
def caseByte (c : Ctx) (i : Nat) : BitVec 8 := byteOfNat (switchWord c (1 + i / 4)).toNat (i % 4)

/-- Where a SWITCH sends a selector: the slot of its first match, else the last slot (R148). -/
def switchTarget (c : Ctx) (w : FmtS) (x : Word) : DWord :=
  let n := w.cnt.toNat
  let i := ((List.range (n + 1)).find? (fun i => (caseByte c i).signExtend 32 == x)).getD (n + 1)
  c.f.pc + ((switchWord c (3 + i)).signExtend 64 <<< 2)

/-- SWITCH: opens its reconvergence unless it is the remainder of its own entry, then sends each lane to its slot (R148). DESIGN CHOICE (log 77): a fetch fault on one of its case or slot
words comes before DIVSTACK 0. -/
def execSwitch (w : FmtS) (s : State) : Host.Outcome State Fault Refusal :=
  issue (.switch w) s (fun c =>
    if switchStalls c w then .ok c.hold else
    match switchFault c w with
    | some t => .error t
    | none =>
    let again := match c.g.stack with
      | e :: _ => e.kind == StackKind.switch && e.origin == c.f.pc && decide (c.f.mask = (e.rmask &&& ~~~e.arr))
      | [] => false
    let opened : Except Trap Ctx := if again then .ok c
      else openEntry c (newEntry .switch (some (c.f.pc + (w.recon.setWidth 64 <<< 2))) c.f.pc c.f.mask)
    match opened with
    | .ok c' => spread c' (fun l => switchTarget c w (op32 c w.a l))
    | .error t => .error t)

/-- JOIN: the fragment's lanes arrive at the top entry (R149). -/
def execJoin (w : FmtX) (s : State) : Host.Outcome State Fault Refusal :=
  issue (.join w) s (fun c =>
    match c.g.stack with
    | [] => .error (divstack 1)
    | e :: rest =>
      if e.rpc ≠ some c.f.pc then .error (divstack 2)
      else
        let g := { c.g with
          frags := otherFrags c.g c.fi
          stack := { e with arr := e.arr ||| c.f.mask, aboard := e.aboard.union c.f.board } :: rest }
        let h := settleGroup g c.cycle
        if lostSpill c.g h then .error (divstack 3) else .ok (putGroup c h))

/-- LAND: no state changes (R150). -/
def execLand (w : FmtL) (s : State) : Host.Outcome State Fault Refusal := plain (.land w) s id

/-- EXIT: the active lanes leave the group (R151). -/
def execExit (w : FmtX) (s : State) : Host.Outcome State Fault Refusal :=
  issue (.exit w) s (fun c =>
    let g := { c.g with frags := otherFrags c.g c.fi }
    let h := removeLanes g c.f.mask c.cycle
    if h.status = .draining then .ok (breakSets (putGroup c h) h.team h.num none)
    else if lostSpill c.g h then .error (divstack 3)
    else .ok (putGroup c h))

/-- NOP: no state changes (R152). -/
def execNop (w : FmtX) (s : State) : Host.Outcome State Fault Refusal := plain (.nop w) s id

/-- YIELD: the fragment's age becomes the cycle after the YIELD (R152). -/
def execYield (w : FmtX) (s : State) : Host.Outcome State Fault Refusal :=
  issue (.yield w) s (fun c =>
    .ok ({ c with
      g := { c.g with lastFrag := c.fi }
      f := { c.f with pc := nextPc c, chain := false, bonded := false, run := 0, age := c.cycle + 1 } }.commit))

/-- WINB: moves the window (R154). -/
def execWinb (w : FmtL) (s : State) : Host.Outcome State Fault Refusal :=
  issue (.winb w) s (fun c =>
    let base := 16 * w.imm.toNat
    if c.g.vregs ≤ base then .error { cause := causeRegbud, val := BitVec.ofNat 64 base }
    else .ok ({ c with g := { c.g with wbase := BitVec.ofNat 64 base } }.finish))

/-- The TRAPI trap of TRAP and BKPT: fn in [7:0], a of the leader in [63:32] (R155). -/
def trapi (c : Ctx) (fn : BitVec 8) (a : BitVec 7) : Trap :=
  { cause := causeTrapi, val := op32 c a (leader c.f.mask) ++ fn.setWidth 32 }

/-- TRAP (R155). -/
def execTrap (w : FmtX) (k : BitVec 7) (s : State) : Host.Outcome State Fault Refusal :=
  issue (.trap w k) s (fun c => .error (trapi c (0#1 ++ k) w.a))
/-- BKPT (R155). -/
def execBkpt (w : FmtX) (k : BitVec 7) (s : State) : Host.Outcome State Fault Refusal :=
  issue (.bkpt w k) s (fun c => .error (trapi c (1#1 ++ k) w.a))

/-- The packed depth (R156). -/
def packedDepth (resident spilled : Nat) : DWord := BitVec.ofNat 64 (resident + 256 * spilled)

/-- DSTK.DEPTH (R156). -/
def execDstkDepth (w : FmtX) (s : State) : Host.Outcome State Fault Refusal :=
  plain (.dstkDepth w) s (fun c => putUni c w.n w.d 1 (packedDepth c.g.stack.length c.g.spilled))

end Sys2Proof.Machine
end

