-- ==== Sys2Proof/Machine/Fp.lean ====
section
/-! DEFINITION. Machine/Fp.lean: floating-point values as exact dyadic numbers, rounding in every direction, and the arithmetic of 08 R180-R198
on them. A finite nonzero value is (-1)^neg * m * 2^e with m > 0. -/

namespace Sys2Proof.Machine

/-- A floating-point value: a NaN, signalling or quiet; an infinity; a zero; a finite nonzero number (08 Table 8.2). -/
inductive Fp where
  | nan (sig : Bool)
  | inf (neg : Bool)
  | zero (neg : Bool)
  | fin (neg : Bool) (m : Nat) (e : Int)
  deriving DecidableEq, Repr

/-- A binary format: exponent width, fraction width, bias (08 Table 8.1). -/
structure Fmt where
  ew : Nat
  fw : Nat
  bias : Nat
  deriving DecidableEq, Repr

def fp32 : Fmt := { ew := 8, fw := 23, bias := 127 }
def fp16 : Fmt := { ew := 5, fw := 10, bias := 15 }
def bf16 : Fmt := { ew := 8, fw := 7, bias := 127 }

/-- The rounding directions, coded as FRM and CVT code them (08 R182, Table 8.3). -/
inductive Dir where
  | rne
  | rz
  | rdn
  | rup
  deriving DecidableEq, Repr

def dirOf (b : BitVec 2) : Dir :=
  if b = 0#2 then .rne else if b = 1#2 then .rz else if b = 2#2 then .rdn else .rup

/-- The value of a code of a format (08 Table 8.2). -/
def unpack (k : Fmt) (bits : Nat) : Fp :=
  let f := bits % 2 ^ k.fw
  let e := bits / 2 ^ k.fw % 2 ^ k.ew
  let neg := bits / 2 ^ (k.fw + k.ew) % 2 == 1
  if e = 2 ^ k.ew - 1 then (if f = 0 then .inf neg else .nan (decide (f < 2 ^ (k.fw - 1))))
  else if e = 0 then (if f = 0 then .zero neg else .fin neg f (1 - (k.bias : Int) - k.fw))
  else .fin neg (2 ^ k.fw + f) ((e : Int) - k.bias - k.fw)

/-- The sign bit of a format in place. -/
def signBit (k : Fmt) (neg : Bool) : Nat := if neg then 2 ^ (k.fw + k.ew) else 0

/-- The canonical NaN, an infinity and the largest finite value of a format (08 Table 8.1). -/
def canonNan (k : Fmt) : Nat := (2 ^ k.ew - 1) * 2 ^ k.fw + 2 ^ (k.fw - 1)
def infBits (k : Fmt) (neg : Bool) : Nat := signBit k neg + (2 ^ k.ew - 1) * 2 ^ k.fw
def maxBits (k : Fmt) (neg : Bool) : Nat := signBit k neg + (2 ^ k.ew - 1) * 2 ^ k.fw - 1

/-- Whether a magnitude q with the discarded part r of d (0 ≤ r < d) is rounded away from zero. -/
def roundsUp (dir : Dir) (neg : Bool) (q r d : Nat) : Bool :=
  match dir with
  | .rne => decide (d < 2 * r) || (decide (2 * r = d) && q % 2 == 1)
  | .rz => false
  | .rdn => neg && r != 0
  | .rup => !neg && r != 0

/-- A magnitude m * 2^e rounded to a multiple of 2^x by a rule: the rounded multiple, and whether the rounding is inexact. -/
def roundAt (up : Nat → Nat → Nat → Bool) (m : Nat) (e x : Int) : Nat × Bool :=
  if x ≤ e then (m <<< (e - x).toNat, false)
  else
    let k := min (x - e).toNat (Nat.log2 m + 3)
    let q := m >>> k
    let r := m % 2 ^ k
    (if up q r (2 ^ k) then q + 1 else q, r != 0)

/-- The exponent E with 2^E ≤ m * 2^e < 2^(E + 1). -/
def leadExp (m : Nat) (e : Int) : Int := e + Nat.log2 m

/-- A finite nonzero value rounded to a format: subnormals are delivered, overflow follows the direction (08 R182-R184, Table 8.4). -/
def roundFin (k : Fmt) (dir : Dir) (neg : Bool) (m : Nat) (e : Int) : Nat × FFlags :=
  let E := leadExp m e
  let emin : Int := 1 - k.bias
  let tooBig := match dir with
    | .rne => infBits k neg
    | .rz => maxBits k neg
    | .rdn => if neg then infBits k neg else maxBits k neg
    | .rup => if neg then maxBits k neg else infBits k neg
  if (k.bias : Int) + 1 < E then (tooBig, { of := true, nx := true })
  else
    let x := max (E - k.fw) (emin - k.fw)
    let r := roundAt (roundsUp dir neg) m e x
    let bits := (x - (emin - k.fw)).toNat * 2 ^ k.fw + r.1
    let t := roundAt (roundsUp dir neg) m e (E - k.fw)
    let tiny := decide (E < emin) && !(decide (E = emin - 1) && decide (t.1 = 2 ^ (k.fw + 1)))
    if (2 ^ k.ew - 1) * 2 ^ k.fw ≤ bits then (tooBig, { of := true, nx := true })
    else (signBit k neg + bits, { uf := tiny && r.2, nx := r.2 })

/-- Any value delivered in a format: a NaN is canonical (08 R185). -/
def deliver (k : Fmt) (dir : Dir) (x : Fp) : Nat × FFlags :=
  match x with
  | .nan _ => (canonNan k, {})
  | .inf neg => (infBits k neg, {})
  | .zero neg => (signBit k neg, {})
  | .fin neg m e => roundFin k dir neg m e

/-- Whether a value is a NaN, and a signalling one. -/
def isNan : Fp → Bool
  | .nan _ => true
  | _ => false
def isSig : Fp → Bool
  | .nan b => b
  | _ => false

/-- The signed multiple of 2^x that a finite value with exponent at least x is. -/
def scaled (x : Fp) (k : Int) : Int :=
  match x with
  | .fin neg m e => let v : Int := (m <<< (e - k).toNat : Nat); if neg then -v else v
  | _ => 0

/-- A signed multiple of 2^k as a value; exact zero takes the sign a caller gives. -/
def ofScaled (v : Int) (k : Int) (zeroNeg : Bool) : Fp :=
  if v = 0 then .zero zeroNeg else .fin (decide (v < 0)) v.natAbs k

/-- The exponent of a value, zero for the values that have none. -/
def expOf : Fp → Int
  | .fin _ _ e => e
  | _ => 0

def negate : Fp → Fp
  | .nan s => .nan s
  | .inf b => .inf (!b)
  | .zero b => .zero (!b)
  | .fin b m e => .fin (!b) m e

/-- The exact sum and whether it is invalid; dir decides the sign of an exact zero (08 R183, R185). -/
def addV (dir : Dir) (a b : Fp) : Fp × Bool :=
  match a, b with
  | .nan s, y => (.nan false, s || isSig y)
  | x, .nan s => (.nan false, s || isSig x)
  | .inf p, .inf q => if p = q then (.inf p, false) else (.nan false, true)
  | .inf p, _ => (.inf p, false)
  | _, .inf q => (.inf q, false)
  | .zero p, .zero q => (if p = q then .zero p else .zero (dir == .rdn), false)
  | .zero _, y => (y, false)
  | x, .zero _ => (x, false)
  | .fin p m e, .fin q n f =>
    let k := min e f
    (ofScaled (scaled (.fin p m e) k + scaled (.fin q n f) k) k (dir == .rdn), false)

/-- The exact product and whether it is invalid (08 R183, R185). -/
def mulV (a b : Fp) : Fp × Bool :=
  match a, b with
  | .nan s, y => (.nan false, s || isSig y)
  | x, .nan s => (.nan false, s || isSig x)
  | .inf _, .zero _ => (.nan false, true)
  | .zero _, .inf _ => (.nan false, true)
  | .inf p, .inf q => (.inf (p != q), false)
  | .inf p, .fin q _ _ => (.inf (p != q), false)
  | .fin p _ _, .inf q => (.inf (p != q), false)
  | .zero p, .zero q => (.zero (p != q), false)
  | .zero p, .fin q _ _ => (.zero (p != q), false)
  | .fin p _ _, .zero q => (.zero (p != q), false)
  | .fin p m e, .fin q n f => (.fin (p != q) (m * n) (e + f), false)

/-- A value delivered with the invalid flag of the computation that made it. -/
def deliverNv (k : Fmt) (dir : Dir) (x : Fp × Bool) : Nat × FFlags :=
  let r := deliver k dir x.1
  (r.1, { r.2 with nv := x.2 })

/-- Sum, difference, product and fused product-sum in a format, rounded once (08 R189, R195). -/
def fAdd (k : Fmt) (dir : Dir) (a b : Nat) : Nat × FFlags := deliverNv k dir (addV dir (unpack k a) (unpack k b))
def fSub (k : Fmt) (dir : Dir) (a b : Nat) : Nat × FFlags := deliverNv k dir (addV dir (unpack k a) (negate (unpack k b)))
def fMul (k : Fmt) (dir : Dir) (a b : Nat) : Nat × FFlags := deliverNv k dir (mulV (unpack k a) (unpack k b))
def fFma (k : Fmt) (dir : Dir) (a b d : Nat) : Nat × FFlags :=
  let p := mulV (unpack k a) (unpack k b)
  let r := addV dir p.1 (unpack k d)
  deliverNv k dir (r.1, p.2 || r.2)

/-- Two 32-bit words through a function on codes. -/
def toW (r : Nat × FFlags) : Word × FFlags := (BitVec.ofNat 32 r.1, r.2)

/-! ### Order -/

/-- A code of FP32 as an integer in the order of minimumNumber: -0 below +0 (08 R190). -/
def fkey (a : Word) : Int := if a.msb then -(a.toNat - 2 ^ 31 : Int) - 1 else a.toNat

/-- FMIN and FMAX (08 R190). -/
def fMinMax (isMax : Bool) (a b : Word) : Word × FFlags :=
  let x := unpack fp32 a.toNat
  let y := unpack fp32 b.toNat
  let fl : FFlags := { nv := isSig x || isSig y }
  if isNan x && isNan y then (BitVec.ofNat 32 (canonNan fp32), fl)
  else if isNan x then (b, fl)
  else if isNan y then (a, fl)
  else (if isMax then (if fkey a ≤ fkey b then b else a) else (if fkey a ≤ fkey b then a else b), fl)

/-- The order of two values that are not NaN: -1, 0 or 1; zeros are equal (08 R192). -/
def fcompare (a b : Word) : Int :=
  let za := a.setWidth 31 = 0#31
  let zb := b.setWidth 31 = 0#31
  let x : Int := if za then 0 else fkey a
  let y : Int := if zb then 0 else fkey b
  if x < y then -1 else if x = y then 0 else 1

/-- FCMP conditions (08 Table 8.6). -/
def fCond (cond : BitVec 4) (a b : Word) : Bool × FFlags :=
  let x := unpack fp32 a.toNat
  let y := unpack fp32 b.toNat
  let un := isNan x || isNan y
  let r := fcompare a b
  let sigCond := decide (2 ≤ cond.toNat) && decide (cond.toNat ≤ 5)
  let v :=
    if cond = 0#4 then !un && r == 0
    else if cond = 1#4 then un || r != 0
    else if cond = 2#4 then !un && decide (r < 0)
    else if cond = 3#4 then !un && decide (r ≤ 0)
    else if cond = 4#4 then !un && decide (0 < r)
    else if cond = 5#4 then !un && decide (0 ≤ r)
    else if cond = 6#4 then un
    else if cond = 7#4 then !un
    else if cond = 8#4 then un || decide (r < 0)
    else if cond = 9#4 then un || decide (r ≤ 0)
    else if cond = 10#4 then un || decide (0 < r)
    else un || decide (0 ≤ r)
  (v, { nv := isSig x || isSig y || (sigCond && un) })

/-! ### Conversion (08 R196-R198) -/

/-- An integer type of CVT: whether signed, and its width. -/
def intRange (t : BitVec 3) : Bool × Nat :=
  if t = 3#3 then (true, 32) else if t = 4#3 then (false, 32) else if t = 5#3 then (true, 64) else (false, 64)

/-- A value rounded to an integer and delivered or saturated (08 Table 8.10). -/
def intConvert (t : BitVec 3) (dir : Dir) (x : Fp) : BitVec 64 × FFlags :=
  let sg := (intRange t).1
  let w := (intRange t).2
  let hi : Int := if sg then 2 ^ (w - 1) - 1 else 2 ^ w - 1
  let lo : Int := if sg then -(2 ^ (w - 1)) else 0
  let put := fun (v : Int) => ((BitVec.ofInt 64 v).setWidth w).setWidth 64
  match x with
  | .nan _ => (0#64, { nv := true })
  | .inf neg => (put (if neg then lo else hi), { nv := true })
  | .zero _ => (0#64, {})
  | .fin neg m e =>
    if 70 < leadExp m e then (put (if neg then lo else hi), { nv := true })
    else
      let r := roundAt (roundsUp dir neg) m e 0
      let v : Int := if neg then -(r.1 : Int) else r.1
      if hi < v then (put hi, { nv := true })
      else if v < lo then (put lo, { nv := true })
      else (put v, { nx := r.2 })

/-- The value of an integer operand. -/
def intValue (t : BitVec 3) (x : BitVec 64) : Fp :=
  let v : Int := if t = 3#3 then (x.setWidth 32).toInt else if t = 4#3 then ((x.setWidth 32).toNat : Int) else if t = 5#3 then x.toInt else (x.toNat : Int)
  ofScaled v 0 false

/-- The floating format of a CVT type (05 Table 5.5). -/
def cvtFmt (t : BitVec 3) : Fmt := if t = 0#3 then fp32 else if t = 1#3 then fp16 else bf16

/-- CVT (08 R196-R198). -/
def cvtOp (dst src : BitVec 3) (dir : Dir) (x : BitVec 64) : BitVec 64 × FFlags :=
  let k := cvtFmt src
  let v := if src.toNat < 3 then unpack k (x.toNat % 2 ^ (k.ew + k.fw + 1)) else intValue src x
  if dst.toNat < 3 then
    let r := deliver (cvtFmt dst) dir v
    (BitVec.ofNat 64 r.1, { r.2 with nv := isSig v })
  else intConvert dst dir v

/-! ### One-operand functions (08 R193, R194) -/

/-- The integer square root: bits of the root from bit n down. -/
def isqrt (m : Nat) : Nat → Nat → Nat
  | 0, r => if (r + 1) * (r + 1) ≤ m then r + 1 else r
  | n + 1, r => isqrt m n (if (r + 2 ^ (n + 1)) * (r + 2 ^ (n + 1)) ≤ m then r + 2 ^ (n + 1) else r)

/-- The square root of m * 2^e to at least 60 bits, with a sticky last bit, as a dyadic number; and whether it is exact. -/
def sqrtDyadic (m : Nat) (e : Int) : Nat × Int × Bool :=
  let m1 := if e % 2 = 0 then m else 2 * m
  let e1 := if e % 2 = 0 then e else e - 1
  let big := m1 <<< 120
  let r := isqrt big (Nat.log2 big / 2 + 1) 0
  (2 * r + (if r * r = big then 0 else 1), e1 / 2 - 61, r * r == big)

/-- The reciprocal of m * 2^e to 100 bits, with a sticky last bit; and whether it is exact. -/
def rcpDyadic (m : Nat) (e : Int) : Nat × Int × Bool :=
  let k := 100 + Nat.log2 m
  let q := 2 ^ k / m
  (2 * q + (if 2 ^ k % m = 0 then 0 else 1), -e - k - 1, 2 ^ k % m == 0)

/-- The reciprocal square root of m * 2^e, likewise. -/
def rsqDyadic (m : Nat) (e : Int) : Nat × Int × Bool :=
  let m1 := if e % 2 = 0 then m else 2 * m
  let e1 := if e % 2 = 0 then e else e - 1
  let k := 60 + Nat.log2 m1
  let t := isqrt (2 ^ (2 * k) / m1) (k + 1) 0
  (2 * t + (if t * t * m1 = 2 ^ (2 * k) then 0 else 1), -(e1 / 2) - k - 1, t * t * m1 == 2 ^ (2 * k))

/-- Whether an FP32 value lies within k ulp of the number (-1)^neg * m * 2^e, the number being exact, or known to more bits than any FP32 value that it may be compared with can lie near it (R193; log 5). -/
def withinUlp (k : Nat) (neg : Bool) (m : Nat) (e : Int) (x : Fp) : Bool :=
  let u : Int := max (leadExp m e) (-126) - 23
  let lo := min (min e u) (min (expOf x) (-150))
  let y := scaled (.fin neg m e) lo
  let bound := k <<< (u - lo).toNat
  match x with
  | .nan _ => false
  | .inf _ => false
  | v => decide ((scaled v lo - y).natAbs ≤ bound)

/-- What an approximate function delivers for an exact result near (-1)^neg * m * 2^e: the free value of Config when it lies within the bound,
else the nearest FP32 value. A result whose rounding overflows is delivered as R183 states. DESIGN CHOICE (log 55): UF is judged on the exact result, not on the value
delivered, where only one of them is tiny. -/
def approxV (fn : BitVec 8) (k : Nat) (a : Word) (neg : Bool) (m : Nat) (e : Int) (exact : Bool) : Word × FFlags :=
  let near := roundFin fp32 .rne neg m e
  if near.2.of then toW near
  else
    let cand := Config.approx fn a
    let r := if withinUlp k neg m e (unpack fp32 cand.toNat) then cand else BitVec.ofNat 32 near.1
    let same := exact && (match unpack fp32 r.toNat with
      | .fin n2 m2 e2 => n2 == neg && scaled (.fin false m2 e2) (min e e2) == scaled (.fin false m e) (min e e2)
      | _ => false)
    let tiny := decide (leadExp m e < -126) && !(decide (leadExp m e = -127) && decide ((roundAt (roundsUp .rne neg) m e (-150)).1 = 2 ^ 24))
    (r, { nx := !same, uf := tiny && !same })

/-- ln 2, 1 / ln 2 and pi, times 2^128. -/
def ln2Fix : Nat := 235865763225513294137944142764154484399
def log2eFix : Nat := 490923683258796565746369346286093237521
def piFix : Nat := 1069028584064966747859680373161870783301

/-- Sum of y^i / i! from i on, terms in units of 2^-128. -/
def expSum (y : Nat) : Nat → Nat → Nat → Nat → Nat
  | 0, _, _, acc => acc
  | n + 1, i, t, acc => expSum y n (i + 1) (t * y / 2 ^ 128 / i) (acc + t)

/-- 2^f for 0 ≤ f < 1 in units of 2^-128. -/
def exp2Fix (f : Nat) : Nat := expSum (f * ln2Fix / 2 ^ 128) 48 1 (2 ^ 128) 0

/-- Sum of z^(2i+1) / (2i+1) in units of 2^-128, zz = z^2. -/
def atanhSum (zz : Nat) : Nat → Nat → Nat → Nat → Nat
  | 0, _, _, acc => acc
  | n + 1, i, t, acc => atanhSum zz n (i + 2) (t * zz / 2 ^ 128) (acc + t / i)

/-- log2 of x with 1 ≤ x < 2, x in units of 2^-64, the result in units of 2^-128. -/
def log2Fix (x : Nat) : Nat :=
  let z := (x - 2 ^ 64) * 2 ^ 128 / (x + 2 ^ 64)
  2 * atanhSum (z * z / 2 ^ 128) 48 1 z 0 * log2eFix / 2 ^ 128

/-- Alternating sum 1 - y/(i(i+1)) + ... in units of 2^-128: the cosine from i = 1, the sine divided by its argument from i = 2. -/
def altSum (yy : Nat) : Nat → Nat → Int → Int → Int
  | 0, _, _, acc => acc
  | n + 1, i, t, acc => altSum yy n (i + 2) (-(t * yy / 2 ^ 128 / (i * (i + 1) : Nat))) (acc + t)

/-- (pi r)^2 in units of 2^-128 for r in units of 2^-160. -/
def piSq (r : Nat) : Nat := let y := r * piFix / 2 ^ 160; y * y / 2 ^ 128

/-- EXP2 (08 Table 8.7, Table 8.8). Of a power nearer to 1 than FP32 values can lie to it only the side of 1 matters. -/
def fExp2 (a : Word) : Word × FFlags :=
  match unpack fp32 a.toNat with
  | .nan s => (BitVec.ofNat 32 (canonNan fp32), { nv := s })
  | .zero _ => (0x3F800000#32, {})
  | .inf neg => (if neg then 0#32 else a, {})
  | .fin neg m e =>
    let v := scaled (.fin neg m e) (min e (-160))
    let one : Int := ((1 <<< (-(min e (-160))).toNat : Nat) : Int)
    if 128 * one ≤ v then (0x7F800000#32, { of := true, nx := true })
    else if v ≤ -150 * one then (0#32, { uf := true, nx := true })
    else
      let n := Int.fdiv v one
      let f := (v - n * one).toNat * 2 ^ 128 / one.toNat
      if v % one = 0 then toW (roundFin fp32 .rne false 1 n)
      else if leadExp m e < -60 then approxV 0x05#8 2 a false (if neg then 2 ^ 128 - 2 ^ 28 else 2 ^ 128 + 2 ^ 28) (-128) false
      else approxV 0x05#8 2 a false (exp2Fix f) (n - 128) false

/-- LOG2. -/
def fLog2 (a : Word) : Word × FFlags :=
  match unpack fp32 a.toNat with
  | .nan s => (BitVec.ofNat 32 (canonNan fp32), { nv := s })
  | .zero _ => (0xFF800000#32, { dz := true })
  | .inf neg => if neg then (BitVec.ofNat 32 (canonNan fp32), { nv := true }) else (a, {})
  | .fin neg m e =>
    if neg then (BitVec.ofNat 32 (canonNan fp32), { nv := true })
    else
      let n := leadExp m e
      if m = 2 ^ Nat.log2 m then toW (deliver fp32 .rne (ofScaled n 0 false))
      else
        let r : Int := n * 2 ^ 128 + log2Fix (m * 2 ^ 64 / 2 ^ Nat.log2 m)
        approxV 0x06#8 2 a (decide (r < 0)) r.natAbs (-128) false

/-- sin(pi t) or cos(pi t) for 0 < t ≤ 1/4 given as tm * 2^te (te ≥ -160): a dyadic number. A cosine nearer to 1 than 2^-100 is given as 1 - 2^-100, on its side of 1. -/
def sinSmall (tm : Nat) (te : Int) : Nat × Int :=
  let r := tm <<< (te + 160).toNat
  let g := (altSum (piSq r) 24 2 (2 ^ 128) 0).toNat
  (tm * (g * piFix), te - 256)
def cosSmall (tm : Nat) (te : Int) : Nat × Int :=
  (min (altSum (piSq (tm <<< (te + 160).toNat)) 24 1 (2 ^ 128) 0).toNat (2 ^ 128 - 2 ^ 28), -128)

/-- sin(pi x) for x = j/2 + t in quarters: x in units of 2^te; half is 2^te units of one half. Returns sign and magnitude. -/
def sinTurn (x : Nat) (te : Int) : Bool × Nat × Int :=
  let one := 1 <<< (-te).toNat
  let y := x % (2 * one)
  let neg := decide (one ≤ y)
  let z := y % one
  let q := if 2 * z ≤ one then z else one - z
  let r := if 4 * q ≤ one then sinSmall q te else cosSmall ((one - 2 * q)) (te - 1)
  (neg, r.1, r.2)

/-- SINPI and COSPI. -/
def fSinpi (cos : Bool) (a : Word) : Word × FFlags :=
  let fn : BitVec 8 := if cos then 0x08#8 else 0x07#8
  match unpack fp32 a.toNat with
  | .nan s => (BitVec.ofNat 32 (canonNan fp32), { nv := s })
  | .inf _ => (BitVec.ofNat 32 (canonNan fp32), { nv := true })
  | .zero neg => (if cos then 0x3F800000#32 else BitVec.ofNat 32 (signBit fp32 neg), {})
  | .fin neg m e =>
    if 24 ≤ leadExp m e then (if cos then 0x3F800000#32 else BitVec.ofNat 32 (signBit fp32 neg), {})
    else
      let te := min e (-2)
      let x := m <<< (e - te).toNat
      let one := 1 <<< (-te).toNat
      let isInt := x % one == 0
      let isHalf := 2 * x % one == 0 && !isInt
      let odd := x / one % 2 == 1
      if cos then
        if isHalf then (0#32, {})
        else if isInt then (if odd then 0xBF800000#32 else 0x3F800000#32, {})
        else
          let r := sinTurn (2 * x + one) (te - 1)
          approxV fn 2 a r.1 r.2.1 r.2.2 false
      else
        if isInt then (BitVec.ofNat 32 (signBit fp32 neg), {})
        else if isHalf then (if odd != neg then 0xBF800000#32 else 0x3F800000#32, {})
        else
          let r := sinTurn x te
          approxV fn 2 a (r.1 != neg) r.2.1 r.2.2 false

/-- RCP, RSQ and SQRT. -/
def fRcp (a : Word) : Word × FFlags :=
  match unpack fp32 a.toNat with
  | .nan s => (BitVec.ofNat 32 (canonNan fp32), { nv := s })
  | .zero neg => (BitVec.ofNat 32 (infBits fp32 neg), { dz := true })
  | .inf neg => (BitVec.ofNat 32 (signBit fp32 neg), {})
  | .fin neg m e =>
    let r := rcpDyadic m e
    if m = 2 ^ Nat.log2 m then toW (roundFin fp32 .rne neg 1 (-leadExp m e)) else approxV 0x02#8 1 a neg r.1 r.2.1 r.2.2
def fRsq (a : Word) : Word × FFlags :=
  match unpack fp32 a.toNat with
  | .nan s => (BitVec.ofNat 32 (canonNan fp32), { nv := s })
  | .zero neg => (BitVec.ofNat 32 (infBits fp32 neg), { dz := true })
  | .inf neg => if neg then (BitVec.ofNat 32 (canonNan fp32), { nv := true }) else (0#32, {})
  | .fin neg m e =>
    if neg then (BitVec.ofNat 32 (canonNan fp32), { nv := true })
    else let r := rsqDyadic m e; approxV 0x03#8 1 a false r.1 r.2.1 r.2.2
def fSqrt (a : Word) : Word × FFlags :=
  match unpack fp32 a.toNat with
  | .nan s => (BitVec.ofNat 32 (canonNan fp32), { nv := s })
  | .zero _ => (a, {})
  | .inf neg => if neg then (BitVec.ofNat 32 (canonNan fp32), { nv := true }) else (a, {})
  | .fin neg m e =>
    if neg then (BitVec.ofNat 32 (canonNan fp32), { nv := true })
    else let r := sqrtDyadic m e; toW (roundFin fp32 .rne false r.1 r.2.1)

/-- NEG and ABS: exact, no flag, a NaN gives the canonical NaN (08 Table 8.7). -/
def fNeg (a : Word) : Word × FFlags := if isNan (unpack fp32 a.toNat) then (BitVec.ofNat 32 (canonNan fp32), {}) else (a ^^^ 0x80000000#32, {})
def fAbs (a : Word) : Word × FFlags := if isNan (unpack fp32 a.toNat) then (BitVec.ofNat 32 (canonNan fp32), {}) else (a &&& 0x7FFFFFFF#32, {})

/-- FLOOR, CEIL, TRUNC and RNDNE: rounding to an integer in a direction; the sign of a zero result is the input's. -/
def fInt (dir : Dir) (a : Word) : Word × FFlags :=
  match unpack fp32 a.toNat with
  | .nan s => (BitVec.ofNat 32 (canonNan fp32), { nv := s })
  | .fin neg m e =>
    if 0 ≤ e then (a, {})
    else
      let r := roundAt (roundsUp dir neg) m e 0
      if r.1 = 0 then (BitVec.ofNat 32 (signBit fp32 neg), {}) else toW (roundFin fp32 .rne neg r.1 0)
  | _ => (a, {})

/-- FRACT: x minus its floor, rounded, then capped below 1.0. -/
def fFract (a : Word) : Word × FFlags :=
  match unpack fp32 a.toNat with
  | .nan s => (BitVec.ofNat 32 (canonNan fp32), { nv := s })
  | .inf _ => (BitVec.ofNat 32 (canonNan fp32), { nv := true })
  | .zero _ => (0#32, {})
  | .fin neg m e =>
    if 0 ≤ e then (0#32, {})
    else
      let v := scaled (.fin neg m e) e
      let one : Int := ((1 <<< (-e).toNat : Nat) : Int)
      let d := v % one
      if d = 0 then (0#32, {})
      else
        let r := roundFin fp32 .rne false d.natAbs e
        if 0x3F7FFFFF < r.1 then (0x3F7FFFFF#32, { nx := true }) else toW r

/-- FSCALE: A times 2^n, the power applied exactly (08 R191). -/
def fScale (a n : Word) : Word × FFlags :=
  match unpack fp32 a.toNat with
  | .nan s => (BitVec.ofNat 32 (canonNan fp32), { nv := s })
  | .fin neg m e => toW (roundFin fp32 .rne neg m (e + n.toInt))
  | _ => (a, {})

end Sys2Proof.Machine
end

