-- ==== Sys2Proof/Machine/Narrow.lean ====
section
/-! DEFINITION. Machine/Narrow.lean: E4M3, E5M2, E2M1, E8M0 and LC2, and the words CVTN, QSCALE, CBLD and CBDEC (09 R199-R218). -/

namespace Sys2Proof.Machine

/-- A narrow element format (09 Table 9.1): fraction width, bias, the code of the largest finite value, the width in bits, and its codes for NaN and
for infinity (none where the format has none). -/
structure NFmt where
  fw : Nat
  bias : Nat
  top : Nat
  bits : Nat
  nan : Nat
  inf : Option Nat
  deriving DecidableEq, Repr

def e4m3 : NFmt := { fw := 3, bias := 7, top := 0x7E, bits := 8, nan := 0x7F, inf := none }
def e5m2 : NFmt := { fw := 2, bias := 15, top := 0x7B, bits := 8, nan := 0x7E, inf := some 0x7C }
def e2m1 : NFmt := { fw := 1, bias := 1, top := 0x7, bits := 4, nan := 0x0, inf := none }

/-- The value of a narrow code; no narrow NaN is signalling (R199, R201). -/
def nunpack (k : NFmt) (code : Nat) : Fp :=
  let neg := code / 2 ^ (k.bits - 1) % 2 == 1
  let mag := code % 2 ^ (k.bits - 1)
  if some mag = k.inf then .inf neg
  else if k.top < mag then .nan false
  else
    let e := mag / 2 ^ k.fw
    let f := mag % 2 ^ k.fw
    if mag = 0 then .zero neg
    else if e = 0 then .fin neg f (1 - (k.bias : Int) - k.fw)
    else .fin neg (2 ^ k.fw + f) ((e : Int) - k.bias - k.fw)

/-- The rounding rule of Narrow: nearest even, or stochastic with 12 random bits (R213). -/
def narrowUp (sr : Bool) (rnd : Nat) (q r d : Nat) : Bool :=
  if sr then r != 0 && decide (4096 ≤ 4096 * r / d + rnd) else roundsUp .rne false q r d

/-- A magnitude rounded to a multiple of 2^x, without the shortcut for far shifts that roundAt takes. -/
def roundFar (up : Nat → Nat → Nat → Bool) (m : Nat) (e x : Int) : Nat × Bool :=
  if x ≤ e then (m <<< (e - x).toNat, false)
  else
    let d := 2 ^ (x - e).toNat
    (if up (m / d) (m % d) d then m / d + 1 else m / d, m % d != 0)

/-- Narrow: a value to a narrow code, with its flags (R213, R214, Table 9.7). -/
def narrow (k : NFmt) (sr : Bool) (rnd : Nat) (sat : Bool) (v : Fp) : Nat × FFlags :=
  let sgn := fun (neg : Bool) => if neg then 2 ^ (k.bits - 1) else 0
  let clip := sat || k.bits == 4
  let tooBig := fun (neg : Bool) =>
    (if clip then sgn neg + k.top else match k.inf with
      | some i => sgn neg + i
      | none => k.nan)
  match v with
  | .nan _ => (k.nan, { nv := true })
  | .inf neg => (tooBig neg, { nv := clip || k.inf.isNone })
  | .zero neg => (sgn neg, {})
  | .fin neg m e =>
    let E := leadExp m e
    let emin : Int := 1 - k.bias
    if 20 < E then (tooBig neg, { of := true, nx := true })
    else
      let x := max E emin - k.fw
      let r := roundFar (narrowUp sr rnd) m e x
      let code := (x - (emin - k.fw)).toNat * 2 ^ k.fw + r.1
      if k.top < code then (tooBig neg, { of := true, nx := true })
      else
        let t := roundFar (narrowUp sr rnd) m e (E - k.fw)
        let tiny := decide (E < emin) && !(decide (E = emin - 1) && decide (t.1 = 2 ^ (k.fw + 1)))
        (sgn neg + code, { uf := tiny && r.2, nx := r.2 })

/-- Replaces the bits of d from position pos on by the n low bits of x. -/
def insertBits (d : Word) (pos n x : Nat) : Word :=
  let m : Word := BitVec.ofNat 32 ((2 ^ n - 1) * 2 ^ pos)
  (d &&& ~~~m) ||| (BitVec.ofNat 32 (x * 2 ^ pos) &&& m)

/-- CVTN of two FP32 values under a control word, merged into d (R212, Table 9.6). -/
def cvtnOp (sat : Bool) (v0 v1 ctl d : Word) : Word × FFlags :=
  let w4 := ctl.getLsbD 1
  let k := if w4 then e2m1 else if ctl.getLsbD 0 then e5m2 else e4m3
  let sr := ctl.getLsbD 4
  let q0 := narrow k sr (ctl.extractLsb' 8 12).toNat sat (unpack fp32 v0.toNat)
  let q1 := narrow k sr (ctl.extractLsb' 20 12).toNat sat (unpack fp32 v1.toNat)
  let pos := if w4 then 8 * (ctl.extractLsb' 2 2).toNat else if ctl.getLsbD 2 then 16 else 0
  (insertBits d pos (2 * k.bits) (q0.1 + q1.1 * 2 ^ k.bits), q0.2.or q1.2)

/-- CVTN (R212). -/
def execCvtn (w : FmtA) (s : State) : Host.Outcome State Fault Refusal :=
  plain (.cvtn w) s (fun c => putF32 c w.u w.n w.d (fun l =>
    let p := op64 c w.a l
    cvtnOp w.x (p.setWidth 32) (p.extractLsb' 32 32) (op32 c w.b l) (op32 c w.d l)))

/-- The exponent of the largest finite value of a QSCALE type, and that value's mantissa in eighths (R215). -/
def qscaleType (code : Nat) : Int × Nat := if code = 2 then (8, 14) else if code = 3 then (15, 14) else (2, 12)

/-- QSCALE of a value: the E8M0 code (R215). -/
def qscaleOp (fit : Bool) (type : Nat) (a : Word) : Word × FFlags :=
  match unpack fp32 a.toNat with
  | .nan s => (0xFF#32, { nv := s })
  | .inf _ => (0xFF#32, {})
  | .zero _ => (0x7F#32, {})
  | .fin _ m e =>
    let q := qscaleType type
    let base := leadExp m e - q.1
    -- A > MaxFinite * 2^base exactly when m * 8 > mant * 2^(log2 m)
    let ex := if fit && decide (q.2 * 2 ^ Nat.log2 m < m * 8) then base + 1 else base
    (BitVec.ofInt 32 (min (max ex (-127)) 127 + 127), {})

/-- QSCALE (R215). -/
def execQscale (w : FmtA) (s : State) : Host.Outcome State Fault Refusal :=
  plain (.qscale w) s (fun c => putF32 c w.u w.n w.d (fun l => qscaleOp w.x w.b.toNat (op32 c w.a l)))

/-! ### LC2 (R203) -/

/-- Coordinate c of an LC2 index in units of 0.25; row is the codebook row its M field names, none for the built-in rule. -/
def lc2Coord (row : Option Word) (x : BitVec 16) (c : Nat) : Int :=
  let neg := if c < 7 then x.getLsbD (c + 1) else ((List.range 7).filter (fun i => x.getLsbD (i + 1))).length % 2 == 1
  let mag : Int := match row with
    | none => if x.getLsbD (8 + c) then 6 else 2
    | some r => ((r.extractLsb' (4 * c) 4).toNat : Int)
  (if neg then -mag else mag) + (if x.getLsbD 0 then 1 else 0)

/-- A multiple of 0.25 between -4 and 4 as an E4M3 code; zero is +0. -/
def quarterCode (q : Int) : Nat :=
  let n := q.natAbs
  if n = 0 then 0
  else (if q < 0 then 0x80 else 0) + (Nat.log2 n + 5) * 8 + (n * 8 / 2 ^ Nat.log2 n) % 8

/-- The eight E4M3 codes of an index, coordinate c in byte c (R218). -/
def cbdecOp (row : Option Word) (x : BitVec 16) : DWord :=
  BitVec.ofNat 64 ((List.range 8).foldl (fun acc c => acc + quarterCode (lc2Coord row x c) * 256 ^ c) 0)

/-- The row of the cluster's codebook table that an index names, when the table is selected. -/
def cbRow (c : Ctx) (table : Bool) (x : BitVec 16) : Option Word :=
  if table then some (rd (clusterOf c.s c.g.site).codebook (x.extractLsb' 8 8).toNat) else none

/-- CBDEC (R218). -/
def execCbdec (w : FmtA) (s : State) : Host.Outcome State Fault Refusal :=
  plain (.cbdec w) s (fun c => put64 c false w.n w.d (fun l =>
    let x := (op32 c w.a l).setWidth 16
    cbdecOp (cbRow c w.x x) x))

/-- The team of the issuing group. -/
def teamOf (c : Ctx) : Option Team := findTeam c.s c.g.team

/-- The scratchpad size and the barrier count of the issuing group's team. -/
def scratchSize (c : Ctx) : Nat := ((teamOf c).map (·.scratch)).getD 0

/-- Byte offset a of the team's scratchpad as an index into the site's SRAM (11 R253). -/
def sramAt (c : Ctx) (a : Nat) : Nat := ((teamOf c).map (·.block)).getD 0 + a

/-- The 16 rows of a codebook block as the scratchpad holds them at an address (R204, R217). -/
def cbBlock (c : Ctx) (addr i : Nat) : Word := BitVec.ofNat 32 (rdBytes (clusterOf c.s c.g.site).sram (sramAt c (addr + 4 * i)) 4)

/-- A codebook with block b replaced. -/
def cbStore (m : SMap 32) (b : Nat) (f : Nat → Word) : SMap 32 := (List.range 16).foldl (fun m i => wr m (16 * b + i) (f i)) m

/-- CBLD: the block goes to the cluster's table and to the team's image (R205, R216). -/
def execCbld (w : FmtX) (k : BitVec 4) (s : State) : Host.Outcome State Fault Refusal :=
  issue (.cbld w k) s (fun c =>
    let a := op32 c w.a (leader c.f.mask)
    if a.toNat % 64 ≠ 0 then .error { cause := causeAlign, val := a.setWidth 64 }
    else if scratchSize c ≤ a.toNat + 63 then .error { cause := causeScratch, val := a.setWidth 64 }
    else
      let k0 := clusterOf c.s c.g.site
      let s1 := setCluster c.s { k0 with codebook := cbStore k0.codebook k.toNat (cbBlock c a.toNat) }
      let bytes := (List.range 16).flatMap (fun i => leBytes (cbBlock c a.toNat i).toNat 4)
      let s2 := match teamOf c with
        | some t =>
          let s := setTeam s1 { t with cbUsed := true }
          ((imagePa s t).map (fun p => deviceWrite s (p + 64 * k.toNat) bytes)).getD s
        | none => s1
      .ok ({ c with s := s2 }.finish))

end Sys2Proof.Machine
end

