-- ==== Sys2Proof/Machine/MemOps.lean ====
section
/-! DEFINITION. Machine/MemOps.lean: loads, stores, LDX, LDS, STS and MEMX as they issue (11 R250-R283); what their requests do at slices and
homes is in Machine/Slice.lean. -/

namespace Sys2Proof.Machine

/-! ### Order (11 R263, R264) -/

/-- The scope of an order field (Table 4.9). -/
def scopeOf (o : BitVec 2) : Scope :=
  if o = 0#2 then .none else if o = 1#2 then .die else if o = 2#2 then .package else .system

/-- What comes of a release that is about to issue: it goes on; it is not ready; it traps. -/
inductive Rel where
  | go (c : Ctx)
  | wait (s : State)
  | trap (t : Trap)

/-- The refusal recorded for a group. -/
def refusalOf (s : State) (gid : Nat) : Option DWord := (findGroup s gid).bind Group.refuse

/-- What a release does before its word issues: it waits for W, and at system scope for F; a recorded refusal raises SIBLIM; at package scope the
die's dirty remote words go home and its count increments (R264; 14 R360; 15 R379). -/
def release (c : Ctx) (o : Scope) : Rel :=
  if o == .none then .go c
  else if c.g.cw.length != 0 || (o == .system && c.g.cf.length != 0) then .wait c.held
  else match c.g.refuse with
    | some a => .trap { cause := causeSiblim, val := a }
    | none =>
      if o == .die then .go c
      else
        let die := siteDie c.g.site
        let h := writeBack c.held (remoteOf c.g.vd die)
        if (refusalOf h c.g.gid).isSome then .wait h
        else .go { c with s := releasePkg c.s c.g.vd die }

/-- A SIBLIM trap: the record of the refused address is cleared (14 R360). -/
def siblimTrap (c : Ctx) (t : Trap) : State := raiseTrap { c with g := { c.g with refuse := none } } t

/-- A word that is a release: what it does once the release has been made. -/
def withRelease (c : Ctx) (o : Scope) (k : Ctx → Except Trap State) : Except Trap State :=
  match release c o with
  | .trap t => .ok (siblimTrap c t)
  | .wait s => .ok s
  | .go c' => k c'

/-! ### Requests (11 R255, R256) -/

/-- The accesses of a word grouped by 128-byte line, at most n groups. -/
def lineGroups : Nat → List Access → List (List Access)
  | 0, _ => []
  | _, [] => []
  | n + 1, a :: r =>
    let same := fun (x : Access) => x.va.toNat / 128 == a.va.toNat / 128
    (a :: r.filter same) :: lineGroups n (r.filter (fun x => !same x))

/-- The word addresses a set of accesses of a size touches. -/
def wordsOf (z : Nat) (as : List Access) : List Nat :=
  as.flatMap (fun a => (List.range ((z + 3) / 4)).map (fun i => a.va.toNat / 4 + i))

/-- The words of a span: from the lowest to the highest word its accesses touch (R255). -/
def spanOf (z : Nat) (as : List Access) : List Nat :=
  let ws := wordsOf z as
  let lo := ws.foldl min (ws.headD 0)
  let hi := ws.foldl max 0
  (List.range (hi + 1 - lo)).map (fun i => lo + i)

/-- What an L1 holds for a virtual word. -/
def l1Find (s : State) (g : Group) (asid w : Nat) : Option L1Word :=
  (clusterOf s g.site).l1.find? (fun x => x.asid == asid && x.va == w)

/-- The bytes of an access as its words show them. -/
def bytesFrom (word : Nat → Word) (va z : Nat) : Nat :=
  leNat ((List.range z).map (fun i => ((word ((va + i) / 4)).extractLsb' (8 * ((va + i) % 4)) 8)))

/-- How an operation uses its page (12 R291). -/
def opKind : MemOp → AccKind
  | .store => .write
  | .atomic _ | .red _ | .rcn => .both
  | _ => .read

/-- Whether an operation is an atomic-class word (15 R365). -/
def atomicClass : MemOp → Bool
  | .atomic _ | .red _ | .rcn | .waita _ | .wake _ => true
  | _ => false

/-- The translation of the SMC core's requests: it addresses memory physically (log 21). -/
def flatXl (pa : Nat) : Xl :=
  { va := 0, size := 2 ^ 57, gpa := 0, pa := 0, r := true, w := true, x := true, k := false, fed := false, rdup := false, publ := false, dev := paKind pa == .device, shadow := false }

/-- A request's translation at its slice, with the faults that the slice itself finds (12 R291-R294; 14 R343). -/
def translateReq (s : State) (r : Req) : Except XFault (Xl × State) :=
  let va := ((r.lanes.head?.map Access.va).getD 0#64)
  let found : Except XFault (Xl × State) :=
    match findVd s r.vd with
    | none => .ok (flatXl va.toNat, s)
    | some v => translate s v r.die r.vdie r.slice r.asid r.user (opKind r.op) (if r.op == .pref then 4 else r.size) va
  match found with
  | .error f => .error f
  | .ok p => if p.1.dev && atomicClass r.op then .error (perm 0x11) else .ok p

/-- A request of a word in flight for the accesses of one line; the cluster chooses its entry slice under the map that it uses (12 R312, R313). -/
def mkReq (c : Ctx) (x : Flight) (id : Nat) (op : MemOp) (z : Nat) (uni nc bypass : Bool) (as : List Access) : Req :=
  let die := siteDie c.g.site
  let va := ((as.head?.map Access.va).getD 0#64).toNat
  let new := siteNew c.s die c.g.site
  { id := id, gid := c.g.gid, flight := x.id, vd := c.g.vd, die := die, vdie := c.g.vdie, site := c.g.site, asid := asidOf c.s c.g, user := c.g.level == .u,
    op := op, size := z, uni := uni, nc := nc, bypass := bypass, lanes := as, stage := .egress, slice := entryIn c.s c.g.vd die va new,
    gen := genUnder c.s die new, xl := none, results := [], fill := [], sibs := false, refused := none, vec := [], lost := false, order := id, out := none,
    home := none, half := false, reached := false, fence := c.g.vaFences }

/-- The virtual words of a request meet those of another of the same address space. -/
def sameWords (q r : Req) : Bool := q.vd == r.vd && q.asid == r.asid && (spanOf q.size q.lanes).any (fun w => (spanOf r.size r.lanes).contains w)

/-- The physical words that a request's accesses touch. -/
def touchedWords (r : Req) (x : Xl) : List Nat := (wordsOf r.size r.lanes).map (fun v => x.at (BitVec.ofNat 64 (4 * v)) / 4)

/-- The physical words that a request touches, as it has been translated or would be now. -/
def physWords (s : State) (r : Req) : List Nat :=
  match r.xl, translateReq s r with
  | some x, _ => touchedWords r x
  | none, .ok p => touchedWords r p.1
  | none, .error _ => []

/-- Whether an access of a group that has not been performed comes before another of the group in another virtual alias, with a FENCEVA between them (R279; 15 R367, R372). -/
def aliasOrdered (s : State) (q r : Req) : Bool :=
  q.gid == r.gid && decide (q.fence < r.fence) && decide (q.order < r.order) && q.op != .pref && q.op != .sram && q.stage != .reply && (physWords s q).any (fun w => (physWords s r).contains w)

/-- Whether an earlier access of a request's group to its words has not been performed: the request goes behind it, past the L1 (15 R367, R368). -/
def groupOut (s : State) (r : Req) : Bool :=
  s.reqs.any (fun q => (q.gid == r.gid && q.op != .pref && q.op != .sram && q.stage != .reply && sameWords q r) || aliasOrdered s q r)

/-- A load's request that hits the L1 is answered there (R254; 16 R398). -/
def l1Answer (c : Ctx) (r : Req) : Req :=
  let word := fun w => l1Find c.s c.g r.asid w
  if r.op == .load && !r.nc && !r.bypass && (wordsOf r.size r.lanes).all (fun w => (word w).isSome) && !groupOut c.s r then
    { r with
      stage := .reply
      results := r.lanes.map (fun a => { lane := a.lane, value := bytesFrom (fun w => ((word w).map L1Word.data).getD 0#32) a.va.toNat r.size, p7 := none })
      sibs := (wordsOf r.size r.lanes).any (fun w => ((word w).map L1Word.sibs).getD false) }
  else r

/-- Puts a word in flight with its requests: the lanes that hit the L1 are accepted at once. -/
def sendLines (c : Ctx) (x : Flight) (op : MemOp) (z : Nat) (uni nc bypass : Bool) (as : List Access) : Ctx :=
  let gs := lineGroups as.length as
  let rs := (List.range gs.length).map (fun i => l1Answer c (mkReq c x (c.s.nextId + 1 + i) op z uni nc bypass (gs.getD i [])))
  let waiting := (rs.filter (fun r => r.stage == .egress)).flatMap Req.lanes
  let un := maskOf (fun l => waiting.any (fun a => a.lane == l))
  let c1 := c.launchFlight { x with unacc := un, left := maskOf (fun l => as.any (fun a => a.lane == l)), mem := true }
  { c1 with s := { c1.s with reqs := c1.s.reqs ++ rs, nextId := c.s.nextId + 1 + gs.length } }

/-! ### Global and far loads and stores (R265-R271) -/

/-- The lanes that access: the leader alone with U = 1. -/
def accessLanes (c : Ctx) (u : Bool) : List Nat := if u then [leader c.f.mask] else lanesOf c.f.mask

/-- The address of a format M access in lane l (R267). -/
def eaM (c : Ctx) (w : FmtM) (z l : Nat) : DWord := op64 c w.a l + w.off.signExtend 64 * BitVec.ofNat 64 z

/-- The address of every active lane: its own, the leader's with U = 1 (04 R86). -/
def eaU {α : Type} (c : Ctx) (u : Bool) (ea : Nat → α) (l : Nat) : α := ea (if u then leader c.f.mask else l)

/-- The ALIGN trap of the lanes whose address is not a multiple of z (R267). -/
def alignTrap (c : Ctx) (z : Nat) (ea : Nat → DWord) : Option Trap :=
  let bad := activeOf c.f.mask (fun l => (ea l).toNat % z != 0)
  if bad = 0#32 then none else some { cause := causeAlign, mask := some bad, val := ea (leader bad) }

/-- The counters an access raises: F for far lanes, and for the others the given one (R250, R260). -/
def countersFor (k : Ctr) (ls : List Nat) (ea : Nat → DWord) : List Ctr :=
  (if ls.any (fun l => !(ea l).getLsbD 56) then [k] else []) ++ (if ls.any (fun l => (ea l).getLsbD 56) then [.f] else [])

/-- Whether a counter stands at 63 (R262). -/
def countersFull (g : Group) (ks : List Ctr) : Bool := ks.any (fun k => decide (63 ≤ g.count k))

/-- Raises counters for a word. -/
def raiseAll (g : Group) (ks : List Ctr) (id : Nat) : Group := ks.foldl (fun g k => g.raise k id) g

/-- The registers a source field reads: vector registers of a block, uniform registers. -/
def srcRegs (c : Ctx) (fld : BitVec 7) (n : Nat) : List Nat := if fld.toNat < 96 then (List.range n).map (fun i => regOf c.g fld + i) else []
def srcUnis (fld : BitVec 7) (n : Nat) : List Nat :=
  if 96 ≤ fld.toNat ∧ fld.toNat < 120 then (List.range n).map (fun i => fld.toNat - 96 + i) else []

/-- The vector registers that 2^k bytes occupy. -/
def regsOfSize (k : Nat) : Nat := if k ≤ 2 then 1 else 2 ^ (k - 2)

/-- The data of a store in lane l (R266). -/
def storeData (c : Ctx) (d : BitVec 7) (k l : Nat) : Nat :=
  if k ≤ 2 then (op32 c d l).toNat % 2 ^ (8 * 2 ^ k)
  else if k = 3 then (op64 c d l).toNat
  else if d.toNat < 96 then
    let v := fun i => (vget c.g (regOf c.g d + i) l).toNat
    v 0 + v 1 * 2 ^ 32 + v 2 * 2 ^ 64 + v 3 * 2 ^ 96
  else (sget c.g (d.toNat - 96)).toNat + (sget c.g (d.toNat - 96 + 1)).toNat * 2 ^ 64

/-- A flight's destinations: vector registers of a block, or uniform registers. -/
def dstOf (c : Ctx) (d : BitVec 7) (n un : Nat) (x : Flight) : Flight :=
  { x with dst := srcRegs c d n, udst := srcUnis d un }

/-- A global or far load of 2^k bytes, or LDX: address ea, order o (R263, R267, R274). -/
def loadBody (i : Instr) (c : Ctx) (d a : BitVec 7) (u nc : Bool) (o : Scope) (op : MemOp) (z n un : Nat) (ea : Nat → DWord) : Except Trap State :=
  match alignTrap c z (eaU c u ea) with
  | some t => .error t
  | none =>
    let ls := accessLanes c u
    let ks := countersFor .g ls ea
    if countersFull c.g ks then .ok c.hold
    else
      let x := dstOf c d n un { newFlight c (encode i) with acquire := o, srcs := srcRegs c a 2, usrcs := srcUnis a 1 }
      let bypass := o == .package || o == .system || op != .load
      let c1 := sendLines c x op z u nc bypass (ls.map (fun l => { lane := l, va := ea l, data := 0, second := 0 }))
      .ok ({ c1 with g := raiseAll c1.g ks x.id }.push .invalid).finish

/-- A load of format M. -/
def load (i : Instr) (w : FmtM) (k : Nat) (s : State) : Host.Outcome State Fault Refusal :=
  issue i s (fun c => loadBody i c w.d w.a w.u false (scopeOf w.ord) .load (2 ^ k) (regsOfSize k) (if k = 4 then 2 else 1) (eaM c w (2 ^ k)))

/-- A store of format M: it invalidates the L1 words it writes at issue (R254, R264, R267). -/
def store (i : Instr) (w : FmtM) (k : Nat) (s : State) : Host.Outcome State Fault Refusal :=
  issue i s (fun c =>
    let z := 2 ^ k
    let ea := eaM c w z
    match alignTrap c z (eaU c w.u ea) with
    | some t => .error t
    | none =>
      let ls := accessLanes c w.u
      let ks := countersFor .w ls ea
      withRelease c (scopeOf w.ord) (fun c =>
        if countersFull c.g ks then .ok c.hold
        else
          let as := ls.map (fun l => { lane := l, va := ea l, data := storeData c w.d k l, second := 0 : Access })
          let x := { newFlight c (encode i) with
            srcs := srcRegs c w.a 2 ++ srcRegs c w.d (regsOfSize k), usrcs := srcUnis w.a 1 ++ srcUnis w.d (if k = 4 then 2 else 1) }
          let ws := wordsOf z as
          let asid := asidOf c.s c.g
          let c1 := { c with s := l1DropAt c.s c.g.site (fun y => y.asid == asid && ws.contains y.va) }
          let c2 := sendLines c1 x .store z w.u false (w.ord == 2#2 || w.ord == 3#2) as
          .ok { c2 with g := raiseAll c2.g ks x.id }.finish))

/-- LDB (R265-R267). -/
def execLdb (w : FmtM) (s : State) : Host.Outcome State Fault Refusal := load (.ldb w) w 0 s
/-- LDH (R265-R267). -/
def execLdh (w : FmtM) (s : State) : Host.Outcome State Fault Refusal := load (.ldh w) w 1 s
/-- LDW (R265-R267). -/
def execLdw (w : FmtM) (s : State) : Host.Outcome State Fault Refusal := load (.ldw w) w 2 s
/-- LDD (R265-R267). -/
def execLdd (w : FmtM) (s : State) : Host.Outcome State Fault Refusal := load (.ldd w) w 3 s
/-- LDQ (R265-R267). -/
def execLdq (w : FmtM) (s : State) : Host.Outcome State Fault Refusal := load (.ldq w) w 4 s
/-- STB (R265-R268). -/
def execStb (w : FmtM) (s : State) : Host.Outcome State Fault Refusal := store (.stb w) w 0 s
/-- STH (R265-R268). -/
def execSth (w : FmtM) (s : State) : Host.Outcome State Fault Refusal := store (.sth w) w 1 s
/-- STW (R265-R268). -/
def execStw (w : FmtM) (s : State) : Host.Outcome State Fault Refusal := store (.stw w) w 2 s
/-- STD (R265-R268). -/
def execStd (w : FmtM) (s : State) : Host.Outcome State Fault Refusal := store (.std w) w 3 s
/-- STQ (R265-R269). -/
def execStq (w : FmtM) (s : State) : Host.Outcome State Fault Refusal := store (.stq w) w 4 s

/-! ### LDX (R274-R276; 14 R361) -/

/-- LDX.LDSC: the lowest-die sibling's word and the token (14 R361). -/
def execLdxLdsc (w : FmtX) (r : BitVec 2) (s : State) : Host.Outcome State Fault Refusal :=
  issue (.ldxLdsc w r) s (fun c => loadBody (.ldxLdsc w r) c w.d w.a w.u true (scopeOf r) .ldsc 4 2 1 (op64 c w.a))

/-- LDX.LSIB: sibling i, its dot and the token (14 R361). -/
def execLdxLsib (w : FmtX) (r : BitVec 2) (k : BitVec 3) (s : State) : Host.Outcome State Fault Refusal :=
  issue (.ldxLsib w r k) s (fun c => loadBody (.ldxLsib w r k) c w.d w.a w.u true (scopeOf r) (.lsib k.toNat) 8 4 2 (op64 c w.a))

/-- LDX.LDNC: a load that neither reads nor fills the L1 (R275). -/
def execLdxLdnc (w : FmtX) (r : BitVec 2) (z : BitVec 3) (s : State) : Host.Outcome State Fault Refusal :=
  issue (.ldxLdnc w r z) s (fun c =>
    loadBody (.ldxLdnc w r z) c w.d w.a w.u true (scopeOf r) .load (2 ^ z.toNat) (regsOfSize z.toNat) (if z = 4#3 then 2 else 1) (op64 c w.a))

/-- LDX.PREF: asks for the leader's line; no register, no counter, nothing pushed (R276). -/
def execLdxPref (w : FmtX) (s : State) : Host.Outcome State Fault Refusal :=
  issue (.ldxPref w) s (fun c =>
    let va := op64 c w.a (leader c.f.mask) &&& ~~~127#64
    let r := mkReq c (newFlight c 0#32) c.s.nextId .pref 128 true false false [{ lane := leader c.f.mask, va := va, data := 0, second := 0 }]
    .ok { c with s := { c.s with reqs := c.s.reqs ++ [r], nextId := c.s.nextId + 1 } }.finish)

/-! ### LDS and STS (R272, R273) -/

/-- A scratchpad address, exact. -/
def eaS (c : Ctx) (w : FmtM) (z l : Nat) : Int := ((op32 c w.a l).toNat : Int) + w.off.toInt * z

/-- An exact scratchpad address as TRAPV holds it. -/
def eaWord (x : Int) : DWord := BitVec.ofInt 64 x

/-- The checks of LDS and STS in their order (R273). -/
def scratchTrap (c : Ctx) (store : Bool) (z : Nat) (ea : Nat → Int) : Option Trap :=
  let t := fun cause p => let bad := activeOf c.f.mask p
    if bad = 0#32 then none else some { cause := cause, mask := some bad, val := eaWord (ea (leader bad)) : Trap }
  match t causeAlign (fun l => ea l % z != 0) with
  | some x => some x
  | none => match t causeScratch (fun l => decide (ea l < 0) || decide ((scratchSize c : Int) < ea l + z)) with
    | some x => some x
    | none =>
      if store then t causeBarrier (fun l => decide (ea l < 16 * (((teamOf c).map Team.nbars).getD 0 : Int))) else none

/-- The address in the cluster's SRAM of a team's scratchpad byte. -/
def scratchBase (c : Ctx) : Nat := ((teamOf c).map Team.block).getD 0

/-- Counts a scratchpad word in flight; its data has moved (R273). -/
def countSram (c : Ctx) (i : Instr) (x : Flight) : Ctx :=
  let x := { x with word := encode i, mem := true }
  let c1 := c.launchFlight x
  let r := mkReq c x (c.s.nextId + 1) .sram 0 true true true []
  { c1 with
    s := { c1.s with reqs := c1.s.reqs ++ [{ r with stage := .reply }], nextId := c.s.nextId + 2 }
    g := c1.g.raise .s x.id }

/-- LDS: the bytes are read in the bay's issue order and written to d later (R273). -/
def execLds (w : FmtM) (s : State) : Host.Outcome State Fault Refusal :=
  issue (.lds w) s (fun c =>
    let z := 2 ^ w.ord.toNat
    match scratchTrap c false z (eaU c w.u (eaS c w z)) with
    | some t => .error t
    | none =>
      if countersFull c.g [.s] then .ok c.hold
      else
        let sram := (clusterOf c.s c.g.site).sram
        let val := fun l => rdBytes sram (scratchBase c + (eaS c w z l).toNat) z
        let x := dstOf c w.d (if w.ord = 3#2 then 2 else 1) 1 (newFlight c 0#32)
        let c1 := countSram c (.lds w) { x with left := maskOf (fun l => (accessLanes c w.u).contains l) }
        let c2 := { c1 with s := { c1.s with reqs := c1.s.reqs.map (fun (r : Req) =>
          if r.id == c.s.nextId + 1 then { r with results := (accessLanes c w.u).map (fun l => { lane := l, value := val l, p7 := none }) } else r) } }
        .ok (c2.push .invalid).finish)

/-- STS: bytes written in ascending lane order, so the highest lane's remain (R268, R273). -/
def execSts (w : FmtM) (s : State) : Host.Outcome State Fault Refusal :=
  issue (.sts w) s (fun c =>
    let z := 2 ^ w.ord.toNat
    match scratchTrap c true z (eaU c w.u (eaS c w z)) with
    | some t => .error t
    | none =>
      if countersFull c.g [.s] then .ok c.hold
      else
        let k := clusterOf c.s c.g.site
        let sram := (accessLanes c w.u).foldl (fun m l => wrBytes m (scratchBase c + (eaS c w z l).toNat) (storeData c w.d w.ord.toNat l) z) k.sram
        .ok (countSram { c with s := setCluster c.s { k with sram := sram } } (.sts w) { newFlight c 0#32 with left := 0#32 }).finish)

/-! ### MEMX (R277-R283) -/

/-- Whether a group's counters are all zero. -/
def quiet (g : Group) : Bool := g.cg.isEmpty && g.cs.isEmpty && g.cf.isEmpty && g.cw.isEmpty

/-- A fragment that waits at its word: it is live, blocked, and its age is not changed (06 R127). -/
def Ctx.block (c : Ctx) (w : Waiting) : State := { c with s := { c.s with tried := c.held.tried }, f := { c.f with wait := w } }.commit

/-- What a FENCE of a group of a virtual device on a die does when it completes: at package or system scope it releases and acquires (R278; 15 R379, R381). -/
def fenceDone (s : State) (vd die scope : Nat) : State :=
  if 3 ≤ scope then
    let s := releasePkg s vd die
    acquirePkg s vd die (allHvecs s vd)
  else s

/-- FENCE: blocks its fragment until the counters are zero; then it completes (R278). -/
def execMemxFence (w : FmtX) (sc : BitVec 4) (s : State) : Host.Outcome State Fault Refusal :=
  issue (.memxFence w sc) s (fun c =>
    match c.g.refuse, c.f.wait with
    | some a, .no => .ok (siblimTrap c { cause := causeSiblim, val := a })
    | _, _ =>
      if !quiet c.g then .ok (c.block (.fence sc.toNat))
      else
        let c1 := { c with f := { c.f with wait := .no } }
        let s2 := fenceDone c1.commit c.g.vd (siteDie c.g.site) sc.toNat
        match findGroup s2 c.g.gid with
        | some g2 => .ok { c1 with s := s2, g := g2 }.finish
        | none => .ok s2)

/-- FENCEVA: blocks its fragment until W is zero, then invalidates the cluster's L1; an earlier access that is still out keeps its place before later ones through other aliases (R279; 15 R367). -/
def execMemxFenceva (w : FmtX) (s : State) : Host.Outcome State Fault Refusal :=
  issue (.memxFenceva w) s (fun c =>
    if !c.g.cw.isEmpty then .ok (c.block .fenceVa)
    else .ok { c with s := l1DropAt c.s c.g.site (fun _ => true), g := { c.g with vaFences := c.g.vaFences + 1 }, f := { c.f with wait := .no } }.finish)

/-- The counter a MEMX parameter names (Table 11.4). -/
def ctrOf (k : BitVec 4) : Ctr := if k = 0#4 then .g else if k = 1#4 then .s else if k = 2#4 then .f else .w

/-- The threshold of a WAITC: s(a) as it stood when the word issued (R280; 04 R81). -/
def waitcLimit (c : Ctx) (w : FmtX) : Nat :=
  match c.f.wait with
  | .waitc _ n => n
  | _ => (argOf c w.a 0).toNat

/-- WAITC: blocks its fragment until the counter is at or below s(a) (R280). -/
def execMemxWaitc (w : FmtX) (k : BitVec 4) (s : State) : Host.Outcome State Fault Refusal :=
  issue (.memxWaitc w k) s (fun c =>
    if waitcLimit c w < c.g.count (ctrOf k) then .ok (c.block (.waitc (ctrOf k) (waitcLimit c w))) else .ok { c with f := { c.f with wait := .no } }.finish)

/-- CNTQ: the counter's value at issue (R281). -/
def execMemxCntq (w : FmtX) (k : BitVec 4) (s : State) : Host.Outcome State Fault Refusal :=
  plain (.memxCntq w k) s (fun c => putUni c w.n w.d 1 (BitVec.ofNat 64 (c.g.count (ctrOf k))))

/-- CINV: invalidates a range of the issuing cluster's L1 under the current ASID (R282). DESIGN CHOICE (log 91): of a word that lies in the range only in part, too. -/
def execMemxCinv (w : FmtX) (s : State) : Host.Outcome State Fault Refusal :=
  issue (.memxCinv w) s (fun c =>
    let base := (argOf c w.a 0).toNat
    let len := (argOf c w.a 1).toNat
    let asid := asidOf c.s c.g
    let k := clusterOf c.s c.g.site
    let hit := fun (x : L1Word) => decide (2 ^ 21 < len) || (x.asid == asid && decide (0 < len) && decide (base < 4 * x.va + 4) && decide (4 * x.va < base + len))
    .ok { c with s := setCluster c.s { k with l1 := k.l1.filter (fun x => !hit x) } }.finish)

/-- SPLITQ: the declared scratchpad and the cluster's split (R283). -/
def execMemxSplitq (w : FmtX) (s : State) : Host.Outcome State Fault Refusal :=
  plain (.memxSplitq w) s (fun c =>
    putUni c w.n w.d 1 (BitVec.ofNat 64 (scratchSize c * 2 ^ 32 + (clusterOf c.s c.g.site).split)))

end Sys2Proof.Machine
end

