-- ==== Sys2Proof/Machine/Atomics.lean ====
section
/-! DEFINITION. Machine/Atomics.lean: the atomic-class words as they issue (14 R342-R351, R362), and the operations they perform at home (Table 14.4). -/

namespace Sys2Proof.Machine

/-- RoundNE(a + b, FP32), subnormals kept, any NaN 0x7FC0_0000 (14 Table 14.4; 13 R332). -/
def fadd32 (a b : Word) : Word :=
  let r := deliver fp32 .rne (addV .rne (unpack fp32 a.toNat) (unpack fp32 b.toNat)).1
  let x := BitVec.ofNat 32 r.1
  if x &&& 0x7F800000#32 == 0x7F800000#32 && x &&& 0x007FFFFF#32 != 0#32 then 0x7FC00000#32 else x

/-- Op(old, B) of a 32-bit operation (Table 14.4). -/
def atop32 (o : AtOp) (old b new : Word) : Word :=
  match o with
  | .add => old + b
  | .fadd => fadd32 old b
  | .decp => if b.toInt ≤ old.toInt then old - b else old
  | .incw => if b.toNat ≤ old.toNat then 0#32 else old + 1#32
  | .min => if old.toInt ≤ b.toInt then old else b
  | .max => if old.toInt ≤ b.toInt then b else old
  | .minu => if old.toNat ≤ b.toNat then old else b
  | .maxu => if old.toNat ≤ b.toNat then b else old
  | .and => old &&& b
  | .or => old ||| b
  | .xor => old ^^^ b
  | .swap => b
  | .cas32 => if old = b then new else old
  | .cas64 | .add64 => old

/-- Op(old, B) of a 64-bit operation (Table 14.4). -/
def atop64 (o : AtOp) (old b new : BitVec 64) : BitVec 64 :=
  match o with
  | .cas64 => if old = b then new else old
  | .add64 => old + b
  | _ => old

/-- Op on the bytes of a cell's operand of size z. -/
def atop (o : AtOp) (z old b new : Nat) : Nat :=
  if z = 8 then (atop64 o (BitVec.ofNat 64 old) (BitVec.ofNat 64 b) (BitVec.ofNat 64 new)).toNat
  else (atop32 o (BitVec.ofNat 32 old) (BitVec.ofNat 32 b) (BitVec.ofNat 32 new)).toNat

/-- The address checks of an atomic-class word over some lanes: misaligned lanes raise ALIGN, lanes in the far half PERM (R342). -/
def atTrap (c : Ctx) (z : Nat) (on : Nat → Bool) (ea : Nat → DWord) : Option Trap :=
  let bad := activeOf c.f.mask (fun l => on l && (ea l).toNat % z != 0)
  if bad != 0#32 then some { cause := causeAlign, mask := some bad, val := ea (leader bad) }
  else
    let far := activeOf c.f.mask (fun l => on l && (ea l).getLsbD 56)
    if far != 0#32 then some { cause := causePerm, mask := some far, val := ea (leader far) } else none

/-- The scope of an ar bit (04 R101). -/
def arScope (ar : Bool) : Scope := if ar then .package else .none

/-- An atomic-class word that raises W: checks, release, one request per line (R342, R343); nb is the size of b's block. -/
def atWord (i : Instr) (w : FmtAT) (op : MemOp) (z nb : Nat) (leaderOnly : Bool) (acc : Ctx → Nat → Access) (fl : Ctx → Flight → Flight) (pushes acquires : Bool)
    (s : State) : Host.Outcome State Fault Refusal :=
  issue i s (fun c =>
    let ea := op64 c w.a
    match atTrap c z (fun l => !leaderOnly || l == leader c.f.mask) ea with
    | some t => .error t
    | none =>
      withRelease c (arScope w.ar) (fun c =>
        if countersFull c.g [.w] then .ok c.hold
        else
          let ls := if leaderOnly then [leader c.f.mask] else lanesOf c.f.mask
          let x := fl c { newFlight c (encode i) with
            srcs := srcRegs c w.a 2 ++ srcRegs c w.b nb, usrcs := srcUnis w.a 1 ++ srcUnis w.b (if nb = 4 then 2 else 1), acquire := if acquires then arScope w.ar else .none }
          let c1 := sendLines c x op z false true true (ls.map (acc c))
          let c2 := { c1 with g := c1.g.raise .w x.id }
          .ok (if pushes then c2.push .invalid else c2).finish))

/-- A returning atomic: d and p7 are written as each lane's result returns (R342, R344). -/
def atomic (i : Instr) (w : FmtAT) (o : AtOp) (s : State) : Host.Outcome State Fault Refusal :=
  let z := if o == .cas64 || o == .add64 then 8 else 4
  atWord i w (.atomic o) z (if o == .cas64 then 4 else if o == .cas32 || o == .add64 then 2 else 1) false
    (fun c l =>
      let v := op64 c w.b l
      let lo := fun k => if w.b.toNat < 96 then (vget c.g (regOf c.g w.b + k + 1) l ++ vget c.g (regOf c.g w.b + k) l).toNat else (sget c.g (w.b.toNat - 96 + k / 2)).toNat
      { lane := l, va := op64 c w.a l
        data := if o == .cas32 then v.toNat % 2 ^ 32 else if o == .cas64 then lo 0 else if o == .add64 then v.toNat else (op32 c w.b l).toNat
        second := if o == .cas32 then v.toNat / 2 ^ 32 else if o == .cas64 then lo 2 else 0 })
    (fun c x => { x with dst := srcRegs c w.d (if z = 8 then 2 else 1), pdst := true }) true true s

/-- RED: as the atomic of its name, with nothing returned (R345). -/
def red (i : Instr) (w : FmtAT) (o : AtOp) (s : State) : Host.Outcome State Fault Refusal :=
  atWord i w (.red o) 4 1 false (fun c l => { lane := l, va := op64 c w.a l, data := (op32 c w.b l).toNat, second := 0 }) (fun _ x => x) false false s

/-- WAKE: names the leader's word (R350). -/
def wake (i : Instr) (w : FmtAT) (all : Bool) (s : State) : Host.Outcome State Fault Refusal :=
  atWord i w (.wake all) 4 0 true (fun c l => { lane := l, va := op64 c w.a l, data := 0, second := 0 }) (fun _ x => x) false true s

/-- RCN: the token is read from d, which receives the status (R362). -/
def rcn (i : Instr) (w : FmtAT) (z : Nat) (s : State) : Host.Outcome State Fault Refusal :=
  atWord i w .rcn z (z / 4) false
    (fun c l => { lane := l, va := op64 c w.a l, data := if z = 8 then (op64 c w.b l).toNat else (op32 c w.b l).toNat, second := (op32 c w.d l).toNat % 65536 })
    (fun c x => { x with dst := srcRegs c w.d 1, srcs := x.srcs ++ srcRegs c w.d 1 }) true true s

/-- WAITA: the leader's address and expected value; the fragment blocks until the status is written (R347, R351). -/
def waita (i : Instr) (w : FmtAT) (timed : Bool) (s : State) : Host.Outcome State Fault Refusal :=
  issue i s (fun c =>
    let l := leader c.f.mask
    let ea := op64 c w.a
    match atTrap c 4 (fun j => j == l) ea with
    | some t => .error t
    | none =>
      withRelease c (arScope w.ar) (fun c =>
        let b := if timed then op64 c w.b l else (op32 c w.b l).setWidth 64
        let x := { dstOf c w.d 2 1 (newFlight c (encode i)) with
          srcs := srcRegs c w.a 2 ++ srcRegs c w.b 2, usrcs := srcUnis w.a 1 ++ srcUnis w.b 1, acquire := arScope w.ar }
        let c1 := sendLines c x (.waita timed) 4 (decide (96 ≤ w.d.toNat)) true true
          [{ lane := l, va := ea l, data := b.toNat % 2 ^ 32, second := b.toNat / 2 ^ 32 }]
        let c2 := c1.push .invalid
        .ok { c2 with f := { c2.f with wait := .monitor x.id } }.finish))

/-- ATARITH.ADD (R342). -/
def execAtarithAdd (w : FmtAT) (s : State) : Host.Outcome State Fault Refusal := atomic (.atarithAdd w) w .add s
/-- ATARITH.FADD (R342). -/
def execAtarithFadd (w : FmtAT) (s : State) : Host.Outcome State Fault Refusal := atomic (.atarithFadd w) w .fadd s
/-- ATARITH.DECP (R342). -/
def execAtarithDecp (w : FmtAT) (s : State) : Host.Outcome State Fault Refusal := atomic (.atarithDecp w) w .decp s
/-- ATARITH.INCW (R342). -/
def execAtarithIncw (w : FmtAT) (s : State) : Host.Outcome State Fault Refusal := atomic (.atarithIncw w) w .incw s
/-- ATMINMAX.MIN (R342). -/
def execAtminmaxMin (w : FmtAT) (s : State) : Host.Outcome State Fault Refusal := atomic (.atminmaxMin w) w .min s
/-- ATMINMAX.MAX (R342). -/
def execAtminmaxMax (w : FmtAT) (s : State) : Host.Outcome State Fault Refusal := atomic (.atminmaxMax w) w .max s
/-- ATMINMAX.MINU (R342). -/
def execAtminmaxMinu (w : FmtAT) (s : State) : Host.Outcome State Fault Refusal := atomic (.atminmaxMinu w) w .minu s
/-- ATMINMAX.MAXU (R342). -/
def execAtminmaxMaxu (w : FmtAT) (s : State) : Host.Outcome State Fault Refusal := atomic (.atminmaxMaxu w) w .maxu s
/-- ATLOGIC.AND (R342). -/
def execAtlogicAnd (w : FmtAT) (s : State) : Host.Outcome State Fault Refusal := atomic (.atlogicAnd w) w .and s
/-- ATLOGIC.OR (R342). -/
def execAtlogicOr (w : FmtAT) (s : State) : Host.Outcome State Fault Refusal := atomic (.atlogicOr w) w .or s
/-- ATLOGIC.XOR (R342). -/
def execAtlogicXor (w : FmtAT) (s : State) : Host.Outcome State Fault Refusal := atomic (.atlogicXor w) w .xor s
/-- ATLOGIC.SWAP (R342). -/
def execAtlogicSwap (w : FmtAT) (s : State) : Host.Outcome State Fault Refusal := atomic (.atlogicSwap w) w .swap s
/-- ATCAS.CAS32 (R342). -/
def execAtcasCas32 (w : FmtAT) (s : State) : Host.Outcome State Fault Refusal := atomic (.atcasCas32 w) w .cas32 s
/-- ATCAS.CAS64 (R342). -/
def execAtcasCas64 (w : FmtAT) (s : State) : Host.Outcome State Fault Refusal := atomic (.atcasCas64 w) w .cas64 s
/-- ATCAS.ADD64 (R342). -/
def execAtcasAdd64 (w : FmtAT) (s : State) : Host.Outcome State Fault Refusal := atomic (.atcasAdd64 w) w .add64 s
/-- RED.ADD (R345). -/
def execRedAdd (w : FmtAT) (s : State) : Host.Outcome State Fault Refusal := red (.redAdd w) w .add s
/-- RED.FADD (R345). -/
def execRedFadd (w : FmtAT) (s : State) : Host.Outcome State Fault Refusal := red (.redFadd w) w .fadd s
/-- RED.MIN (R345). -/
def execRedMin (w : FmtAT) (s : State) : Host.Outcome State Fault Refusal := red (.redMin w) w .min s
/-- RED.MAX (R345). -/
def execRedMax (w : FmtAT) (s : State) : Host.Outcome State Fault Refusal := red (.redMax w) w .max s
/-- WAITA (R347). -/
def execWaita (w : FmtAT) (s : State) : Host.Outcome State Fault Refusal := waita (.waita w) w false s
/-- WAITA.TO (R347). -/
def execWaitaTo (w : FmtAT) (s : State) : Host.Outcome State Fault Refusal := waita (.waitaTo w) w true s
/-- WAKE.ONE (R350). -/
def execWakeOne (w : FmtAT) (s : State) : Host.Outcome State Fault Refusal := wake (.wakeOne w) w false s
/-- WAKE.ALL (R350). -/
def execWakeAll (w : FmtAT) (s : State) : Host.Outcome State Fault Refusal := wake (.wakeAll w) w true s
/-- RCN, a 4-byte word of a cell (R362). -/
def execRcn (w : FmtAT) (s : State) : Host.Outcome State Fault Refusal := rcn (.rcn w) w 4 s
/-- RCN.D, a whole cell (R362). -/
def execRcnD (w : FmtAT) (s : State) : Host.Outcome State Fault Refusal := rcn (.rcnD w) w 8 s

end Sys2Proof.Machine
end

