-- ==== Sys2Proof/Machine/Barrier.lean ====
section
/-! DEFINITION. Machine/Barrier.lean: barrier objects, their phases, and BAR (14 R334-R341). -/

namespace Sys2Proof.Machine

/-- A barrier object (Table 14.1). -/
structure BarObj where
  rbytes : Int
  ebytes : Nat
  rarr : Nat
  earr : Nat
  phase : Nat
  err : Bool
  par : Bool
  deriving DecidableEq, Repr

/-- The object in 16 bytes of the scratchpad. -/
def readBar (sram : SMap 8) (a : Nat) : BarObj :=
  let ctl := rdBytes sram (a + 12) 4
  { rbytes := (BitVec.ofNat 32 (rdBytes sram a 4)).toInt, ebytes := rdBytes sram (a + 4) 4, rarr := rdBytes sram (a + 8) 2, earr := rdBytes sram (a + 10) 2,
    phase := ctl / 65536, err := ctl / 2 % 2 == 1, par := ctl % 2 == 1 }

/-- The object's 16 bytes written back. -/
def writeBar (sram : SMap 8) (a : Nat) (o : BarObj) : SMap 8 :=
  let m := wrBytes sram a (BitVec.ofInt 32 o.rbytes).toNat 4
  let m := wrBytes m (a + 4) o.ebytes 4
  let m := wrBytes m (a + 8) o.rarr 2
  let m := wrBytes m (a + 10) o.earr 2
  wrBytes m (a + 12) (o.phase % 65536 * 65536 + (if o.err then 2 else 0) + (if o.par then 1 else 0)) 4

/-- The object after an operation: the phase completes, or it is over-credited (R335, R336). -/
def BarObj.settle (o : BarObj) : BarObj :=
  if o.rarr = 0 ∧ o.rbytes = 0 then { o with par := !o.par, phase := o.phase + 1, rarr := o.earr, rbytes := o.ebytes }
  else if o.rarr = 0 ∧ o.rbytes < 0 then { o with err := true }
  else o

/-- The TRAPV of a BARRIER trap of BAR (R339). -/
def barTrap (code off : Nat) : Trap := { cause := causeBarrier, val := BitVec.ofNat 64 (off * 2 ^ 32 + code) }

/-- The fragments of a team blocked on an object become ready when p holds of their parity (R335, R338). -/
def wakeBar (s : State) (team off : Nat) (p : Bool → Bool) : State :=
  { s with groups := s.groups.map (fun g =>
      if g.team == team then
        g.mapWaits (fun w => match w with
          | .barrier o q => if o == off && p q then .barrierDone else w
          | _ => w)
      else g) }

/-- The parked fragments of a group blocked on an object have a trap to deliver when they are live (06 R135). -/
def Group.breakParked (g : Group) (off : Nat) : Group :=
  { g with stack := g.stack.map (fun e => match e.pwait with
      | .barrier o _ => if o == off then { e with pwait := .trapDue (barTrap 3 off) } else e
      | _ => e) }

/-- The fragments of a team blocked on an object raise BARRIER code 3 (R336). -/
def breakBar (s : State) (team off : Nat) : State :=
  { s with groups := (s.groups.map (fun g => if g.team == team then g.breakParked off else g)).map (fun g =>
      if g.team == team && g.status == .running then
        match (List.range g.frags.length).find? (fun i => match g.frags[i]? with
            | some f => (match f.wait with
              | .barrier o _ => o == off
              | _ => false)
            | none => false) with
        | some i => (match g.frags[i]? with
          | some f => trapWait g i f (barTrap 3 off)
          | none => g)
        | none => g
      else g) }

/-- Performs an operation on an object of a team, at its point in the scratchpad order, with what it does to the waiters (R335, R336). -/
def barOp (s : State) (team off : Nat) (f : BarObj → BarObj) : State :=
  match findTeam s team with
  | none => s
  | some t =>
    let k := clusterOf s t.site
    let o := f (readBar k.sram (t.block + off))
    let o' := o.settle
    let s := setCluster s { k with sram := writeBar k.sram (t.block + off) o' }
    if o'.phase ≠ o.phase then wakeBar s team off (fun q => q == o.par)
    else if o'.err && !o.err then breakBar s team off
    else s

/-- Credits landed bytes to an object (13 R322). -/
def creditBar (s : State) (team bar n : Nat) : State := barOp s team (16 * bar) (fun o => { o with rbytes := o.rbytes - n })

/-- The object of the issuing group's team at an offset. -/
def objAt (c : Ctx) (off : Nat) : BarObj := readBar (clusterOf c.s c.g.site).sram (scratchBase c + off)

/-- The offset and the checks that every BAR word makes first (R338). -/
def barOff (c : Ctx) (a : BitVec 7) : Nat := (argOf c a 0).toNat % 2 ^ 32
def barFirst (c : Ctx) (a : BitVec 7) : Option Trap :=
  let off := barOff c a
  if off % 16 ≠ 0 then some (barTrap 1 off)
  else if 16 * (((teamOf c).map Team.nbars).getD 0) ≤ off then some (barTrap 2 off)
  else none

/-- The checks that every BAR word makes of its object, then its own. -/
def barChecked (c : Ctx) (a : BitVec 7) (k : Nat → BarObj → Except Trap State) : Except Trap State :=
  match barFirst c a with
  | some t => .error t
  | none => k (barOff c a) (objAt c (barOff c a))

/-- A BAR word. -/
def bar (i : Instr) (a : BitVec 7) (s : State) (k : Ctx → Nat → BarObj → Except Trap State) : Host.Outcome State Fault Refusal := issue i s (fun c => barChecked c a (k c))

/-- BAR.INIT (R338). -/
def execBarInit (w : FmtX) (s : State) : Host.Outcome State Fault Refusal :=
  bar (.barInit w) w.a s (fun c off _ =>
    let x := argOf c w.a 1
    let n := (x.extractLsb' 0 16).toNat
    let b := (x.extractLsb' 16 31).toNat
    if x.extractLsb' 47 17 != 0#17 || n == 0 then .error (barTrap 4 off)
    else
      let o : BarObj := { rbytes := b, ebytes := b, rarr := n, earr := n, phase := 0, err := false, par := false }
      let k := clusterOf c.s c.g.site
      let s1 := { c with s := setCluster c.s { k with sram := writeBar k.sram (scratchBase c + off) o } }.finish
      .ok (wakeBar s1 c.g.team off (fun q => q)))

/-- The words an arrival waits for: those counted in W and the LDS words, issued before it and not completed (R340). -/
def arrivalWaits (g : Group) : List Nat :=
  (g.cw.filter (fun e => !e.2)).map Prod.fst ++ ((g.cs.filter (fun e => !e.2)).map Prod.fst).filter (fun i => g.flights.any (fun x => x.id == i))

/-- BAR.ARR and BAR.ARRN: a team-scope release; the arrival is performed at once, or when the words before it are done (R338, R340). -/
def arrive (i : Instr) (a : BitVec 7) (n : Ctx → Nat) (bad : Ctx → Bool) (s : State) : Host.Outcome State Fault Refusal :=
  bar i a s (fun c off o =>
    if bad c then .error (barTrap 4 off)
    else if o.err then .error (barTrap 3 off)
    else if o.earr = 0 then .error (barTrap 7 off)
    else if o.rarr < n c then .error (barTrap 5 off)
    else match c.g.refuse with
      | some x => .ok (siblimTrap c { cause := causeSiblim, val := x })
      | none =>
        let ws := arrivalWaits c.g
        if ws.isEmpty then .ok (barOp c.finish c.g.team off (fun o => { o with rarr := o.rarr - n c }))
        else
          let x := { newFlight c (encode i) with
            args := BitVec.ofNat 64 off :: BitVec.ofNat 64 (n c) :: ws.map (BitVec.ofNat 64), usrcs := srcUnis a 2, unacc := c.f.mask, held := true }
          .ok (c.launchFlight x).finish)

/-- BAR.ARR (R338). -/
def execBarArr (w : FmtX) (s : State) : Host.Outcome State Fault Refusal := arrive (.barArr w) w.a (fun _ => 1) (fun _ => false) s

/-- BAR.ARRN (R338). -/
def execBarArrn (w : FmtX) (s : State) : Host.Outcome State Fault Refusal :=
  arrive (.barArrn w) w.a (fun c => ((argOf c w.a 1).extractLsb' 0 16).toNat)
    (fun c => (argOf c w.a 1).extractLsb' 16 48 != 0#48 || (argOf c w.a 1).extractLsb' 0 16 == 0#16) s

/-- BAR.EXPB (R338). -/
def execBarExpb (w : FmtX) (s : State) : Host.Outcome State Fault Refusal :=
  bar (.barExpb w) w.a s (fun c off o =>
    let x := argOf c w.a 1
    if x.extractLsb' 31 33 != 0#33 then .error (barTrap 4 off)
    else if o.err then .error (barTrap 3 off)
    else if 0x7FFFFFFF < o.rbytes + x.toNat then .error (barTrap 6 off)
    else .ok (barOp c.finish c.g.team off (fun o => { o with rbytes := o.rbytes + x.toNat })))

/-- BAR.WAIT: blocks its fragment until the phase of parity p is complete; then it completes, whatever its operand has become (R338, R340). -/
def execBarWait (w : FmtX) (p : BitVec 1) (s : State) : Host.Outcome State Fault Refusal :=
  issue (.barWait w p) s (fun c =>
    let done := { c with f := { c.f with wait := .no } }.finish
    if c.f.wait == .barrierDone then .ok done
    else barChecked c w.a (fun off o =>
      let q := p == 1#1
      if o.err then .error (barTrap 3 off)
      else if o.earr = 0 then .error (barTrap 7 off)
      else if o.par != q then .ok done
      else .ok (c.block (.barrier off q))))

/-- BAR.TRY: whether the phase of parity p is complete (R338). -/
def execBarTry (w : FmtX) (p : BitVec 1) (s : State) : Host.Outcome State Fault Refusal :=
  bar (.barTry w p) w.a s (fun c off o =>
    if o.err then .error (barTrap 3 off)
    else if o.earr = 0 then .error (barTrap 7 off)
    else .ok (putUni c false w.d 1 (if o.par != (p == 1#1) then 1#64 else 0#64)).finish)

/-- The word BAR.QRY writes (R338). -/
def BarObj.word (o : BarObj) : DWord :=
  BitVec.ofInt 32 o.rbytes ++ BitVec.ofNat 16 o.rarr ++ BitVec.ofNat 14 o.phase ++ BitVec.ofBool o.err ++ BitVec.ofBool o.par

/-- BAR.QRY: the object as it stands (R338). -/
def execBarQry (w : FmtX) (s : State) : Host.Outcome State Fault Refusal :=
  bar (.barQry w) w.a s (fun c _ o => .ok (putUni c false w.d 1 o.word).finish)

/-- A held arrival at its point in the scratchpad order; an object that no longer admits it is left as it is (log 30). -/
def lateArrival (s : State) (team off n : Nat) : State :=
  match findTeam s team with
  | none => s
  | some t =>
    let o := readBar (clusterOf s t.site).sram (t.block + off)
    if o.err || decide (o.rarr < n) then s else barOp s team off (fun o => { o with rarr := o.rarr - n })

/-- Performs the held arrivals of a group whose words before them are done (R340). -/
def performArrivals (s : State) (gid : Nat) : State :=
  match findGroup s gid with
  | none => s
  | some g =>
    let ready := g.flights.filter (fun x => x.held && (x.args.drop 2).all (fun a => !(arrivalWaits g).contains a.toNat))
    let gone := ready.map Flight.id
    let s := setGroup s { g with flights := g.flights.filter (fun x => !gone.contains x.id) }
    ready.foldl (fun s x => lateArrival s g.team (x.args.getD 0 0#64).toNat (x.args.getD 1 0#64).toNat) s

end Sys2Proof.Machine
end

