-- ==== Sys2Proof/Machine/Launch.lean ====
section
/-! DEFINITION. Machine/Launch.lean: the front end's registers and launch words (02 R38-R41), the wake events of the dormancy machine (02 R51, R52), the release
of nodes to dispatchers and their completion (01 R26, R32; 02 R42; 03 R58; 15 R392). -/

namespace Sys2Proof.Machine

/-! ### FESTAT and the wake events -/

/-- STATE as Table 2.5 codes it. -/
def stateCode : VdState → Nat
  | .active => 0
  | .idle => 1
  | .collapsing => 2
  | .dormant => 3
  | .waking => 4

/-- QFREE: 64 less the launches not completed (R39). -/
def qfree (v : Vd) : Nat := 64 - v.launches.length

/-- FESTAT (Table 2.5). -/
def festat (v : Vd) : Nat :=
  qfree v * 256 + (if v.cfail then 128 else 0) + (if v.savef then 64 else 0) + v.desc.wclass * 16 + stateCode v.state

/-- An event that starts a wake (R51, R52): a collapse in progress is interrupted at the end of its step, a dormant virtual device is waking. The cause is what PWR.WAKEQ
reads (16 R424). -/
def startWake (v : Vd) (cause : Nat) : Vd :=
  match v.state with
  | .collapsing => if v.interrupted then v else { v with interrupted := true, wakeCause := cause }
  | .dormant => { v with state := .waking, wakeCause := cause }
  | _ => v

/-- A VF reset begins: launch words are refused from here on, and a virtual device that collapses or sleeps is woken first, with no wake cause of PWR.WAKEQ's list (02 Table 2.8; 16 R424). -/
def beginReset (v : Vd) : Vd := { startWake v v.wakeCause with resetting := true }

/-- Whether the die kernel can serve a mailbox now: its virtual device is neither collapsing, dormant nor waking (02 R51). -/
def awake (v : Vd) : Bool := v.state == .active || v.state == .idle

/-- A WAKE write or a wake-only word (R52, R53). -/
def wakeVd (v : Vd) : Vd :=
  if v.resetting then v
  else match v.state with
    | .idle => { v with timer := !v.cfail, due := false }
    | _ => startWake v 2

/-- An accepted launch word (R52). -/
def launchWakes (v : Vd) : Vd :=
  match v.state with
  | .idle => { v with state := .active, timer := false, due := false }
  | .active => v
  | .waking => { v with waits := true }
  | _ => { startWake v 1 with waits := true }

/-- A host access, a mailbox doorbell (cause 3) or a Coupler message (cause 4) (R51, R52). -/
def touchVd (v : Vd) (cause : Nat) : Vd := startWake v cause

/-! ### Work, the idle timer, and service (R46, R52; 17 R428) -/

/-- A group that is work: a user group, or a kernel group that is not blocked in WFI with each of its live fragments and has not been saved by a collapse. -/
def groupWorks (g : Group) : Bool :=
  g.level == .u || (match g.status with
    | .stopped .collapse | .stopping .collapse | .saving .collapse | .gone => false
    | .running => !g.frags.all (fun f => f.wait == .wfi)
    | _ => true)

/-- An instance that has a wake condition of R420: an unread record, a message, a doorbell that a started group has not seen, an expired KTIMER. -/
def instWorks (s : State) (vd : Nat) (i : Inst) : Bool :=
  !i.failed && (i.frtail != i.frhead || !i.queue.isEmpty || (i.ktimer != 0#64 && decide (i.ktimer.toNat ≤ cycleOf s i.pdie)) ||
    s.groups.any (fun g => g.vd == vd && g.vdie == i.vdie && g.level == .k && i.bells.contains g.num))

/-- Whether a virtual device has work (R46). -/
def hasWork (s : State) (v : Vd) : Bool :=
  !v.launches.isEmpty || s.groups.any (fun g => g.vd == v.num && groupWorks g) || s.teams.any (fun t => t.vd == v.num && t.status == .saved) ||
  s.drays.any (fun d => d.vd == v.num) || v.insts.any (instWorks s v.num)

/-- A recalibration, slice-map change, channel service or SMC failover touches a virtual device (17 R428). -/
def underService (s : State) (v : Vd) : Bool :=
  s.failover || v.desc.dies.any (fun d => (s.fields[d.pdie]?).any FieldSt.recal || (changeOf s d.pdie).isSome || s.chanService.any (fun c => c.1 == d.pdie && d.slices.getLsbD c.2))

/-- Collapse begins: every kernel group of the virtual device stops to be saved (R47 step 1). -/
def beginCollapse (s : State) (v : Vd) : State :=
  let s := setVd s { v with state := .collapsing, timer := false, due := false, steps := 0, interrupted := false }
  { s with groups := s.groups.map (fun g => if g.vd == v.num && g.level == .k && g.status == .running then { g with status := .stopping .collapse } else g) }

/-- The idle timer's expiry: no collapse starts while the virtual device has work, and during service it waits for the end of that; a VF reset
that has begun ends in idle itself (R52, Table 2.8; 17 R428). -/
def expire (s : State) (v : Vd) : State :=
  if v.state != .idle || !v.timer || v.resetting then s
  else if hasWork s v then setVd s { v with state := .active, timer := false, due := false }
  else if underService s v then setVd s { v with due := true }
  else beginCollapse s v

/-- The timers that expired during service take effect when no service touches their virtual device any more (17 R428). -/
def expireDue (s : State) : State :=
  (s.vds.filter (fun v => v.due)).foldl (fun s v => if underService s v then s else expire s v) s

/-- A wake event aborts the recalibration of the fields that its virtual device uses; other virtual devices' due timers then take effect (17 R428). -/
def abortRecal (s : State) (vd : Nat) : State :=
  match findVd s vd with
  | none => s
  | some v =>
    if s.fields.any FieldSt.recal then expireDue (modFields s (fun k => v.desc.dies.any (fun d => d.pdie == k)) (fun x => { x with recal := false })) else s

/-- A wake event that is a launch or a WAKE: the virtual device takes it, then the recalibration it aborts ends. -/
def wakeEvent (s : State) (vd : Nat) (f : Vd → Vd) : State := abortRecal (modVd s vd f) vd

/-- Any other wake event, which changes nothing in idle (R51, R52). -/
def touchEvent (s : State) (vd cause : Nat) : State := modVd (abortRecal s vd) vd (fun v => touchVd v cause)

/-! ### Nodes -/

/-- The teams of a node. -/
def GNode.teams (n : GNode) : Nat := n.gx * n.gy * n.gz

/-- A node's virtual-die range (01 Table 1.6): VDCOUNT 0 is every virtual die. -/
def GNode.vdies (n : GNode) (v : Vd) : List Nat :=
  if n.vdcount = 0 then List.range v.insts.length else (List.range n.vdcount).map (fun i => n.vdfirst + i)

/-- The virtual dies of a list whose entries have not failed, ascending. -/
def liveVdies (v : Vd) (ds : List Nat) : List Nat := ds.filter (fun d => (v.inst d).any (fun i => !i.failed))

/-- The instance of the lowest virtual die that has not failed. -/
def lowestLive (v : Vd) : Option Nat := (liveVdies v (List.range v.insts.length)).head?

/-- A TEAMLOST record of a virtual die (16 Tables 16.2, 16.3). -/
def teamLost (vdie launch node : Nat) : Record :=
  { emptyRecord 3 vdie with arg0 := BitVec.ofNat 64 launch, arg1 := BitVec.ofNat 64 node }

/-- Posts a TEAMLOST record for teams lost on a virtual die to the lowest virtual die that has not failed. -/
def postTeamLost (v : Vd) (at_ launch node : Nat) : Vd :=
  match lowestLive v with
  | some d => v.modInst d (fun i => { i with records := i.records ++ [teamLost at_ launch node] })
  | none => v

/-- Changes a launch's record. -/
def Vd.modLaunch (v : Vd) (num : Nat) (f : Launch → Launch) : Vd :=
  { v with launches := v.launches.map (fun l => if l.num == num then f l else l) }

/-- The launch with a number, its graph. -/
def Vd.launch (v : Vd) (num : Nat) : Option Launch := v.launches.find? (fun l => l.num == num)
def Vd.graph (v : Vd) (handle : Nat) : Option Graph := v.graphs.find? (fun g => g.handle == handle)

/-- Whether a node of a launch has completed: every team of its grid has retired (01 R26). -/
def nodeDone (g : Graph) (l : Launch) (i : Nat) : Bool :=
  match g.nodes[i]?, l.nodes[i]? with
  | some n, some r => r.released && decide (n.teams ≤ r.retired)
  | _, _ => false

/-- The nodes that may be released now: not released, every predecessor complete (01 R26). -/
def releasable (g : Graph) (l : Launch) : List Nat :=
  (List.range g.nodes.length).filter (fun i =>
    (match l.nodes[i]? with | some r => !r.released | none => false) && (g.edges.filter (fun e => e.2 == i)).all (fun e => nodeDone g l e.1))

/-- Hands a released node to the dispatchers of its dies (03 R58). DESIGN CHOICE (log 88): when every die of its range has failed, VDIE of the one TEAMLOST record is the first virtual die of
the range; the spec does not say which of them the record names. -/
def releaseNode (v : Vd) (g : Graph) (num i : Nat) : Vd :=
  match g.nodes[i]? with
  | none => v
  | some n =>
    let ds := liveVdies v (n.vdies v)
    let k := ds.length
    let t := n.teams
    let v := { v.modLaunch num (fun l => { l with nodes := l.nodes.set i { released := true, order := v.order, retired := if k = 0 then t else 0 } }) with order := v.order + 1 }
    if k = 0 then postTeamLost v ((n.vdies v).headD 0) num i
    else
      (List.range k).foldl (fun v j =>
        v.modInst (ds.getD j 0) (fun x => { x with ranges := x.ranges ++
          [{ launch := num, node := i, lo := t * j / k, hi := t * (j + 1) / k, refused := [], stopped := false, probing := false, held := none }] })) v

/-- Releases every node that may be released, repeatedly: a node that loses all its teams at release completes at once (01 R26; 03 R58). -/
def releaseAll : Nat → Vd → Graph → Nat → Vd
  | 0, v, _, _ => v
  | n + 1, v, g, num =>
    match v.launch num with
    | none => v
    | some l => match releasable g l with
      | [] => v
      | i :: _ => releaseAll n (releaseNode v g num i) g num

/-- A graph whose unregistration has taken effect goes when its last launch has completed (01 R29, R32). -/
def dropGraphs (v : Vd) : Vd := { v with graphs := v.graphs.filter (fun g => g.live || v.launches.any (fun l => l.handle == g.handle)) }

/-- Whether an access that a group of a virtual device left behind, killed or gone, has not been acknowledged (16 R409). -/
def orphanAccess (s : State) (vd : Nat) : Bool :=
  s.reqs.any (fun r => r.vd == vd && r.op != .pref && r.stage != .reply && !(findGroup s r.gid).any (fun g => g.flights.any (fun x => x.id == r.flight)))

/-- Completes a launch whose last node has completed, once every access of its groups has been acknowledged: the dirty remote words of its dies are written back, FECMP increments, the slot is freed
(02 R41; 15 R392). -/
def completeLaunch (s : State) (vd num : Nat) : State :=
  match findVd s vd with
  | none => s
  | some v => match v.launch num with
    | none => s
    | some l => match v.graph l.handle with
      | none => s
      | some g =>
        if (List.range g.nodes.length).all (nodeDone g l) && !orphanAccess s vd then
          let dies := g.nodes.flatMap (fun n => (n.vdies v).map v.pdie)
          let s := writeBack s (fun r => r.vd == vd && dies.contains r.die)
          modVd s vd (fun v => dropGraphs { v with
            launches := v.launches.filter (fun x => x.num != num)
            insts := v.insts.map (fun i => { i with ranges := i.ranges.filter (fun r => r.launch != num) })
            fecmp := v.fecmp + 1#32 })
        else s

/-- Goes on with a launch: releases what may be released, completes it when all is done. -/
def advance (s : State) (vd num : Nat) : State :=
  match findVd s vd with
  | none => s
  | some v => match v.launch num with
    | none => s
    | some l => match v.graph l.handle with
      | none => s
      | some g => completeLaunch (setVd s (releaseAll (g.nodes.length + 1) v g num)) vd num

/-- Counts teams of a node as retired (01 R26). -/
def countRetired (s : State) (vd num node n : Nat) : State :=
  advance (modVd s vd (fun v => v.modLaunch num (fun l =>
    { l with nodes := (List.range l.nodes.length).filterMap (fun i => (l.nodes[i]?).map (fun r => if i == node then { r with retired := r.retired + n } else r)) }))) vd num

/-! ### LAUNCH (R39) -/

/-- E of check 5: the largest 64 x ARGDISP + ARGSIZE over the graph's nodes (Table 2.6). -/
def graphExtent (g : Graph) : Nat :=
  g.nodes.foldl (fun m n => max m (64 * n.argdisp + ((g.images[n.image]?).map Image.argSize).getD 0)) 0

/-- A graph that the front end knows. -/
def Vd.known (v : Vd) (handle : Nat) : Option Graph := if handle = 0 then none else v.graphs.find? (fun g => g.handle == handle && g.live)

/-- The first drop cause of a launch word (Table 2.6). -/
def dropCauseOf (v : Vd) (off size : Nat) (w : BitVec 64) : Option Nat :=
  let wonly := w.getLsbD 43
  if size != 8 || off != 0 then some 5
  else if v.resetting then some 6
  else if w.extractLsb' 44 20 != 0#20 then some 1
  else if wonly then none
  else match v.known (w.extractLsb' 0 16).toNat with
    | none => some 2
    | some g =>
      if v.desc.arenasz < 64 * (w.extractLsb' 16 24).toNat + graphExtent g then some 3
      else if qfree v = 0 then some 4
      else none

/-- A dropped word (R39). DESIGN CHOICE (log 59): of a write that is not 8 bytes wide FELAST and the record hold the value as it was given, zero beyond its bytes. -/
def dropWord (v : Vd) (cause : Nat) (w : BitVec 64) : Vd :=
  { v with dropCause := cause, dropCount := min (v.dropCount + 1) 0xFFFFFFFF, felast := w }.modInst 0
    (fun i => { i with records := i.records ++ [{ emptyRecord 2 0 with arg0 := w, arg1 := BitVec.ofNat 64 cause }] })

/-- Processes an accepted launch, behind the host writes of its function that still wait (R40). -/
def processLaunch (s : State) (vd num : Nat) : State :=
  if s.hostHeld.any (fun h => h.vd == vd && h.isWrite) then
    { s with hostHeld := s.hostHeld ++ [{ vd := vd, asid := 0, va := 0#64, size := 0, isWrite := true, val := num, fe := true }] }
  else advance s vd num

/-- A write to LAUNCH: dropped for its first cause, or accepted whole (R39-R42). -/
def launchWrite (s : State) (vd off size : Nat) (w : BitVec 64) : State :=
  match findVd s vd with
  | none => s
  | some v =>
    match dropCauseOf v off size w with
    | some c => setVd s (dropWord v c w)
    | none =>
      if w.getLsbD 43 then wakeEvent s vd wakeVd
      else
        let num := (v.feacc + 1#32).toNat
        let n := ((v.known (w.extractLsb' 0 16).toNat).map (fun g => g.nodes.length)).getD 0
        let l : Launch :=
          { num := num, handle := (w.extractLsb' 0 16).toNat, argoff := (w.extractLsb' 16 24).toNat, prio := min (w.extractLsb' 40 3).toNat v.desc.priomax
            nodes := List.replicate n { released := false, order := 0, retired := 0 } }
        processLaunch (wakeEvent s vd (fun v => { launchWakes v with feacc := v.feacc + 1#32, launches := v.launches ++ [l] })) vd num

/-- A read of the front-end window (Table 2.3); offsets not listed and LAUNCH and WAKE read 0. -/
def feRead (v : Vd) (off size : Nat) : Nat :=
  let q := match off / 8 with
    | 2 => festat v
    | 3 => v.dropCause * 2 ^ 56 + v.dropCount
    | 4 => v.felast.toNat
    | 5 => v.feacc.toNat
    | 6 => v.fecmp.toNat
    | _ => 0
  q / 2 ^ (8 * (off % 8)) % 2 ^ (8 * size)

/-- A write to WAKE, ignored while a VF reset runs (R53). -/
def wakeWrite (s : State) (vd size : Nat) : State :=
  if (size = 4 ∨ size = 8) ∧ (findVd s vd).any (fun v => !v.resetting) then wakeEvent s vd wakeVd else s

/-- A write to the front-end window: LAUNCH and WAKE act, the rest is read-only or reserved (R38). -/
def feWrite (s : State) (vd off size : Nat) (w : BitVec 64) : State :=
  if off < 8 then launchWrite s vd off size w
  else if off < 16 then wakeWrite s vd size
  else s

/-- The virtual device and offset that a device-range address reaches, if it lies in a front-end window (R38; log 7). -/
def feTarget (s : State) (pa : Nat) : Option (Nat × Nat) :=
  (s.vds.find? (fun v => decide (Config.feWindow v.num ≤ pa) && decide (pa < Config.feWindow v.num + 4096))).map (fun v => (v.num, pa - Config.feWindow v.num))

end Sys2Proof.Machine
end

