-- ==== Sys2Proof/Machine/Home.lean ====
section
/-! DEFINITION. Machine/Home.lean: what a request does at its point of performance: the home slice, a remote copy, a device, the pool (11 R254-R259, R268-R271;
14 R342-R350, R358-R362; 15 R365, R366, R373, R380). -/

namespace Sys2Proof.Machine

/-! ### The request list -/

/-- The request with an identity. -/
def findReq (s : State) (id : Nat) : Option Req := s.reqs.find? (fun r => r.id == id)

/-- Removes a request. -/
def dropReq (s : State) (id : Nat) : State := { s with reqs := s.reqs.filter (fun r => r.id != id) }

/-- A request that moves on takes its place behind those already there (R256). -/
def moveReq (s : State) (r : Req) : State := { s with reqs := s.reqs.filter (fun q => q.id != r.id) ++ [r] }

/-- A request changed in its place. -/
def putReq (s : State) (r : Req) : State := { s with reqs := s.reqs.map (fun q => if q.id == r.id then r else q) }

/-- Changes a flight of a group. -/
def modFlight (s : State) (gid id : Nat) (f : Flight → Flight) : State :=
  modGroup s gid (fun g => { g with flights := g.flights.map (fun x => if x.id == id then f x else x) })

/-- The flight a request belongs to. -/
def flightOf (s : State) (r : Req) : Option Flight := (findGroup s r.gid).bind (fun g => g.flights.find? (fun x => x.id == r.flight))

/-- The lanes of a request. -/
def Req.mask (r : Req) : Mask := maskOf (fun l => r.lanes.any (fun a => a.lane == l))

/-! ### Values and results -/

/-- A dot as a word, TAB clear (14 Table 14.8). -/
def dotWord (x : Sib) (n : Nat) : Nat := x.die * 2 ^ 29 + x.rcnt % 2 ^ 21 * 2 ^ 8 + (n - 1) * 32 + (if x.aged then 16 else 0)

/-- The physical words of a request's span (R255), with their virtual words. -/
def spanWords (r : Req) (x : Xl) : List (Nat × Nat) := (spanOf r.size r.lanes).map (fun v => (v, x.at (BitVec.ofNat 64 (4 * v)) / 4))

/-- Whether a cell holds two or more siblings. -/
def manySibs (s : State) (c : Nat) : Bool := decide (2 ≤ (sibsOf s c).length)

/-- What a load of z bytes at a home returns. -/
def homeBytes (s : State) (pa z : Nat) : Nat := rdBytes s.mem pa z

/-- The answer of LDSC: value and token (14 R361). -/
def ldscVal (s : State) (fed : Bool) (pa : Nat) : Nat := homeBytes s pa 4 + (if fed then tokenOf s (pa / 8) else 1) * 2 ^ 32

/-- The answer of LSIB i: value, dot and token, in the order its destination has them (14 R361, Table 14.9). -/
def lsibVal (s : State) (fed uni : Bool) (i pa : Nat) : Nat :=
  let c := pa / 8
  let n := (sibsOf s c).length
  let y := if fed then (sibsOf s c)[i]? else (if i = 0 then some { die := 0, rcnt := 0, aged := false, value := memCell s c } else none)
  let v := (y.map (fun q => q.value.toNat)).getD 0
  let d := if fed then (y.map (fun q => dotWord q n)).getD 0 else 0
  let t := if fed then tokenOf s c else 1
  if uni then v + t * 2 ^ 64 + d * 2 ^ 96 else v + d * 2 ^ 64 + t * 2 ^ 96

/-- The vector that a request carries: V_d as it stood when it left its entry slice (15 R380). -/
def Req.carries (r : Req) (s : State) : List Nat := r.out.getD (vecOf s r.vd r.die)

/-- The writer of a request's store. -/
def writerOf (s : State) (r : Req) (x : Xl) : Writer :=
  { vd := r.vd, die := r.die, vec := some (r.carries s), fed := x.fed, sibmax := sibMax s r.vd }

/-- Writes z bytes at home as accesses of at most 8 bytes (R269); the flag says that none was refused. -/
def storeHome (s : State) (w : Writer) (pa z v : Nat) : Bool × State :=
  if z ≤ 8 then writeHome s w pa z v
  else
    let a := writeHome s w pa 8 (v % 2 ^ 64)
    let b := writeHome a.2 w (pa + 8) 8 (v / 2 ^ 64)
    (a.1 && b.1, b.2)

/-- A value that an operation performed at home leaves in its bytes: it overwrites a cell's single value with the dot of the issuing die and the count it carries
(14 R344; 15 R380), and on a page that is not federated it is a plain store. -/
def setHome (s : State) (r : Req) (x : Xl) (pa z v : Nat) : State :=
  if x.fed then
    let c := pa / 8
    let h := homeOf s pa
    let vec := r.carries s
    let new := mergeBytes (memCell s c) (BitVec.ofNat 64 (v * 2 ^ (8 * (pa % 8)))) (byteMask pa z)
    afterFed (putSibs (mergeH s h.1 h.2 vec) r.vd c [{ die := r.die, rcnt := vec.getD r.die 0, aged := false, value := new }] 0) c (byteMask pa z)
  else (writeHome s (writerOf s r x) pa z v).2

/-! ### Remote copies (R258; 15 R373) -/

/-- The remote word that an entry slice holds. -/
def remoteWord (s : State) (r : Req) (w : Nat) : Option RemoteWord :=
  s.remote.find? (fun q => q.vd == r.vd && q.die == r.die && q.slice == r.slice && q.word == w)

/-- The GPA of a physical word of a translation. -/
def Xl.gpaOf (x : Xl) (w : Nat) : Nat := x.gpa + (4 * w - x.pa)

/-- Grants the words of a span to the request's entry slice: copies of them in other slices of the die are recalled, the dirty words of their cells first (15 R373). A cell comes from its home whole:
the clean words of it that the slice and the L1s of the die hold are brought up to date where they stand (11 R255, R269). -/
def grantWords (s : State) (r : Req) (x : Xl) : State :=
  let ws := spanWords r x
  let s := recallSpan s r.die (fun q => q.vd == r.vd && q.slice != r.slice) (ws.map Prod.snd)
  let short := fun (c : Nat) => ws.any (fun w => w.2 / 2 == c && (remoteWord s r w.2).isNone)
  let stale := fun (q : RemoteWord) => q.vd == r.vd && q.die == r.die && q.slice == r.slice && !q.dirty && short (q.word / 2)
  let old := (s.remote.filter stale).map RemoteWord.word
  let s := if old.isEmpty then s else l1Set s r.die (fun y => old.contains (y.pa / 4)) (fun y => { y with data := memWord s (y.pa / 4), sibs := manySibs s (y.pa / 8) })
  let s := { s with remote := s.remote.map (fun q => if stale q then { q with data := memWord s q.word, sibs := q.fed && manySibs s (q.word / 2) } else q) }
  ws.foldl (fun s w =>
    if (remoteWord s r w.2).isSome then s
    else
      { s with remote :=
        { gid := r.gid, vd := r.vd, die := r.die, slice := r.slice, word := w.2, asid := r.asid, va := 4 * w.1, gpa := x.gpaOf w.2, data := memWord s w.2, dirty := false, fed := x.fed,
          sibs := x.fed && manySibs s (w.2 / 2) } :: s.remote }) s

/-- Whether the entry slice holds every word of a span. -/
def holdsSpan (s : State) (r : Req) (x : Xl) : Bool := (spanWords r x).all (fun w => (remoteWord s r w.2).isSome)

/-- Writes a lane's bytes into the entry slice's copy, which becomes dirty and stands there under the address that wrote it; the L1 words of the die go (R257, R258), and the slice merges the
vector (15 R380). -/
def writeCopy (s : State) (r : Req) (x : Xl) (a : Access) : State :=
  let pa := x.at a.va
  let hit := fun (q : RemoteWord) => remoteOf r.vd r.die q && q.slice == r.slice && decide (pa < 4 * q.word + 4) && decide (4 * q.word < pa + r.size)
  let s := { s with remote := s.remote.map (fun q =>
    if hit q then
      let bytes := (List.range 4).map (fun i =>
        let p := 4 * q.word + i
        if pa ≤ p ∧ p < pa + r.size then BitVec.ofNat 8 (a.data / 2 ^ (8 * (p - pa))) else q.data.extractLsb' (8 * i) 8)
      { q with data := BitVec.ofNat 32 (leNat bytes), dirty := true, gid := r.gid, asid := r.asid, va := 4 * (a.va.toNat / 4) + 4 * (q.word - pa / 4), gpa := x.gpaOf q.word, fed := x.fed, sibs := false }
    else q) }
  mergeH (l1Drop s r.die (fun w => decide (pa < w.pa + 4) && decide (w.pa < pa + r.size))) r.die r.slice (r.carries s)

/-! ### Performing -/

/-- The words a load's answer brings to the L1 (R254). -/
def fillWords (r : Req) (x : Xl) (remote : Bool) (word : Nat → Word) (sibs : Nat → Bool) : List L1Word :=
  if r.op == .pref || (r.op == .load && !r.nc && !r.bypass) then
    (spanWords r x).map (fun w => { asid := r.asid, va := w.1, pa := 4 * w.2, gpa := x.gpaOf w.2, data := word w.2, remote := remote, sibs := sibs w.2 })
  else []

/-- Answers a load with what the given words hold. -/
def answerLoad (r : Req) (x : Xl) (remote : Bool) (word : Nat → Word) (sibs : Nat → Bool) : Req :=
  { r with
    stage := .reply
    results := r.lanes.map (fun a => { lane := a.lane, value := bytesFrom word (x.at a.va) r.size, p7 := none })
    fill := fillWords r x remote word sibs
    sibs := r.op == .load && (r.lanes.any (fun a => (List.range ((r.size + 3) / 4)).any (fun i => sibs (x.at a.va / 4 + i)))) }

/-- One lane of a returning atomic at home (14 R342, R344). -/
def performAtomic (r : Req) (x : Xl) (o : AtOp) (p : State × Req) (a : Access) : State × Req :=
  let s := p.1
  let pa := x.at a.va
  let old := homeBytes s pa r.size
  if x.fed && manySibs s (pa / 8) then (s, { p.2 with results := p.2.results ++ [{ lane := a.lane, value := old, p7 := some false }], sibs := true })
  else (setHome s r x pa r.size (atop o r.size old a.data a.second), { p.2 with results := p.2.results ++ [{ lane := a.lane, value := old, p7 := some true }] })

/-! ### Merged REDs (14 R346) -/

/-- Changes the accesses of which p holds. -/
def modAccesses (s : State) (p : Access → Bool) (f : Access → Access) : State :=
  { s with reqs := s.reqs.map (fun q => if q.lanes.any p then { q with lanes := q.lanes.map (fun a => if p a then f a else a) } else q) }

/-- Changes a lane of a request. -/
def modLane (s : State) (id l : Nat) (f : Access → Access) : State :=
  { s with reqs := s.reqs.map (fun q => if q.id == id then { q with lanes := q.lanes.map (fun a => if a.lane == l then f a else a) } else q) }

/-- Whether an access is carried by lane l of request id. -/
def Access.carriedBy (a : Access) (id l : Nat) : Bool := a.merge == .carried id l

/-- What a request carries of other lanes, and its own lanes that have not been performed with another one, go alone again: it has been refused whole (R346; 12 R313). -/
def splitReds (s : State) (id : Nat) : State :=
  let single := fun (a : Access) => { a with terms := [], merge := (match a.merge with
    | .done b => .done b
    | _ => .alone) }
  let s := { s with reqs := s.reqs.map (fun q => if q.id == id then { q with lanes := q.lanes.map single } else q) }
  modAccesses s (fun a => match a.merge with
    | .carried q _ => q == id
    | _ => false) (fun a => { a with merge := .alone })

/-- Whether every lane of a request that another one carries has been performed with it. -/
def carriersDone (s : State) (r : Req) : Bool :=
  r.lanes.all (fun a => match a.merge with
    | .carried q _ => q == r.id || !s.reqs.any (fun y => y.id == q)
    | _ => true)

/-- A RED that can carry a lane, or be carried: at its home, with nothing performed. -/
def redAt (r : Req) : Bool := r.stage == .home && (match r.op with
  | .red _ => true
  | _ => false)

/-- The lanes that an earlier request of the same virtual device, home, generation and operation, or the same request, can carry for a request: the carrier, its lane, the lane. -/
def redPairs (s : State) (r : Req) (x : Xl) : List (Nat × Nat × Nat) :=
  let early := s.reqs.takeWhile (fun q => q.id != r.id)
  (early ++ [r]).flatMap (fun q =>
    match q.xl with
    | some y =>
      if redAt q && q.op == r.op && q.vd == r.vd && q.home == r.home && q.gen == r.gen then
        r.lanes.flatMap (fun a => (q.lanes.filter (fun b => a.merge == .alone && b.merge == .alone && y.at b.va == x.at a.va && (q.id != r.id || decide (b.lane < a.lane)))).map
          (fun b => (q.id, b.lane, a.lane)))
      else []
    | none => [])

/-- The operands that an access brings, in the order in which they are applied. -/
def Access.operands (a : Access) : List Nat := if a.terms.isEmpty then [a.data] else a.terms

/-- The operands of two merged accesses: combined into one where each brings one, else one after the other, in either order; a free value says which (R346). -/
def joinTerms (o : AtOp) (z : Nat) (how : DWord) (a b : List Nat) : List Nat :=
  match a, b with
  | [x], [y] => if how.toNat % 3 = 0 then [atop o z x y 0] else if how.toNat % 3 = 1 then [x, y] else [y, x]
  | _, _ => if how.getLsbD 0 then a ++ b else b ++ a

/-- A router or the cluster merges a lane of a RED on its way into another; free values pick which, and how. At home the merged operands are applied as one operation, so that every tree of
combinations over them and the old value can arise (R346). -/
def mergeRed (req : Nat) (s : State) : State :=
  match findReq s req with
  | none => s
  | some r =>
    match r.op, r.xl with
    | .red o, some x =>
      if !redAt r then s
      else
        let ps := redPairs s r x
        let f := takeFree s
        let h := takeFree f.2
        (match ps[f.1.toNat % ps.length]? with
         | none => s
         | some p =>
           let give := ((r.lanes.find? (fun a => a.lane == p.2.2)).map Access.operands).getD [0]
           modLane (modLane h.2 p.1 p.2.1 (fun b => { b with terms := joinTerms o r.size h.1 b.operands give })) req p.2.2 (fun b => { b with merge := .carried p.1 p.2.1 }))
    | _, _ => s

/-- One lane of a RED at home: the operand is combined with those that it carries, whose lanes are done with it; one that another carried is done (R345, R346). -/
def performRed (r : Req) (x : Xl) (o : AtOp) (p : State × Req) (a : Access) : State × Req :=
  let s := p.1
  let pa := x.at a.va
  let no := x.fed && manySibs s (pa / 8)
  let refuse := fun (q : Req) => { q with refused := if q.refused = none then some a.va else q.refused }
  let all := fun (s : State) => setHome s r x pa r.size (a.operands.foldl (fun v t => atop o r.size v t a.second) (homeBytes s pa r.size))
  let tell := fun (s : State) => modAccesses s (fun b => b.carriedBy r.id a.lane) (fun b => { b with merge := .done no })
  match a.merge with
  | .done refused => (tell s, if refused then refuse p.2 else p.2)
  | .carried q _ =>
    if q == r.id then (tell s, if no then refuse p.2 else p.2)
    else if no then (tell s, refuse p.2)
    else (tell (all s), p.2)
  | .alone =>
    if no then (tell s, refuse p.2)
    else (tell (all s), p.2)

/-! ### The other operations -/

/-- One lane of an RCN at home (14 R362). -/
def performRcn (r : Req) (x : Xl) (p : State × Req) (a : Access) : State × Req :=
  let s := p.1
  let pa := x.at a.va
  let status := if !x.fed then 0x02000000 else if tokenOf s (pa / 8) ≠ a.second then 0x01000000 + tokenOf s (pa / 8) else 1
  (if status = 1 then setHome s r x pa r.size a.data else s, { p.2 with results := p.2.results ++ [{ lane := a.lane, value := status, p7 := none }] })

/-- One lane of a store at home; a refused one changes nothing (14 R360). -/
def performStore (r : Req) (x : Xl) (p : State × Req) (a : Access) : State × Req :=
  let o := storeHome p.1 (writerOf p.1 r x) (x.at a.va) r.size a.data
  (o.2, if o.1 then p.2 else { p.2 with refused := if p.2.refused = none then some a.va else p.2.refused })

/-- The monitors armed in a slice, and those a virtual device holds on a die; one is freed at its wake (14 R348). -/
def sliceMonitors (s : State) (h : Nat × Nat) : Nat := (s.monitors.filter (fun m => m.die == h.1 && m.slice == h.2 && m.woken.isNone)).length
def vdMonitors (s : State) (vd die : Nat) : Nat := (s.monitors.filter (fun m => m.vd == vd && m.die == die && m.woken.isNone)).length

/-- WAITA at home: its status, or an armed monitor, which a timeout of tenths of a microsecond ends (14 R347, R349). That of a
group that has been killed arms nothing (16 R409). -/
def performWaita (s : State) (r : Req) (x : Xl) (timed : Bool) (a : Access) : State :=
  let pa := x.at a.va
  let h := homeOf s pa
  let v := homeBytes s pa 4
  let done := fun reason => putReq s { r with stage := .reply, results := [{ lane := a.lane, value := v * 2 ^ 32 + reason, p7 := none }], vec := hvecOf s h.1 h.2 }
  let limit := ((findVd s r.vd).map (fun d => d.desc.monlim)).getD 1024
  if x.fed && manySibs s (pa / 8) then done reasonSiblings
  else if v ≠ a.data then done reasonMismatch
  else if timed && a.second == 0 then done reasonTimeout
  else if 16 ≤ sliceMonitors s h || limit ≤ vdMonitors s r.vd h.1 then done reasonNotArmed
  else if (findGroup s r.gid).isNone then dropReq s r.id
  else
    let s := dropReq s r.id
    { s with
      monitors := s.monitors ++ [{
        id := s.nextId, vd := r.vd, die := h.1, slice := h.2, word := pa / 4, gid := r.gid, flight := r.flight, timed := timed
        due := cycleOf s h.1 + a.second * cyclesPerUs s h.1 / 10, asid := r.asid, va := a.va.toNat, gpa := x.gpa + (a.va.toNat - x.va), vec := [], woken := none }]
      nextId := s.nextId + 1 }

/-- WAKE at home: the oldest monitor on the word, or every one (14 R350). -/
def performWake (s : State) (all : Bool) (pa : Nat) : State :=
  let on := fun (m : Monitor) => m.word == pa / 4 && m.woken == none
  match (s.monitors.filter on).head? with
  | none => s
  | some m => wakeMonitors s reasonWake (fun q => on q && (all || q.id == m.id))

/-- What an atomic-class word does at its home whatever comes of its lanes: the slice merges the vector that it carries (15 R380), and on a page that is not federated its cells keep one value (R383).
DEDUCED (log 80): a RED whose every lane is refused, and an RCN that answers STALE or NOTFED, have been performed by the slice as requests. -/
def meetAtomic (s : State) (r : Req) (x : Xl) (h : Nat × Nat) : State :=
  if atomicClass r.op then
    let s := mergeH s h.1 h.2 (r.carries s)
    if x.fed then s else r.lanes.foldl (fun s a => unfed s (x.at a.va / 8)) s
  else s

/-- Performs a request at its home slice (15 Table 15.2). The dirty words that its die holds of its cells, under whatever alias, are at home before one that bypasses the copies reads there; an
atomic-class word finds the copies of its span gone, a release store those of the words that it writes (11 R255, R258, R279; 15 R373, R374). -/
def performAt (s : State) (r : Req) (x : Xl) : State :=
  let h := homeOf s (x.at ((r.lanes.head?.map Access.va).getD 0#64))
  let remote := h.1 != r.die
  let answer := fun (p : State × Req) => putReq p.1 { p.2 with stage := .reply, vec := hvecOf p.1 h.1 h.2 }
  let start := { r with results := [], stage := .reply }
  let span := spanWords r x
  let mine := fun (q : RemoteWord) => q.vd == r.vd && span.any (fun w => w.2 / 2 == q.word / 2)
  let words := if r.op == .store then touchedWords r x else span.map Prod.snd
  let clean := fun (s : State) => if remote then writeBack s (fun q => q.die == r.die && mine q) else s
  let drop := fun (s : State) =>
    meetAtomic (if remote then l1Drop (recallSpan s r.die (fun q => q.vd == r.vd) words) r.die (fun y => words.contains (y.pa / 4)) else s) r x h
  match r.op with
  | .load | .pref =>
    if remote && !r.bypass then
      let s := grantWords s r x
      putReq s { answerLoad r x true (fun w => ((remoteWord s r w).map RemoteWord.data).getD 0#32) (fun w => ((remoteWord s r w).map RemoteWord.sibs).getD false) with vec := hvecOf s h.1 h.2 }
    else
      let s := clean s
      putReq s { answerLoad r x remote (memWord s) (fun w => x.fed && manySibs s (w / 2)) with vec := hvecOf s h.1 h.2 }
  | .ldsc =>
    let s := clean s
    answer (s, { start with results := r.lanes.map (fun a => { lane := a.lane, value := ldscVal s x.fed (x.at a.va), p7 := none }) })
  | .lsib i =>
    let s := clean s
    answer (s, { start with results := r.lanes.map (fun a => { lane := a.lane, value := lsibVal s x.fed r.uni i (x.at a.va), p7 := none }) })
  | .store =>
    if remote && !r.bypass then answer (r.lanes.foldl (fun s a => writeCopy s r x a) (grantWords s r x), start)
    else answer (r.lanes.foldl (performStore r x) (drop s, start))
  | .atomic o => answer (r.lanes.foldl (performAtomic r x o) (drop s, start))
  | .red o => answer (r.lanes.foldl (performRed r x o) (drop s, start))
  | .rcn => answer (r.lanes.foldl (performRcn r x) (drop s, start))
  | .waita timed => (match r.lanes with
    | a :: _ => performWaita (drop s) r x timed a
    | [] => s)
  | .wake all => answer (performWake (drop s) all (x.at ((r.lanes.head?.map Access.va).getD 0#64)), start)
  | .sram => s

/-- A lane's access to a device page: a front-end window acts as a host write or read; another register reads a free value, numbered n, and ignores writes
(02 R38; log 7). -/
def performDevice (r : Req) (x : Xl) (n : Nat) (p : State × Req) (a : Access) : State × Req :=
  let s := p.1
  let pa := x.at a.va
  match r.op, feTarget s pa with
  | .store, some t => (feWrite s t.1 t.2 r.size (BitVec.ofNat 64 a.data), p.2)
  | .store, none => p
  | _, some t => (s, { p.2 with results := p.2.results ++ [{ lane := a.lane, value := ((findVd s t.1).map (fun v => feRead v t.2 r.size)).getD 0, p7 := none }] })
  | _, none => (s, { p.2 with results := p.2.results ++ [{ lane := a.lane, value := (Config.deviceRead pa n).toNat % 2 ^ (8 * r.size), p7 := none }] })

/-- A request to a device page: lanes that read the same register receive the same value (11 R252, R268). -/
def performDevices (s : State) (r : Req) (x : Xl) : State :=
  let p := r.lanes.foldl (performDevice r x s.freeCtr) ({ s with freeCtr := s.freeCtr + 1 }, { r with stage := .reply, results := [] })
  putReq p.1 p.2

/-- A lane's access to pool memory, or to another package's window, whose bytes the model does not hold: a read there returns a free value, of those from n on (log 20). -/
def performFar (r : Req) (x : Xl) (n : Nat) (p : State × Req) (a : Access) : State × Req :=
  let s := p.1
  let pa := x.at a.va
  let give := fun (v : Nat) => (s, { p.2 with results := p.2.results ++ [{ lane := a.lane, value := v, p7 := none }] })
  if paKind pa == .pool then
    (match r.op with
     | .store => ({ s with mem := wrBytes s.mem pa a.data r.size }, p.2)
     | .ldsc => give (ldscVal s false pa)
     | .lsib i => give (lsibVal s false r.uni i pa)
     | _ => give (homeBytes s pa r.size))
  else
    (match r.op with
     | .store => p
     | _ => give ((Config.freeValue (n + 128 + pa % 128) ++ Config.freeValue (n + pa % 128)).toNat % 2 ^ (8 * r.size)))

/-- A request to a far address: lanes that read the same bytes receive the same value (11 R268). -/
def performFars (s : State) (r : Req) (x : Xl) : State × Req :=
  let far := paKind (x.at ((r.lanes.head?.map Access.va).getD 0#64)) != .pool && r.op != .store
  r.lanes.foldl (performFar r x s.freeCtr) (if far then { s with freeCtr := s.freeCtr + 256 } else s, { r with stage := .reply, results := [] })

/-- Whether a 64-byte block has a mismatched check that this request does not replace whole (17 R439). -/
def badBlock (s : State) (r : Req) (x : Xl) : Bool :=
  let ps := r.lanes.map (fun a => (x.at a.va, r.size))
  !(if r.op == .store then keptBlocks s ps else badBlocks s ps).isEmpty

/-- A store that covers whole blocks makes their checks afresh (17 R439). -/
def clearBlocks (s : State) (r : Req) (x : Xl) : State := if r.op == .store then freshChecks s (r.lanes.map (fun a => (x.at a.va, r.size))) else s

/-! ### Halves (11 R269) -/

/-- One 8-byte half of a 16-byte request. -/
def halfOf (r : Req) (hi : Bool) : Req :=
  { r with
    size := 8
    results := []
    lanes := r.lanes.map (fun a => { a with va := if hi then a.va + 8#64 else a.va, data := if hi then a.data / 2 ^ 64 else a.data % 2 ^ 64 }) }

/-- A 16-byte request after one of its halves, q, has been performed: the first leaves it at its home, the second answers it. -/
def joinHalf (r q : Req) : Req :=
  if r.half then
    { q with
      size := r.size
      lanes := r.lanes
      results := q.results.map (fun y => { y with value := ((r.results.find? (fun z => z.lane == y.lane)).map LaneResult.value).getD 0 + y.value * 2 ^ 64 })
      fill := r.fill.filter (fun w => !q.fill.any (fun f => f.va == w.va)) ++ q.fill
      sibs := r.sibs || q.sibs
      refused := r.refused <|> q.refused }
  else { r with half := true, results := q.results, fill := q.fill, sibs := q.sibs, refused := q.refused, vec := q.vec }

/-- Performs a request, or a half of one, at its home slice, at the pool or at the Coupler. -/
def performOnce (s : State) (r : Req) (x : Xl) : State :=
  if paKind (x.at ((r.lanes.head?.map Access.va).getD 0#64)) == .hbm then performAt s r x
  else
    let p := performFars s r x
    putReq p.1 p.2

/-- Performs a request; one of 16 bytes in two steps, between which another observer may see one half new and the other old. -/
def performReq (s : State) (r : Req) (x : Xl) : State :=
  if r.size == 16 then
    let s := performOnce (if r.half then clearBlocks s r x else s) (halfOf r r.half) x
    match findReq s r.id with
    | some q => putReq s (joinHalf r q)
    | none => s
  else performOnce (clearBlocks s r x) r x

end Sys2Proof.Machine
end

