-- ==== Sys2Proof/Machine/Slice.lean ====
section
/-! DEFINITION. Machine/Slice.lean: the steps of a request: it leaves the egress queue, reaches its entry slice, is performed at its home, and its answer
arrives; slice faults; monitors (02 R43; 11 R254-R263; 12 R291-R300, R312; 14 R347-R351; 16 R398, R399; 17 R439). -/

namespace Sys2Proof.Machine

/-! ### Egress (02 R43) -/

/-- The tokens of a virtual device on a die, none when its rate is unlimited. -/
def tokensOf (s : State) (vd die : Nat) : Option Nat :=
  (findVd s vd).bind (fun v => if v.desc.rreq = 0 then none else (v.instAt die).map Inst.tokens)

/-- Whether a request of one line can take its token: there is one. -/
def tokenReady (s : State) (vd die : Nat) : Bool :=
  match tokensOf s vd die with
  | some n => decide (0 < n)
  | none => true

/-- Takes a token. -/
def takeToken (s : State) (vd die : Nat) : State := modInstAt s vd die (fun i => { i with tokens := i.tokens - 1 })

/-- Whether a cluster's request older than an age waits for tokens of a virtual device on a die. -/
def egressOlder (s : State) (vd die age : Nat) : Bool :=
  s.reqs.any (fun r => r.vd == vd && r.die == die && r.stage == .egress && isCluster r.site && decide (r.id < age))

/-- Whether a Dray command goes on: nothing has stopped it; one of a group that stops does no more units unless it is atomic (13 R324, R325). -/
def drayMoves (s : State) (d : DrayCmd) : Bool :=
  d.fault.isNone && d.err.isNone && (d.atom || (findGroup s d.gid).any (fun g => g.status == .running || g.status == .draining))

/-- A channel of a team. -/
def Team.chan (t : Team) (ch : Nat) : Option Chan := t.chans[ch]?

/-- The team of a team's grid with a linear index, if it has been dispatched (14 R352). -/
def gridTeam (s : State) (t : Team) (lin : Nat) : Option Team :=
  s.teams.find? (fun u => u.vd == t.vd && u.kernel == t.kernel && u.launch == t.launch && u.node == t.node && u.lin == lin)

/-- Whether a fragment of a group, live or parked, stands at a word with a leader (06 R135). -/
def Group.standsAt (g : Group) (lead : Nat) (pc : DWord) : Bool :=
  g.frags.any (fun f => leader f.mask == lead && f.pc == pc) || g.stack.any (fun e => e.pmode == .arm && leader e.pmask == lead && e.ppc == pc)

/-- Whether the ring that a blocked SEND of a group waits for has a free slot (14 R354). -/
def SendWait.room (w : SendWait) (s : State) (g : Group) : Bool :=
  ((findTeam s g.team).bind (fun t => gridTeam s t w.lin)).any (fun u => u.status == .resident && (u.chan w.chan).any (fun k => decide (k.count < k.slots)))

/-- Whether the taker of a place in the queues still waits there: a SEND only once its ring has a slot. -/
def liveTicket (s : State) (t : Ticket) : Bool :=
  match t.who with
  | .send gid pc => (findGroup s gid).any (fun g => g.status == .running && g.sends.any (fun w => w.pc == pc && g.standsAt w.leader pc && w.room s g))
  | .steal vdie => (findVd s t.vd).any (fun v => (v.inst vdie).any (fun i => !i.failed))
  | .unit cmd => s.drays.any (fun d => d.id == cmd && drayMoves s d)
  | .resend req => s.reqs.any (fun r => r.id == req && r.stage == .remap)

/-- Whether a place older than an age waits in the queues of a virtual device on a die. -/
def ticketOlder (s : State) (vd die age : Nat) : Bool := s.tickets.any (fun t => t.vd == vd && t.die == die && decide (t.age < age) && liveTicket s t)

/-- A taker's place in the queues of a virtual device on a die, taken now if it has none and the rate is limited. -/
def keepPlace (s : State) (vd die : Nat) (who : Taker) : State :=
  if (tokensOf s vd die).isNone || s.tickets.any (fun t => t.vd == vd && t.die == die && t.who == who) then s
  else { s with tickets := s.tickets ++ [{ age := s.nextId, vd := vd, die := die, who := who }], nextId := s.nextId + 1 }

/-- A taker beside the clusters' requests takes k tokens, or as many as the bucket can hold, if there are so many and nobody older waits; else it keeps, or takes, its place in the
queues (R43). -/
def takeTurn (s : State) (vd die : Nat) (who : Taker) (k : Nat) : Bool × State :=
  match tokensOf s vd die with
  | none => (true, s)
  | some n =>
    let need := min k (((findVd s vd).map (fun v => v.desc.rburst)).getD 0)
    let mine := s.tickets.find? (fun t => t.vd == vd && t.die == die && t.who == who)
    let age := (mine.map Ticket.age).getD s.nextId
    if need = 0 then (true, s)
    else if need ≤ n && !egressOlder s vd die age && !ticketOlder s vd die age then
      (true, modInstAt { s with tickets := s.tickets.filter (fun t => !(t.vd == vd && t.die == die && t.who == who)) } vd die (fun i => { i with tokens := i.tokens - need }))
    else (false, keepPlace s vd die who)

/-- A taker gives up its place. -/
def dropTicket (s : State) (vd die : Nat) (who : Taker) : State := { s with tickets := s.tickets.filter (fun t => !(t.vd == vd && t.die == die && t.who == who)) }

/-- TOKEN_REFILL: the bucket gains RREQ tokens up to RBURST (R43). -/
def execTokenRefill (vd die : Nat) (s : State) : Host.Outcome State Fault Refusal :=
  .next (modVd s vd (fun v => { v with insts := v.insts.map (fun i => if i.pdie == die then { i with tokens := min (i.tokens + v.desc.rreq) v.desc.rburst } else i) }))

/-- EGRESS_RELEASE: a supervisor core's request, which takes no token, leaves; else the oldest waiting request of the clusters of a virtual device on a die takes its token and leaves its queue,
unless somebody older waits for tokens (R43). -/
def execEgressRelease (vd die : Nat) (s : State) : Host.Outcome State Fault Refusal :=
  let waits := fun (r : Req) => r.vd == vd && r.die == die && r.stage == .egress
  match s.reqs.find? (fun r => waits r && !isCluster r.site) with
  | some r => .next (moveReq s { r with stage := .entry })
  | none =>
    match leastBy Req.id (s.reqs.filter waits) with
    | none => .next s
    | some r =>
      if tokenReady s vd die && !ticketOlder s vd die r.id then .next (moveReq (takeToken s vd die) { r with stage := .entry })
      else .next s

/-! ### Flights -/

/-- A group without a word in flight: its counters are lowered, the scoreboards forget it (11 R261). -/
def Group.dropFlight (g : Group) (id : Nat) : Group :=
  let off := fun (b : Board) => { b with flights := b.flights.filter (fun i => i != id) }
  { g.lower id with
    flights := g.flights.filter (fun x => x.id != id)
    frags := g.frags.map (fun f => { f with board := off f.board })
    stack := g.stack.map (fun e => { e with pboard := off e.pboard, aboard := off e.aboard }) }

/-- Lanes of a word are accepted (16 R398). -/
def acceptLanes (s : State) (r : Req) : State := modFlight s r.gid r.flight (fun x => { x with unacc := x.unacc &&& ~~~r.mask })

/-- Whether a group stops because of an issue trap that a member of a run has raised: it has written TRAPC and left its fragment at the run's head (16 R395, R399; 04 R93). -/
def issueStopped (g : Group) (runId : Nat) : Bool :=
  (match g.status with | .stopping .trap => true | _ => false) && g.trapc != 0#64 && runId != 0 && g.frags.any (fun f => f.run == 0 && f.runId == runId)

/-- Whether a word in flight is part of the run. -/
def inRun (s : State) (gid runId : Nat) (r : Req) : Bool := r.gid == gid && (flightOf s r).any (fun x => x.runId == runId)

/-- A run of two or more words of a group is still issuing (04 R91). -/
def runIssues (g : Group) (runId : Nat) : Bool := g.status == .running && g.frags.any (fun f => f.bonded && f.runId == runId)

/-- Ends a word whose last lane is done: counters, scoreboards, then what an acquire does, then the arrivals that waited for it, unless the group stops (11 R261, R263; 14 R340, R341, R343;
15 R381). -/
def endFlight (s : State) (gid : Nat) (x : Flight) : State :=
  match findGroup s gid with
  | none => s
  | some g =>
    let s := setGroup s (g.dropFlight x.id)
    let s := if x.acquire == .package || x.acquire == .system then acquirePkg s g.vd (siteDie g.site) x.vec else s
    if g.status == .running || g.status == .draining then performArrivals s gid else s

/-- The line a request names. -/
def Req.line (r : Req) : Nat := ((r.lanes.head?.map Access.va).getD 0#64).toNat / 128

/-- Whether two requests belong to one bonded run. -/
def sameRun (s : State) (q r : Req) : Bool :=
  q.gid == r.gid && (match flightOf s q, flightOf s r with
    | some x, some y => x.runId != 0 && x.runId == y.runId
    | _, _ => false)

/-! ### Slice faults (16 R399; 04 R93) -/

/-- A slice fault stops a running or draining group; TRAPC is written when the group has settled (16 R395, R399; 17 R426). -/
def faultStop (g : Group) : Group := if g.status == .running || g.status == .draining then { g with status := .stopping .trap, trapc := 0#64 } else g

/-- A bonded run is discarded: nothing of it that has not been performed is performed, the fragment goes back to its head (04 R92, R93). -/
def dropRun (s : State) (gid runId : Nat) (head : DWord) : State :=
  modGroup { s with reqs := s.reqs.filter (fun q => !inRun s gid runId q) } gid (fun g =>
    let g1 := ((g.flights.filter (fun y => y.runId == runId)).map Flight.id).foldl Group.dropFlight g
    { g1 with frags := g1.frags.map (fun f =>
        if f.runId == runId then { f with pc := head, run := 0, runId := 0, chain := false, bonded := false, latches := noLatches, wait := .no } else f) })

/-- An access of a bonded run faults: the run is discarded; the faulting word stays, with its lanes, to be reported (04 R93). -/
def runFault (s : State) (r : Req) (x : Flight) (cause detail : BitVec 8) : State :=
  modGroup (dropRun s r.gid x.runId x.head) r.gid (fun g =>
    faultStop { g with
      flights := g.flights ++ [{ x with left := 0#32, unacc := 0#32, acquire := .none, faulted := r.lanes.map (fun a => (a.lane, cause, detail, a.va)) }] })

/-- A fragment of a group whose bonded run is still issuing, with its place. -/
def bondedFrags (g : Group) : List (Nat × Frag) := (List.range g.frags.length).filterMap (fun i => (g.frags[i]?).bind (fun f => if f.bonded then some (i, f) else none))

/-- Whether a fault of a word in flight waits: no fault suspension begins inside a bonded run (04 R91), unless the run's next member itself waits for words like it (log 53). -/
def faultWaits (s : State) (gid runId : Nat) : Bool :=
  (findGroup s gid).any (fun g => g.status == .running && (bondedFrags g).any (fun e => !memberWaits s g e.1 e.2 (e.2.runId == runId)))

/-- The runs of a group that are still issuing, but for one, go back to their heads: a fault of a word that they wait for stops the group (log 53). -/
def abandonRuns (s : State) (g : Group) (runId : Nat) : State :=
  ((bondedFrags g).filter (fun e => e.2.runId != runId)).foldl (fun s e => dropRun s g.gid e.2.runId e.2.head) s

/-- A request that its word's entry slice has accepted: it has been forwarded or performed (R398). -/
def accepted (r : Req) : Bool := r.stage == .home || r.stage == .reply || (r.stage == .remap && r.xl.isSome)

/-- Whether a request comes after another of its group by R367 or R368: it touches the same line through the same VA, or the same words through another alias, past a FENCEVA. -/
def comesAfter (s : State) (q r : Req) : Bool := (q.gid == r.gid && decide (q.order < r.order) && q.line == r.line) || aliasOrdered s q r

/-- The requests that go when some of a group do: their runs whole (04 R93), and what comes after them at an entry slice (15 R367, R368, R393). -/
def followers (s : State) : Nat → List Req → List Req
  | 0, ws => ws
  | n + 1, ws =>
    let more := s.reqs.filter (fun r => !ws.any (fun q => q.id == r.id) && !accepted r && ws.any (fun q => sameRun s q r || comesAfter s q r))
    if more.isEmpty then ws else followers s n (ws ++ more)

/-- Takes requests of a group back, with those that go with them: what they have not done is replayed, or their run is restarted whole (16 R399; 04 R93). -/
def takeBack (s : State) (ws : List Req) : State :=
  (followers s s.reqs.length ws).foldl (fun s r => match flightOf s r with
    | some x => if x.runId = 0 then dropReq s r.id else dropRun s r.gid x.runId x.head
    | none => dropReq s r.id) s

/-- A request faults: its lanes are recorded with the word (16 R399), or discarded with their run (04 R93); what comes after it and has not been accepted is taken back (15 R368, R393). A prefetch
is dropped (11 R276). -/
def faultReq (s : State) (r : Req) (cause detail : BitVec 8) : State :=
  match findGroup s r.gid, flightOf s r with
  | some g, some x =>
    let s := abandonRuns s g x.runId
    if x.runId ≠ 0 then
      if issueStopped g x.runId then
        let y := { x with left := x.left &&& ~~~r.mask, unacc := x.unacc &&& ~~~r.mask }
        let s := modFlight (dropReq s r.id) r.gid x.id (fun _ => y)
        if y.left = 0#32 then modGroup s r.gid (fun g => g.dropFlight x.id) else s
      else runFault s r x cause detail
    else
      let s := modFlight (dropReq s r.id) r.gid x.id (fun y => { y with
        unacc := y.unacc ||| r.mask
        faulted := y.faulted ++ r.lanes.map (fun a => (a.lane, cause, detail, a.va)) })
      let s := modGroup s r.gid faultStop
      takeBack s (s.reqs.filter (fun q => !accepted q && comesAfter s r q))
  | _, _ => dropReq s r.id

/-- Whether a group has faulted on the 64 KiB page of a request (16 R399). -/
def pageFaulted (g : Group) (r : Req) : Bool :=
  let page := fun (a : DWord) => a.toNat / 65536
  g.flights.any (fun x => x.faulted.any (fun e => r.lanes.any (fun a => page a.va == page e.2.2.2)))

/-! ### The entry slice -/

/-- Whether a block holds a request at its slice (12 R298). -/
def reqBlocked (s : State) (r : Req) : Bool :=
  match findVd s r.vd with
  | none => false
  | some v => blockHits s v r.die r.slice r.asid (opKind r.op) ((r.lanes.head?.map Access.va).getD 0#64)

/-- Whether an older access of a request's group to its line is behind it on the way: refused and going out again, or untranslated at an entry slice, or held there by its run; or one in another
virtual alias, before a FENCEVA, has not been performed (15 R367, R368). -/
def overtaken (s : State) (r : Req) : Bool :=
  s.reqs.any (fun q =>
    (q.gid == r.gid && decide (q.order < r.order) && q.line == r.line &&
      (q.stage == .remap || q.stage == .egress || (q.stage == .entry && (q.xl.isNone || r.xl.isSome || !sameRun s q r)))) ||
    (aliasOrdered s q r && (q.xl.isNone || r.xl.isSome || !sameRun s q r)))

/-- Whether two REDs of one operation may be on their way to one home together: a router may merge them there (14 R346). -/
def redsPass (q r : Req) : Bool := q.stage == .home && (match q.op, r.op with
  | .red a, .red b => a == b
  | _, _ => false)

/-- Whether a request must wait at its entry slice for another that the slice, or the slice that its group used before the map changed, has sent on and that touches its words; or for an older
one of its group to its line (11 R256; 15 R366, R368, R393). -/
def spanBusy (s : State) (r : Req) : Bool :=
  overtaken s r ||
  s.reqs.any (fun q => q.id != r.id && (q.stage == .home || (q.stage == .remap && q.xl.isSome)) && q.die == r.die && (q.slice == r.slice || q.gid == r.gid) && !redsPass q r && sameWords q r)

/-- The first of the requests of one cluster at one entry slice, those held there apart (11 R256): by a block, by the words of another or by an older one of their group; one that its run holds keeps
back, of the run's own, only what is forwarded. -/
def firstAtEntry (s : State) (r : Req) : Bool :=
  match s.reqs.find? (fun q => q.id == r.id || (q.stage == .entry && q.site == r.site && q.vd == r.vd && q.slice == r.slice && !overtaken s q &&
      (if q.xl.isSome then q.line == r.line && (r.xl.isSome || !sameRun s q r) else q.line == r.line || !(reqBlocked s q || spanBusy s q)))) with
  | some q => q.id == r.id
  | none => false

/-- The home of a request, as its entry slice chooses it under the map that it uses (12 R295, R312). -/
def homeFor (s : State) (r : Req) (x : Xl) : Option (Nat × Nat) :=
  let pa := x.at ((r.lanes.head?.map Access.va).getD 0#64)
  if paKind pa == .hbm then some (homeIn s pa (paDie pa != r.die || sliceNew s r.die r.slice)) else none

/-- The generation under which it has chosen it (12 R312). -/
def homeGen (s : State) (r : Req) (x : Xl) : Nat :=
  let die := paDie (x.at ((r.lanes.head?.map Access.va).getD 0#64))
  genUnder s die (die != r.die || sliceNew s r.die r.slice)

/-- Sends an accepted request on, with V_d as it stands: served from the slice's copy, or forwarded to its home, the dirty words of its span written back first where it bypasses the copy
(11 R256, R258; 14 R343; 15 R380). A request of 16 bytes is never served at once: its halves are performed apart (11 R269). -/
def forward (s : State) (r : Req) (x : Xl) : State :=
  let r := { r with xl := some x, out := some (vecOf s r.vd r.die), home := homeFor s r x, gen := homeGen s r x }
  let s := acceptLanes s r
  let pa := x.at ((r.lanes.head?.map Access.va).getD 0#64)
  let home := moveReq s { r with stage := .home }
  if x.dev || paKind pa != .hbm || paDie pa == r.die then home
  else if r.bypass then
    let here := fun (q : RemoteWord) => q.vd == r.vd && q.slice == r.slice
    let mine := fun (q : RemoteWord) => here q && q.die == r.die && (spanWords r x).any (fun w => w.2 / 2 == q.word / 2)
    moveReq (if atomicClass r.op then recallSpan s r.die here ((spanWords r x).map Prod.snd) else writeBack s mine) { r with stage := .home }
  else if r.size != 16 && holdsSpan s r x then
    match r.op with
    | .store => moveReq (r.lanes.foldl (fun s a => writeCopy s r x a) s) { r with stage := .reply }
    | _ => moveReq s (answerLoad r x true (fun w => ((remoteWord s r w).map RemoteWord.data).getD 0#32) (fun w => ((remoteWord s r w).map RemoteWord.sibs).getD false))
  else home

/-- Whether every request of a run has been translated (04 R93). -/
def runTranslated (s : State) (gid runId : Nat) : Bool :=
  s.reqs.all (fun q => !inRun s gid runId q || q.xl.isSome || q.stage == .reply)

/-- Whether the accesses of a run proceed: every one has been translated, and the run has issued, or its next member waits for one of them (04 R93; log 53). -/
def runReady (s : State) (gid runId : Nat) : Bool :=
  runTranslated s gid runId &&
  (match findGroup s gid with
   | some g => !runIssues g runId || (bondedFrags g).any (fun e => e.2.runId == runId && memberWaits s g e.1 e.2 true)
   | none => true)

/-- A request at its entry slice that no block holds: translated, then served, forwarded or refused. One of a bonded run is held until the run is ready; a fault waits for the end of a run
that is issuing (04 R91, R93). -/
def atEntry (s : State) (r : Req) : State :=
  let run := ((flightOf s r).map Flight.runId).getD 0
  let free := match findGroup s r.gid with
    | some g => run == 0 || issueStopped g run
    | none => true
  match r.xl with
  | some t => if free || runReady s r.gid run then forward s r t else s
  | none =>
    match translateReq s r with
    | .error f =>
      if r.op == .pref then dropReq s r.id
      else if faultWaits s r.gid run then s
      else faultReq s r f.cause f.detail
    | .ok p =>
      if p.1.dev && r.op == .pref then dropReq p.2 r.id
      else if free then forward p.2 r p.1
      else putReq p.2 { r with xl := some p.1 }

/-- A request that is held back at its entry slice, untranslated, since its group has faulted on its page (16 R399): it goes with its whole run, which is restarted whole (04 R93). -/
def holdBack (s : State) (r : Req) : State := takeBack s [r]

/-- SLICE_REQUEST: a request arrives at its entry slice, which refuses it with REMAP when it is not the right one under the map that it uses (11 R256; 12 R298, R312). One that arrives after its group has
faulted on its page is held back; one that the slice had already stalled walks (16 R399). -/
def execSliceRequest (req : Nat) (s : State) : Host.Outcome State Fault Refusal :=
  match findReq s req with
  | none => .next s
  | some r =>
    let va := ((r.lanes.head?.map Access.va).getD 0#64).toNat
    if r.stage != .entry || !firstAtEntry s r then .next s
    else if (findVd s r.vd).isSome && entryIn s r.vd r.die va (sliceNew s r.die r.slice) != r.slice then .next (moveReq s { r with stage := .remap, xl := none, reached := false })
    else if spanBusy s r || (reqBlocked s r && r.xl.isNone) then .next (putReq s { r with reached := true })
    else
      let held : Bool := match findGroup s r.gid with
        | some g => g.status != .running && r.xl.isNone && !r.reached && pageFaulted g r
        | none => false
      .next (if held then holdBack s r else atEntry s r)

/-- REMAP_RESEND: a refused request is rehashed and sent again as a new one, which takes a token in its turn: by its cluster, or by its entry slice when a home refused it; not before the one that
rehashes has the new map, nor before an older one of its group to its line (02 R43; 12 R312, R313; 15 R368). -/
def execRemapResend (req : Nat) (s : State) : Host.Outcome State Fault Refusal :=
  match findReq s req with
  | none => .next s
  | some r =>
    if r.stage != .remap then .next s
    else
      let s1 := { dropReq s req with nextId := s.nextId + 1 }
      match r.xl with
      | some x =>
        if homeFor s r x == r.home || overtaken s r then .next s
        else
          let t : Bool × State := if isCluster r.site then takeTurn s r.vd r.die (.resend req) 1 else (true, s)
          let u := t.2
          if !t.1 then .next u
          else
            let v := { dropReq u req with nextId := u.nextId + 1 }
            .next { v with reqs := v.reqs ++ [{ r with id := u.nextId, stage := .home, home := homeFor s r x, out := some (vecOf s r.vd r.die), gen := homeGen s r x }] }
      | none =>
        let va := ((r.lanes.head?.map Access.va).getD 0#64).toNat
        let new := siteNew s r.die r.site
        if (findVd s r.vd).isSome && entryIn s r.vd r.die va new == r.slice && !sliceNew s r.die r.slice then .next s
        else .next { s1 with reqs := s1.reqs ++ [{ r with
          id := s.nextId, stage := .egress, slice := entryIn s r.vd r.die va new, gen := genUnder s r.die new, xl := none, reached := false }] }

/-! ### The home -/

/-- The HBM channel of a line is in service (17 R440). -/
def chanHeld (s : State) (pa : Nat) : Bool := paKind pa == .hbm && s.chanService.any (fun e => e.1 == paDie pa && e.2 == pa / 2 ^ 31 % 64)

/-- The accesses of a group to device pages are performed in issue order (11 R252). -/
def deviceTurn (s : State) (r : Req) : Bool :=
  !s.reqs.any (fun q => q.gid == r.gid && decide (q.order < r.order) && q.stage != .reply && (match q.xl with
    | some y => y.dev
    | none => true))

/-- The requests of one slice to one home arrive in order (11 R256), those to device pages apart that are not their group's next. -/
def firstAtHome (s : State) (r : Req) (x : Xl) : Bool :=
  let va := fun (q : Req) => ((q.lanes.head?.map Access.va).getD 0#64)
  let home := fun (q : Req) (y : Xl) => q.home.getD (homeOf s (y.at (va q)))
  match s.reqs.find? (fun q => q.stage == .home && q.die == r.die && q.slice == r.slice && (match q.xl with
      | some y => home q y == home r x && y.dev == x.dev && (!y.dev || deviceTurn s q)
      | none => false)) with
  | some q => q.id == r.id
  | none => false

/-- HOME_PERFORM: a request is performed at its home, at the device, at the pool or at the Coupler; a failed die answers LOST, a mismatched check INTEGRITY (12 R315; 15 R365; 17 R439). A home
that has handed the line over refuses with REMAP; the new one holds it until then (12 R312, R313). -/
def execHomePerform (req : Nat) (s : State) : Host.Outcome State Fault Refusal :=
  match findReq s req with
  | none => .next s
  | some r =>
    match r.xl with
    | none => .next s
    | some x =>
      let pa := x.at ((r.lanes.head?.map Access.va).getD 0#64)
      let run := ((flightOf s r).map Flight.runId).getD 0
      let home := r.home.getD (homeOf s pa)
      if r.stage != .home || !firstAtHome s r x || chanHeld s pa || !carriersDone s r then .next s
      else if x.dev then
        if deviceTurn s r then .next (performDevices s r x) else .next s
      else if paKind pa == .hbm && home != homeOf s pa then
        .next (if home == homeIn s pa true then s else
          let s := splitReds s r.id
          match findReq s r.id with
          | some q => moveReq s { q with stage := .remap }
          | none => s)
      else if paKind pa == .hbm && s.failed.contains (paDie pa) then .next (if faultWaits s r.gid run then s else faultReq s r causeXlat2 0x23)
      else if badBlock s r x then .next (if faultWaits s r.gid run then s else faultReq s r causeIntegrity 0)
      else .next (performReq s r x)

/-- REMOTE_WRITEBACK: an entry slice evicts its copy of the line of an address, dirty words first, and the L1 words that it filled (11 R257, R258). -/
def execRemoteWriteback (die pa : Nat) (s : State) : Host.Outcome State Fault Refusal :=
  .next (recallWords s die (fun r => r.word / 32 == pa / 128))

/-! ### Answers -/

/-- Writes a lane's value to the registers of a word: 32 bits to each of a block, or 64 to each uniform register (11 R265, R266). -/
def writeLane (x : Flight) (g : Group) (r : LaneResult) : Group :=
  let g := (List.range x.dst.length).foldl (fun g i =>
    { g with v := wr g.v (x.dst.getD i 0 * 32 + r.lane) (BitVec.ofNat 32 (r.value / 2 ^ (32 * i))) }) g
  let g := (List.range x.udst.length).foldl (fun g i => sset g (x.udst.getD i 0) (BitVec.ofNat 64 (r.value / 2 ^ (64 * i)))) g
  match r.p7 with
  | some b => pset g 7 (BitVec.twoPow 32 r.lane) (if b then 0xFFFFFFFF#32 else 0#32)
  | none => g

/-- The answer of a WAITA goes to every active lane, and its fragment is no longer blocked (14 R347). -/
def writeStatus (x : Flight) (g : Group) (r : LaneResult) : Group :=
  let g := if x.dst.isEmpty then writeLane x g r else (lanesOf x.mask).foldl (fun g l => writeLane x g { r with lane := l }) g
  g.mapWaits (fun w => if w == .monitor x.id then .no else w)

/-- The bytes of an L1: what the split leaves of the 512 KiB (11 R253; 03 Table 3.2). -/
def l1Bytes (split : Nat) : Nat :=
  match split with
  | 0 => 0x10000
  | 1 => 0x20000
  | 2 => 0x40000
  | _ => 0x60000

/-- The lines that an L1 holds: address space and virtual line number. -/
def l1Lines (ws : List L1Word) : List (Nat × Nat) := (ws.map (fun w => (w.asid, w.va / 32))).eraseDups

/-- An L1 drops a line, picked by a free value. -/
def l1Evict (s : State) (site : Site) : State :=
  let f := takeFree s
  let k := clusterOf s site
  match (l1Lines k.l1)[f.1.toNat % (l1Lines k.l1).length]? with
  | some n => setCluster f.2 { k with l1 := k.l1.filter (fun w => (w.asid, w.va / 32) != n) }
  | none => s

/-- An L1 that holds more lines than it has room for drops lines until they fit. -/
def l1Fit : Nat → State → Site → State
  | 0, s, _ => s
  | n + 1, s, site =>
    let k := clusterOf s site
    if (l1Lines k.l1).length * 128 ≤ l1Bytes k.split then s else l1Fit n (l1Evict s site) site

/-- Whether a store of a cluster to a virtual word has not been performed: no older value of the word enters the L1 (15 R368). -/
def storeOut (s : State) (r : Req) (w : L1Word) : Bool :=
  s.reqs.any (fun q => q.site == r.site && q.asid == w.asid && q.op == .store && q.stage != .reply && (wordsOf q.size q.lanes).contains w.va)

/-- The words an answer brings enter the L1 of the cluster that asked (11 R253, R254). -/
def fillL1 (s : State) (r : Req) : State :=
  if r.fill.isEmpty || r.site == .smc then s
  else
    let k := clusterOf s r.site
    let new := r.fill.filter (fun w => !storeOut s r w)
    let old := k.l1.filter (fun w => !r.fill.any (fun f => f.asid == w.asid && f.va == w.va))
    l1Fit (l1Lines (new ++ old)).length (setCluster s { k with l1 := new ++ old }) r.site

/-- A word's answer writes its registers, its bits of p7 and SIBS, and records a refusal (11 R270; 14 R344, R360). -/
def answerGroup (r : Req) (x : Flight) (g : Group) : Group :=
  let g := match r.op with
    | .waita _ => r.results.foldl (writeStatus x) g
    | _ => r.results.foldl (writeLane x) g
  let g := if r.sibs then setStat g statSibs else g
  match r.refused, g.refuse with
  | some a, none => { g with refuse := some a }
  | _, _ => g

/-- A word's answer arrives (11 R261, R263). -/
def arriveReply (s : State) (r : Req) (x : Flight) : State :=
  let y := { x with left := (if r.op == .sram then 0#32 else x.left &&& ~~~r.mask), vec := if x.acquire == .none || r.vec.isEmpty then x.vec else x.vec ++ [r.vec] }
  let s := modGroup (fillL1 (dropReq s r.id) r) r.gid (fun g => { answerGroup r x g with flights := g.flights.map (fun z => if z.id == x.id then y else z) })
  if y.left = 0#32 then endFlight s r.gid y else s

/-- Whether the answer of a run's word is held until the run is ready (04 R93); scratchpad words are no accesses of that kind. -/
def runHolds (s : State) (r : Req) (x : Flight) : Bool :=
  x.runId != 0 && r.op != .sram && (match findGroup s r.gid with
    | some g => !issueStopped g x.runId && !runReady s r.gid x.runId
    | none => false)

/-- REPLY_ARRIVES: an answer reaches the cluster that asked (11 R261); one under a mismatched check faults (17 R439). -/
def execReplyArrives (req : Nat) (s : State) : Host.Outcome State Fault Refusal :=
  match findReq s req with
  | none => .next s
  | some r =>
    if r.stage != .reply then .next s
    else match flightOf s r with
      | none => .next (if r.lost then dropReq s req else fillL1 (dropReq s req) r)
      | some x => .next (
        if runHolds s r x then s
        else if r.lost then (if faultWaits s r.gid x.runId then s else faultReq s r causeIntegrity 0)
        else arriveReply s r x)

/-! ### Monitors (14 R347-R351) -/

/-- A monitor's waiter receives its status, and the monitor is free. -/
def wakeWaiter (s : State) (m : Monitor) (reason value : Nat) (vec : List Nat) : State :=
  let s := { s with monitors := s.monitors.filter (fun q => q.id != m.id) }
  match (findGroup s m.gid).bind (fun g => g.flights.find? (fun x => x.id == m.flight)) with
  | none => s
  | some x =>
    let r : LaneResult := { lane := leader x.mask, value := value * 2 ^ 32 + reason, p7 := none }
    endFlight (modGroup s m.gid (fun g => writeStatus x g r)) m.gid { x with vec := x.vec ++ [vec] }

/-- MONITOR_WAKE: the first cause that occurred wakes the waiter (R349). -/
def execMonitorWake (mon : Nat) (s : State) : Host.Outcome State Fault Refusal :=
  match s.monitors.find? (fun m => m.id == mon) with
  | none => .next s
  | some m => match m.woken with
    | none => .next s
    | some w => .next (wakeWaiter s m w.1 w.2 m.vec)

/-- WAITA_TIMEOUT: a timed monitor expires, not before its time (R349). -/
def execWaitaTimeout (mon : Nat) (s : State) : Host.Outcome State Fault Refusal :=
  match s.monitors.find? (fun m => m.id == mon) with
  | none => .next s
  | some m =>
    if m.timed && m.woken.isNone && decide (m.due ≤ cycleOf s m.die) then .next (wakeWaiter s m reasonTimeout (memWord s m.word).toNat (hvecOf s m.die m.slice)) else .next s

end Sys2Proof.Machine
end

