-- ==== Sys2Proof/Machine/Dray.lean ====
section
/-! DEFINITION. Machine/Dray.lean: the Dray's words as they issue, the units of its commands, their completion, shadow publish, DWAIT and DRAY.STAT
(13 R316-R333; 17 R435, R436). -/

namespace Sys2Proof.Machine

/-! ### Commands -/

/-- The commands of 13 Table 13.2, by fn[3:0]. -/
inductive DrayFn where
  | copy
  | copy2d
  | gather
  | scatter
  | spill
  | gcopy
  | put
  | get
  | fill
  | poolfill
  | poolcmp
  | poolred
  | pub
  deriving DecidableEq, Repr

/-- The code of a command. -/
def DrayFn.code : DrayFn → BitVec 4
  | .copy => 0x0#4
  | .copy2d => 0x1#4
  | .gather => 0x2#4
  | .scatter => 0x3#4
  | .spill => 0x4#4
  | .gcopy => 0x5#4
  | .put => 0x6#4
  | .get => 0x7#4
  | .fill => 0x8#4
  | .poolfill => 0x9#4
  | .poolcmp => 0xA#4
  | .poolred => 0xB#4
  | .pub => 0xC#4

/-- The command with a code. -/
def fnOfCode (k : BitVec 4) : DrayFn :=
  (([.copy, .copy2d, .gather, .scatter, .spill, .gcopy, .put, .get, .fill, .poolfill, .poolcmp, .poolred] : List DrayFn).find? (fun f => f.code == k)).getD .pub

/-- The argument block and the fields of the control word (Table 13.1). -/
structure DrayArgs where
  ctl : DWord
  src : DWord
  dst : DWord
  aux : DWord
  deriving DecidableEq, Repr

def DrayArgs.ofList (l : List DWord) : DrayArgs := { ctl := l.getD 0 0#64, src := l.getD 1 0#64, dst := l.getD 2 0#64, aux := l.getD 3 0#64 }
def DrayArgs.list (a : DrayArgs) : List DWord := [a.ctl, a.src, a.dst, a.aux]
def DrayArgs.len (a : DrayArgs) : Nat := (a.ctl.extractLsb' 32 32).toNat
def DrayArgs.bar (a : DrayArgs) : Nat := (a.ctl.extractLsb' 24 8).toNat
def DrayArgs.ssp (a : DrayArgs) : Bool := a.ctl.getLsbD 23
def DrayArgs.dsp (a : DrayArgs) : Bool := a.ctl.getLsbD 22
def DrayArgs.esz (a : DrayArgs) : Nat := (a.ctl.extractLsb' 20 2).toNat
def DrayArgs.param (a : DrayArgs) : Nat := (a.ctl.extractLsb' 0 20).toNat
def DrayArgs.esize (a : DrayArgs) : Nat := 2 ^ a.esz
def DrayArgs.rows (a : DrayArgs) : Nat := a.param % 65536
def DrayArgs.tile (a : DrayArgs) : Nat := a.param / 65536
def DrayArgs.row0 (a : DrayArgs) : Nat := a.param / 256 % 32
def DrayArgs.nrows (a : DrayArgs) : Nat := a.param % 64
/-- The signed strides of COPY2D; the low one is SPILL's. -/
def DrayArgs.sstride (a : DrayArgs) : Int := (a.aux.extractLsb' 32 32).toInt
def DrayArgs.dstride (a : DrayArgs) : Int := (a.aux.extractLsb' 0 32).toInt

/-- The scratchpad that a command may name: SCRATCH, and where its landings may begin. -/
structure ScrRange where
  size : Nat
  bars : Nat
  deriving DecidableEq, Repr

/-- A DRAYERR trap with a code (R318). -/
def drayTrap (code : Nat) : Trap := { cause := causeDrayerr, val := BitVec.ofNat 64 code }

/-- The far half (11 R251). -/
def farHalf (x : DWord) : Bool := x.getLsbD 56

/-- Code 0x01 (Table 13.3). DESIGN CHOICE (log 84): the bits of AUX above a 32-bit index list offset or stride count among the fields that must be zero, as those of a scratchpad operand do. -/
def badCtl (f : DrayFn) (a : DrayArgs) : Bool :=
  let aux0 := a.aux != 0#64
  let hi := fun (x : DWord) => x.extractLsb' 32 32 != 0#32
  let esz0 := a.esz != 0
  let par0 := a.param != 0
  let scr := (a.ssp && hi a.src) || (a.dsp && hi a.dst)
  scr || (match f with
    | .copy => aux0 || par0 || esz0
    | .copy2d => decide (65536 ≤ a.param) || esz0
    | .gather | .scatter => par0 || hi a.aux
    | .spill => a.ssp || esz0 || a.len != 0 || a.src != 0#64 || hi a.aux || a.param / 8192 % 8 != 0 || a.param / 64 % 4 != 0
    | .gcopy => aux0 || par0 || esz0 || a.ssp || a.dsp
    | .put => aux0 || par0 || esz0 || a.dsp
    | .get => aux0 || par0 || esz0 || a.ssp
    | .fill => aux0 || par0 || a.ssp
    | .poolfill => aux0 || par0 || a.ssp || a.dsp
    | .poolcmp => par0 || esz0 || a.ssp
    | .poolred => aux0 || a.dsp || decide (4 ≤ a.param) || decide (a.esz < 2) || (a.param == 1 && a.esz != 2)
    | .pub => a.len != 0 || a.src != 0#64 || aux0 || decide (2 ≤ a.param) || esz0 || a.ssp || a.dsp)

/-- Code 0x02. -/
def badLen (f : DrayFn) (a : DrayArgs) : Bool :=
  match f with
  | .pub => false
  | .spill => a.nrows == 0 || decide (32 < a.row0 + a.nrows)
  | .copy2d => a.len == 0 || a.rows == 0
  | .gcopy => a.len == 0 || a.len % 8 != 0
  | .fill | .poolfill => a.len == 0 || a.len % a.esize != 0
  | _ => a.len == 0

/-- Whether a scratchpad range lies outside. -/
def outside (r : ScrRange) (dest : Bool) (off : Int) (n : Nat) : Bool :=
  decide (off < (if dest then 16 * r.bars else 0 : Int)) || decide ((r.size : Int) < off + n)

/-- The bytes of the contiguous range of an element command. -/
def DrayArgs.elems (a : DrayArgs) : Nat := a.len * a.esize

/-- Code 0x03. -/
def badRange (f : DrayFn) (a : DrayArgs) (r : ScrRange) : Bool :=
  let s := (a.src.toNat : Int)
  let d := (a.dst.toNat : Int)
  let row := fun (dest : Bool) (base stride : Int) (n : Nat) (i : Nat) => outside r dest (base + i * stride) n
  match f with
  | .copy => (a.ssp && outside r false s a.len) || (a.dsp && outside r true d a.len)
  | .copy2d =>
    (a.ssp && (row false s a.sstride a.len 0 || row false s a.sstride a.len (a.rows - 1))) ||
    (a.dsp && (row true d a.dstride a.len 0 || row true d a.dstride a.len (a.rows - 1)))
  | .gather => (a.dsp && outside r true d a.elems) || outside r false a.aux.toNat (4 * a.len)
  | .scatter => (a.ssp && outside r false s a.elems) || outside r false a.aux.toNat (4 * a.len)
  | .spill => a.dsp && (row true d a.dstride 128 0 || row true d a.dstride 128 (a.nrows - 1))
  | .put => a.ssp && outside r false s a.len
  | .get | .fill => a.dsp && outside r true d a.len
  | .poolcmp => a.dsp && outside r false d a.len
  | .poolred => a.ssp && outside r false s a.elems
  | .gcopy | .poolfill | .pub => false

/-- Whether a command writes scratchpad. -/
def lands (f : DrayFn) (a : DrayArgs) : Bool :=
  match f with
  | .copy | .copy2d | .gather | .scatter | .spill | .get | .fill => a.dsp
  | .gcopy | .put | .poolfill | .poolcmp | .poolred | .pub => false

/-- Code 0x04. -/
def badBar (f : DrayFn) (a : DrayArgs) (r : ScrRange) : Bool := a.bar != 255 && (decide (r.bars ≤ a.bar) || !lands f a)

/-- Code 0x05. -/
def badAlign (f : DrayFn) (a : DrayArgs) : Bool :=
  match f with
  | .gather | .scatter => a.src.toNat % a.esize != 0 || a.dst.toNat % a.esize != 0 || a.aux.toNat % 4 != 0
  | .poolred => a.src.toNat % a.esize != 0 || a.dst.toNat % a.esize != 0
  | .fill | .poolfill => a.dst.toNat % a.esize != 0
  | .spill => a.dst.toNat % 4 != 0 || a.dstride % 4 != 0
  | .gcopy => a.src.toNat % 8 != 0 || a.dst.toNat % 8 != 0
  | .poolcmp => a.aux.toNat % 8 != 0
  | .copy | .copy2d | .put | .get | .pub => false

/-- What a command has to move, in bytes. -/
def toMove (f : DrayFn) (a : DrayArgs) : Nat :=
  match f with
  | .gather | .scatter | .poolred => a.elems
  | .copy2d => a.rows * a.len
  | .spill => 128 * a.nrows
  | .pub => 0
  | .copy | .gcopy | .put | .get | .fill | .poolfill | .poolcmp => a.len

/-- Code 0x07. -/
def badHalf (f : DrayFn) (a : DrayArgs) : Bool :=
  match f with
  | .put | .poolfill | .poolred => !farHalf a.dst
  | .get | .poolcmp => !farHalf a.src
  | .gcopy => farHalf a.src || farHalf a.dst
  | .pub => farHalf a.dst
  | .copy | .copy2d | .gather | .scatter | .spill | .fill => false

/-- The first failing check of a DRAY word (R318). -/
def drayCheck (f : DrayFn) (atom : Bool) (a : DrayArgs) (r : ScrRange) (tiles : Nat) : Option Trap :=
  if badCtl f a then some (drayTrap 1)
  else if f == .spill && decide (tiles ≤ a.tile) then some { cause := causeTile, val := BitVec.ofNat 64 a.tile }
  else if badLen f a then some (drayTrap 2)
  else if badRange f a r then some (drayTrap 3)
  else if badBar f a r then some (drayTrap 4)
  else if badAlign f a then some (drayTrap 5)
  else if atom && decide (2 ^ 20 < toMove f a) then some (drayTrap 6)
  else if badHalf f a then some (drayTrap 7)
  else none

/-- The scope of an operand (R320). -/
def operandScope (scr : Bool) (x : DWord) : Scope := if scr then .none else if farHalf x then .system else .die

/-- The wider of two scopes. -/
def widerScope (a b : Scope) : Scope := if a == .system || b == .system then .system else if a == .package || b == .package then .package else if a == .die || b == .die then .die else .none

/-- The scope at which a command's release is made before it issues (R320); PUB makes its own when it starts. -/
def drayScope (f : DrayFn) (a : DrayArgs) : Scope :=
  match f with
  | .spill | .fill | .poolfill => operandScope a.dsp a.dst
  | .gcopy | .poolcmp => widerScope (operandScope a.ssp a.src) (operandScope a.dsp a.dst)
  | .pub => .none
  | .copy | .copy2d | .gather | .scatter | .put | .get | .poolred => operandScope a.ssp a.src

/-- Whether a command has a memory source, so that its word is a release that can raise SIBLIM (14 R360). -/
def memSource (f : DrayFn) (a : DrayArgs) : Bool :=
  match f with
  | .spill | .fill | .poolfill | .pub => false
  | .gcopy | .poolcmp => true
  | .copy | .copy2d | .gather | .scatter | .put | .get | .poolred => !a.ssp

/-- Whether a command names scratchpad, and whether it names an address (R321). -/
def namesScr (f : DrayFn) (a : DrayArgs) : Bool := a.ssp || a.dsp || f == .gather || f == .scatter
def namesMem (f : DrayFn) (a : DrayArgs) : Bool :=
  match f with
  | .spill | .fill => !a.dsp
  | .copy | .copy2d | .gather | .scatter => !a.ssp || !a.dsp
  | .gcopy | .put | .get | .poolfill | .poolcmp | .poolred | .pub => true

/-! ### The word (R319) -/

/-- The id after an id: 1 to 0xFFFF, wrapping past 0. -/
def nextDrayId (x : BitVec 16) : BitVec 16 := if x + 1#16 = 0#16 then 1#16 else x + 1#16

/-- The rows of a tile that SPILL reads. -/
def spillRows (g : Group) (a : DrayArgs) : List (List Word) :=
  (List.range a.nrows).map (fun i => (List.range 32).map (fun j => tget g a.tile (a.row0 + i) j))

/-- The commands in flight in a cluster. -/
def draysAt (s : State) (site : Site) : Nat := (s.drays.filter (fun d => d.site == site)).length

/-- The uniform registers of an argument block; s0 is no register to hold (16 R398). -/
def argRegs (a : BitVec 7) : List Nat := ((List.range 4).map (fun i => a.toNat - 96 + i)).filter (fun i => i != 0)

/-- A command as it takes its slot. -/
def newDray (c : Ctx) (f : DrayFn) (atom : Bool) (a : DrayArgs) (srcs : List Nat) : DrayCmd :=
  { id := c.s.nextId, gid := c.g.gid, site := c.g.site, vd := c.g.vd, die := siteDie c.g.site, drayId := c.g.drayId, fn := f.code, atom := atom, args := a.list, pc := c.f.pc,
    mask := c.f.mask, done := 0, rows := if f == .spill then spillRows c.g a else [], sibs := false, usesS := namesScr f a, usesF := namesMem f a,
    phase := if f == .pub then .waiting else .moving, pend := [], fault := none, err := none, differ := none, target := none
    got := none, ahead := none, seq := 0, srcs := srcs, order := c.s.nextId }

/-- The counters a command raises. -/
def drayCounters (f : DrayFn) (a : DrayArgs) : List Ctr := (if namesScr f a then [.s] else []) ++ (if namesMem f a then [.f] else [])

/-- A release that raises no SIBLIM: the word has no memory source (14 R360). DEDUCED (log 97): SPILL, FILL and POOLFILL with a far destination are releases of system scope (13 R320), so C_d
increments at them, though the list of 15 R379 names DRAY words with a far source alone. -/
def quietRelease (c : Ctx) (o : Scope) (k : Ctx → Except Trap State) : Except Trap State :=
  if o == .none then k c
  else if c.g.cw.length != 0 || (o == .system && c.g.cf.length != 0) then .ok c.hold
  else if o == .die then k c
  else k { c with s := releasePkg c.s c.g.vd (siteDie c.g.site) }

/-- A group whose remainders take slots again: it runs, or drains (R325; 17 R426). -/
def resumes (g : Group) : Bool := g.status == .running || g.status == .draining

/-- Whether a cluster has a remainder that waits for a slot (R325). -/
def remaindersWait (s : State) (site : Site) : Bool := s.groups.any (fun g => g.site == site && resumes g && !g.remainders.isEmpty)

/-- A DRAY word (R316-R321). -/
def dray (i : Instr) (w : FmtX) (k : BitVec 1) (f : DrayFn) (s : State) : Host.Outcome State Fault Refusal :=
  issue i s (fun c =>
    let atom := k == 1#1
    let a : DrayArgs := { ctl := argOf c w.a 0, src := argOf c w.a 1, dst := argOf c w.a 2, aux := argOf c w.a 3 }
    let r : ScrRange := { size := scratchSize c, bars := ((teamOf c).map Team.nbars).getD 0 }
    match drayCheck f atom a r c.g.tiles with
    | some t => .error t
    | none =>
      let busy := 8 ≤ draysAt c.s c.g.site ∨ remaindersWait c.s c.g.site = true ∨ countersFull c.g (drayCounters f a) = true ∨
        (f = .spill ∧ ((List.range a.nrows).any (fun j => pendingRow c.f.board c.cycle a.tile (a.row0 + j))) = true)
      let go := fun (c : Ctx) =>
        if busy then .ok c.hold
        else
          let d := newDray c f atom a (argRegs w.a)
          let g := sset { raiseAll c.g (drayCounters f a) d.id with drayId := nextDrayId c.g.drayId } (w.d.toNat - 96) (c.g.drayId.setWidth 64)
          .ok ({ c with s := { c.s with nextId := c.s.nextId + 1, drays := c.s.drays ++ [d] }, g := g }.push .invalid).finish
      if busy then .ok c.hold
      else if memSource f a then withRelease c (drayScope f a) go
      else quietRelease c (drayScope f a) go)

/-- DRAY.COPY (R317). -/
def execDrayCopy (w : FmtX) (k : BitVec 1) (s : State) : Host.Outcome State Fault Refusal := dray (.drayCopy w k) w k .copy s
/-- DRAY.COPY2D (R317). -/
def execDrayCopy2d (w : FmtX) (k : BitVec 1) (s : State) : Host.Outcome State Fault Refusal := dray (.drayCopy2d w k) w k .copy2d s
/-- DRAY.GATHER (R317). -/
def execDrayGather (w : FmtX) (k : BitVec 1) (s : State) : Host.Outcome State Fault Refusal := dray (.drayGather w k) w k .gather s
/-- DRAY.SCATTER (R317). -/
def execDrayScatter (w : FmtX) (k : BitVec 1) (s : State) : Host.Outcome State Fault Refusal := dray (.drayScatter w k) w k .scatter s
/-- DRAY.SPILL (R317). -/
def execDraySpill (w : FmtX) (k : BitVec 1) (s : State) : Host.Outcome State Fault Refusal := dray (.draySpill w k) w k .spill s
/-- DRAY.GCOPY (R317, R323). -/
def execDrayGcopy (w : FmtX) (k : BitVec 1) (s : State) : Host.Outcome State Fault Refusal := dray (.drayGcopy w k) w k .gcopy s
/-- DRAY.PUT (R317; 17 R435). -/
def execDrayPut (w : FmtX) (k : BitVec 1) (s : State) : Host.Outcome State Fault Refusal := dray (.drayPut w k) w k .put s
/-- DRAY.GET (R317). -/
def execDrayGet (w : FmtX) (k : BitVec 1) (s : State) : Host.Outcome State Fault Refusal := dray (.drayGet w k) w k .get s
/-- DRAY.FILL (R317). -/
def execDrayFill (w : FmtX) (k : BitVec 1) (s : State) : Host.Outcome State Fault Refusal := dray (.drayFill w k) w k .fill s
/-- DRAY.POOLFILL (R317, R332). -/
def execDrayPoolfill (w : FmtX) (k : BitVec 1) (s : State) : Host.Outcome State Fault Refusal := dray (.drayPoolfill w k) w k .poolfill s
/-- DRAY.POOLCMP (R317, R332). -/
def execDrayPoolcmp (w : FmtX) (k : BitVec 1) (s : State) : Host.Outcome State Fault Refusal := dray (.drayPoolcmp w k) w k .poolcmp s
/-- DRAY.POOLRED (R317, R332, R333). -/
def execDrayPoolred (w : FmtX) (k : BitVec 1) (s : State) : Host.Outcome State Fault Refusal := dray (.drayPoolred w k) w k .poolred s
/-- DRAY.PUB (R329). -/
def execDrayPub (w : FmtX) (k : BitVec 1) (s : State) : Host.Outcome State Fault Refusal := dray (.drayPub w k) w k .pub s

/-! ### Memory and scratchpad as a unit sees them (R322, R323) -/

/-- What keeps a unit from being done: it cannot be done now; a translation or integrity fault; a run-time failure; a mismatched check in what a PUT reads at a physical address (17 R439). -/
inductive UnitStop where
  | stall
  | fault (cause detail : BitVec 8) (va : DWord)
  | err (e : DrayErr)
  | lost (pa : Nat)
  deriving DecidableEq, Repr

/-- The translation of a command's access by its entry slice (R323). -/
def drayXl (s : State) (d : DrayCmd) (kind : AccKind) (n : Nat) (va : DWord) : Except UnitStop (Xl × State) :=
  match findGroup s d.gid, findVd s d.vd with
  | some g, some v =>
    let slice := entrySlice s d.vd d.die va.toNat
    if blockHits s v d.die slice (asidOf s g) kind va then .error .stall
    else match translate s v d.die g.vdie slice (asidOf s g) (g.level == .u) kind n va with
      | .error f => .error (.fault f.cause f.detail va)
      | .ok p => .ok p
  | _, _ => .error .stall

/-- Whether an access finds its frame: the kind of frame the command needs, a home that has not failed, a channel not in service. -/
def frameStop (s : State) (want : Option PaKind) (va : DWord) (pa : Nat) : Option UnitStop :=
  if want.any (fun k => k != paKind pa) then some (.err .space)
  else if paKind pa == .hbm && s.failed.contains (paDie pa) then some (.fault causeXlat2 0x23#8 va)
  else if chanHeld s pa then some .stall
  else none

/-- A mismatched check that a command meets: INTEGRITY in HBM (17 R439); DEVICE in the pool (17 R438). -/
def mismatch (va : DWord) (pa : Nat) : UnitStop := if paKind pa == .pool then .err .device else .fault causeIntegrity 0#8 va

/-- n bytes of free value (log 20). -/
def freeBytes : Nat → Nat → List (BitVec 8)
  | _, 0 => []
  | k, n + 1 => (Config.freeValue k).setWidth 8 :: freeBytes (k + 1) n

/-- Reads bytes within one page: at home, after the write-back of the slice's dirty words of the span (R323; 11 R258). The flag says whether a cell held
siblings. -/
def readPiece (s : State) (d : DrayCmd) (want : Option PaKind) (va : DWord) (n : Nat) : Except UnitStop (List (BitVec 8) × Bool × State) :=
  match drayXl s d .drayRead n va with
  | .error e => .error e
  | .ok (x, s) =>
    let pa := x.at va
    match frameStop s want va pa with
    | some e => .error e
    | none =>
      if x.dev then
        match feTarget s pa with
        | some t => .ok (leBytes (((findVd s t.1).map (fun v => feRead v t.2 n)).getD 0) n, false, s)
        | none => .ok (leBytes (Config.deviceRead pa s.freeCtr).toNat n, false, { s with freeCtr := s.freeCtr + 1 })
      else if paKind pa == .coupler then .ok (freeBytes s.freeCtr n, false, { s with freeCtr := s.freeCtr + n })
      else if !(badBlocks s [(pa, n)]).isEmpty then .error (if d.fn == DrayFn.code .put then .lost pa else mismatch va pa)
      else
        let s := writeBack s (fun r => remoteOf d.vd d.die r && decide (pa / 8 ≤ r.word / 2) && decide (8 * (r.word / 2) < pa + n))
        .ok (rdList s.mem pa n, x.fed && (List.range ((pa % 8 + n + 7) / 8)).any (fun i => manySibs s (pa / 8 + i)), s)

/-- Reads a range, page by page. -/
def readRange (d : DrayCmd) (want : Option PaKind) : Nat → State → DWord → Nat → Except UnitStop (List (BitVec 8) × Bool × State)
  | 0, s, _, _ => .ok ([], false, s)
  | f + 1, s, va, n =>
    if n = 0 then .ok ([], false, s)
    else
      let k := min n (65536 - va.toNat % 65536)
      match readPiece s d want va k with
      | .error e => .error e
      | .ok (b, sib, s) => match readRange d want f s (va + BitVec.ofNat 64 k) (n - k) with
        | .error e => .error e
        | .ok (c, sib', s) => .ok (b ++ c, sib || sib', s)

/-- Writes the bytes of a piece cell by cell, each a store of the issuing die (R323). -/
def writeCells (d : DrayCmd) (x : Xl) (va : DWord) : Nat → State → Nat → List (BitVec 8) → State
  | 0, s, _, _ => s
  | f + 1, s, pa, bs =>
    if bs.isEmpty then s
    else
      let k := min bs.length (8 - pa % 8)
      let o := writeCell s { vd := d.vd, die := d.die, vec := some (vecOf s d.vd d.die), fed := x.fed, sibmax := sibMax s d.vd } (pa / 8) (byteMask pa k)
        (BitVec.ofNat 64 (leNat (bs.take k) * 2 ^ (8 * (pa % 8))))
      writeCells d x (va + BitVec.ofNat 64 k) f (if o.1 then o.2 else noteRefusal o.2 d.gid va) (pa + k) (bs.drop k)

/-- Writes bytes within one page, at home (R323). -/
def writePiece (s : State) (d : DrayCmd) (want : Option PaKind) (va : DWord) (bs : List (BitVec 8)) : Except UnitStop State :=
  let n := bs.length
  match drayXl s d .drayWrite n va with
  | .error e => .error e
  | .ok (x, s) =>
    let pa := x.at va
    match frameStop s want va pa with
    | some e => .error e
    | none =>
      if x.dev then
        match feTarget s pa with
        | some t => .ok (feWrite s t.1 t.2 n (BitVec.ofNat 64 (leNat bs)))
        | none => .ok s
      else if paKind pa == .coupler then .ok s
      else
        if !(keptBlocks s [(pa, n)]).isEmpty then .error (mismatch va pa)
        else
          let s := freshChecks s [(pa, n)]
          if paKind pa == .pool then .ok { s with mem := wrList s.mem pa bs } else .ok (writeCells d x va (n + 1) s pa bs)

/-- Writes a range, page by page. -/
def writeRange (d : DrayCmd) (want : Option PaKind) : Nat → State → DWord → List (BitVec 8) → Except UnitStop State
  | 0, s, _, _ => .ok s
  | f + 1, s, va, bs =>
    if bs.isEmpty then .ok s
    else
      let k := min bs.length (65536 - va.toNat % 65536)
      match writePiece s d want va (bs.take k) with
      | .error e => .error e
      | .ok s => writeRange d want f s (va + BitVec.ofNat 64 k) (bs.drop k)

/-- Where an operand lies: a scratchpad offset, or an address. -/
inductive Place where
  | scr (off : Int)
  | mem (va : DWord)
  deriving DecidableEq, Repr

/-- An operand some bytes further on. -/
def Place.plus (p : Place) (n : Int) : Place :=
  match p with
  | .scr o => .scr (o + n)
  | .mem va => .mem (va + BitVec.ofInt 64 n)

/-- An operand of a command. -/
def placeOf (scr : Bool) (x : DWord) : Place := if scr then .scr x.toNat else .mem x

/-- The address within its 128-byte line, for cutting units. -/
def Place.offset (p : Place) : Nat :=
  match p with
  | .scr o => (o % 128).toNat
  | .mem va => va.toNat % 128

/-- The team of a command's group. -/
def drayTeam (s : State) (d : DrayCmd) : Option Team := (findGroup s d.gid).bind (fun g => findTeam s g.team)

/-- Reads an operand. -/
def readPlace (s : State) (d : DrayCmd) (want : Option PaKind) (p : Place) (n : Nat) : Except UnitStop (List (BitVec 8) × Bool × State) :=
  match p with
  | .mem va => readRange d want (n + 1) s va n
  | .scr o => .ok (rdList (clusterOf s d.site).sram (((drayTeam s d).map Team.block).getD 0 + o.toNat) n, false, s)

/-- An address or offset as 64 bits. -/
def Place.key (p : Place) : DWord :=
  match p with
  | .scr o => BitVec.ofInt 64 o
  | .mem va => va

/-- The rest of the aligned 8 bytes that a source's bytes end in, as it stands now. -/
def restOf (s : State) (d : DrayCmd) (want : Option PaKind) (p : Place) : List (BitVec 8) :=
  let m := (8 - p.key.toNat % 8) % 8
  match p with
  | .mem va => (match drayXl s d .drayRead 8 va with
    | .ok (x, _) => if x.dev || want == some .coupler || paKind (x.at va) == .coupler then [] else rdList s.mem (x.at va) m
    | .error _ => [])
  | .scr _ => match readPlace s d want p m with
    | .ok (bs, _, _) => bs
    | .error _ => []

/-- Reads a source so that each aligned 8 bytes of it are read at one moment: those that the unit before ended in come from what was read then, and the rest of those that this one ends in is kept
(R323). The last component is what is kept, with its address. -/
def readSource (s : State) (d : DrayCmd) (want : Option PaKind) (p : Place) (n : Nat) : Except UnitStop (List (BitVec 8) × Bool × State × Option (DWord × List (BitVec 8))) :=
  let have_ := match d.ahead with
    | some (k, bs) => if k = p.key then bs else []
    | none => []
  let front := have_.take n
  match readPlace s d want (p.plus front.length) (n - front.length) with
  | .error e => .error e
  | .ok (bs, sib, s) =>
    let rest := if n ≤ have_.length then have_.drop n else restOf s d want (p.plus n)
    .ok (front ++ bs, sib, s, if rest.isEmpty then none else some ((p.plus n).key, rest))

/-- Writes an operand; bytes that land in scratchpad are credited (R322). -/
def writePlace (s : State) (d : DrayCmd) (want : Option PaKind) (p : Place) (bs : List (BitVec 8)) : Except UnitStop State :=
  match p with
  | .mem va => writeRange d want (bs.length + 1) s va bs
  | .scr o =>
    match drayTeam s d with
    | none => .ok s
    | some t =>
      let k := clusterOf s d.site
      let s := setCluster s { k with sram := wrList k.sram (t.block + o.toNat) bs }
      let bar := (DrayArgs.ofList d.args).bar
      .ok (if bar = 255 then s else creditBar s t.tid bar bs.length)

/-- The lines that an operand's bytes touch outside scratchpad: each request takes a token (02 R43). -/
def Place.lines (p : Place) (n : Nat) : Nat :=
  match p with
  | .scr _ => 0
  | .mem va => (va.toNat % 128 + n + 127) / 128

/-! ### Units (R322-R325) -/

/-- What a unit moves: how far DONE advances, its source and destination, its bytes. -/
structure Move where
  step : Nat
  src : Place
  dst : Place
  n : Nat
  deriving DecidableEq, Repr

/-- What DONE counts to: bytes, elements, or SPILL rows. COPY2D counts the bytes of its rows (log 31). -/
def drayTotal (f : DrayFn) (a : DrayArgs) : Nat :=
  match f with
  | .copy2d => a.rows * a.len
  | .spill => a.nrows
  | .pub => 0
  | _ => a.len

/-- A scratchpad index. -/
def indexAt (s : State) (d : DrayCmd) (a : DrayArgs) (i : Nat) : Nat :=
  rdBytes (clusterOf s d.site).sram (((drayTeam s d).map Team.block).getD 0 + a.aux.toNat + 4 * i) 4

/-- The next unit of a command: 128 bytes of destination, one element, or one row. -/
def nextMove (s : State) (d : DrayCmd) (f : DrayFn) (a : DrayArgs) : Move :=
  let src := placeOf a.ssp a.src
  let dst := placeOf a.dsp a.dst
  let e := a.esize
  let cut := fun (p : Place) (left : Nat) => min left (128 - p.offset)
  match f with
  | .copy2d =>
    let row := d.done / a.len
    let o := d.done % a.len
    let p := (dst.plus (row * a.dstride)).plus o
    let n := cut p (a.len - o)
    { step := n, src := (src.plus (row * a.sstride)).plus o, dst := p, n := n }
  | .gather => { step := 1, src := src.plus (indexAt s d a d.done * e), dst := dst.plus (d.done * e), n := e }
  | .scatter => { step := 1, src := src.plus (d.done * e), dst := dst.plus (indexAt s d a d.done * e), n := e }
  | .poolred => { step := 1, src := src.plus (d.done * e), dst := dst.plus (d.done * e), n := e }
  | .spill => { step := 1, src := .scr 0, dst := dst.plus (d.done * a.dstride), n := 128 }
  | .fill | .poolfill =>
    let p := dst.plus d.done
    let n := cut p (a.len - d.done)
    { step := n, src := .scr 0, dst := p, n := n }
  | _ =>
    let p := dst.plus d.done
    let n := cut p (a.len - d.done)
    { step := n, src := src.plus d.done, dst := p, n := n }

/-- The scratchpad elements of GATHER and SCATTER stay inside SCRATCH, and out of the barrier area (Table 13.3, INDEX). -/
def badIndex (s : State) (d : DrayCmd) (f : DrayFn) (m : Move) : Bool :=
  let r : ScrRange := { size := ((drayTeam s d).map Team.scratch).getD 0, bars := ((drayTeam s d).map Team.nbars).getD 0 }
  match f, m.src, m.dst with
  | .gather, .scr o, _ => outside r false o m.n
  | .scatter, _, .scr o => outside r true o m.n
  | _, _, _ => false

/-- The bytes of a fill pattern from a position on. -/
def patternBytes (x : DWord) (e pos n : Nat) : List (BitVec 8) := (List.range n).map (fun j => BitVec.ofNat 8 (x.toNat / 2 ^ (8 * ((pos + j) % e))))

/-- The first place where two byte lists differ. -/
def firstDiff : List (BitVec 8) → List (BitVec 8) → Option Nat
  | x :: xs, y :: ys => if x = y then (firstDiff xs ys).map (· + 1) else some 0
  | _, _ => none

/-- Op of POOLRED on an element (R332). -/
def poolOp (rop e old b : Nat) : Nat :=
  if e = 4 then (atop32 (match rop with | 0 => .add | 1 => .fadd | 2 => .min | _ => .max) (BitVec.ofNat 32 old) (BitVec.ofNat 32 b) 0#32).toNat
  else
    let x := BitVec.ofNat 64 old
    let y := BitVec.ofNat 64 b
    (match rop with
      | 0 => x + y
      | 2 => if x.toInt ≤ y.toInt then x else y
      | _ => if x.toInt ≤ y.toInt then y else x).toNat

/-- Whether a Coupler address reaches an open path of the virtual device (17 R435, R436). -/
def pathOpen (s : State) (vd pa : Nat) : Bool := s.paths.any (fun p => p.vd == vd && p.isOpen && p.pkg == pa / 2 ^ 40 % 128 && p.win == pa / 2 ^ 32 % 256)

/-- The window of a PUT or GET must be open (Table 13.3, ABORT). -/
def windowStop (s : State) (d : DrayCmd) (kind : AccKind) (p : Place) : Option UnitStop :=
  match p with
  | .scr _ => none
  | .mem va => match drayXl s d kind 8 va with
    | .error e => some e
    | .ok (x, _) => if paKind (x.at va) == .coupler && !pathOpen s d.vd (x.at va) then some (.err .abort) else none

/-- One cell of GCOPY: its whole state goes to the destination, in one step at each home (R323). One for whose siblings there is no entry is refused (14 R360). -/
def gcopyCell (s : State) (d : DrayCmd) (src dst : DWord) : Except UnitStop State :=
  match drayXl s d .drayRead 8 src with
  | .error e => .error e
  | .ok (x, s) => match drayXl s d .drayWrite 8 dst with
    | .error e => .error e
    | .ok (y, s) =>
      let p := x.at src
      let q := y.at dst
      if !x.fed || !y.fed then .error (.err .space)
      else match frameStop s none src p, frameStop s none dst q with
        | some e, _ => .error e
        | _, some e => .error e
        | none, none =>
          if s.integrity.contains (p / 64) then .error (.fault causeIntegrity 0#8 src)
          else if s.integrity.contains (q / 64) then .error (.fault causeIntegrity 0#8 dst)
          else
            let s := writeBack s (fun r => remoteOf d.vd d.die r && r.word / 2 == p / 8)
            let h := homeOf s q
            let merged := fun (s : State) => mergeH s h.1 h.2 (vecOf s d.vd d.die)
            match s.fed.find? (fun f => f.cell == p / 8) with
            | none => .ok (afterWrite (putCell (unfed (merged s) (q / 8)) (q / 8) (memCell s (p / 8))) (q / 8) 0xFF#8)
            | some f =>
              (match (if f.extra then takeEntry s (q / 8) else some s) with
               | some t => .ok (afterWrite (putSibs (merged t) d.vd (q / 8) f.sibs f.stamp) (q / 8) 0xFF#8)
               | none => .ok (noteRefusal s d.gid dst))

/-- Some cells of GCOPY. -/
def gcopyCells (d : DrayCmd) : Nat → State → DWord → DWord → Except UnitStop State
  | 0, s, _, _ => .ok s
  | n + 1, s, a, b => match gcopyCell s d a b with
    | .error e => .error e
    | .ok s => gcopyCells d n s (a + 8#64) (b + 8#64)

/-- What a unit leaves: the state, whether siblings were read, what POOLCMP has found, and what has been read ahead of the source. -/
structure UnitDone where
  s : State
  sib : Bool := false
  differ : Option Nat := none
  ahead : Option (DWord × List (BitVec 8)) := none

/-- Does one unit. -/
def doUnit (s : State) (d : DrayCmd) (f : DrayFn) (a : DrayArgs) (m : Move) : Except UnitStop UnitDone :=
  let copy := fun (rw ww : Option PaKind) =>
    match readSource s d rw m.src m.n with
    | .error e => .error e
    | .ok (bs, sib, s, ahead) => match writePlace s d ww m.dst bs with
      | .error e => .error e
      | .ok s => .ok { s := s, sib := sib, differ := d.differ, ahead := ahead }
  let put := fun (w : Option PaKind) (bs : List (BitVec 8)) =>
    match writePlace s d w m.dst bs with
    | .error e => .error e
    | .ok s => .ok { s := s, differ := d.differ }
  match f with
  | .copy | .copy2d | .gather | .scatter => if badIndex s d f m then .error (.err .index) else copy none none
  | .put => (match windowStop s d .drayWrite m.dst with
    | some e => .error e
    | none => copy none (some .coupler))
  | .get => (match windowStop s d .drayRead m.src with
    | some e => .error e
    | none => copy (some .coupler) none)
  | .spill => put none ((d.rows.getD d.done []).flatMap (fun w => leBytes w.toNat 4))
  | .fill => put none (patternBytes a.src a.esize d.done m.n)
  | .poolfill => put (some .pool) (patternBytes a.src a.esize d.done m.n)
  | .gcopy =>
    (match m.src, m.dst with
     | .mem p, .mem q => (match gcopyCells d (m.n / 8) s p q with
       | .error e => .error e
       | .ok s => .ok { s := s })
     | _, _ => .error (.err .space))
  | .poolcmp =>
    (match readSource s d (some .pool) m.src m.n with
     | .error e => .error e
     | .ok (x, sx, s, ahead) => match readPlace s d none m.dst m.n with
       | .error e => .error e
       | .ok (y, sy, s) =>
         let found := match d.differ with
           | some i => some i
           | none => (firstDiff x y).map (· + d.done)
         if d.done + m.step < a.len then .ok { s := s, sib := sx || sy, differ := found, ahead := ahead }
         else match writeRange d none 9 s a.aux (leBytes (found.getD (2 ^ 64 - 1)) 8) with
           | .error e => .error e
           | .ok s => .ok { s := s, sib := sx || sy, differ := found })
  | .poolred =>
    (match readSource s d none m.src m.n with
     | .error e => .error e
     | .ok (b, sib, s, ahead) => match readPlace s d (some .pool) m.dst m.n with
       | .error e => .error e
       | .ok (old, _, s) => match writePlace s d (some .pool) m.dst (leBytes (poolOp a.param m.n (leNat old) (leNat b)) m.n) with
         | .error e => .error e
         | .ok s => .ok { s := s, sib := sib, ahead := ahead })
  | .pub => .error .stall

/-- Replaces a command's record. -/
def putDray (s : State) (d : DrayCmd) : State := { s with drays := s.drays.map (fun c => if c.id == d.id then d else c) }

/-- Whether the element of a POOLRED is updated near memory, in one step: its message goes to a device that takes far-operation messages (R332; log 61). POOLFILL and POOLCMP have the same
outcomes on either path (R333). -/
def nearPool (s : State) (d : DrayCmd) (p : Place) : Bool :=
  s.poolFarOps || (match p with
    | .mem va => (match drayXl s d .drayRead 4 va with
      | .ok (x, _) => Config.farOps (x.at va / 65536)
      | .error _ => false)
    | .scr _ => false)

/-- The two halves of an element of POOLRED on the emulated path: the Dray reads and computes, then it writes (R333). The bytes answered are those still to be written. -/
def emulated (s : State) (d : DrayCmd) (a : DrayArgs) (m : Move) : Except UnitStop (UnitDone × Option (List (BitVec 8))) :=
  match d.got with
  | some new => (match writePlace s d (some .pool) m.dst new with
    | .error e => .error e
    | .ok s => .ok ({ s := s, ahead := d.ahead }, none))
  | none => (match readSource s d none m.src m.n with
    | .error e => .error e
    | .ok (b, sib, s, ahead) => match readPlace s d (some .pool) m.dst m.n with
      | .error e => .error e
      | .ok (old, _, s) => .ok ({ s := s, sib := sib, ahead := ahead }, some (leBytes (poolOp a.param m.n (leNat old) (leNat b)) m.n)))

/-- The lines that the next unit of a command names, each of which takes a token (02 R43): POOLCMP's last has its result too, the halves of an emulated POOLRED element its destination twice. -/
def unitLines (s : State) (d : DrayCmd) (f : DrayFn) (a : DrayArgs) (m : Move) : Nat :=
  match f with
  | .poolcmp => m.src.lines m.n + m.dst.lines m.n + (if d.done + m.step < a.len then 0 else 1)
  | .poolred => if nearPool s d m.dst || d.got.isNone then m.src.lines m.n + m.dst.lines m.n else m.dst.lines m.n
  | _ => m.src.lines m.n + m.dst.lines m.n

/-- A command whose scratchpad part is done lowers S (R321). -/
def lowerS (s : State) (d : DrayCmd) : State :=
  modGroup s d.gid (fun g => { g with cs := markDone g.cs d.id })

/-! ### Publish (R328, R329) -/

/-- The buffer that an address lies in: the GPA of its record, its base and its size; none when its page is not publishable. DESIGN CHOICE (log 83): DST is walked as a Dray write, so its page
needs W, though R329 names no permission. -/
def publishBuffer (s : State) (d : DrayCmd) (va : DWord) : Except UnitStop (Option (Nat × Nat × Nat)) :=
  match findGroup s d.gid, findVd s d.vd with
  | some g, some v =>
    let fault := fun (f : XFault) => UnitStop.fault f.cause f.detail va
    if !canonical va then .error (fault (xlat1 0x01))
    else match leafOf s v g.vdie (asidOf s g) va.toNat with
      | .error f => .error (fault f)
      | .ok l =>
        if !l.e.getLsbD 49 then .ok none
        else match walk s v g.vdie (asidOf s g) (g.level == .u) .drayWrite 8 (va &&& ~~~7#64) with
          | .error f => .error (fault f)
          | .ok _ => match guestEntry s v (addrOf l.e + 0x18), guestEntry s v (addrOf l.e + 0x20) with
            | .ok b, .ok n => .ok (some (addrOf l.e, b.toNat, n.toNat))
            | .error f, _ => .error (fault f)
            | _, .error f => .error (fault f)
  | _, _ => .error .stall

/-- The slices of a PUB's scope: those of its die, or of every die of the virtual device that has not failed (R329). -/
def pubSlices (s : State) (d : DrayCmd) (pkg : Bool) : List (Nat × Nat) :=
  match findVd s d.vd with
  | none => []
  | some v =>
    (v.desc.dies.filter (fun e => (pkg || e.pdie == d.die) && v.liveDies.contains e.pdie)).flatMap (fun e =>
      ((List.range 64).filter (fun i => (vdSlices s v e.pdie).getLsbD i)).map (fun i => (e.pdie, i)))

/-- Two commands swap the same record: the other one runs, or reached the home before. -/
def sameBuffer (s : State) (d : DrayCmd) (rec : Nat) (c : DrayCmd) : Bool :=
  c.id != d.id && c.vd == d.vd && fnOfCode c.fn == .pub && c.fault.isNone &&
  (c.phase == .blocking || (c.phase == .moving && (decide (c.seq < d.seq) || (c.seq == d.seq && decide (c.id < d.id))))) &&
  (match publishBuffer s c (DrayArgs.ofList c.args).dst with
    | .ok (some b) => b.1 == rec
    | _ => false)

/-- A command meets a translation, permission or integrity fault: its group stops, once no bonded run is in the way (R324; 04 R91). -/
def drayFault (s : State) (d : DrayCmd) (c e : BitVec 8) (va : DWord) : State :=
  match findGroup s d.gid with
  | none => s
  | some g => if faultWaits s d.gid 0 then s else modGroup (putDray (abandonRuns s g 0) { d with fault := some (c, e, va) }) d.gid faultStop

/-- What becomes of a command whose unit has met something. -/
def stopUnit (s : State) (d : DrayCmd) : UnitStop → State
  | .stall => s
  | .fault c e va => drayFault s d c e va
  | .err e => putDray s { d with err := some e }
  | .lost pa => putDray (postIntegrity s d.vd pa) { d with err := some .device }

/-- A PUB starts: earlier commands of the group are complete, its release is made; at package scope its Relay message takes a sequence number. Then it waits at the record's home
while another PUB of the record runs (R329; 16 R416). -/
def startPub (s : State) (d : DrayCmd) (a : DrayArgs) : State :=
  let waits := s.drays.any (fun c => c.gid == d.gid && decide (c.id < d.id)) || (findGroup s d.gid).any (fun g => !g.cw.isEmpty)
  if d.phase == .waiting && waits then s
  else match publishBuffer s d a.dst with
    | .error (.err e) => putDray s { d with err := some e, phase := .finished, srcs := [] }
    | .error e => stopUnit s d e
    | .ok none => putDray s { d with err := some .space, phase := .finished, srcs := [] }
    | .ok (some b) =>
      let pkg := a.param == 1
      if d.phase == .waiting then
        let s := if pkg then modVd (releasePkg s d.vd d.die) d.vd (fun v => { v with relaySeq := v.relaySeq + 1 }) else s
        putDray s { d with phase := .moving, srcs := [], seq := ((findVd s d.vd).map Vd.relaySeq).getD 0 - 1 }
      else if s.drays.any (sameBuffer s d b.1) then s
      else putDray s { d with phase := .blocking, pend := pubSlices s d pkg }

/-- Whether a translation of an address space lies in an operation's range. -/
def rangeHits (stage2 : Bool) (asid : Option Nat) (base len a : Nat) (x : Xl) : Bool :=
  if stage2 then decide (base < x.gpa + x.size) && decide (x.gpa < base + len)
  else (asid == none || asid == some a) && decide (base < x.va + x.size) && decide (x.va < base + len)

/-- Whether what a block holds at a slice of a die goes on without the request of another slice: a PURGE has still to take effect there, and nothing that the slice holds translated keeps it from
that (12 R299, R300). -/
def purgeSoon (s : State) (r : Req) (slice : Nat) : Bool :=
  slice != r.slice && s.shoots.any (fun o => o.purge && o.vd == r.vd && o.pend.contains (r.die, slice)) &&
  !s.reqs.any (fun q => q.vd == r.vd && q.die == r.die && q.slice == slice && q.stage == .entry && q.xl.isSome)

/-- Whether a block keeps the run of a held request from being complete: an access of the run, or an older one of its group that comes before one, is stalled, or the fetch of its next member is,
and the stall may not end before the request has been answered (log 53). -/
def stuckRun (s : State) (r : Req) : Bool :=
  match findGroup s r.gid, flightOf s r with
  | some g, some x => x.runId != 0 &&
    (s.reqs.any (fun q => q.gid == r.gid && q.stage == .entry && q.xl.isNone && reqBlocked s q && !purgeSoon s r q.slice &&
       s.reqs.any (fun y => inRun s r.gid x.runId y && (y.line == q.line || aliasOrdered s q y))) ||
     g.frags.any (fun f => f.bonded && f.runId == x.runId && fetchStalls s g f.pc && !purgeSoon s r (entrySlice s g.vd (siteDie g.site) f.pc.toNat)))
  | _, _ => false

/-- Whether a request that a slice has translated is still out: forwarded and not answered, refused by its home, or held for a run that can be completed (12 R298-R300). -/
def stillOut (s : State) (r : Req) : Bool := r.stage == .home || (r.xl.isSome && (r.stage == .remap || (r.stage == .entry && !stuckRun s r)))

/-- A request that a slice has translated under an operation's range, and that has not been answered (12 R299). -/
def forwardedIn (s : State) (vd die slice : Nat) (stage2 : Bool) (asid : Option Nat) (base len : Nat) (r : Req) : Bool :=
  r.vd == vd && r.die == die && r.slice == slice && r.xl.any (rangeHits stage2 asid base len r.asid) && stillOut s r

/-- The requests of which p holds that a slice has translated and still holds, for runs that a block keeps from being complete, are translated again (log 53). -/
def retranslate (s : State) (p : Req → Bool) : State :=
  { s with reqs := s.reqs.map (fun r => if r.stage == .entry && r.xl.isSome && p r then { r with xl := none } else r) }

/-- A range, of virtual addresses or at stage 2 of guest physical ones, leaves a slice and the L1s of its die: translations, remote words (dirty ones first), L1 words (12 R299, R303). -/
def purgeRange (s : State) (v : Vd) (die slice : Nat) (stage2 : Bool) (asid : Option Nat) (base len : Nat) : State :=
  let own := fun (a : Nat) => stage2 || asid == none || asid == some a
  let word := fun (at_ : Nat) => decide (base < at_ + 4) && decide (at_ < base + len)
  let hitR := fun (r : RemoteWord) => r.vd == v.num && r.slice == slice && own r.asid && word (if stage2 then r.gpa else r.va)
  let hitL := fun (w : L1Word) => own w.asid && word (if stage2 then w.gpa else 4 * w.va)
  let s := retranslate (recallWords s die hitR) (fun r => r.vd == v.num && r.die == die && r.slice == slice && r.xl.any (rangeHits stage2 asid base len r.asid))
  { s with
    stc := s.stc.filter (fun e => !(e.vd == v.num && e.die == die && e.slice == slice && rangeHits stage2 asid base len e.asid e.xl))
    clusters := s.clusters.map (fun k => if ownsSite v die k.site then { k with l1 := k.l1.filter (fun w => !hitL w) } else k)
    reqs := s.reqs.map (fun r => if r.vd == v.num && r.die == die then { r with fill := r.fill.filter (fun w => !hitL w) } else r) }

/-- Whether a package PUB that has taken its number has still to reach a die: it waits for another PUB of its record, or slices of the die have not blocked (16 R416). -/
def pubPending (s : State) (d : DrayCmd) (die : Nat) : Bool :=
  fnOfCode d.fn == .pub && (DrayArgs.ofList d.args).param == 1 && d.fault.isNone &&
  (d.phase == .moving ||
   (d.phase == .blocking && d.pend.any (fun p => p.1 == die && !s.blocks.any (fun b => b.op == d.id && b.die == die && b.slice == p.2))))

/-- Whether an instance's die has got every message of its relay group that comes before one with a sequence number: XLAT's and PUB's at their slices, RLY.SEND's in its queue (16 R416). -/
def relayTurn (s : State) (vd die seq : Nat) : Bool :=
  !s.shoots.any (fun o => o.vd == vd && decide (o.seq < seq) && o.pend.any (fun p => p.1 == die && !s.blocks.any (fun b => b.op == o.id && b.die == die && b.slice == p.2))) &&
  !s.drays.any (fun d => d.vd == vd && decide (d.seq < seq) && pubPending s d die) &&
  (match (findVd s vd).bind (fun v => v.instAt die) with
   | some i => i.inbox.all (fun m => m.smc || decide (seq ≤ m.seq))
   | none => true)

/-- A PUB that runs meets a fault of its buffer's record or page: its blocks are lifted, and the fault is that of its command (R324). While that has to wait for a bonded run (04 R91), they stand. -/
def stopPub (s : State) (d : DrayCmd) (e : UnitStop) : State :=
  let waits : Bool := match e with
    | .stall => true
    | .fault _ _ _ => faultWaits s d.gid 0
    | .err _ | .lost _ => false
  if waits then s else stopUnit { s with blocks := s.blocks.filter (fun k => k.op != d.id) } d e

/-- PUB_SLICE_BLOCK: a slice blocks the buffer, and when what it forwarded has been answered it purges it and acknowledges (R329 step 2). -/
def execPubSliceBlock (cmd die slice : Nat) (s : State) : Host.Outcome State Fault Refusal :=
  match s.drays.find? (fun d => d.id == cmd) with
  | none => .next s
  | some d =>
    if d.phase != .blocking || d.fault.isSome || d.err.isSome || !d.pend.contains (die, slice) || ((DrayArgs.ofList d.args).param == 1 && !relayTurn s d.vd die d.seq) then .next s
    else match findVd s d.vd, publishBuffer s d (DrayArgs.ofList d.args).dst with
      | some v, .ok (some b) =>
        let s := if s.blocks.any (fun k => k.op == d.id && k.die == die && k.slice == slice) then s
          else { s with blocks := { op := d.id, vd := d.vd, die := die, slice := slice, stage2 := false, asid := none, base := b.2.1, len := b.2.2, wonly := false } :: s.blocks }
        if s.reqs.any (forwardedIn s d.vd die slice false none b.2.1 b.2.2) then .next s
        else .next (putDray (purgeRange s v die slice false none b.2.1 b.2.2) { d with pend := d.pend.filter (fun p => p != (die, slice)) })
      | some _, .ok none => .next (stopPub s d (.err .space))
      | some _, .error e => .next (stopPub s d e)
      | none, _ => .next s

/-- SWAP_POINT: the record's home inverts FRONT and increments GEN, in its turn under a lock or a channel in service (12 R298; 17 R440), and the blocks are lifted (R329 steps 3 and 4). -/
def execSwapPoint (cmd : Nat) (s : State) : Host.Outcome State Fault Refusal :=
  match s.drays.find? (fun d => d.id == cmd) with
  | none => .next s
  | some d =>
    let left := d.pend.filter (fun p => !s.failed.contains p.1)
    if d.phase != .blocking || d.fault.isSome || d.err.isSome || !left.isEmpty then .next s
    else match findVd s d.vd, publishBuffer s d (DrayArgs.ofList d.args).dst with
      | some v, .ok (some b) =>
        (match stage2 s v (b.1 + 0x10) with
         | .ok l =>
           let pa := l.at (b.1 + 0x10)
           if lockHeld s pa 8 || chanHeld s pa then .next s
           else if !(badBlocks s [(pa, 8)]).isEmpty then .next (stopPub s d (.fault causeIntegrity 0#8 (DrayArgs.ofList d.args).dst))
           else
             let st := tableEntry s pa
             let new : BitVec 64 := ((st >>> 1 + 1#64) <<< 1) ||| (if st.getLsbD 0 then 0#64 else 1#64)
             let s := deviceWrite s pa (leBytes new.toNat 8)
             .next (putDray { s with blocks := s.blocks.filter (fun k => k.op != d.id) } { d with phase := .finished, pend := [] })
         | .error f => .next (stopPub s d (.fault f.cause f.detail (DrayArgs.ofList d.args).dst)))
      | some _, .ok none => .next (stopPub s d (.err .space))
      | some _, .error e => .next (stopPub s d e)
      | none, _ => .next s

/-! ### Progress -/

/-- A command after a unit; a PUT keeps the package and window that its bytes go to (17 R435). -/
def DrayCmd.after (d : DrayCmd) (s : State) (m : Move) : DrayCmd :=
  match fnOfCode d.fn, m.dst with
  | .put, .mem va => (match drayXl s d .drayWrite 8 va with
    | .ok (x, _) => { d with target := some (x.at va / 2 ^ 40 % 128, x.at va / 2 ^ 32 % 256) }
    | .error _ => d)
  | _, _ => d

/-- DRAY_UNIT_DONE: a unit of a command takes its tokens in its turn, and is done (R322; 02 R43); a PUB that has not started starts. A command of a group that stops does no more units
unless it is atomic, and no PUB of it starts (R325). -/
def execDrayUnitDone (cmd : Nat) (s : State) : Host.Outcome State Fault Refusal :=
  match s.drays.find? (fun d => d.id == cmd) with
  | none => .next s
  | some d =>
    let f := fnOfCode d.fn
    let a := DrayArgs.ofList d.args
    if f == .pub then .next (if d.fault.isNone && d.err.isNone && (d.phase == .moving || (d.phase == .waiting && (findGroup s d.gid).any resumes)) then startPub s d a else s)
    else if !drayMoves s d || drayTotal f a ≤ d.done then .next s
    else
      let m := nextMove s d f a
      let k := unitLines s d f a m
      let turn := takeTurn s d.vd d.die (.unit d.id) k
      let drop := fun (s : State) => dropTicket s d.vd d.die (.unit d.id)
      if !turn.1 then .next turn.2
      else if f == .poolred && !nearPool s d m.dst then
        (match emulated turn.2 d a m with
         | .error e => .next (stopUnit (drop s) d e)
         | .ok (u, got) =>
           let d1 := { d with done := d.done + (if got.isNone then m.step else 0), sibs := d.sibs || u.sib, srcs := [], got := got, ahead := u.ahead }
           let t := putDray u.s d1
           .next (if drayTotal f a ≤ d1.done then lowerS t d1 else t))
      else match doUnit turn.2 d f a m with
        | .error e => .next (stopUnit (drop s) d e)
        | .ok u =>
          let d1 := { d.after s m with done := d.done + m.step, sibs := d.sibs || u.sib, differ := u.differ, srcs := [], ahead := u.ahead }
          let t := putDray u.s d1
          .next (if drayTotal f a ≤ d1.done then lowerS t d1 else t)

/-- The code of a run-time failure (Table 13.3). -/
def drayErrCode : DrayErr → BitVec 8
  | .space => 0x10#8
  | .index => 0x11#8
  | .device => 0x12#8
  | .abort => 0x13#8

/-- A failure enters the log of 8 entries (R324). -/
def logFailure (l : List DrayLog) (e : DrayLog) : List DrayLog := (if 8 ≤ l.length then l.drop (l.length - 7) else l) ++ [e]

/-- A command leaves its slot: its counters drop, its siblings and its failure are noted (R321, R323, R324). -/
def endDray (s : State) (d : DrayCmd) (err : Option DrayErr) : State :=
  let s := { dropTicket s d.vd d.die (.unit d.id) with
    drays := s.drays.filter (fun c => c.id != d.id)
    blocks := s.blocks.filter (fun k => k.op != d.id) }
  modGroup s d.gid (fun g =>
    let g := g.lower d.id
    let g := if d.sibs then setStat g statSibs else g
    match err with
    | some e => { setStat g statDrayf with dlog := logFailure g.dlog { id := d.drayId, code := drayErrCode e } }
    | none => g)

/-- Whether a command reaches a device that can answer with an error. -/
def farCommand (f : DrayFn) (a : DrayArgs) : Bool :=
  match f with
  | .put | .get | .poolfill | .poolcmp | .poolred => true
  | .pub => false
  | _ => (!a.ssp && farHalf a.src) || (!a.dsp && farHalf a.dst)

/-- DRAY_COMPLETE: a command whose units are done completes, a PUT only when it is acknowledged (17 R435); one that met a failure, or whose device answers with an error or an abort, completes as
failed (R321, R324). -/
def execDrayComplete (cmd : Nat) (err : Option DrayErr) (s : State) : Host.Outcome State Fault Refusal :=
  match s.drays.find? (fun d => d.id == cmd) with
  | none => .next s
  | some d =>
    let f := fnOfCode d.fn
    let a := DrayArgs.ofList d.args
    match d.err with
    | some e => .next (endDray s d (some e))
    | none =>
      if d.fault.isSome then .next s
      else match err with
        | some .device => .next (if farCommand f a then endDray s d (some .device) else s)
        | some .abort => .next (if f == .put || f == .get then endDray s d (some .abort) else s)
        | some .space | some .index => .next s
        | none =>
          let done : Bool := match f with
            | .pub => d.phase == .finished
            | .put => false
            | _ => decide (drayTotal f a ≤ d.done)
          .next (if done then endDray s d none else s)

/-- Changes a Coupler counter at its home: a write from outside, and a store for monitors; none while a block or a lock holds it (12 R298, R308; 14 R358; 17 R435). One whose block has a mismatched
check is refused, with a record (R439). DESIGN CHOICE (log 94): a change of a counter whose VA does not translate is dropped, and what asked for it goes on without. -/
def counterWrite (s : State) (vd asid va : Nat) (f : BitVec 64 → BitVec 64) : Option State :=
  match findVd s vd with
  | none => some s
  | some v =>
    let at_ := BitVec.ofNat 64 va
    if blockHits s v (v.pdie 0) (entrySlice s vd (v.pdie 0) va) asid .write at_ then none
    else match walk s v 0 asid false .write 8 at_ with
      | .error _ => some s
      | .ok x =>
        if lockHeld s (x.at at_) 8 || chanHeld s (x.at at_) then none
        else if !(badBlocks s [(x.at at_, 8)]).isEmpty then some (postIntegrity s vd (x.at at_))
        else some (outsideWrite s vd (x.at at_) x.fed (f (tableEntry s (x.at at_))).toNat)

/-- Adds one to a Coupler counter, keeping PEER-ABORT (17 R435). -/
def bumpCounter (s : State) (vd asid va : Nat) : Option State :=
  counterWrite s vd asid va (fun n => (n &&& 0x8000000000000000#64) ||| ((n + 1#64) &&& 0x7FFFFFFFFFFFFFFF#64))

/-- PUT_ACKNOWLEDGED: the target acknowledges a whole PUT: the source counter increments, and the PUT completes, F dropping (17 R435). -/
def execPutAcknowledged (cmd : Nat) (s : State) : Host.Outcome State Fault Refusal :=
  match s.drays.find? (fun d => d.id == cmd) with
  | none => .next s
  | some d =>
    if fnOfCode d.fn != .put || d.fault.isSome || d.err.isSome || decide (d.done < (DrayArgs.ofList d.args).len) then .next s
    else match d.target.bind (fun t => s.paths.find? (fun p => p.vd == d.vd && p.pkg == t.1 && p.win == t.2)) with
      | none => .next (endDray s d none)
      | some p => .next (match bumpCounter s p.vd p.asid p.cntva with
        | some s => endDray s d none
        | none => s)

/-- A command that resumes from its remainder, with its id (R325), and with what the device kept of it: the word's PC and lanes, its place in issue order, its SIBS, a SPILL's rows, a POOLCMP's
difference (R319, R323, R324). A remainder that is not one the device saved has free values for the first two, and comes first in issue order (log 32). -/
def resumedDray (s : State) (g : Group) (r : Remainder) : DrayCmd :=
  let f := fnOfCode (r.fn.extractLsb' 0 4)
  let a : DrayArgs := { ctl := r.ctl, src := r.src, dst := r.dst, aux := r.aux }
  let kept := (g.kept.find? (fun k => k.id == r.id)).getD
    { id := r.id, pc := Config.freeValue s.freeCtr, mask := (Config.freeValue (s.freeCtr + 1)).setWidth 32, sibs := false, rows := spillRows g a, differ := none, ahead := none, order := 0 }
  { id := s.nextId, gid := g.gid, site := g.site, vd := g.vd, die := siteDie g.site, drayId := r.id, fn := f.code, atom := r.fn.getLsbD 7, args := a.list, pc := kept.pc, mask := kept.mask,
    done := r.done, rows := if f == .spill then kept.rows else [], sibs := kept.sibs, usesS := namesScr f a, usesF := namesMem f a,
    phase := if f == .pub then .waiting else .moving, pend := [], fault := none, err := none, differ := kept.differ, target := none, got := none, ahead := kept.ahead, seq := 0, srcs := [], order := kept.order }

/-- DRAY_REMAINDER_RESUME: the oldest remainder of a restored group takes a free slot (R325). -/
def execDrayRemainderResume (handle vd : Nat) (s : State) : Host.Outcome State Fault Refusal :=
  match s.groups.find? (fun g => g.handle == handle && g.vd == vd && resumes g) with
  | none => .next s
  | some g => match g.remainders with
    | [] => .next s
    | r :: rest =>
      let d := resumedDray s g r
      let ks := (if d.usesS then [Ctr.s] else []) ++ (if d.usesF then [Ctr.f] else [])
      if 8 ≤ draysAt s g.site ∨ countersFull g ks = true then .next s
      else .next (setGroup { s with nextId := s.nextId + 1, freeCtr := s.freeCtr + 2, drays := s.drays ++ [d] } { raiseAll g ks d.id with remainders := rest, kept := g.kept.filter (fun k => k.id != r.id) })

/-- POOL_RESPONSE: DevLoad sets the pace level of a virtual device on a port (R331). -/
def execPoolResponse (port vd : Nat) (devLoad : BitVec 2) (s : State) : Host.Outcome State Fault Refusal :=
  let k := port * 64 + vd
  let old := assoc s.pace k
  let new := match devLoad with
    | 0#2 => 0
    | 1#2 => old
    | 2#2 => max old 1
    | _ => 2
  .next { s with pace := assocSet s.pace k new }

/-! ### DWAIT and DRAY.STAT (R326, R327) -/

/-- Whether a command of a group with an id is in flight: in a slot, or a remainder that waits for one. -/
def drayFlying (s : State) (g : Group) (id : BitVec 16) : Bool :=
  s.drays.any (fun d => d.gid == g.gid && d.drayId == id) || g.remainders.any (fun r => r.id == id)

/-- The DRAYERR trap of a logged failure. -/
def logTrap (e : DrayLog) : Trap := { cause := causeDrayerr, val := e.code.setWidth 64 ||| (e.id.setWidth 64 <<< 16) }

/-- Raises the trap of a log entry, which leaves the log. -/
def raiseLogged (c : Ctx) (e : DrayLog) : State :=
  raiseTrap { c with g := { c.g with dlog := c.g.dlog.erase e } } (logTrap e)

/-- DWAIT.ONE: blocks its fragment while the command that it named as it issued is in flight, and raises its failure (R326). -/
def execDwaitOne (w : FmtX) (s : State) : Host.Outcome State Fault Refusal :=
  issue (.dwaitOne w) s (fun c =>
    let id := match c.f.wait with
      | .dwait (id :: _) => id
      | _ => (argOf c w.a 0).extractLsb' 0 16
    if drayFlying c.s c.g id then .ok (c.block (.dwait [id]))
    else
      let c := { c with f := { c.f with wait := .no } }
      match c.g.dlog.find? (fun e => e.id == id) with
      | some e => .ok (raiseLogged c e)
      | none => .ok c.finish)

/-- The ids of a group's commands in flight. -/
def dwaitIds (s : State) (g : Group) : List (BitVec 16) := (s.drays.filter (fun d => d.gid == g.gid)).map DrayCmd.drayId ++ g.remainders.map Remainder.id

/-- DWAIT.ALL: waits for every command that the group issued before it, and raises the oldest failure (R326). -/
def execDwaitAll (w : FmtX) (s : State) : Host.Outcome State Fault Refusal :=
  issue (.dwaitAll w) s (fun c =>
    let ids := match c.f.wait with
      | .dwait ids => ids
      | _ => dwaitIds c.s c.g
    if ids.any (drayFlying c.s c.g) then .ok (c.block (.dwait ids))
    else
      let c := { c with f := { c.f with wait := .no } }
      match c.g.dlog with
      | e :: _ => .ok (raiseLogged c e)
      | [] => .ok c.finish)

/-- The DONE field: units completed; rows for COPY2D (Table 13.4). -/
def statDone (fn : BitVec 4) (a : DrayArgs) (done : Nat) : Nat :=
  min (if fnOfCode fn == .copy2d then done / max a.len 1 else done) (2 ^ 32 - 1)

/-- The word of Table 13.4. -/
def statWord (s : State) (g : Group) (id : BitVec 16) : DWord :=
  match s.drays.find? (fun d => d.gid == g.gid && d.drayId == id), g.remainders.find? (fun r => r.id == id), g.dlog.find? (fun e => e.id == id) with
  | some d, _, _ => BitVec.ofNat 64 (2 ^ 32 + statDone d.fn (DrayArgs.ofList d.args) d.done)
  | none, some r, _ => BitVec.ofNat 64 (2 ^ 32 + statDone (r.fn.extractLsb' 0 4) { ctl := r.ctl, src := r.src, dst := r.dst, aux := r.aux } r.done)
  | none, none, some e => BitVec.ofNat 64 (2 * 2 ^ 32 + e.code.toNat * 2 ^ 40)
  | none, none, none => 0#64

/-- DRAY.STAT (R327). -/
def execDrayStat (w : FmtX) (s : State) : Host.Outcome State Fault Refusal :=
  issue (.drayStat w) s (fun c =>
    let x := statWord c.s c.g ((argOf c w.a 0).extractLsb' 0 16)
    .ok (({ c with g := sset c.g (w.d.toNat - 96) x }.push .invalid)).finish)

end Sys2Proof.Machine
end

