-- ==== Sys2Proof/Machine/Frame.lean ====
section
/-! DEFINITION. Machine/Frame.lean: context frames in the save area: their layout, writing one at a stop, checking and reading one; DSTK.SPILL and DSTK.FILL
(06 R133, R157; 16 R395, R412, R413). -/

namespace Sys2Proof.Machine

/-! ### Places (R413) -/

/-- The bytes of a group's frame: header, registers, tiles (R412). -/
def frameSize (g : Group) : Nat := 0x1000 + 128 * g.vregs + 4096 * g.tiles

/-- Whether a write to n bytes of the save area faults at stage 2, on any of their pages (R410; 12 R315); the scratch pool is mapped read-only to everybody but the device (R413). -/
def areaFaults (s : State) (v : Vd) (off n : Nat) (pool : Bool) : Bool :=
  (List.range (n / 65536 + 2)).any (fun i =>
    let p := 65536 * (off / 65536 + i)
    decide (p < off + n) && (match stage2 s v (v.saveGpa + p) with
      | .ok l => !pool && !l.w
      | .error _ => true))

/-- Whether a save write of a group faults (R410). -/
def saveFaults (s : State) (v : Vd) (g : Group) : Bool := areaFaults s v (unitOffset g.handle) (frameSize g) false

/-! ### Bytes -/

/-- n zero bytes. -/
def zeros (n : Nat) : List (BitVec 8) := List.replicate n 0#8

/-- A list of bytes filled with zeros to a length. -/
def padTo (n : Nat) (l : List (BitVec 8)) : List (BitVec 8) := l ++ zeros (n - l.length)

/-- A PC in bits [56:2] with a code below. -/
def pcField (pc : DWord) (code : Nat) : Nat := pc.toNat % 2 ^ 57 / 4 * 4 + code

/-- The codes of PMODE and KIND (06 Table 6.1). -/
def PMode.code : PMode → Nat
  | .none => 0
  | .arm => 1
  | .remainder => 2

def StackKind.code : StackKind → Nat
  | .recon => 0
  | .implicit => 1
  | .switch => 2

/-- A stack entry (06 Table 6.1). -/
def stackBytes (e : StackEntry) : List (BitVec 8) :=
  leBytes (match e.rpc with | some x => pcField x 0 | none => 1) 8 ++ leBytes (pcField e.ppc e.pmode.code) 8 ++ leBytes (pcField e.origin e.kind.code) 8 ++
  leBytes e.rmask.toNat 4 ++ leBytes e.arr.toNat 4 ++ leBytes e.pmask.toNat 4 ++ zeros 12

/-- A fragment (Table 16.7). -/
def fragBytes : Option Frag → List (BitVec 8)
  | some f => leBytes f.pc.toNat 8 ++ leBytes f.mask.toNat 4 ++ leBytes 1 4
  | none => zeros 16

/-- A replay entry (Table 16.8). -/
def replayBytes (r : Replay) : List (BitVec 8) :=
  leBytes r.pc.toNat 8 ++ leBytes r.word.toNat 4 ++ leBytes r.mask.toNat 4 ++ leBytes r.wb.toNat 2 ++ leBytes r.frag 1 ++ zeros 13

/-- A Dray remainder (Table 16.9). -/
def remainderBytes (r : Remainder) : List (BitVec 8) :=
  leBytes r.ctl.toNat 8 ++ leBytes r.src.toNat 8 ++ leBytes r.dst.toNat 8 ++ leBytes r.aux.toNat 8 ++ leBytes r.done 8 ++ leBytes r.id.toNat 2 ++ leBytes r.fn.toNat 1 ++ zeros 5

/-- What the header takes from the group's team: linear index, launch, node, scratch block. -/
structure FrameTeam where
  lin : Nat
  launch : Nat
  node : Nat
  scrblk : Nat
  deriving DecidableEq, Repr

/-- The header, 0x1000 bytes (Table 16.7). -/
def headerBytes (g : Group) (t : FrameTeam) (why : Nat) : List (BitVec 8) :=
  leBytes 0x58434649 4 ++ leBytes g.vregs 2 ++ leBytes g.tiles 1 ++ leBytes (if g.level == .u then 0 else 1) 1 ++ leBytes g.handle 4 ++ leBytes (t.lin % 2 ^ 24) 4 ++
  leBytes g.num 2 ++ leBytes g.role 1 ++ leBytes why 1 ++ leBytes (if g.num = 0 then t.scrblk else 0) 4 ++ leBytes t.launch 4 ++ leBytes t.node 2 ++ zeros 2 ++
  fragBytes g.frags[0]? ++ fragBytes g.frags[1]? ++
  leBytes g.exited.toNat 4 ++ leBytes g.stack.length 1 ++ leBytes g.spilled 1 ++ leBytes g.replay.length 1 ++ leBytes g.remainders.length 1 ++
  leBytes g.fhspec.toNat 8 ++
  [g.gstat, g.gcfg, g.chteam, g.wbase, g.trapc, g.trappc, g.trapv, g.trapm].flatMap (fun x => leBytes x.toNat 8) ++
  zeros 4 ++ leBytes g.drayId.toNat 2 ++ zeros 10 ++ leBytes ((g.refuse.getD 0#64).toNat) 8 ++ zeros 88 ++
  (List.range 24).flatMap (fun i => leBytes (sget g i).toNat 8) ++
  (List.range 8).flatMap (fun i => leBytes (pget g i).toNat 4) ++
  padTo 32 (g.dlog.flatMap (fun e => leBytes (e.id.toNat + e.code.toNat * 2 ^ 16 + 2 ^ 31) 4)) ++
  padTo 768 (g.stack.reverse.flatMap stackBytes) ++
  padTo 2048 (g.replay.flatMap replayBytes) ++
  padTo 384 (g.remainders.flatMap remainderBytes) ++ zeros 384

/-- The registers of a group, then its tiles (R412). -/
def bodyBytes (g : Group) : List (BitVec 8) :=
  (List.range g.vregs).flatMap (fun r => (List.range 32).flatMap (fun l => leBytes (vget g r l).toNat 4)) ++
  (List.range g.tiles).flatMap (fun t => (List.range 32).flatMap (fun i => (List.range 32).flatMap (fun j => leBytes (tget g t i j).toNat 4)))

/-- Writes a group's frame to its unit (R395, R412). -/
def writeFrame (s : State) (v : Vd) (g : Group) (why scrblk : Nat) : State :=
  let t := findTeam s g.team
  let ft : FrameTeam := { lin := (t.map Team.lin).getD 0, launch := (t.map Team.launch).getD 0, node := (t.map Team.node).getD 0, scrblk := scrblk }
  deviceWrite s (unitPa v g.handle) (headerBytes g ft why ++ bodyBytes g)

/-! ### Reading a frame -/

/-- A field of a unit. -/
def fieldAt (s : State) (pa off n : Nat) : Nat := rdBytes s.mem (pa + off) n

/-- The PC of a field that holds its bits [56:2] (06 R133). -/
def pcOf (x : Nat) : DWord := (BitVec.ofNat 57 (x / 4 * 4)).signExtend 64

/-- A stack entry read from 48 bytes; none when a reserved field is nonzero or a code reserved (06 R157). -/
def readStack (s : State) (a : Nat) : Option StackEntry :=
  let f := fun (off n : Nat) => rdBytes s.mem (a + off) n
  let r := f 0 8
  let p := f 8 8
  let o := f 0x10 8
  let pmode : Option PMode := match p % 4 with | 0 => some .none | 1 => some .arm | 2 => some .remainder | _ => none
  let kind : Option StackKind := match o % 4 with | 0 => some .recon | 1 => some .implicit | 2 => some .switch | _ => none
  if 2 ^ 57 ≤ r ∨ r / 2 % 2 = 1 ∨ 2 ^ 57 ≤ p ∨ 2 ^ 57 ≤ o ∨ f 0x24 4 ≠ 0 ∨ f 0x28 8 ≠ 0 then none
  else match pmode, kind with
    | some m, some k =>
      some { rpc := if r % 2 = 1 then none else some (pcOf r), ppc := pcOf p, pmode := m, origin := pcOf o, kind := k,
             rmask := BitVec.ofNat 32 (f 0x18 4), arr := BitVec.ofNat 32 (f 0x1C 4), pmask := BitVec.ofNat 32 (f 0x20 4), pboard := noBoard, pwait := .no, aboard := noBoard }
    | _, _ => none

/-- The resident entries of a frame, top first. -/
def readStacks (s : State) (pa n : Nat) : List (Option StackEntry) := ((List.range n).map (fun i => readStack s (pa + 0x200 + 48 * i))).reverse

/-- A replay entry of a frame. -/
def readReplay (s : State) (a : Nat) : Replay :=
  { pc := BitVec.ofNat 64 (rdBytes s.mem a 8), word := BitVec.ofNat 32 (rdBytes s.mem (a + 8) 4), mask := BitVec.ofNat 32 (rdBytes s.mem (a + 12) 4),
    wb := BitVec.ofNat 16 (rdBytes s.mem (a + 16) 2), frag := rdBytes s.mem (a + 18) 1 }

/-- A Dray remainder of a frame. -/
def readRemainder (s : State) (a : Nat) : Remainder :=
  let q := fun (off : Nat) => BitVec.ofNat 64 (rdBytes s.mem (a + off) 8)
  { ctl := q 0, src := q 8, dst := q 16, aux := q 24, done := rdBytes s.mem (a + 32) 8, id := BitVec.ofNat 16 (rdBytes s.mem (a + 40) 2), fn := BitVec.ofNat 8 (rdBytes s.mem (a + 42) 1) }

/-- A fragment of a frame. -/
def readFrag (s : State) (a cycle : Nat) : Option Frag :=
  if rdBytes s.mem (a + 12) 4 % 2 = 1 then some (newFrag (BitVec.ofNat 64 (rdBytes s.mem a 8)) (BitVec.ofNat 32 (rdBytes s.mem (a + 8) 4)) cycle) else none

/-- Whether the bytes of a range are all zero. -/
def allZero (s : State) (a n : Nat) : Bool := (rdList s.mem a n).all (fun b => b == 0#8)

/-- ERET's check of a frame (R419): FMAGIC, counts, reserved fields, stack entries. -/
def frameOk (s : State) (pa : Nat) : Bool :=
  let f := fieldAt s pa
  let nres := f 0x44 1
  let nrep := f 0x46 1
  let ndray := f 0x47 1
  f 0 4 == 0x58434649 && f 0x0F 1 == 0 && f 0x1E 2 == 0 && decide (f 0x2C 4 < 2) && decide (f 0x3C 4 < 2) && decide (nres ≤ 16) && decide (f 0x45 1 ≤ 48) && decide (nrep ≤ 64) &&
  decide (ndray ≤ 8) && f 0x90 4 == 0 && allZero s (pa + 0x96) 10 && allZero s (pa + 0xA8) 88 && allZero s (pa + 0xE80) 384 &&
  (List.range 8).all (fun i => f (0x1E0 + 4 * i) 4 / 2 ^ 24 % 128 == 0) &&
  (readStacks s pa nres).all Option.isSome && (List.range nrep).all (fun i => allZero s (pa + 0x500 + 32 * i + 0x13) 13) &&
  (List.range ndray).all (fun i => allZero s (pa + 0xD00 + 48 * i + 0x2B) 5)

/-- The failure log of a frame. -/
def readDlog (s : State) (pa : Nat) : List DrayLog :=
  (List.range 8).filterMap (fun i =>
    let x := fieldAt s pa (0x1E0 + 4 * i) 4
    if x / 2 ^ 31 % 2 = 1 then some { id := BitVec.ofNat 16 x, code := BitVec.ofNat 8 (x / 2 ^ 16) } else none)

/-- A sparse array from its values in order. -/
def packMap {w : Nat} (n : Nat) (f : Nat → BitVec w) : SMap w := (List.range n).filterMap (fun i => if f i = 0#w then none else some (i, f i))

/-- The group that a frame restores: what the frame holds over the group's identity (R395, R400, R412). Its fragments become live now; latches are invalid, every
scoreboard is empty. -/
def readFrame (s : State) (pa cycle : Nat) (g : Group) : Group :=
  let f := fieldAt s pa
  let q := fun (off : Nat) => BitVec.ofNat 64 (f off 8)
  { g with
    frags := (readFrag s (pa + 0x20) cycle).toList ++ (readFrag s (pa + 0x30) cycle).toList
    lastFrag := 0
    exited := BitVec.ofNat 32 (f 0x40 4)
    stack := (readStacks s pa (f 0x44 1)).filterMap id
    spilled := f 0x45 1
    replay := (List.range (f 0x46 1)).map (fun i => readReplay s (pa + 0x500 + 32 * i))
    remainders := (List.range (f 0x47 1)).map (fun i => readRemainder s (pa + 0xD00 + 48 * i))
    fhspec := q 0x48
    fhcount := 0
    gstat := q 0x50 &&& 0x7FF#64
    gcfg := gcfgWrite (q 0x58)
    chteam := chteamWrite (q 0x60)
    wbase := q 0x68 &&& 0xFFFF#64
    trapc := q 0x70 &&& 0xFF#64
    trappc := q 0x78
    trapv := q 0x80
    trapm := q 0x88 &&& 0xFFFFFFFF#64
    drayId := BitVec.ofNat 16 (f 0x94 2)
    refuse := if q 0xA0 = 0#64 then none else some (q 0xA0)
    s := packMap 24 (fun i => if i = 0 then 0#64 else q (0x100 + 8 * i))
    p := packMap 8 (fun i => if i = 0 then 0#32 else BitVec.ofNat 32 (f (0x1C0 + 4 * i) 4))
    dlog := readDlog s pa
    v := packMap (g.vregs * 32) (fun i => BitVec.ofNat 32 (f (0x1000 + 4 * i) 4))
    t := packMap (g.tiles * 1024) (fun i => BitVec.ofNat 32 (f (0x1000 + 128 * g.vregs + 4 * i) 4))
    cg := []
    cs := []
    cf := []
    cw := []
    flights := []
    sends := []
    rows := [] }

/-! ### DSTK.SPILL and DSTK.FILL (06 R157) -/

/-- Whether a group issues or may still issue: it has no frame to edit. DESIGN CHOICE (log 63): one that stops, is being saved or has been queued for its restore counts among these, though
R157 names only an issuing group. -/
def noFrame (g : Group) : Bool :=
  match g.status with
  | .stopped _ => false
  | _ => true

/-- The stopped group of a virtual device with a handle. -/
def stoppedGroup (s : State) (vd h : Nat) : Option Group := s.groups.find? (fun g => g.vd == vd && g.handle == h && !noFrame g)

/-- Moves the n deepest resident entries of a frame to the spill area, deepest first; none on failure. -/
def spillEntries (s : State) (pa n : Nat) : Option (State × DWord) :=
  let res := fieldAt s pa 0x44 1
  let sp := fieldAt s pa 0x45 1
  if n = 0 ∨ res ≤ n ∨ 48 < sp + n then none
  else
    let moved := rdList s.mem (pa + 0x200) (48 * n)
    let rest := rdList s.mem (pa + 0x200 + 48 * n) (48 * (res - n))
    let s := deviceWrite s (pa + spillOffset + 48 * sp) moved
    let s := deviceWrite s (pa + 0x200) (padTo 768 rest)
    let s := deviceWrite s (pa + 0x44) (leBytes (res - n) 1 ++ leBytes (sp + n) 1)
    some (s, packedDepth (res - n) (sp + n))

/-- Moves the n highest spilled entries back under the resident ones, without the group's exited lanes; none on failure. -/
def fillEntries (s : State) (pa n : Nat) : Option (State × DWord) :=
  let res := fieldAt s pa 0x44 1
  let sp := fieldAt s pa 0x45 1
  let exited := BitVec.ofNat 32 (fieldAt s pa 0x40 4)
  if n = 0 ∨ sp < n ∨ 16 < res + n then none
  else
    let es := (List.range n).map (fun i => readStack s (pa + spillOffset + 48 * (sp - n + i)))
    if es.any Option.isNone then none
    else
      let moved := (es.filterMap id).flatMap (fun e => stackBytes (entryWithout exited e))
      let rest := rdList s.mem (pa + 0x200) (48 * res)
      let s := deviceWrite s (pa + 0x200) (padTo 768 (moved ++ rest))
      let s := deviceWrite s (pa + 0x44) (leBytes (res + n) 1 ++ leBytes (sp - n) 1)
      some (s, packedDepth (res + n) (sp - n))

/-- A DSTK word that edits a stopped group's frame. -/
def dstkEdit (i : Instr) (w : FmtX) (edit : State → Nat → Nat → Option (State × DWord)) (s : State) : Host.Outcome State Fault Refusal :=
  issue i s (fun c =>
    let h := (argOf c w.a 0).toNat % 2 ^ 32
    let n := (argOf c w.a 1).toNat
    let done : Option (State × DWord) := match findVd c.s c.g.vd, stoppedGroup c.s c.g.vd h with
      | some v, some _ => edit c.s (unitPa v h) n
      | _, _ => none
    match done with
    | some r => .ok (putUni { c with s := r.1 } false w.d 1 r.2).finish
    | none => .ok (putUni c false w.d 1 0xFFFFFFFFFFFFFFFF#64).finish)

/-- DSTK.SPILL (R157). -/
def execDstkSpill (w : FmtX) (s : State) : Host.Outcome State Fault Refusal := dstkEdit (.dstkSpill w) w spillEntries s

/-- DSTK.FILL (R157). -/
def execDstkFill (w : FmtX) (s : State) : Host.Outcome State Fault Refusal := dstkEdit (.dstkFill w) w fillEntries s

end Sys2Proof.Machine
end

