-- ==== Sys2Proof/Machine/Alloc.lean ====
section
/-! DEFINITION. Machine/Alloc.lean: the buddy allocators of a cluster and its bays, and of the scratch pool (03 R60, R67-R70; 16 R413). -/

namespace Sys2Proof.Machine

/-- A block of an arena: where it starts and how much it holds, in granules. -/
abbrev Extent := Nat × Nat

/-- Whether a block meets one in use. -/
def meets (used : List Extent) (b : Extent) : Bool := used.any (fun u => decide (0 < u.2) && decide (u.1 < b.1 + b.2) && decide (b.1 < u.1 + u.2))

/-- The free blocks of a block: itself, or those of its two halves; free buddies are always merged (R68). -/
def freeBlocks (used : List Extent) : Nat → Extent → List Extent
  | 0, b => if meets used b then [] else [b]
  | n + 1, b =>
    if !meets used b then [b]
    else if b.2 ≤ 1 then []
    else freeBlocks used n (b.1, b.2 / 2) ++ freeBlocks used n (b.1 + b.2 / 2, b.2 / 2)

/-- The place a buddy allocator gives a block of n granules: the lowest of the smallest free blocks that hold it (R68). DESIGN CHOICE (log 62): of equally small larger blocks, the lowest is
split. -/
def buddy (tops : List Extent) (used : List Extent) (n : Nat) : Option Nat :=
  let free := (tops.flatMap (freeBlocks used 16)).filter (fun b => decide (n ≤ b.2))
  ((leastBy (fun b => b.2 * 2 ^ 24 + b.1) free).map Prod.fst)

/-- The scratchpad top blocks of a split, in granules of 4 KiB (Table 3.2). -/
def scratchTops (split : Nat) : List Extent :=
  match split with
  | 0 => [(0, 64), (64, 32), (96, 16)]
  | 1 => [(0, 64), (64, 32)]
  | 2 => [(0, 64)]
  | _ => [(0, 32)]

/-- Whether a group holds its slot, registers and tiles. -/
def occupies (g : Group) : Bool :=
  match g.status with
  | .running | .stopping _ | .held _ | .draining => true
  | .saving _ | .stopped _ | .queued | .gone => false

/-- The groups that hold resources in a bay. -/
def bayHolders (s : State) (site : Site) (bay : Nat) : List Group := s.groups.filter (fun g => g.site == site && g.bay == bay && occupies g)

/-- The bay of a group number: the core has one (01 R15; 16 R415). -/
def bayOf (site : Site) (num : Nat) : Nat := if isCluster site then num % 4 else 0

/-- The places a group gets: slot, register block and tile block, in registers and tiles. -/
structure Seat where
  slot : Nat
  regs : Nat
  tiles : Nat
  deriving DecidableEq, Repr

/-- Gives a group of a shape its slot, its registers (granules of 16) and its tiles, beside the given holders, each by a buddy allocator (R67). -/
def seatFor (slots : Nat) (hs : List Group) (vregs tiles : Nat) : Option Seat :=
  let slot := buddy [(0, slots)] (hs.map (fun h => (h.slot, 1))) 1
  let regs := buddy [(0, 32)] (hs.map (fun h => (h.regBlk / 16, h.vregs / 16))) (vregs / 16)
  let tile := if tiles = 0 then some 0 else buddy [(0, 16)] ((hs.filter (fun h => h.tiles != 0)).map (fun h => (h.tileBlk, h.tiles))) tiles
  match slot, regs, tile with
  | some a, some b, some c => some { slot := a, regs := 16 * b, tiles := c }
  | _, _, _ => none

/-- The slots of a bay: 8 in a cluster, 4 on a supervisor core (R67; 16 R414). -/
def slotsOf (site : Site) : Nat := if isCluster site then 8 else 4

/-- The seat of a group: kernel group k is in slot k of its core, with the k-th 128 registers (16 R415). -/
def seatOf (site : Site) (hs : List Group) (g : Group) : Option Seat :=
  if isCluster site then seatFor (slotsOf site) hs g.vregs g.tiles
  else if hs.any (fun h => h.slot == g.num) then none
  else some { slot := g.num, regs := 128 * g.num, tiles := 0 }

/-- Puts a group in a seat. -/
def Group.sit (g : Group) (site : Site) (x : Seat) : Group :=
  { g with site := site, bay := bayOf site g.num, slot := x.slot, regBlk := x.regs, tileBlk := x.tiles }

/-- Seats groups one after another in the bays of a site, beside those already there; none unless all fit (R61). DESIGN CHOICE (log 85): the groups of a team come in the order of the list, which
is that of their numbers; R67 names no order. -/
def seatAll (s : State) (site : Site) : List Group → List Group → Option (List Group)
  | done, [] => some done.reverse
  | done, g :: r =>
    let bay := bayOf site g.num
    let hs := bayHolders s site bay ++ done.filter (fun h => h.bay == bay)
    match seatOf site hs g with
    | some x => seatAll s site (g.sit site x :: done) r
    | none => none

/-- Whether a team holds a scratchpad block of a cluster: it is resident and its footprint is not zero. -/
def resident (t : Team) : Bool := t.status == .resident

/-- The resident user teams of a site. -/
def teamsAt (s : State) (site : Site) : List Team := s.teams.filter (fun t => t.site == site && resident t)

/-- A scratchpad block for a footprint in bytes, in a cluster of a split (R67, R68). -/
def scratchFor (ts : List Team) (split size : Nat) : Option Nat :=
  if size = 0 then some 0
  else (buddy (scratchTops split) (ts.map (fun t => (t.block / 4096, t.size / 4096))) (size / 4096)).map (· * 4096)

/-- A free block of the save area's scratch pool for a footprint, as its offset in the save area (16 R413). DESIGN CHOICE (log 95): it is aligned to its size from the start of the pool, which is
itself aligned to 64 KiB alone, and of the free ones it is the lowest; R413 says aligned to its size, and names no order. -/
def poolFor (s : State) (v : Vd) (size : Nat) : Option Nat :=
  let n := (saveSize v.desc - poolBase v.desc) / 65536
  let k := (size + 65535) / 65536
  let used := s.teams.filterMap (fun t => if t.vd == v.num then t.saveBlk.map (fun b => ((b - poolBase v.desc) / 65536, (t.size + 65535) / 65536)) else none)
  if size = 0 then some (poolBase v.desc)
  else ((List.range n).find? (fun i => i % k == 0 && decide (i + k ≤ n) && !meets used (i, k))).map (fun i => poolBase v.desc + 65536 * i)

/-- The frame units for user groups of a virtual device that no group holds: a unit is free once its group has drained or been killed (16 R413). DESIGN CHOICE (log 65): they are given in ascending
order, those in which the codebook image of a team that lives lies last. -/
def freeUnits (s : State) (v : Vd) : List Nat :=
  let free := ((List.range (unitCount v.desc - 32)).map (· + 32)).filter (fun h => !s.groups.any (fun g => g.vd == v.num && g.handle == h))
  let image := fun (h : Nat) => s.teams.any (fun t => t.vd == v.num && !t.kernel && t.status != .retired && t.unit0 == h)
  free.filter (fun h => !image h) ++ free.filter image

/-- A quantum begins: max(QUANT - DEBT, QUANT / 4) microseconds; DEBT falls by what is withheld (16 R407, R408). -/
def startQuantum (s : State) (tid : Nat) : State :=
  match findTeam s tid with
  | none => s
  | some t =>
    let die := siteDie t.site
    match (findVd s t.vd).bind (fun v => v.instAt die) with
    | none => s
    | some i =>
      let us := max (i.quant - i.debt) (i.quant / 4)
      let s := setTeam s { t with quantum := cycleOf s die + us * cyclesPerUs s die, grace := 0 }
      modInstAt s t.vd die (fun j => { j with debt := j.debt - (i.quant - us) })

end Sys2Proof.Machine
end

