-- ==== Sys2Proof/Machine/Stops.lean ====
section
/-! DEFINITION. Machine/Stops.lean: stopping a group, saving it, its record, its restore; pre-emption, the watchdog, draining and retirement of teams
(16 R395-R410; 17 R426, R427). -/

namespace Sys2Proof.Machine

/-! ### Stopping (16 R395, R399, R401) -/

/-- The other members of a group's four-in-hand set (10 R242). -/
def setMates (s : State) (g : Group) : List Group :=
  s.groups.filter (fun h => h.team == g.team && h.gid != g.gid && fhNames g.fhspec h.num && h.fhspec == g.fhspec)

/-- A group that stops or has been stopped, and that nothing has resumed. -/
def setStopped (g : Group) : Bool :=
  match g.status with
  | .stopping _ | .saving _ | .held _ | .stopped _ => true
  | _ => false

/-- A group that stops or has been stopped for a trap of its own. -/
def trapHeld (g : Group) : Bool :=
  match g.status with
  | .stopping .trap | .saving .trap | .held .trap | .stopped .trap => true
  | _ => false

/-- Whether a running group must stop, once no bonded run of it is issuing (04 R91): its team is being pre-empted, or a member of its set has stopped, even if that one waits for its restore by now
(10 R242). -/
def stopDue (s : State) (g : Group) : Bool :=
  g.status == .running && !inBonded g && (g.owed || ((findTeam s g.team).map (fun t => t.grace != 0)).getD false || (setMates s g).any setStopped)

/-- The whole set stops with a member, those whose bonded run is issuing after it (R395; 10 R242). -/
def stopSet (s : State) (g : Group) (why : Why) : State :=
  let mates := (setMates s g).map Group.gid
  { s with groups := s.groups.map (fun h =>
      if mates.contains h.gid && h.status == .running then
        (if inBonded h then { h with owed := true } else { h with status := .stopping (if why = .trap then .preempt else why) })
      else h) }

/-- A request that has not left the cluster, or goes out again from there. -/
def inCluster (r : Req) : Bool := r.stage == .egress || (r.stage == .remap && r.xl.isNone)

/-- Whether a request of a group is part of a run that raised an issue trap: such an access goes on (04 R93). -/
def goesOn (s : State) (g : Group) (r : Req) : Bool := r.gid == g.gid && ((flightOf s r).any (fun x => issueStopped g x.runId))

/-- Requests that have not left the cluster are withdrawn, with those that come after them (R399; 15 R368, R393), but for the accesses of the run that raised an issue trap, and what comes before
one of those (04 R93). -/
def withdraw (s : State) (g : Group) : State :=
  takeBack s (s.reqs.filter (fun r => r.gid == g.gid && inCluster r && !goesOn s g r && !s.reqs.any (fun q => goesOn s g q && !accepted q && comesAfter s r q)))

/-- A command that must end before the save: it has failed, is a PUB that has started, or is another that is atomic, has finished, or waits for its acknowledgement (R401; 13 R325). -/
def mustEnd (d : DrayCmd) : Bool :=
  d.fault.isNone &&
  (d.err.isSome || (if fnOfCode d.fn == .pub then d.phase != .waiting else d.atom || decide (drayTotal (fnOfCode d.fn) (DrayArgs.ofList d.args) ≤ d.done)))

/-- Everything the group has issued has settled (R395, R399). -/
def settled (s : State) (g : Group) : Bool :=
  !s.reqs.any (fun r => r.gid == g.gid && (flightOf s r).isSome) && !s.drays.any (fun d => d.gid == g.gid && mustEnd d) &&
  !s.shoots.any (fun o => o.gid == g.gid)

/-- Its armed waits complete with RESTORE, or with the cause that has woken them (14 R349, R351). -/
def freeWaits (s : State) (gid : Nat) : State :=
  (s.monitors.filter (fun m => m.gid == gid)).foldl (fun s m => match m.woken with
    | some w => wakeWaiter s m w.1 w.2 m.vec
    | none => wakeWaiter s m reasonRestore 0 (hvecOf s m.die m.slice)) s

/-- The replay entry of some lanes of a word; a WAITA's status goes to every lane it had (R399; 14 R347). -/
def replayOf (x : Flight) (m : Mask) : Replay :=
  { pc := x.pc, word := x.word, wb := x.wb, frag := x.frag, order := x.order
    mask := match decodeWord x.word with
      | .ok (.waita _) | .ok (.waitaTo _) => x.mask
      | _ => m }

/-- The replay entries of a group that has settled, in issue order, before those it had not yet replayed (R399, R400). -/
def replaysOf (g : Group) : List Replay := (g.flights.filter (fun x => x.left != 0#32)).map (fun x => replayOf x x.left) ++ g.replay

/-- A command's remainder (R401, Table 16.9). -/
def remainderOf (d : DrayCmd) : Remainder :=
  let a := DrayArgs.ofList d.args
  { ctl := a.ctl, src := a.src, dst := a.dst, aux := a.aux, done := d.done, id := d.drayId, fn := (if d.atom then 0x80#8 else 0#8) ||| d.fn.setWidth 8 }

/-- How many replay entries come before a place in issue order. -/
def replaysBefore (rs : List Replay) (order : Nat) : Nat := (rs.filter (fun r => decide (r.order < order))).length

/-- What is kept of a command beside its remainder and the replay entries of its group (13 R319, R323, R324, R332). -/
def keptOf (rs : List Replay) (d : DrayCmd) : KeptDray :=
  { id := d.drayId, pc := d.pc, mask := d.mask, sibs := d.sibs, rows := d.rows, differ := d.differ, ahead := d.ahead, order := replaysBefore rs d.order }

/-- A fault met by a word or command of a group: its place in issue order and what it reports. -/
structure Met where
  order : Nat
  pc : DWord
  pos : Nat
  lanes : Mask
  cause : BitVec 8
  detail : BitVec 8
  va : DWord
  deriving DecidableEq, Repr

/-- The faults of a group's words and commands (R399; 13 R324). -/
def faultsOf (s : State) (g : Group) : List Met :=
  g.flights.filterMap (fun x =>
    (leastBy (fun (e : Nat × BitVec 8 × BitVec 8 × DWord) => e.1) x.faulted).map (fun e =>
      { order := x.order, pc := if x.runId = 0 then x.pc else x.head, pos := if x.runId = 0 then 0 else x.pos, lanes := maskOf (fun l => x.faulted.any (fun f => f.1 == l)),
        cause := e.2.1, detail := e.2.2.1, va := e.2.2.2 })) ++
  (s.drays.filter (fun d => d.gid == g.gid)).filterMap (fun d => d.fault.map (fun f => { order := d.order, pc := d.pc, pos := 0, lanes := d.mask, cause := f.1, detail := f.2.1, va := f.2.2 }))

/-- The oldest fault is the one reported, unless an issue trap was (R395, R399). -/
def reportFault (s : State) (g : Group) : Group :=
  if g.status == .stopping .trap && g.trapc == 0#64 then
    match leastBy Met.order (faultsOf s g) with
    | some m =>
      { g with
        trapc := m.cause.setWidth 64
        trappc := m.pc
        trapv := m.va
        trapm := m.lanes.setWidth 64
        detail := m.detail
        gstat := (g.gstat &&& ~~~0x700#64) ||| (BitVec.ofNat 64 (m.pos % 8) <<< 8) }
    | none => g
  else g

/-- The group as its frame holds it: words not done are replay entries, commands remainders, nothing is counted (R395, R399). -/
def frozen (s : State) (g : Group) : Group :=
  let ds := s.drays.filter (fun d => d.gid == g.gid)
  { reportFault s g with
    replay := replaysOf g
    remainders := ds.map remainderOf ++ g.remainders
    kept := ds.map (keptOf (replaysOf g)) ++ g.kept.map (fun k => { k with order := replaysBefore (replaysOf g) k.order })
    frags := g.frags.map (fun f => { f with wait := .no, latches := noLatches, board := noBoard })
    flights := []
    sends := []
    owed := false
    cg := []
    cs := []
    cf := []
    cw := [] }

/-- A group that keeps its team from being quiescent (R407-R409; 17 R426). -/
def unsettled (g : Group) : Bool :=
  match g.status with
  | .running | .stopping _ | .draining => true
  | _ => false

/-- A group whose save has not begun, or has to be repeated (R408, R410). -/
def unsaved (g : Group) : Bool :=
  match g.status with
  | .held _ => true
  | _ => unsettled g

/-- Overrun, the time from the quantum's end, is added to DEBT when nothing of a team being pre-empted holds its save back any longer (R408). -/
def addOverrun (s : State) (t : Team) : State :=
  let die := siteDie t.site
  let mine := s.groups.filter (fun g => g.team == t.tid)
  if t.grace == 0 || mine.isEmpty || mine.any unsaved then s
  else modInstAt s t.vd die (fun i => { i with debt := min (i.debt + (cycleOf s die - t.quantum) / cyclesPerUs s die) (2 ^ 32 - 1) })

/-- The places that a group, or commands, had taken in queues for tokens and at channel rings are given up (14 R356). -/
def givePlaces (s : State) (gid : Nat) (cmds : List Nat) : State :=
  { s with
    tickets := s.tickets.filter (fun t => match t.who with
      | .send g _ => g != gid
      | .unit c => !cmds.contains c
      | .steal _ | .resend _ => true)
    teams := s.teams.map (fun t => { t with chans := t.chans.map (fun c => { c with claims := c.claims.filter (fun k => k.gid != gid) }) }) }

/-- Writes a settled group's frame and starts its save (R395). -/
def saveGroup (s : State) (v : Vd) (g : Group) (why : Why) : State :=
  let h := { frozen s g with status := .saving why }
  let s := givePlaces { setGroup s h with drays := s.drays.filter (fun d => d.gid != g.gid) } g.gid ((s.drays.filter (fun d => d.gid == g.gid)).map DrayCmd.id)
  let s := writeFrame s v h (if why = .trap then 1 else 2) (((findTeam s g.team).bind Team.saveBlk).getD 0 / 65536)
  match findTeam s g.team with
  | some t => addOverrun s t
  | none => s

/-- The group of a virtual device with a handle. -/
def groupByHandle (s : State) (vd handle : Nat) : Option Group := s.groups.find? (fun g => g.vd == vd && g.handle == handle)

/-- Why a group that stops, stops; a group whose save faulted is saved again (R395, R410). -/
def stopWhy (s : State) (g : Group) : Option Why :=
  match g.status with
  | .stopping w | .held w => some w
  | .running => if stopDue s g then some .preempt else none
  | _ => none

/-- GROUP_STOP: what the group has issued settles; then its context is saved and its slot freed (R395, R399, R401). -/
def execGroupStop (vd handle : Nat) (s : State) : Host.Outcome State Fault Refusal :=
  match groupByHandle s vd handle, findVd s vd with
  | some g0, some v =>
    match stopWhy s g0 with
    | none => .next s
    | some why =>
      let g := if g0.status == .running then { g0 with status := .stopping .preempt } else g0
      let s := stopSet (withdraw (setGroup s g) g) g why
      match findGroup s g.gid with
      | none => .next s
      | some g =>
        if !settled s g || saveFaults s v g || lockHeld s (unitPa v handle) 0x21000 then .next s
        else
          let s := freeWaits s g.gid
          match findGroup s g.gid with
          | some g => .next (saveGroup s v g why)
          | none => .next s
  | _, _ => .next s

/-! ### Records (16 R402-R405) -/

/-- The launch number and node of a group, as a TRAP record names them. -/
def launchOf (s : State) (g : Group) : Nat × Nat :=
  match findTeam s g.team with
  | some t => if t.kernel then (0, 0) else (t.launch, t.node)
  | none => (0, 0)

/-- The TRAP record of a stopped group. -/
def trapRecord (s : State) (g : Group) : Record :=
  let l := launchOf s g
  { emptyRecord 1 g.vdie with
    cause := g.trapc.setWidth 8
    detail := g.detail
    handle := g.handle
    trappc := g.trappc
    trapv := g.trapv
    trapm := g.trapm.setWidth 32
    nreplay := g.replay.length
    arg0 := BitVec.ofNat 64 l.1
    arg1 := BitVec.ofNat 64 l.2 }

/-- Posts a TRAP record: an XLAT2 fault's goes to the SMC, which passes one for a lost frame on (R397; 12 R315), and may pass on any other (log 66). -/
def postTrap (s : State) (g : Group) : State :=
  let r := trapRecord s g
  let s := if r.cause == causeXlat2 then { s with smcRecords := s.smcRecords ++ [(g.vd, r)] } else s
  if r.cause == causeXlat2 && r.detail != 0x23#8 then s else postRecord s g.vd g.vdie r

/-- A TRAP record that stands with the SMC alone, for a group of a virtual device (R397). -/
def withSmc (e : Nat × Record) : Bool := e.2.type == 1 && e.2.cause == causeXlat2 && e.2.detail != 0x23#8

/-- The SMC changes over, or has halted: what it serves waits (17 R440). -/
def smcAway (s : State) : Bool := s.failover || s.smcHalted

/-- The SMC forwards a TRAP record, unchanged, to the ring of its group's instance, not while the SMC changes over or has halted (R397; 17 R440; log 66). -/
def forwardTrap (n : Nat) (s : State) : State :=
  match s.smcRecords[n]? with
  | none => s
  | some e => if withSmc e && !smcAway s then postRecord { s with smcRecords := s.smcRecords.eraseIdx n } e.1 e.2.vdie e.2 else s

/-- The SMC is done with the TRAP record of a group: it has been resumed or killed. -/
def smcDone (s : State) (vd handle : Nat) : State := { s with smcRecords := s.smcRecords.filter (fun e => !(e.1 == vd && e.2.type == 1 && e.2.handle == handle)) }

/-- A group of an instance that still issues or waits in WFI (R396). -/
def instanceLives (s : State) (g : Group) : Bool :=
  s.groups.any (fun h => h.vd == g.vd && h.vdie == g.vdie && h.level == .k && (match h.status with
    | .running => true
    | _ => false))

/-- The SMC is told when no group of an instance issues or waits in WFI any longer (R396). -/
def tellSmc (s : State) (g : Group) : State := if g.level == .k && !instanceLives s g then { s with smcTold := s.smcTold ++ [g.vd] } else s

/-- Copies a saved team's scratchpad, its channel rings with it, to its scratch block, once its last group has been saved (R407); the frame of its group 0, which a trap may have saved before, names
the block (Table 16.7, SCRBLK). -/
def saveTeam (s : State) (v : Vd) (t : Team) : State :=
  match t.saveBlk with
  | none => s
  | some b =>
    let k := clusterOf s t.site
    let s := deviceWrite s (v.desc.saveBase + b) (rdList k.sram t.block t.size)
    let s := match teamGroup s t.tid 0 with
      | some g => deviceWrite s (unitPa v g.handle + 0x14) (leBytes (b / 65536) 4)
      | none => s
    setTeam s { t with status := .saved, grace := 0 }

/-- Whether every group of a team has been saved. -/
def teamStill (s : State) (tid : Nat) : Bool :=
  s.groups.all (fun g => g.team != tid || (match g.status with
    | .stopped _ | .queued => true
    | _ => false))

/-- A user group that has stopped with SYSCALL asks the die kernel for a service (16 R418; 01 R27). -/
def askKernel (s : State) (g : Group) : State :=
  if g.level == .u && g.trapc == causeSyscall.setWidth 64 then { s with syscalls := g.gid :: s.syscalls.filter (fun i => i != g.gid) } else s

/-- The lanes of a word that a withdrawal has left without a request: not those of a held arrival, of scratchpad words, of an armed wait. -/
def lostLanes (s : State) (g : Group) (x : Flight) : Mask :=
  let rs := s.reqs.filter (fun r => r.gid == g.gid && r.flight == x.id)
  if x.held || rs.any (fun r => r.op == .sram) || s.monitors.any (fun m => m.gid == g.gid && m.flight == x.id) then 0#32
  else x.left &&& ~~~(rs.foldl (fun m r => m ||| r.mask) 0#32)

/-- A group whose pre-emption is given up goes on in its slot; the lanes that were withdrawn are issued again, as replay entries are (R399, R400, R410). -/
def goOn (s : State) (g : Group) : Group :=
  let again := g.flights.filter (fun x => lostLanes s g x != 0#32)
  let h := again.foldl (fun g x =>
    let lost := lostLanes s g x
    if x.left = lost then g.dropFlight x.id
    else { g with flights := g.flights.map (fun y => if y.id == x.id then { y with left := y.left &&& ~~~lost, unacc := y.unacc &&& ~~~lost } else y) }) g
  { h.mapWaits (fun w => if again.any (fun x => w == .monitor x.id) then .no else w) with
    status := .running
    replay := again.map (fun x => replayOf x (lostLanes s g x)) ++ g.replay }

/-- A pre-emption whose save faults is abandoned: the team goes on in place, as if its quantum had been renewed, but for the sets of which a member has trapped; the rendezvous
count of a set of which a member has been saved starts again (R410; 10 R242). -/
def abandonPreempt (s : State) (t : Team) : State :=
  let saved := fun (g : Group) => match g.status with
    | .saving .preempt | .stopped .preempt => true
    | _ => false
  let s := { s with groups := s.groups.map (fun g =>
    if g.team == t.tid && !(setMates s g).any trapHeld then
      let h := { g with owed := false, fhcount := if (setMates s g).any saved then 0 else g.fhcount }
      (match g.status with
       | .stopping .preempt => goOn s h
       | .saving .preempt | .stopped .preempt => { h with status := .queued }
       | _ => h)
    else g) }
  startQuantum (setTeam s { t with saveBlk := none, grace := 0 }) t.tid

/-- SAVEF is set, and the SMC told (R410). -/
def tellSavef (s : State) (vd : Nat) : State := { modVd s vd (fun v => { v with savef := true }) with smcTold := s.smcTold ++ [vd] }

/-- A team being pre-empted leaves its cluster when every group that is left has been saved; when the copy of its scratchpad faults, the pre-emption is abandoned (R407, R410). -/
def leaveIfStill (s : State) (v : Vd) (tid : Nat) : State :=
  match findTeam s tid with
  | some t => if t.grace != 0 && teamStill s tid && s.groups.any (fun g => g.team == tid) then
      (if t.saveBlk.any (fun b => areaFaults s v b t.size true) then abandonPreempt (tellSavef s v.num) t else saveTeam s v t)
    else s
  | none => s

/-- The SMC clears SAVEF when a repeated save has completed, unless another group's is still to be repeated (R410). -/
def clearSavef (s : State) (g : Group) : State :=
  if g.refault then modVd s g.vd (fun v => { v with savef := s.groups.any (fun h => h.vd == g.vd && h.gid != g.gid && h.refault) }) else s

/-- SAVE_COMPLETE: the save of a stopped group ends; a trapped group's TRAP record is posted; one that stopped with its set waits for the trapped member's resumption, or is queued if
that has come (R395, R407; 10 R242). -/
def execSaveComplete (vd handle : Nat) (s : State) : Host.Outcome State Fault Refusal :=
  match groupByHandle s vd handle, findVd s vd with
  | some g, some v =>
    match g.status with
    | .saving why =>
      let alone := ((findTeam s g.team).any (fun t => t.grace == 0)) && !(setMates s g).any trapHeld
      let s := setGroup (clearSavef s g) { g with status := if why = .preempt ∧ alone = true then .queued else .stopped why, refault := false }
      let s := if why = .trap then askKernel (tellSmc (postTrap s g) g) g else s
      .next (if why = .collapse then s else leaveIfStill s v g.team)
    | _ => .next s
  | _, _ => .next s

/-- SAVE_WRITE_FAULT: a save write faults at stage 2: SAVEF is set and the SMC told; the group keeps its slot, or its pre-emption is abandoned (R410). -/
def execSaveWriteFault (vd handle : Nat) (s : State) : Host.Outcome State Fault Refusal :=
  match groupByHandle s vd handle, findVd s vd with
  | some g, some v =>
    match g.status with
    | .stopping why =>
      if !settled s g || !saveFaults s v g || why == .collapse then .next s
      else
        let s := tellSavef s vd
        let held := setGroup s { g with status := .held why, refault := true }
        match why, findTeam s g.team with
        | .preempt, some t => .next (if t.grace != 0 && !(setMates s g).any trapHeld then abandonPreempt s t else held)
        | _, _ => .next held
    | _ => .next s
  | _, _ => .next s

/-- The number of records of a ring (R402). -/
def ringSize (i : Inst) : Nat := 2 ^ (min (i.frbase.toNat % 16) 10 + 6)

/-- Whether a ring is full; one whose base has not been written counts as full (R402, R403). -/
def ringFull (i : Inst) : Bool := !i.frset || (i.frtail - i.frhead).toNat == ringSize i

/-- A record's 64 bytes (Table 16.2). -/
def recordBytes (r : Record) (cycle : Nat) : List (BitVec 8) :=
  leBytes r.type 1 ++ [r.cause, r.detail] ++ leBytes r.vdie 1 ++ leBytes r.handle 4 ++ leBytes r.trappc.toNat 8 ++ leBytes r.trapv.toNat 8 ++ leBytes r.trapm.toNat 4 ++
  leBytes r.nreplay 1 ++ zeros 3 ++ leBytes r.arg0.toNat 8 ++ leBytes r.arg1.toNat 8 ++ leBytes cycle 8 ++ zeros 8

/-- Removes the first record of which p holds. -/
def dropFirst (p : Record → Bool) : List Record → List Record
  | [] => []
  | r :: l => if p r then l else r :: dropFirst p l

/-- The SMC is told of a virtual device, once. -/
def tellOnce (s : State) (vd : Nat) : State := { s with smcTold := if s.smcTold.contains vd then s.smcTold else s.smcTold ++ [vd] }

/-- FAULT_RECORD_POST: the oldest record is written to the ring; while the ring is full a TRAP record waits and another is discarded and counted; a write that faults is
held and the SMC told (R402, R403). The record of a dropped launch word, which is no wake event, waits until its virtual device is awake (02 R51). -/
def execFaultRecordPost (vd vdie : Nat) (s : State) : Host.Outcome State Fault Refusal :=
  match (findVd s vd).bind (fun v => (v.inst vdie).map (fun i => (v, i))) with
  | none => .next s
  | some (v, i) =>
    let put := fun (f : Inst → Inst) => modVd s vd (fun v => v.modInst vdie f)
    if ringFull i then
      if i.records.any (fun r => r.type != 1) then
        .next (put (fun j => { j with records := dropFirst (fun r => r.type != 1) j.records, frlost := j.frlost + 1#32 }))
      else .next s
    else match i.records with
      | [] => .next s
      | r :: _ =>
        let gpa := (i.frbase &&& 0x0000FFFFFFFFF000#64).toNat + 64 * (i.frtail.toNat % ringSize i)
        match stage2 s v gpa with
        | .error _ => .next (tellOnce s vd)
        | .ok l =>
          if !l.w then .next (tellOnce s vd)
          else if (r.type == 2 && v.state != .active && v.state != .idle) || lockHeld s (l.at gpa) 64 then .next s
          else
            .next (modVd (deviceWrite s (l.at gpa) (recordBytes r (cycleOf s i.pdie))) vd
              (fun v => v.modInst vdie (fun j => { j with records := j.records.drop 1, frtail := j.frtail + 1#32 })))

/-! ### Restore (16 R395, R400) -/

/-- Whether the members of a group's set can be restored with it. -/
def restoreSet (s : State) (g : Group) : List Group :=
  g :: (setMates s g).filter (fun h => h.status == .queued)

/-- A group restored from its frame in its seat (R400, R412). Its replay entries and commands take their places in issue order, before everything it issues from now on (R399; 13 R324). -/
def restored (s : State) (v : Vd) (g : Group) : Group :=
  let h := readFrame s (unitPa v g.handle) (cycleOf s (siteDie g.site)) g
  { h with
    replay := (List.range h.replay.length).filterMap (fun i => (h.replay[i]?).map (fun r => { r with order := s.nextId + 2 * i + 1 }))
    kept := g.kept.map (fun k => { k with order := s.nextId + 2 * k.order })
    status := if h.exited == 0xFFFFFFFF#32 && h.replay.isEmpty then .draining else .running }

/-- The places in issue order that restored groups have been given are taken: a group has at most 64 replay entries (R400). -/
def placesTaken (s : State) : State := { s with nextId := s.nextId + 130 }

/-- The codebook of a cluster that receives groups of a team: the team's image, once it has executed CBLD (09 R205). -/
def takeCodebook (s : State) (k : Cluster) (t : Team) : Cluster :=
  match imagePa s t with
  | some pa => if t.cbUsed then { k with codebook := packMap 256 (fun i => BitVec.ofNat 32 (rdBytes s.mem (pa + 4 * i) 4)) } else k
  | none => k

/-- GROUP_RESTORE: a group that ERET resumed gets room on its team's cluster and is restored, its whole set with it, once each of its set has been resumed (R395, R400; 10 R242). -/
def execGroupRestore (vd handle : Nat) (s : State) : Host.Outcome State Fault Refusal :=
  match groupByHandle s vd handle, findVd s vd with
  | some g, some v =>
    match g.status, findTeam s g.team with
    | .queued, some t =>
      if !resident t || t.grace != 0 || (setMates s g).any (fun h => setStopped h || (h.status == .running && h.owed)) then .next s
      else match seatAll s t.site [] (restoreSet s g) with
        | none => .next s
        | some gs =>
          let s := if t.cbUsed then setCluster s (takeCodebook s (clusterOf s t.site) t) else s
          .next ((gs.map (restored s v)).foldl setGroup (placesTaken s))
    | _, _ => .next s
  | _, _ => .next s

/-! ### Pre-emption and the watchdog (16 R407-R409) -/

/-- The effective priority of a team's launch. -/
def teamPrio (s : State) (t : Team) : Nat := (((findVd s t.vd).bind (fun v => v.launch t.launch)).map Launch.prio).getD 0

/-- Whether a team of the same virtual device and of at least a priority waits for a cluster of a die (R407). -/
def teamWaits (s : State) (v : Vd) (vdie prio : Nat) : Bool :=
  s.teams.any (fun t => t.vd == v.num && t.vdie == vdie && t.status == .saved && decide (prio ≤ teamPrio s t)) ||
  ((v.inst vdie).map (fun i => i.ranges.any (fun r => decide (r.lo < r.hi) && decide (prio ≤ ((v.launch r.launch).map Launch.prio).getD 0)))).getD false

/-- QUANTUM_EXPIRES: at its quantum's end a team is pre-empted when another waits and it can be saved; otherwise a new quantum begins (R407). -/
def execQuantumExpires (team : Nat) (s : State) : Host.Outcome State Fault Refusal :=
  match findTeam s team with
  | none => .next s
  | some t =>
    let now := cycleOf s (siteDie t.site)
    if t.kernel || !resident t || t.grace != 0 || decide (now < t.quantum) then .next s
    else match findVd s t.vd with
      | none => .next s
      | some v =>
        if teamWaits s v t.vdie (teamPrio s t) then
          match poolFor s v t.size with
          | some b =>
            let s := setTeam s { t with saveBlk := some b, grace := now + 1 }
            .next { s with groups := s.groups.map (fun g => if g.team == team && g.status == .running && !inBonded g then { g with status := .stopping .preempt } else g) }
          | none => .next (startQuantum s team)
        else .next (startQuantum s team)

/-- Kills a group: of its requests that have not been accepted each is or is not performed, as a free value says; its monitors, commands and resources go; waiting members of its set raise
FOURHAND (R409, R419; 10 R241). -/
def killGroup (s : State) (g : Group) : State :=
  let cmds := (s.drays.filter (fun d => d.gid == g.gid)).map DrayCmd.id
  let f := takeFree s
  let waits := fun (r : Req) => match r.op with
    | .waita _ => true
    | _ => false
  let s := { smcDone (givePlaces f.2 g.gid cmds) g.vd g.handle with
    groups := s.groups.filter (fun h => h.gid != g.gid)
    reqs := s.reqs.filter (fun r => r.gid != g.gid || accepted r || (f.1.getLsbD (r.id % 64) && !waits r))
    monitors := s.monitors.filter (fun m => m.gid != g.gid)
    drays := s.drays.filter (fun d => d.gid != g.gid)
    blocks := s.blocks.filter (fun b => !cmds.contains b.op)
    cur := if s.cur.any (fun u => u.gid == g.gid) then none else s.cur }
  breakSets s g.team g.num none

/-- A WATCHDOG record (Table 16.3). -/
def watchdogRecord (vdie launch cluster : Nat) : Record :=
  { emptyRecord 9 vdie with arg0 := BitVec.ofNat 64 launch, arg1 := BitVec.ofNat 64 cluster }

/-- A team retires: its block and rings are freed, and it counts toward its node (17 R427). Retired teams of launches that have completed are forgotten. -/
def retireTeam (s : State) (t : Team) : State :=
  let s := setTeam s { t with status := .retired, chans := t.chans.map (fun c => { c with count := 0, claims := [] }), saveBlk := none, grace := 0, held := none }
  let s := countRetired s t.vd t.launch t.node 1
  { s with teams := s.teams.filter (fun u => u.status != .retired || u.kernel || ((findVd s u.vd).bind (fun v => v.launch u.launch)).isSome) }

/-- WATCHDOG: 500 us after the quantum's end of a team being pre-empted, while it is not quiescent, every group of the virtual device on the cluster is killed (R409). -/
def execWatchdog (die cluster : Nat) (s : State) : Host.Outcome State Fault Refusal :=
  let site := Site.cluster die cluster
  match (teamsAt s site).find? (fun t => t.grace != 0 && decide (t.quantum + 500 * cyclesPerUs s die ≤ cycleOf s die) && s.groups.any (fun g => g.team == t.tid && unsettled g)) with
  | none => .next s
  | some t =>
    let ts := (teamsAt s site).filter (fun u => u.vd == t.vd)
    let gs := s.groups.filter (fun g => g.vd == t.vd && ts.any (fun u => u.tid == g.team))
    let s := ts.foldl retireTeam (gs.foldl killGroup s)
    .next (postRecord s t.vd t.vdie (watchdogRecord t.vdie t.launch cluster))

/-! ### Draining and retirement (17 R426, R427) -/

/-- The records a draining group posts: its logged failures, then its refusal (R426). -/
def drainRecords (g : Group) : List Record :=
  g.dlog.map (fun e => { emptyRecord 5 g.vdie with handle := g.handle, arg0 := e.id.setWidth 64, arg1 := e.code.setWidth 64 }) ++
  (match g.refuse with
   | some a => [{ emptyRecord 6 g.vdie with handle := g.handle, arg0 := a }]
   | none => [])

/-- A group's traffic is all home (R426). -/
def drained (s : State) (g : Group) : Bool :=
  quiet g && g.flights.isEmpty && g.remainders.isEmpty && !s.drays.any (fun d => d.gid == g.gid)

/-- DRAIN_END: a draining group whose traffic is home posts its records and frees its resources; it may be the last that held its team's save back (R426; 16 R396, R407, R408). -/
def execDrainEnd (vd handle : Nat) (s : State) : Host.Outcome State Fault Refusal :=
  match groupByHandle s vd handle with
  | none => .next s
  | some g =>
    if g.status != .draining || !drained s g then .next s
    else
      let s := (drainRecords g).foldl (fun s r => postRecord s g.vd g.vdie r) s
      let s := { s with groups := s.groups.filter (fun h => h.gid != g.gid) }
      let s := tellSmc s g
      match findTeam s g.team, findVd s vd with
      | some t, some v =>
        let t := { t with drained := t.drained + 1 }
        .next (leaveIfStill (addOverrun (setTeam s t) t) v t.tid)
      | _, _ => .next s

/-- TEAM_RETIRE: a team whose groups have all drained or been killed retires (R427). -/
def execTeamRetire (team : Nat) (s : State) : Host.Outcome State Fault Refusal :=
  match findTeam s team with
  | none => .next s
  | some t =>
    if t.kernel || t.status == .retired || s.groups.any (fun g => g.team == team) then .next s else .next (retireTeam s t)

end Sys2Proof.Machine
end

