-- ==== Sys2Proof/Machine/Choice.lean ====
section
/-! DEFINITION. Machine/Choice.lean: ISSUE_CHOICE: which fragment of a bay tries to issue next (04 R91; 06 R127-R130). -/

namespace Sys2Proof.Machine

/-- Whether a fragment's word may be tried in a cycle: it waits for nothing, or for something its word itself looks at, or the cycle of a rendezvous is over (R127; 10 R240). -/
def mayTry (cycle : Nat) (f : Frag) : Bool :=
  match f.wait with
  | .no | .barrierDone | .wfiDone | .fence _ | .fenceVa | .scrub _ _ | .dwait _ | .waitc _ _ | .trapDue _ => true
  | .started c => decide (c < cycle)
  | .barrier _ _ | .monitor _ | .rendezvous _ | .wfi => false

/-- A fragment that may issue, with what the choice compares: class, age, the slot of its group, and whether it issued its group's last word. -/
structure Cand where
  cur : Cur
  cls : Nat
  age : Nat
  slot : Nat
  last : Bool
  bonded : Bool
  deriving DecidableEq, Repr

/-- The class of a group: every group of a supervisor core is in one (R128). -/
def classOf (g : Group) : Nat := if isCluster g.site then g.prio else 0

/-- The fragments of a group that may be tried; a group that replays issues its entries alone (16 R400), one that must stop issues nothing outside a bonded run (04 R91; 10 R242; 16 R407). -/
def groupCands (s : State) (g : Group) : List Cand :=
  let cand := fun (i age : Nat) (bonded : Bool) => ({ cur := { gid := g.gid, fi := i }, cls := classOf g, age := age, slot := g.slot, last := i == g.lastFrag, bonded := bonded } : Cand)
  let cycle := cycleOf s (siteDie g.site)
  let all := if g.replay.isEmpty then
      (List.range g.frags.length).filterMap (fun i => (g.frags[i]?).bind (fun f => if mayTry cycle f then some (cand i f.age f.bonded) else none))
    else [cand 0 ((g.frags.head?.map Frag.age).getD 0) false]
  if stopDue s g then [] else all.filter (fun c => !s.tried.contains c.cur)

/-- The running groups of a bay; an SMC core that has halted issues nothing (16 R421). -/
def bayGroups (s : State) (site : Site) (bay : Nat) : List Group :=
  if s.smcHalted && site == .smc then [] else s.groups.filter (fun g => g.site == site && g.bay == bay && g.status == .running)

/-- The least number among the keys of a list. -/
def minKey {α : Type} (key : α → Nat) (l : List α) : Nat :=
  match leastBy key l with
  | some x => key x
  | none => 0

/-- The age a group competes with: the older of its fragments' (R129). -/
def groupAge (cs : List Cand) (gid : Nat) : Nat := minKey Cand.age (cs.filter (fun c => c.cur.gid == gid))

/-- The choice among fragments that may issue: the highest class, the oldest group, the first slot at or after the pointer, the fragment that did not issue last
(R128, R129). -/
def pick (ptr : Nat) (cs : List Cand) : Option Cand :=
  let top := cs.foldl (fun m c => max m c.cls) 0
  let cs := cs.filter (fun c => c.cls == top)
  let old := minKey (fun c => groupAge cs c.cur.gid) cs
  let cs := cs.filter (fun c => groupAge cs c.cur.gid == old)
  leastBy (fun c => (c.slot + 8 - ptr % 8) % 8 * 2 + (if c.last then 1 else 0)) cs

/-- A recalibration holds a field's PLL: it is one that stops it, and the die's teams have been saved (17 R440; log 89). -/
def pllHeld (s : State) (die : Nat) : Bool :=
  (s.fields[die]?).any (fun f => f.recal && f.stops) && !s.teams.any (fun t => isCluster t.site && siteDie t.site == die && resident t)

/-- A die's arithmetic clock moves on by at least one cycle, while its field's PLL runs (07 R179; 02 R48; 17 R440; log 4). -/
def advanceCycle (s : State) (die : Nat) : State :=
  if (s.fields[die]?).any FieldSt.pll && !pllHeld s die then { s with cycles := assocSet s.cycles die (cycleOf s die + 1 + Config.cyclesTaken s.freeCtr), freeCtr := s.freeCtr + 1 } else s

/-- Whether a fragment of a bay has been tried since a word of the bay last issued. -/
def bayTried (s : State) (site : Site) (bay : Nat) : Bool := s.groups.any (fun g => g.site == site && g.bay == bay && s.tried.any (fun u => u.gid == g.gid))

/-- The state in which a bay can issue in the current cycle: one word in a cycle (R128). -/
def bayCycle (s : State) (site : Site) (bay : Nat) : State :=
  let die := siteDie site
  if assoc (clusterOf s site).lastIssue bay = cycleOf s die + 1 ∧ !bayTried s site bay then advanceCycle s die else s

/-- ISSUE_CHOICE: the fragment that a bay tries next is chosen, and the round-robin pointer moves behind its slot; it goes back while tried fragments have not issued. When there is none to
choose, a later cycle begins (R91, R128; log 9). -/
def execIssueChoice (site : Site) (bay : Nat) (s : State) : Host.Outcome State Fault Refusal :=
  if s.cur.isSome then .next s
  else
    let gs := bayGroups s site bay
    let s := bayCycle s site bay
    let k := clusterOf s site
    let ptr := if bayTried s site bay then assoc k.rr (bay + 8) else assoc k.rr bay
    let owner := gs.find? (fun g => g.replay.isEmpty && g.frags.any (fun f => f.bonded))
    let cs := match owner with
      | some g => (groupCands s g).filter Cand.bonded
      | none => gs.flatMap (groupCands s)
    match pick ptr cs with
    | some c =>
      .next { setCluster s { k with
          rr := if owner.isSome then k.rr else assocSet (assocSet k.rr (bay + 8) ptr) bay ((c.slot + 1) % 8)
          lastIssue := assocSet k.lastIssue bay (cycleOf s (siteDie site) + 1) } with cur := some c.cur }
    | none =>
      let s := if gs.isEmpty then s else setCluster s { k with rr := assocSet k.rr bay ptr }
      .next (advanceCycle { s with tried := s.tried.filter (fun u => !s.groups.any (fun g => g.gid == u.gid && g.site == site && g.bay == bay)) } (siteDie site))

end Sys2Proof.Machine
end

