-- ==== Sys2Proof/Machine/Integer.lean ====
section
/-! DEFINITION. Machine/Integer.lean: integer, constant, move, address, compare and select words (07 R159-R172). -/

namespace Sys2Proof.Machine

/-! ### The operations on values -/

/-- The signed smaller and larger, and the unsigned ones (Table 7.1). -/
def iminOp (a b : Word) : Word := if a.sle b then a else b
def imaxOp (a b : Word) : Word := if a.sle b then b else a
def iminuOp (a b : Word) : Word := if a.ule b then a else b
def imaxuOp (a b : Word) : Word := if a.ule b then b else a

/-- Bits [63:32] of the signed and of the unsigned product (Table 7.1). -/
def imulhOp (a b : Word) : Word := (a.signExtend 64 * b.signExtend 64).extractLsb' 32 32
def imulhuOp (a b : Word) : Word := (a.setWidth 64 * b.setWidth 64).extractLsb' 32 32

/-- Shifts by the whole unsigned amount, and rotation by the amount mod 32 (R164). -/
def shlOp (a b : Word) : Word := if b.toNat < 32 then a <<< b.toNat else 0#32
def shrOp (a b : Word) : Word := if b.toNat < 32 then a >>> b.toNat else 0#32
def shraOp (a b : Word) : Word := a.sshiftRight (min b.toNat 31)
def rotlOp (a b : Word) : Word := a.rotateLeft (b.toNat % 32)

/-- The position and the effective width of a bit field named by b (R165). -/
def fieldPos (b : Word) : Nat := (b.extractLsb' 0 5).toNat
def fieldWidth (b : Word) : Nat := min (b.extractLsb' 8 6).toNat (32 - fieldPos b)

/-- The mask of the low n bits. -/
def lowMask (n : Nat) : Word := BitVec.ofNat 32 (2 ^ n - 1)

/-- BFX: the field of a at pos, zero- or sign-extended (R165). -/
def bfxOp (sx : Bool) (a b : Word) : Word :=
  let ew := fieldWidth b
  let x := (a >>> fieldPos b) &&& lowMask ew
  if ew = 0 then 0#32
  else if sx && x.getLsbD (ew - 1) then x ||| ~~~lowMask ew
  else x

/-- BFI: the low bits of a put into d at pos (R165). -/
def bfiOp (a b d : Word) : Word :=
  let m := lowMask (fieldWidth b) <<< fieldPos b
  (d &&& ~~~m) ||| ((a <<< fieldPos b) &&& m)

/-- Byte i of a word. -/
def byteAt (a : Word) (i : Nat) : BitVec 8 := a.extractLsb' (8 * i) 8

/-- DP4: d plus the four products of bytes, signed or unsigned (R166). -/
def dp4Op (uns : Bool) (a b d : Word) : Word :=
  let ext := fun (x : BitVec 8) => if uns then x.setWidth 32 else x.signExtend 32
  (List.range 4).foldl (fun acc i => acc + ext (byteAt a i) * ext (byteAt b i)) d

/-- VADDMIN (R166). -/
def vaddminOp (a b d : Word) : Word := iminOp d (a + b)

/-- IUNARY functions (Table 7.2). -/
def absOp (a : Word) : Word := if a.msb then -a else a
def popcOp (a : Word) : Word := BitVec.ofNat 32 ((List.range 32).filter (fun i => a.getLsbD i)).length
def clzOp (a : Word) : Word := BitVec.ofNat 32 (((List.range 32).find? (fun i => a.getLsbD (31 - i))).getD 32)
def ctzOp (a : Word) : Word := BitVec.ofNat 32 (((List.range 32).find? (fun i => a.getLsbD i)).getD 32)
def brevOp (a : Word) : Word := a.reverse
def bswapOp (a : Word) : Word := byteAt a 0 ++ byteAt a 1 ++ byteAt a 2 ++ byteAt a 3
def sextbOp (a : Word) : Word := (a.setWidth 8).signExtend 32
def sexthOp (a : Word) : Word := (a.setWidth 16).signExtend 32

/-- LEA: base plus the sign-extended index, scaled by 4 with x = 1 (R170). -/
def leaOp (x : Bool) (a : DWord) (b : Word) : DWord := a + (b.signExtend 64 <<< (if x then 2 else 0))

/-- The conditions of ICMP, ICMPU and ICMP64 on values of any width; uns selects the unsigned order of codes 2 to 5 (Table 7.4). -/
def icond {w : Nat} (uns : Bool) (cond : BitVec 4) (a b : BitVec w) : Bool :=
  let lt := fun (x y : BitVec w) => if uns then x.ult y else x.slt y
  if cond = 0#4 then a == b
  else if cond = 1#4 then a != b
  else if cond = 2#4 then lt a b
  else if cond = 3#4 then !lt b a
  else if cond = 4#4 then lt b a
  else if cond = 5#4 then !lt a b
  else if cond = 6#4 then (a &&& b) != 0#w
  else if cond = 7#4 then (a &&& b) == 0#w
  else if cond = 8#4 then a.ult b
  else if cond = 9#4 then !b.ult a
  else if cond = 10#4 then b.ult a
  else !a.ult b

/-! ### The words -/

/-- A two-source word (R163). -/
def two (w : FmtA) (op : Word → Word → Word) (c : Ctx) : Ctx :=
  put32 c w.u w.n w.d (fun l => op (op32 c w.a l) (srcB32 c w.x w.b l))

/-- A two-source word that also reads d; immB says whether x selects an immediate (R165, R166). -/
def three (w : FmtA) (immB : Bool) (op : Word → Word → Word → Word) (c : Ctx) : Ctx :=
  put32 c w.u w.n w.d (fun l => op (op32 c w.a l) (srcB32 c (immB && w.x) w.b l) (op32 c w.d l))

/-- A one-source format X word (R167). -/
def one (w : FmtX) (op : Word → Word) (c : Ctx) : Ctx := put32 c w.u w.n w.d (fun l => op (op32 c w.a l))

/-- IADD (R163). -/
def execIadd (w : FmtA) (s : State) : Host.Outcome State Fault Refusal := plain (.iadd w) s (two w (· + ·))
/-- ISUB (R163). -/
def execIsub (w : FmtA) (s : State) : Host.Outcome State Fault Refusal := plain (.isub w) s (two w (· - ·))
/-- IMUL (R163). -/
def execImul (w : FmtA) (s : State) : Host.Outcome State Fault Refusal := plain (.imul w) s (two w (· * ·))
/-- IMULH (R163). -/
def execImulh (w : FmtA) (s : State) : Host.Outcome State Fault Refusal := plain (.imulh w) s (two w imulhOp)
/-- IMULHU (R163). -/
def execImulhu (w : FmtA) (s : State) : Host.Outcome State Fault Refusal := plain (.imulhu w) s (two w imulhuOp)
/-- IMAD (R166). -/
def execImad (w : FmtA) (s : State) : Host.Outcome State Fault Refusal := plain (.imad w) s (three w true (fun a b d => a * b + d))
/-- IMIN (R163). -/
def execImin (w : FmtA) (s : State) : Host.Outcome State Fault Refusal := plain (.imin w) s (two w iminOp)
/-- IMAX (R163). -/
def execImax (w : FmtA) (s : State) : Host.Outcome State Fault Refusal := plain (.imax w) s (two w imaxOp)
/-- IMINU (R163). -/
def execIminu (w : FmtA) (s : State) : Host.Outcome State Fault Refusal := plain (.iminu w) s (two w iminuOp)
/-- IMAXU (R163). -/
def execImaxu (w : FmtA) (s : State) : Host.Outcome State Fault Refusal := plain (.imaxu w) s (two w imaxuOp)
/-- IUNARY.NEG (R167). -/
def execIunaryNeg (w : FmtX) (s : State) : Host.Outcome State Fault Refusal := plain (.iunaryNeg w) s (one w (fun a => -a))
/-- IUNARY.ABS (R167). -/
def execIunaryAbs (w : FmtX) (s : State) : Host.Outcome State Fault Refusal := plain (.iunaryAbs w) s (one w absOp)
/-- IUNARY.NOT (R167). -/
def execIunaryNot (w : FmtX) (s : State) : Host.Outcome State Fault Refusal := plain (.iunaryNot w) s (one w (fun a => ~~~a))
/-- IUNARY.POPC (R167). -/
def execIunaryPopc (w : FmtX) (s : State) : Host.Outcome State Fault Refusal := plain (.iunaryPopc w) s (one w popcOp)
/-- IUNARY.CLZ (R167). -/
def execIunaryClz (w : FmtX) (s : State) : Host.Outcome State Fault Refusal := plain (.iunaryClz w) s (one w clzOp)
/-- IUNARY.CTZ (R167). -/
def execIunaryCtz (w : FmtX) (s : State) : Host.Outcome State Fault Refusal := plain (.iunaryCtz w) s (one w ctzOp)
/-- IUNARY.BREV (R167). -/
def execIunaryBrev (w : FmtX) (s : State) : Host.Outcome State Fault Refusal := plain (.iunaryBrev w) s (one w brevOp)
/-- IUNARY.BSWAP (R167). -/
def execIunaryBswap (w : FmtX) (s : State) : Host.Outcome State Fault Refusal := plain (.iunaryBswap w) s (one w bswapOp)
/-- IUNARY.SEXTB (R167). -/
def execIunarySextb (w : FmtX) (s : State) : Host.Outcome State Fault Refusal := plain (.iunarySextb w) s (one w sextbOp)
/-- IUNARY.SEXTH (R167). -/
def execIunarySexth (w : FmtX) (s : State) : Host.Outcome State Fault Refusal := plain (.iunarySexth w) s (one w sexthOp)
/-- SHL (R164). -/
def execShl (w : FmtA) (s : State) : Host.Outcome State Fault Refusal := plain (.shl w) s (two w shlOp)
/-- SHR (R164). -/
def execShr (w : FmtA) (s : State) : Host.Outcome State Fault Refusal := plain (.shr w) s (two w shrOp)
/-- SHRA (R164). -/
def execShra (w : FmtA) (s : State) : Host.Outcome State Fault Refusal := plain (.shra w) s (two w shraOp)
/-- ROTL (R164). -/
def execRotl (w : FmtA) (s : State) : Host.Outcome State Fault Refusal := plain (.rotl w) s (two w rotlOp)
/-- AND (R163). -/
def execAnd (w : FmtA) (s : State) : Host.Outcome State Fault Refusal := plain (.and w) s (two w (· &&& ·))
/-- OR (R163). -/
def execOr (w : FmtA) (s : State) : Host.Outcome State Fault Refusal := plain (.or w) s (two w (· ||| ·))
/-- XOR (R163). -/
def execXor (w : FmtA) (s : State) : Host.Outcome State Fault Refusal := plain (.xor w) s (two w (· ^^^ ·))
/-- ANDN (R163). -/
def execAndn (w : FmtA) (s : State) : Host.Outcome State Fault Refusal := plain (.andn w) s (two w (fun a b => a &&& ~~~b))
/-- BFX (R165). -/
def execBfx (w : FmtA) (s : State) : Host.Outcome State Fault Refusal :=
  plain (.bfx w) s (fun c => put32 c w.u w.n w.d (fun l => bfxOp w.x (op32 c w.a l) (op32 c w.b l)))
/-- BFI (R165). -/
def execBfi (w : FmtA) (s : State) : Host.Outcome State Fault Refusal := plain (.bfi w) s (three w false bfiOp)
/-- DP4; x selects unsigned bytes (R166). -/
def execDp4 (w : FmtA) (s : State) : Host.Outcome State Fault Refusal := plain (.dp4 w) s (three w false (dp4Op w.x))
/-- VADDMIN (R166). -/
def execVaddmin (w : FmtA) (s : State) : Host.Outcome State Fault Refusal := plain (.vaddmin w) s (three w true vaddminOp)

/-- MOVI: sign-extended to 32 bits in a vector register, to 64 bits in a uniform one (R168). -/
def execMovi (w : FmtL) (s : State) : Host.Outcome State Fault Refusal :=
  plain (.movi w) s (fun c => putResult c w.u false w.d 1 (fun _ => if w.u then w.imm.signExtend 64 else (w.imm.signExtend 32).setWidth 64))

/-- MOVHI: bits [31:16] of the register replaced, every other bit kept (R168). -/
def execMovhi (w : FmtL) (s : State) : Host.Outcome State Fault Refusal :=
  plain (.movhi w) s (fun c => putResult c w.u false w.d 1 (fun l =>
    let old := if w.u then op64 c w.d l else (op32 c w.d l).setWidth 64
    (old &&& ~~~0xFFFF0000#64) ||| (w.imm.setWidth 64 <<< 16)))

/-- MOV: 32 bits, or 64 with x = 1 (R169, Table 7.3). -/
def execMov (w : FmtA) (s : State) : Host.Outcome State Fault Refusal :=
  plain (.mov w) s (fun c =>
    if w.x then put64 c w.u w.n w.d (fun l => op64 c w.a l) else put32 c w.u w.n w.d (fun l => op32 c w.a l))

/-- IADD64 (R170). -/
def execIadd64 (w : FmtA) (s : State) : Host.Outcome State Fault Refusal :=
  plain (.iadd64 w) s (fun c => put64 c w.u w.n w.d (fun l => op64 c w.a l + srcB64 c w.x w.b l))

/-- LEA (R170). -/
def execLea (w : FmtA) (s : State) : Host.Outcome State Fault Refusal :=
  plain (.lea w) s (fun c => put64 c w.u w.n w.d (fun l => leaOp w.x (op64 c w.a l) (op32 c w.b l)))

/-- ICMP: signed (R171). -/
def execIcmp (w : FmtP) (s : State) : Host.Outcome State Fault Refusal :=
  plain (.icmp w) s (fun c => putPred c w.u w.pd (fun l => icond false w.cond (op32 c w.a l) (srcB32 c w.x w.b l)))

/-- ICMPU: unsigned (R171). -/
def execIcmpu (w : FmtP) (s : State) : Host.Outcome State Fault Refusal :=
  plain (.icmpu w) s (fun c => putPred c w.u w.pd (fun l => icond true w.cond (op32 c w.a l) (srcB32 c w.x w.b l)))

/-- ICMP64: signed for codes 0 to 7, unsigned for 8 to 11 (R171). -/
def execIcmp64 (w : FmtP) (s : State) : Host.Outcome State Fault Refusal :=
  plain (.icmp64 w) s (fun c => putPred c w.u w.pd (fun l => icond false w.cond (op64 c w.a l) (srcB64 c w.x w.b l)))

/-- SEL (R172). -/
def execSel (w : FmtQ) (s : State) : Host.Outcome State Fault Refusal :=
  plain (.sel w) s (fun c => put32 c false false w.d (fun l =>
    if (pget c.g w.ps.toNat).getLsbD l != w.n then op32 c w.a l else op32 c w.b l))

end Sys2Proof.Machine
end

