-- ==== Sys2Proof/Machine/Matrix.lean ====
section
/-! DEFINITION. Machine/Matrix.lean: tiles, the vote, the MMA family and the tile words (10 R219-R249). -/

namespace Sys2Proof.Machine

/-! ### The format word (09 Table 9.4) -/

def fwA (x : Word) : Nat := (x.extractLsb' 0 4).toNat
def fwB (x : Word) : Nat := (x.extractLsb' 4 4).toNat
def fwAks (x : Word) : Bool := x.getLsbD 8
def fwBks (x : Word) : Bool := x.getLsbD 9
def fwChunk (x : Word) : Nat := (x.extractLsb' 10 2).toNat
def fwCbsel (x : Word) : Bool := x.getLsbD 14

/-- The width in bits of an element type (Table 10.1). -/
def typeWidth (t : Nat) : Nat := if t ≤ 1 then 16 else if t ≤ 3 then 8 else if t = 4 then 4 else 2

/-- The K of a pass: that of the wider class (R209, R221). -/
def passK (x : Word) : Nat :=
  if fwA x ≤ 1 || fwB x ≤ 1 then 16 else if fwA x ≤ 3 || fwB x ≤ 3 then 32 else 64

/-- The registers per lane of an operand (R221), and of a B quarter (R238). -/
def opRegs (k t : Nat) : Nat := k * typeWidth t / 32
def quarterRegs (k t : Nat) : Nat := max 1 (k * typeWidth t / 128)

/-- Whether a format word passes the checks of R209; tileA says that A comes from a tile. -/
def fwOk (x : Word) (tileA : Bool) : Bool :=
  x.extractLsb' 15 17 == 0#17 && decide (fwA x ≤ 5) && decide (fwB x ≤ 5) && x.extractLsb' 12 2 == 0#2 &&
  (tileA || fwChunk x == 0) && (!fwCbsel x || fwA x == 5 || fwB x == 5)

/-! ### The vote and the checks of R225 -/

/-- The ILLEGAL trap of a word, TRAPV the word (05 R124). -/
def illegal (i : Instr) : Trap := { cause := causeIllegal, val := (encode i).setWidth 64 }

/-- The voted value of a control field: a uniform one always agrees; a dissent raises FORMAT (R225, step 3). -/
def voted (c : Ctx) (f : BitVec 7) : Except Trap Word :=
  let x := op32 c f (leader c.f.mask)
  let dissent := activeOf c.f.mask (fun l => op32 c f l != x)
  if f.toNat < 96 && dissent != 0#32 then .error { cause := causeFormat, mask := some dissent, val := x.setWidth 64 } else .ok x

/-- A block of vector registers that a voted value implies: its field, its size, and its scale register, if any, after it. -/
structure MBlock where
  fld : Nat
  n : Nat
  scale : Bool
  deriving DecidableEq, Repr

/-- Step 5 for one block: aligned to its size and within v95. -/
def MBlock.fits (b : MBlock) : Bool := b.fld % b.n == 0 && decide (b.fld + b.n + (if b.scale then 1 else 0) ≤ 96)

/-- Step 6: the first register of the blocks beyond the allocation. -/
def overBudget (g : Group) (bs : List MBlock) : Option Nat :=
  (bs.flatMap (fun b => (List.range (b.n + (if b.scale then 1 else 0))).map (fun i => g.wbase.toNat + b.fld + i))).find? (fun r => decide (g.vregs ≤ r))

/-- Steps 5 and 6. -/
def blocksOk (i : Instr) (g : Group) (bs : List MBlock) : Except Trap Unit :=
  if !bs.all MBlock.fits then .error (illegal i)
  else match overBudget g bs with
    | some r => .error { cause := causeRegbud, val := BitVec.ofNat 64 r }
    | none => .ok ()

/-- The operand blocks of a matrix word under a format word; quarter says B is a four-in-hand quarter. -/
def mmaBlocks (w : FmtT) (x : Word) (quarter : Bool) : List MBlock :=
  let k := passK x
  (if w.a.toNat < 96 then [{ fld := w.a.toNat, n := opRegs k (fwA x), scale := fwAks x }] else []) ++
  [{ fld := w.b.toNat, n := if quarter then quarterRegs k (fwB x) else opRegs k (fwB x), scale := fwBks x }]

/-- Steps 3 to 6 for MMA, MMAF and MMAZ: the voted format word. -/
def mmaCheck (i : Instr) (w : FmtT) (quarter : Bool) (c : Ctx) : Except Trap Word :=
  match voted c w.f with
  | .error t => .error t
  | .ok x =>
    let tileA := decide (96 ≤ w.a.toNat)
    if !fwOk x tileA then .error (illegal i)
    else if (tileA && fwAks x) || (quarter && fwB x == 5 && passK x == 16) || (c.s.early && siteDie c.g.site == 0 && passK x != 16) then .error (illegal i)
    else match blocksOk i c.g (mmaBlocks w x quarter) with
      | .error t => .error t
      | .ok _ => .ok x

/-- Whether one of the registers a control word implies has a pending write, or, as a destination, is still read by a word not accepted
(06 R141; 16 R398). -/
def regsHeld (c : Ctx) (dst : Bool) (rs : List Nat) : Bool :=
  rs.any (pendingReg c.g c.f.board c.cycle) ||
  (dst && c.g.flights.any (fun x => x.unacc != 0#32 && c.f.board.flights.contains x.id && rs.any (fun r => x.srcs.contains r)))

/-- Whether a matrix word reads a register or a tile row whose write is pending (R231). -/
def operandsHeld (c : Ctx) (w : FmtT) (x : Word) (quarter : Bool) : Bool :=
  regsHeld c false ((mmaBlocks w x quarter).flatMap (fun b => (List.range (b.n + (if b.scale then 1 else 0))).map (fun i => c.g.wbase.toNat + b.fld + i))) ||
  (decide (96 ≤ w.a.toNat) && (lanesOf c.f.mask).any (pendingRow c.f.board c.cycle (w.a.toNat - 96)))

/-- The array of a bay. -/
def arrayOf (s : State) (site : Site) (bay : Nat) : MatArray :=
  (clusterOf s site).arrays.getD bay { until_ := 0, last := 0, granted := false, asking := false }

/-- Whether an array may start in a cycle: it is free, and it has worked in the last 256 cycles or holds a grant (R229; 02 R45). -/
def arrayReady (a : MatArray) (cycle : Nat) : Bool := decide (a.until_ ≤ cycle) && (decide (cycle < a.last + 256) || a.granted)

/-- An array idle for 256 cycles or more asks for a start grant, or takes part in one its cluster was given in the last 64 cycles (02 R45). -/
def askGrant (s : State) (site : Site) (bay cycle : Nat) : State :=
  let k := clusterOf s site
  match k.arrays[bay]? with
  | some a =>
    if a.last + 256 ≤ cycle && !a.granted then
      setCluster s { k with
        asked := if k.arrays.any MatArray.asking then k.asked else cycle
        arrays := setAt k.arrays bay (if cycle < k.grantUntil then { a with granted := true } else { a with asking := true }) }
    else s
  | none => s

/-! ### Elements, products and sums (R222-R228) -/

/-- Element k of a packed operand whose registers reg supplies (09 Table 9.2). -/
def element (t : Nat) (row : BitVec 16 → Option Word) (reg : Nat → Word) (k : Nat) : Fp :=
  if t ≤ 1 then unpack (if t = 0 then bf16 else fp16) ((reg (k / 2)).toNat / 2 ^ (16 * (k % 2)) % 2 ^ 16)
  else if t ≤ 3 then nunpack (if t = 2 then e4m3 else e5m2) ((reg (k / 4)).toNat / 2 ^ (8 * (k % 4)) % 2 ^ 8)
  else if t = 4 then nunpack e2m1 ((reg (k / 8)).toNat / 2 ^ (4 * (k % 8)) % 2 ^ 4)
  else
    let x : BitVec 16 := (reg (k / 16)).extractLsb' (16 * (k / 8 % 2)) 16
    ofScaled (lc2Coord (row x) x (k % 8)) (-2) false

/-- The value of an E8M0 scale (R200). -/
def scaleVal (e : BitVec 8) : Fp := if e = 0xFF#8 then .nan false else .fin false 1 ((e.toNat : Int) - 127)

/-- k-scale k from a scale register: byte k mod 4 of lane k div 4; 1 when the operand is not scaled (R208). -/
def kscale (g : Group) (on : Bool) (r k : Nat) : Fp := if on then scaleVal (byteAt (vget g r (k / 4)) (k % 4)) else .fin false 1 0

/-- ChunkSum: the exact sum of products, an exactly zero sum being +0 (R227). -/
def chunkSum (ps : List Fp) : Fp :=
  match ps.foldl (fun acc p => (addV .rne acc p).1) (.zero false) with
  | .zero _ => .zero false
  | s => s

/-- What an accumulation leaves in an element: zero says that the old value is not read (MMAZ) (R226). -/
def accumulate (zero : Bool) (old : Word) (s : Fp) : Word :=
  BitVec.ofNat 32 (deliver fp32 .rne (if zero then s else (addV .rne (unpack fp32 old.toNat) s).1)).1

/-- The codebook rows a matrix word may use, as they stand when it issues (R228). -/
def tableRow (cb : SMap 32) (on : Bool) (x : BitVec 16) : Option Word := if on then some (rd cb (x.extractLsb' 8 8).toNat) else none

/-- Element (i, k) of A with its scale: from a vector block or from a tile's packed words (R222, R223). -/
def elemA (g : Group) (cb : SMap 32) (w : FmtT) (x : Word) (i k : Nat) : Fp :=
  let reg := fun r => if w.a.toNat < 96 then vget g (g.wbase.toNat + w.a.toNat + r) i else tget g (w.a.toNat - 96) i (8 * fwChunk x + r)
  let v := element (fwA x) (tableRow cb (fwCbsel x)) reg k
  (mulV v (kscale g (fwAks x) (g.wbase.toNat + w.a.toNat + opRegs (passK x) (fwA x)) k)).1

/-- Element (k, j) of B with its scale. -/
def elemB (g : Group) (cb : SMap 32) (w : FmtT) (x : Word) (k j : Nat) : Fp :=
  let v := element (fwB x) (tableRow cb (fwCbsel x)) (fun r => vget g (g.wbase.toNat + w.b.toNat + r) j) k
  (mulV v (kscale g (fwBks x) (g.wbase.toNat + w.b.toNat + opRegs (passK x) (fwB x)) k)).1

/-- Element (k, j) of a member's quarter of B; k counts from the start of the quarter (R238). -/
def elemQuarter (g : Group) (cb : SMap 32) (b : BitVec 7) (x : Word) (k0 k j : Nat) : Fp :=
  let v := element (fwB x) (tableRow cb (fwCbsel x)) (fun r => vget g (g.wbase.toNat + b.toNat + r) j) k
  (mulV v (kscale g (fwBks x) (g.wbase.toNat + b.toNat + quarterRegs (passK x) (fwB x)) (k0 + k))).1

/-- The tile with the rows of a mask accumulated: every operand is read from the group as it stands (R226, R233). -/
def mmaRows (g : Group) (td : Nat) (m : Mask) (k : Nat) (zero : Bool) (a : Nat → Nat → Fp) (b : Nat → Nat → Fp) : Group :=
  (lanesOf m).foldl (fun h i => trow h td i 0xFFFFFFFF#32 (fun j =>
    accumulate zero (tget g td i j) (chunkSum ((List.range k).map (fun q => (mulV (a i q) (b q j)).1))))) g

/-! ### Finality (R229-R232) -/

/-- Records writes to rows of a tile made in cycle t with latency lat: F(r) = max(t + L(r), F'(r) + 1). -/
def finalise (c : Ctx) (td : Nat) (rows : List Nat) (lat : Nat → Nat) : Ctx :=
  let fin := fun r => max (c.cycle + lat r) (if (c.g.rows.any (fun e => e.1 == td * 32 + r)) then assoc c.g.rows (td * 32 + r) + 1 else 0)
  { c with
    g := { c.g with rows := rows.foldl (fun m r => assocSet m (td * 32 + r) (fin r)) c.g.rows }
    f := { c.f with board := { c.f.board with rows := rows.foldl (fun m r => assocSet m (td * 32 + r) (fin r)) c.f.board.rows } } }

/-- The watermark of a tile in a cycle (R232). -/
def watermark (g : Group) (td cycle : Nat) : Nat :=
  ((List.range 32).find? (fun r => decide (cycle < assoc g.rows (td * 32 + r)))).getD 32

/-- Occupies a bay's array from a cycle on; the grant is spent (R229). -/
def occupy (s : State) (site : Site) (bay cycle n : Nat) : State :=
  let k := clusterOf s site
  setCluster s { k with arrays := setAt k.arrays bay { until_ := cycle + n, last := cycle + n, granted := false, asking := false } }

/-- The latency of row r of a matrix word with base latency b; self says that A is the destination tile (Table 10.2). -/
def mmaLat (b : Nat) (self : Bool) (r : Nat) : Nat := b + r / 4 + (if self then 8 else 0)

/-- MMA and MMAZ (R237). -/
def mma (i : Instr) (w : FmtT) (zero : Bool) (c : Ctx) : Except Trap State :=
  match mmaCheck i w false c with
  | .error t => .error t
  | .ok x =>
    if operandsHeld c w x false then .ok c.hold else
    if !arrayReady (arrayOf c.s c.g.site c.g.bay) c.cycle then .ok (askGrant c.hold c.g.site c.g.bay c.cycle) else
    let cb := (clusterOf c.s c.g.site).codebook
    let self := w.a.toNat == w.td.toNat + 96
    let g := mmaRows c.g w.td.toNat c.f.mask (passK x) zero (fun r q => elemA c.g cb w x r q) (fun q j => elemB c.g cb w x q j)
    let c1 := finalise { c with g := g } w.td.toNat (lanesOf c.f.mask) (mmaLat 12 self)
    .ok ({ c1 with s := occupy c.s c.g.site c.g.bay c.cycle (if self then 16 else 8) }.push .invalid).finish

/-- MMA (R237). -/
def execMma (w : FmtT) (s : State) : Host.Outcome State Fault Refusal := issue (.mma w) s (mma (.mma w) w false)
/-- MMAZ (R237). -/
def execMmaz (w : FmtT) (s : State) : Host.Outcome State Fault Refusal := issue (.mmaz w) s (mma (.mmaz w) w true)

/-- The groups of an arriving MMAF's team that wait at a rendezvous, and that it names or that name it. -/
def fhArrived (c : Ctx) : List Group :=
  c.s.groups.filter (fun g => g.team == c.g.team && g.gid != c.g.gid && (waiter g).isSome && (fhNames g.fhspec c.g.num || fhNames c.g.fhspec g.num))

/-- Those of them that hold another specification (Table 10.6, code 3). -/
def fhClash (c : Ctx) : List Nat := ((fhArrived c).filter (fun g => g.fhspec != c.g.fhspec)).map (·.gid)

/-- Whether a named member has left: exited its last lane, killed, or gone on with another specification (Table 10.6, code 2). -/
def fhLeft (c : Ctx) : Bool :=
  c.g.fhbroken ||
  (List.range 4).any (fun q =>
    let n := fhMember c.g.fhspec q
    n != c.g.num && (match teamGroup c.s c.g.team n with
      | none => true
      | some g => g.status == .draining))

/-- Every arrived member that an MMAF with a clashing specification, or with none, names, or that names it, raises code 3 at its own MMAF. -/
def trapClash (c : Ctx) : State :=
  { c.s with groups := c.s.groups.map (fun g => if (fhArrived c).any (fun h => h.gid == g.gid) then trapWaiter 3 g else g) }

/-- MMAF: passes steps 1 to 6 and waits at the rendezvous; the operation itself is MMAF_RENDEZVOUS (R240, R241). DESIGN CHOICE (log 96): where codes 2 and 3 of
Table 10.6 both apply to an arriving MMAF, code 3 is raised, in the arrived members too; the table gives no precedence. -/
def execMmaf (w : FmtT) (s : State) : Host.Outcome State Fault Refusal :=
  issue (.mmaf w) s (fun c =>
    if !fhValid c.g.fhspec then .ok (raiseTrap { c with s := trapClash c } (fourhand 3))
    else match mmaCheck (.mmaf w) w true c with
      | .error t => .error t
      | .ok x =>
        if !(fhClash c).isEmpty then .ok (raiseTrap { c with s := trapClash c } (fourhand 3))
        else if fhLeft c then .error (fourhand 2)
        else if operandsHeld c w x true then .ok c.hold
        else .ok ({ c with
          s := { c.s with nextId := c.s.nextId + 1 }
          f := { c.f with wait := .rendezvous c.s.nextId, bonded := false, run := 0 } }.commit))

/-- FHSET: records the group's specification, or dissolves its set (R239). One that replaces a specification breaks the set that shared it (R241). DESIGN CHOICE (log 79): a word with V = 0 and
some other bit set that is not reserved, which R239's list need not cover, is a bad specification too: code 1, and nothing is recorded. -/
def execFhset (w : FmtX) (s : State) : Host.Outcome State Fault Refusal :=
  issue (.fhset w) s (fun c =>
    let x := op64 c w.a (leader c.f.mask)
    let n := ((findTeam c.s c.g.team).map (fun t => (t.roles.map (·.groups)).foldl (· + ·) 0)).getD 0
    let four := ((findTeam c.s c.g.team).map (·.fourhand)).getD false
    let bad := fhReserved x != 0#64 || !four || (List.range 4).any (fun q => decide (n ≤ fhMember x q) || fhMember x q % 4 != q) ||
      !fhNames x c.g.num
    if fhValid x && bad || !fhValid x && x != 0#64 then .error (fourhand 1)
    else
      let old := c.g.fhspec
      let s1 := { c with g := { c.g with fhspec := x, fhcount := 0, fhbroken := false } }.finish
      .ok (if !fhValid old then s1
        else
          let s2 := if c.g.fhbroken then s1 else breakSets s1 c.g.team c.g.num (some old)
          { s2 with groups := s2.groups.map (fun g => if g.gid == c.g.gid then trapWaiter 2 g else g) }))

/-- TZERO (R243). -/
def execTzero (w : FmtT) (s : State) : Host.Outcome State Fault Refusal :=
  issue (.tzero w) s (fun c =>
    let g := (lanesOf c.f.mask).foldl (fun h i => trow h w.td.toNat i 0xFFFFFFFF#32 (fun _ => 0#32)) c.g
    .ok ((finalise { c with g := g } w.td.toNat (lanesOf c.f.mask) (fun _ => 1)).push .invalid).finish)

/-! ### Rows to and from registers (R244-R246) -/

/-- The row count and the first row of a row control word (Table 10.7). -/
def rowCount (x : Word) : Nat := 2 ^ (x.extractLsb' 5 2).toNat
def rowFirst (x : Word) : Nat := (x.extractLsb' 0 5).toNat

/-- The voted and checked row control word of TRD and TWR. -/
def rowCheck (i : Instr) (w : FmtT) (c : Ctx) : Except Trap Word :=
  match voted c w.f with
  | .error t => .error t
  | .ok x =>
    if x.extractLsb' 7 25 != 0#25 || rowFirst x % rowCount x != 0 then .error (illegal i)
    else match blocksOk i c.g [{ fld := w.b.toNat, n := rowCount x, scale := false }] with
      | .error t => .error t
      | .ok _ => .ok x

/-- The rows a row control word names. -/
def rowsOf (x : Word) : List Nat := (List.range (rowCount x)).map (fun i => rowFirst x + i)

/-- TRD: rows to registers in the active lanes; the registers are pending until two cycles after issue (R229, R245). DESIGN CHOICE (log 58): of the prefixes of the other fragment's writes to
a row that R231 allows a reader to see, the model shows every write that has issued. -/
def execTrd (w : FmtT) (s : State) : Host.Outcome State Fault Refusal :=
  issue (.trd w) s (fun c =>
    match rowCheck (.trd w) w c with
    | .error t => .error t
    | .ok x =>
      let r0 := regOf c.g w.b
      if regsHeld c true ((List.range (rowCount x)).map (fun i => r0 + i)) || (rowsOf x).any (pendingRow c.f.board c.cycle w.td.toNat) then .ok c.hold else
      let g := (List.range (rowCount x)).foldl (fun h i => vset h (r0 + i) c.f.mask (fun j => tget c.g w.td.toNat (rowFirst x + i) j)) c.g
      let regs := (List.range (rowCount x)).foldl (fun m i => assocSet m (r0 + i) (c.cycle + 2)) c.f.board.regs
      .ok ({ c with g := g, f := { c.f with board := { c.f.board with regs := regs } } }.push .invalid).finish)

/-- TWR: registers to rows, in the columns of the active lanes (R246). -/
def execTwr (w : FmtT) (s : State) : Host.Outcome State Fault Refusal :=
  issue (.twr w) s (fun c =>
    match rowCheck (.twr w) w c with
    | .error t => .error t
    | .ok x =>
      let r0 := regOf c.g w.b
      if regsHeld c false ((List.range (rowCount x)).map (fun i => r0 + i)) then .ok c.hold else
      let g := (List.range (rowCount x)).foldl (fun h i => trow h w.td.toNat (rowFirst x + i) c.f.mask (fun j => vget c.g (r0 + i) j)) c.g
      .ok ((finalise { c with g := g } w.td.toNat (rowsOf x) (fun _ => 2)).push .invalid).finish)

/-- TWM: the watermark to the uniform register that f names (R247). -/
def execTwm (w : FmtT) (s : State) : Host.Outcome State Fault Refusal :=
  issue (.twm w) s (fun c =>
    .ok ({ c with g := sset c.g (w.f.toNat - 96) (BitVec.ofNat 64 (watermark c.g w.td.toNat c.cycle)) }.push .invalid).finish)

/-! ### TCVT and TSCL (R248, R249) -/

/-- The code TCVT makes of an FP32 element: BF16 with saturation of infinities, or a narrow code. -/
def tcvtCode (type : Nat) (sat : Bool) (v : Word) : Nat :=
  if type = 0 then
    let r := (deliver bf16 .rne (unpack fp32 v.toNat)).1
    if sat && r % 2 ^ 15 == infBits bf16 false then r - 1 else r
  else (narrow (if type = 1 then e4m3 else e5m2) false 0 sat (unpack fp32 v.toNat)).1

/-- Row i of the destination of a TCVT: the packed codes replace the words of part q, the other words are kept. -/
def tcvtRow (g : Group) (src td type q : Nat) (sat : Bool) (i j : Nat) : Word :=
  let per := if type = 0 then 2 else 4
  let first := if type = 0 then 16 * q else 8 * q
  let n := 32 / per
  if first ≤ j && j < first + n then
    BitVec.ofNat 32 ((List.range per).foldl (fun acc p => acc + tcvtCode type sat (tget g src i ((j - first) * per + p)) * 2 ^ (32 / per * p)) 0)
  else tget g td i j

/-- TCVT (R248). -/
def execTcvt (w : FmtT) (s : State) : Host.Outcome State Fault Refusal :=
  issue (.tcvt w) s (fun c =>
    match voted c w.f with
    | .error t => .error t
    | .ok x =>
      let type := (x.extractLsb' 0 2).toNat
      let q := (x.extractLsb' 3 2).toNat
      if x.extractLsb' 5 27 != 0#27 || type == 3 || (type == 0 && decide (2 ≤ q)) then .error (illegal (.tcvt w))
      else
        if (lanesOf c.f.mask).any (pendingRow c.f.board c.cycle (w.a.toNat - 96)) then .ok c.hold else
        let td := w.td.toNat
        let g := (lanesOf c.f.mask).foldl (fun h i => trow h td i 0xFFFFFFFF#32 (tcvtRow c.g (w.a.toNat - 96) td type q (x.getLsbD 2) i)) c.g
        .ok ((finalise { c with g := g } td (lanesOf c.f.mask) (fun _ => 4)).push .invalid).finish)

/-- A scale of TSCL: absent it is 1.0, present an FP32 or a BF16 value. -/
def tsclScale (on bf : Bool) (x : Word) : Fp :=
  if !on then .fin false 1 0 else if bf then unpack bf16 (x.toNat % 2 ^ 16) else unpack fp32 x.toNat

/-- TSCL (R249). -/
def execTscl (w : FmtT) (s : State) : Host.Outcome State Fault Refusal :=
  issue (.tscl w) s (fun c =>
    match voted c w.f with
    | .error t => .error t
    | .ok x =>
      if x.extractLsb' 4 28 != 0#28 then .error (illegal (.tscl w))
      else
        let td := w.td.toNat
        let rs := fun i => tsclScale (x.getLsbD 0) (x.getLsbD 2) (vget c.g (regOf c.g w.a) i)
        let cs := fun j => tsclScale (x.getLsbD 1) (x.getLsbD 3) (vget c.g (regOf c.g w.b) j)
        let g := (lanesOf c.f.mask).foldl (fun h i => trow h td i 0xFFFFFFFF#32 (fun j =>
          BitVec.ofNat 32 (deliver fp32 .rne (mulV (mulV (unpack fp32 (tget c.g td i j).toNat) (rs i)).1 (cs j)).1).1)) c.g
        .ok ((finalise { c with g := g } td (lanesOf c.f.mask) (fun r => 4 + r / 8)).push .invalid).finish)

/-! ### The rendezvous (R240) -/

/-- A member of a set at its rendezvous: the group, the place of its waiting fragment, the fragment, its MMAF, and its format word as it stands now, or the trap that it makes
the word raise. -/
structure FhMember where
  g : Group
  fi : Nat
  f : Frag
  w : FmtT
  x : Except Trap Word

/-- The MMAF word at a fragment's PC. -/
def mmafAt (s : State) (g : Group) (f : Frag) : Option FmtT :=
  match fetchWord s g f.pc with
  | .ok x => (match decodeWord x with
    | .ok (.mmaf w) => some w
    | _ => none)
  | .error _ => none

/-- The context in which a waiting member's MMAF reads its operands. -/
def FhMember.ctx (m : FhMember) (s : State) (bond : Bool) : Ctx := { s := s, g := m.g, fi := m.fi, f := m.f, bond := bond, chain := true }

/-- A member's format word, 0 for one that traps. -/
def FhMember.word (m : FhMember) : Word :=
  match m.x with
  | .ok x => x
  | .error _ => 0#32

/-- The member of a set in bay q, if it waits with the set's specification at its n-th MMAF since FHSET. Its format word is read and checked as it stands (R224). -/
def memberAt (s : State) (tid : Nat) (spec : BitVec 64) (n q : Nat) : Option FhMember :=
  match teamGroup s tid (fhMember spec q) with
  | none => none
  | some g =>
    if g.fhspec != spec || g.status != .running || g.fhcount != n || g.fhbroken then none
    else match waiter g with
      | none => none
      | some fi => (match g.frags[fi]? with
        | none => none
        | some f => (mmafAt s g f).map (fun w =>
          { g := g, fi := fi, f := f, w := w, x := mmaCheck (.mmaf w) w true { s := s, g := g, fi := fi, f := f, bond := false, chain := true } }))

/-- The four members of the set that a group of a team belongs to, when all four wait. -/
def membersOf (s : State) (tid num : Nat) : Option (List FhMember) :=
  match teamGroup s tid num with
  | none => none
  | some g =>
    if !fhValid g.fhspec then none
    else match memberAt s tid g.fhspec g.fhcount 0, memberAt s tid g.fhspec g.fhcount 1, memberAt s tid g.fhspec g.fhcount 2, memberAt s tid g.fhspec g.fhcount 3 with
      | some a, some b, some d, some e => some [a, b, d, e]
      | _, _, _, _ => none

/-- Whether a member can start: nothing that it reads is pending, no TRD of its group has issued in this cycle, whose registers are written in the next (R224, R245), no run owns its bay, and its
array is free and granted (04 R91; 06 R141; R229, R240). -/
def memberReady (s : State) (m : FhMember) : Bool :=
  let cycle := cycleOf s (siteDie m.g.site)
  !boardBusy m.g m.f cycle (shape (.mmaf m.w)) && !operandsHeld (m.ctx s false) m.w m.word true &&
  !m.g.frags.any (fun f => f.board.regs.any (fun e => decide (cycle + 1 < e.2))) &&
  !s.groups.any (fun h => h.site == m.g.site && h.bay == m.g.bay && h.status == .running && h.frags.any Frag.bonded)

/-- One member's share of a started MMAF: its rows, against the whole B made of the four quarters. It goes on past its word, whose run may have further members, from the cycle after
the start (R240; 04 R91). -/
def fhRun (s : State) (ms : List FhMember) (m : FhMember) : Ctx :=
  let cb := (clusterOf s m.g.site).codebook
  let x := m.word
  let k := passK x
  let self := m.w.a.toNat == m.w.td.toNat + 96
  let b := fun q j => match ms[q / (k / 4)]? with
    | some n => elemQuarter n.g cb n.w.b n.word (q / (k / 4) * (k / 4)) (q % (k / 4)) j
    | none => .zero false
  let g := mmaRows m.g m.w.td.toNat m.f.mask k false (fun r q => elemA m.g cb m.w x r q) b
  let bond := nextMember s m.g m.f (shape (.mmaf m.w))
  let f := { m.f with wait := .started (cycleOf s (siteDie m.g.site)), latches := noLatches, head := m.f.pc, runId := if bond then s.nextId else 0 }
  let c := finalise { m.ctx { s with nextId := if bond then s.nextId + 1 else s.nextId } bond with g := { g with fhcount := g.fhcount + 1 }, f := f }
    m.w.td.toNat (lanesOf m.f.mask) (mmaLat 14 self)
  { c with g := { c.g with fhFinal := (lanesOf m.f.mask).foldl (fun t r => max t (assoc c.g.rows (m.w.td.toNat * 32 + r))) c.g.fhFinal } }

/-- MMAF_RENDEZVOUS: when all four members wait, a member whose format word no longer passes its checks traps, and differing format words raise FORMAT in every member; else, once the four
arrays are free and a grant is held, the operation is done in all four (R224, R225, R240). Every member reads the state before the start. -/
def execMmafRendezvous (tid num : Nat) (s : State) : Host.Outcome State Fault Refusal :=
  match membersOf s tid num with
  | none => .next s
  | some ms =>
    let x0 := (ms.map FhMember.word).headD 0#32
    let wrong := ms.filterMap (fun m => (errOf m.x).map (fun t => (m, t)))
    if !wrong.isEmpty then .next (wrong.foldl (fun u e => setGroup u (trapWait e.1.g e.1.fi e.1.f e.2)) s)
    else if ms.any (fun m => m.word != x0) then
      .next (ms.foldl (fun u m => setGroup u (trapWait m.g m.fi m.f { cause := causeFormat, val := m.word.setWidth 64 })) s)
    else if !ms.all (memberReady s) then .next s
    else if ms.all (fun m => arrayReady (arrayOf s m.g.site m.g.bay) (cycleOf s (siteDie m.g.site))) then
      .next (ms.foldl (fun u m =>
        let c := fhRun { s with nextId := u.nextId } ms m
        let v := occupy { u with nextId := c.s.nextId } m.g.site m.g.bay c.cycle (if m.w.a.toNat == m.w.td.toNat + 96 then 16 else 8)
        { c with s := v }.finish) s)
    else .next (ms.foldl (fun u m => askGrant u m.g.site m.g.bay (cycleOf s (siteDie m.g.site))) s)

end Sys2Proof.Machine
end

