-- ==== Sys2Proof/Machine/System.lean ====
section
/-! DEFINITION. Machine/System.lean: SYS, the CSRs, RLY, and the events that wake a WFI or deliver a relay message (04 R83; 16 R406, R414-R423; 17 R437). -/

namespace Sys2Proof.Machine

/-! ### SYSCALL (R418) -/

/-- SYSCALL: its trap; the frame's PC is that of the next word (R418). -/
def execSyscall (w : FmtX) (s : State) : Host.Outcome State Fault Refusal :=
  issue (.syscall w) s (fun c => .error { cause := causeSyscall, val := argOf c w.a 0, past := 4#64 })

/-! ### Kernel groups (R414, R415) -/

/-- The team of the instance on a virtual die: the core's 64 KiB scratchpad, 16 barrier objects, no channel (R415). -/
def kernelTeam (tid vd : Nat) (i : Inst) : Team :=
  { tid := tid, vd := vd, vdie := i.vdie, site := .core i.pdie vd, kernel := true, launch := 0, node := 0, lin := 0, tx := 0, ty := 0, tz := 0, gx := 1, gy := 1, gz := 1,
    roles := [], scratch := 65536, nbars := 16, fourhand := false, split := 0, block := 0, size := 65536, chans := [], unit0 := 4 * i.vdie, cbUsed := false,
    status := .resident, saveBlk := none, drained := 0, quantum := 0, grace := 0, held := none }

/-- A group that has issued nothing, in its seat: every register, tile, predicate and counter zero, every latch invalid, the window at 0 (01 R22). -/
def freshGroup (gid : Nat) (t : Team) (level : Level) (num role handle prio vregs tiles : Nat) (pc : DWord) (cycle : Nat) : Group :=
  { gid := gid, vd := t.vd, vdie := t.vdie, site := t.site, bay := bayOf t.site num, slot := 0, level := level, team := t.tid, num := num, role := role, handle := handle,
    prio := prio, status := .running, vregs := vregs, tiles := tiles, regBlk := 0, tileBlk := 0, v := [], s := [], p := [], t := [], wbase := 0#64, gstat := 0#64, gcfg := 0#64,
    chteam := BitVec.ofNat 64 t.lin, trapc := 0#64, trappc := 0#64, trapv := 0#64, trapm := 0#64, detail := 0#8, frags := [newFrag pc 0xFFFFFFFF#32 cycle], lastFrag := 0,
    stack := [], spilled := 0, exited := 0#32, fhspec := 0#64, fhcount := 0, fhFinal := 0, fhbroken := false, refuse := none, dlog := [], drayId := 1#16, cg := [], cs := [], cf := [], cw := [],
    flights := [], sends := [], rows := [], replay := [], remainders := [], kept := [], owed := false, refault := false, vaFences := 0 }

/-- Kernel group k of an instance at a PC, with its s1 (R415). -/
def kernelGroup (s : State) (t : Team) (k : Nat) (pc s1 : DWord) : Group :=
  let g := freshGroup s.nextId t .k k 0 (4 * t.vdie + k) 0 128 0 pc (cycleOf s (siteDie t.site))
  sset { g with slot := k, regBlk := 128 * k } 1 s1

/-- The team of an instance. -/
def kernelTeamOf (s : State) (vd vdie : Nat) : Option Team := s.teams.find? (fun t => t.kernel && t.vd == vd && t.vdie == vdie)

/-- Starts kernel group k of an instance; the group has seen every doorbell rung before (R415, R420). -/
def startKernel (s : State) (t : Team) (k : Nat) (pc s1 : DWord) : State :=
  let g := kernelGroup s t k pc s1
  modVd { s with groups := s.groups ++ [g], nextId := s.nextId + 1 } t.vd (fun v => v.modInst t.vdie (fun i => { i with bells := i.bells.filter (fun b => b != k) }))

/-! ### ERET (R419) -/

/-- The actions and fields of the action word (Table 16.11). -/
def eretAct (w : DWord) : Nat := (w.extractLsb' 0 2).toNat
def eretVdn (w : DWord) : Nat := (w.extractLsb' 8 5).toNat
def eretMask (w : DWord) : Mask := w.extractLsb' 32 32

/-- A bad action word: reserved fields, KMASK without KILLL, VDN at privilege K. -/
def eretBad (level : Level) (w : DWord) : Bool :=
  w.extractLsb' 13 19 != 0#19 || w.extractLsb' 2 6 != 0#6 || (eretAct w != 1 && eretMask w != 0#32) || (level != .m && eretVdn w != 0)

/-- Whether a stopped group's TRAP record still waits to be written: the group stays stopped until then (R403). -/
def recordWaits (s : State) (g : Group) : Bool :=
  (findVd s g.vd).any (fun v => (v.inst g.vdie).any (fun i => i.records.any (fun r => r.type == 1 && r.handle == g.handle)))

/-- Whether a group has stopped for a trap, with its record posted (R395). -/
def isStopped (s : State) (g : Group) : Bool := g.status == .stopped .trap && !recordWaits s g

/-- Whether the record of a stopped group went to the instance of its die: an XLAT2 record stands with the SMC until that passes it on (R397; 12 R315). -/
def toInstance (s : State) (g : Group) : Bool := !s.smcRecords.any (fun e => withSmc e && e.1 == g.vd && e.2.handle == g.handle)

/-- Whether a handle is one that the issuing group may act on (R419). -/
def eretOwns (c : Ctx) (h : Nat) (g : Option Group) : Bool :=
  c.g.level == .m || (decide (h < 32) && h / 4 == c.g.vdie) || g.any (fun g => g.vdie == c.g.vdie && toInstance c.s g)

/-- Queues a stopped group for its restore, with the members of its set that were saved with it (R395; 10 R242); one that is still being saved follows at the end of that. -/
def queueGroup (s : State) (g : Group) : State :=
  let mates := (setMates s g).map Group.gid
  { smcDone s g.vd g.handle with groups := s.groups.map (fun h =>
      if h.gid == g.gid then { h with status := .queued }
      else if mates.contains h.gid && h.status == .stopped .preempt && ((findTeam s h.team).map (fun t => resident t && t.grace == 0)).getD false then { h with status := .queued }
      else h) }

/-- Removes killed lanes from a group's frame: its fragments, stack and replay masks; an empty replay entry goes; a group whose last
lane goes has left its set (R419; 06 R137; 10 R241). -/
def killLanes (s : State) (v : Vd) (g : Group) (m : Mask) : State :=
  let pa := unitPa v g.handle
  let h := readFrame s pa (cycleOf s (siteDie g.site)) g
  let k := removeLanes h m (cycleOf s (siteDie g.site))
  let k := { k with replay := (k.replay.map (fun r => { r with mask := r.mask &&& ~~~m })).filter (fun r => r.mask != 0#32) }
  let f := fieldAt s pa
  let kept := g.kept.map (fun d => { d with order := ((h.replay.take d.order).filter (fun r => r.mask &&& ~~~m != 0#32)).length })
  let s := deviceWrite (setGroup s { g with kept := kept }) pa (headerBytes k { lin := f 0x0C 4, launch := f 0x18 4, node := f 0x1C 2, scrblk := f 0x14 4 } (f 0x13 1))
  if k.exited == 0xFFFFFFFF#32 then breakSets s g.team g.num none else s

/-- A group killed by ERET: its team counts it as drained, its set-mates saved with it go on (R419; 10 R241). -/
def killStopped (s : State) (g : Group) : State :=
  let s := killGroup s g
  match findTeam s g.team with
  | some t =>
    let s := setTeam s { t with drained := t.drained + 1 }
    { s with groups := s.groups.map (fun h =>
        if h.team == g.team && h.status == .stopped .preempt && resident t && t.grace == 0 && fhNames h.fhspec g.num && h.fhspec == g.fhspec then { h with status := .queued } else h) }
  | none => s

/-- START: an empty kernel unit starts a kernel group (R419, R415). -/
def eretStart (s : State) (v : Vd) (h : Nat) (own : Bool) (pc s1 : DWord) : Nat × State :=
  if 32 ≤ h then (1, s)
  else if !own then (2, s)
  else match kernelTeamOf s v.num (h / 4) with
    | none => (2, s)
    | some t => if (groupByHandle s v.num h).isSome then (5, s) else (0, startKernel s t (h % 4) pc s1)

/-- The action of ERET on a handle of a virtual device: its status, and the state after it; a status other than 0 changes nothing (R419). -/
def eretOn (c : Ctx) (s : State) (v : Vd) (h : Nat) (act : DWord) (pc s1 : DWord) : Nat × State :=
  let g := groupByHandle s v.num h
  let own := eretOwns c h g
  if unitCount v.desc ≤ h then (2, s)
  else if eretAct act = 3 then eretStart s v h own pc s1
  else match g with
    | none => (3, s)
    | some g =>
      if !isStopped s g then (3, s)
      else if !own then (2, s)
      else match eretAct act with
        | 2 => (0, killStopped s g)
        | 1 => if frameOk s (unitPa v h) then (0, queueGroup (killLanes s v g (eretMask act)) g) else (4, s)
        | _ => if frameOk s (unitPa v h) then (0, queueGroup s g) else (4, s)

/-- ERET (R419). DEDUCED (log 82): it waits until every word counted in W that its group issued before it has been acknowledged, so that what the group stored to tables and frames is at home before
the resume (19 R453). -/
def execEret (w : FmtX) (s : State) : Host.Outcome State Fault Refusal :=
  issue (.eret w) s (fun c =>
    if !c.g.cw.isEmpty then .ok c.hold else
    let act := argOf c w.a 1
    let h := (argOf c w.a 0).toNat % 2 ^ 32
    let v := findVd c.s (if c.g.level == .m then eretVdn act else c.g.vd)
    let r : Nat × State :=
      if eretBad c.g.level act then (1, c.s)
      else match v with
        | none => (2, c.s)
        | some v => eretOn c c.s v h act (argOf c w.a 2) (((argOf c w.a 0).extractLsb' 32 32).setWidth 64)
    .ok (putUni { c with s := r.2 } false w.d 1 (BitVec.ofNat 64 r.1)).finish)

/-! ### WFI and HALT (R420, R421) -/

/-- A wake condition of R420 for a kernel slot of an instance. -/
def wfiReady (s : State) (i : Inst) (k : Nat) : Bool :=
  i.frtail != i.frhead || !i.queue.isEmpty || i.bells.contains k || (i.ktimer != 0#64 && decide (i.ktimer.toNat ≤ cycleOf s i.pdie))

/-- The instance of a kernel group. -/
def instOf (s : State) (g : Group) : Option Inst := (findVd s g.vd).bind (fun v => v.inst g.vdie)

/-- WFI: completes when a wake condition holds, else blocks its fragment (R420). The group has then seen every doorbell. -/
def execWfi (w : FmtX) (s : State) : Host.Outcome State Fault Refusal :=
  issue (.wfi w) s (fun c =>
    if c.f.wait == .wfiDone || (isCluster c.g.site == false && c.g.site != .smc && (instOf c.s c.g).any (fun i => wfiReady c.s i c.g.num)) then
      .ok (modVd { c with f := { c.f with wait := .no } }.finish c.g.vd (fun v => v.modInst c.g.vdie (fun i => { i with bells := i.bells.filter (fun b => b != c.g.num) })))
    else .ok (c.block .wfi))

/-- The fragments of a group blocked in WFI become ready, the parked ones included (06 R135). -/
def readyWfi (g : Group) : Group := g.mapWaits (fun w => if w == .wfi then .wfiDone else w)

/-- WFI_WAKE: a wake condition holds for a blocked kernel group (R420). -/
def execWfiWake (vd handle : Nat) (s : State) : Host.Outcome State Fault Refusal :=
  match groupByHandle s vd handle with
  | none => .next s
  | some g =>
    if g.level == .k && (instOf s g).any (fun i => wfiReady s i g.num) then .next (setGroup s (readyWfi g)) else .next s

/-- KTIMER_EXPIRES: CYCLE has reached KTIMER: the groups of the instance blocked in WFI become ready (R420). -/
def execKtimerExpires (vd vdie : Nat) (s : State) : Host.Outcome State Fault Refusal :=
  match (findVd s vd).bind (fun v => v.inst vdie) with
  | none => .next s
  | some i =>
    if i.ktimer != 0#64 && decide (i.ktimer.toNat ≤ cycleOf s i.pdie) then
      .next { s with groups := s.groups.map (fun g => if g.vd == vd && g.vdie == vdie && g.level == .k then readyWfi g else g) }
    else .next s

/-- HALT: the SMC core issues nothing more until it is reset (R421). -/
def execHalt (w : FmtX) (s : State) : Host.Outcome State Fault Refusal :=
  issue (.halt w) s (fun c => .ok { c.finish with smcHalted := true })

/-! ### CSRs (R402, R403, R406, R422; 04 R83) -/

/-- IMEAS reads 0 while the field is switched off (03 Table 3.3). -/
def imeasOf (f : FieldSt) : Nat := if f.pll then f.imeas.toNat else 0

/-- The ISLIM word of a field (03 Table 3.3). -/
def islimWord (s : State) (f : Nat) : DWord :=
  match s.fields[f]? with
  | some x => BitVec.ofNat 64 (imeasOf x * 2 ^ 32 + x.ilim.toNat)
  | none => 0#64

/-- The value of a CSR for the issuing group (Table 16.4). -/
def csrRead (c : Ctx) (n : Nat) : DWord :=
  let v := findVd c.s c.g.vd
  let inst := fun (f : Inst → DWord) => ((v.bind (fun v => v.inst c.g.vdie)).map f).getD 0#64
  match n with
  | 0x0000 => c.g.gstat
  | 0x0001 => c.g.gcfg
  | 0x0003 => c.g.chteam
  | 0x2002 => c.g.wbase
  | 0x2004 => BitVec.ofNat 64 (clusterOf c.s c.g.site).split
  | 0x2005 => (v.map (fun v => BitVec.ofNat 64 v.desc.monlim)).getD 0#64
  | 0x2008 => BitVec.ofNat 64 c.cycle
  | 0x2010 => c.g.trapc
  | 0x2011 => c.g.trappc
  | 0x2012 => c.g.trapv
  | 0x2013 => c.g.trapm
  | 0x4020 => inst (fun i => BitVec.ofNat 64 i.quant)
  | 0x4022 => inst Inst.s1tab
  | 0x4023 => inst Inst.frbase
  | 0x4024 => inst (fun i => i.frhead.setWidth 64)
  | 0x4028 => inst Inst.ktimer
  | 0x6021 => (v.map (fun v => ((v.inst c.g.vdie).map (sweepWord v)).getD 0#64)).getD 0#64
  | 0x6025 => inst (fun i => i.frlost.setWidth 64 <<< 32 ||| i.frtail.setWidth 64)
  | 0x6026 => inst (fun i => BitVec.ofNat 64 i.debt)
  | 0x6027 => (v.map (fun v => BitVec.ofNat 64 v.saveGpa)).getD 0#64
  | _ => islimWord c.s (n - 0x2030)

/-- The slice vectors of the homes of the records that a ring holds (R403; 15 R381). -/
def ringVecs (s : State) (v : Vd) (i : Inst) : List (List Nat) :=
  (List.range (i.frtail - i.frhead).toNat).filterMap (fun k =>
    match stage2 s v ((i.frbase &&& 0x0000FFFFFFFFF000#64).toNat + 64 * ((i.frhead.toNat + k) % ringSize i)) with
    | .ok l => some (hvecOf s (homeOf s l.pa).1 (homeOf s l.pa).2)
    | .error _ => none)

/-- What a read of FRTAIL does: a package-scope acquire for the records it counts (R403). -/
def acquireRing (s : State) (g : Group) : State :=
  match (findVd s g.vd).bind (fun v => (v.inst g.vdie).map (fun i => (v, i))) with
  | some (v, i) => acquirePkg s g.vd (siteDie g.site) (ringVecs s v i)
  | none => s

/-- CSRR (R422). -/
def execCsrr (w : FmtL) (s : State) : Host.Outcome State Fault Refusal :=
  issue (.csrr w) s (fun c =>
    let s1 := (putUni c false w.d 1 (csrRead c w.imm.toNat)).finish
    .ok (if w.imm = 0x6025#16 then acquireRing s1 c.g else s1))

/-- The leaves of stage 2 that meet a range of GPA: where the entry lies, the entry, the first GPA and the size (12 R287, R289). -/
def leaves2 (s : State) (table lvl base lo hi : Nat) : Nat → List (Nat × BitVec 64 × Nat × Nat)
  | 0 => []
  | n + 1 =>
    let size := 2 ^ levelShift lvl
    ((List.range (if lvl = 4 then 32 else 512)).filter (fun i => decide (base + size * i < hi) && decide (lo < base + size * (i + 1)))).flatMap (fun i =>
      let pa := table + 8 * i
      let e := tableEntry s pa
      if !e.getLsbD 0 || (e &&& 0xFFF7000000000044#64) != 0#64 || !leafOk lvl (e.getLsbD 1) || addrOf e % pointAlign lvl (e.getLsbD 1) != 0 then []
      else if e.getLsbD 1 then [(pa, e, base + size * i, size)]
      else leaves2 s (addrOf e) (lvl + 1) (base + size * i) lo hi n)

/-- The stage-2 leaves of a virtual device over a range of GPA. -/
def s2Leaves (s : State) (v : Vd) (lo len : Nat) : List (Nat × BitVec 64 × Nat × Nat) := leaves2 s v.desc.s2root 1 0 lo (lo + len) 4

/-- Sets or clears PIN in leaves (12 R306). -/
def pinLeaves (s : State) (on : Bool) (ls : List (Nat × BitVec 64 × Nat × Nat)) : State :=
  ls.foldl (fun s l =>
    let e := if on then l.2.1 ||| 0x0008000000000000#64 else l.2.1 &&& ~~~0x0008000000000000#64
    deviceWrite s l.1 (leBytes e.toNat 8)) s

/-- FRBASE as written; its ring is pinned when the instance first writes it (R402). -/
def writeFrbase (s : State) (g : Group) (x : DWord) : State :=
  let y := x &&& 0x0000FFFFFFFFF00F#64
  match (findVd s g.vd).bind (fun v => (v.inst g.vdie).map (fun i => (v, i))) with
  | none => s
  | some (v, i) =>
    let s := modVd s g.vd (fun v => v.modInst g.vdie (fun i => { i with frbase := y, frset := true }))
    if i.frset then s
    else pinLeaves s true (s2Leaves s v (y &&& 0x0000FFFFFFFFF000#64).toNat (64 * ringSize { i with frbase := y }))

/-- CSRW (R422; 00 R8, R9). -/
def execCsrw (w : FmtL) (s : State) : Host.Outcome State Fault Refusal :=
  issue (.csrw w) s (fun c =>
    let x := sget c.g (w.d.toNat - 96)
    let inst := fun (f : Inst → Inst) => modVd c.finish c.g.vd (fun v => v.modInst c.g.vdie f)
    match w.imm.toNat with
    | 0x0000 => .ok { c with g := { c.g with gstat := gstatWrite c.g.gstat x } }.finish
    | 0x0001 => .ok { c with g := { c.g with gcfg := gcfgWrite x } }.finish
    | 0x0003 => .ok { c with g := { c.g with chteam := chteamWrite x } }.finish
    | 0x4020 => .ok (inst (fun i => { i with quant := min (max (x.toNat % 65536) 100) 50000 }))
    | 0x4022 => .ok (inst (fun i => { i with s1tab := x }))
    | 0x4023 => .ok (writeFrbase c.finish c.g x)
    | 0x4024 => .ok (inst (fun i => { i with frhead := x.setWidth 32 }))
    | _ => .ok (inst (fun i => { i with ktimer := x })))

/-! ### RLY (R416, R423) -/

/-- RLY's 64-byte access, once translated, as a request of eight accesses of 8 bytes. -/
def rlyReq (c : Ctx) (op : MemOp) (x : Xl) (va : DWord) (bytes : List (BitVec 8)) : Req :=
  let acc := (List.range 8).map (fun i => ({ lane := i, va := va + BitVec.ofNat 64 (8 * i), data := leNat ((bytes.drop (8 * i)).take 8), second := 0 } : Access))
  { mkReq c (newFlight c 0#32) c.s.nextId op 8 false false false acc with stage := .home, xl := some x }

/-- The translation of RLY's 64-byte access: held while a block covers it, its channel is in service, or an older access of the group to its bytes has not been performed; a fault is raised at the
word (R423; 15 R368). -/
def rlyAccess (c : Ctx) (kind : AccKind) (va : DWord) : Except Trap (Option (Xl × State)) :=
  let trap := fun (f : XFault) => ({ cause := f.cause, val := va, detail := f.detail } : Trap)
  match findVd c.s c.g.vd with
  | none => .error (trap (xlat1 0x02))
  | some v =>
    let die := siteDie c.g.site
    let slice := entrySlice c.s c.g.vd die va.toNat
    let asid := asidOf c.s c.g
    if blockHits c.s v die slice asid kind va then .ok none
    else match translate c.s v die c.g.vdie slice asid (c.g.level == .u) kind 64 va with
      | .error f => .error (trap f)
      | .ok p =>
        let pa := p.1.at va
        if chanHeld c.s pa || groupOut c.s (rlyReq c (if kind == .write then .store else .load) p.1 va []) then .ok none
        else if paKind pa == .hbm && c.s.failed.contains (paDie pa) then .error (trap (xlat2 0x23))
        else if kind == .read && c.s.integrity.contains (pa / 64) then .error { cause := causeIntegrity, val := va }
        else .ok (some p)

/-- The 64 bytes at an address as a relaxed load of the die sees them (R423). -/
def seenBytes (s : State) (vd die pa : Nat) : List (BitVec 8) × State :=
  if paKind pa == .coupler then (freeBytes 64 s.freeCtr, { s with freeCtr := s.freeCtr + 64 })
  else ((List.range 16).flatMap (fun i => leBytes (if paKind pa == .hbm then (seenWord s vd die (pa / 4 + i)).toNat else rdBytes s.mem (pa + 4 * i) 4) 4), s)

/-- The virtual dies that a mask names: 0 is every instance that has not failed (R423). -/
def relayTargets (v : Vd) (mask : Nat) : List Nat :=
  (liveVdies v (List.range v.insts.length)).filter (fun d => mask = 0 || (mask / 2 ^ d) % 2 == 1)

/-- Whether an instance has room for a message (R416). -/
def hasRoom (v : Vd) (d : Nat) : Bool := (v.inst d).any (fun i => decide (i.queue.length + i.inbox.length < 64))

/-- Sends a relay message, of this package or of another: the next sequence number of the group, a copy on its way to each target (R416). -/
def relaySend (s : State) (ext : Bool) (vd src : Nat) (targets : List Nat) (bytes : List (BitVec 8)) : State :=
  modVd s vd (fun v =>
    { targets.foldl (fun v d => v.modInst d (fun i => { i with inbox := i.inbox ++ [{ seq := v.relaySeq, src := src, smc := false, ext := ext, bytes := bytes }] })) v with relaySeq := v.relaySeq + 1 })

/-- Bad arguments of SEND (R423). -/
def sendBad (v : Vd) (va a : DWord) : Bool :=
  va.toNat % 64 != 0 || a.extractLsb' 9 55 != 0#55 || (a.getLsbD 8 && a.extractLsb' 0 8 != 0#8) ||
  (!a.getLsbD 8 && decide (2 ^ v.insts.length ≤ (a.extractLsb' 0 8).toNat))

/-- RLY.SEND (R423; 17 R437). -/
def execRlySend (w : FmtX) (s : State) : Host.Outcome State Fault Refusal :=
  issue (.rlySend w) s (fun c =>
    let va := argOf c w.a 0
    let a := argOf c w.a 1
    let code := fun (s : State) (x : Nat) => (putUni { c with s := s } false w.d 1 (BitVec.ofNat 64 x)).finish
    if !c.g.cw.isEmpty then .ok c.hold
    else match findVd c.s c.g.vd with
      | none => .ok (code c.s 1)
      | some v =>
        if sendBad v va a then .ok (code c.s 1)
        else match rlyAccess c .read va with
          | .error t => .error t
          | .ok none => .ok c.hold
          | .ok (some p) =>
            let m := seenBytes p.2 c.g.vd (siteDie c.g.site) (p.1.at va)
            if a.getLsbD 8 then .ok (code { m.2 with services := m.2.services ++ [{ vd := c.g.vd, vdie := c.g.vdie, bytes := m.1 }] } 0)
            else
              let ts := relayTargets v (a.extractLsb' 0 8).toNat
              if ts.all (hasRoom v) then .ok (code (relaySend m.2 false c.g.vd c.g.vdie ts m.1) (v.relaySeq % 2 ^ 32 * 2 ^ 32)) else .ok c.hold)

/-- A 64-byte store of a kernel group performed in one step, at the point of Table 15.2 (R423). -/
def storeNow (c : Ctx) (s : State) (x : Xl) (va : DWord) (bytes : List (BitVec 8)) : State :=
  let r := rlyReq { c with s := s } .store x va bytes
  let ws := wordsOf 8 r.lanes
  let s := l1DropAt { s with reqs := s.reqs ++ [r], nextId := s.nextId + 1 } c.g.site (fun y => y.asid == r.asid && ws.contains y.va)
  let s := if paKind (x.at va) == .hbm then performAt (clearBlocks s r x) r x
    else (performFars s r x).1
  let refused := (findReq s r.id).bind Req.refused
  let s := dropReq s r.id
  match refused with
  | some a => noteRefusal s c.g.gid a
  | none => s

/-- The word that RECV writes for a message (R423). -/
def recvWord (m : RlyMsg) : Nat := (if m.smc then 0 else m.seq % 2 ^ 32) * 2 ^ 32 + (if m.smc then 2048 else m.src % 8 * 256)

/-- RLY.RECV: stores the oldest message; with none, code 1 (R423). A misaligned address raises ALIGN (log 33). -/
def execRlyRecv (w : FmtX) (s : State) : Host.Outcome State Fault Refusal :=
  issue (.rlyRecv w) s (fun c =>
    let va := argOf c w.a 0
    match (instOf c.s c.g).bind (fun i => i.queue.head?) with
    | none => .ok (putUni c false w.d 1 1#64).finish
    | some m =>
      if va.toNat % 64 ≠ 0 then .error { cause := causeAlign, val := va }
      else match rlyAccess c .write va with
        | .error t => .error t
        | .ok none => .ok c.hold
        | .ok (some p) =>
          let s1 := (putUni { c with s := p.2 } false w.d 1 (BitVec.ofNat 64 (recvWord m))).finish
          let s2 := storeNow c s1 p.1 va m.bytes
          .ok (modVd s2 c.g.vd (fun v => v.modInst c.g.vdie (fun i => { i with queue := i.queue.drop 1 }))))

/-- RLY.POLL (R423). -/
def execRlyPoll (w : FmtX) (s : State) : Host.Outcome State Fault Refusal :=
  plain (.rlyPoll w) s (fun c => putUni c false w.d 1 (BitVec.ofNat 64 (((instOf c.s c.g).map (fun i => i.queue.length)).getD 0)))

/-- An instance of a relay group on another package sends a message: the next sequence number of the group, to instances, from a virtual die and with bytes that free values give; it waits for room
(R416; 17 R436; log 81). -/
def peerSends (vd : Nat) (s : State) : State :=
  match findVd s vd with
  | none => s
  | some v =>
    let mask := Config.freeValue s.freeCtr
    let ts := (liveVdies v (List.range v.insts.length)).filter (fun d => mask.getLsbD d)
    if Config.relayPeers vd && ts.all (hasRoom v) then
      relaySend { s with freeCtr := s.freeCtr + 66 } true vd ((Config.freeValue (s.freeCtr + 1)).toNat % 8) ts (freeBytes (s.freeCtr + 2) 64)
    else s

/-- RELAY_MESSAGE_ARRIVES: the next message on its way to an instance reaches its queue, in the relay order (R416). DEDUCED (log 67): one that came over the Coupler is the wake event that 02 R51
calls a Relay-extension message, and waits at a sleeping virtual device for the wake. -/
def execRelayMessageArrives (vd vdie : Nat) (s : State) : Host.Outcome State Fault Refusal :=
  match (findVd s vd).bind (fun v => (v.inst vdie).map (fun i => (v, i))) with
  | none => .next s
  | some (v, i) =>
    match i.inbox with
    | [] => .next s
    | m :: r =>
      if m.ext && !awake v then .next (touchEvent s vd 4)
      else if 64 ≤ i.queue.length || !(m.smc || relayTurn s vd i.pdie m.seq) then .next s
      else .next (modVd (if m.ext then touchEvent s vd 4 else s) vd (fun v => v.modInst vdie (fun j => { j with queue := j.queue ++ [m], inbox := r })))

end Sys2Proof.Machine
end

