-- ==== Sys2Proof/Machine/Shootdown.lean ====
section
/-! DEFINITION. Machine/Shootdown.lean: XLAT, the BLOCK and PURGE messages at the slices, slice-map changes, and the sibling sweep (12 R296-R307, R312-R314;
15 R384-R387). -/

namespace Sys2Proof.Machine

/-! ### The argument word (Table 12.7) -/

def xArgVdn (x : DWord) : Nat := (x.extractLsb' 19 5).toNat
def xArgAll (x : DWord) : Bool := x.getLsbD 18
def xArgWonly (x : DWord) : Bool := x.getLsbD 17
def xArgStage2 (x : DWord) : Bool := x.getLsbD 16
def xArgKind (x : DWord) : Nat := (x.extractLsb' 10 2).toNat
def xArgAsid (x : DWord) : Nat := (x.extractLsb' 0 10).toNat

/-- The virtual device an XLAT word acts on: VDN at M, the group's own at K, where VDN must be 0. -/
def xlatVd (c : Ctx) (x : DWord) : Option Vd :=
  if c.g.level == .m then findVd c.s (xArgVdn x) else if xArgVdn x = 0 then findVd c.s c.g.vd else none

/-- Whether an ASID belongs to a virtual device (R286). -/
def asidIn (v : Vd) (a : Nat) : Bool := decide (v.desc.asidBase ≤ a) && decide (a < v.desc.asidBase + v.desc.asidCnt)

/-- The checks of Table 12.7 that every sub-function makes. -/
def xArgOk (v : Vd) (level : Level) (x : DWord) (wonly : Bool) : Bool :=
  x.extractLsb' 24 40 == 0#40 && x.extractLsb' 12 4 == 0#4 && (wonly || !xArgWonly x) && (!xArgStage2 x || (level == .m && xArgAll x)) &&
  (if xArgAll x then xArgAsid x == 0 else asidIn v (xArgAsid x))

/-- The checks of a range (R303). -/
def xRangeOk (x base len : DWord) : Bool :=
  base.toNat % 65536 == 0 && len.toNat % 65536 == 0 && len != 0#64 &&
  (if xArgStage2 x then decide (base.toNat + len.toNat ≤ 2 ^ 48) else canonical base && decide (base.toNat % 2 ^ 56 + len.toNat ≤ 2 ^ 56))

/-- The status word (Table 12.8). -/
def xlatStatus (seq failed code : Nat) : DWord := BitVec.ofNat 64 (seq % 2 ^ 32 * 2 ^ 32 + failed % 256 * 256 + code)
def codeBadarg : Nat := 1
def codePinned : Nat := 2
def codeNotmapped : Nat := 3

/-- The ASIDs a word names: none is every one. -/
def xAsid (x : DWord) : Option Nat := if xArgAll x then none else some (xArgAsid x)

/-! ### Ranges at a slice -/

/-- The slices of a virtual device on its dies that have not failed. -/
def vdAllSlices (s : State) (v : Vd) : List (Nat × Nat) :=
  (v.desc.dies.filter (fun e => v.liveDies.contains e.pdie)).flatMap (fun e =>
    ((List.range 64).filter (fun i => (vdSlices s v e.pdie).getLsbD i)).map (fun i => (e.pdie, i)))

/-- The generation of a stage increments (R296). -/
def bumpGen (s : State) (vd die : Nat) (stage2 : Bool) : State :=
  modInstAt s vd die (fun i => if stage2 then { i with s2gen := i.s2gen + 1#32 } else { i with s1gen := i.s1gen + 1#32 })

/-! ### The words (R302-R306) -/

/-- A word that has its answer at once: d is written, and an invalid latch is pushed (R302). -/
def xlatAnswer (c : Ctx) (d : BitVec 7) (x : DWord) : Ctx := (writeDst c false d 1 (fun _ => x)).push .invalid

/-- XLAT.INVR: purges the range on the issuing die alone, without draining (R303). DESIGN CHOICE (log 98): the SMC core is on no compute die, and its issuing die is that of field 0. -/
def execXlatInvr (w : FmtX) (s : State) : Host.Outcome State Fault Refusal :=
  issue (.xlatInvr w) s (fun c =>
    let x := argOf c w.a 0
    let base := argOf c w.a 1
    let len := argOf c w.a 2
    withRelease c .package (fun c =>
      match xlatVd c x with
      | none => .ok (xlatAnswer c w.d (xlatStatus 0 0 codeBadarg)).finish
      | some v =>
        if !xArgOk v c.g.level x false || xArgKind x != 0 || !xRangeOk x base len then .ok (xlatAnswer c w.d (xlatStatus 0 0 codeBadarg)).finish
        else
          let die := siteDie c.g.site
          let s1 := ((vdAllSlices c.s v).filter (fun p => p.1 == die)).foldl (fun s p =>
            let at_ := fun (k : L1Word) => if xArgStage2 x then k.gpa else 4 * k.va
            let hit := fun (k : L1Word) =>
              (xArgStage2 x || xAsid x == none || xAsid x == some k.asid) && decide (base.toNat < at_ k + 4) && decide (at_ k < base.toNat + len.toNat)
            { s with
              stc := s.stc.filter (fun e => !(e.vd == v.num && e.die == die && e.slice == p.2 && rangeHits (xArgStage2 x) (xAsid x) base.toNat len.toNat e.asid e.xl))
              clusters := s.clusters.map (fun k => if ownsSite v die k.site then { k with l1 := k.l1.filter (fun w => !hit w) } else k)
              reqs := s.reqs.map (fun r => if r.vd == v.num && r.die == die then { r with fill := r.fill.filter (fun w => !hit w) } else r) }) c.s
          .ok (xlatAnswer { c with s := bumpGen s1 v.num die (xArgStage2 x) } w.d (xlatStatus 0 0 0)).finish))

/-- BLOCK and PURGE: one Relay message to every die of the virtual device; d is pending until all have acknowledged (R303). -/
def xlatRelay (i : Instr) (w : FmtX) (purge : Bool) (s : State) : Host.Outcome State Fault Refusal :=
  issue i s (fun c =>
    let x := argOf c w.a 0
    let base := argOf c w.a 1
    let len := argOf c w.a 2
    withRelease c .package (fun c =>
      match xlatVd c x with
      | none => .ok (xlatAnswer c w.d (xlatStatus 0 0 codeBadarg)).finish
      | some v =>
        if !xArgOk v c.g.level x (!purge) || xArgKind x != 0 || !xRangeOk x base len then .ok (xlatAnswer c w.d (xlatStatus 0 0 codeBadarg)).finish
        else if purge && xArgStage2 x && (s2Leaves c.s v base.toNat len.toNat).any (fun l => l.2.1.getLsbD 51) then
          .ok (xlatAnswer c w.d (xlatStatus 0 0 codePinned)).finish
        else
          let f := { newFlight c (encode i) with udst := [w.d.toNat - 96], left := 0#32 }
          let c1 := c.launchFlight f
          let o : ShootOp :=
            { id := c1.s.nextId, vd := v.num, gid := c.g.gid, flight := f.id, seq := v.relaySeq, purge := purge, stage2 := xArgStage2 x, asid := xAsid x, base := base.toNat,
              len := len.toNat, wonly := xArgWonly x, pend := vdAllSlices c.s v
              failed := (v.insts.filter Inst.failed).foldl (fun a i => a + 2 ^ i.vdie) 0 }
          let s1 := modVd { c1.s with shoots := c1.s.shoots ++ [o], nextId := c1.s.nextId + 1 } v.num (fun v => { v with relaySeq := v.relaySeq + 1 })
          .ok ({ c1 with s := s1 }.push .invalid).finish))

/-- XLAT.BLOCK (R298, R303). -/
def execXlatBlock (w : FmtX) (s : State) : Host.Outcome State Fault Refusal := xlatRelay (.xlatBlock w) w false s
/-- XLAT.PURGE (R299, R303). -/
def execXlatPurge (w : FmtX) (s : State) : Host.Outcome State Fault Refusal := xlatRelay (.xlatPurge w) w true s

/-- The access kind of a PROBE. -/
def probeKind (k : Nat) : AccKind := if k = 0 then .read else if k = 1 then .write else .fetch

/-- SIZE of Table 12.9. -/
def probeSize (n : Nat) : Nat := if n = 2 ^ 16 then 0 else if n = 2 ^ 21 then 1 else 2

/-- The word of Table 12.9. -/
def probeWord (x : Xl) (frame : Nat) : DWord :=
  BitVec.ofNat 64 (frame / 65536 % 2 ^ 32 * 65536 + (if x.fed then 32768 else 0) + (if x.rdup then 16384 else 0) + (if x.publ then 8192 else 0) + (if x.dev then 4096 else 0) +
    (if x.k then 2048 else 0) + (if x.x then 1024 else 0) + (if x.w then 512 else 0) + (if x.r then 256 else 0) + probeSize x.size * 64)

/-- The word of Table 12.9 for a fault; cause 0 is a bad argument. -/
def probeFault (f : XFault) : DWord := BitVec.ofNat 64 (2 ^ 63 + f.cause.toNat * 2 ^ 48 + f.detail.toNat * 2 ^ 40)

/-- What PROBE finds (R304). -/
def probeAnswer (s : State) (v : Vd) (vdie : Nat) (x va : DWord) : DWord :=
  let kind := probeKind (xArgKind x)
  if xArgStage2 x then
    match stage2 s v va.toNat with
    | .error f => probeFault f
    | .ok l =>
      let dev := l.dev || paKind l.pa == .device
      if (kind == .read && !l.r) || (kind == .write && !l.w) || (kind == .fetch && !l.x) then probeFault (xlat2 0x22)
      else if kind == .fetch && dev then probeFault (perm 0x12)
      else
        probeWord
          { va := l.gpa, size := l.size, gpa := l.gpa, pa := l.pa, r := l.r, w := l.w, x := l.x && !dev, k := false, fed := false, rdup := false, publ := false, dev := dev,
            shadow := false } (l.at va.toNat)
  else
    match walk s v vdie (xArgAsid x) false kind 4 va with
    | .error f => probeFault f
    | .ok t => probeWord t (t.at va)

/-- XLAT.PROBE: walks without filling an STC and without a fault (R304). DESIGN CHOICE (log 98): at privilege M the tables and replicas are those of the virtual device's instance on field
0, or of its virtual die 0 where it has none there. -/
def execXlatProbe (w : FmtX) (s : State) : Host.Outcome State Fault Refusal :=
  issue (.xlatProbe w) s (fun c =>
    let x := argOf c w.a 0
    let va := argOf c w.a 1
    let bad := probeFault { cause := 0#8, detail := 0#8 }
    match xlatVd c x with
    | none => .ok (xlatAnswer c w.d bad).finish
    | some v =>
      if !xArgOk v c.g.level x false || xArgKind x == 3 || (xArgAll x && !xArgStage2 x) then .ok (xlatAnswer c w.d bad).finish
      else .ok (xlatAnswer c w.d (probeAnswer c.s v (if c.g.level == .m then v.vdieOf (siteDie c.g.site) else c.g.vdie) x va)).finish)

/-- Whether an address lies in a range. -/
def inRange (base len a : Nat) : Bool := decide (base ≤ a) && decide (a < base + len)

/-- Whether the translation of a request names a frame of the range. -/
def namesFrames (base len : Nat) (r : Req) : Bool :=
  match r.xl with
  | some x => r.lanes.any (fun a => decide (base < x.at a.va + r.size) && decide (x.at a.va < base + len))
  | none => false

/-- Nothing that slices, L1s and monitors hold of frames is left; what slices hold translated to them, not yet sent on, is translated again (R301, R305). -/
def forget (s : State) (base len : Nat) : State :=
  let word := fun (w : Nat) => inRange base len (4 * w)
  let s := retranslate (wakeMonitors s reasonEvict (fun m => word m.word)) (namesFrames base len)
  { s with
    clusters := s.clusters.map (fun k => { k with l1 := k.l1.filter (fun w => !inRange base len w.pa) })
    reqs := s.reqs.map (fun r => { r with fill := r.fill.filter (fun w => !inRange base len w.pa) })
    remote := s.remote.filter (fun r => !word r.word)
    stc := s.stc.filter (fun e => !(decide (base < e.xl.pa + e.xl.size) && decide (e.xl.pa < base + len))) }

/-- Zero-fills frames and removes every trace of them (R305). -/
def scrub (s : State) (base len : Nat) : State :=
  let s := forget s base len
  { s with
    mem := drop s.mem (inRange base len)
    fed := s.fed.filter (fun f => !inRange base len (8 * f.cell))
    integrity := s.integrity.filter (fun b => !inRange base len (64 * b)) }

/-- A request on its way to a home of the range, or refused by one and going out again (R305). -/
def towards (base len : Nat) (r : Req) : Bool := (r.stage == .home || r.stage == .remap) && namesFrames base len r

/-- XLAT.SCRUB: blocks its fragment until no request is on its way to the frames, then zero-fills them (R305). -/
def execXlatScrub (w : FmtX) (s : State) : Host.Outcome State Fault Refusal :=
  issue (.xlatScrub w) s (fun c =>
    let base := (argOf c w.a 0).toNat
    let len := (argOf c w.a 1).toNat
    let body := fun (base len : Nat) (c : Ctx) =>
      if c.s.reqs.any (towards base len) then Except.ok (c.block (.scrub base len)) else .ok { c with s := scrub c.s base len, f := { c.f with wait := .no } }.finish
    match c.f.wait with
    | .scrub b n => body b n c
    | _ => withRelease c .package (fun c =>
      if base % 65536 != 0 || len % 65536 != 0 || decide (2 ^ 40 < base + len) then .error ({ cause := causePerm, val := argOf c w.a 0 } : Trap) else body base len c))

/-- XLAT.PIN (R306). -/
def execXlatPin (w : FmtX) (s : State) : Host.Outcome State Fault Refusal :=
  issue (.xlatPin w) s (fun c =>
    let x := argOf c w.a 0
    let base := argOf c w.a 1
    let len := argOf c w.a 2
    withRelease c .package (fun c =>
      match xlatVd c x with
      | none => .ok (xlatAnswer c w.d (xlatStatus 0 0 codeBadarg)).finish
      | some v =>
        if !xArgOk v c.g.level x true || !xArgStage2 x || xArgKind x != 0 || !xRangeOk x base len then .ok (xlatAnswer c w.d (xlatStatus 0 0 codeBadarg)).finish
        else
          let ls := s2Leaves c.s v base.toNat len.toNat
          let part := fun (l : Nat × BitVec 64 × Nat × Nat) => min (l.2.2.1 + l.2.2.2) (base.toNat + len.toNat) - max l.2.2.1 base.toNat
          if (ls.map part).sum ≠ len.toNat ∨ ls.any (fun l => !l.2.1.getLsbD 4) = true then .ok (xlatAnswer c w.d (xlatStatus 0 0 codeNotmapped)).finish
          else .ok (xlatAnswer { c with s := pinLeaves c.s (!xArgWonly x) ls } w.d (xlatStatus 0 0 0)).finish))

/-! ### The messages at the slices (R298, R299) -/

/-- The operation with an identity. -/
def findShoot (s : State) (id : Nat) : Option ShootOp := s.shoots.find? (fun o => o.id == id)

/-- A slice acknowledges. -/
def ackShoot (s : State) (o : ShootOp) (die slice : Nat) : State :=
  { s with shoots := s.shoots.map (fun q => if q.id == o.id then { q with pend := q.pend.filter (fun p => p != (die, slice)) } else q) }

/-- Messages take effect at a slice in the relay order (R298; 16 R416). -/
def shootTurn (s : State) (o : ShootOp) (die slice : Nat) : Bool :=
  o.pend.contains (die, slice) && !s.shoots.any (fun q => q.vd == o.vd && decide (q.seq < o.seq) && q.pend.contains (die, slice)) && relayTurn s o.vd die o.seq

/-- Records a block at a slice, once. -/
def addBlock (s : State) (o : ShootOp) (die slice : Nat) : State :=
  if s.blocks.any (fun b => b.op == o.id && b.die == die && b.slice == slice) then s
  else { s with blocks := { op := o.id, vd := o.vd, die := die, slice := slice, stage2 := o.stage2, asid := o.asid, base := o.base, len := o.len, wonly := o.wonly } :: s.blocks }

/-- The valid stage-1 leaves of an address space that meet a range: VA, size, the GPA that they map (R287, R288). Replicated and publishable pages, which no write but the Dray's reaches, are left
out. -/
def leaves1 (s : State) (v : Vd) (table lvl base lo hi : Nat) : Nat → List (Nat × Nat × Nat)
  | 0 => []
  | n + 1 =>
    let size := 2 ^ levelShift lvl
    ((List.range (if lvl = 4 then 32 else 512)).filter (fun i => decide (base + size * i < hi) && decide (lo < base + size * (i + 1)))).flatMap (fun i =>
      match guestEntry s v (table + 8 * i) with
      | .error _ => []
      | .ok e =>
        if !e.getLsbD 0 then []
        else if !e.getLsbD 1 then leaves1 s v (addrOf e) (lvl + 1) (base + size * i) lo hi n
        else if e.getLsbD 49 || e.getLsbD 50 then []
        else [(base + size * i, size, addrOf e)])

/-- The pages of an operation's range, by VA or GPA, with their frames: each piece's address, PA and size. -/
def piecesOf (s : State) (v : Vd) (die : Nat) (o : ShootOp) : List (Nat × Nat × Nat) :=
  let cut := fun (at_ gpa size : Nat) => (s2Leaves s v gpa size).filterMap (fun l =>
    let lo := max gpa l.2.2.1
    let hi := min (gpa + size) (l.2.2.1 + l.2.2.2)
    if lo < hi then some (at_ + (lo - gpa), addrOf l.2.1 + (lo - l.2.2.1), hi - lo) else none)
  if o.stage2 then cut o.base o.base o.len
  else
    let top := o.base / 2 ^ 57 * 2 ^ 57
    let asids := match o.asid with
      | some a => [a]
      | none => (List.range v.desc.asidCnt).map (· + v.desc.asidBase)
    asids.flatMap (fun a => match asidRoot s v (v.vdieOf die) a with
      | .error _ => []
      | .ok root => (leaves1 s v root 0 0 (o.base - top) (o.base - top + o.len) 5).flatMap (fun p =>
          let lo := max (top + p.1) o.base
          let hi := min (top + p.1 + p.2.1) (o.base + o.len)
          cut lo (p.2.2 + (lo - (top + p.1))) (hi - lo)))

/-- A slice's writes-only BLOCK sets the directory lock bits of the range at its homes, which spill the siblings of its cells (R298, R309). -/
def setLocks (s : State) (v : Vd) (o : ShootOp) (die slice : Nat) : State :=
  if s.locks.any (fun k => k.op == o.id && k.die == die && k.slice == slice) then s
  else
    let new := (piecesOf s v die o).map (fun p => ({ op := o.id, vd := o.vd, die := die, slice := slice, stage2 := o.stage2, asid := o.asid, base := p.1, len := p.2.2, pa := p.2.1, size := p.2.2 } : LockRec))
    { s with
      locks := new ++ s.locks
      fed := s.fed.map (fun f => if new.any (fun k => inRange k.pa k.size (8 * f.cell)) then { f with tab := false } else f) }

/-- What is left of a lock record outside a range. -/
def trimLock (base len : Nat) (k : LockRec) : List LockRec :=
  let lo := min (k.base + k.len) base - k.base
  let hi := max k.base (base + len) - k.base
  (if k.base < base then [{ k with len := lo, size := lo }] else []) ++
  (if base + len < k.base + k.len then [{ k with base := k.base + hi, len := k.len - hi, pa := k.pa + hi, size := k.size - hi }] else [])

/-- A slice's PURGE clears the lock bits of its range at the homes it sent them to (R299 step 5). -/
def liftLocks (s : State) (o : ShootOp) (die slice : Nat) : State :=
  { s with locks := s.locks.flatMap (fun k =>
      if k.vd == o.vd && k.die == die && k.slice == slice && k.stage2 == o.stage2 && (o.asid == none || k.asid == o.asid) then trimLock o.base o.len k else [k]) }

/-- BLOCK_AT_SLICE: the slice records the range; in writes-only mode it has the range locked at its homes, writes its dirty words of the range back and waits for the writes that it has forwarded
before it acknowledges, and for those that it holds translated for their runs; a write whose run the block stalls is translated again (R298, R300; log 53). -/
def execBlockAtSlice (op die slice : Nat) (s : State) : Host.Outcome State Fault Refusal :=
  match findShoot s op, (findShoot s op).bind (fun o => findVd s o.vd) with
  | some o, some v =>
    if o.purge || !shootTurn s o die slice then .next s
    else
      let s := addBlock s o die slice
      if !o.wonly then .next (ackShoot s o die slice)
      else
        let s := setLocks s v o die slice
        let at_ := fun (r : RemoteWord) => if o.stage2 then r.gpa else r.va
        let dirty := fun (r : RemoteWord) => remoteOf o.vd die r && r.slice == slice && (o.stage2 || o.asid == none || o.asid == some r.asid) &&
          decide (o.base < at_ r + 4) && decide (at_ r < o.base + o.len)
        let s := retranslate (writeBack s dirty) (fun r =>
          r.vd == o.vd && r.die == die && r.slice == slice && (opKind r.op).writes && r.xl.any (rangeHits o.stage2 o.asid o.base o.len r.asid) && stuckRun s r)
        if s.reqs.any (fun r => forwardedIn s o.vd die slice o.stage2 o.asid o.base o.len r && (opKind r.op).writes) then .next s else .next (ackShoot s o die slice)
  | _, _ => .next s

/-- What is left of a block record outside a range. -/
def trimBlock (base len : Nat) (b : BlockRec) : List BlockRec :=
  (if b.base < base then [{ b with len := min b.len (base - b.base) }] else []) ++
  (if base + len < b.base + b.len then [{ b with base := max b.base (base + len), len := b.base + b.len - max b.base (base + len) }] else [])

/-- A PURGE lifts the blocks of its range at a slice (R299 steps 5 and 6). -/
def liftBlocks (s : State) (o : ShootOp) (die slice : Nat) : State :=
  { s with blocks := s.blocks.flatMap (fun b =>
      if b.vd == o.vd && b.die == die && b.slice == slice && b.stage2 == o.stage2 && (o.asid == none || b.asid == o.asid) && !s.drays.any (fun d => d.id == b.op)
      then trimBlock o.base o.len b else [b]) }

/-- A purge that takes effect at a home frees the monitors there on the words it covers, and the one that clears the last lock of an old frame's word those on that word (R308, R309; 14 R349). -/
def evictMoved (s : State) (o : ShootOp) (die slice : Nat) (locked : List LockRec) : State :=
  wakeMonitors s reasonEvict (fun m => m.vd == o.vd &&
    ((m.die == die && m.slice == slice && (if o.stage2 then inRange o.base o.len m.gpa else (o.asid == none || o.asid == some m.asid) && inRange o.base o.len m.va)) ||
     (locked.any (fun k => inRange k.pa k.size (4 * m.word)) && !lockHeld s (4 * m.word) 4)))

/-- PURGE_AT_SLICE: the range is blocked and its entries go; when what the slice forwarded has been answered, its dirty words go home, its lines and the L1s' are
invalidated, the blocks and locks are lifted and it acknowledges (R299). -/
def execPurgeAtSlice (op die slice : Nat) (s : State) : Host.Outcome State Fault Refusal :=
  match findShoot s op, (findShoot s op).bind (fun o => findVd s o.vd) with
  | some o, some v =>
    if !o.purge || !shootTurn s o die slice then .next s
    else
      let s := addBlock s o die slice
      if s.reqs.any (forwardedIn s o.vd die slice o.stage2 o.asid o.base o.len) then .next s
      else
        let mine := fun (k : LockRec) => k.vd == o.vd && k.die == die && k.slice == slice && k.stage2 == o.stage2 && (o.asid == none || k.asid == o.asid) && decide (k.base < o.base + o.len) &&
          decide (o.base < k.base + k.len)
        let locked := s.locks.filter mine
        let s := evictMoved (liftLocks (liftBlocks (purgeRange s v die slice o.stage2 o.asid o.base o.len) o die slice) o die slice) o die slice locked
        let s := if o.pend.any (fun p => p.1 == die && p.2 != slice) then s else bumpGen s o.vd die o.stage2
        .next (ackShoot s o die slice)
  | _, _ => .next s

/-- SHOOTDOWN_COMPLETE: every die that has not failed has acknowledged; the status is written (R303, Table 12.8). -/
def execShootdownComplete (op : Nat) (s : State) : Host.Outcome State Fault Refusal :=
  match findShoot s op with
  | none => .next s
  | some o =>
    let waits := o.pend.filter (fun p => !s.failed.contains p.1)
    if !waits.isEmpty then .next s
    else
      let missed := match findVd s o.vd with
        | some v => ((v.insts.filter (fun i => o.pend.any (fun p => p.1 == i.pdie))).foldl (fun a i => a ||| 2 ^ i.vdie) o.failed)
        | none => o.failed
      let s := { s with shoots := s.shoots.filter (fun q => q.id != o.id) }
      match (findGroup s o.gid).bind (fun g => g.flights.find? (fun x => x.id == o.flight)) with
      | some x =>
        let st := xlatStatus o.seq missed 0
        .next (endFlight (modGroup s o.gid (fun g => x.udst.foldl (fun g i => sset g i st) g)) o.gid x)
      | none => .next s

/-! ### Slice-map changes (R312-R314) -/

/-- The slices of the virtual device that owns a slice of a die, those of a mask. -/
def ownerSlices (s : State) (die slice : Nat) (keep : BitVec 64) : BitVec 64 :=
  match s.vds.find? (fun v => (v.desc.dies.find? (fun d => d.pdie == die)).any (fun d => d.slices.getLsbD slice)) with
  | some v => (vdSlices s v die) &&& keep
  | none => keep

/-- The mask of a window under a new map: its slices that are kept, else the other kept slices of their owner. -/
def newMask (s : State) (die w : Nat) (keep : BitVec 64) : BitVec 64 :=
  let m := windowMask s die w &&& keep
  if m != 0#64 then m
  else
    let o := ownerSlices s die (nthBit (windowMask s die w) 0) keep
    if o != 0#64 then o else keep

/-- The mask that the SMC gives a window: some of the kept slices of the window's owner. DESIGN CHOICE (log 69): which, a free value says; one that names none gives way to newMask. -/
def askedMask (s : State) (die w : Nat) (keep : BitVec 64) : BitVec 64 :=
  let m := Config.freeValue (s.freeCtr + w) &&& keep &&& ownerSlices s die (nthBit (windowMask s die w) 0) keep
  if m != 0#64 then m else newMask s die w keep

/-- SLICE_MAP_CHANGE: the SMC writes a new map and generation for a die, which retires the slices outside keep; every slice and cluster has then to acknowledge it (R313, R314). A virtual device
keeps at least one slice of the die, and a change begins when the one before has ended. -/
def execSliceMapChange (die : Nat) (keep : BitVec 64) (s : State) : Host.Outcome State Fault Refusal :=
  let live := liveSlices s die
  let keep := keep &&& live
  if keep = 0#64 ∨ (changeOf s die).isSome = true ∨ s.vds.any (fun v => vdSlices s v die != 0#64 && vdSlices s v die &&& keep == 0#64) = true then .next s
  else
    let ws := List.range 64
    .next { s with
      mapChanges := s.mapChanges ++ [{ die := die, old := ws.map (windowMask s die), gone := live &&& ~~~keep, slices := ws.filter (fun i => live.getLsbD i)
                                       sites := (s.clusters.map Cluster.site).filter (fun k => siteDie k == die && k != .smc) }]
      sliceMap := ws.map (fun w => (die * 64 + w, askedMask s die w keep)) ++ s.sliceMap.filter (fun e => e.1 / 64 != die)
      mapGen := assocSet s.mapGen die ((assoc s.mapGen die + 1) % 65536)
      freeCtr := s.freeCtr + 64 }

/-- Changes the change of a die's slice map. -/
def modChange (s : State) (die : Nat) (f : MapChange → MapChange) : State := { s with mapChanges := s.mapChanges.map (fun m => if m.die == die then f m else m) }

/-- The slices that the lines of a slice may move to. -/
def heirSlices (s : State) (m : MapChange) (slice : Nat) : List Nat :=
  (List.range 64).filter (fun j => j != slice && (List.range 64).any (fun w => (m.old.getD w 0#64).getLsbD slice && m.old.getD w 0#64 != windowMask s m.die w && (windowMask s m.die w).getLsbD j))

/-- A slice acknowledges a new map: it hands over the lines that move, their siblings spilled and their monitors freed, its vector with the rest of what it knows of them (log 68). As an entry
slice it writes its dirty remote words back and gives up those whose entry slice is another now; one that is being retired gives up its translations too (R313, R314; 11 R258). -/
def ackSlice (die slice : Nat) (s : State) : State :=
  match changeOf s die with
  | none => s
  | some m =>
    if !m.slices.contains slice then s
    else
      let moves := fun (pa : Nat) => homeIn s pa false == (die, slice) && homeIn s pa true != (die, slice)
      let h := hvecOf s die slice
      let s := (heirSlices s m slice).foldl (fun s j => mergeH s die j h) s
      let s := wakeMonitors { s with fed := s.fed.map (fun f => if moves (8 * f.cell) then { f with tab := false } else f) } reasonEvict (fun k => moves (4 * k.word))
      let s := recallWords (writeBack s (fun r => r.die == die && r.slice == slice)) die (fun r => r.slice == slice && (m.gone.getLsbD slice || entryIn s r.vd die r.va true != slice))
      let s := if m.gone.getLsbD slice then { s with stc := s.stc.filter (fun e => !(e.die == die && e.slice == slice)) } else s
      modChange s die (fun m => { m with slices := m.slices.filter (fun i => i != slice) })

/-- A cluster acknowledges a new map (R313). -/
def ackSite (die : Nat) (site : Site) (s : State) : State := modChange s die (fun m => { m with sites := m.sites.filter (fun k => k != site) })

/-- A change ends once everybody has acknowledged it: its slices are retired when nothing that they forwarded is out and no message waits for them; the timers that expired meanwhile take effect
(R314; 17 R428). -/
def endChange (die : Nat) (s : State) : State :=
  match changeOf s die with
  | none => s
  | some m =>
    let gone := fun (d i : Nat) => d == die && m.gone.getLsbD i
    let busy := s.reqs.any (fun r => gone r.die r.slice && (r.stage == .home || (r.stage == .remap && r.xl.isSome))) || s.shoots.any (fun o => o.pend.any (fun p => gone p.1 p.2)) ||
      s.drays.any (fun d => d.pend.any (fun p => gone p.1 p.2))
    if !m.slices.isEmpty || !m.sites.isEmpty || busy then s
    else
      expireDue { s with
        mapChanges := s.mapChanges.filter (fun c => c.die != die)
        retiredSlices := s.retiredSlices ++ ((List.range 64).filter (fun i => m.gone.getLsbD i)).map (fun i => die * 64 + i)
        stc := s.stc.filter (fun e => !gone e.die e.slice)
        blocks := s.blocks.filter (fun b => !gone b.die b.slice)
        locks := s.locks.filter (fun k => !gone k.die k.slice) }

/-- The steps that the changes of slice maps still have to take. -/
def changeActs (s : State) : List (State → State) :=
  s.mapChanges.flatMap (fun m => m.slices.map (ackSlice m.die) ++ m.sites.map (ackSite m.die) ++ [endChange m.die])

/-! ### The sweep (15 R384-R387) -/

/-- The counts of a virtual device by physical die (R384). -/
def countsNow (v : Vd) : List Nat := (List.range 8).map (fun d => ((v.instAt d).map (fun i => i.vec.getD d 0)).getD 0)

/-- Whether a dot is old enough to age under a snapshot (R384). -/
def agesUnder (snap : List Nat) (x : Sib) : Bool :=
  let d := (snap.getD x.die 0 + 2 ^ 21 - x.rcnt % 2 ^ 21) % 2 ^ 21
  decide (2 ^ 19 ≤ d) && decide (d < 2 ^ 20)

/-- Ages the dots of the cells of a virtual device of which p holds. -/
def ageCells (s : State) (vd : Nat) (snap : List Nat) (p : FedCell → Bool) : State :=
  { s with fed := s.fed.map (fun f => if f.vd == vd && p f then { f with sibs := f.sibs.map (fun x => if agesUnder snap x then { x with aged := true } else x) } else f) }

/-- Whether a pass runs: it is paused from collapse to wake (R384). -/
def sweeps (v : Vd) : Bool := v.state == .active || v.state == .idle

/-- A pass begins: the snapshot is taken, and the slices have visited an unspecified part of the cells (R384; log 5). -/
def startPass (s : State) (v : Vd) : State :=
  let snap := countsNow v
  let bits := Config.freeValue s.freeCtr
  let s := modVd { s with freeCtr := s.freeCtr + 1 } v.num (fun v => { v with sweeping := true, snapshot := snap })
  ageCells s v.num snap (fun f => bits.getLsbD (f.cell % 64))

/-- SWEEP_PASS_START (R384). -/
def execSweepPassStart (vd : Nat) (s : State) : Host.Outcome State Fault Refusal :=
  match findVd s vd with
  | none => .next s
  | some v => if v.sweeping || !sweeps v then .next s else .next (startPass s v)

/-- A vector raised to the floors of a snapshot; a die's own entry stays (R385). -/
def floorVec (snap : List Nat) (dies : List Nat) (own : Option Nat) (v : List Nat) : List Nat :=
  (List.range 8).map (fun e =>
    let f := (snap.getD e 0 + 2 ^ 21 - 2 ^ 19) % 2 ^ 21
    if dies.contains e && own != some e && later f (v.getD e 0) then f else v.getD e 0)

/-- SWEEP_PASS_END: every slice has finished: the rest of the cells have aged, vectors take their floors, BASE is the snapshot, PASS counts, and the next pass begins
(R384-R387). -/
def execSweepPassEnd (vd : Nat) (s : State) : Host.Outcome State Fault Refusal :=
  match findVd s vd with
  | none => .next s
  | some v =>
    if !v.sweeping || !sweeps v then .next s
    else
      let dies := v.insts.map Inst.pdie
      let s := ageCells s vd v.snapshot (fun _ => true)
      let s := (vdAllSlices s v).foldl (fun s p =>
        let h := floorVec v.snapshot dies none (hvecOf s p.1 p.2)
        if h == hvecOf s p.1 p.2 then s else { s with hvecs := (p.1 * 64 + p.2, h) :: s.hvecs.filter (fun e => e.1 != p.1 * 64 + p.2) }) s
      let s := modVd s vd (fun v =>
        let p := { v with pass := v.pass + 1 }
        { p with insts := p.insts.map (fun i =>
            let j := { i with vec := floorVec v.snapshot dies (some i.pdie) i.vec, base := v.snapshot.getD i.pdie 0 }
            { j with lag := (sweepWord p j).getLsbD 21 }) })
      match findVd s vd with
      | some v => .next (startPass s v)
      | none => .next s

end Sys2Proof.Machine
end

