-- ==== Sys2Proof/Machine/Register.lean ====
section
/-! DEFINITION. Machine/Register.lean: what the host writes and reads: the front end's registers, the mailbox's, the status window's, the memory aperture; launch words
and function-level reset (00 R8, R9; 02 R38-R41, R51-R53; 17 R432-R434). -/

namespace Sys2Proof.Machine

/-! ### Launch words and WAKE -/

/-- LAUNCH: a host write to the front end's LAUNCH register (02 R39). -/
def execLaunch (vd off size : Nat) (val : BitVec 64) (s : State) : Host.Outcome State Fault Refusal := .next (launchWrite s vd off size val)

/-- WAKE_WRITE: a write of 4 or 8 bytes to WAKE (02 R53). -/
def execWakeWrite (vd size : Nat) (s : State) : Host.Outcome State Fault Refusal :=
  .next (wakeWrite s vd size)

/-! ### The mailbox (17 R433) -/

/-- A mailbox that nothing has been written to. -/
def freshMbox : Mbox := { req := List.replicate 64 0#8, status := 0#64, result := 0#64, ready := false, busy := false }

/-- The mailbox of a function. -/
def mboxOf (s : State) (fn : Nat) : Mbox := ((s.mboxes.find? (fun m => m.1 == fn)).map Prod.snd).getD freshMbox

/-- Puts a function's mailbox back. -/
def setMbox (s : State) (fn : Nat) (m : Mbox) : State := { s with mboxes := (fn, m) :: s.mboxes.filter (fun e => e.1 != fn) }

/-- Every kernel group of an instance has a doorbell to see (16 R420). -/
def ringInst (i : Inst) : Inst := { i with bells := [0, 1, 2, 3] }

/-- A doorbell: ignored while busy; a wake event that rings the instance of virtual die 0 (02 R51; 16 R420). DESIGN CHOICE (log 87): R51 and R433 name a VF's MBBELL; the physical function's mailbox, which
is function 0's here, wakes and rings virtual device 0 at every doorbell, a management operation's too. -/
def doorbell (s : State) (fn : Nat) : State :=
  let m := mboxOf s fn
  if m.busy then s
  else touchEvent (modVd (setMbox s fn { m with busy := true, ready := false }) fn (fun v => v.modInst 0 ringInst)) fn 3

/-- Whether the die kernel's instance of virtual die 0 can serve a request now (01 R27). -/
def serves (v : Vd) : Bool := awake v && (v.inst 0).any (fun i => !i.failed)

/-- The reply of an operation: a result only with status 0 (R433). -/
def reply (s : State) (fn status : Nat) (result : BitVec 64) : State :=
  setMbox s fn { mboxOf s fn with status := BitVec.ofNat 64 status, result := if status = 0 then result else 0#64, ready := true, busy := false }

/-- Byte i of a request, and its k-th 8 bytes. -/
def Mbox.byte (m : Mbox) (i : Nat) : Nat := (m.req.getD i 0#8).toNat
def Mbox.arg (m : Mbox) (k : Nat) : BitVec 64 := BitVec.ofNat 64 (leNat ((m.req.drop (8 * k)).take 8))

/-- Writes bytes of a request (R433). -/
def Mbox.write (m : Mbox) (off size : Nat) (val : BitVec 64) : Mbox :=
  { m with req := (List.range 64).map (fun i => if off ≤ i ∧ i < off + size then BitVec.ofNat 8 (val.toNat / 2 ^ (8 * (i - off))) else m.req.getD i 0#8) }

/-- REGISTER_WRITE: a host write to another register of BAR 0: MBREQ is stored, 1 to MBBELL rings, everything else is read-only or reserved (00 R8, R9; 17 Table 17.3). -/
def execRegisterWrite (vd off size : Nat) (val : BitVec 64) (s : State) : Host.Outcome State Fault Refusal :=
  if vd ≠ 0 ∧ (findVd s vd).isNone then .next s
  else if 0x1000 ≤ off ∧ off < 0x1040 then .next (setMbox s vd ((mboxOf s vd).write (off - 0x1000) size val))
  else if off = 0x1080 ∧ val = 1#64 then .next (doorbell s vd)
  else .next s

/-- FUNCTION_LEVEL_RESET: a VF's starts a VF reset, the physical function's resets the management mailbox alone (R432). -/
def execFunctionLevelReset (fn : Nat) (s : State) : Host.Outcome State Fault Refusal :=
  if fn = 0 then .next (setMbox s 0 freshMbox) else .next (modVd s fn beginReset)

/-! ### The memory aperture (17 R434) -/

/-- HWBASE_WRITE: VA and HWASID; reserved bits are ignored (Table 17.4). -/
def execHwbaseWrite (vd : Nat) (val : BitVec 64) (s : State) : Host.Outcome State Fault Refusal :=
  .next (modVd s vd (fun v => { v with hwva := (val.extractLsb' 16 41).toNat * 65536, hwasid := (val.extractLsb' 0 10).toNat }))

/-- FSTATE of a field: one that has been switched off reads as off (Table 17.4; 02 R48; log 25). -/
def fstate (x : FieldSt) : Nat := if 2 ≤ x.svc && !x.pll then 0 else x.svc

/-- A read of a function's status window (Table 17.4). -/
def statusRead (s : State) (v : Vd) (off : Nat) : BitVec 64 :=
  match off / 8 with
  | 0 => (if s.standby then 0x10000#64 else 0#64) ||| (List.range s.fields.length).foldl (fun a f => a ||| BitVec.ofNat 64 (((s.fields[f]?).map fstate).getD 0 * 4 ^ f)) 0#64
  | 1 => BitVec.ofNat 64 (v.hwva + v.hwasid)
  | 2 => BitVec.ofNat 64 v.hwerr
  | _ => 0#64

/-- What a read returns to the host, behind what earlier reads returned. -/
def answerHost (s : State) (h : HostOp) (bs : List (BitVec 8)) : State := if h.isWrite then s else { s with hostReads := s.hostReads ++ [(h.vd, bs)] }

/-- An access is aborted: a read returns all ones (R434). -/
def abortHost (s : State) (h : HostOp) : State :=
  answerHost (modVd s h.vd (fun v => { v with hwerr := min (v.hwerr + 1) 0xFFFFFFFF })) h (List.replicate h.size 0xFF#8)

/-- The naturally aligned 8-byte pieces of an access: address, size, value. -/
def hostPieces (va size val : Nat) : List (Nat × Nat × Nat) :=
  (List.range (size / 8 + 2)).filterMap (fun k =>
    let lo := max va ((va / 8 + k) * 8)
    let hi := min (va + size) ((va / 8 + k + 1) * 8)
    if lo < hi then some (lo, hi - lo, val / 2 ^ (8 * (lo - va))) else none)

/-- Writes a piece of at most 8 bytes of one cell at its home, as the host, the Coupler and the pool side do: with no vector (14 R358). -/
def hostWrite (s : State) (vd : Nat) (fed : Bool) (pa n x : Nat) : State :=
  (writeHome s { vd := vd, die := paDie pa, vec := none, fed := fed, sibmax := sibMax s vd } pa n x).2

/-- The translations of an access's pieces; none while a block holds one. -/
def hostXl (s : State) (v : Vd) (h : HostOp) : Except XFault (Option (List (Xl × Nat × Nat × Nat) × State)) :=
  let die := v.pdie 0
  let kind := if h.isWrite then AccKind.write else AccKind.read
  (hostPieces h.va.toNat h.size h.val).foldl (fun a p =>
    match a with
    | .error f => .error f
    | .ok none => .ok none
    | .ok (some (l, s)) =>
      let va := BitVec.ofNat 64 p.1
      let slice := entrySlice s v.num die p.1
      if blockHits s v die slice h.asid kind va then .ok none
      else match translate s v die 0 slice h.asid true kind p.2.1 va with
        | .error f => .error f
        | .ok r => .ok (some (l ++ [(r.1, p)], r.2))) (.ok (some ([], s)))

/-- The bytes of a piece of a read, at their home: memory's, or what a front-end window or another device answers (02 R38; logs 7, 20). -/
def hostPiece (s : State) (pa n : Nat) (dev : Bool) : List (BitVec 8) :=
  if dev then
    (match feTarget s pa with
     | some t => leBytes (((findVd s t.1).map (fun v => feRead v t.2 n)).getD 0) n
     | none => leBytes (Config.deviceRead pa s.freeCtr).toNat n)
  else if paKind pa == .hbm || paKind pa == .pool then rdList s.mem pa n
  else leBytes (Config.freeValue s.freeCtr).toNat n

/-- The bytes that a read returns, lowest first. -/
def hostBytes (s : State) (ps : List (Xl × Nat × Nat × Nat)) : List (BitVec 8) × State :=
  ps.foldl (fun a p => (a.1 ++ hostPiece a.2 (p.1.at (BitVec.ofNat 64 p.2.1)) p.2.2.1 p.1.dev, { a.2 with freeCtr := a.2.freeCtr + 1 })) ([], s)

/-- Performs a host access, or processes the launch that waited behind earlier ones (02 R40); false while it is held (R434; 02 R51; 12 R298). Bytes written into a block with a mismatched check
that they do not replace whole are refused (R439). -/
def hostAccess (s : State) (h : HostOp) : Bool × State :=
  match findVd s h.vd with
  | none => (true, s)
  | some v =>
    if h.fe then (true, advance s h.vd h.val)
    else if !awake v then (false, s)
    else if h.asid < v.desc.asidBase ∨ v.desc.asidBase + v.desc.asidCnt ≤ h.asid ∨ h.va.getLsbD 56 = true then (true, abortHost s h)
    else match hostXl s v h with
      | .error _ => (true, abortHost s h)
      | .ok none => (false, s)
      | .ok (some (ps, s)) =>
        let cover := ps.map (fun p => (p.1.at (BitVec.ofNat 64 p.2.1), p.2.2.1))
        if ps.any (fun p => chanHeld s (p.1.at (BitVec.ofNat 64 p.2.1)) || (h.isWrite && lockHeld s (p.1.at (BitVec.ofNat 64 p.2.1)) p.2.2.1)) then (false, s)
        else if h.isWrite then
          if !(keptBlocks s cover).isEmpty then (true, abortHost s h)
          else
            (true, ps.foldl (fun s p =>
              let pa := p.1.at (BitVec.ofNat 64 p.2.1)
              if p.1.dev then
                (match feTarget s pa with
                 | some t => feWrite s t.1 t.2 p.2.2.1 (BitVec.ofNat 64 p.2.2.2)
                 | none => s)
              else hostWrite s h.vd p.1.fed pa p.2.2.1 p.2.2.2) (freshChecks s cover))
        else match cover.find? (fun p => s.integrity.contains (p.1 / 64)) with
          | some p => (true, abortHost (postIntegrity s h.vd p.1) h)
          | none => (true, answerHost (hostBytes s ps).2 h (hostBytes s ps).1)

/-- Performs the held host accesses of a virtual device, oldest first, up to the first that is still held. -/
def retryHost : Nat → State → Nat → State
  | 0, s, _ => s
  | n + 1, s, vd =>
    match s.hostHeld.find? (fun h => h.vd == vd) with
    | none => s
    | some h =>
      let r := hostAccess s h
      if r.1 then retryHost n { r.2 with hostHeld := r.2.hostHeld.eraseP (fun k => k.vd == vd) } vd else s

/-- HOST_APERTURE_ACCESS: an access at an offset of the aperture, with the base in force: a wake event, performed behind those that are held (R434; 02 R51). -/
def execHostApertureAccess (vd off size : Nat) (isWrite : Bool) (val : Nat) (s : State) : Host.Outcome State Fault Refusal :=
  match findVd s vd with
  | none => .next s
  | some v =>
    let va := ((BitVec.ofNat 57 v.hwva).signExtend 64) + BitVec.ofNat 64 off
    let h : HostOp := { vd := vd, asid := v.hwasid, va := va, size := size, isWrite := isWrite, val := val, fe := false }
    let s := touchEvent { s with hostHeld := s.hostHeld ++ [h] } vd 3
    .next (retryHost s.hostHeld.length s vd)

end Sys2Proof.Machine
end

