-- ==== Sys2Proof/Machine/Mailbox.lean ====
section
/-! DEFINITION. Machine/Mailbox.lean: the mailbox operations: registering and unregistering a graph, creating and destroying a virtual device, and VF reset
(01 R17-R32, R459; 02 R33, R34, R54; 16 R411, R413, R415; 17 R432, R433, R436). -/

namespace Sys2Proof.Machine

/-! ### Reading for a registration (01 R459) -/

/-- Whether a byte of a range stands under a mismatched carried check (17 R439). -/
def unreadable (s : State) (pa n : Nat) : Bool := s.integrity.any (fun b => decide (64 * b < pa + n) && decide (pa < 64 * b + 64))

/-- n bytes from an address as the die kernel of virtual die 0 reads them, at most fuel pages; none where one cannot be read. DESIGN CHOICE (log 86): a page of a device or a Coupler window is read
from State.mem, which holds no byte of it, so a descriptor or an image there reads as zeros (R459 says no more than that a byte that cannot be read fails check 1). -/
def readVa (s : State) (v : Vd) (asid : Nat) : Nat → Nat → Nat → Option (List (BitVec 8))
  | 0, _, n => if n = 0 then some [] else none
  | f + 1, va, n =>
    if n = 0 then some []
    else
      let k := min n (65536 - va % 65536)
      match walk s v 0 asid false .read 8 (BitVec.ofNat 64 (va / 8 * 8)) with
      | .error _ => none
      | .ok x =>
        if unreadable s (x.at (BitVec.ofNat 64 va)) k then none
        else match readVa s v asid f (va + k) (n - k) with
          | some r => some (rdList s.mem (x.at (BitVec.ofNat 64 va)) k ++ r)
          | none => none

/-- A field of a byte list. -/
def fieldOf (b : List (BitVec 8)) (off n : Nat) : Nat := leNat ((b.drop off).take n)

/-- Whether the bytes of a field are all zero. -/
def zeroAt (b : List (BitVec 8)) (off n : Nat) : Bool := ((b.drop off).take n).all (fun x => x == 0#8)

/-- A failed check: ERR and DETAIL of Table 1.9. -/
structure RegFail where
  err : Nat
  detail : Nat
  deriving DecidableEq, Repr

/-- The index of a failure that belongs to no node and no edge. -/
def noIndex : Nat := 0xFFFF

/-- What a registration has read: header, nodes, edges, and each distinct image with its address and the lowest node that names it. -/
structure RegRead where
  va : Nat
  hdr : List (BitVec 8)
  nodes : List (List (BitVec 8))
  edges : List (List (BitVec 8))
  images : List (Nat × Nat × List (BitVec 8))
  deriving DecidableEq, Repr

/-- The first failure in a list of checks, each with the index it reports. DESIGN CHOICE (log 64): of several records or images that fail one check DETAIL reports the header first, then
nodes by index, then edges by index or images by the lowest node that names them. -/
def firstFail (err : Nat) (cs : List (Nat × Bool)) : Option RegFail := (cs.find? (fun c => !c.2)).map (fun c => { err := err, detail := c.1 })

/-- Reads a list of records; the index of the first that cannot be read. -/
def readAll (l : List (Option (List (BitVec 8)))) : Except Nat (List (List (BitVec 8))) :=
  match (List.range l.length).find? (fun i => (l.getD i none).isNone) with
  | some i => .error i
  | none => .ok (l.map (fun x => x.getD []))

/-- The image addresses of nodes, each once, with the lowest node that names it. -/
def distinctImages (nodes : List (List (BitVec 8))) : List (Nat × Nat) :=
  (List.range nodes.length).foldl (fun acc i =>
    let a := fieldOf (nodes.getD i []) 0 8
    if acc.any (fun e => e.1 == a) then acc else acc ++ [(a, i)]) []

/-- Reads an image: its header, then as far as IMGSIZE says (R459). -/
def readImage (s : State) (v : Vd) (asid va : Nat) : Option (List (BitVec 8)) :=
  match readVa s v asid 2 va 64 with
  | none => none
  | some h => readVa s v asid 130 va (max 64 (min (fieldOf h 8 4) (2 ^ 23)))

/-- Check 1: the descriptor and every image are readable (R459). -/
def readGraph (s : State) (v : Vd) (asid va : Nat) : Except RegFail RegRead :=
  match readVa s v asid 2 va 16 with
  | none => .error { err := 1, detail := noIndex }
  | some h =>
    let nn := min (fieldOf h 4 2) 256
    let ne := min (fieldOf h 6 2) 1024
    match readAll ((List.range nn).map (fun i => readVa s v asid 2 (va + 16 + 32 * i) 32)) with
    | .error i => .error { err := 1, detail := i }
    | .ok ns =>
      match readAll ((List.range ne).map (fun i => readVa s v asid 2 (va + 16 + 32 * nn + 4 * i) 4)) with
      | .error i => .error { err := 1, detail := i }
      | .ok es =>
        let ims := distinctImages ns
        match readAll (ims.map (fun e => readImage s v asid e.1)) with
        | .error i => .error { err := 1, detail := ((ims[i]?).map Prod.snd).getD noIndex }
        | .ok bs => .ok { va := va, hdr := h, nodes := ns, edges := es, images := (List.range ims.length).map (fun i => (((ims[i]?).map Prod.fst).getD 0, ((ims[i]?).map Prod.snd).getD 0, bs.getD i [])) }

/-! ### The checks (01 Table 1.8) -/

/-- CRC-32C of bytes. -/
def crcBit (c : Word) : Word := if c.getLsbD 0 then (c >>> 1) ^^^ 0x82F63B78#32 else c >>> 1
def crcByte (c : Word) (b : BitVec 8) : Word := (List.range 8).foldl (fun c _ => crcBit c) (c ^^^ b.setWidth 32)
def crc32c (bs : List (BitVec 8)) : Word := ~~~(bs.foldl crcByte 0xFFFFFFFF#32)

/-- The fields of an image (Tables 1.1, 1.2). -/
def imgSize (b : List (BitVec 8)) : Nat := fieldOf b 8 4
def imgCodeOff (b : List (BitVec 8)) : Nat := fieldOf b 0x0C 4
def imgCodeSize (b : List (BitVec 8)) : Nat := fieldOf b 0x10 4
def imgConstOff (b : List (BitVec 8)) : Nat := fieldOf b 0x14 4
def imgConstSize (b : List (BitVec 8)) : Nat := fieldOf b 0x18 4
def imgResOff (b : List (BitVec 8)) : Nat := fieldOf b 0x1C 4
def imgResSize (b : List (BitVec 8)) : Nat := fieldOf b 0x20 4
def imgArg (b : List (BitVec 8)) : Nat := fieldOf b 0x24 4
/-- A field of the resource declaration. -/
def resField (b : List (BitVec 8)) (off n : Nat) : Nat := fieldOf b (imgResOff b + off) n
def resRoles (b : List (BitVec 8)) : Nat := resField b 0 1
def resSplit (b : List (BitVec 8)) : Nat := resField b 1 1
def resBars (b : List (BitVec 8)) : Nat := resField b 2 1
def resChans (b : List (BitVec 8)) : Nat := resField b 3 1
def resScratch (b : List (BitVec 8)) : Nat := resField b 4 4

/-- The role entries of an image (Table 1.4). -/
def rolesOf (b : List (BitVec 8)) : List RoleRec :=
  (List.range (min (resRoles b) 4)).map (fun i =>
    let f := fun (off n : Nat) => resField b (0x10 + 16 * i + off) n
    { entry := f 0 4, vregs := f 4 2, tiles := f 6 1, groups := f 7 1 })

/-- The SLOTS of an image's channels (Table 1.3). -/
def slotsIn (b : List (BitVec 8)) : List Nat := (List.range (resChans b)).map (fun i => resField b (80 + 4 * i) 1)

/-- Check 2. -/
def checkMagic (r : RegRead) : List (Nat × Bool) :=
  (noIndex, fieldOf r.hdr 0 4 == 0x31474649) :: r.images.map (fun i => (i.2.1, fieldOf i.2.2 0 4 == 0x314B4649 && fieldOf i.2.2 4 2 == 1))

/-- Check 3 of an image: only structures that lie wholly inside its IMGSIZE bytes, and of them only the bytes that were read (R459). -/
def reservedImage (b : List (BitVec 8)) : Bool :=
  let lim := imgSize b
  let o := imgResOff b
  (decide (lim < 64) || zeroAt b 0x2C 20) &&
  (decide (lim < o + 80) ||
    (resField b 8 1 / 2 == 0 && zeroAt b (o + 9) 7 &&
      (List.range 4).all (fun i => if i < resRoles b then zeroAt b (o + 0x10 + 16 * i + 8) 8 else zeroAt b (o + 0x10 + 16 * i) 16))) &&
  (List.range (resChans b)).all (fun i => decide (lim < o + 80 + 4 * i + 4) || decide (lim < o + 80) || zeroAt b (o + 80 + 4 * i + 1) 3)

/-- Check 3. -/
def checkReserved (r : RegRead) : List (Nat × Bool) :=
  (noIndex, zeroAt r.hdr 8 8) :: ((List.range r.nodes.length).map (fun i =>
    let n := r.nodes.getD i []
    (i, zeroAt n 0x18 8 && fieldOf n 0x14 4 / 2 == 0)) ++ r.images.map (fun i => (i.2.1, reservedImage i.2.2)))

/-- Two extents do not overlap. -/
def apart (a b : Nat × Nat) : Bool := decide (a.1 + a.2 ≤ b.1) || decide (b.1 + b.2 ≤ a.1)

/-- Check 4 of an image at an address. -/
def layoutImage (va : Nat) (b : List (BitVec 8)) : Bool :=
  let size := imgSize b
  let code := (imgCodeOff b, imgCodeSize b)
  let const := (imgConstOff b, imgConstSize b)
  let res := (imgResOff b, imgResSize b)
  let inside := fun (x : Nat × Nat) => x.1 % 64 == 0 && decide (64 ≤ x.1) && decide (x.1 + x.2 ≤ size)
  va % 64 == 0 && fieldOf b 6 2 == 64 && size % 64 == 0 && decide (64 ≤ size) && decide (size ≤ 2 ^ 23) &&
  code.2 % 4 == 0 && decide (4 ≤ code.2) && decide (code.2 ≤ 2 ^ 22) && inside code && decide (const.2 ≤ 2 ^ 20) && (const.2 == 0 || inside const) && inside res &&
  decide (80 ≤ res.2) && decide (imgArg b ≤ 65536) && apart code res && (const.2 == 0 || (apart code const && apart const res)) &&
  decide (1 ≤ resRoles b) && decide (resRoles b ≤ 4) && decide (resSplit b ≤ 3) && decide (resChans b ≤ 64) && res.2 == 80 + 4 * resChans b &&
  (rolesOf b).all (fun r => [16, 32, 64, 128, 256, 512].contains r.vregs && [0, 1, 2, 4, 8, 16].contains r.tiles && decide (1 ≤ r.groups) && decide (r.groups ≤ 32)) &&
  (slotsIn b).all (fun n => decide (1 ≤ n) && decide (n ≤ 64)) && decide (16 * resBars b ≤ resScratch b)

/-- Check 4. -/
def checkLayout (r : RegRead) : List (Nat × Bool) :=
  (noIndex, r.va % 16 == 0 && decide (1 ≤ fieldOf r.hdr 4 2) && decide (fieldOf r.hdr 4 2 ≤ 256) && decide (fieldOf r.hdr 6 2 ≤ 1024)) ::
    r.images.map (fun i => (i.2.1, layoutImage i.1 i.2.2))

/-- Check 5: the image's CRC-32C, its own field as zero. -/
def checkCrc (r : RegRead) : List (Nat × Bool) :=
  r.images.map (fun i =>
    let b := i.2.2
    (i.2.1, (crc32c ((b.take 0x28) ++ List.replicate 4 0#8 ++ ((b.drop 0x2C).take (imgSize b - 0x2C)))).toNat == fieldOf b 0x28 4))

/-- A word is LAND (R21). DESIGN CHOICE (log 76): a word of LAND's major with a nonzero d, U or B, which is no legal word, does not count as one here. -/
def isLand (x : Nat) : Bool := match decodeWord (BitVec.ofNat 32 x) with
  | .ok (.land w) => legal (.land w)
  | _ => false

/-- Check 6: every role's entry lands (R21). -/
def checkEntry (r : RegRead) : List (Nat × Bool) :=
  r.images.map (fun i => (i.2.1, (rolesOf i.2.2).all (fun q =>
    q.entry % 4 == 0 && decide (q.entry < imgCodeSize i.2.2) && isLand (fieldOf i.2.2 (imgCodeOff i.2.2 + q.entry) 4))))

/-- The scratchpad of a split in bytes (Table 1.2). -/
def splitBytes (n : Nat) : Nat := if n = 0 then 448 * 1024 else if n = 1 then 384 * 1024 else if n = 2 then 256 * 1024 else 128 * 1024

/-- The least power of two at or above a number, at most 2 to the fuel. -/
def pow2Up : Nat → Nat → Nat
  | 0, _ => 1
  | f + 1, n => if n ≤ 1 then 1 else 2 * pow2Up f ((n + 1) / 2)

/-- A team's scratchpad footprint (R19). -/
def footprint (scratch : Nat) (slots : List Nat) : Nat :=
  let n := scratch + 128 * slots.sum
  if n = 0 then 0 else 4096 * pow2Up 20 ((n + 4095) / 4096)

/-- The role of each group of a team, in order (R16). -/
def groupRoles (rs : List RoleRec) : List (Nat × RoleRec) :=
  (List.range rs.length).flatMap (fun i => match rs[i]? with
    | some r => List.replicate r.groups (i, r)
    | none => [])

/-- A team fits an empty cluster (R20). -/
def fitsCluster (rs : List RoleRec) (split foot : Nat) (fh : Bool) : Bool :=
  let gs := groupRoles rs
  let bay := fun (k : Nat) => (List.range gs.length).filterMap (fun i => if i % 4 = k then (gs[i]?).map Prod.snd else none)
  decide (gs.length ≤ 32) && (!fh || decide (4 ≤ gs.length)) && decide (foot ≤ splitBytes split) &&
  (List.range 4).all (fun k => decide ((bay k).length ≤ 8) && decide (((bay k).map RoleRec.vregs).sum ≤ 512) && decide (((bay k).map RoleRec.tiles).sum ≤ 16))

/-- Check 7. -/
def checkFit (v : Vd) (r : RegRead) : List (Nat × Bool) :=
  r.images.map (fun i =>
    let b := i.2.2
    (i.2.1, decide (resScratch b ≤ splitBytes (resSplit b)) && fitsCluster (rolesOf b) (resSplit b) (footprint (resScratch b) (slotsIn b)) (resField b 8 1 % 2 == 1) &&
      (v.desc.splits / 2 ^ resSplit b) % 2 == 1))

/-- Check 8 (Table 1.6). -/
def checkGrid (v : Vd) (r : RegRead) : List (Nat × Bool) :=
  (List.range r.nodes.length).map (fun i =>
    let n := r.nodes.getD i []
    let g := fun (off : Nat) => fieldOf n off 2
    (i, decide (1 ≤ g 8) && decide (1 ≤ g 0xA) && decide (1 ≤ g 0xC) && decide (g 8 * g 0xA * g 0xC ≤ 2 ^ 24) && decide (fieldOf n 0xE 1 + fieldOf n 0xF 1 ≤ v.insts.length) &&
      (fieldOf n 0xF 1 != 0 || fieldOf n 0xE 1 == 0)))

/-- An edge record: FROM, TO. -/
def edgeOf (e : List (BitVec 8)) : Nat × Nat := (fieldOf e 0 2, fieldOf e 2 2)

/-- Check 9. -/
def checkEdge (r : RegRead) : List (Nat × Bool) :=
  let es := r.edges.map edgeOf
  (List.range es.length).map (fun i =>
    let e := es.getD i (0, 0)
    (i, decide (e.1 < e.2) && decide (e.2 < r.nodes.length) && !(es.take i).contains e))

/-- The 64 KiB pages of an image's sections. -/
def imagePages (b : List (BitVec 8)) : Nat := (up64k (imgCodeSize b) + up64k (imgConstSize b)) / 65536

/-- The pages of the code region that a registration takes (R29). -/
def regionPages (r : RegRead) : Nat := (r.images.map (fun i => imagePages i.2.2)).sum

/-- The pages of the code region that no registered graph holds, ascending. -/
def freePages (v : Vd) : List Nat :=
  let used := v.graphs.flatMap (fun g => g.images.flatMap Image.pages)
  (List.range (codeSpan / 65536)).filter (fun p => !used.contains p)

/-- The first check that fails, in the order of Table 1.8; none when the graph can be registered. -/
def regFail (v : Vd) (r : RegRead) : Option RegFail :=
  let full := (v.graphs.filter Graph.live).length < 1024 ∧ regionPages r ≤ (freePages v).length
  ((firstFail 2 (checkMagic r)).or ((firstFail 3 (checkReserved r)).or ((firstFail 4 (checkLayout r)).or ((firstFail 5 (checkCrc r)).or
    ((firstFail 6 (checkEntry r)).or ((firstFail 7 (checkFit v r)).or ((firstFail 8 (checkGrid v r)).or ((firstFail 9 (checkEdge r)).or
      (firstFail 10 [(noIndex, decide full)])))))))))

/-! ### Registration (01 R27-R31) -/

/-- The images of a registration: its sections one after another from the next address for code, in the lowest free pages of the code region (log 35). -/
def placeImages (v : Vd) (r : RegRead) : List Image :=
  (r.images.foldl (fun (acc : List Image × Nat × List Nat) i =>
    let b := i.2.2
    let code := acc.2.1
    let const := code + up64k (imgCodeSize b)
    (acc.1 ++ [{ src := i.1, code := code, codeSize := imgCodeSize b, const := if imgConstSize b = 0 then 0 else const, constSize := imgConstSize b,
                 pages := acc.2.2.take (imagePages b), argSize := imgArg b, roles := rolesOf b, split := resSplit b, nbars := resBars b, chans := slotsIn b,
                 scratch := resScratch b, fourhand := resField b 8 1 % 2 == 1 }],
      const + up64k (imgConstSize b), acc.2.2.drop (imagePages b))) ([], v.codeNext, freePages v)).1

/-- The frame of a page of the code region. -/
def Vd.codePage (v : Vd) (p : Nat) : Nat := v.codePa + 65536 * p

/-- Copies bytes to pages of the code region, of whose earlier use no die holds anything any more (12 R301). -/
def copyPages (s : State) (v : Vd) : List Nat → List (BitVec 8) → State
  | [], _ => s
  | p :: ps, b => copyPages (deviceWrite (forget s (v.codePage p) 65536) (v.codePage p) (b.take 65536)) v ps (b.drop 65536)

/-- Copies the sections of the images to the code region (R29). -/
def copyImages (s : State) (v : Vd) (r : RegRead) (ims : List Image) : State :=
  (ims.zip r.images).foldl (fun s k =>
    let b := k.2.2.2
    let n := up64k (imgCodeSize b) / 65536
    copyPages (copyPages s v (k.1.pages.take n) ((b.drop (imgCodeOff b)).take (imgCodeSize b))) v (k.1.pages.drop n) ((b.drop (imgConstOff b)).take (imgConstSize b))) s

/-- A node of a registration. -/
def nodeOf (r : RegRead) (n : List (BitVec 8)) : GNode :=
  { image := (r.images.findIdx? (fun i => i.1 == fieldOf n 0 8)).getD 0, gx := fieldOf n 8 2, gy := fieldOf n 0xA 2, gz := fieldOf n 0xC 2, vdfirst := fieldOf n 0xE 1,
    vdcount := fieldOf n 0xF 1, argdisp := fieldOf n 0x10 4, heavy := fieldOf n 0x14 4 % 2 == 1 }

/-- The handle of a registration: any that is not registered or awaiting reuse; which one is open (R31; log 5). -/
def pickHandle (v : Vd) (x : BitVec 64) : Nat :=
  let free := ((List.range 65535).map (· + 1)).filter (fun h => !v.graphs.any (fun g => g.handle == h))
  free.getD (x.toNat % free.length) 1

/-- The dirty remote words of a virtual device on the die of its virtual die 0 go home, before the die kernel there reads (11 R258). -/
def settleDie0 (s : State) (v : Vd) : State := writeBack s (remoteOf v.num (v.pdie 0))

/-- Registers a graph for a requester with an ASID, in a state whose dirty words on virtual die 0 are at home: the reply word, and the state (R27-R31; Table 1.9). -/
def registerSettled (s : State) (v : Vd) (asid va : Nat) : Nat × State :=
  match readGraph s v asid va with
  | .error f => (f.err * 2 ^ 16 + f.detail * 2 ^ 24, s)
  | .ok r =>
    match regFail v r with
    | some f => (f.err * 2 ^ 16 + f.detail * 2 ^ 24, s)
    | none =>
      let h := pickHandle v (Config.freeValue s.freeCtr)
      let ims := placeImages v r
      let g : Graph := { handle := h, asid := asid, nodes := r.nodes.map (nodeOf r), edges := r.edges.map edgeOf, images := ims, live := true }
      (h, modVd (copyImages { s with freeCtr := s.freeCtr + 1 } v r ims) v.num (fun v => { v with graphs := v.graphs ++ [g], codeNext := v.codeNext + 65536 * regionPages r }))

/-- Whether a registration has to wait: an access of the graph that held a page before is on its way to it, so that the PURGE of the page is not complete (12 R299, R301). -/
def pagesBusy (s : State) (v : Vd) (asid va : Nat) : Bool :=
  match readGraph s v asid va with
  | .error _ => false
  | .ok r => (regFail v r).isNone && (placeImages v r).any (fun m => m.pages.any (fun p => s.reqs.any (towards (v.codePage p) 65536)))

/-- Registers a graph for a requester with an ASID: the reply word, and the state (R27). -/
def registerGraph (s : State) (v : Vd) (asid va : Nat) : Nat × State := registerSettled (settleDie0 s v) v asid va

/-- Whether it waits. -/
def registerWaits (s : State) (v : Vd) (asid va : Nat) : Bool := pagesBusy (settleDie0 s v) v asid va

/-- The die kernel serves a user group that has stopped with SYSCALL for a registration: the descriptor's address is the value it passed, the reply word goes to s1 in its frame
(R27; 16 R418; log 70). -/
def serveSyscall (gid : Nat) (s : State) : State :=
  match findGroup s gid with
  | none => s
  | some g => match findVd s g.vd with
    | none => s
    | some v =>
      if !s.syscalls.contains gid || g.status != .stopped .trap || g.trapc != causeSyscall.setWidth 64 || !serves v || registerWaits s v (asidOf s g) g.trapv.toNat then s
      else
        let r := registerGraph s v (asidOf s g) g.trapv.toNat
        deviceWrite { r.2 with syscalls := r.2.syscalls.filter (fun i => i != gid) } (unitPa v g.handle + 0x108) (leBytes r.1 8)

/-- A mailbox operation of a virtual device's die kernel: the doorbell, then, unless a dormant virtual device has yet to wake or its instance of virtual die 0 has failed, the operation (R433; 01
R27; 02 R51). -/
def mailboxOp (s : State) (fn code : Nat) (k : State → Vd → Mbox → State) : State :=
  match findVd s fn with
  | none => s
  | some _ =>
    if (mboxOf s fn).byte 0 ≠ code then s
    else
      let s := doorbell s fn
      match findVd s fn with
      | some v => if serves v && !smcAway s then k s v (mboxOf s fn) else s
      | none => s

/-- REGISTER_A_GRAPH: mailbox operation 0x01: the descriptor's VA in the second 8 bytes of the request, the ASID in the third (log 34);
it stays to be done while a page that it would take is still in use (12 R301). -/
def execRegisterAGraph (vd : Nat) (s : State) : Host.Outcome State Fault Refusal :=
  .next (mailboxOp s vd 1 (fun s v m =>
    if registerWaits s v (m.arg 2).toNat (m.arg 1).toNat then s
    else
      let r := registerGraph s v (m.arg 2).toNat (m.arg 1).toNat
      reply r.2 vd 0 (BitVec.ofNat 64 r.1)))

/-- UNREGISTER: mailbox operation 0x02: the handle leaves the front end at once; its code and value are reused when its launches have completed (01 R32). -/
def execUnregister (vd : Nat) (s : State) : Host.Outcome State Fault Refusal :=
  .next (mailboxOp s vd 2 (fun s v m =>
    let h := (m.arg 1).toNat
    match v.known h with
    | none => reply s vd 2 0#64
    | some _ =>
      reply (modVd s vd (fun v => dropGraphs { v with graphs := v.graphs.map (fun g => if g.handle == h then { g with live := false } else g) })) vd 0 0#64))

/-- UNKNOWN_OPERATION_CODE: BADOP for a code that the function does not accept (R433). -/
def execUnknownOperationCode (vd : Nat) (s : State) : Host.Outcome State Fault Refusal :=
  let code := (mboxOf s vd).byte 0
  let known := (findVd s vd).isSome && (code == 1 || code == 2) || (vd == 0 && (code == 0x10 || code == 0x11 || code == 0x12))
  if known || (vd != 0 && (findVd s vd).isNone) then .next s
  else
    let s := doorbell s vd
    match findVd s vd with
    | some v => .next (if (if vd = 0 then awake v else serves v) && !smcAway s then reply s vd 1 0#64 else s)
    | none => .next (if smcAway s then s else reply s vd 1 0#64)

/-! ### Aborting a collective (17 R436) -/

/-- Sets PEER-ABORT in a counter: a store for monitors; none while a block or a lock holds the counter (17 R435; 12 R308). -/
def setAbort (s : State) (vd asid va : Nat) : Option State := counterWrite s vd asid va (fun n => n ||| 0x8000000000000000#64)

/-- Aborts a collective on this package: every counter of the tag, and every later PUT and GET to its windows; none while one of the counters is held (R436). -/
def abortTag (s : State) (tag : Nat) : Option State :=
  if tag = 0 then some s
  else
    let cs := (s.windows.filter (fun w => w.tag == tag)).map (fun w => (w.vd, w.asid, w.cntva)) ++ (s.paths.filter (fun p => p.tag == tag)).map (fun p => (p.vd, p.asid, p.cntva))
    (cs.foldlM (fun s c => setAbort s c.1 c.2.1 c.2.2) s).map (fun s =>
      { s with
        windows := s.windows.map (fun w => if w.tag == tag then { w with aborted := true } else w)
        paths := s.paths.map (fun p => if p.tag == tag then { p with isOpen := false } else p) })

/-! ### VF reset (16 R411) -/

/-- Requests that have been accepted complete, those of 16 bytes in two parts; those that the service of a channel holds too, since the service changes no value (R411 step 2; 11 R269; 17 R440). -/
def finishAccepted (s : State) (vd : Nat) : State :=
  let ids := (s.reqs.filter (fun r => r.vd == vd && r.stage == .home)).map Req.id
  { (ids ++ ids).foldl (fun s i =>
      match execHomePerform i s with
      | .next t => t
      | _ => s) { s with chanService := [] } with chanService := s.chanService }

/-- Everything of a virtual device that runs, waits or holds resources goes (R411 steps 1 to 3). -/
def clearVd (s : State) (vd : Nat) : State :=
  let mine := fun (g : Group) => g.vd == vd
  { s with
    cur := if s.cur.any (fun u => (findGroup s u.gid).any mine) then none else s.cur
    groups := s.groups.filter (fun g => !mine g)
    teams := s.teams.filter (fun t => t.vd != vd)
    reqs := s.reqs.filter (fun r => r.vd != vd)
    monitors := s.monitors.filter (fun m => m.vd != vd)
    drays := s.drays.filter (fun d => d.vd != vd)
    blocks := s.blocks.filter (fun b => b.vd != vd)
    shoots := s.shoots.filter (fun o => o.vd != vd)
    services := s.services.filter (fun q => q.vd != vd)
    tried := s.tried.filter (fun u => !(findGroup s u.gid).any mine)
    smcRecords := s.smcRecords.filter (fun r => r.1 != vd)
    tickets := s.tickets.filter (fun k => k.vd != vd)
    locks := s.locks.filter (fun k => k.vd != vd)
    syscalls := s.syscalls.filter (fun i => !(findGroup s i).any mine) }

/-- The slices of a virtual device write back, and they and the L1s hold nothing of it any more (R411 step 5; 02 R50). -/
def flushVd (s : State) (v : Vd) : State :=
  let mine := fun (r : RemoteWord) => r.vd == v.num
  let s := dropRemote (writeBack s mine) mine
  { s with
    stc := s.stc.filter (fun e => e.vd != v.num)
    clusters := s.clusters.map (fun k => if v.desc.dies.any (fun d => ownsSite v d.pdie k.site) then { k with l1 := [] } else k) }

/-- An instance as creation and VF reset leave it: its CSRs at their reset values, rings and queues empty (R411 step 6; Table 16.4). -/
def resetInst (v : Vd) (i : Inst) : Inst :=
  { i with s1tab := 0#64, quant := v.desc.quantus, debt := 0, frhead := 0#32, frtail := 0#32, frlost := 0#32, ktimer := 0#64, queue := [], inbox := [], bells := [], records := [],
           ranges := [], tokens := v.desc.rburst }

/-- Starts group 0 of every instance of a virtual device on a core with a zero scratchpad (R411, R415). -/
def startInstances (s : State) (v : Vd) : State :=
  (v.insts.filter (fun i => !i.failed)).foldl (fun s i =>
    let t := kernelTeam s.nextId v.num i
    let s := setCluster { s with teams := s.teams ++ [t], nextId := s.nextId + 1 } (freshCluster t.site)
    startKernel s t 0 v.kernelEntry 0#64) s

/-- The fields of a virtual device's dies run: one that was switched off is powered again (02 R48). -/
def powerUp (s : State) (v : Vd) : State := modFields s (fun f => v.desc.dies.any (fun d => d.pdie == f)) (fun x => { x with pll := true })

/-- VF reset of a virtual device that is awake, every step of it (R411): it ends in idle with the timer started (02 Table 2.8); none while a counter of one of its collectives is held (R436;
12 R308). -/
def resetVd (s : State) (v : Vd) : Option State :=
  let vd := v.num
  let s := clearVd (finishAccepted s vd) vd
  let tags := (s.windows.filter (fun w => w.vd == vd)).map Window.tag ++ (s.paths.filter (fun p => p.vd == vd)).map SourcePath.tag
  (tags.foldlM abortTag s).map (fun s =>
  let s := modVd (flushVd s v) vd (fun v =>
    { v with
      insts := v.insts.map (fun i => { resetInst v i with records := if i.failed then [] else [emptyRecord 10 i.vdie] })
      graphs := [], launches := [], steals := [], state := .idle, timer := true, due := false, steps := 0, interrupted := false, waits := false, resetting := false,
      dropCause := 0, dropCount := 0, felast := 0#64, feacc := 0#32, fecmp := 0#32 })
  match findVd s vd with
  | some v =>
    let s := startInstances s v
    retryHost s.hostHeld.length s vd
  | none => s)

/-- VF_RESET: a collapsing virtual device completes its step and wakes, a dormant or waking one wakes, and then it is reset; the reset waits while a block or a lock holds a counter that it must
abort (R411; 02 Table 2.8; 12 R308). -/
def execVfReset (vd : Nat) (s : State) : Host.Outcome State Fault Refusal :=
  match findVd s vd with
  | none => .next s
  | some v => .next (((if awake v then some v else none).bind (resetVd s)).getD (setVd s (beginReset v)))

/-- A management operation of the physical function: none of its arguments could be read is DMAERR (R433). -/
def manage (s : State) (code : Nat) (arg : Option Nat) (k : State → Vd → State) : State :=
  if (mboxOf s 0).byte 0 ≠ code then s
  else
    let s := doorbell s 0
    if smcAway s then s
    else match arg with
      | none => reply s 0 3 0#64
      | some n => match findVd s n with
        | none => reply s 0 0x0B 0#64
        | some v => k s v

/-- RESET_THE_VF: management operation 0x12 starts a VF reset: the front end refuses launch words from here on (R411, R433). -/
def execResetTheVf (num : Option Nat) (s : State) : Host.Outcome State Fault Refusal :=
  .next (manage s 0x12 num (fun s v => reply (setVd s (beginReset v)) 0 0 0#64))

/-! ### Creating and destroying (02 R33, R34, R54) -/

/-- A die entry of a descriptor. -/
def descDie (b : List (BitVec 8)) (i : Nat) : BitVec 32 := BitVec.ofNat 32 (fieldOf b (0x20 + 4 * i) 4)

/-- A slice mask of a descriptor. -/
def descSlices (b : List (BitVec 8)) (i : Nat) : BitVec 64 := BitVec.ofNat 64 (fieldOf b (0x40 + 8 * i) 8)

/-- The share that a descriptor describes, with the values that 0 selects (Tables 2.1, 2.2). -/
def descOf (b : List (BitVec 8)) : Desc :=
  let f := fieldOf b
  { wclass := f 1 1, sibmax := if f 2 1 = 0 then 4 else f 2 1, idlems := f 4 4, monlim := f 8 2, quantus := if f 0xA 2 = 0 then 2000 else f 0xA 2, priomax := f 0xC 1,
    splits := if f 0xD 1 = 0 then 15 else f 0xD 1, arena := f 0x10 8, arenasz := f 0x18 8,
    dies := (List.range (f 3 1)).map (fun i =>
      let e := descDie b i
      { pdie := (e.extractLsb' 16 3).toNat, clim := (e.extractLsb' 8 8).toNat, cbase := (e.extractLsb' 0 8).toNat, slices := descSlices b i })
    rreq := f 0x80 4, rburst := f 0x84 4, saveBase := f 0x88 8, s2root := f 0x90 8, asidBase := f 0x98 2, asidCnt := f 0x9A 2 }

/-- Status 0x04: a reserved field is nonzero. -/
def badReserved (b : List (BitVec 8)) : Bool :=
  decide (16 ≤ fieldOf b 0xD 1) || !zeroAt b 0xE 2 || !zeroAt b 0x9C 36 || (List.range 8).any (fun i => (descDie b i).extractLsb' 19 12 != 0#12)

/-- Status 0x05: a field is out of range. -/
def badRange2 (b : List (BitVec 8)) : Bool :=
  let f := fieldOf b
  let out := fun (x lo hi : Nat) => decide (x < lo) || decide (hi < x)
  out (f 0 1) 0 31 || out (f 1 1) 1 3 || (f 2 1 != 0 && out (f 2 1) 2 8) || out (f 3 1) 1 8 || out (f 4 4) 1 60000 || out (f 8 2) 1 1024 ||
  (f 0xA 2 != 0 && out (f 0xA 2) 100 50000) || out (f 0xC 1) 0 7 || f 0x10 8 % 65536 != 0 || f 0x18 8 % 65536 != 0 || out (f 0x18 8) 65536 (2 ^ 30) ||
  out (f 0x80 4) 0 65535 || (f 0x80 4 != 0 && out (f 0x84 4) 1 65535) || f 0x88 8 % 65536 != 0 || out (f 0x9A 2) 1 1024 ||
  (List.range 8).any (fun i =>
    let e := descDie b i
    if i < f 3 1 then !e.getLsbD 31 || decide (127 < (e.extractLsb' 8 8).toNat) || decide ((e.extractLsb' 8 8).toNat < (e.extractLsb' 0 8).toNat) || descSlices b i == 0#64
    else e != 0#32 || descSlices b i != 0#64)

/-- Status 0x06: a PDIE named twice, retired, of a field that is not in service, or another than 0 in early service (17 R431; log 36). -/
def badPdie (s : State) (d : Desc) : Bool :=
  let ps := d.dies.map DieEntry.pdie
  decide ps.Nodup == false || ps.any (fun p => s.retired.contains p || (s.early && p != 0) || ((s.fields[p]?).map FieldSt.svc).getD 0 < 2)

/-- Whether two virtual devices' shares overlap: clusters or slices of a die, identifiers. -/
def sharesMeet (a b : Desc) : Bool :=
  a.dies.any (fun x => b.dies.any (fun y => x.pdie == y.pdie && ((decide (x.cbase ≤ y.clim) && decide (y.cbase ≤ x.clim)) || x.slices &&& y.slices != 0#64))) ||
  (decide (a.asidBase < b.asidBase + b.asidCnt) && decide (b.asidBase < a.asidBase + a.asidCnt))

/-- The frames that a virtual device has by its setup: its save area, its image and code region, its tables (02 R34; log 6). -/
def ownFrames (v : Vd) : List (Nat × Nat) := (v.desc.saveBase, saveSize v.desc) :: (v.kernelPa, kernelSpan) :: (v.codePa, codeSpan) :: v.tables.map (fun t => (t, 4096))

/-- The frames of a virtual device: those, and every page it maps at stage 2 (02 R54; 12 R307). -/
def vdFrames (s : State) (v : Vd) : List (Nat × Nat) :=
  ownFrames v ++ ((s2Leaves s v 0 (2 ^ 48)).filter (fun l => paKind (addrOf l.2.1) == .hbm)).map (fun l => (addrOf l.2.1, l.2.2.2))

/-- Whether frames are in HBM, and none of another virtual device (12 R307). -/
def framesFree (s : State) (fs : List (Nat × Nat)) : Bool :=
  fs.all (fun f => decide (f.1 + f.2 ≤ 2 ^ 40)) && s.vds.all (fun v => (vdFrames s v).all (fun g => fs.all (fun f => apart f g)))

/-- Whether a save area cannot be placed: outside HBM, or over the save area or memory of another virtual device. -/
def badSaveArea (s : State) (d : Desc) : Bool := !framesFree s [(d.saveBase, saveSize d)]

/-- The status with which a descriptor is refused, 0 when it is not (Table 17.9). -/
def createStatus (s : State) (b : List (BitVec 8)) : Nat :=
  let d := descOf b
  if badReserved b then 4
  else if badRange2 b || (s.early && decide (d.dies.length ≠ 1)) then 5
  else if badPdie s d then 6
  else if s.vds.any (fun v => sharesMeet d v.desc) || decide (1024 < d.asidBase + d.asidCnt) then 7
  else if d.dies.any (fun e => decide (8 ≤ (s.vds.filter (fun v => v.desc.dies.any (fun x => x.pdie == e.pdie))).length)) then 8
  else if (findVd s (fieldOf b 0 1)).isSome then 9
  else if badSaveArea s d then 0x0A
  else 0

/-- An instance of a new virtual device. -/
def newInst (d : Desc) (i : Nat) (e : DieEntry) (failed : Bool) : Inst :=
  { vdie := i, pdie := e.pdie, failed := failed, s1tab := 0#64, quant := d.quantus, debt := 0, frbase := 0#64, frset := false, frhead := 0#32, frtail := 0#32, frlost := 0#32,
    ktimer := 0#64, queue := [], inbox := [], bells := [], records := [], ranges := [], tokens := d.rburst, vec := List.replicate 8 0, base := 0, lag := false,
    s1gen := 0#32, s2gen := 0#32 }

/-- A new virtual device (02 R33, R34, R38, Table 2.5; 15 R378). -/
def newVd (s : State) (num : Nat) (d : Desc) (u : VdSetup) : Vd :=
  { num := num, desc := d, insts := (List.range d.dies.length).filterMap (fun i => (d.dies[i]?).map (fun e => newInst d i e (s.failed.contains e.pdie)))
    graphs := [], launches := [], steals := [], state := .idle, timer := true, due := false, steps := 0, interrupted := false, wakeCause := 0, wakeUs := 0#32, waits := false,
    cfail := false, savef := false, resetting := false, dropCause := 0, dropCount := 0, felast := 0#64, feacc := 0#32, fecmp := 0#32, hwva := 0, hwasid := 0, hwerr := 0,
    codeVa := u.codeVa / 65536 * 65536, codeNext := u.codeVa / 65536 * 65536 + kernelSpan, codePa := u.codePa / 65536 * 65536, kernelPa := u.kernelPa / 65536 * 65536, saveGpa := u.saveGpa / 65536 * 65536 % 2 ^ 48, tables := u.tables.map (fun t => t / 4096 * 4096), kernelEntry := BitVec.ofNat 64 u.kernelEntry,
    relaySeq := 1, pass := 0, sweeping := false, snapshot := [], order := 0 }

/-- The windows of a new virtual device's slices get its mask on each die (12 R295). -/
def mapSlices (s : State) (d : Desc) : State :=
  d.dies.foldl (fun s e =>
    let live := e.slices &&& liveSlices s e.pdie
    let ws := (List.range 64).filter (fun w => e.slices.getLsbD w)
    { s with sliceMap := ws.map (fun w => (e.pdie * 64 + w, live)) ++ s.sliceMap.filter (fun m => !(m.1 / 64 == e.pdie && ws.contains (m.1 % 64))) }) s

/-- The pace levels of a virtual device's number (13 R331). -/
def clearPace (s : State) (num : Nat) : State := { s with pace := s.pace.filter (fun e => e.1 % 64 != num) }

/-- The stage-2 mappings that the SMC writes at creation: the save area, the die-kernel image, the code region; none when the frames it has set aside do not do (02 R34; log 6). -/
def mapOwn (s : State) (v : Vd) : Option State :=
  (mapSaveArea s v.num v.desc v.saveGpa).bind (fun s =>
    (mapFor s v.num v.kernelPa v.kernelPa kernelSpan (leafFlags false true false)).bind (fun s =>
      mapFor s v.num v.codePa v.codePa codeSpan (leafFlags false true false)))

/-- Creates a virtual device: its fields run, its clusters hold nothing, its front end and mailbox are fresh, its own memory is mapped, its instances start (02 R34, R49; 09 R205; 16 R415); none
where the frames of its setup meet, or are not free (12 R307). -/
def createVd (old : State) (num : Nat) (d : Desc) (u : VdSetup) : Option State :=
  let v := newVd old num d u
  let s := powerUp (mapSlices old d) v
  let own := fun (k : Nat) => d.dies.any (fun e => e.pdie == k / 64 && e.slices.getLsbD (k % 64))
  let s := { clearPace s num with
    vds := s.vds ++ [v]
    hvecs := s.hvecs.filter (fun e => !own e.1)
    clusters := s.clusters.filter (fun k => !d.dies.any (fun e => ownsSite v e.pdie k.site))
    mboxes := s.mboxes.filter (fun m => m.1 != num || num == 0) }
  if framesFree old (ownFrames v) && decide ((ownFrames v).Pairwise (fun a b => apart a b = true)) then (mapOwn s v).map (fun s => startInstances s v) else none

/-- CREATE_A_VD: management operation 0x10: the descriptor is refused with the first status that applies, or the virtual device is created (02 R33, R34). A
setup that leaves too few frames for the tables, or names frames that meet or that another virtual device has, is no event that firmware brings about: it does nothing (log 6). -/
def execCreateAVd (desc : Option (List (BitVec 8))) (setup : VdSetup) (s : State) : Host.Outcome State Fault Refusal :=
  if (mboxOf s 0).byte 0 ≠ 0x10 then .next s
  else
    let t := doorbell s 0
    if smcAway t then .next t
    else match desc with
      | none => .next (reply t 0 3 0#64)
      | some b =>
        let st := createStatus t b
        if st ≠ 0 then .next (reply t 0 st 0#64)
        else match createVd t (fieldOf b 0 1) (descOf b) setup with
          | some t => .next (reply t 0 0 (BitVec.ofNat 64 (fieldOf b 0 1)))
          | none => .next s

/-- Destroys a virtual device: reset, scrubbed, its resources returned; none while it has yet to wake or its reset waits (02 R54). -/
def destroyVd (s : State) (v : Vd) : Option State :=
  let frames := vdFrames s v
  ((if awake v then some v else none).bind (resetVd s)).map (fun s =>
  let s := clearPace (clearVd s v.num) v.num
  let s := frames.foldl (fun s f => scrub s f.1 f.2) s
  let own := fun (k : Nat) => v.desc.dies.any (fun e => e.pdie == k / 64 && e.slices.getLsbD (k % 64))
  { s with
    vds := s.vds.filter (fun u => u.num != v.num)
    hostHeld := s.hostHeld.filter (fun h => h.vd != v.num)
    sliceMap := s.sliceMap.filter (fun e => !own e.1)
    clusters := s.clusters.filter (fun k => !v.desc.dies.any (fun d => ownsSite v d.pdie k.site))
    windows := s.windows.filter (fun w => w.vd != v.num)
    paths := s.paths.filter (fun p => p.vd != v.num)
    smcRecords := s.smcRecords.filter (fun r => r.1 != v.num)
    smcTold := s.smcTold.filter (fun n => n != v.num)
    mboxes := s.mboxes.filter (fun m => m.1 != v.num || v.num == 0) })

/-- DESTROY_A_VD: management operation 0x11; it stays to be done while the virtual device wakes or its reset waits (02 R54). -/
def execDestroyAVd (num : Option Nat) (s : State) : Host.Outcome State Fault Refusal :=
  .next (manage s 0x11 num (fun s v => ((destroyVd s v).map (fun s => reply s 0 0 0#64)).getD (setVd s (beginReset v))))

end Sys2Proof.Machine
end

