-- ==== Sys2Proof/Machine/Place.lean ====
section
/-! DEFINITION. Machine/Place.lean: placing teams on clusters, work stealing, the compactor, current-limit steering (03 R58-R75; 01 R22, R23; 06 R131; 16 R395, R407). -/

namespace Sys2Proof.Machine

/-! ### What waits at a dispatcher -/

/-- A team that waits for a cluster: the next of an undispatched range, or a saved one (R42, R59; 16 R407). -/
inductive Waiter where
  | fresh (r : Range)
  | saved (t : Team)
  deriving DecidableEq, Repr

/-- The launch and node of a waiting team. -/
def Waiter.node : Waiter → Nat × Nat
  | .fresh r => (r.launch, r.node)
  | .saved t => (t.launch, t.node)

/-- The rank of a node: higher PRIO first, then the earlier release (R42). -/
def nodeRank (v : Vd) (n : Nat × Nat) : Nat :=
  match v.launch n.1 with
  | some l => (7 - l.prio) * 2 ^ 64 + ((l.nodes[n.2]?).map NodeRun.order).getD 0
  | none => 8 * 2 ^ 64

/-- The node that a launch and an index name. -/
def nodeAt (v : Vd) (n : Nat × Nat) : Option (Launch × Graph × GNode) :=
  match v.launch n.1 with
  | none => none
  | some l => match v.graph l.handle with
    | none => none
    | some g => (g.nodes[n.2]?).map (fun x => (l, g, x))

/-- What waits at the dispatcher of an instance: of each range its lowest index, and every saved team (R59; 16 R407). -/
def waiters (s : State) (v : Vd) (i : Inst) : List Waiter :=
  (i.ranges.filter (fun r => decide (r.lo < r.hi) && !i.ranges.any (fun q => q.launch == r.launch && q.node == r.node && decide (q.lo < q.hi) && decide (q.lo < r.lo)))).map Waiter.fresh ++
  (s.teams.filter (fun t => t.vd == v.num && t.vdie == i.vdie && t.status == .saved && !t.kernel)).map Waiter.saved

/-- The ranges that a dispatcher holds of a node. -/
def rangesOf (i : Inst) (n : Nat × Nat) : List Range := i.ranges.filter (fun r => r.launch == n.1 && r.node == n.2)

/-! ### Steering (R73, R74) -/

/-- A field is under steering while 20 x IMEAS >= 19 x ILIM (R74). -/
def steered (s : State) (die : Nat) : Bool := (s.fields[die]?).any (fun f => decide (19 * f.ilim.toNat ≤ 20 * imeasOf f))

/-- Whether a node is matrix-heavy and its teams meet a field under steering (R74). -/
def heavyHere (s : State) (v : Vd) (i : Inst) (n : Nat × Nat) : Bool := steered s i.pdie && (nodeAt v n).any (fun x => x.2.2.heavy)

/-- The cycle in which a waiting team first found a cluster that fits while steering held it. -/
def Waiter.heldAt : Waiter → Option Nat
  | .fresh r => r.held
  | .saved t => t.held

/-- Whether 100 us have passed since a cycle of a die (R74). -/
def capPassed (s : State) (die : Nat) (h : Option Nat) : Bool := h.any (fun c => decide (c + 100 * cyclesPerUs s die ≤ cycleOf s die))

/-- Whether steering holds a waiting team: matrix-heavy, the field under steering, the cap not passed (R74). -/
def heldBySteering (s : State) (v : Vd) (i : Inst) (w : Waiter) : Bool := heavyHere s v i w.node && !capPassed s i.pdie w.heldAt

/-! ### Placing a team on a cluster (R60-R62, R67) -/

/-- Whether a cluster may take a new team: no resident team of another split, no resumed group that waits for room on it (R60; 06 R131; 16 R395). -/
def siteOpen (s : State) (site : Site) (split : Nat) : Bool :=
  !(teamsAt s site).any (fun t => t.split != split) && !s.groups.any (fun g => g.site == site && g.status == .queued && (findTeam s g.team).any resident)

/-- The bytes of a team's scratchpad block at its start: barrier objects zero, every other byte zero or what an earlier team of the virtual device left (01 R23; log 13). -/
def freshScratch (m : SMap 8) (tid block size nbars : Nat) : SMap 8 :=
  m.filter (fun e => !(decide (block ≤ e.1) && decide (e.1 < block + size)) || (decide (block + 16 * nbars ≤ e.1) && Config.keepByte tid (e.1 - block)))

/-- A cluster takes the split of a team: a change drops its L1 (R62). -/
def takeSplit (k : Cluster) (split : Nat) : Cluster := if k.split = split then k else { k with split := split, l1 := [] }

/-- The team of the lowest index of a range, on a cluster with its scratchpad block there. -/
def freshTeam (tid unit0 : Nat) (v : Vd) (i : Inst) (r : Range) (n : GNode) (m : Image) (site : Site) (block : Nat) : Team :=
  { tid := tid, vd := v.num, vdie := i.vdie, site := site, kernel := false, launch := r.launch, node := r.node, lin := r.lo, tx := r.lo % n.gx, ty := r.lo / n.gx % n.gy,
    tz := r.lo / (n.gx * n.gy), gx := n.gx, gy := n.gy, gz := n.gz, roles := m.roles, scratch := m.scratch, nbars := m.nbars, fourhand := m.fourhand, split := m.split,
    block := block, size := footprint m.scratch m.chans, chans := m.chans.map (fun k => { slots := k, head := 0, count := 0, claims := [] }), unit0 := unit0,
    cbUsed := false, status := .resident, saveBlk := none, drained := 0, quantum := 0, grace := 0, held := none }

/-- The groups of a new team: roles in order, PC at the role's entry, s1 and s2 at its argument block and constants, each with a frame unit (01 R16, R22; 16 R413). -/
def freshGroups (s : State) (v : Vd) (l : Launch) (n : GNode) (m : Image) (t : Team) : List Group :=
  let rs := groupRoles m.roles
  let hs := freeUnits s v
  let arg := v.desc.arena + 64 * (l.argoff + n.argdisp)
  (List.range rs.length).map (fun k =>
    let r := rs.getD k (0, { entry := 0, vregs := 16, tiles := 0, groups := 1 })
    let g := freshGroup (t.tid + 1 + k) t .u k r.1 (hs.getD k 0) l.prio r.2.vregs r.2.tiles (BitVec.ofNat 64 (m.code + r.2.entry)) (cycleOf s (siteDie t.site))
    sset (sset g 1 (BitVec.ofNat 64 arg)) 2 (BitVec.ofNat 64 m.const))

/-- The lowest undispatched team of a range becomes resident on a cluster, if it fits there as things stand; its codebook image is zero (R59-R62; 09 R205). -/
def placeFresh (s : State) (v : Vd) (i : Inst) (r : Range) (site : Site) : Option State :=
  match nodeAt v (r.launch, r.node) with
  | none => none
  | some (l, g, n) => match g.images[n.image]? with
    | none => none
    | some m =>
      if !siteOpen s site m.split || decide ((freeUnits s v).length < (groupRoles m.roles).length) then none
      else match scratchFor (teamsAt s site) m.split (footprint m.scratch m.chans) with
        | none => none
        | some b =>
          let t := freshTeam s.nextId ((freeUnits s v).headD 0) v i r n m site b
          match seatAll s site [] (freshGroups s v l n m t) with
          | none => none
          | some gs =>
            let k := takeSplit (clusterOf s site) m.split
            let s := setCluster s { k with sram := freshScratch k.sram t.tid b t.size t.nbars }
            let s := deviceWrite s (unitPa v t.unit0 + imageOffset) (List.replicate 1024 0#8)
            let s := { s with teams := s.teams ++ [t], groups := s.groups ++ gs, nextId := s.nextId + 1 + gs.length }
            let s := modVd s v.num (fun v => v.modInst i.vdie (fun i => { i with ranges := i.ranges.map (fun q =>
              if q.launch == r.launch && q.node == r.node && q.lo == r.lo then { q with lo := q.lo + 1, held := none } else q) }))
            some (startQuantum s t.tid)

/-- Whether a group of a saved team comes back with it: those pre-empted and those that ERET has resumed, but not the four-in-hand mates of one that a trap stopped
(10 R242; 16 R407). -/
def comesBack (s : State) (g : Group) : Bool := (g.status == .stopped .preempt || g.status == .queued) && !(setMates s g).any trapHeld

/-- A saved team becomes resident on a cluster: its scratchpad, codebook image and groups are restored before any of them issues (16 R407; 09 R205). -/
def placeSaved (s : State) (v : Vd) (t : Team) (site : Site) : Option State :=
  if !siteOpen s site t.split then none
  else match scratchFor (teamsAt s site) t.split t.size, seatAll s site [] (s.groups.filter (fun g => g.team == t.tid && comesBack s g)) with
    | some b, some gs =>
      let k := takeCodebook s (takeSplit (clusterOf s site) t.split) t
      let old := k.sram.filter (fun e => !(decide (b ≤ e.1) && decide (e.1 < b + t.size)))
      let s := setCluster s { k with sram := wrList old b (rdList s.mem (v.desc.saveBase + t.saveBlk.getD 0) t.size) }
      let s := setTeam s { t with site := site, block := b, status := .resident, saveBlk := none, grace := 0, held := none }
      let s := { s with groups := s.groups.map (fun g => if g.team == t.tid then { g with site := site, bay := bayOf site g.num } else g) }
      some (startQuantum ((gs.map (restored s v)).foldl setGroup s) t.tid)
    | _, _ => none

/-- A waiting team becomes resident on a cluster, if it fits there as things stand. -/
def placeAt (s : State) (v : Vd) (i : Inst) (w : Waiter) (site : Site) : Option State :=
  match w with
  | .fresh r => placeFresh s v i r site
  | .saved t => placeSaved s v t site

/-- The clusters of a virtual device on a die, lowest first (R60). -/
def sitesOf (v : Vd) (i : Inst) : List Site :=
  match v.desc.dies.find? (fun d => d.pdie == i.pdie) with
  | none => []
  | some d => (List.range (d.clim + 1 - d.cbase)).map (fun k => .cluster i.pdie (d.cbase + k))

/-- Placement on a die is held: the field is being recalibrated or the die has failed; none while the virtual device is not awake (17 R440; 02 R47). -/
def mayPlace (s : State) (v : Vd) (i : Inst) : Bool :=
  awake v && !v.resetting && !i.failed && !((s.fields[i.pdie]?).any (fun f => f.recal))

/-- The lowest cluster where a waiting team fits, with the state after its placement (R60). -/
def placeLowest (s : State) (v : Vd) (i : Inst) (w : Waiter) : Option State := (sitesOf v i).findSome? (placeAt s v i w)

/-- Goes through the nodes in rank order: of the first that has teams which steering does not hold, one that fits is placed; when none of these fits, nothing is (R42, R74).
Which of a node's saved teams and undispatched team comes first is open (log 14). -/
def tryRanked (s : State) (v : Vd) (i : Inst) (place : Waiter → Option State) : Option State :=
  let ws := (waiters s v i).filter (fun w => !heldBySteering s v i w)
  match leastBy (fun w => nodeRank v w.node) ws with
  | none => none
  | some w =>
    let fits := (ws.filter (fun u => u.node == w.node)).filterMap place
    (fits[(Config.freeValue s.freeCtr).toNat % fits.length]?).map (fun t => { t with freeCtr := t.freeCtr + 1 })

/-! ### The compactor (R70-R72) -/

/-- The group can be held for a move of a block that holds it: no bonded run, no four-in-hand MMAF that waits (R70). -/
def holdable (g : Group) : Bool :=
  !inBonded g && g.frags.all (fun f => match f.wait with | .rendezvous _ | .started _ => false | _ => true) &&
  g.stack.all (fun e => match e.pwait with | .rendezvous _ | .started _ => false | _ => true)

/-- No row of a group's tiles is still to be written (R70). -/
def rowsQuiet (s : State) (g : Group) : Bool := g.rows.all (fun e => decide (e.2 ≤ cycleOf s (siteDie g.site)))

/-- No word in flight writes the registers or tiles of a group, one of a fragment that is parked or has joined included (R70). -/
def regsQuiet (s : State) (g : Group) : Bool :=
  let past := fun (b : Board) => b.regs.all (fun e => decide (e.2 ≤ cycleOf s (siteDie g.site)))
  g.flights.all (fun x => x.dst.isEmpty) && rowsQuiet s g && g.frags.all (fun f => past f.board) && g.stack.all (fun e => past e.pboard && past e.aboard)

/-- A word in flight that is an STS. -/
def isSts (x : Flight) : Bool := match decodeWord x.word with
  | .ok (.sts _) => true
  | _ => false

/-- A Dray command that lands in its team's scratchpad. -/
def landing (d : DrayCmd) : Bool := lands (fnOfCode d.fn) (DrayArgs.ofList d.args)

/-- Nothing in flight writes the scratchpad block of a team: no landing of a Dray command, no STS, no SEND or credit (R70). -/
def scratchQuiet (s : State) (t : Team) : Bool :=
  !s.drays.any (fun d => landing d && (findGroup s d.gid).any (fun g => g.team == t.tid)) && s.groups.all (fun g => g.team != t.tid || g.flights.all (fun x => !x.held && !isSts x))

/-- A place of n granules, aligned to its size, within a bound. -/
def alignedPlace (at_ n bound : Nat) : Bool := n != 0 && at_ % n == 0 && decide (at_ + n ≤ bound)

/-- Moves a group's register block and tile block to a free place; a draining group is not moved (R70; 17 R426). -/
def moveRegs (s : State) (g : Group) (reg tile : Nat) : Option State :=
  let hs := (bayHolders s g.site g.bay).filter (fun h => h.gid != g.gid)
  let ok := occupies g && g.status != .draining && holdable g && regsQuiet s g && alignedPlace reg g.vregs 512 && (g.tiles == 0 || alignedPlace tile g.tiles 16) &&
    !meets (hs.map (fun h => (h.regBlk, h.vregs))) (reg, g.vregs) && (g.tiles == 0 || !meets (hs.map (fun h => (h.tileBlk, h.tiles))) (tile, g.tiles))
  if ok then some (setGroup s { g with regBlk := reg, tileBlk := if g.tiles = 0 then g.tileBlk else tile }) else none

/-- Moves a team's scratchpad block, its bytes with it, to a free place; while an MMAF of a holder is in flight, until its last row is final, the block stays (R68, R70). -/
def moveScratch (s : State) (t : Team) (dst : Nat) : Option State :=
  let k := clusterOf s t.site
  let ts := (teamsAt s t.site).filter (fun u => u.tid != t.tid)
  let inTop := (scratchTops t.split).any (fun b => decide (4096 * b.1 ≤ dst) && decide (dst + t.size ≤ 4096 * (b.1 + b.2)))
  let ok := !t.kernel && resident t && t.size != 0 && dst % t.size == 0 && inTop && !meets (ts.map (fun u => (u.block, u.size))) (dst, t.size) && scratchQuiet s t &&
    s.groups.all (fun g => g.team != t.tid || (holdable g && decide (g.fhFinal ≤ cycleOf s (siteDie g.site))))
  if ok then some (setTeam (setCluster s { k with sram := shiftBytes k.sram t.block t.size dst }) { t with block := dst }) else none

/-- Performs one move; dst gives the first register and, above 9 bits, the first tile, or the byte at which a scratchpad block starts. -/
def moveBlock (s : State) (site : Site) (blk : Block) (dst : Nat) : Option State :=
  match blk with
  | .regs h => (s.groups.find? (fun g => g.site == site && g.level == .u && g.handle == h)).bind (fun g => moveRegs s g (dst % 512) (dst / 512))
  | .scratch t => (findTeam s t).bind (fun t => if t.site == site then moveScratch s t dst else none)

/-- The virtual device and instance that own a cluster. -/
def ownerOf (s : State) (die cluster : Nat) : Option (Vd × Inst) :=
  s.vds.findSome? (fun v => if ownsSite v die (.cluster die cluster) then (v.instAt die).map (fun i => (v, i)) else none)

/-- A resumed group of a cluster that has no room. -/
def stuckGroups (s : State) (site : Site) : List Group :=
  s.groups.filter (fun g => g.site == site && g.status == .queued && (findTeam s g.team).any resident && (seatAll s site [] (restoreSet s g)).isNone)

/-- The moves that a cluster allows. -/
def movesAt (s : State) (site : Site) : List (Block × Nat) :=
  (s.groups.filter (fun g => g.site == site && g.level == .u && occupies g)).flatMap (fun g =>
    (List.range (512 / g.vregs)).flatMap (fun a => (List.range (if g.tiles = 0 then 1 else 16 / g.tiles)).map (fun b => (Block.regs g.handle, a * g.vregs + 512 * (b * g.tiles))))) ++
  ((teamsAt s site).filter (fun t => t.size != 0)).flatMap (fun t => (List.range (448 * 1024 / t.size)).map (fun a => (Block.scratch t.tid, a * t.size)))

/-- Where the blocks of a cluster lie: registers and tiles by group, scratchpad by team. -/
def layout (s : State) (site : Site) : List (Nat × Nat × Nat) × List (Nat × Nat) :=
  ((s.groups.filter (fun g => g.site == site && occupies g)).map (fun g => (g.gid, g.regBlk, g.tileBlk)), (teamsAt s site).map (fun t => (t.tid, t.block)))

/-- The states that one more move of a cluster leads to from some states, one for each layout that is none of theirs. -/
def nextLayouts (site : Site) (seen : List State) : List State :=
  (seen.flatMap (fun s => (movesAt s site).filterMap (fun m => moveBlock s site m.1 m.2))).foldl
    (fun more t => if (seen ++ more).any (fun u => layout u site == layout t site) then more else more ++ [t]) []

/-- The fewest moves of a cluster, at most fuel, after which a condition gives a result, and that result; none when no sequence of movable blocks leads to one (R70). -/
def afterMoves {α : Type} (site : Site) (f : State → Option α) : Nat → Nat → List State → Option (Nat × α)
  | 0, k, seen => (seen.findSome? f).map (fun a => (k, a))
  | n + 1, k, seen =>
    match seen.findSome? f with
    | some a => some (k, a)
    | none => match nextLayouts site seen with
      | [] => none
      | more => afterMoves site f n (k + 1) (seen ++ more)

/-- As many moves as the compactor looks ahead. -/
def moveDepth : Nat := 64

/-- Whether groups and a scratchpad block fit a cluster by free granule counts (R70). -/
def fitsCounts (s : State) (site : Site) (split size : Nat) (gs : List Group) : Bool :=
  (List.range 4).all (fun b =>
    let hs := bayHolders s site b ++ gs.filter (fun g => bayOf site g.num == b)
    decide (hs.length ≤ slotsOf site) && decide ((hs.map Group.vregs).sum ≤ 512) && decide ((hs.map Group.tiles).sum ≤ 16)) &&
  decide (((teamsAt s site).map Team.size).sum + size ≤ 4096 * ((scratchTops split).map Prod.snd).sum)

/-- Whether a waiting team fits a cluster by free granule counts. -/
def countsFit (s : State) (v : Vd) (i : Inst) (w : Waiter) (site : Site) : Bool :=
  match w with
  | .saved t => siteOpen s site t.split && fitsCounts s site t.split t.size (s.groups.filter (fun g => g.team == t.tid && comesBack s g))
  | .fresh r => match nodeAt v (r.launch, r.node) with
    | none => false
    | some (l, g, n) => match g.images[n.image]? with
      | none => false
      | some m => siteOpen s site m.split && fitsCounts s site m.split (footprint m.scratch m.chans) (freshGroups s v l n m (freshTeam 0 0 v i r n m site 0))

/-- A waiting team becomes resident on a cluster after the fewest moves there that make room for it: how many, and the state (R70). -/
def placeWithMoves (s : State) (v : Vd) (i : Inst) (w : Waiter) (site : Site) : Option (Nat × State) :=
  if countsFit s v i w site then afterMoves site (fun s => placeAt s v i w site) moveDepth 0 [s] else none

/-- The lowest cluster where a waiting team fits without compaction, else the lowest where it fits with it (R60). -/
def placeMoving (s : State) (v : Vd) (i : Inst) (w : Waiter) : Option State :=
  (placeLowest s v i w).or ((sitesOf v i).findSome? (fun site => (placeWithMoves s v i w site).map Prod.snd))

/-- The fewest moves of a cluster after which a resumed group has room there (06 R131; 16 R395). -/
def roomWithMoves (s : State) (site : Site) (g : Group) : Option (Nat × State) :=
  let set := restoreSet s g
  match findTeam s g.team with
  | none => none
  | some t =>
    if fitsCounts s site t.split 0 set then
      afterMoves site (fun u => if (seatAll u site [] set).isSome then some u else none) moveDepth 0 [s]
    else none

/-- How many moves of a cluster would make room for what waits for it: its first resumed group without room, else each waiting team (R70; 06 R131). -/
def movesWanted (s : State) (v : Vd) (i : Inst) (site : Site) : List Nat :=
  match stuckGroups s site with
  | g :: _ => ((roomWithMoves s site g).map Prod.fst).toList
  | [] => (waiters s v i).filterMap (fun w => (placeWithMoves s v i w site).map Prod.fst)

/-- COMPACTION_MOVE: a live block moves within its cluster, as the first of the fewest moves that make room there for a group or team that fits by free granule counts; no visible state
changes (R70-R72). -/
def execCompactionMove (die cluster : Nat) (blk : Block) (dst : Nat) (s : State) : Host.Outcome State Fault Refusal :=
  let site := Site.cluster die cluster
  match ownerOf s die cluster, moveBlock s site blk dst with
  | some (v, i), some t =>
    let after := movesWanted t v i site
    .next (if (movesWanted s v i site).any (fun k => decide (0 < k) && after.contains (k - 1)) then t else s)
  | _, _ => .next s

/-- A team that steering holds and that fits a cluster is marked with the cycle, the first time (R74). -/
def noteHeld (s : State) (v : Vd) (i : Inst) : State :=
  let now := cycleOf s i.pdie
  let ws := (waiters s v i).filter (fun w => heldBySteering s v i w && w.heldAt.isNone && (placeMoving s v i w).isSome)
  ws.foldl (fun s w => match w with
    | .saved t => setTeam s { t with held := some now }
    | .fresh r => modVd s v.num (fun v => v.modInst i.vdie (fun i => { i with ranges := i.ranges.map (fun q => if q == r then { q with held := some now } else q) }))) s

/-- A dispatcher tries: teams that steering holds are marked, and a waiting team is placed. -/
def dispatchTry (s : State) (vd vdie : Nat) : State :=
  match (findVd s vd).bind (fun v => (v.inst vdie).map (fun i => (v, i))) with
  | none => s
  | some (v, i) =>
    if !mayPlace s v i then s
    else
      let s := noteHeld s v i
      match (findVd s vd).bind (fun v => (v.inst vdie).map (fun i => (v, i))) with
      | some (v, i) => (tryRanked s v i (placeMoving s v i)).getD s
      | none => s

/-- DISPATCH_TEAM: the dispatcher of a die makes a waiting team resident on the cluster of R60 (R59-R62). -/
def execDispatchTeam (vd vdie : Nat) (s : State) : Host.Outcome State Fault Refusal := .next (dispatchTry s vd vdie)

/-- COMPACTOR_RETRY: a resumed group is served first; then the waiting teams, by rank (R70; 06 R131). -/
def execCompactorRetry (vd vdie : Nat) (s : State) : Host.Outcome State Fault Refusal :=
  match (findVd s vd).bind (fun v => (v.inst vdie).map (fun i => (v, i))) with
  | none => .next s
  | some (v, i) =>
    match (sitesOf v i).findSome? (fun site => (stuckGroups s site).head?.bind (fun g => (roomWithMoves s site g).map Prod.snd)) with
    | some t => .next t
    | none => .next (dispatchTry s vd vdie)

/-- STEERING_CAP: 100 us after a matrix-heavy team held by steering first fitted a cluster it is placed like any other (R74). -/
def execSteeringCap (vd vdie : Nat) (s : State) : Host.Outcome State Fault Refusal :=
  match (findVd s vd).bind (fun v => (v.inst vdie).map (fun i => (v, i))) with
  | none => .next s
  | some (v, i) =>
    .next (if (waiters s v i).any (fun w => heavyHere s v i w.node && capPassed s i.pdie w.heldAt) then dispatchTry s vd vdie else s)

/-- IMEAS_UPDATE: a field's mean current over the last microsecond; 0 while the field is off (R73). -/
def execImeasUpdate (field : Nat) (val : BitVec 16) (s : State) : Host.Outcome State Fault Refusal :=
  .next (modFields s (fun f => f == field) (fun x => if x.pll then { x with imeas := val } else x))

/-! ### Work stealing (R64-R66, R75) -/

/-- Changes the ranges that a dispatcher holds of a node. -/
def modRanges (s : State) (vd vdie : Nat) (n : Nat × Nat) (f : Range → Range) : State :=
  modVd s vd (fun v => v.modInst vdie (fun i => { i with ranges := i.ranges.map (fun r => if r.launch == n.1 && r.node == n.2 then f r else r) }))

/-- Whether a dispatcher under steering holds a matrix-heavy team of a node: it is not idle for it (R66, R75). -/
def heavyHeld (s : State) (v : Vd) (i : Inst) (n : Nat × Nat) : Bool := heavyHere s v i n && (waiters s v i).any (fun w => w.node == n)

/-- The nodes for which a dispatcher is idle: nothing undispatched, a cluster that could take a team, not every victim has refused (R64-R66). -/
def idleNodes (s : State) (v : Vd) (i : Inst) : List Range :=
  (i.ranges.filter (fun r => !r.stopped && !r.probing && (rangesOf i (r.launch, r.node)).all (fun q => decide (q.hi ≤ q.lo)) && !heavyHeld s v i (r.launch, r.node))).filter (fun r =>
    (placeMoving s v i (.fresh r)).isSome)

/-- The dies that a dispatcher may probe for a node, in the order of R64. -/
def nextVictim (v : Vd) (i : Inst) (r : Range) : Option Nat :=
  match nodeAt v (r.launch, r.node) with
  | none => none
  | some x => leastBy (fun d => hops i.pdie (v.pdie d) * 8 + d) ((liveVdies v (x.2.2.vdies v)).filter (fun d => d != i.vdie && !r.refused.contains d))

/-- STEAL_REQUEST: an idle dispatcher probes the next victim for the node of highest rank; the probe takes a rate token, by age (R64; 02 R43). A dispatcher that is no longer idle gives up its
place in the queues. -/
def execStealRequest (vd vdie : Nat) (s : State) : Host.Outcome State Fault Refusal :=
  match (findVd s vd).bind (fun v => (v.inst vdie).map (fun i => (v, i))) with
  | none => .next s
  | some (v, i) =>
    let quit := dropTicket s vd i.pdie (.steal vdie)
    if !mayPlace s v i || i.ranges.any (fun r => r.probing) then .next quit
    else match leastBy (fun (r : Range) => nodeRank v (r.launch, r.node)) (idleNodes s v i) with
      | none => .next quit
      | some r =>
        let n := (r.launch, r.node)
        match nextVictim v i r with
        | none => .next (modRanges quit vd vdie n (fun q => { q with stopped := true }))
        | some d =>
          let turn := takeTurn s vd i.pdie (.steal vdie) 1
          if !turn.1 then .next turn.2
          else
            let s := modRanges turn.2 vd vdie n (fun q => { q with probing := true })
            .next { modVd s vd (fun v => { v with steals := v.steals ++ [{ id := s.nextId, vd := vd, launch := r.launch, node := r.node, thief := vdie, victim := d, answer := none }] })
              with nextId := s.nextId + 1 }

/-- The steal with a number. -/
def findSteal (s : State) (id : Nat) : Option Steal := s.vds.findSome? (fun v => v.steals.find? (fun x => x.id == id))

/-- Puts the answer of a steal. -/
def answerSteal (s : State) (x : Steal) (a : Nat × Nat) : State :=
  modVd s x.vd (fun v => { v with steals := v.steals.map (fun y => if y.id == x.id then { y with answer := some a } else y) })

/-- STEAL_HANDLED: the victim gives the highest half of the range it holds, or refuses (R65). -/
def execStealHandled (id : Nat) (s : State) : Host.Outcome State Fault Refusal :=
  match findSteal s id with
  | none => .next s
  | some x =>
    if x.answer.isSome then .next s
    else
      let i := (findVd s x.vd).bind (fun v => v.inst x.victim)
      let held := (i.map (fun i => if i.failed then [] else rangesOf i (x.launch, x.node))).getD []
      match leastBy (fun (r : Range) => 2 ^ 25 - r.hi) (held.filter (fun r => decide (2 ≤ r.hi - r.lo))) with
      | none => .next (answerSteal s x (0, 0))
      | some r =>
        let k := (r.hi - r.lo) / 2
        .next (answerSteal (modRanges s x.vd x.victim (x.launch, x.node) (fun q => if q.lo == r.lo then { q with hi := q.hi - k } else q)) x (r.hi - k, r.hi))

/-- Gives a range to a dispatcher: it becomes its range of that node, beside one that is not empty; what it knows of its probes for the node stays (R63, R65). -/
def giveRange (i : Inst) (launch node lo hi : Nat) : Inst :=
  let old := (rangesOf i (launch, node)).head?
  let r : Range :=
    { launch := launch, node := node, lo := lo, hi := hi, refused := (old.map Range.refused).getD [], stopped := old.any Range.stopped, probing := old.any Range.probing, held := none }
  { i with ranges := i.ranges.filter (fun q => q.launch != launch || q.node != node || decide (q.lo < q.hi)) ++ [r] }

/-- Where the range of a failed die goes: the next die of the node that has not failed, wrapping round (R63). -/
def heirOf (v : Vd) (n : Nat × Nat) (d : Nat) : Option Nat :=
  match nodeAt v n with
  | none => none
  | some x =>
    let ds := liveVdies v (x.2.2.vdies v)
    (ds.find? (fun e => decide (d < e))).or ds.head?

/-- Teams of a node are lost with a virtual die: they count as retired, and a record says so (R63). -/
def loseTeams (s : State) (vd d launch node k : Nat) : State :=
  countRetired (modVd s vd (fun v => postTeamLost v d launch node)) vd launch node k

/-- Hands a range that a failed die held to its heir; without one its teams are lost (R63). -/
def passRange (s : State) (vd d launch node lo hi : Nat) : State :=
  match findVd s vd with
  | none => s
  | some v => match heirOf v (launch, node) d with
    | some e => modVd s vd (fun v => v.modInst e (fun i => giveRange i launch node lo hi))
    | none => loseTeams s vd d launch node (hi - lo)

/-- STEAL_REPLY: the thief takes the range it was given; after a refusal the next victim is probed, and after the last one none is (R65). -/
def execStealReply (id : Nat) (s : State) : Host.Outcome State Fault Refusal :=
  match findSteal s id with
  | none => .next s
  | some x => match x.answer with
    | none => .next s
    | some (lo, hi) =>
      let s := modVd s x.vd (fun v => { v with steals := v.steals.filter (fun y => y.id != id) })
      let n := (x.launch, x.node)
      match (findVd s x.vd).bind (fun v => (v.inst x.thief).map (fun i => (v, i))) with
      | none => .next s
      | some (v, i) =>
        if lo < hi then
          if i.failed then .next (passRange s x.vd x.thief x.launch x.node lo hi)
          else
            let s := modVd s x.vd (fun v => v.modInst x.thief (fun i => giveRange i x.launch x.node lo hi))
            .next (modRanges s x.vd x.thief n (fun q => { q with refused := [], probing := false }))
        else
          let s := modRanges s x.vd x.thief n (fun q => { q with probing := false, refused := q.refused ++ [x.victim] })
          .next (match (rangesOf i n).head? with
            | some r => if (nextVictim v i { r with refused := r.refused ++ [x.victim] }).isNone then modRanges s x.vd x.thief n (fun q => { q with stopped := true }) else s
            | none => s)

end Sys2Proof.Machine
end

