-- ==== Sys2Proof/Machine/Dormancy.lean ====
section
/-! DEFINITION. Machine/Dormancy.lean: work, the idle timer, collapse and wake (02 R46-R52, Table 2.8; 17 R428); PWR (16 R424); Coupler puts, which a sleeping virtual device
holds (17 R435). -/

namespace Sys2Proof.Machine

/-! ### Work (R46) -/

/-- WORK_BEGINS: work without an accepted launch: an idle virtual device becomes active, a sleeping one wakes; the wake cause stays (Table 2.8). -/
def execWorkBegins (vd : Nat) (s : State) : Host.Outcome State Fault Refusal :=
  match findVd s vd with
  | none => .next s
  | some v =>
    if !hasWork s v || v.resetting then .next s
    else .next (setVd s (match v.state with
      | .idle => { v with state := .active, timer := false, due := false }
      | _ => startWake v v.wakeCause))

/-- WORK_ENDS: an active virtual device without work becomes idle and starts its timer, unless CFAIL holds it stopped (R46, R52). -/
def execWorkEnds (vd : Nat) (s : State) : Host.Outcome State Fault Refusal :=
  match findVd s vd with
  | none => .next s
  | some v => .next (if v.state == .active && !hasWork s v then setVd s { v with state := .idle, timer := !v.cfail, due := false } else s)

/-! ### Collapse (R47, R48) -/

/-- TIMER_EXPIRES (R52). -/
def execTimerExpires (vd : Nat) (s : State) : Host.Outcome State Fault Refusal :=
  match findVd s vd with
  | none => .next s
  | some v => .next (expire s v)

/-- Every kernel group of a virtual device has been saved. -/
def instancesSaved (s : State) (vd : Nat) : Bool := s.groups.all (fun g => g.vd != vd || g.level != .k || g.status == .stopped .collapse)

/-- A field without a compute stack in use: other than fields 0 and 7, every virtual device that names its die is dormant at class 3 (Table 2.7, R48). -/
def fieldUnused (s : State) (f : Nat) : Bool :=
  f != 0 && f != 7 && s.vds.all (fun v => !v.desc.dies.any (fun d => d.pdie == f) || (v.state == .dormant && v.desc.wclass == 3))

/-- Switches off the fields of a virtual device that nothing uses any more (R47 step 4, R48). DESIGN CHOICE (log 60): this is judged at step 4 of a class-3 virtual device's own collapse, and at no
other moment, such as the destruction of the last other virtual device on the field. -/
def switchOff (s : State) (v : Vd) : State :=
  if v.desc.wclass = 3 then modFields s (fun f => v.desc.dies.any (fun d => d.pdie == f) && fieldUnused s f) (fun x => { x with pll := false, imeas := 0#16 }) else s

/-- What a step of the collapse does when it is complete (R47). -/
def collapseStep (s : State) (v : Vd) : State := if v.steps = 1 then flushVd s v else s

/-- COLLAPSE_STEP_DONE: a step is complete on every die: the next begins, or a waiting wake event turns the collapse round, or step 4 makes the virtual device dormant
(R47, R52). -/
def execCollapseStepDone (vd : Nat) (s : State) : Host.Outcome State Fault Refusal :=
  match findVd s vd with
  | none => .next s
  | some v =>
    if v.state != .collapsing || (v.steps == 0 && !instancesSaved s vd) then .next s
    else
      let s := modVd (collapseStep s v) vd (fun v => { v with steps := v.steps + 1 })
      if v.interrupted then .next (modVd s vd (fun v => { v with state := .waking, interrupted := false }))
      else if v.steps < 3 then .next s
      else .next (switchOff (modVd s vd (fun v => { v with state := .dormant })) v)

/-- The kernel groups that the collapse has saved are restored in their slots, blocked in WFI as they were: a collapse begins only when each of them is (R46, R49, R52). -/
def restoreInstances (s : State) (v : Vd) : State :=
  { placesTaken s with groups := s.groups.map (fun g =>
      if g.vd == v.num && g.level == .k && (g.status == .stopped .collapse || g.status == .saving .collapse) then
        let h := restored s v g
        { h with frags := h.frags.map (fun f => { f with wait := .wfi }) }
      else g) }

/-- SAVE_FAULT_IN_STEP_1: a save of the collapse faults: back to idle with CFAIL, the timer stopped, the instances running again (Table 2.8). -/
def execSaveFaultInStep1 (vd : Nat) (s : State) : Host.Outcome State Fault Refusal :=
  match findVd s vd with
  | none => .next s
  | some v =>
    let faulted := s.groups.any (fun g => g.vd == vd && g.level == .k && g.status == .stopping .collapse && settled s g && saveFaults s v g)
    if v.state != .collapsing || v.steps != 0 || !faulted then .next s
    else
      let s := restoreInstances (setVd s { v with state := .idle, cfail := true, timer := false, due := false, interrupted := false, waits := false }) v
      .next { s with
        smcTold := s.smcTold ++ [vd]
        groups := s.groups.map (fun g => if g.vd == vd && g.level == .k && g.status == .stopping .collapse then { g with status := .running } else g) }

/-! ### Puts from other packages (17 R435) -/

/-- The pieces of a put at its window: address, size, value, each in one 8-byte cell. -/
def putPieces (w : Window) (p : PutOp) : List (Nat × Nat × Nat) := hostPieces (w.va + p.off) p.bytes.length (leNat p.bytes)

/-- The translations of a put's pieces, as the die kernel of the window's virtual device would reach them; none while a block holds one. -/
def putXl (s : State) (v : Vd) (w : Window) (p : PutOp) : Except XFault (Option (List (Xl × Nat × Nat × Nat))) :=
  let die := v.pdie 0
  (putPieces w p).foldl (fun a q =>
    match a with
    | .error f => .error f
    | .ok none => .ok none
    | .ok (some l) =>
      let va := BitVec.ofNat 64 q.1
      if blockHits s v die (entrySlice s v.num die q.1) w.asid .write va then .ok none
      else match walk s v 0 w.asid false .write q.2.1 va with
        | .error f => .error f
        | .ok x => .ok (some (l ++ [(x, q)]))) (.ok (some []))

/-- The state in which bytes of a put could not be performed: the put is not counted; its last bytes end it. -/
def putLost (s : State) (w : Window) (p : PutOp) : State :=
  { s with windows := s.windows.map (fun u => if u.num == w.num then { u with bad := (if p.part.last then [] else [p.part.put]) ++ u.bad.filter (fun b => b != p.part.put) } else u) }

/-- A put whose last bytes have been performed: the counter counts it, unless bytes of it were lost; none while a block or a lock holds the counter. -/
def putEnds (s : State) (w : Window) (p : PutOp) : Option State :=
  if w.bad.contains p.part.put then some (putLost s w p) else bumpCounter s w.vd w.asid w.cntva

/-- Performs the bytes of a put, with no vector; false while they are held. The bytes of an aborted or closed window, and those that do not translate, are dropped; the counter
counts a put whose bytes have all been performed (R435, R436). Bytes for a block with a mismatched check that they do not replace whole are refused (R439). -/
def putAccess (s : State) (p : PutOp) : Bool × State :=
  match s.windows.find? (fun w => w.num == p.win) with
  | none => (true, s)
  | some w => match findVd s w.vd with
    | none => (true, s)
    | some v =>
      if w.aborted then (true, s)
      else if !awake v then (false, s)
      else match (if w.size < p.off + p.bytes.length then .error (xlat2 0x20) else putXl s v w p) with
        | .error _ => (true, putLost s w p)
        | .ok none => (false, s)
        | .ok (some ps) =>
          let cover := ps.map (fun q => (q.1.at (BitVec.ofNat 64 q.2.1), q.2.2.1))
          if cover.any (fun q => chanHeld s q.1 || lockHeld s q.1 q.2) then (false, s)
          else if !(keptBlocks s cover).isEmpty then (true, putLost s w p)
          else
            let t := ps.foldl (fun s q => hostWrite s w.vd q.1.fed (q.1.at (BitVec.ofNat 64 q.2.1)) q.2.2.1 q.2.2.2) (freshChecks s cover)
            if p.part.last then
              (match putEnds t w p with
               | some u => (true, u)
               | none => (false, s))
            else (true, t)

/-- Performs the held puts in the order of their arrival, up to the first that is still held. -/
def retryPuts : Nat → State → State
  | 0, s => s
  | n + 1, s =>
    match s.putHeld with
    | [] => s
    | p :: r =>
      let q := putAccess s p
      if q.1 then retryPuts n { q.2 with putHeld := r } else s

/-- COUPLER_PUT_ARRIVES: bytes of another package's put reach their window: a wake event, performed behind those that are held (R435; 02 R51). -/
def execCouplerPutArrives (win off : Nat) (bytes : List (BitVec 8)) (part : PutPart) (s : State) : Host.Outcome State Fault Refusal :=
  match s.windows.find? (fun w => w.num == win) with
  | none => .next s
  | some w =>
    if w.aborted then .next s
    else
      let s := touchEvent s w.vd 4
      let s := { s with putHeld := s.putHeld ++ [{ win := win, off := off, bytes := bytes, part := part }] }
      .next (retryPuts s.putHeld.length s)

/-! ### Wake (R49, R50) -/

/-- A waking virtual device's clusters hold nothing of it; its supervisor cores keep what step 1 saved (R50; 09 R205). -/
def freshClusters (s : State) (v : Vd) : State :=
  { s with clusters := s.clusters.filter (fun k => !(isCluster k.site && v.desc.dies.any (fun d => ownsSite v d.pdie k.site))) }

/-- WAKE_DONE: the virtual device's fields run, nothing stale is left, its instances are restored, and it is active if a launch waits or it has work, else idle with its timer
started; what waited for it is performed (R49-R52; 17 R428, R434). us is the wake's duration. -/
def execWakeDone (vd : Nat) (us : BitVec 32) (s : State) : Host.Outcome State Fault Refusal :=
  match findVd s vd with
  | none => .next s
  | some v =>
    if v.state != .waking then .next s
    else
      let s := restoreInstances (freshClusters (flushVd (abortRecal s vd) v) v) v
      let s := powerUp s v
      let busy := v.waits || hasWork s v
      let s := modVd s vd (fun v => { v with state := if busy then .active else .idle, timer := !busy && !v.cfail, due := false, steps := 0, interrupted := false, waits := false, wakeUs := us })
      .next (retryPuts s.putHeld.length (retryHost s.hostHeld.length s vd))

/-! ### PWR (16 R424) -/

/-- PWR.ISLQ. -/
def execPwrIslq (w : FmtX) (f : BitVec 3) (s : State) : Host.Outcome State Fault Refusal :=
  plain (.pwrIslq w f) s (fun c => putUni c false w.d 1 (islimWord c.s f.toNat))

/-- The STATE of the issuing group's virtual device. -/
def stateOf (c : Ctx) : Nat := ((findVd c.s c.g.vd).map (fun v => stateCode v.state)).getD 0

/-- PWR.DORM: in idle, the timer counts as expired (log 71). -/
def execPwrDorm (w : FmtX) (s : State) : Host.Outcome State Fault Refusal :=
  issue (.pwrDorm w) s (fun c =>
    let t := (putUni c false w.d 1 (BitVec.ofNat 64 (stateOf c))).finish
    .ok (match findVd t c.g.vd with
      | some v => if v.state == .idle then expire t { v with timer := true } else t
      | none => t))

/-- PWR.WAKEQ. -/
def execPwrWakeq (w : FmtX) (s : State) : Host.Outcome State Fault Refusal :=
  plain (.pwrWakeq w) s (fun c =>
    let x := ((findVd c.s c.g.vd).map (fun v => v.wakeUs.toNat * 2 ^ 32 + v.wakeCause * 256 + v.desc.wclass * 16 + stateCode v.state)).getD 0
    putUni c false w.d 1 (BitVec.ofNat 64 x))

end Sys2Proof.Machine
end

