-- ==== Sys2Proof/Machine/Package.lean ====
section
/-! DEFINITION. Machine/Package.lean: the surge arbiter (02 R45), the failure of a die (03 R63; 12 R315), the SMC's service queue (17 R435-R437), carried checks (17 R439),
bring-up and live service (17 R431, R440; 03 R56, R73). -/

namespace Sys2Proof.Machine

/-! ### The surge arbiter (R45) -/

/-- The clusters of a virtual device on a die that have a request waiting. -/
def askingClusters (s : State) (v : Vd) (die : Nat) : List Cluster :=
  s.clusters.filter (fun k => isCluster k.site && siteDie k.site == die && ownsSite v die k.site && k.arrays.any MatArray.asking)

/-- A cluster gets a start grant: every array that waits, or begins to within 64 cycles, may start. -/
def grantCluster (k : Cluster) (cycle : Nat) : Cluster :=
  { k with
    arrays := k.arrays.map (fun a => if a.asking then { a with granted := true, asking := false } else a)
    grantUntil := cycle + 64 }

/-- SURGE_GRANT: at most 8 grants in an aligned window of 64 cycles; among virtual devices round-robin, within one the oldest request (R45). -/
def execSurgeGrant (field : Nat) (s : State) : Host.Outcome State Fault Refusal :=
  match s.surges[field]? with
  | none => .next s
  | some a0 =>
    let cycle := cycleOf s field
    let a := if a0.window = cycle / 64 then a0 else { a0 with window := cycle / 64, grants := 0 }
    let waiting := s.vds.filter (fun v => !(askingClusters s v field).isEmpty)
    if 8 ≤ a.grants then .next s
    else match leastBy (fun (v : Vd) => (v.num + 31 - a.last) % 32) waiting with
      | none => .next s
      | some v => match leastBy Cluster.asked (askingClusters s v field) with
        | none => .next s
        | some k =>
          .next { setCluster s (grantCluster k cycle) with surges := s.surges.set field { a with grants := a.grants + 1, last := v.num } }

/-! ### The failure of a die (R63, R315) -/

/-- The stage-2 ranges of a virtual device that lie on a die, adjoining ones joined: GPA base and length. -/
def rangesOnDie (s : State) (v : Vd) (die : Nat) : List (Nat × Nat) :=
  let on := fun (pa : Nat) => paKind pa == .hbm && paDie pa == die
  let leaves := ((s2Leaves s v 0 (2 ^ 48)).filter (fun l => on (addrOf l.2.1))).map (fun l => (l.2.2.1, l.2.2.2))
  leaves.foldl (fun acc l => match acc.getLast? with
    | some (b, n) => if b + n = l.1 then acc.dropLast ++ [(b, n + l.2)] else acc ++ [l]
    | none => [l]) []

/-- The records of the ranges lost with a virtual die, for the instance of the lowest surviving one (16 Tables 16.2, 16.3). -/
def lostRecords (v : Vd) (at_ : Nat) (rs : List (Nat × Nat)) : Vd :=
  match lowestLive v with
  | none => v
  | some d => v.modInst d (fun i => { i with records := i.records ++ rs.map (fun r => { emptyRecord 4 at_ with arg0 := BitVec.ofNat 64 r.1, arg1 := BitVec.ofNat 64 r.2 }) })

/-- Adds teams lost to a node's count. -/
def addLost (l : List ((Nat × Nat) × Nat)) (n : Nat × Nat) (k : Nat) : List ((Nat × Nat) × Nat) :=
  if l.any (fun e => e.1 == n) then l.map (fun e => if e.1 == n then (n, e.2 + k) else e) else l ++ [(n, k)]

/-- The work of a virtual device on a die that has failed: its groups go, its ranges pass on, its teams are lost with one record for each node (R63). -/
def loseWork (s : State) (vd d : Nat) : State :=
  let gs := s.groups.filter (fun g => g.vd == vd && g.vdie == d)
  let s := gs.foldl killGroup s
  let ts := s.teams.filter (fun t => t.vd == vd && t.vdie == d && t.status != .retired)
  let s := { s with teams := s.teams.map (fun t => if t.vd == vd && t.vdie == d && !t.kernel && t.status != .retired then { t with status := .retired, saveBlk := none, grace := 0 } else t) }
  match findVd s vd with
  | none => s
  | some v =>
    let held := ((v.inst d).map (fun i => i.ranges.filter (fun r => decide (r.lo < r.hi)))).getD []
    let v1 := v.modInst d (fun i => { i with ranges := [] })
    let heirs := held.filter (fun r => (heirOf v1 (r.launch, r.node) d).isSome)
    let orphans := held.filter (fun r => (heirOf v1 (r.launch, r.node) d).isNone)
    let s := heirs.foldl (fun s r => passRange s vd d r.launch r.node r.lo r.hi) (setVd s v1)
    let lost := (ts.filter (fun t => !t.kernel)).foldl (fun l t => addLost l (t.launch, t.node) 1) []
    let lost := orphans.foldl (fun l r => addLost l (r.launch, r.node) (r.hi - r.lo)) lost
    lost.foldl (fun s e => loseTeams s vd d e.1.1 e.1.2 e.2) s

/-- A virtual device that names a failed die: its entry is marked, lost frames are recorded, work passes on or is lost (R63, R315; 12 Table 12.8). -/
def failFor (die : Nat) (s : State) (v0 : Vd) : State :=
  match findVd s v0.num with
  | none => s
  | some v => match v.instAt die with
    | none => s
    | some i =>
      let rs := rangesOnDie s v die
      let v := { v with insts := v.insts.map (fun j => if j.pdie == die then { j with failed := true } else j) }
      loseWork (setVd s (lostRecords v i.vdie rs)) v.num i.vdie

/-- What the package held of the memory of a failed die is gone; monitors there wake their waiters (R315). -/
def loseMemory (s : State) (die : Nat) : State :=
  let on := fun (pa : Nat) => paKind pa == .hbm && paDie pa == die
  let s := wakeMonitors s reasonEvict (fun m => on (4 * m.word))
  { s with
    clusters := (s.clusters.filter (fun k => siteDie k.site != die)).map (fun k => { k with l1 := k.l1.filter (fun w => !on w.pa) })
    remote := s.remote.filter (fun r => r.die != die && !on (4 * r.word))
    stc := s.stc.filter (fun e => e.die != die && !on e.xl.pa)
    fed := s.fed.filter (fun f => !on (8 * f.cell))
    blocks := s.blocks.filter (fun b => b.die != die)
    drays := s.drays.map (fun d => { d with pend := d.pend.filter (fun p => p.1 != die) })
    locks := s.locks.filter (fun k => k.die != die)
    tickets := s.tickets.filter (fun k => k.die != die)
    mapChanges := s.mapChanges.filter (fun c => c.die != die)
    integrity := s.integrity.filter (fun b => !on (64 * b)) }

/-- DIE_FAILURE: every virtual device that names the die loses what was there and runs on; requests towards it are answered LOST when they come to be performed (R63, R315). A
shootdown no longer awaits it: SHOOTDOWN_COMPLETE counts only live dies. -/
def execDieFailure (die : Nat) (s : State) : Host.Outcome State Fault Refusal :=
  if 8 ≤ die ∨ s.failed.contains die then .next s
  else .next (loseMemory (s.vds.foldl (failFor die) { s with failed := s.failed ++ [die] }) die)

/-! ### The SMC's service queue (R437) -/

/-- A field of a service request. -/
def svcField (q : SvcReq) (off n : Nat) : Nat := leNat ((q.bytes.drop off).take n)

/-- The operation of a request. -/
def svcOp (q : SvcReq) : Nat := svcField q 0 1

/-- The statuses of Table 17.7. -/
def svcDone : Nat := 0
def svcBadarg : Nat := 1
def svcFull : Nat := 2
def svcRefused : Nat := 3
def svcNowin : Nat := 4

/-- The reply to a request (Table 17.7); it waits for room in the instance's queue as a message does. -/
def svcReply (s : State) (q : SvcReq) (status : Nat) (result : Nat) : State :=
  let bytes := leBytes (svcOp q) 1 ++ leBytes status 1 ++ zeros 6 ++ leBytes (svcField q 8 8) 8 ++ leBytes (if status = 0 then result else 0) 8 ++ zeros 40
  modVd s q.vd (fun v => v.modInst q.vdie (fun i => { i with inbox := i.inbox ++ [{ seq := 0, src := 0, smc := true, ext := false, bytes := bytes }] }))

/-- Reserved bytes are zero (Table 17.6). -/
def svcClean (q : SvcReq) : Bool := zeroAt q.bytes 1 7 && zeroAt q.bytes 0x16 2 && zeroAt q.bytes 0x30 16

/-- Whether a request has an operation of Table 17.8. -/
def svcKnown (q : SvcReq) : Bool := decide (0x20 ≤ svcOp q) && decide (svcOp q ≤ 0x23)

/-- Takes the oldest request of a virtual device with an operation code and answers it; a request with a code of no operation is answered BADARG when there is none
(R437). Nothing is served while the SMC changes over (R440). -/
def serve (s : State) (vd op : Nat) (k : State → Vd → SvcReq → State) : State :=
  if smcAway s then s
  else
    let pickReq := (s.services.find? (fun q => q.vd == vd && svcOp q == op)).or (s.services.find? (fun q => q.vd == vd && !svcKnown q))
    match pickReq, findVd s vd with
    | some q, some v =>
      let s := { s with services := s.services.eraseP (fun r => r == q) }
      if svcKnown q && svcClean q then k s v q else svcReply s q svcBadarg 0
    | _, _ => s

/-- Whether an address is an 8-byte-aligned counter's, and the ASID one of the virtual device. -/
def svcCounterOk (q : SvcReq) : Bool := svcField q 0x28 8 % 8 == 0
def svcAsidOk (v : Vd) (q : SvcReq) : Bool := asidIn v (svcField q 0x10 2)

/-- OPENT: opens a target window; which free number it gets is open (Table 17.8). -/
def execOpent (vd : Nat) (s : State) : Host.Outcome State Fault Refusal :=
  .next (serve s vd 0x20 (fun s v q =>
    let va := svcField q 0x18 8
    let size := svcField q 0x20 8
    let ok := svcAsidOk v q && svcCounterOk q && va % 65536 == 0 && size != 0 && size % 65536 == 0 && decide (size ≤ 2 ^ 32) && decide (svcField q 0x14 1 < 128)
    let free := (List.range 256).filter (fun n => !s.windows.any (fun w => w.num == n))
    if !ok then svcReply s q svcBadarg 0
    else if free.isEmpty then svcReply s q svcFull 0
    else
      let n := free.getD ((Config.freeValue s.freeCtr).toNat % free.length) 0
      let w : Window := { num := n, vd := vd, asid := svcField q 0x10 2, va := va, size := size, cntva := svcField q 0x28 8, pkg := svcField q 0x14 1, tag := svcField q 0x12 2,
                          aborted := false, bad := [] }
      svcReply { s with windows := s.windows ++ [w], freeCtr := s.freeCtr + 1 } q svcDone n))

/-- OPENS: opens a source path, which the SMC maps at stage 2 by four leaves of 1 GiB; with too few frames for the tables the reply is FULL (log 6); the answer of the target's SMC is the event's
argument (Table 17.8). -/
def execOpens (vd : Nat) (peer : PeerAnswer) (s : State) : Host.Outcome State Fault Refusal :=
  .next (serve s vd 0x21 (fun s v q =>
    if !(svcAsidOk v q && svcCounterOk q && decide (svcField q 0x14 1 < 128)) then svcReply s q svcBadarg 0
    else match peer with
      | .noWin => svcReply s q svcNowin 0
      | .refused => svcReply s q svcRefused 0
      | .opened g =>
        let gpa := g % 2 ^ 48 / 2 ^ 32 * 2 ^ 32
        let p : SourcePath := { vd := vd, asid := svcField q 0x10 2, pkg := svcField q 0x14 1, win := svcField q 0x15 1, cntva := svcField q 0x28 8, tag := svcField q 0x12 2,
                                gpa := gpa, isOpen := true }
        match mapFor s vd gpa (couplerPa p.pkg p.win 0) (2 ^ 32) (leafFlags true false false) with
        | some s => svcReply { s with paths := p :: s.paths.filter (fun r => !(r.vd == vd && r.pkg == p.pkg && r.win == p.win)) } q svcDone gpa
        | none => svcReply s q svcFull 0))

/-- A closed path: it belongs to no collective any more, and only the counters of the PUTs on their way are left to it. -/
def SourcePath.closed (p : SourcePath) : Bool := !p.isOpen && p.tag == 0

/-- CLOSE: closes a target window of the virtual device, or a source path of it (Table 17.8). -/
def execClose (vd : Nat) (s : State) : Host.Outcome State Fault Refusal :=
  .next (serve s vd 0x22 (fun s _ q =>
    let pkg := svcField q 0x14 1
    let win := svcField q 0x15 1
    if 128 ≤ pkg then svcReply s q svcBadarg 0
    else if pkg = Config.packageNumber.toNat then
      if s.windows.any (fun w => w.vd == vd && w.num == win) then
        svcReply { s with windows := s.windows.filter (fun w => !(w.vd == vd && w.num == win)), putHeld := s.putHeld.filter (fun p => p.win != win) } q svcDone 0
      else svcReply s q svcNowin 0
    else if s.paths.any (fun p => !p.closed && p.vd == vd && p.pkg == pkg && p.win == win) then
      svcReply { s with paths := s.paths.map (fun p => if p.vd == vd && p.pkg == pkg && p.win == win then { p with isOpen := false, tag := 0 } else p) } q svcDone 0
    else svcReply s q svcNowin 0))

/-- ABORT: aborts a collective that the virtual device takes part in; unanswered while one of its counters is held (R436; 12 R308). -/
def execAbort (vd : Nat) (s : State) : Host.Outcome State Fault Refusal :=
  .next (serve s vd 0x23 (fun s _ q =>
    let tag := svcField q 0x12 2
    let mine := s.windows.any (fun w => w.vd == vd && w.tag == tag) || s.paths.any (fun p => p.vd == vd && p.tag == tag)
    if tag = 0 then svcReply s q svcBadarg 0
    else if mine then ((abortTag s tag).map (fun s => svcReply s q svcDone 0)).getD { s with services := q :: s.services }
    else svcReply s q svcDone 0))

/-- PEER_ABORT: a collective is aborted on another package; it stays to be done while a counter is held (R436; 12 R308). -/
def execPeerAbort (tag : BitVec 16) (s : State) : Host.Outcome State Fault Refusal := .next ((abortTag s tag.toNat).getD s)

/-! ### Carried checks (R439) -/

/-- The virtual device whose memory holds a physical address. -/
def frameOwner (s : State) (pa : Nat) : Option Vd := s.vds.find? (fun v => (vdFrames s v).any (fun f => decide (f.1 ≤ pa) && decide (pa < f.1 + f.2)))

/-- An answer that carries the data of a physical address into a cluster, or, for an access of the pool, the device's error response to a load or a store (R438). -/
def answersWith (pa : Nat) (r : Req) : Bool :=
  r.stage == .reply && (match r.xl with
    | some x => (!r.results.isEmpty || paKind pa == .pool) && r.lanes.any (fun a => decide (x.at a.va / 64 * 64 ≤ pa) && decide (pa < (x.at a.va + r.size + 63) / 64 * 64))
    | none => false)

/-- INTEGRITY: a block's check does not match. A load or atomic whose answer carries it faults and writes nothing, behind the bonded run that its group issues (04 R91); data that no group waits
for posts a record. The block keeps its mismatch until a write covers it (R439). -/
def execIntegrity (req pa : Nat) (s : State) : Host.Outcome State Fault Refusal :=
  let s := { s with integrity := if s.integrity.contains (pa / 64) then s.integrity else pa / 64 :: s.integrity }
  match findReq s req with
  | some r => .next (
    if !answersWith pa r then s
    else if faultWaits s r.gid (((flightOf s r).map Flight.runId).getD 0) then { s with reqs := s.reqs.map (fun q => if q.id == req then { q with lost := true } else q) }
    else faultReq s r causeIntegrity 0#8)
  | none => match frameOwner s pa with
    | some v => .next (postIntegrity s v.num pa)
    | none => .next s

/-! ### Bring-up and live service (R431, R440) -/

/-- The order in which the fields come up (R431). -/
def fieldOrder : List Nat := [0, 7, 1, 2, 3, 4, 5, 6]

/-- The field that comes up next: the first in order that is not yet in service or early service; a retired compute die's is left out (R431; 03 R56). -/
def nextField (s : State) : Option Nat := fieldOrder.find? (fun f => !s.retired.contains f && (s.fields[f]?).any (fun x => decide (x.svc < 2)))

/-- The next field shows as coming up. -/
def comingUp (s : State) : State :=
  match nextField s with
  | some f => modFields s (fun k => k == f) (fun x => { x with svc := 1 })
  | none => s

/-- FIELD_IN_SERVICE: the next field passes calibration: field 0 enters early service, the others service; I/O die 1, in field 7, carries the standby SMC (R431; 00 the device
at a glance). -/
def execFieldInService (field : Nat) (s : State) : Host.Outcome State Fault Refusal :=
  if nextField s ≠ some field then .next s
  else
    let s := modFields s (fun k => k == field) (fun x => { x with svc := if field = 0 then 2 else 3, pll := true })
    .next (comingUp { s with early := s.early || field == 0, standby := s.standby || field == 7 })

/-- EARLY_SERVICE_END: die 0 goes to full speed and its 8-bit and 4-bit paths open, once field 7 is in service (R431). -/
def execEarlyServiceEnd (s : State) : Host.Outcome State Fault Refusal :=
  if s.early && (s.fields[7]?).any (fun x => x.svc == 3) then .next { modFields s (fun k => k == 0) (fun x => { x with svc := 3 }) with early := false } else .next s

/-- Pre-empts a resident team for service, if it can be saved (R440; 16 R407). -/
def preemptForService (s : State) (tid : Nat) : State :=
  match findTeam s tid with
  | none => s
  | some t =>
    if t.kernel || !resident t || t.grace != 0 then s
    else match (findVd s t.vd).bind (fun v => poolFor s v t.size) with
      | none => s
      | some b =>
        let s := setTeam s { t with saveBlk := some b, grace := cycleOf s (siteDie t.site) + 1 }
        { s with groups := s.groups.map (fun g => if g.team == tid && g.status == .running && !inBonded g then { g with status := .stopping .preempt } else g) }

/-- FIELD_RECALIBRATION: the die's teams are pre-empted and placement on it is held; its slices and memory stay in service (R440). Whether it stops the field's PLL, so that CYCLE stands
still once the teams are saved, the spec leaves open: a free value (log 89). -/
def execFieldRecalibration (field : Nat) (s : State) : Host.Outcome State Fault Refusal :=
  if (s.fields[field]?).any (fun x => x.svc == 3 && !x.recal) then
    let s := modFields s (fun k => k == field) (fun x => { x with recal := true, stops := (Config.freeValue s.freeCtr).getLsbD 0 })
    let s := { s with freeCtr := s.freeCtr + 1 }
    .next ((s.teams.filter (fun t => siteDie t.site == field && isCluster t.site)).foldl (fun s t => preemptForService s t.tid) s)
  else .next s

/-- RECALIBRATION_END: placement on the field goes on; timers that expired during service take effect (R428, R440). -/
def execRecalibrationEnd (field : Nat) (s : State) : Host.Outcome State Fault Refusal :=
  .next (expireDue (modFields s (fun k => k == field) (fun x => { x with recal := false })))

/-- HBM_CHANNEL_SERVICE: the service of a channel begins, or, when it is being serviced, ends; meanwhile requests for its lines are held at their homes (R440). -/
def execHbmChannelService (die chan : Nat) (s : State) : Host.Outcome State Fault Refusal :=
  if s.chanService.contains (die, chan) then .next (expireDue { s with chanService := s.chanService.filter (fun c => c != (die, chan)) })
  else .next { s with chanService := s.chanService ++ [(die, chan)] }

/-- COUPLER_PORT_SERVICE: messages in flight go over other ports; counters count each PUT once: no value changes (R440). -/
def execCouplerPortService (port : Nat) (s : State) : Host.Outcome State Fault Refusal := .next (if port < 32 then retryPuts s.putHeld.length s else s)

/-- SMC_FAILOVER: with a standby ready, the active SMC halts and what it serves waits; when it has halted for this, the standby takes over and serves (R440; 16 R421). -/
def execSmcFailover (s : State) : Host.Outcome State Fault Refusal :=
  if s.failover then
    .next (expireDue { s with
      failover := false
      smcHalted := false
      groups := s.groups.filter (fun g => g.site != .smc)
      cur := if s.cur.any (fun u => (findGroup s u.gid).any (fun g => g.site == .smc)) then none else s.cur })
  else if s.standby then .next { s with failover := true, smcHalted := true, standby := false }
  else .next s

/-- PACKAGE_RESET: everything is as after power-on, and bring-up starts; retired compute dies stay retired (R431; 07 R179; 14 R359). -/
def execPackageReset (s : State) : Host.Outcome State Fault Refusal :=
  .next (comingUp { State.reset with retired := s.retired, freeCtr := s.freeCtr, agenda := s.agenda })

/-- MANAGEMENT_PATH_WRITE: the SMC writes a field's ILIM, or clears CFAIL, which lets the idle timer start again, or SAVEF (03 R73; 02 Table 2.8; 16 R410). -/
def execManagementPathWrite (what : MgmtWrite) (s : State) : Host.Outcome State Fault Refusal :=
  match what with
  | .ilim f x => .next (modFields s (fun k => k == f) (fun y => { y with ilim := x }))
  | .clearCfail vd => .next (modVd s vd (fun v => { v with cfail := false, timer := v.timer || (v.cfail && v.state == .idle) }))
  | .clearSavef vd => .next (modVd s vd (fun v => { v with savef := false }))

/-- COMPUTE_DIE_RETIREMENT: a compute die that no die table names is retired (03 R56). -/
def execComputeDieRetirement (die : Nat) (s : State) : Host.Outcome State Fault Refusal :=
  if decide (8 ≤ die) || s.retired.contains die || s.vds.any (fun v => v.desc.dies.any (fun d => d.pdie == die)) then .next s else .next { s with retired := s.retired ++ [die] }

end Sys2Proof.Machine
end

