-- ==== Sys2Proof/Machine/Channel.lean ====
section
/-! DEFINITION. Machine/Channel.lean: dataflow channels: SEND, RECV and CHQ (14 R352-R356). -/

namespace Sys2Proof.Machine

/-- The CHANNEL trap with a code (R353). -/
def channelTrap (code : Nat) (ch : BitVec 6) : Trap := { cause := causeChannel, val := BitVec.ofNat 64 (code + 256 * ch.toNat) }

/-- Puts a channel's ring back in its team. -/
def putChan (s : State) (t : Team) (ch : Nat) (k : Chan) : State := setTeam s { t with chans := setAt t.chans ch k }

/-- The slot that SEND forms: zero in lanes outside Active (R354). -/
def slotOf (c : Ctx) (a : BitVec 7) : List Word := (List.range 32).map (fun l => if c.f.mask.getLsbD l then op32 c a l else 0#32)

/-- Where place i of a channel's ring, counted from the oldest value, lies in its cluster's SRAM: above SCRATCH, in channel order (R352; 01 R19). -/
def slotAddr (t : Team) (ch : Nat) (k : Chan) (i : Nat) : Nat :=
  t.block + t.scratch + 128 * (((t.chans.take ch).map Chan.slots).foldl (· + ·) 0 + (k.head + i) % k.slots)

/-- Writes a slot of a team's ring as its youngest. -/
def pushSlot (s : State) (t : Team) (ch : Nat) (k : Chan) (slot : List Word) : State :=
  let q := clusterOf s t.site
  let sram := (List.range 32).foldl (fun m l => wrBytes m (slotAddr t ch k k.count + 4 * l) (slot.getD l 0#32).toNat 4) q.sram
  putChan (setCluster s { q with sram := sram }) t ch { k with count := k.count + 1 }

/-- Lane l of the oldest slot of a team's ring. -/
def slotLane (s : State) (t : Team) (ch : Nat) (k : Chan) (l : Nat) : Word :=
  BitVec.ofNat 32 (rdBytes (clusterOf s t.site).sram (slotAddr t ch k 0 + 4 * l) 4)

/-- Whether a RECV that took its place at a ring still waits there: a group that stops gives it up (R356). -/
def liveClaim (s : State) (k : Claim) : Bool := (findGroup s k.gid).any (fun g => g.status == .running && g.standsAt k.leader k.pc)

/-- Whether a claim is that of a fragment's RECV. -/
def Claim.isOf (k : Claim) (gid lead : Nat) (pc : DWord) : Bool := k.gid == gid && k.leader == lead && k.pc == pc

/-- The place of a fragment's RECV. -/
def Ctx.claim (c : Ctx) (d : BitVec 7) : Claim := { gid := c.g.gid, leader := leader c.f.mask, pc := c.f.pc, reg := regOf c.g d }

/-- The blocked SEND of the issuing fragment, if this word has issued before. -/
def Ctx.blockedSend (c : Ctx) : Option SendWait := c.g.sends.find? (fun w => w.leader == leader c.f.mask && w.pc == c.f.pc)

/-- A SEND as it issues: the team that CHTEAM names, the channel, the slot; one that is blocked keeps what it formed then (R354; 04 R81). -/
def Ctx.sendOf (c : Ctx) (w : FmtX) (k : BitVec 6) : SendWait :=
  c.blockedSend.getD { leader := leader c.f.mask, pc := c.f.pc, lin := (c.g.chteam.extractLsb' 0 24).toNat, chan := k.toNat, slot := slotOf c w.a }

/-- Whether an earlier SEND of a group to the same ring is blocked (R354). -/
def sendBehind (g : Group) (w : SendWait) : Bool :=
  (g.sends.takeWhile (fun q => !(q.leader == w.leader && q.pc == w.pc))).any (fun q => q.lin == w.lin && q.chan == w.chan && g.standsAt q.leader q.pc)

/-- A group without one of its blocked SENDs. -/
def Group.endSend (g : Group) (w : SendWait) : Group := { g with sends := g.sends.filter (fun q => !(q.leader == w.leader && q.pc == w.pc)) }

/-- The state in which a SEND stays blocked, in its place among its group's. -/
def Ctx.blockSend (c : Ctx) (w : SendWait) (s : State) : State :=
  if c.blockedSend.isSome then s else modGroup s c.g.gid (fun g => { g with sends := g.sends.filter (fun q => g.standsAt q.leader q.pc) ++ [w] })

/-- What becomes of a SEND of a group that has reached its ring: the slot is written, once the SENDs of its group before it have been accepted, the ring has room and, towards another cluster, it has its
rate token (R354; 02 R43). -/
def trySend (s : State) (g : Group) (t u : Team) (w : SendWait) : Bool × State :=
  let die := siteDie g.site
  let who := Taker.send g.gid w.pc
  match u.status, u.chan w.chan with
  | .resident, some r =>
    if sendBehind g w then (false, s)
    else if r.slots ≤ r.count then (false, if u.site == t.site then s else keepPlace s g.vd die who)
    else
      let p := if u.site == t.site then (true, s) else takeTurn s g.vd die who 1
      if p.1 then (true, pushSlot p.2 u w.chan r w.slot) else p
  | _, _ => (false, s)

/-- SEND: writes a slot of the ring of the team that CHTEAM names (R352-R354). -/
def execSend (w : FmtX) (k : BitVec 6) (s : State) : Host.Outcome State Fault Refusal :=
  issue (.send w k) s (fun c =>
    match teamOf c with
    | none => .error (channelTrap 1 k)
    | some t =>
      let x := c.sendOf w k
      if t.chans.length ≤ k.toNat then .error (channelTrap 1 k)
      else if t.gx * t.gy * t.gz ≤ x.lin then .error (channelTrap 2 k)
      else match gridTeam c.s t x.lin with
        | none => .ok (c.blockSend x c.hold)
        | some u =>
          if u.status == .retired then .error (channelTrap 3 k)
          else if (trySend c.s c.g t u x).1 then .ok { c with s := (trySend c.s c.g t u x).2, g := c.g.endSend x }.finish
          else .ok (c.blockSend x (trySend c.hold c.g t u x).2))

/-- RECV: claims the oldest full slot of the group's own team and frees it. The RECVs that find the ring empty wait in the order in which they reached it (R355). -/
def execRecv (w : FmtX) (k : BitVec 6) (s : State) : Host.Outcome State Fault Refusal :=
  issue (.recv w k) s (fun c =>
    match teamOf c with
    | none => .error (channelTrap 1 k)
    | some t =>
      match t.chan k.toNat with
      | none => .error (channelTrap 1 k)
      | some r =>
        let mine := fun (q : Claim) => q.isOf c.g.gid (leader c.f.mask) c.f.pc
        let live := r.claims.filter (liveClaim c.s)
        if r.count = 0 || !(live.isEmpty || live.head?.any mine) then
          .ok (putChan c.hold t k.toNat { r with claims := if live.any mine then live else live ++ [c.claim w.d] })
        else
          let reg := ((live.find? mine).map Claim.reg).getD (regOf c.g w.d)
          let c1 := { c with s := putChan c.s t k.toNat { r with head := (r.head + 1) % r.slots, count := r.count - 1, claims := live.filter (fun q => !mine q) } }
          .ok ({ c1 with g := vset c1.g reg c.f.mask (slotLane c.s t k.toNat r) }.push .invalid).finish)

/-- CHQ: the number of full slots, and SLOTS (R355). -/
def execChq (w : FmtX) (k : BitVec 6) (s : State) : Host.Outcome State Fault Refusal :=
  issue (.chq w k) s (fun c =>
    match (teamOf c).bind (fun t => t.chan k.toNat) with
    | none => .error (channelTrap 1 k)
    | some r => .ok (putUni c w.n w.d 1 (BitVec.ofNat 64 (r.count % 256 + 256 * (r.slots % 256)))).finish)

end Sys2Proof.Machine
end

