-- ==== Sys2Proof/Machine/Parked.lean ====
section
/-! DEFINITION. Machine/Parked.lean: words that issued before their fragment was parked complete while it is parked (06 R135): fences, WAITC, SCRUB, SEND and RECV. -/

namespace Sys2Proof.Machine

/-- Changes a parked fragment of a group. -/
def Group.modParked (g : Group) (i : Nat) (f : StackEntry → StackEntry) : Group :=
  match g.stack[i]? with
  | some e => { g with stack := setAt g.stack i (f e) }
  | none => g

/-- A parked fragment whose word has completed: it goes on behind it when it is live again. -/
def StackEntry.pass (e : StackEntry) : StackEntry := { e with ppc := e.ppc + 4#64, pwait := .no }

/-- The state in which the word of a parked fragment of a group has completed. -/
def passParked (s : State) (gid i : Nat) : State := modGroup s gid (fun g => g.modParked i StackEntry.pass)

/-- The RECV of a parked fragment claims the oldest full slot, when its place is the first at the ring (14 R355). -/
def parkedRecv (s : State) (g : Group) (i : Nat) (e : StackEntry) : State :=
  match findTeam s g.team with
  | none => s
  | some t =>
    match (List.range t.chans.length).find? (fun ch => (t.chan ch).any (fun k =>
        k.count != 0 && (k.claims.filter (liveClaim s)).head?.any (fun q => q.isOf g.gid (leader e.pmask) e.ppc))) with
    | none => s
    | some ch => (match t.chan ch with
      | none => s
      | some k =>
        let live := k.claims.filter (liveClaim s)
        match live.head? with
        | none => s
        | some q =>
          let s1 := putChan s t ch { k with head := (k.head + 1) % k.slots, count := k.count - 1, claims := live.tail }
          passParked (modGroup s1 g.gid (fun g => vset g q.reg e.pmask (slotLane s t ch k))) g.gid i)

/-- The blocked SEND of a parked fragment is accepted, when it can be (14 R354). -/
def parkedSend (s : State) (g : Group) (i : Nat) (e : StackEntry) : State :=
  match g.sends.find? (fun w => w.leader == leader e.pmask && w.pc == e.ppc), findTeam s g.team with
  | some w, some t => (match gridTeam s t w.lin with
    | some u =>
      if u.status == .retired then s
      else
        let p := trySend s g t u w
        if p.1 then passParked (modGroup p.2 g.gid (fun g => g.endSend w)) g.gid i else p.2
    | none => s)
  | _, _ => s

/-- The word that a parked fragment of a group waits at, if it can complete, does so (06 R135). -/
def completeParked (s : State) (g : Group) (i : Nat) (e : StackEntry) : State :=
  match e.pwait with
  | .fence sc => if quiet g then fenceDone (passParked s g.gid i) g.vd (siteDie g.site) sc else s
  | .fenceVa => if g.cw.isEmpty then l1DropAt (passParked s g.gid i) g.site (fun _ => true) else s
  | .waitc k n => if g.count k ≤ n then passParked s g.gid i else s
  | .scrub base len => if s.reqs.any (towards base len) then s else scrub (passParked s g.gid i) base len
  | .no => parkedSend (parkedRecv s g i e) g i e
  | _ => s

/-- The words of the parked fragments of a running group complete as they can. -/
def parkedWork (gid i : Nat) (s : State) : State :=
  match findGroup s gid with
  | none => s
  | some g =>
    match g.stack[i]? with
    | some e => if g.status == .running && e.pmode == .arm then completeParked s g i e else s
    | none => s

/-- The steps that the words of parked fragments still have to take. -/
def parkedActs (s : State) : List (State → State) := s.groups.flatMap (fun g => (List.range g.stack.length).map (parkedWork g.gid))

end Sys2Proof.Machine
end

