-- ==== Sys2Proof/Machine/Agents.lean ====
section
/-! DEFINITION. Machine/Agents.lean: what the package does of itself when nothing is asked for: the events of its engines, of which any one may come next (log 2). -/

namespace Sys2Proof.Machine

/-- An event with its operands. -/
abbrev Act := State → Host.Outcome State Fault Refusal

/-- The events of the memory system's requests (11, 12, 15): REDs merge on their way (14 R346), L1s give up lines (11 R253). -/
def requestActs (s : State) : List Act :=
  s.reqs.flatMap (fun r => [execEgressRelease r.vd r.die, execSliceRequest r.id, execHomePerform r.id, execReplyArrives r.id, execRemapResend r.id,
    fun s => .next (mergeRed r.id s)]) ++
  s.remote.map (fun r => execRemoteWriteback r.die (4 * r.word)) ++ s.clusters.map (fun k s => .next (l1Evict s k.site))

/-- The events of shootdowns and slice-map changes (12) and of the Dray (13). -/
def engineActs (s : State) : List Act :=
  s.shoots.flatMap (fun o => o.pend.flatMap (fun p => [execBlockAtSlice o.id p.1 p.2, execPurgeAtSlice o.id p.1 p.2]) ++ [execShootdownComplete o.id]) ++
  s.drays.flatMap (fun d => d.pend.map (fun p => execPubSliceBlock d.id p.1 p.2) ++ [execSwapPoint d.id, execDrayUnitDone d.id, execDrayComplete d.id none]) ++
  s.monitors.flatMap (fun m => [execMonitorWake m.id, execWaitaTimeout m.id]) ++
  (changeActs s).map (fun f s => .next (f s))

/-- The events of groups and teams, their parked fragments' among them, of the die kernel's services and the SMC's for what they trap on (01, 10, 16, 17). -/
def groupActs (s : State) : List Act :=
  s.groups.flatMap (fun g =>
    [execMmafRendezvous g.team g.num, execWfiWake g.vd g.handle, execGroupStop g.vd g.handle, execSaveComplete g.vd g.handle, execSaveWriteFault g.vd g.handle,
     execGroupRestore g.vd g.handle, execDrayRemainderResume g.handle g.vd, execDrainEnd g.vd g.handle]) ++
  s.teams.flatMap (fun t => [execQuantumExpires t.tid, execTeamRetire t.tid] ++ (match t.site with
    | .cluster d n => [execWatchdog d n]
    | _ => [])) ++
  (parkedActs s).map (fun f s => .next (f s)) ++ s.syscalls.map (fun g s => .next (serveSyscall g s)) ++ (List.range s.smcRecords.length).map (fun n s => .next (forwardTrap n s))

/-- A move of the compactor on a cluster (03 R70). -/
def compactionAct (site : Site) (m : Block × Nat) : Act :=
  match site with
  | .cluster d n => execCompactionMove d n m.1 m.2
  | _ => fun s => .next s

/-- The events of a virtual device's dispatchers, instances and dormancy (02, 03, 15, 16). -/
def vdActs (s : State) : List Act :=
  s.vds.flatMap (fun v =>
    v.insts.flatMap (fun i =>
      [execDispatchTeam v.num i.vdie, execStealRequest v.num i.vdie, execCompactorRetry v.num i.vdie, execSteeringCap v.num i.vdie, execTokenRefill v.num i.pdie,
       execKtimerExpires v.num i.vdie, execFaultRecordPost v.num i.vdie, execRelayMessageArrives v.num i.vdie] ++
      (sitesOf v i).flatMap (fun site => (movesAt s site).map (fun m => compactionAct site m))) ++
    v.launches.map (fun l s => .next (completeLaunch s v.num l.num)) ++
    (if (mboxOf s v.num).busy then [execRegisterAGraph v.num, execUnregister v.num, execUnknownOperationCode v.num] else []) ++
    v.steals.flatMap (fun x => [execStealHandled x.id, execStealReply x.id]) ++
    [execWorkBegins v.num, execWorkEnds v.num, execTimerExpires v.num, execCollapseStepDone v.num, execSaveFaultInStep1 v.num,
     execWakeDone v.num ((Config.freeValue s.freeCtr).setWidth 32), execSweepPassStart v.num, execSweepPassEnd v.num] ++
    [execOpent v.num, execClose v.num, execAbort v.num] ++
    (if v.resetting then [execVfReset v.num] else []) ++
    [fun s => .next (retryHost s.hostHeld.length s v.num), fun s => .next (peerSends v.num s)])

/-- The events of the fields and of issue: cycles pass, a bay with a running group chooses a fragment (02 R45; 06 R128; 07 R179). -/
def fieldActs (s : State) : List Act :=
  (List.range s.surges.length).map execSurgeGrant ++ [fun s => .next (retryPuts s.putHeld.length s)] ++ (List.range s.fields.length).map (fun d s => .next (advanceCycle s d)) ++
  (s.groups.filter (fun g => g.status == .running)).map (fun g => execIssueChoice g.site g.bay)

/-- Every event that the package's own agents can bring about; one that is not enabled changes nothing. -/
def actsOf (s : State) : List Act := requestActs s ++ engineActs s ++ groupActs s ++ vdActs s ++ fieldActs s

/-- What happens when nothing is asked for: some event of the package itself; which one, the manual leaves open (log 2). -/
def idle (s : State) : Host.Outcome State Fault Refusal :=
  let acts := actsOf s
  match acts[(Config.freeValue s.freeCtr).toNat % acts.length]? with
  | some a => a { s with freeCtr := s.freeCtr + 1 }
  | none => .next s

end Sys2Proof.Machine
end

