-- ==== Sys2Proof/Machine/FloatOps.lean ====
section
/-! DEFINITION. Machine/FloatOps.lean: the floating-point words (08 R187-R198). -/

namespace Sys2Proof.Machine

/-- The direction of a format A floating-point word: x = 1 selects GCFG.FRM (R182). -/
def dirA (c : Ctx) (x : Bool) : Dir := if x then dirOf (frmOf c.g) else .rne

/-- An FP32 two-source word with x as the rounding select (R189). -/
def fTwo (w : FmtA) (op : Dir → Nat → Nat → Nat × FFlags) (c : Ctx) : Ctx :=
  putF32 c w.u w.n w.d (fun l => toW (op (dirA c w.x) (op32 c w.a l).toNat (op32 c w.b l).toNat))

/-- Both halves of a packed 16-bit word (R195). -/
def packed (op : Nat → Nat → Nat → Nat × FFlags) (a b d : Word) : Word × FFlags :=
  let h := fun (x : Word) (i : Nat) => x.toNat / 2 ^ (16 * i) % 2 ^ 16
  let r0 := op (h a 0) (h b 0) (h d 0)
  let r1 := op (h a 1) (h b 1) (h d 1)
  (BitVec.ofNat 32 (r1.1 * 2 ^ 16 + r0.1), r0.2.or r1.2)

/-- A packed two-source word, and one that reads d. -/
def pTwo (w : FmtA) (op : Nat → Nat → Nat × FFlags) (c : Ctx) : Ctx :=
  putF32 c w.u w.n w.d (fun l => packed (fun a b _ => op a b) (op32 c w.a l) (op32 c w.b l) 0#32)
def pThree (w : FmtA) (op : Nat → Nat → Nat → Nat × FFlags) (c : Ctx) : Ctx :=
  putF32 c w.u w.n w.d (fun l => packed op (op32 c w.a l) (op32 c w.b l) (op32 c w.d l))

/-- A one-operand function word (R193). -/
def fOne (w : FmtX) (op : Word → Word × FFlags) (c : Ctx) : Ctx := putF32 c w.u w.n w.d (fun l => op (op32 c w.a l))


/-- FADD (R189). -/
def execFadd (w : FmtA) (s : State) : Host.Outcome State Fault Refusal :=
  plain (.fadd w) s (fTwo w (fAdd fp32))

/-- FSUB (R189). -/
def execFsub (w : FmtA) (s : State) : Host.Outcome State Fault Refusal :=
  plain (.fsub w) s (fTwo w (fSub fp32))

/-- FMUL (R189). -/
def execFmul (w : FmtA) (s : State) : Host.Outcome State Fault Refusal :=
  plain (.fmul w) s (fTwo w (fMul fp32))

/-- FFMA: exact product, one rounding (R188, R189). -/
def execFfma (w : FmtA) (s : State) : Host.Outcome State Fault Refusal :=
  plain (.ffma w) s (fun c => putF32 c w.u w.n w.d (fun l =>
    toW (fFma fp32 (dirA c w.x) (op32 c w.a l).toNat (op32 c w.b l).toNat (op32 c w.d l).toNat)))

/-- FMIN (R190). -/
def execFmin (w : FmtA) (s : State) : Host.Outcome State Fault Refusal :=
  plain (.fmin w) s (fun c => putF32 c w.u w.n w.d (fun l => fMinMax false (op32 c w.a l) (op32 c w.b l)))

/-- FMAX (R190). -/
def execFmax (w : FmtA) (s : State) : Host.Outcome State Fault Refusal :=
  plain (.fmax w) s (fun c => putF32 c w.u w.n w.d (fun l => fMinMax true (op32 c w.a l) (op32 c w.b l)))

/-- FAMAX: the larger of d and the magnitude of a (R190). -/
def execFamax (w : FmtA) (s : State) : Host.Outcome State Fault Refusal :=
  plain (.famax w) s (fun c => putF32 c w.u w.n w.d (fun l =>
    fMinMax true (op32 c w.d l) (op32 c w.a l &&& 0x7FFFFFFF#32)))

/-- FCMP: a predicate; signalling conditions set NV when unordered (R192). -/
def execFcmp (w : FmtP) (s : State) : Host.Outcome State Fault Refusal :=
  plain (.fcmp w) s (fun c =>
    let r := fun l => fCond w.cond (op32 c w.a l) (op32 c w.b l)
    let fl := flagsOver (workLanes c w.u) (fun l => (r l).2)
    putPred { c with g := setStat c.g fl.bits } w.u w.pd (fun l => (r l).1))
/-- FUNARY.NEG (R193, R194). -/
def execFunaryNeg (w : FmtX) (s : State) : Host.Outcome State Fault Refusal :=
  plain (.funaryNeg w) s (fOne w fNeg)
/-- FUNARY.ABS (R193, R194). -/
def execFunaryAbs (w : FmtX) (s : State) : Host.Outcome State Fault Refusal :=
  plain (.funaryAbs w) s (fOne w fAbs)
/-- FUNARY.RCP (R193, R194). -/
def execFunaryRcp (w : FmtX) (s : State) : Host.Outcome State Fault Refusal :=
  plain (.funaryRcp w) s (fOne w fRcp)
/-- FUNARY.RSQ (R193, R194). -/
def execFunaryRsq (w : FmtX) (s : State) : Host.Outcome State Fault Refusal :=
  plain (.funaryRsq w) s (fOne w fRsq)
/-- FUNARY.SQRT (R193, R194). -/
def execFunarySqrt (w : FmtX) (s : State) : Host.Outcome State Fault Refusal :=
  plain (.funarySqrt w) s (fOne w fSqrt)
/-- FUNARY.EXP2 (R193, R194). -/
def execFunaryExp2 (w : FmtX) (s : State) : Host.Outcome State Fault Refusal :=
  plain (.funaryExp2 w) s (fOne w fExp2)
/-- FUNARY.LOG2 (R193, R194). -/
def execFunaryLog2 (w : FmtX) (s : State) : Host.Outcome State Fault Refusal :=
  plain (.funaryLog2 w) s (fOne w fLog2)
/-- FUNARY.SINPI (R193, R194). -/
def execFunarySinpi (w : FmtX) (s : State) : Host.Outcome State Fault Refusal :=
  plain (.funarySinpi w) s (fOne w (fSinpi false))
/-- FUNARY.COSPI (R193, R194). -/
def execFunaryCospi (w : FmtX) (s : State) : Host.Outcome State Fault Refusal :=
  plain (.funaryCospi w) s (fOne w (fSinpi true))
/-- FUNARY.FLOOR (R193, R194). -/
def execFunaryFloor (w : FmtX) (s : State) : Host.Outcome State Fault Refusal :=
  plain (.funaryFloor w) s (fOne w (fInt .rdn))
/-- FUNARY.CEIL (R193, R194). -/
def execFunaryCeil (w : FmtX) (s : State) : Host.Outcome State Fault Refusal :=
  plain (.funaryCeil w) s (fOne w (fInt .rup))
/-- FUNARY.TRUNC (R193, R194). -/
def execFunaryTrunc (w : FmtX) (s : State) : Host.Outcome State Fault Refusal :=
  plain (.funaryTrunc w) s (fOne w (fInt .rz))
/-- FUNARY.RNDNE (R193, R194). -/
def execFunaryRndne (w : FmtX) (s : State) : Host.Outcome State Fault Refusal :=
  plain (.funaryRndne w) s (fOne w (fInt .rne))
/-- FUNARY.FRACT (R193, R194). -/
def execFunaryFract (w : FmtX) (s : State) : Host.Outcome State Fault Refusal :=
  plain (.funaryFract w) s (fOne w fFract)

/-- FSCALE (R191). -/
def execFscale (w : FmtA) (s : State) : Host.Outcome State Fault Refusal :=
  plain (.fscale w) s (fun c => putF32 c w.u w.n w.d (fun l => fScale (op32 c w.a l) (srcB32 c w.x w.b l)))

/-- HADD2 (R195). -/
def execHadd2 (w : FmtA) (s : State) : Host.Outcome State Fault Refusal :=
  plain (.hadd2 w) s (pTwo w (fAdd fp16 .rne))

/-- HMUL2 (R195). -/
def execHmul2 (w : FmtA) (s : State) : Host.Outcome State Fault Refusal :=
  plain (.hmul2 w) s (pTwo w (fMul fp16 .rne))

/-- BADD2 (R195). -/
def execBadd2 (w : FmtA) (s : State) : Host.Outcome State Fault Refusal :=
  plain (.badd2 w) s (pTwo w (fAdd bf16 .rne))

/-- BMUL2 (R195). -/
def execBmul2 (w : FmtA) (s : State) : Host.Outcome State Fault Refusal :=
  plain (.bmul2 w) s (pTwo w (fMul bf16 .rne))

/-- HFMA2 (R188, R195). -/
def execHfma2 (w : FmtA) (s : State) : Host.Outcome State Fault Refusal :=
  plain (.hfma2 w) s (pThree w (fFma fp16 .rne))

/-- BFMA2 (R188, R195). -/
def execBfma2 (w : FmtA) (s : State) : Host.Outcome State Fault Refusal :=
  plain (.bfma2 w) s (pThree w (fFma bf16 .rne))

/-- CVT (R196-R198): 64-bit types are pairs with U = 0 and uniform registers with U = 1. -/
def execCvt (w : FmtX) (t s0 : BitVec 3) (m : BitVec 2) (s : State) : Host.Outcome State Fault Refusal :=
  plain (.cvt w t s0 m) s (fun c =>
    let r := fun l => cvtOp t s0 (dirOf m) (if 5 ≤ s0.toNat then op64 c w.a l else (op32 c w.a l).setWidth 64)
    let fl := flagsOver (workLanes c w.u) (fun l => (r l).2)
    putResult { c with g := setStat c.g fl.bits } w.u w.n w.d (cvtRegs t) (fun l => (r l).1))


end Sys2Proof.Machine
end

