-- ==== Sys2Proof/Machine/Ident.lean ====
section
/-! DEFINITION. Machine/Ident.lean: GETID, VDHOP and CYCLE (07 R177-R179). -/

namespace Sys2Proof.Machine

/-- A GETID word whose value is one for the group (R177). -/
def getid (i : Instr) (w : FmtX) (s : State) (v : Ctx → Nat) : Host.Outcome State Fault Refusal :=
  plain i s (fun c => putResult c false w.n w.d 1 (fun _ => BitVec.ofNat 64 (v c)))

/-- A field of the issuing group's team. -/
def teamField (c : Ctx) (f : Team → Nat) : Nat := ((teamOf c).map f).getD 0

/-- The virtual die count of the issuing group's virtual device. -/
def nvdie (c : Ctx) : Nat := ((findVd c.s c.g.vd).map (fun v => v.insts.length)).getD 0

/-- GETID.LANE: the lane number; a uniform d receives the leader (R177). -/
def execGetidLane (w : FmtX) (s : State) : Host.Outcome State Fault Refusal :=
  plain (.getidLane w) s (fun c => putResult c false w.n w.d 1 (fun l => BitVec.ofNat 64 l))
/-- GETID.GROUP (R177). -/
def execGetidGroup (w : FmtX) (s : State) : Host.Outcome State Fault Refusal := getid (.getidGroup w) w s (fun c => c.g.num)
/-- GETID.TEAMX (R177). -/
def execGetidTeamx (w : FmtX) (s : State) : Host.Outcome State Fault Refusal := getid (.getidTeamx w) w s (fun c => teamField c Team.tx)
/-- GETID.TEAMY (R177). -/
def execGetidTeamy (w : FmtX) (s : State) : Host.Outcome State Fault Refusal := getid (.getidTeamy w) w s (fun c => teamField c Team.ty)
/-- GETID.TEAMZ (R177). -/
def execGetidTeamz (w : FmtX) (s : State) : Host.Outcome State Fault Refusal := getid (.getidTeamz w) w s (fun c => teamField c Team.tz)
/-- GETID.ROLE (R177). -/
def execGetidRole (w : FmtX) (s : State) : Host.Outcome State Fault Refusal := getid (.getidRole w) w s (fun c => c.g.role)
/-- GETID.VDIE (R177; 03 R55). -/
def execGetidVdie (w : FmtX) (s : State) : Host.Outcome State Fault Refusal := getid (.getidVdie w) w s (fun c => c.g.vdie)
/-- GETID.NVDIE (R177; 03 R55). -/
def execGetidNvdie (w : FmtX) (s : State) : Host.Outcome State Fault Refusal := getid (.getidNvdie w) w s nvdie

/-- The enabled-cluster number of a site; 0 on a supervisor core (16 R415). -/
def clusterNo : Site → Nat
  | .cluster _ n => n
  | _ => 0

/-- GETID.CLUSTER (R177). -/
def execGetidCluster (w : FmtX) (s : State) : Host.Outcome State Fault Refusal := getid (.getidCluster w) w s (fun c => clusterNo c.g.site)
/-- GETID.BAY (R177). -/
def execGetidBay (w : FmtX) (s : State) : Host.Outcome State Fault Refusal := getid (.getidBay w) w s (fun c => c.g.bay)
/-- GETID.GRIDX (R177). -/
def execGetidGridx (w : FmtX) (s : State) : Host.Outcome State Fault Refusal := getid (.getidGridx w) w s (fun c => teamField c Team.gx)
/-- GETID.GRIDY (R177). -/
def execGetidGridy (w : FmtX) (s : State) : Host.Outcome State Fault Refusal := getid (.getidGridy w) w s (fun c => teamField c Team.gy)
/-- GETID.GRIDZ (R177). -/
def execGetidGridz (w : FmtX) (s : State) : Host.Outcome State Fault Refusal := getid (.getidGridz w) w s (fun c => teamField c Team.gz)

/-- The hop distance between physical dies (03 R57). -/
def dieHops (d e : Nat) : Nat := (d / 4 - e / 4) + (e / 4 - d / 4) + ((d % 4 - e % 4) + (e % 4 - d % 4))

/-- The physical die of a virtual die that is below NVDIE and has not failed. -/
def liveDie (c : Ctx) (v : Nat) : Option Nat :=
  (findVd c.s c.g.vd).bind (fun d => (d.inst v).bind (fun i => if i.failed then none else some i.pdie))

/-- VDHOP of two virtual dies (R178). -/
def vdhopVal (c : Ctx) (a b : Word) : Word :=
  match liveDie c a.toNat, liveDie c b.toNat with
  | some d, some e => BitVec.ofNat 32 (dieHops d e)
  | _, _ => 0xFFFFFFFF#32

/-- VDHOP (R178). -/
def execVdhop (w : FmtA) (s : State) : Host.Outcome State Fault Refusal :=
  plain (.vdhop w) s (fun c => put32 c w.u w.n w.d (fun l => vdhopVal c (op32 c w.a l) (srcB32 c w.x w.b l)))

/-- CYCLE: the die's cycle counter (R179). -/
def execCycle (w : FmtX) (s : State) : Host.Outcome State Fault Refusal :=
  plain (.cycle w) s (fun c => putResult c false w.n w.d 2 (fun _ => BitVec.ofNat 64 c.cycle))

end Sys2Proof.Machine
end

