-- ==== Sys2Proof/Machine/LaneOps.lean ====
section
/-! DEFINITION. Machine/LaneOps.lean: lane moves, group reductions, scans and votes (07 R173-R176; 06 R153). -/

namespace Sys2Proof.Machine

/-- The value lane l takes from a source lane: the source's when it is active, else the fill: itself or zero (R173). -/
def fromLane (c : Ctx) (a : BitVec 7) (self : Bool) (src : Option Nat) (l : Nat) : Word :=
  match src with
  | some j => if j < 32 && c.f.mask.getLsbD j then op32 c a j else if self then op32 c a l else 0#32
  | none => if self then op32 c a l else 0#32

/-- LANE.SHUP: data moves to higher lanes (R173). -/
def execLaneShup (w : FmtX) (f : BitVec 1) (k : BitVec 5) (s : State) : Host.Outcome State Fault Refusal :=
  plain (.laneShup w f k) s (fun c => put32 c false w.n w.d (fun l =>
    fromLane c w.a (f == 1#1) (if k.toNat ≤ l then some (l - k.toNat) else none) l))

/-- LANE.SHDN: data moves to lower lanes (R173). -/
def execLaneShdn (w : FmtX) (f : BitVec 1) (k : BitVec 5) (s : State) : Host.Outcome State Fault Refusal :=
  plain (.laneShdn w f k) s (fun c => put32 c false w.n w.d (fun l => fromLane c w.a (f == 1#1) (some (l + k.toNat)) l))

/-- LANE.XOR: a source outside Active takes the lane's own value (R173). -/
def execLaneXor (w : FmtX) (k : BitVec 5) (s : State) : Host.Outcome State Fault Refusal :=
  plain (.laneXor w k) s (fun c => put32 c false w.n w.d (fun l => fromLane c w.a true (some (l ^^^ k.toNat)) l))

/-- LANEIDX: the source lane is b[4:0]; x is the fill bit (R174). -/
def execLaneidx (w : FmtA) (s : State) : Host.Outcome State Fault Refusal :=
  plain (.laneidx w) s (fun c => put32 c false w.n w.d (fun l => fromLane c w.a w.x (some ((op32 c w.b l).toNat % 32)) l))

/-- BCAST: one source lane for the whole fragment, zero when it is not active (R174). DESIGN CHOICE (log 56): b may name a latch, of which a per-lane one supplies the leader's value. -/
def execBcast (w : FmtA) (s : State) : Host.Outcome State Fault Refusal :=
  plain (.bcast w) s (fun c =>
    let j := if w.x then w.b.toNat % 32 else (op32 c w.b (leader c.f.mask)).toNat % 32
    put32 c false w.n w.d (fun l => fromLane c w.a false (some j) l))

/-- The fixed reduction tree of R175 over the active lanes; none lanes are the identity. -/
def treeStep {α : Type} (f : α → α → α) (w : Nat) (x : List (Option α)) : List (Option α) :=
  (List.range 32).map (fun l =>
    if l % (2 * w) = 0 then
      match x.getD l none, x.getD (l + w) none with
      | some p, some q => some (f p q)
      | some p, none => some p
      | none, y => y
    else x.getD l none)

def treeReduce {α : Type} (f : α → α → α) (m : Mask) (a : Nat → α) : Option α :=
  let x0 := (List.range 32).map (fun l => if m.getLsbD l then some (a l) else none)
  (treeStep f 16 (treeStep f 8 (treeStep f 4 (treeStep f 2 (treeStep f 1 x0))))).getD 0 none

/-- An integer GRED: the tree of R175 with a combining operation; the result is uniform. -/
def gredInt (w : FmtX) (f : Word → Word → Word) (c : Ctx) : Ctx :=
  putUni c w.n w.d 1 (((treeReduce f c.f.mask (fun l => op32 c w.a l)).getD 0#32).setWidth 64)

/-- A floating-point GRED: each Combine rounds and sets flags (R175). -/
def gredF (w : FmtX) (f : Word → Word → Word × FFlags) (c : Ctx) : Ctx :=
  let r := (treeReduce (fun (p q : Word × FFlags) => ((f p.1 q.1).1, (p.2.or q.2).or (f p.1 q.1).2)) c.f.mask
    (fun l => (op32 c w.a l, ({} : FFlags)))).getD (0#32, {})
  putUni { c with g := setStat c.g r.2.bits } w.n w.d 1 (r.1.setWidth 64)

/-- GRED.ADD (R175, Table 7.6). -/
def execGredAdd (w : FmtX) (s : State) : Host.Outcome State Fault Refusal := plain (.gredAdd w) s (gredInt w (· + ·))
/-- GRED.MIN. -/
def execGredMin (w : FmtX) (s : State) : Host.Outcome State Fault Refusal := plain (.gredMin w) s (gredInt w iminOp)
/-- GRED.MAX. -/
def execGredMax (w : FmtX) (s : State) : Host.Outcome State Fault Refusal := plain (.gredMax w) s (gredInt w imaxOp)
/-- GRED.MINU. -/
def execGredMinu (w : FmtX) (s : State) : Host.Outcome State Fault Refusal := plain (.gredMinu w) s (gredInt w iminuOp)
/-- GRED.MAXU. -/
def execGredMaxu (w : FmtX) (s : State) : Host.Outcome State Fault Refusal := plain (.gredMaxu w) s (gredInt w imaxuOp)
/-- GRED.AND. -/
def execGredAnd (w : FmtX) (s : State) : Host.Outcome State Fault Refusal := plain (.gredAnd w) s (gredInt w (· &&& ·))
/-- GRED.OR. -/
def execGredOr (w : FmtX) (s : State) : Host.Outcome State Fault Refusal := plain (.gredOr w) s (gredInt w (· ||| ·))
/-- GRED.XOR. -/
def execGredXor (w : FmtX) (s : State) : Host.Outcome State Fault Refusal := plain (.gredXor w) s (gredInt w (· ^^^ ·))
/-- GRED.FADD. -/
def execGredFadd (w : FmtX) (s : State) : Host.Outcome State Fault Refusal :=
  plain (.gredFadd w) s (gredF w (fun p q => toW (fAdd fp32 .rne p.toNat q.toNat)))
/-- GRED.FMIN. -/
def execGredFmin (w : FmtX) (s : State) : Host.Outcome State Fault Refusal := plain (.gredFmin w) s (gredF w (fMinMax false))
/-- GRED.FMAX. -/
def execGredFmax (w : FmtX) (s : State) : Host.Outcome State Fault Refusal := plain (.gredFmax w) s (gredF w (fMinMax true))

/-- The prefix over the active lanes below l, and l itself when inclusive (R176). -/
def scanAt (f : Word → Word → Word) (z : Word) (m : Mask) (a : Nat → Word) (excl : Bool) (l : Nat) : Word :=
  ((lanesOf m).filter (fun j => if excl then decide (j < l) else decide (j ≤ l))).foldl (fun acc j => f acc (a j)) z

def gscan (w : FmtX) (e : BitVec 1) (f : Word → Word → Word) (z : Word) (c : Ctx) : Ctx :=
  put32 c false w.n w.d (fun l => scanAt f z c.f.mask (fun j => op32 c w.a j) (e == 1#1) l)

/-- GSCAN.ADD (R176). -/
def execGscanAdd (w : FmtX) (e : BitVec 1) (s : State) : Host.Outcome State Fault Refusal := plain (.gscanAdd w e) s (gscan w e (· + ·) 0#32)
/-- GSCAN.MIN: the identity is 0x7FFF_FFFF. -/
def execGscanMin (w : FmtX) (e : BitVec 1) (s : State) : Host.Outcome State Fault Refusal := plain (.gscanMin w e) s (gscan w e iminOp 0x7FFFFFFF#32)
/-- GSCAN.MAX: the identity is 0x8000_0000. -/
def execGscanMax (w : FmtX) (e : BitVec 1) (s : State) : Host.Outcome State Fault Refusal := plain (.gscanMax w e) s (gscan w e imaxOp 0x80000000#32)

/-- A VOTE: one 32-bit result from the active lanes' values, pushed as a uniform value (06 R153). -/
def vote (w : FmtX) (f : Mask → (Nat → Word) → Word) (c : Ctx) : Ctx := putUni c w.n w.d 1 ((f c.f.mask (fun l => op32 c w.a l)).setWidth 64)

/-- The active lanes whose value is not zero. -/
def ballot (m : Mask) (a : Nat → Word) : Mask := activeOf m (fun l => a l != 0#32)

/-- VOTE.ANY (06 Table 6.6). -/
def execVoteAny (w : FmtX) (s : State) : Host.Outcome State Fault Refusal :=
  plain (.voteAny w) s (vote w (fun m a => if ballot m a = 0#32 then 0#32 else 1#32))
/-- VOTE.ALL. -/
def execVoteAll (w : FmtX) (s : State) : Host.Outcome State Fault Refusal :=
  plain (.voteAll w) s (vote w (fun m a => if ballot m a = m then 1#32 else 0#32))
/-- VOTE.BALLOT. -/
def execVoteBallot (w : FmtX) (s : State) : Host.Outcome State Fault Refusal := plain (.voteBallot w) s (vote w ballot)
/-- VOTE.COUNT. -/
def execVoteCount (w : FmtX) (s : State) : Host.Outcome State Fault Refusal := plain (.voteCount w) s (vote w (fun m a => popcOp (ballot m a)))
/-- VOTE.FIRST. -/
def execVoteFirst (w : FmtX) (s : State) : Host.Outcome State Fault Refusal := plain (.voteFirst w) s (vote w (fun m a => ctzOp (ballot m a)))
/-- VOTE.UNIQ. -/
def execVoteUniq (w : FmtX) (s : State) : Host.Outcome State Fault Refusal :=
  plain (.voteUniq w) s (vote w (fun m a => activeOf m (fun l => (lanesOf m).all (fun j => decide (l ≤ j) || a j != a l))))

end Sys2Proof.Machine
end

