-- ==== Sys2Proof/Machine/Dispatch.lean ====
section
/-! DEFINITION. Machine/Dispatch.lean: exec, one arm for each constructor of Instr. -/

namespace Sys2Proof.Machine

def exec (i : Instr) (s : State) : Host.Outcome State Fault Refusal :=
  match i with
  | .bra w => Sys2Proof.Machine.execBra w s
  | .brc w => Sys2Proof.Machine.execBrc w s
  | .call w => Sys2Proof.Machine.execCall w s
  | .ret w => Sys2Proof.Machine.execRet w s
  | .jmpi w => Sys2Proof.Machine.execJmpi w s
  | .calli w => Sys2Proof.Machine.execCalli w s
  | .switch w => Sys2Proof.Machine.execSwitch w s
  | .recon w => Sys2Proof.Machine.execRecon w s
  | .join w => Sys2Proof.Machine.execJoin w s
  | .land w => Sys2Proof.Machine.execLand w s
  | .exit w => Sys2Proof.Machine.execExit w s
  | .nop w => Sys2Proof.Machine.execNop w s
  | .yield w => Sys2Proof.Machine.execYield w s
  | .voteAny w => Sys2Proof.Machine.execVoteAny w s
  | .voteAll w => Sys2Proof.Machine.execVoteAll w s
  | .voteBallot w => Sys2Proof.Machine.execVoteBallot w s
  | .voteCount w => Sys2Proof.Machine.execVoteCount w s
  | .voteFirst w => Sys2Proof.Machine.execVoteFirst w s
  | .voteUniq w => Sys2Proof.Machine.execVoteUniq w s
  | .winb w => Sys2Proof.Machine.execWinb w s
  | .trap w c => Sys2Proof.Machine.execTrap w c s
  | .bkpt w c => Sys2Proof.Machine.execBkpt w c s
  | .dstkDepth w => Sys2Proof.Machine.execDstkDepth w s
  | .dstkSpill w => Sys2Proof.Machine.execDstkSpill w s
  | .dstkFill w => Sys2Proof.Machine.execDstkFill w s
  | .iadd w => Sys2Proof.Machine.execIadd w s
  | .isub w => Sys2Proof.Machine.execIsub w s
  | .imul w => Sys2Proof.Machine.execImul w s
  | .imulh w => Sys2Proof.Machine.execImulh w s
  | .imulhu w => Sys2Proof.Machine.execImulhu w s
  | .imad w => Sys2Proof.Machine.execImad w s
  | .imin w => Sys2Proof.Machine.execImin w s
  | .imax w => Sys2Proof.Machine.execImax w s
  | .iminu w => Sys2Proof.Machine.execIminu w s
  | .imaxu w => Sys2Proof.Machine.execImaxu w s
  | .iunaryNeg w => Sys2Proof.Machine.execIunaryNeg w s
  | .iunaryAbs w => Sys2Proof.Machine.execIunaryAbs w s
  | .iunaryNot w => Sys2Proof.Machine.execIunaryNot w s
  | .iunaryPopc w => Sys2Proof.Machine.execIunaryPopc w s
  | .iunaryClz w => Sys2Proof.Machine.execIunaryClz w s
  | .iunaryCtz w => Sys2Proof.Machine.execIunaryCtz w s
  | .iunaryBrev w => Sys2Proof.Machine.execIunaryBrev w s
  | .iunaryBswap w => Sys2Proof.Machine.execIunaryBswap w s
  | .iunarySextb w => Sys2Proof.Machine.execIunarySextb w s
  | .iunarySexth w => Sys2Proof.Machine.execIunarySexth w s
  | .shl w => Sys2Proof.Machine.execShl w s
  | .shr w => Sys2Proof.Machine.execShr w s
  | .shra w => Sys2Proof.Machine.execShra w s
  | .rotl w => Sys2Proof.Machine.execRotl w s
  | .and w => Sys2Proof.Machine.execAnd w s
  | .or w => Sys2Proof.Machine.execOr w s
  | .xor w => Sys2Proof.Machine.execXor w s
  | .andn w => Sys2Proof.Machine.execAndn w s
  | .bfx w => Sys2Proof.Machine.execBfx w s
  | .bfi w => Sys2Proof.Machine.execBfi w s
  | .icmp w => Sys2Proof.Machine.execIcmp w s
  | .icmpu w => Sys2Proof.Machine.execIcmpu w s
  | .sel w => Sys2Proof.Machine.execSel w s
  | .movi w => Sys2Proof.Machine.execMovi w s
  | .movhi w => Sys2Proof.Machine.execMovhi w s
  | .mov w => Sys2Proof.Machine.execMov w s
  | .iadd64 w => Sys2Proof.Machine.execIadd64 w s
  | .lea w => Sys2Proof.Machine.execLea w s
  | .icmp64 w => Sys2Proof.Machine.execIcmp64 w s
  | .dp4 w => Sys2Proof.Machine.execDp4 w s
  | .vaddmin w => Sys2Proof.Machine.execVaddmin w s
  | .laneShup w f k => Sys2Proof.Machine.execLaneShup w f k s
  | .laneShdn w f k => Sys2Proof.Machine.execLaneShdn w f k s
  | .laneXor w k => Sys2Proof.Machine.execLaneXor w k s
  | .laneidx w => Sys2Proof.Machine.execLaneidx w s
  | .bcast w => Sys2Proof.Machine.execBcast w s
  | .gredAdd w => Sys2Proof.Machine.execGredAdd w s
  | .gredMin w => Sys2Proof.Machine.execGredMin w s
  | .gredMax w => Sys2Proof.Machine.execGredMax w s
  | .gredMinu w => Sys2Proof.Machine.execGredMinu w s
  | .gredMaxu w => Sys2Proof.Machine.execGredMaxu w s
  | .gredAnd w => Sys2Proof.Machine.execGredAnd w s
  | .gredOr w => Sys2Proof.Machine.execGredOr w s
  | .gredXor w => Sys2Proof.Machine.execGredXor w s
  | .gredFadd w => Sys2Proof.Machine.execGredFadd w s
  | .gredFmin w => Sys2Proof.Machine.execGredFmin w s
  | .gredFmax w => Sys2Proof.Machine.execGredFmax w s
  | .gscanAdd w e => Sys2Proof.Machine.execGscanAdd w e s
  | .gscanMin w e => Sys2Proof.Machine.execGscanMin w e s
  | .gscanMax w e => Sys2Proof.Machine.execGscanMax w e s
  | .getidLane w => Sys2Proof.Machine.execGetidLane w s
  | .getidGroup w => Sys2Proof.Machine.execGetidGroup w s
  | .getidTeamx w => Sys2Proof.Machine.execGetidTeamx w s
  | .getidTeamy w => Sys2Proof.Machine.execGetidTeamy w s
  | .getidTeamz w => Sys2Proof.Machine.execGetidTeamz w s
  | .getidRole w => Sys2Proof.Machine.execGetidRole w s
  | .getidVdie w => Sys2Proof.Machine.execGetidVdie w s
  | .getidNvdie w => Sys2Proof.Machine.execGetidNvdie w s
  | .getidCluster w => Sys2Proof.Machine.execGetidCluster w s
  | .getidBay w => Sys2Proof.Machine.execGetidBay w s
  | .getidGridx w => Sys2Proof.Machine.execGetidGridx w s
  | .getidGridy w => Sys2Proof.Machine.execGetidGridy w s
  | .getidGridz w => Sys2Proof.Machine.execGetidGridz w s
  | .vdhop w => Sys2Proof.Machine.execVdhop w s
  | .cycle w => Sys2Proof.Machine.execCycle w s
  | .fadd w => Sys2Proof.Machine.execFadd w s
  | .fsub w => Sys2Proof.Machine.execFsub w s
  | .fmul w => Sys2Proof.Machine.execFmul w s
  | .ffma w => Sys2Proof.Machine.execFfma w s
  | .fmin w => Sys2Proof.Machine.execFmin w s
  | .fmax w => Sys2Proof.Machine.execFmax w s
  | .fcmp w => Sys2Proof.Machine.execFcmp w s
  | .funaryNeg w => Sys2Proof.Machine.execFunaryNeg w s
  | .funaryAbs w => Sys2Proof.Machine.execFunaryAbs w s
  | .funaryRcp w => Sys2Proof.Machine.execFunaryRcp w s
  | .funaryRsq w => Sys2Proof.Machine.execFunaryRsq w s
  | .funarySqrt w => Sys2Proof.Machine.execFunarySqrt w s
  | .funaryExp2 w => Sys2Proof.Machine.execFunaryExp2 w s
  | .funaryLog2 w => Sys2Proof.Machine.execFunaryLog2 w s
  | .funarySinpi w => Sys2Proof.Machine.execFunarySinpi w s
  | .funaryCospi w => Sys2Proof.Machine.execFunaryCospi w s
  | .funaryFloor w => Sys2Proof.Machine.execFunaryFloor w s
  | .funaryCeil w => Sys2Proof.Machine.execFunaryCeil w s
  | .funaryTrunc w => Sys2Proof.Machine.execFunaryTrunc w s
  | .funaryRndne w => Sys2Proof.Machine.execFunaryRndne w s
  | .funaryFract w => Sys2Proof.Machine.execFunaryFract w s
  | .fscale w => Sys2Proof.Machine.execFscale w s
  | .hadd2 w => Sys2Proof.Machine.execHadd2 w s
  | .hmul2 w => Sys2Proof.Machine.execHmul2 w s
  | .hfma2 w => Sys2Proof.Machine.execHfma2 w s
  | .badd2 w => Sys2Proof.Machine.execBadd2 w s
  | .bmul2 w => Sys2Proof.Machine.execBmul2 w s
  | .bfma2 w => Sys2Proof.Machine.execBfma2 w s
  | .famax w => Sys2Proof.Machine.execFamax w s
  | .cvt w t q m => Sys2Proof.Machine.execCvt w t q m s
  | .cvtn w => Sys2Proof.Machine.execCvtn w s
  | .qscale w => Sys2Proof.Machine.execQscale w s
  | .cbld w k => Sys2Proof.Machine.execCbld w k s
  | .cbdec w => Sys2Proof.Machine.execCbdec w s
  | .mma w => Sys2Proof.Machine.execMma w s
  | .mmaf w => Sys2Proof.Machine.execMmaf w s
  | .mmaz w => Sys2Proof.Machine.execMmaz w s
  | .tzero w => Sys2Proof.Machine.execTzero w s
  | .trd w => Sys2Proof.Machine.execTrd w s
  | .twr w => Sys2Proof.Machine.execTwr w s
  | .twm w => Sys2Proof.Machine.execTwm w s
  | .fhset w => Sys2Proof.Machine.execFhset w s
  | .tcvt w => Sys2Proof.Machine.execTcvt w s
  | .tscl w => Sys2Proof.Machine.execTscl w s
  | .ldb w => Sys2Proof.Machine.execLdb w s
  | .ldh w => Sys2Proof.Machine.execLdh w s
  | .ldw w => Sys2Proof.Machine.execLdw w s
  | .ldd w => Sys2Proof.Machine.execLdd w s
  | .ldq w => Sys2Proof.Machine.execLdq w s
  | .stb w => Sys2Proof.Machine.execStb w s
  | .sth w => Sys2Proof.Machine.execSth w s
  | .stw w => Sys2Proof.Machine.execStw w s
  | .std w => Sys2Proof.Machine.execStd w s
  | .stq w => Sys2Proof.Machine.execStq w s
  | .ldxLdsc w r => Sys2Proof.Machine.execLdxLdsc w r s
  | .ldxLsib w r j => Sys2Proof.Machine.execLdxLsib w r j s
  | .ldxLdnc w r q => Sys2Proof.Machine.execLdxLdnc w r q s
  | .ldxPref w => Sys2Proof.Machine.execLdxPref w s
  | .lds w => Sys2Proof.Machine.execLds w s
  | .sts w => Sys2Proof.Machine.execSts w s
  | .memxFence w q => Sys2Proof.Machine.execMemxFence w q s
  | .memxFenceva w => Sys2Proof.Machine.execMemxFenceva w s
  | .memxWaitc w c => Sys2Proof.Machine.execMemxWaitc w c s
  | .memxCntq w c => Sys2Proof.Machine.execMemxCntq w c s
  | .memxCinv w => Sys2Proof.Machine.execMemxCinv w s
  | .memxSplitq w => Sys2Proof.Machine.execMemxSplitq w s
  | .drayCopy w m => Sys2Proof.Machine.execDrayCopy w m s
  | .drayCopy2d w m => Sys2Proof.Machine.execDrayCopy2d w m s
  | .drayGather w m => Sys2Proof.Machine.execDrayGather w m s
  | .drayScatter w m => Sys2Proof.Machine.execDrayScatter w m s
  | .draySpill w m => Sys2Proof.Machine.execDraySpill w m s
  | .drayGcopy w m => Sys2Proof.Machine.execDrayGcopy w m s
  | .drayPut w m => Sys2Proof.Machine.execDrayPut w m s
  | .drayGet w m => Sys2Proof.Machine.execDrayGet w m s
  | .drayFill w m => Sys2Proof.Machine.execDrayFill w m s
  | .drayPoolfill w m => Sys2Proof.Machine.execDrayPoolfill w m s
  | .drayPoolcmp w m => Sys2Proof.Machine.execDrayPoolcmp w m s
  | .drayPoolred w m => Sys2Proof.Machine.execDrayPoolred w m s
  | .drayPub w m => Sys2Proof.Machine.execDrayPub w m s
  | .drayStat w => Sys2Proof.Machine.execDrayStat w s
  | .dwaitOne w => Sys2Proof.Machine.execDwaitOne w s
  | .dwaitAll w => Sys2Proof.Machine.execDwaitAll w s
  | .barInit w => Sys2Proof.Machine.execBarInit w s
  | .barArr w => Sys2Proof.Machine.execBarArr w s
  | .barArrn w => Sys2Proof.Machine.execBarArrn w s
  | .barExpb w => Sys2Proof.Machine.execBarExpb w s
  | .barWait w p => Sys2Proof.Machine.execBarWait w p s
  | .barTry w p => Sys2Proof.Machine.execBarTry w p s
  | .barQry w => Sys2Proof.Machine.execBarQry w s
  | .atarithAdd w => Sys2Proof.Machine.execAtarithAdd w s
  | .atarithFadd w => Sys2Proof.Machine.execAtarithFadd w s
  | .atarithDecp w => Sys2Proof.Machine.execAtarithDecp w s
  | .atarithIncw w => Sys2Proof.Machine.execAtarithIncw w s
  | .atminmaxMin w => Sys2Proof.Machine.execAtminmaxMin w s
  | .atminmaxMax w => Sys2Proof.Machine.execAtminmaxMax w s
  | .atminmaxMinu w => Sys2Proof.Machine.execAtminmaxMinu w s
  | .atminmaxMaxu w => Sys2Proof.Machine.execAtminmaxMaxu w s
  | .atlogicAnd w => Sys2Proof.Machine.execAtlogicAnd w s
  | .atlogicOr w => Sys2Proof.Machine.execAtlogicOr w s
  | .atlogicXor w => Sys2Proof.Machine.execAtlogicXor w s
  | .atlogicSwap w => Sys2Proof.Machine.execAtlogicSwap w s
  | .atcasCas32 w => Sys2Proof.Machine.execAtcasCas32 w s
  | .atcasCas64 w => Sys2Proof.Machine.execAtcasCas64 w s
  | .atcasAdd64 w => Sys2Proof.Machine.execAtcasAdd64 w s
  | .redAdd w => Sys2Proof.Machine.execRedAdd w s
  | .redFadd w => Sys2Proof.Machine.execRedFadd w s
  | .redMin w => Sys2Proof.Machine.execRedMin w s
  | .redMax w => Sys2Proof.Machine.execRedMax w s
  | .waita w => Sys2Proof.Machine.execWaita w s
  | .waitaTo w => Sys2Proof.Machine.execWaitaTo w s
  | .wakeOne w => Sys2Proof.Machine.execWakeOne w s
  | .wakeAll w => Sys2Proof.Machine.execWakeAll w s
  | .rcn w => Sys2Proof.Machine.execRcn w s
  | .rcnD w => Sys2Proof.Machine.execRcnD w s
  | .send w c => Sys2Proof.Machine.execSend w c s
  | .recv w c => Sys2Proof.Machine.execRecv w c s
  | .chq w c => Sys2Proof.Machine.execChq w c s
  | .syscall w => Sys2Proof.Machine.execSyscall w s
  | .eret w => Sys2Proof.Machine.execEret w s
  | .wfi w => Sys2Proof.Machine.execWfi w s
  | .halt w => Sys2Proof.Machine.execHalt w s
  | .csrr w => Sys2Proof.Machine.execCsrr w s
  | .csrw w => Sys2Proof.Machine.execCsrw w s
  | .rlySend w => Sys2Proof.Machine.execRlySend w s
  | .rlyRecv w => Sys2Proof.Machine.execRlyRecv w s
  | .rlyPoll w => Sys2Proof.Machine.execRlyPoll w s
  | .xlatInvr w => Sys2Proof.Machine.execXlatInvr w s
  | .xlatBlock w => Sys2Proof.Machine.execXlatBlock w s
  | .xlatPurge w => Sys2Proof.Machine.execXlatPurge w s
  | .xlatProbe w => Sys2Proof.Machine.execXlatProbe w s
  | .xlatScrub w => Sys2Proof.Machine.execXlatScrub w s
  | .xlatPin w => Sys2Proof.Machine.execXlatPin w s
  | .pwrIslq w f => Sys2Proof.Machine.execPwrIslq w f s
  | .pwrDorm w => Sys2Proof.Machine.execPwrDorm w s
  | .pwrWakeq w => Sys2Proof.Machine.execPwrWakeq w s
  | .launch vd off size val => Sys2Proof.Machine.execLaunch vd off size val s
  | .wakeWrite vd size => Sys2Proof.Machine.execWakeWrite vd size s
  | .registerWrite vd off size val => Sys2Proof.Machine.execRegisterWrite vd off size val s
  | .hwbaseWrite vd val => Sys2Proof.Machine.execHwbaseWrite vd val s
  | .hostApertureAccess vd off size isWrite val => Sys2Proof.Machine.execHostApertureAccess vd off size isWrite val s
  | .functionLevelReset fn => Sys2Proof.Machine.execFunctionLevelReset fn s
  | .registerAGraph vd => Sys2Proof.Machine.execRegisterAGraph vd s
  | .unregister vd => Sys2Proof.Machine.execUnregister vd s
  | .createAVd desc setup => Sys2Proof.Machine.execCreateAVd desc setup s
  | .destroyAVd num => Sys2Proof.Machine.execDestroyAVd num s
  | .resetTheVf num => Sys2Proof.Machine.execResetTheVf num s
  | .unknownOperationCode vd => Sys2Proof.Machine.execUnknownOperationCode vd s
  | .vfReset vd => Sys2Proof.Machine.execVfReset vd s
  | .dispatchTeam vd vdie => Sys2Proof.Machine.execDispatchTeam vd vdie s
  | .stealRequest vd vdie => Sys2Proof.Machine.execStealRequest vd vdie s
  | .stealHandled id => Sys2Proof.Machine.execStealHandled id s
  | .stealReply id => Sys2Proof.Machine.execStealReply id s
  | .compactionMove die cluster blk dst => Sys2Proof.Machine.execCompactionMove die cluster blk dst s
  | .compactorRetry vd vdie => Sys2Proof.Machine.execCompactorRetry vd vdie s
  | .steeringCap vd vdie => Sys2Proof.Machine.execSteeringCap vd vdie s
  | .imeasUpdate field val => Sys2Proof.Machine.execImeasUpdate field val s
  | .tokenRefill vd die => Sys2Proof.Machine.execTokenRefill vd die s
  | .egressRelease vd die => Sys2Proof.Machine.execEgressRelease vd die s
  | .surgeGrant field => Sys2Proof.Machine.execSurgeGrant field s
  | .dieFailure die => Sys2Proof.Machine.execDieFailure die s
  | .workBegins vd => Sys2Proof.Machine.execWorkBegins vd s
  | .workEnds vd => Sys2Proof.Machine.execWorkEnds vd s
  | .timerExpires vd => Sys2Proof.Machine.execTimerExpires vd s
  | .collapseStepDone vd => Sys2Proof.Machine.execCollapseStepDone vd s
  | .saveFaultInStep1 vd => Sys2Proof.Machine.execSaveFaultInStep1 vd s
  | .wakeDone vd us => Sys2Proof.Machine.execWakeDone vd us s
  | .issueChoice site bay => Sys2Proof.Machine.execIssueChoice site bay s
  | .sliceRequest req => Sys2Proof.Machine.execSliceRequest req s
  | .homePerform req => Sys2Proof.Machine.execHomePerform req s
  | .remoteWriteback die pa => Sys2Proof.Machine.execRemoteWriteback die pa s
  | .replyArrives req => Sys2Proof.Machine.execReplyArrives req s
  | .remapResend req => Sys2Proof.Machine.execRemapResend req s
  | .blockAtSlice op die slice => Sys2Proof.Machine.execBlockAtSlice op die slice s
  | .purgeAtSlice op die slice => Sys2Proof.Machine.execPurgeAtSlice op die slice s
  | .shootdownComplete op => Sys2Proof.Machine.execShootdownComplete op s
  | .pubSliceBlock cmd die slice => Sys2Proof.Machine.execPubSliceBlock cmd die slice s
  | .swapPoint cmd => Sys2Proof.Machine.execSwapPoint cmd s
  | .sliceMapChange die keep => Sys2Proof.Machine.execSliceMapChange die keep s
  | .sweepPassStart vd => Sys2Proof.Machine.execSweepPassStart vd s
  | .sweepPassEnd vd => Sys2Proof.Machine.execSweepPassEnd vd s
  | .drayUnitDone cmd => Sys2Proof.Machine.execDrayUnitDone cmd s
  | .drayComplete cmd err => Sys2Proof.Machine.execDrayComplete cmd err s
  | .drayRemainderResume handle vd => Sys2Proof.Machine.execDrayRemainderResume handle vd s
  | .poolResponse port vd devLoad => Sys2Proof.Machine.execPoolResponse port vd devLoad s
  | .monitorWake mon => Sys2Proof.Machine.execMonitorWake mon s
  | .waitaTimeout mon => Sys2Proof.Machine.execWaitaTimeout mon s
  | .mmafRendezvous team group => Sys2Proof.Machine.execMmafRendezvous team group s
  | .wfiWake vd handle => Sys2Proof.Machine.execWfiWake vd handle s
  | .ktimerExpires vd vdie => Sys2Proof.Machine.execKtimerExpires vd vdie s
  | .groupStop vd handle => Sys2Proof.Machine.execGroupStop vd handle s
  | .saveComplete vd handle => Sys2Proof.Machine.execSaveComplete vd handle s
  | .faultRecordPost vd vdie => Sys2Proof.Machine.execFaultRecordPost vd vdie s
  | .saveWriteFault vd handle => Sys2Proof.Machine.execSaveWriteFault vd handle s
  | .groupRestore vd handle => Sys2Proof.Machine.execGroupRestore vd handle s
  | .quantumExpires team => Sys2Proof.Machine.execQuantumExpires team s
  | .watchdog die cluster => Sys2Proof.Machine.execWatchdog die cluster s
  | .drainEnd vd handle => Sys2Proof.Machine.execDrainEnd vd handle s
  | .teamRetire team => Sys2Proof.Machine.execTeamRetire team s
  | .relayMessageArrives vd vdie => Sys2Proof.Machine.execRelayMessageArrives vd vdie s
  | .opent vd => Sys2Proof.Machine.execOpent vd s
  | .opens vd peer => Sys2Proof.Machine.execOpens vd peer s
  | .close vd => Sys2Proof.Machine.execClose vd s
  | .abort vd => Sys2Proof.Machine.execAbort vd s
  | .couplerPutArrives win off bytes part => Sys2Proof.Machine.execCouplerPutArrives win off bytes part s
  | .putAcknowledged cmd => Sys2Proof.Machine.execPutAcknowledged cmd s
  | .integrity req pa => Sys2Proof.Machine.execIntegrity req pa s
  | .fieldInService field => Sys2Proof.Machine.execFieldInService field s
  | .earlyServiceEnd => Sys2Proof.Machine.execEarlyServiceEnd s
  | .fieldRecalibration field => Sys2Proof.Machine.execFieldRecalibration field s
  | .hbmChannelService die chan => Sys2Proof.Machine.execHbmChannelService die chan s
  | .couplerPortService port => Sys2Proof.Machine.execCouplerPortService port s
  | .smcFailover => Sys2Proof.Machine.execSmcFailover s
  | .packageReset => Sys2Proof.Machine.execPackageReset s
  | .managementPathWrite what => Sys2Proof.Machine.execManagementPathWrite what s
  | .peerAbort tag => Sys2Proof.Machine.execPeerAbort tag s
  | .recalibrationEnd field => Sys2Proof.Machine.execRecalibrationEnd field s
  | .computeDieRetirement die => Sys2Proof.Machine.execComputeDieRetirement die s

end Sys2Proof.Machine
end

