-- ==== Sys2Proof/WellFormed.lean ====
section
/-! DEFINITION. WellFormed.lean: the well-formed instructions are the legal encodings (05 R123) and the steps of the package. -/

namespace Sys2Proof

/-- A word whose fields break no rule that the word alone decides, or a step of the package. -/
abbrev WellFormed (i : Instr) : Prop := Machine.legal i = true

end Sys2Proof
end

