-- ==== Sys2Proof/Machine/Step.lean ====
section
/-! DEFINITION. Machine/Step.lean: one step of the package, and placing one word where the next step fetches it. -/

namespace Sys2Proof.Machine

/-- What the fragment that is issuing executes next: the word at its PC, or its group's first replay entry (06 R140; 16 R400). -/
def headWord (s : State) (u : Cur) : Option (Except Trap Word) :=
  match findGroup s u.gid with
  | none => none
  | some g =>
    if g.status != .running then none
    else match g.replay, g.frags[u.fi]? with
      | r :: _, _ => some (.ok r.word)
      | [], some f => some (fetchWord s g f.pc)
      | [], none => none

/-- Whether a block holds the fetch of the word that the fragment that is issuing executes next (12 R298). -/
def headStalls (s : State) (u : Cur) : Bool :=
  (findGroup s u.gid).any (fun g => g.replay.isEmpty && (g.frags[u.fi]?).any (fun f => fetchStalls s g f.pc))

/-- The fragment that is issuing delivers the trap that its wait has ended in, or executes its word (05 R123-R125; 06 R135); while a block holds the fetch, it counts as tried. -/
def stepWord (s : State) (u : Cur) : Host.Outcome State Fault Refusal :=
  match headDue s u with
  | some t => issueDue t s
  | none =>
    match headWord s u with
    | none => .next { s with cur := none }
    | some w =>
      if headStalls s u then .next { s with cur := none, tried := u :: s.tried }
      else match w with
        | .error t => issueFetchFault t s
        | .ok x =>
          match decodeWord x with
          | .ok i => exec i s
          | .error _ => issueBad x s

/-- One step: the word of the fragment that is issuing, else the first event of the agenda, else an event that the package's own agents bring about (log 2). -/
def step (s : State) : Host.Outcome State Fault Refusal :=
  match s.cur with
  | some u => stepWord s u
  | none =>
    match s.agenda with
    | i :: r => exec i { s with agenda := r }
    | [] => idle s

/-! ### Placing a word -/

/-- Where withFetchWord puts its word: an address of the HBM of die 0, mapped at the same virtual address. -/
def bootPc : Nat := 2 ^ 28

/-- Where the stage-2 tables of that virtual device lie. -/
def bootTables : Nat := 2 ^ 29

/-- The graph whose code the word belongs to: one image in the first page of the code region. -/
def bootGraph : Graph :=
  { handle := 1, asid := 0, nodes := [], edges := [],
    images := [{ src := 0, code := bootPc, codeSize := 64, const := 0, constSize := 0, pages := [0], argSize := 0, roles := [], split := 0, nbars := 0, chans := [], scratch := 0,
                 fourhand := false }],
    live := true }

/-- The virtual device that withFetchWord runs its word in: one die, one cluster. -/
def bootVd : Vd :=
  { num := 0
    desc := { wclass := 0, sibmax := 4, idlems := 1, monlim := 1024, quantus := 1000, priomax := 7, splits := 15, arena := 0, arenasz := 0,
              dies := [{ pdie := 0, clim := 0, cbase := 0, slices := 0xFFFFFFFFFFFFFFFF#64 }], rreq := 0, rburst := 0, saveBase := 2 ^ 32, s2root := bootTables, asidBase := 0, asidCnt := 1 }
    insts := [{ vdie := 0, pdie := 0, failed := false, s1tab := 0#64, quant := 1000, debt := 0, frbase := 0#64, frset := false, frhead := 0#32, frtail := 0#32, frlost := 0#32,
                ktimer := 0#64, queue := [], inbox := [], bells := [], records := [], ranges := [], tokens := 0, vec := List.replicate 8 0, base := 0, lag := false,
                s1gen := 0#32, s2gen := 0#32 }]
    graphs := [bootGraph], launches := [], steals := [], state := .active, timer := false, due := false, steps := 0, interrupted := false, wakeCause := 0, wakeUs := 0#32, waits := false,
    cfail := false, savef := false, resetting := false, dropCause := 0, dropCount := 0, felast := 0#64, feacc := 0#32, fecmp := 0#32, hwva := 0, hwasid := 0, hwerr := 0,
    codeVa := 2 ^ 27, codeNext := bootPc + 65536, codePa := bootPc, kernelPa := 2 ^ 27, saveGpa := 2 ^ 44, tables := [], kernelEntry := BitVec.ofNat 64 (2 ^ 27), relaySeq := 1, pass := 0,
    sweeping := false, snapshot := [], order := 0 }

/-- The team of that word: one group, the largest scratchpad of split 0. -/
def bootTeam (tid : Nat) (site : Site) (kernel : Bool) : Team :=
  { tid := tid, vd := 0, vdie := 0, site := site, kernel := kernel, launch := 0, node := 0, lin := 0, tx := 0, ty := 0, tz := 0, gx := 1, gy := 1, gz := 1,
    roles := [{ entry := 0, vregs := 512, tiles := 16, groups := 1 }], scratch := 0x40000, nbars := 1, fourhand := false, split := 0, block := 0, size := 0x40000, chans := [],
    unit0 := 0, cbUsed := false, status := .resident, saveBlk := none, drained := 0, quantum := 0, grace := 0, held := none }

/-- Its group, at the level its word needs: on a cluster at U, on the supervisor core at K, on the SMC core at M. -/
def bootGroup (gid tid : Nat) (site : Site) (l : Level) (cycle : Nat) : Group :=
  { gid := gid, vd := 0, vdie := 0, site := site, bay := 0, slot := 0, level := l, team := tid, num := 0, role := 0, handle := 0, prio := 0, status := .running,
    vregs := 512, tiles := 16, regBlk := 0, tileBlk := 0, v := [], s := [], p := [], t := [], wbase := 0#64, gstat := 0#64, gcfg := 0#64, chteam := 0#64,
    trapc := 0#64, trappc := 0#64, trapv := 0#64, trapm := 0#64, detail := 0#8, frags := [newFrag (BitVec.ofNat 64 bootPc) 0xFFFFFFFF#32 cycle], lastFrag := 0, stack := [],
    spilled := 0, exited := 0#32, fhspec := 0#64, fhcount := 0, fhFinal := 0, fhbroken := false, refuse := none, dlog := [], drayId := 1#16, cg := [], cs := [], cf := [], cw := [], flights := [], sends := [], rows := [],
    replay := [], remainders := [], kept := [], owed := false, refault := false, vaFences := 0 }

/-- Where a group of a level runs in that virtual device. -/
def bootSite : Level → Site
  | .u => .cluster 0 0
  | .k => .core 0 0
  | .m => .smc

/-- The level a word needs: that of its shape, the lowest for a word that is no instruction. -/
def bootLevel (nbits w : Nat) : Level := ((decodeTableWord nbits w).map (fun i => (shape i).priv)).getD .u

/-- The state with an instruction's word, and zeros up to the longest instruction, stored where the next step fetches: a group of a fresh virtual device 0, the first GiB of whose memory
one leaf maps, and whose fragment is about to issue (log 12). -/
def State.withFetchWord (s : State) (nbits w : Nat) : State :=
  let l := bootLevel nbits w
  let g := s.nextId
  { s with
    vds := bootVd :: s.vds.filter (fun v => v.num != 0)
    teams := bootTeam (g + 1) (bootSite l) (l != .u) :: s.teams.filter (fun t => t.tid != g + 1)
    groups := bootGroup g (g + 1) (bootSite l) l (cycleOf s 0) :: s.groups.filter (fun h => h.gid != g)
    stc := s.stc.filter (fun e => e.vd != 0)
    remote := s.remote.filter (fun r => r.vd != 0)
    failed := s.failed.filter (fun d => d != 0)
    mem := wrBytes (wrBytes (wrBytes s.mem bootPc (w % 2 ^ 32) 48) bootTables (bootTables + 0x1001) 8) (bootTables + 0x1000) 0x3B 8
    blocks := s.blocks.filter (fun b => b.vd != 0)
    nextId := g + 2
    cur := some { gid := g, fi := 0 } }

end Sys2Proof.Machine
end

