-- ==== Sys2Proof/Laws/PerInstr.lean ====
section
/-! SUPPORT. Laws/PerInstr.lean: the decoder reads back what the encoder lays out, one lemma per constructor of Instr. -/

namespace Sys2Proof.Laws

set_option Elab.async false

/-! ### Bits as numbers -/

theorem toNat_app {n m : Nat} (x : BitVec n) (y : BitVec m) : (x ++ y).toNat = x.toNat * 2 ^ m + y.toNat := by
  rw [BitVec.toNat_append, ← Nat.shiftLeft_add_eq_or_of_lt y.isLt, Nat.shiftLeft_eq]

theorem bitAt_eq (w : Word) (i : Nat) : bitAt w i = decide (w.toNat / 2 ^ i % 2 = 1) := by
  unfold bitAt; rw [BitVec.getLsbD, Nat.testBit_eq_decide_div_mod_eq]

theorem toNat_bit1 (b : Bool) : (bit1 b).toNat = b.toNat := by cases b <;> rfl

theorem toNat_extract (w : Word) (s n : Nat) : (w.extractLsb' s n).toNat = w.toNat / 2 ^ s % 2 ^ n := by
  rw [BitVec.extractLsb'_toNat, Nat.shiftRight_eq_div_pow]

/-! ### The formats -/

theorem toNat_packA (op : BitVec 7) (w : FmtA) : (packA op w).toNat = (((((((op.toNat) * 2 ^ 7 + w.d.toNat) * 2 ^ 7 + w.a.toNat) * 2 ^ 7 + w.b.toNat) * 2 ^ 1 + (bit1 w.x).toNat) * 2 ^ 1 + (bit1 w.u).toNat) * 2 ^ 1 + (bit1 w.n).toNat) * 2 ^ 1 + (bit1 w.z).toNat := by
  unfold packA; rw [toNat_app, toNat_app, toNat_app, toNat_app, toNat_app, toNat_app, toNat_app]

theorem major_packA (op : BitVec 7) (w : FmtA) : (packA op w).extractLsb' 25 7 = op := by
  apply BitVec.eq_of_toNat_eq
  rw [toNat_extract, toNat_packA]
  simp only [toNat_bit1]
  have := op.isLt; have := w.d.isLt; have := w.a.isLt; have := w.b.isLt; have := Bool.toNat_lt w.x; have := Bool.toNat_lt w.u; have := Bool.toNat_lt w.n; have := Bool.toNat_lt w.z
  omega

theorem fields_packA (op : BitVec 7) (w : FmtA) : fieldsA (packA op w) = w := by
  obtain ⟨d, a, b, x, u, n, z⟩ := w
  simp only [fieldsA, FmtA.mk.injEq, bitAt_eq, ← BitVec.toNat_inj, toNat_extract, toNat_packA, toNat_bit1]
  have := op.isLt; have := d.isLt; have := a.isLt; have := b.isLt
  cases x <;> cases u <;> cases n <;> cases z <;> simp <;> omega

theorem toNat_packJ (op : BitVec 7) (x : Bool) (w : FmtJ) : (packJ op x w).toNat = (((((((op.toNat) * 2 ^ 7 + w.d.toNat) * 2 ^ 7 + w.a.toNat) * 2 ^ 7 + w.b.toNat) * 2 ^ 1 + (bit1 x).toNat) * 2 ^ 1 + (bit1 w.u).toNat) * 2 ^ 1 + (bit1 w.n).toNat) * 2 ^ 1 + (bit1 w.z).toNat := by
  unfold packJ; rw [toNat_app, toNat_app, toNat_app, toNat_app, toNat_app, toNat_app, toNat_app]

theorem major_packJ (op : BitVec 7) (x : Bool) (w : FmtJ) : (packJ op x w).extractLsb' 25 7 = op := by
  apply BitVec.eq_of_toNat_eq
  rw [toNat_extract, toNat_packJ]
  simp only [toNat_bit1]
  have := op.isLt; have := w.d.isLt; have := w.a.isLt; have := w.b.isLt; have := Bool.toNat_lt x; have := Bool.toNat_lt w.u; have := Bool.toNat_lt w.n; have := Bool.toNat_lt w.z
  omega

theorem fields_packJ (op : BitVec 7) (x : Bool) (w : FmtJ) : fieldsJ (packJ op x w) = w := by
  obtain ⟨d, a, b, u, n, z⟩ := w
  simp only [fieldsJ, FmtJ.mk.injEq, bitAt_eq, ← BitVec.toNat_inj, toNat_extract, toNat_packJ, toNat_bit1]
  have := op.isLt; have := d.isLt; have := a.isLt; have := b.isLt
  cases x <;> cases u <;> cases n <;> cases z <;> simp <;> omega

theorem toNat_packP (op : BitVec 7) (w : FmtP) : (packP op w).toNat = ((((((((op.toNat) * 2 ^ 3 + w.pd.toNat) * 2 ^ 4 + w.cond.toNat) * 2 ^ 7 + w.a.toNat) * 2 ^ 7 + w.b.toNat) * 2 ^ 1 + (bit1 w.x).toNat) * 2 ^ 1 + (bit1 w.u).toNat) * 2 ^ 1 + 0) * 2 ^ 1 + (bit1 w.z).toNat := by
  unfold packP; rw [toNat_app, toNat_app, toNat_app, toNat_app, toNat_app, toNat_app, toNat_app, toNat_app]; rfl

theorem major_packP (op : BitVec 7) (w : FmtP) : (packP op w).extractLsb' 25 7 = op := by
  apply BitVec.eq_of_toNat_eq
  rw [toNat_extract, toNat_packP]
  simp only [toNat_bit1]
  have := op.isLt; have := w.pd.isLt; have := w.cond.isLt; have := w.a.isLt; have := w.b.isLt; have := Bool.toNat_lt w.x; have := Bool.toNat_lt w.u; have := Bool.toNat_lt w.z
  omega

theorem fields_packP (op : BitVec 7) (w : FmtP) : fieldsP (packP op w) = w := by
  obtain ⟨pd, cond, a, b, x, u, z⟩ := w
  simp only [fieldsP, FmtP.mk.injEq, bitAt_eq, ← BitVec.toNat_inj, toNat_extract, toNat_packP, toNat_bit1]
  have := op.isLt; have := pd.isLt; have := cond.isLt; have := a.isLt; have := b.isLt
  cases x <;> cases u <;> cases z <;> simp <;> omega

theorem toNat_packQ (op : BitVec 7) (w : FmtQ) : (packQ op w).toNat = (((((op.toNat) * 2 ^ 7 + w.d.toNat) * 2 ^ 7 + w.a.toNat) * 2 ^ 7 + w.b.toNat) * 2 ^ 3 + w.ps.toNat) * 2 ^ 1 + (bit1 w.n).toNat := by
  unfold packQ; rw [toNat_app, toNat_app, toNat_app, toNat_app, toNat_app]

theorem major_packQ (op : BitVec 7) (w : FmtQ) : (packQ op w).extractLsb' 25 7 = op := by
  apply BitVec.eq_of_toNat_eq
  rw [toNat_extract, toNat_packQ]
  simp only [toNat_bit1]
  have := op.isLt; have := w.d.isLt; have := w.a.isLt; have := w.b.isLt; have := w.ps.isLt; have := Bool.toNat_lt w.n
  omega

theorem fields_packQ (op : BitVec 7) (w : FmtQ) : fieldsQ (packQ op w) = w := by
  obtain ⟨d, a, b, ps, n⟩ := w
  simp only [fieldsQ, FmtQ.mk.injEq, bitAt_eq, ← BitVec.toNat_inj, toNat_extract, toNat_packQ, toNat_bit1]
  have := op.isLt; have := d.isLt; have := a.isLt; have := b.isLt; have := ps.isLt
  cases n <;> simp <;> omega

theorem toNat_packL (op : BitVec 7) (w : FmtL) : (packL op w).toNat = ((((op.toNat) * 2 ^ 7 + w.d.toNat) * 2 ^ 16 + w.imm.toNat) * 2 ^ 1 + (bit1 w.u).toNat) * 2 ^ 1 + (bit1 w.z).toNat := by
  unfold packL; rw [toNat_app, toNat_app, toNat_app, toNat_app]

theorem major_packL (op : BitVec 7) (w : FmtL) : (packL op w).extractLsb' 25 7 = op := by
  apply BitVec.eq_of_toNat_eq
  rw [toNat_extract, toNat_packL]
  simp only [toNat_bit1]
  have := op.isLt; have := w.d.isLt; have := w.imm.isLt; have := Bool.toNat_lt w.u; have := Bool.toNat_lt w.z
  omega

theorem fields_packL (op : BitVec 7) (w : FmtL) : fieldsL (packL op w) = w := by
  obtain ⟨d, imm, u, z⟩ := w
  simp only [fieldsL, FmtL.mk.injEq, bitAt_eq, ← BitVec.toNat_inj, toNat_extract, toNat_packL, toNat_bit1]
  have := op.isLt; have := d.isLt; have := imm.isLt
  cases u <;> cases z <;> simp <;> omega

theorem toNat_packM (op : BitVec 7) (w : FmtM) : (packM op w).toNat = ((((((op.toNat) * 2 ^ 7 + w.d.toNat) * 2 ^ 7 + w.a.toNat) * 2 ^ 7 + w.off.toNat) * 2 ^ 2 + w.ord.toNat) * 2 ^ 1 + (bit1 w.u).toNat) * 2 ^ 1 + (bit1 w.z).toNat := by
  unfold packM; rw [toNat_app, toNat_app, toNat_app, toNat_app, toNat_app, toNat_app]

theorem major_packM (op : BitVec 7) (w : FmtM) : (packM op w).extractLsb' 25 7 = op := by
  apply BitVec.eq_of_toNat_eq
  rw [toNat_extract, toNat_packM]
  simp only [toNat_bit1]
  have := op.isLt; have := w.d.isLt; have := w.a.isLt; have := w.off.isLt; have := w.ord.isLt; have := Bool.toNat_lt w.u; have := Bool.toNat_lt w.z
  omega

theorem fields_packM (op : BitVec 7) (w : FmtM) : fieldsM (packM op w) = w := by
  obtain ⟨d, a, off, ord, u, z⟩ := w
  simp only [fieldsM, FmtM.mk.injEq, bitAt_eq, ← BitVec.toNat_inj, toNat_extract, toNat_packM, toNat_bit1]
  have := op.isLt; have := d.isLt; have := a.isLt; have := off.isLt; have := ord.isLt
  cases u <;> cases z <;> simp <;> omega

theorem toNat_packAT (op : BitVec 7) (sub : BitVec 2) (w : FmtAT) : (packAT op sub w).toNat = ((((((op.toNat) * 2 ^ 7 + w.d.toNat) * 2 ^ 7 + w.a.toNat) * 2 ^ 7 + w.b.toNat) * 2 ^ 2 + sub.toNat) * 2 ^ 1 + (bit1 w.ar).toNat) * 2 ^ 1 + 0 := by
  unfold packAT; rw [toNat_app, toNat_app, toNat_app, toNat_app, toNat_app, toNat_app]; rfl

theorem major_packAT (op : BitVec 7) (sub : BitVec 2) (w : FmtAT) : (packAT op sub w).extractLsb' 25 7 = op := by
  apply BitVec.eq_of_toNat_eq
  rw [toNat_extract, toNat_packAT]
  simp only [toNat_bit1]
  have := op.isLt; have := w.d.isLt; have := w.a.isLt; have := w.b.isLt; have := sub.isLt; have := Bool.toNat_lt w.ar
  omega

theorem fields_packAT (op : BitVec 7) (sub : BitVec 2) (w : FmtAT) : fieldsAT (packAT op sub w) = w := by
  obtain ⟨d, a, b, ar⟩ := w
  simp only [fieldsAT, FmtAT.mk.injEq, bitAt_eq, ← BitVec.toNat_inj, toNat_extract, toNat_packAT, toNat_bit1]
  have := op.isLt; have := d.isLt; have := a.isLt; have := b.isLt; have := sub.isLt
  cases ar <;> simp <;> omega

theorem toNat_packC (op : BitVec 7) (w : FmtC) : (packC op w).toNat = (((((op.toNat) * 2 ^ 3 + w.p.toNat) * 2 ^ 1 + (bit1 w.n).toNat) * 2 ^ 19 + w.off.toNat) * 2 ^ 1 + (bit1 w.u).toNat) * 2 ^ 1 + 0 := by
  unfold packC; rw [toNat_app, toNat_app, toNat_app, toNat_app, toNat_app]; rfl

theorem major_packC (op : BitVec 7) (w : FmtC) : (packC op w).extractLsb' 25 7 = op := by
  apply BitVec.eq_of_toNat_eq
  rw [toNat_extract, toNat_packC]
  simp only [toNat_bit1]
  have := op.isLt; have := w.p.isLt; have := w.off.isLt; have := Bool.toNat_lt w.n; have := Bool.toNat_lt w.u
  omega

theorem fields_packC (op : BitVec 7) (w : FmtC) : fieldsC (packC op w) = w := by
  obtain ⟨p, n, off, u⟩ := w
  simp only [fieldsC, FmtC.mk.injEq, bitAt_eq, ← BitVec.toNat_inj, toNat_extract, toNat_packC, toNat_bit1]
  have := op.isLt; have := p.isLt; have := off.isLt
  cases n <;> cases u <;> simp <;> omega

theorem toNat_packT (op : BitVec 7) (w : FmtT) : (packT op w).toNat = ((((op.toNat) * 2 ^ 4 + w.td.toNat) * 2 ^ 7 + w.a.toNat) * 2 ^ 7 + w.b.toNat) * 2 ^ 7 + w.f.toNat := by
  unfold packT; rw [toNat_app, toNat_app, toNat_app, toNat_app]

theorem major_packT (op : BitVec 7) (w : FmtT) : (packT op w).extractLsb' 25 7 = op := by
  apply BitVec.eq_of_toNat_eq
  rw [toNat_extract, toNat_packT]
  have := op.isLt; have := w.td.isLt; have := w.a.isLt; have := w.b.isLt; have := w.f.isLt
  omega

theorem fields_packT (op : BitVec 7) (w : FmtT) : fieldsT (packT op w) = w := by
  obtain ⟨td, a, b, f⟩ := w
  simp only [fieldsT, FmtT.mk.injEq, ← BitVec.toNat_inj, toNat_extract, toNat_packT]
  have := op.isLt; have := td.isLt; have := a.isLt; have := b.isLt; have := f.isLt
  refine ⟨?_, ?_, ?_, ?_⟩ <;> omega

theorem toNat_packX (op : BitVec 7) (fn : BitVec 8) (w : FmtX) : (packX op fn w).toNat = ((((((op.toNat) * 2 ^ 7 + w.d.toNat) * 2 ^ 7 + w.a.toNat) * 2 ^ 8 + fn.toNat) * 2 ^ 1 + (bit1 w.u).toNat) * 2 ^ 1 + (bit1 w.n).toNat) * 2 ^ 1 + (bit1 w.z).toNat := by
  unfold packX; rw [toNat_app, toNat_app, toNat_app, toNat_app, toNat_app, toNat_app]

theorem major_packX (op : BitVec 7) (fn : BitVec 8) (w : FmtX) : (packX op fn w).extractLsb' 25 7 = op := by
  apply BitVec.eq_of_toNat_eq
  rw [toNat_extract, toNat_packX]
  simp only [toNat_bit1]
  have := op.isLt; have := w.d.isLt; have := w.a.isLt; have := fn.isLt; have := Bool.toNat_lt w.u; have := Bool.toNat_lt w.n; have := Bool.toNat_lt w.z
  omega

theorem fields_packX (op : BitVec 7) (fn : BitVec 8) (w : FmtX) : fieldsX (packX op fn w) = w := by
  obtain ⟨d, a, u, n, z⟩ := w
  simp only [fieldsX, FmtX.mk.injEq, bitAt_eq, ← BitVec.toNat_inj, toNat_extract, toNat_packX, toNat_bit1]
  have := op.isLt; have := d.isLt; have := a.isLt; have := fn.isLt
  cases u <;> cases n <;> cases z <;> simp <;> omega

theorem toNat_packS (op : BitVec 7) (w : FmtS) : (packS op w).toNat = (((op.toNat) * 2 ^ 7 + w.a.toNat) * 2 ^ 3 + w.cnt.toNat) * 2 ^ 15 + w.recon.toNat := by
  unfold packS; rw [toNat_app, toNat_app, toNat_app]

theorem major_packS (op : BitVec 7) (w : FmtS) : (packS op w).extractLsb' 25 7 = op := by
  apply BitVec.eq_of_toNat_eq
  rw [toNat_extract, toNat_packS]
  have := op.isLt; have := w.a.isLt; have := w.cnt.isLt; have := w.recon.isLt
  omega

theorem fields_packS (op : BitVec 7) (w : FmtS) : fieldsS (packS op w) = w := by
  obtain ⟨a, cnt, recon⟩ := w
  simp only [fieldsS, FmtS.mk.injEq, ← BitVec.toNat_inj, toNat_extract, toNat_packS]
  have := op.isLt; have := a.isLt; have := cnt.isLt; have := recon.isLt
  refine ⟨?_, ?_, ?_⟩ <;> omega

theorem bit1_packP (op : BitVec 7) (w : FmtP) : bitAt (packP op w) 1 = false := by
  rw [bitAt_eq, decide_eq_false_iff_not, toNat_packP]
  simp only [toNat_bit1]
  have := op.isLt; have := w.pd.isLt; have := w.cond.isLt; have := w.a.isLt; have := w.b.isLt; have := Bool.toNat_lt w.x; have := Bool.toNat_lt w.u; have := Bool.toNat_lt w.z
  omega

theorem bit0_packAT (op : BitVec 7) (sub : BitVec 2) (w : FmtAT) : bitAt (packAT op sub w) 0 = false := by
  rw [bitAt_eq, decide_eq_false_iff_not, toNat_packAT]
  simp only [toNat_bit1]
  have := op.isLt; have := w.d.isLt; have := w.a.isLt; have := w.b.isLt; have := sub.isLt; have := Bool.toNat_lt w.ar
  omega

theorem bit0_packC (op : BitVec 7) (w : FmtC) : bitAt (packC op w) 0 = false := by
  rw [bitAt_eq, decide_eq_false_iff_not, toNat_packC]
  simp only [toNat_bit1]
  have := op.isLt; have := w.p.isLt; have := w.off.isLt; have := Bool.toNat_lt w.n; have := Bool.toNat_lt w.u
  omega

theorem sub_packAT (op : BitVec 7) (sub : BitVec 2) (w : FmtAT) : (packAT op sub w).extractLsb' 2 2 = sub := by
  apply BitVec.eq_of_toNat_eq
  rw [toNat_extract, toNat_packAT]
  simp only [toNat_bit1]
  have := op.isLt; have := w.d.isLt; have := w.a.isLt; have := w.b.isLt; have := sub.isLt; have := Bool.toNat_lt w.ar
  omega

theorem fn_packX (op : BitVec 7) (fn : BitVec 8) (w : FmtX) : (packX op fn w).extractLsb' 3 8 = fn := by
  apply BitVec.eq_of_toNat_eq
  rw [toNat_extract, toNat_packX]
  simp only [toNat_bit1]
  have := op.isLt; have := w.d.isLt; have := w.a.isLt; have := fn.isLt; have := Bool.toNat_lt w.u; have := Bool.toNat_lt w.n; have := Bool.toNat_lt w.z
  omega

theorem bit3_packJ (op : BitVec 7) (x : Bool) (w : FmtJ) : bitAt (packJ op x w) 3 = x := by
  rw [bitAt_eq, toNat_packJ]
  simp only [toNat_bit1]
  have := op.isLt; have := w.d.isLt; have := w.a.isLt; have := w.b.isLt; have := Bool.toNat_lt w.u; have := Bool.toNat_lt w.n; have := Bool.toNat_lt w.z
  cases x <;> simp <;> omega

/-! ### The constructors -/

/-- The decoder reads an instruction back from the word that the encoder lays out for it. -/
def EncodeDecode.Statement (i : Instr) : Prop := i.isWord = true → decodeWord (encode i) = .ok i

theorem decode_01 {w : Word} (h : w.extractLsb' 25 7 = 0x01#7) : decodeWord w = wordEven w (.bra (fieldsC w)) := by
  unfold decodeWord; rw [h]; rfl

theorem decode_02 {w : Word} (h : w.extractLsb' 25 7 = 0x02#7) : decodeWord w = wordEven w (.brc (fieldsC w)) := by
  unfold decodeWord; rw [h]; rfl

theorem decode_03 {w : Word} (h : w.extractLsb' 25 7 = 0x03#7) : decodeWord w = wordEven w (.call (fieldsC w)) := by
  unfold decodeWord; rw [h]; rfl

theorem decode_04 {w : Word} (h : w.extractLsb' 25 7 = 0x04#7) : decodeWord w = fnOf04 (fieldsX w) (w.extractLsb' 3 8) := by
  unfold decodeWord; rw [h]; rfl

theorem decode_05 {w : Word} (h : w.extractLsb' 25 7 = 0x05#7) : decodeWord w = .ok (if bitAt w 3 then .calli (fieldsJ w) else .jmpi (fieldsJ w)) := by
  unfold decodeWord; rw [h]; rfl

theorem decode_06 {w : Word} (h : w.extractLsb' 25 7 = 0x06#7) : decodeWord w = .ok (.switch (fieldsS w)) := by
  unfold decodeWord; rw [h]; rfl

theorem decode_07 {w : Word} (h : w.extractLsb' 25 7 = 0x07#7) : decodeWord w = wordEven w (.recon (fieldsC w)) := by
  unfold decodeWord; rw [h]; rfl

theorem decode_08 {w : Word} (h : w.extractLsb' 25 7 = 0x08#7) : decodeWord w = fnOf08 (fieldsX w) (w.extractLsb' 3 8) := by
  unfold decodeWord; rw [h]; rfl

theorem decode_09 {w : Word} (h : w.extractLsb' 25 7 = 0x09#7) : decodeWord w = .ok (.land (fieldsL w)) := by
  unfold decodeWord; rw [h]; rfl

theorem decode_0A {w : Word} (h : w.extractLsb' 25 7 = 0x0A#7) : decodeWord w = fnOf0A (fieldsX w) (w.extractLsb' 3 8) := by
  unfold decodeWord; rw [h]; rfl

theorem decode_0B {w : Word} (h : w.extractLsb' 25 7 = 0x0B#7) : decodeWord w = fnOf0B (fieldsX w) (w.extractLsb' 3 8) := by
  unfold decodeWord; rw [h]; rfl

theorem decode_0C {w : Word} (h : w.extractLsb' 25 7 = 0x0C#7) : decodeWord w = fnOf0C (fieldsX w) (w.extractLsb' 3 8) := by
  unfold decodeWord; rw [h]; rfl

theorem decode_0D {w : Word} (h : w.extractLsb' 25 7 = 0x0D#7) : decodeWord w = .ok (.winb (fieldsL w)) := by
  unfold decodeWord; rw [h]; rfl

theorem decode_0E {w : Word} (h : w.extractLsb' 25 7 = 0x0E#7) : decodeWord w = fnOf0E (fieldsX w) (w.extractLsb' 3 8) := by
  unfold decodeWord; rw [h]; rfl

theorem decode_0F {w : Word} (h : w.extractLsb' 25 7 = 0x0F#7) : decodeWord w = fnOf0F (fieldsX w) (w.extractLsb' 3 8) := by
  unfold decodeWord; rw [h]; rfl

theorem decode_10 {w : Word} (h : w.extractLsb' 25 7 = 0x10#7) : decodeWord w = .ok (.iadd (fieldsA w)) := by
  unfold decodeWord; rw [h]; rfl

theorem decode_11 {w : Word} (h : w.extractLsb' 25 7 = 0x11#7) : decodeWord w = .ok (.isub (fieldsA w)) := by
  unfold decodeWord; rw [h]; rfl

theorem decode_12 {w : Word} (h : w.extractLsb' 25 7 = 0x12#7) : decodeWord w = .ok (.imul (fieldsA w)) := by
  unfold decodeWord; rw [h]; rfl

theorem decode_13 {w : Word} (h : w.extractLsb' 25 7 = 0x13#7) : decodeWord w = .ok (.imulh (fieldsA w)) := by
  unfold decodeWord; rw [h]; rfl

theorem decode_14 {w : Word} (h : w.extractLsb' 25 7 = 0x14#7) : decodeWord w = .ok (.imulhu (fieldsA w)) := by
  unfold decodeWord; rw [h]; rfl

theorem decode_15 {w : Word} (h : w.extractLsb' 25 7 = 0x15#7) : decodeWord w = .ok (.imad (fieldsA w)) := by
  unfold decodeWord; rw [h]; rfl

theorem decode_16 {w : Word} (h : w.extractLsb' 25 7 = 0x16#7) : decodeWord w = .ok (.imin (fieldsA w)) := by
  unfold decodeWord; rw [h]; rfl

theorem decode_17 {w : Word} (h : w.extractLsb' 25 7 = 0x17#7) : decodeWord w = .ok (.imax (fieldsA w)) := by
  unfold decodeWord; rw [h]; rfl

theorem decode_18 {w : Word} (h : w.extractLsb' 25 7 = 0x18#7) : decodeWord w = .ok (.iminu (fieldsA w)) := by
  unfold decodeWord; rw [h]; rfl

theorem decode_19 {w : Word} (h : w.extractLsb' 25 7 = 0x19#7) : decodeWord w = .ok (.imaxu (fieldsA w)) := by
  unfold decodeWord; rw [h]; rfl

theorem decode_1A {w : Word} (h : w.extractLsb' 25 7 = 0x1A#7) : decodeWord w = fnOf1A (fieldsX w) (w.extractLsb' 3 8) := by
  unfold decodeWord; rw [h]; rfl

theorem decode_1B {w : Word} (h : w.extractLsb' 25 7 = 0x1B#7) : decodeWord w = .ok (.shl (fieldsA w)) := by
  unfold decodeWord; rw [h]; rfl

theorem decode_1C {w : Word} (h : w.extractLsb' 25 7 = 0x1C#7) : decodeWord w = .ok (.shr (fieldsA w)) := by
  unfold decodeWord; rw [h]; rfl

theorem decode_1D {w : Word} (h : w.extractLsb' 25 7 = 0x1D#7) : decodeWord w = .ok (.shra (fieldsA w)) := by
  unfold decodeWord; rw [h]; rfl

theorem decode_1E {w : Word} (h : w.extractLsb' 25 7 = 0x1E#7) : decodeWord w = .ok (.rotl (fieldsA w)) := by
  unfold decodeWord; rw [h]; rfl

theorem decode_1F {w : Word} (h : w.extractLsb' 25 7 = 0x1F#7) : decodeWord w = .ok (.and (fieldsA w)) := by
  unfold decodeWord; rw [h]; rfl

theorem decode_20 {w : Word} (h : w.extractLsb' 25 7 = 0x20#7) : decodeWord w = .ok (.or (fieldsA w)) := by
  unfold decodeWord; rw [h]; rfl

theorem decode_21 {w : Word} (h : w.extractLsb' 25 7 = 0x21#7) : decodeWord w = .ok (.xor (fieldsA w)) := by
  unfold decodeWord; rw [h]; rfl

theorem decode_22 {w : Word} (h : w.extractLsb' 25 7 = 0x22#7) : decodeWord w = .ok (.andn (fieldsA w)) := by
  unfold decodeWord; rw [h]; rfl

theorem decode_23 {w : Word} (h : w.extractLsb' 25 7 = 0x23#7) : decodeWord w = .ok (.bfx (fieldsA w)) := by
  unfold decodeWord; rw [h]; rfl

theorem decode_24 {w : Word} (h : w.extractLsb' 25 7 = 0x24#7) : decodeWord w = .ok (.bfi (fieldsA w)) := by
  unfold decodeWord; rw [h]; rfl

theorem decode_25 {w : Word} (h : w.extractLsb' 25 7 = 0x25#7) : decodeWord w = wordP w (.icmp (fieldsP w)) := by
  unfold decodeWord; rw [h]; rfl

theorem decode_26 {w : Word} (h : w.extractLsb' 25 7 = 0x26#7) : decodeWord w = wordP w (.icmpu (fieldsP w)) := by
  unfold decodeWord; rw [h]; rfl

theorem decode_27 {w : Word} (h : w.extractLsb' 25 7 = 0x27#7) : decodeWord w = .ok (.sel (fieldsQ w)) := by
  unfold decodeWord; rw [h]; rfl

theorem decode_28 {w : Word} (h : w.extractLsb' 25 7 = 0x28#7) : decodeWord w = .ok (.movi (fieldsL w)) := by
  unfold decodeWord; rw [h]; rfl

theorem decode_29 {w : Word} (h : w.extractLsb' 25 7 = 0x29#7) : decodeWord w = .ok (.movhi (fieldsL w)) := by
  unfold decodeWord; rw [h]; rfl

theorem decode_2A {w : Word} (h : w.extractLsb' 25 7 = 0x2A#7) : decodeWord w = .ok (.mov (fieldsA w)) := by
  unfold decodeWord; rw [h]; rfl

theorem decode_2B {w : Word} (h : w.extractLsb' 25 7 = 0x2B#7) : decodeWord w = .ok (.iadd64 (fieldsA w)) := by
  unfold decodeWord; rw [h]; rfl

theorem decode_2C {w : Word} (h : w.extractLsb' 25 7 = 0x2C#7) : decodeWord w = .ok (.lea (fieldsA w)) := by
  unfold decodeWord; rw [h]; rfl

theorem decode_2D {w : Word} (h : w.extractLsb' 25 7 = 0x2D#7) : decodeWord w = wordP w (.icmp64 (fieldsP w)) := by
  unfold decodeWord; rw [h]; rfl

theorem decode_2E {w : Word} (h : w.extractLsb' 25 7 = 0x2E#7) : decodeWord w = .ok (.dp4 (fieldsA w)) := by
  unfold decodeWord; rw [h]; rfl

theorem decode_2F {w : Word} (h : w.extractLsb' 25 7 = 0x2F#7) : decodeWord w = .ok (.vaddmin (fieldsA w)) := by
  unfold decodeWord; rw [h]; rfl

theorem decode_30 {w : Word} (h : w.extractLsb' 25 7 = 0x30#7) : decodeWord w = fnOf30 (fieldsX w) (w.extractLsb' 3 8) := by
  unfold decodeWord; rw [h]; rfl

theorem decode_31 {w : Word} (h : w.extractLsb' 25 7 = 0x31#7) : decodeWord w = .ok (.laneidx (fieldsA w)) := by
  unfold decodeWord; rw [h]; rfl

theorem decode_32 {w : Word} (h : w.extractLsb' 25 7 = 0x32#7) : decodeWord w = .ok (.bcast (fieldsA w)) := by
  unfold decodeWord; rw [h]; rfl

theorem decode_33 {w : Word} (h : w.extractLsb' 25 7 = 0x33#7) : decodeWord w = fnOf33 (fieldsX w) (w.extractLsb' 3 8) := by
  unfold decodeWord; rw [h]; rfl

theorem decode_34 {w : Word} (h : w.extractLsb' 25 7 = 0x34#7) : decodeWord w = fnOf34 (fieldsX w) (w.extractLsb' 3 8) := by
  unfold decodeWord; rw [h]; rfl

theorem decode_35 {w : Word} (h : w.extractLsb' 25 7 = 0x35#7) : decodeWord w = fnOf35 (fieldsX w) (w.extractLsb' 3 8) := by
  unfold decodeWord; rw [h]; rfl

theorem decode_36 {w : Word} (h : w.extractLsb' 25 7 = 0x36#7) : decodeWord w = .ok (.vdhop (fieldsA w)) := by
  unfold decodeWord; rw [h]; rfl

theorem decode_37 {w : Word} (h : w.extractLsb' 25 7 = 0x37#7) : decodeWord w = fnOf37 (fieldsX w) (w.extractLsb' 3 8) := by
  unfold decodeWord; rw [h]; rfl

theorem decode_38 {w : Word} (h : w.extractLsb' 25 7 = 0x38#7) : decodeWord w = .ok (.fadd (fieldsA w)) := by
  unfold decodeWord; rw [h]; rfl

theorem decode_39 {w : Word} (h : w.extractLsb' 25 7 = 0x39#7) : decodeWord w = .ok (.fsub (fieldsA w)) := by
  unfold decodeWord; rw [h]; rfl

theorem decode_3A {w : Word} (h : w.extractLsb' 25 7 = 0x3A#7) : decodeWord w = .ok (.fmul (fieldsA w)) := by
  unfold decodeWord; rw [h]; rfl

theorem decode_3B {w : Word} (h : w.extractLsb' 25 7 = 0x3B#7) : decodeWord w = .ok (.ffma (fieldsA w)) := by
  unfold decodeWord; rw [h]; rfl

theorem decode_3C {w : Word} (h : w.extractLsb' 25 7 = 0x3C#7) : decodeWord w = .ok (.fmin (fieldsA w)) := by
  unfold decodeWord; rw [h]; rfl

theorem decode_3D {w : Word} (h : w.extractLsb' 25 7 = 0x3D#7) : decodeWord w = .ok (.fmax (fieldsA w)) := by
  unfold decodeWord; rw [h]; rfl

theorem decode_3E {w : Word} (h : w.extractLsb' 25 7 = 0x3E#7) : decodeWord w = wordP w (.fcmp (fieldsP w)) := by
  unfold decodeWord; rw [h]; rfl

theorem decode_3F {w : Word} (h : w.extractLsb' 25 7 = 0x3F#7) : decodeWord w = fnOf3F (fieldsX w) (w.extractLsb' 3 8) := by
  unfold decodeWord; rw [h]; rfl

theorem decode_40 {w : Word} (h : w.extractLsb' 25 7 = 0x40#7) : decodeWord w = .ok (.fscale (fieldsA w)) := by
  unfold decodeWord; rw [h]; rfl

theorem decode_41 {w : Word} (h : w.extractLsb' 25 7 = 0x41#7) : decodeWord w = .ok (.hadd2 (fieldsA w)) := by
  unfold decodeWord; rw [h]; rfl

theorem decode_42 {w : Word} (h : w.extractLsb' 25 7 = 0x42#7) : decodeWord w = .ok (.hmul2 (fieldsA w)) := by
  unfold decodeWord; rw [h]; rfl

theorem decode_43 {w : Word} (h : w.extractLsb' 25 7 = 0x43#7) : decodeWord w = .ok (.hfma2 (fieldsA w)) := by
  unfold decodeWord; rw [h]; rfl

theorem decode_44 {w : Word} (h : w.extractLsb' 25 7 = 0x44#7) : decodeWord w = .ok (.badd2 (fieldsA w)) := by
  unfold decodeWord; rw [h]; rfl

theorem decode_45 {w : Word} (h : w.extractLsb' 25 7 = 0x45#7) : decodeWord w = .ok (.bmul2 (fieldsA w)) := by
  unfold decodeWord; rw [h]; rfl

theorem decode_46 {w : Word} (h : w.extractLsb' 25 7 = 0x46#7) : decodeWord w = .ok (.bfma2 (fieldsA w)) := by
  unfold decodeWord; rw [h]; rfl

theorem decode_47 {w : Word} (h : w.extractLsb' 25 7 = 0x47#7) : decodeWord w = .ok (.famax (fieldsA w)) := by
  unfold decodeWord; rw [h]; rfl

theorem decode_48 {w : Word} (h : w.extractLsb' 25 7 = 0x48#7) : decodeWord w = fnOf48 (fieldsX w) (w.extractLsb' 3 8) := by
  unfold decodeWord; rw [h]; rfl

theorem decode_49 {w : Word} (h : w.extractLsb' 25 7 = 0x49#7) : decodeWord w = .ok (.cvtn (fieldsA w)) := by
  unfold decodeWord; rw [h]; rfl

theorem decode_4A {w : Word} (h : w.extractLsb' 25 7 = 0x4A#7) : decodeWord w = .ok (.qscale (fieldsA w)) := by
  unfold decodeWord; rw [h]; rfl

theorem decode_4B {w : Word} (h : w.extractLsb' 25 7 = 0x4B#7) : decodeWord w = fnOf4B (fieldsX w) (w.extractLsb' 3 8) := by
  unfold decodeWord; rw [h]; rfl

theorem decode_4C {w : Word} (h : w.extractLsb' 25 7 = 0x4C#7) : decodeWord w = .ok (.cbdec (fieldsA w)) := by
  unfold decodeWord; rw [h]; rfl

theorem decode_50 {w : Word} (h : w.extractLsb' 25 7 = 0x50#7) : decodeWord w = .ok (.mma (fieldsT w)) := by
  unfold decodeWord; rw [h]; rfl

theorem decode_51 {w : Word} (h : w.extractLsb' 25 7 = 0x51#7) : decodeWord w = .ok (.mmaf (fieldsT w)) := by
  unfold decodeWord; rw [h]; rfl

theorem decode_52 {w : Word} (h : w.extractLsb' 25 7 = 0x52#7) : decodeWord w = .ok (.mmaz (fieldsT w)) := by
  unfold decodeWord; rw [h]; rfl

theorem decode_53 {w : Word} (h : w.extractLsb' 25 7 = 0x53#7) : decodeWord w = .ok (.tzero (fieldsT w)) := by
  unfold decodeWord; rw [h]; rfl

theorem decode_54 {w : Word} (h : w.extractLsb' 25 7 = 0x54#7) : decodeWord w = .ok (.trd (fieldsT w)) := by
  unfold decodeWord; rw [h]; rfl

theorem decode_55 {w : Word} (h : w.extractLsb' 25 7 = 0x55#7) : decodeWord w = .ok (.twr (fieldsT w)) := by
  unfold decodeWord; rw [h]; rfl

theorem decode_56 {w : Word} (h : w.extractLsb' 25 7 = 0x56#7) : decodeWord w = .ok (.twm (fieldsT w)) := by
  unfold decodeWord; rw [h]; rfl

theorem decode_57 {w : Word} (h : w.extractLsb' 25 7 = 0x57#7) : decodeWord w = fnOf57 (fieldsX w) (w.extractLsb' 3 8) := by
  unfold decodeWord; rw [h]; rfl

theorem decode_58 {w : Word} (h : w.extractLsb' 25 7 = 0x58#7) : decodeWord w = .ok (.tcvt (fieldsT w)) := by
  unfold decodeWord; rw [h]; rfl

theorem decode_59 {w : Word} (h : w.extractLsb' 25 7 = 0x59#7) : decodeWord w = .ok (.tscl (fieldsT w)) := by
  unfold decodeWord; rw [h]; rfl

theorem decode_5A {w : Word} (h : w.extractLsb' 25 7 = 0x5A#7) : decodeWord w = .ok (.ldb (fieldsM w)) := by
  unfold decodeWord; rw [h]; rfl

theorem decode_5B {w : Word} (h : w.extractLsb' 25 7 = 0x5B#7) : decodeWord w = .ok (.ldh (fieldsM w)) := by
  unfold decodeWord; rw [h]; rfl

theorem decode_5C {w : Word} (h : w.extractLsb' 25 7 = 0x5C#7) : decodeWord w = .ok (.ldw (fieldsM w)) := by
  unfold decodeWord; rw [h]; rfl

theorem decode_5D {w : Word} (h : w.extractLsb' 25 7 = 0x5D#7) : decodeWord w = .ok (.ldd (fieldsM w)) := by
  unfold decodeWord; rw [h]; rfl

theorem decode_5E {w : Word} (h : w.extractLsb' 25 7 = 0x5E#7) : decodeWord w = .ok (.ldq (fieldsM w)) := by
  unfold decodeWord; rw [h]; rfl

theorem decode_5F {w : Word} (h : w.extractLsb' 25 7 = 0x5F#7) : decodeWord w = .ok (.stb (fieldsM w)) := by
  unfold decodeWord; rw [h]; rfl

theorem decode_60 {w : Word} (h : w.extractLsb' 25 7 = 0x60#7) : decodeWord w = .ok (.sth (fieldsM w)) := by
  unfold decodeWord; rw [h]; rfl

theorem decode_61 {w : Word} (h : w.extractLsb' 25 7 = 0x61#7) : decodeWord w = .ok (.stw (fieldsM w)) := by
  unfold decodeWord; rw [h]; rfl

theorem decode_62 {w : Word} (h : w.extractLsb' 25 7 = 0x62#7) : decodeWord w = .ok (.std (fieldsM w)) := by
  unfold decodeWord; rw [h]; rfl

theorem decode_63 {w : Word} (h : w.extractLsb' 25 7 = 0x63#7) : decodeWord w = .ok (.stq (fieldsM w)) := by
  unfold decodeWord; rw [h]; rfl

theorem decode_64 {w : Word} (h : w.extractLsb' 25 7 = 0x64#7) : decodeWord w = fnOf64 (fieldsX w) (w.extractLsb' 3 8) := by
  unfold decodeWord; rw [h]; rfl

theorem decode_65 {w : Word} (h : w.extractLsb' 25 7 = 0x65#7) : decodeWord w = .ok (.lds (fieldsM w)) := by
  unfold decodeWord; rw [h]; rfl

theorem decode_66 {w : Word} (h : w.extractLsb' 25 7 = 0x66#7) : decodeWord w = .ok (.sts (fieldsM w)) := by
  unfold decodeWord; rw [h]; rfl

theorem decode_67 {w : Word} (h : w.extractLsb' 25 7 = 0x67#7) : decodeWord w = fnOf67 (fieldsX w) (w.extractLsb' 3 8) := by
  unfold decodeWord; rw [h]; rfl

theorem decode_68 {w : Word} (h : w.extractLsb' 25 7 = 0x68#7) : decodeWord w = fnOf68 (fieldsX w) (w.extractLsb' 3 8) := by
  unfold decodeWord; rw [h]; rfl

theorem decode_69 {w : Word} (h : w.extractLsb' 25 7 = 0x69#7) : decodeWord w = fnOf69 (fieldsX w) (w.extractLsb' 3 8) := by
  unfold decodeWord; rw [h]; rfl

theorem decode_6C {w : Word} (h : w.extractLsb' 25 7 = 0x6C#7) : decodeWord w = fnOf6C (fieldsX w) (w.extractLsb' 3 8) := by
  unfold decodeWord; rw [h]; rfl

theorem decode_6D {w : Word} (h : w.extractLsb' 25 7 = 0x6D#7) : decodeWord w = if bitAt w 0 then .error .reservedBit else subOf6D (fieldsAT w) (w.extractLsb' 2 2) := by
  unfold decodeWord; rw [h]; rfl

theorem decode_6E {w : Word} (h : w.extractLsb' 25 7 = 0x6E#7) : decodeWord w = if bitAt w 0 then .error .reservedBit else subOf6E (fieldsAT w) (w.extractLsb' 2 2) := by
  unfold decodeWord; rw [h]; rfl

theorem decode_6F {w : Word} (h : w.extractLsb' 25 7 = 0x6F#7) : decodeWord w = if bitAt w 0 then .error .reservedBit else subOf6F (fieldsAT w) (w.extractLsb' 2 2) := by
  unfold decodeWord; rw [h]; rfl

theorem decode_70 {w : Word} (h : w.extractLsb' 25 7 = 0x70#7) : decodeWord w = if bitAt w 0 then .error .reservedBit else subOf70 (fieldsAT w) (w.extractLsb' 2 2) := by
  unfold decodeWord; rw [h]; rfl

theorem decode_71 {w : Word} (h : w.extractLsb' 25 7 = 0x71#7) : decodeWord w = if bitAt w 0 then .error .reservedBit else subOf71 (fieldsAT w) (w.extractLsb' 2 2) := by
  unfold decodeWord; rw [h]; rfl

theorem decode_72 {w : Word} (h : w.extractLsb' 25 7 = 0x72#7) : decodeWord w = if bitAt w 0 then .error .reservedBit else subOf72 (fieldsAT w) (w.extractLsb' 2 2) := by
  unfold decodeWord; rw [h]; rfl

theorem decode_73 {w : Word} (h : w.extractLsb' 25 7 = 0x73#7) : decodeWord w = if bitAt w 0 then .error .reservedBit else subOf73 (fieldsAT w) (w.extractLsb' 2 2) := by
  unfold decodeWord; rw [h]; rfl

theorem decode_74 {w : Word} (h : w.extractLsb' 25 7 = 0x74#7) : decodeWord w = if bitAt w 0 then .error .reservedBit else subOf74 (fieldsAT w) (w.extractLsb' 2 2) := by
  unfold decodeWord; rw [h]; rfl

theorem decode_75 {w : Word} (h : w.extractLsb' 25 7 = 0x75#7) : decodeWord w = fnOf75 (fieldsX w) (w.extractLsb' 3 8) := by
  unfold decodeWord; rw [h]; rfl

theorem decode_76 {w : Word} (h : w.extractLsb' 25 7 = 0x76#7) : decodeWord w = fnOf76 (fieldsX w) (w.extractLsb' 3 8) := by
  unfold decodeWord; rw [h]; rfl

theorem decode_77 {w : Word} (h : w.extractLsb' 25 7 = 0x77#7) : decodeWord w = fnOf77 (fieldsX w) (w.extractLsb' 3 8) := by
  unfold decodeWord; rw [h]; rfl

theorem decode_78 {w : Word} (h : w.extractLsb' 25 7 = 0x78#7) : decodeWord w = fnOf78 (fieldsX w) (w.extractLsb' 3 8) := by
  unfold decodeWord; rw [h]; rfl

theorem decode_79 {w : Word} (h : w.extractLsb' 25 7 = 0x79#7) : decodeWord w = .ok (.csrr (fieldsL w)) := by
  unfold decodeWord; rw [h]; rfl

theorem decode_7A {w : Word} (h : w.extractLsb' 25 7 = 0x7A#7) : decodeWord w = .ok (.csrw (fieldsL w)) := by
  unfold decodeWord; rw [h]; rfl

theorem decode_7B {w : Word} (h : w.extractLsb' 25 7 = 0x7B#7) : decodeWord w = fnOf7B (fieldsX w) (w.extractLsb' 3 8) := by
  unfold decodeWord; rw [h]; rfl

theorem decode_7C {w : Word} (h : w.extractLsb' 25 7 = 0x7C#7) : decodeWord w = fnOf7C (fieldsX w) (w.extractLsb' 3 8) := by
  unfold decodeWord; rw [h]; rfl

theorem decode_7D {w : Word} (h : w.extractLsb' 25 7 = 0x7D#7) : decodeWord w = fnOf7D (fieldsX w) (w.extractLsb' 3 8) := by
  unfold decodeWord; rw [h]; rfl

theorem EncodeDecode.bra (w : FmtC) : EncodeDecode.Statement (.bra w) := by
  intro _
  show decodeWord (packC 0x01#7 w) = _
  rw [decode_01 (major_packC _ _)]
  simp [fields_packC, wordEven, bit0_packC]

theorem EncodeDecode.brc (w : FmtC) : EncodeDecode.Statement (.brc w) := by
  intro _
  show decodeWord (packC 0x02#7 w) = _
  rw [decode_02 (major_packC _ _)]
  simp [fields_packC, wordEven, bit0_packC]

theorem EncodeDecode.call (w : FmtC) : EncodeDecode.Statement (.call w) := by
  intro _
  show decodeWord (packC 0x03#7 w) = _
  rw [decode_03 (major_packC _ _)]
  simp [fields_packC, wordEven, bit0_packC]

theorem EncodeDecode.ret (w : FmtX) : EncodeDecode.Statement (.ret w) := by
  intro _
  show decodeWord (packX 0x04#7 0x00#8 w) = _
  rw [decode_04 (major_packX _ _ _), fn_packX, fields_packX]
  rfl

theorem EncodeDecode.jmpi (w : FmtJ) : EncodeDecode.Statement (.jmpi w) := by
  intro _
  show decodeWord (packJ 0x05#7 false w) = _
  rw [decode_05 (major_packJ _ _ _)]
  simp [fields_packJ, bit3_packJ]

theorem EncodeDecode.calli (w : FmtJ) : EncodeDecode.Statement (.calli w) := by
  intro _
  show decodeWord (packJ 0x05#7 true w) = _
  rw [decode_05 (major_packJ _ _ _)]
  simp [fields_packJ, bit3_packJ]

theorem EncodeDecode.switch (w : FmtS) : EncodeDecode.Statement (.switch w) := by
  intro _
  show decodeWord (packS 0x06#7 w) = _
  rw [decode_06 (major_packS _ _), fields_packS]

theorem EncodeDecode.recon (w : FmtC) : EncodeDecode.Statement (.recon w) := by
  intro _
  show decodeWord (packC 0x07#7 w) = _
  rw [decode_07 (major_packC _ _)]
  simp [fields_packC, wordEven, bit0_packC]

theorem EncodeDecode.join (w : FmtX) : EncodeDecode.Statement (.join w) := by
  intro _
  show decodeWord (packX 0x08#7 0x00#8 w) = _
  rw [decode_08 (major_packX _ _ _), fn_packX, fields_packX]
  rfl

theorem EncodeDecode.land (w : FmtL) : EncodeDecode.Statement (.land w) := by
  intro _
  show decodeWord (packL 0x09#7 w) = _
  rw [decode_09 (major_packL _ _), fields_packL]

theorem EncodeDecode.exit (w : FmtX) : EncodeDecode.Statement (.exit w) := by
  intro _
  show decodeWord (packX 0x0A#7 0x00#8 w) = _
  rw [decode_0A (major_packX _ _ _), fn_packX, fields_packX]
  rfl

theorem EncodeDecode.nop (w : FmtX) : EncodeDecode.Statement (.nop w) := by
  intro _
  show decodeWord (packX 0x0B#7 0x00#8 w) = _
  rw [decode_0B (major_packX _ _ _), fn_packX, fields_packX]
  rfl

theorem EncodeDecode.yield (w : FmtX) : EncodeDecode.Statement (.yield w) := by
  intro _
  show decodeWord (packX 0x0B#7 0x01#8 w) = _
  rw [decode_0B (major_packX _ _ _), fn_packX, fields_packX]
  rfl

theorem EncodeDecode.voteAny (w : FmtX) : EncodeDecode.Statement (.voteAny w) := by
  intro _
  show decodeWord (packX 0x0C#7 0x00#8 w) = _
  rw [decode_0C (major_packX _ _ _), fn_packX, fields_packX]
  rfl

theorem EncodeDecode.voteAll (w : FmtX) : EncodeDecode.Statement (.voteAll w) := by
  intro _
  show decodeWord (packX 0x0C#7 0x01#8 w) = _
  rw [decode_0C (major_packX _ _ _), fn_packX, fields_packX]
  rfl

theorem EncodeDecode.voteBallot (w : FmtX) : EncodeDecode.Statement (.voteBallot w) := by
  intro _
  show decodeWord (packX 0x0C#7 0x02#8 w) = _
  rw [decode_0C (major_packX _ _ _), fn_packX, fields_packX]
  rfl

theorem EncodeDecode.voteCount (w : FmtX) : EncodeDecode.Statement (.voteCount w) := by
  intro _
  show decodeWord (packX 0x0C#7 0x03#8 w) = _
  rw [decode_0C (major_packX _ _ _), fn_packX, fields_packX]
  rfl

theorem EncodeDecode.voteFirst (w : FmtX) : EncodeDecode.Statement (.voteFirst w) := by
  intro _
  show decodeWord (packX 0x0C#7 0x04#8 w) = _
  rw [decode_0C (major_packX _ _ _), fn_packX, fields_packX]
  rfl

theorem EncodeDecode.voteUniq (w : FmtX) : EncodeDecode.Statement (.voteUniq w) := by
  intro _
  show decodeWord (packX 0x0C#7 0x05#8 w) = _
  rw [decode_0C (major_packX _ _ _), fn_packX, fields_packX]
  rfl

theorem EncodeDecode.winb (w : FmtL) : EncodeDecode.Statement (.winb w) := by
  intro _
  show decodeWord (packL 0x0D#7 w) = _
  rw [decode_0D (major_packL _ _), fields_packL]

theorem EncodeDecode.trap (w : FmtX) (c : BitVec 7) : EncodeDecode.Statement (.trap w c) := by
  intro _
  show decodeWord (packX 0x0E#7 (0#1 ++ c) w) = _
  rw [decode_0E (major_packX _ _ _), fn_packX, fields_packX]
  have h1 : ∀ (c : BitVec 7), (0#1 ++ c : BitVec 8).extractLsb' 7 1 = 0 := by decide
  have h2 : ∀ (c : BitVec 7), (0#1 ++ c : BitVec 8).extractLsb' 0 7 = c := by decide
  unfold fnOf0E
  rw [if_pos (h1 c), h2 c]

theorem EncodeDecode.bkpt (w : FmtX) (c : BitVec 7) : EncodeDecode.Statement (.bkpt w c) := by
  intro _
  show decodeWord (packX 0x0E#7 (1#1 ++ c) w) = _
  rw [decode_0E (major_packX _ _ _), fn_packX, fields_packX]
  have h1 : ∀ (c : BitVec 7), ¬ ((1#1 ++ c : BitVec 8).extractLsb' 7 1 = 0) := by decide
  have h2 : ∀ (c : BitVec 7), (1#1 ++ c : BitVec 8).extractLsb' 7 1 = 1 := by decide
  have h3 : ∀ (c : BitVec 7), (1#1 ++ c : BitVec 8).extractLsb' 0 7 = c := by decide
  unfold fnOf0E
  rw [if_neg (h1 c), if_pos (h2 c), h3 c]

theorem EncodeDecode.dstkDepth (w : FmtX) : EncodeDecode.Statement (.dstkDepth w) := by
  intro _
  show decodeWord (packX 0x0F#7 0x00#8 w) = _
  rw [decode_0F (major_packX _ _ _), fn_packX, fields_packX]
  rfl

theorem EncodeDecode.dstkSpill (w : FmtX) : EncodeDecode.Statement (.dstkSpill w) := by
  intro _
  show decodeWord (packX 0x0F#7 0x01#8 w) = _
  rw [decode_0F (major_packX _ _ _), fn_packX, fields_packX]
  rfl

theorem EncodeDecode.dstkFill (w : FmtX) : EncodeDecode.Statement (.dstkFill w) := by
  intro _
  show decodeWord (packX 0x0F#7 0x02#8 w) = _
  rw [decode_0F (major_packX _ _ _), fn_packX, fields_packX]
  rfl

theorem EncodeDecode.iadd (w : FmtA) : EncodeDecode.Statement (.iadd w) := by
  intro _
  show decodeWord (packA 0x10#7 w) = _
  rw [decode_10 (major_packA _ _), fields_packA]

theorem EncodeDecode.isub (w : FmtA) : EncodeDecode.Statement (.isub w) := by
  intro _
  show decodeWord (packA 0x11#7 w) = _
  rw [decode_11 (major_packA _ _), fields_packA]

theorem EncodeDecode.imul (w : FmtA) : EncodeDecode.Statement (.imul w) := by
  intro _
  show decodeWord (packA 0x12#7 w) = _
  rw [decode_12 (major_packA _ _), fields_packA]

theorem EncodeDecode.imulh (w : FmtA) : EncodeDecode.Statement (.imulh w) := by
  intro _
  show decodeWord (packA 0x13#7 w) = _
  rw [decode_13 (major_packA _ _), fields_packA]

theorem EncodeDecode.imulhu (w : FmtA) : EncodeDecode.Statement (.imulhu w) := by
  intro _
  show decodeWord (packA 0x14#7 w) = _
  rw [decode_14 (major_packA _ _), fields_packA]

theorem EncodeDecode.imad (w : FmtA) : EncodeDecode.Statement (.imad w) := by
  intro _
  show decodeWord (packA 0x15#7 w) = _
  rw [decode_15 (major_packA _ _), fields_packA]

theorem EncodeDecode.imin (w : FmtA) : EncodeDecode.Statement (.imin w) := by
  intro _
  show decodeWord (packA 0x16#7 w) = _
  rw [decode_16 (major_packA _ _), fields_packA]

theorem EncodeDecode.imax (w : FmtA) : EncodeDecode.Statement (.imax w) := by
  intro _
  show decodeWord (packA 0x17#7 w) = _
  rw [decode_17 (major_packA _ _), fields_packA]

theorem EncodeDecode.iminu (w : FmtA) : EncodeDecode.Statement (.iminu w) := by
  intro _
  show decodeWord (packA 0x18#7 w) = _
  rw [decode_18 (major_packA _ _), fields_packA]

theorem EncodeDecode.imaxu (w : FmtA) : EncodeDecode.Statement (.imaxu w) := by
  intro _
  show decodeWord (packA 0x19#7 w) = _
  rw [decode_19 (major_packA _ _), fields_packA]

theorem EncodeDecode.iunaryNeg (w : FmtX) : EncodeDecode.Statement (.iunaryNeg w) := by
  intro _
  show decodeWord (packX 0x1A#7 0x00#8 w) = _
  rw [decode_1A (major_packX _ _ _), fn_packX, fields_packX]
  rfl

theorem EncodeDecode.iunaryAbs (w : FmtX) : EncodeDecode.Statement (.iunaryAbs w) := by
  intro _
  show decodeWord (packX 0x1A#7 0x01#8 w) = _
  rw [decode_1A (major_packX _ _ _), fn_packX, fields_packX]
  rfl

theorem EncodeDecode.iunaryNot (w : FmtX) : EncodeDecode.Statement (.iunaryNot w) := by
  intro _
  show decodeWord (packX 0x1A#7 0x02#8 w) = _
  rw [decode_1A (major_packX _ _ _), fn_packX, fields_packX]
  rfl

theorem EncodeDecode.iunaryPopc (w : FmtX) : EncodeDecode.Statement (.iunaryPopc w) := by
  intro _
  show decodeWord (packX 0x1A#7 0x03#8 w) = _
  rw [decode_1A (major_packX _ _ _), fn_packX, fields_packX]
  rfl

theorem EncodeDecode.iunaryClz (w : FmtX) : EncodeDecode.Statement (.iunaryClz w) := by
  intro _
  show decodeWord (packX 0x1A#7 0x04#8 w) = _
  rw [decode_1A (major_packX _ _ _), fn_packX, fields_packX]
  rfl

theorem EncodeDecode.iunaryCtz (w : FmtX) : EncodeDecode.Statement (.iunaryCtz w) := by
  intro _
  show decodeWord (packX 0x1A#7 0x05#8 w) = _
  rw [decode_1A (major_packX _ _ _), fn_packX, fields_packX]
  rfl

theorem EncodeDecode.iunaryBrev (w : FmtX) : EncodeDecode.Statement (.iunaryBrev w) := by
  intro _
  show decodeWord (packX 0x1A#7 0x06#8 w) = _
  rw [decode_1A (major_packX _ _ _), fn_packX, fields_packX]
  rfl

theorem EncodeDecode.iunaryBswap (w : FmtX) : EncodeDecode.Statement (.iunaryBswap w) := by
  intro _
  show decodeWord (packX 0x1A#7 0x07#8 w) = _
  rw [decode_1A (major_packX _ _ _), fn_packX, fields_packX]
  rfl

theorem EncodeDecode.iunarySextb (w : FmtX) : EncodeDecode.Statement (.iunarySextb w) := by
  intro _
  show decodeWord (packX 0x1A#7 0x08#8 w) = _
  rw [decode_1A (major_packX _ _ _), fn_packX, fields_packX]
  rfl

theorem EncodeDecode.iunarySexth (w : FmtX) : EncodeDecode.Statement (.iunarySexth w) := by
  intro _
  show decodeWord (packX 0x1A#7 0x09#8 w) = _
  rw [decode_1A (major_packX _ _ _), fn_packX, fields_packX]
  rfl

theorem EncodeDecode.shl (w : FmtA) : EncodeDecode.Statement (.shl w) := by
  intro _
  show decodeWord (packA 0x1B#7 w) = _
  rw [decode_1B (major_packA _ _), fields_packA]

theorem EncodeDecode.shr (w : FmtA) : EncodeDecode.Statement (.shr w) := by
  intro _
  show decodeWord (packA 0x1C#7 w) = _
  rw [decode_1C (major_packA _ _), fields_packA]

theorem EncodeDecode.shra (w : FmtA) : EncodeDecode.Statement (.shra w) := by
  intro _
  show decodeWord (packA 0x1D#7 w) = _
  rw [decode_1D (major_packA _ _), fields_packA]

theorem EncodeDecode.rotl (w : FmtA) : EncodeDecode.Statement (.rotl w) := by
  intro _
  show decodeWord (packA 0x1E#7 w) = _
  rw [decode_1E (major_packA _ _), fields_packA]

theorem EncodeDecode.and (w : FmtA) : EncodeDecode.Statement (.and w) := by
  intro _
  show decodeWord (packA 0x1F#7 w) = _
  rw [decode_1F (major_packA _ _), fields_packA]

theorem EncodeDecode.or (w : FmtA) : EncodeDecode.Statement (.or w) := by
  intro _
  show decodeWord (packA 0x20#7 w) = _
  rw [decode_20 (major_packA _ _), fields_packA]

theorem EncodeDecode.xor (w : FmtA) : EncodeDecode.Statement (.xor w) := by
  intro _
  show decodeWord (packA 0x21#7 w) = _
  rw [decode_21 (major_packA _ _), fields_packA]

theorem EncodeDecode.andn (w : FmtA) : EncodeDecode.Statement (.andn w) := by
  intro _
  show decodeWord (packA 0x22#7 w) = _
  rw [decode_22 (major_packA _ _), fields_packA]

theorem EncodeDecode.bfx (w : FmtA) : EncodeDecode.Statement (.bfx w) := by
  intro _
  show decodeWord (packA 0x23#7 w) = _
  rw [decode_23 (major_packA _ _), fields_packA]

theorem EncodeDecode.bfi (w : FmtA) : EncodeDecode.Statement (.bfi w) := by
  intro _
  show decodeWord (packA 0x24#7 w) = _
  rw [decode_24 (major_packA _ _), fields_packA]

theorem EncodeDecode.icmp (w : FmtP) : EncodeDecode.Statement (.icmp w) := by
  intro _
  show decodeWord (packP 0x25#7 w) = _
  rw [decode_25 (major_packP _ _)]
  simp [fields_packP, wordP, bit1_packP]

theorem EncodeDecode.icmpu (w : FmtP) : EncodeDecode.Statement (.icmpu w) := by
  intro _
  show decodeWord (packP 0x26#7 w) = _
  rw [decode_26 (major_packP _ _)]
  simp [fields_packP, wordP, bit1_packP]

theorem EncodeDecode.sel (w : FmtQ) : EncodeDecode.Statement (.sel w) := by
  intro _
  show decodeWord (packQ 0x27#7 w) = _
  rw [decode_27 (major_packQ _ _), fields_packQ]

theorem EncodeDecode.movi (w : FmtL) : EncodeDecode.Statement (.movi w) := by
  intro _
  show decodeWord (packL 0x28#7 w) = _
  rw [decode_28 (major_packL _ _), fields_packL]

theorem EncodeDecode.movhi (w : FmtL) : EncodeDecode.Statement (.movhi w) := by
  intro _
  show decodeWord (packL 0x29#7 w) = _
  rw [decode_29 (major_packL _ _), fields_packL]

theorem EncodeDecode.mov (w : FmtA) : EncodeDecode.Statement (.mov w) := by
  intro _
  show decodeWord (packA 0x2A#7 w) = _
  rw [decode_2A (major_packA _ _), fields_packA]

theorem EncodeDecode.iadd64 (w : FmtA) : EncodeDecode.Statement (.iadd64 w) := by
  intro _
  show decodeWord (packA 0x2B#7 w) = _
  rw [decode_2B (major_packA _ _), fields_packA]

theorem EncodeDecode.lea (w : FmtA) : EncodeDecode.Statement (.lea w) := by
  intro _
  show decodeWord (packA 0x2C#7 w) = _
  rw [decode_2C (major_packA _ _), fields_packA]

theorem EncodeDecode.icmp64 (w : FmtP) : EncodeDecode.Statement (.icmp64 w) := by
  intro _
  show decodeWord (packP 0x2D#7 w) = _
  rw [decode_2D (major_packP _ _)]
  simp [fields_packP, wordP, bit1_packP]

theorem EncodeDecode.dp4 (w : FmtA) : EncodeDecode.Statement (.dp4 w) := by
  intro _
  show decodeWord (packA 0x2E#7 w) = _
  rw [decode_2E (major_packA _ _), fields_packA]

theorem EncodeDecode.vaddmin (w : FmtA) : EncodeDecode.Statement (.vaddmin w) := by
  intro _
  show decodeWord (packA 0x2F#7 w) = _
  rw [decode_2F (major_packA _ _), fields_packA]

theorem EncodeDecode.laneShup (w : FmtX) (f : BitVec 1) (k : BitVec 5) : EncodeDecode.Statement (.laneShup w f k) := by
  intro _
  show decodeWord (packX 0x30#7 (0#2 ++ f ++ k) w) = _
  rw [decode_30 (major_packX _ _ _), fn_packX, fields_packX]
  have h1 : ∀ (f : BitVec 1) (k : BitVec 5), (0#2 ++ f ++ k : BitVec 8).extractLsb' 6 2 = 0 := by decide
  have h2 : ∀ (f : BitVec 1) (k : BitVec 5), (0#2 ++ f ++ k : BitVec 8).extractLsb' 5 1 = f := by decide
  have h3 : ∀ (f : BitVec 1) (k : BitVec 5), (0#2 ++ f ++ k : BitVec 8).extractLsb' 0 5 = k := by decide
  unfold fnOf30
  rw [if_pos (h1 f k), h2 f k, h3 f k]

theorem EncodeDecode.laneShdn (w : FmtX) (f : BitVec 1) (k : BitVec 5) : EncodeDecode.Statement (.laneShdn w f k) := by
  intro _
  show decodeWord (packX 0x30#7 (1#2 ++ f ++ k) w) = _
  rw [decode_30 (major_packX _ _ _), fn_packX, fields_packX]
  have h1 : ∀ (f : BitVec 1) (k : BitVec 5), ¬ ((1#2 ++ f ++ k : BitVec 8).extractLsb' 6 2 = 0) := by decide
  have h2 : ∀ (f : BitVec 1) (k : BitVec 5), (1#2 ++ f ++ k : BitVec 8).extractLsb' 6 2 = 1 := by decide
  have h3 : ∀ (f : BitVec 1) (k : BitVec 5), (1#2 ++ f ++ k : BitVec 8).extractLsb' 5 1 = f := by decide
  have h4 : ∀ (f : BitVec 1) (k : BitVec 5), (1#2 ++ f ++ k : BitVec 8).extractLsb' 0 5 = k := by decide
  unfold fnOf30
  rw [if_neg (h1 f k), if_pos (h2 f k), h3 f k, h4 f k]

theorem EncodeDecode.laneXor (w : FmtX) (k : BitVec 5) : EncodeDecode.Statement (.laneXor w k) := by
  intro _
  show decodeWord (packX 0x30#7 (4#3 ++ k) w) = _
  rw [decode_30 (major_packX _ _ _), fn_packX, fields_packX]
  have h1 : ∀ (k : BitVec 5), ¬ ((4#3 ++ k : BitVec 8).extractLsb' 6 2 = 0) := by decide
  have h2 : ∀ (k : BitVec 5), ¬ ((4#3 ++ k : BitVec 8).extractLsb' 6 2 = 1) := by decide
  have h3 : ∀ (k : BitVec 5), (4#3 ++ k : BitVec 8).extractLsb' 5 3 = 4 := by decide
  have h4 : ∀ (k : BitVec 5), (4#3 ++ k : BitVec 8).extractLsb' 0 5 = k := by decide
  unfold fnOf30
  rw [if_neg (h1 k), if_neg (h2 k), if_pos (h3 k), h4 k]

theorem EncodeDecode.laneidx (w : FmtA) : EncodeDecode.Statement (.laneidx w) := by
  intro _
  show decodeWord (packA 0x31#7 w) = _
  rw [decode_31 (major_packA _ _), fields_packA]

theorem EncodeDecode.bcast (w : FmtA) : EncodeDecode.Statement (.bcast w) := by
  intro _
  show decodeWord (packA 0x32#7 w) = _
  rw [decode_32 (major_packA _ _), fields_packA]

theorem EncodeDecode.gredAdd (w : FmtX) : EncodeDecode.Statement (.gredAdd w) := by
  intro _
  show decodeWord (packX 0x33#7 0x00#8 w) = _
  rw [decode_33 (major_packX _ _ _), fn_packX, fields_packX]
  rfl

theorem EncodeDecode.gredMin (w : FmtX) : EncodeDecode.Statement (.gredMin w) := by
  intro _
  show decodeWord (packX 0x33#7 0x01#8 w) = _
  rw [decode_33 (major_packX _ _ _), fn_packX, fields_packX]
  rfl

theorem EncodeDecode.gredMax (w : FmtX) : EncodeDecode.Statement (.gredMax w) := by
  intro _
  show decodeWord (packX 0x33#7 0x02#8 w) = _
  rw [decode_33 (major_packX _ _ _), fn_packX, fields_packX]
  rfl

theorem EncodeDecode.gredMinu (w : FmtX) : EncodeDecode.Statement (.gredMinu w) := by
  intro _
  show decodeWord (packX 0x33#7 0x03#8 w) = _
  rw [decode_33 (major_packX _ _ _), fn_packX, fields_packX]
  rfl

theorem EncodeDecode.gredMaxu (w : FmtX) : EncodeDecode.Statement (.gredMaxu w) := by
  intro _
  show decodeWord (packX 0x33#7 0x04#8 w) = _
  rw [decode_33 (major_packX _ _ _), fn_packX, fields_packX]
  rfl

theorem EncodeDecode.gredAnd (w : FmtX) : EncodeDecode.Statement (.gredAnd w) := by
  intro _
  show decodeWord (packX 0x33#7 0x05#8 w) = _
  rw [decode_33 (major_packX _ _ _), fn_packX, fields_packX]
  rfl

theorem EncodeDecode.gredOr (w : FmtX) : EncodeDecode.Statement (.gredOr w) := by
  intro _
  show decodeWord (packX 0x33#7 0x06#8 w) = _
  rw [decode_33 (major_packX _ _ _), fn_packX, fields_packX]
  rfl

theorem EncodeDecode.gredXor (w : FmtX) : EncodeDecode.Statement (.gredXor w) := by
  intro _
  show decodeWord (packX 0x33#7 0x07#8 w) = _
  rw [decode_33 (major_packX _ _ _), fn_packX, fields_packX]
  rfl

theorem EncodeDecode.gredFadd (w : FmtX) : EncodeDecode.Statement (.gredFadd w) := by
  intro _
  show decodeWord (packX 0x33#7 0x08#8 w) = _
  rw [decode_33 (major_packX _ _ _), fn_packX, fields_packX]
  rfl

theorem EncodeDecode.gredFmin (w : FmtX) : EncodeDecode.Statement (.gredFmin w) := by
  intro _
  show decodeWord (packX 0x33#7 0x09#8 w) = _
  rw [decode_33 (major_packX _ _ _), fn_packX, fields_packX]
  rfl

theorem EncodeDecode.gredFmax (w : FmtX) : EncodeDecode.Statement (.gredFmax w) := by
  intro _
  show decodeWord (packX 0x33#7 0x0A#8 w) = _
  rw [decode_33 (major_packX _ _ _), fn_packX, fields_packX]
  rfl

theorem EncodeDecode.gscanAdd (w : FmtX) (e : BitVec 1) : EncodeDecode.Statement (.gscanAdd w e) := by
  intro _
  show decodeWord (packX 0x34#7 (e ++ 0#7) w) = _
  rw [decode_34 (major_packX _ _ _), fn_packX, fields_packX]
  have h1 : ∀ (e : BitVec 1), (e ++ 0#7 : BitVec 8).extractLsb' 0 7 = 0 := by decide
  have h2 : ∀ (e : BitVec 1), (e ++ 0#7 : BitVec 8).extractLsb' 7 1 = e := by decide
  unfold fnOf34
  rw [if_pos (h1 e), h2 e]

theorem EncodeDecode.gscanMin (w : FmtX) (e : BitVec 1) : EncodeDecode.Statement (.gscanMin w e) := by
  intro _
  show decodeWord (packX 0x34#7 (e ++ 1#7) w) = _
  rw [decode_34 (major_packX _ _ _), fn_packX, fields_packX]
  have h1 : ∀ (e : BitVec 1), ¬ ((e ++ 1#7 : BitVec 8).extractLsb' 0 7 = 0) := by decide
  have h2 : ∀ (e : BitVec 1), (e ++ 1#7 : BitVec 8).extractLsb' 0 7 = 1 := by decide
  have h3 : ∀ (e : BitVec 1), (e ++ 1#7 : BitVec 8).extractLsb' 7 1 = e := by decide
  unfold fnOf34
  rw [if_neg (h1 e), if_pos (h2 e), h3 e]

theorem EncodeDecode.gscanMax (w : FmtX) (e : BitVec 1) : EncodeDecode.Statement (.gscanMax w e) := by
  intro _
  show decodeWord (packX 0x34#7 (e ++ 2#7) w) = _
  rw [decode_34 (major_packX _ _ _), fn_packX, fields_packX]
  have h1 : ∀ (e : BitVec 1), ¬ ((e ++ 2#7 : BitVec 8).extractLsb' 0 7 = 0) := by decide
  have h2 : ∀ (e : BitVec 1), ¬ ((e ++ 2#7 : BitVec 8).extractLsb' 0 7 = 1) := by decide
  have h3 : ∀ (e : BitVec 1), (e ++ 2#7 : BitVec 8).extractLsb' 0 7 = 2 := by decide
  have h4 : ∀ (e : BitVec 1), (e ++ 2#7 : BitVec 8).extractLsb' 7 1 = e := by decide
  unfold fnOf34
  rw [if_neg (h1 e), if_neg (h2 e), if_pos (h3 e), h4 e]

theorem EncodeDecode.getidLane (w : FmtX) : EncodeDecode.Statement (.getidLane w) := by
  intro _
  show decodeWord (packX 0x35#7 0x00#8 w) = _
  rw [decode_35 (major_packX _ _ _), fn_packX, fields_packX]
  rfl

theorem EncodeDecode.getidGroup (w : FmtX) : EncodeDecode.Statement (.getidGroup w) := by
  intro _
  show decodeWord (packX 0x35#7 0x01#8 w) = _
  rw [decode_35 (major_packX _ _ _), fn_packX, fields_packX]
  rfl

theorem EncodeDecode.getidTeamx (w : FmtX) : EncodeDecode.Statement (.getidTeamx w) := by
  intro _
  show decodeWord (packX 0x35#7 0x02#8 w) = _
  rw [decode_35 (major_packX _ _ _), fn_packX, fields_packX]
  rfl

theorem EncodeDecode.getidTeamy (w : FmtX) : EncodeDecode.Statement (.getidTeamy w) := by
  intro _
  show decodeWord (packX 0x35#7 0x03#8 w) = _
  rw [decode_35 (major_packX _ _ _), fn_packX, fields_packX]
  rfl

theorem EncodeDecode.getidTeamz (w : FmtX) : EncodeDecode.Statement (.getidTeamz w) := by
  intro _
  show decodeWord (packX 0x35#7 0x04#8 w) = _
  rw [decode_35 (major_packX _ _ _), fn_packX, fields_packX]
  rfl

theorem EncodeDecode.getidRole (w : FmtX) : EncodeDecode.Statement (.getidRole w) := by
  intro _
  show decodeWord (packX 0x35#7 0x05#8 w) = _
  rw [decode_35 (major_packX _ _ _), fn_packX, fields_packX]
  rfl

theorem EncodeDecode.getidVdie (w : FmtX) : EncodeDecode.Statement (.getidVdie w) := by
  intro _
  show decodeWord (packX 0x35#7 0x06#8 w) = _
  rw [decode_35 (major_packX _ _ _), fn_packX, fields_packX]
  rfl

theorem EncodeDecode.getidNvdie (w : FmtX) : EncodeDecode.Statement (.getidNvdie w) := by
  intro _
  show decodeWord (packX 0x35#7 0x07#8 w) = _
  rw [decode_35 (major_packX _ _ _), fn_packX, fields_packX]
  rfl

theorem EncodeDecode.getidCluster (w : FmtX) : EncodeDecode.Statement (.getidCluster w) := by
  intro _
  show decodeWord (packX 0x35#7 0x08#8 w) = _
  rw [decode_35 (major_packX _ _ _), fn_packX, fields_packX]
  rfl

theorem EncodeDecode.getidBay (w : FmtX) : EncodeDecode.Statement (.getidBay w) := by
  intro _
  show decodeWord (packX 0x35#7 0x09#8 w) = _
  rw [decode_35 (major_packX _ _ _), fn_packX, fields_packX]
  rfl

theorem EncodeDecode.getidGridx (w : FmtX) : EncodeDecode.Statement (.getidGridx w) := by
  intro _
  show decodeWord (packX 0x35#7 0x0A#8 w) = _
  rw [decode_35 (major_packX _ _ _), fn_packX, fields_packX]
  rfl

theorem EncodeDecode.getidGridy (w : FmtX) : EncodeDecode.Statement (.getidGridy w) := by
  intro _
  show decodeWord (packX 0x35#7 0x0B#8 w) = _
  rw [decode_35 (major_packX _ _ _), fn_packX, fields_packX]
  rfl

theorem EncodeDecode.getidGridz (w : FmtX) : EncodeDecode.Statement (.getidGridz w) := by
  intro _
  show decodeWord (packX 0x35#7 0x0C#8 w) = _
  rw [decode_35 (major_packX _ _ _), fn_packX, fields_packX]
  rfl

theorem EncodeDecode.vdhop (w : FmtA) : EncodeDecode.Statement (.vdhop w) := by
  intro _
  show decodeWord (packA 0x36#7 w) = _
  rw [decode_36 (major_packA _ _), fields_packA]

theorem EncodeDecode.cycle (w : FmtX) : EncodeDecode.Statement (.cycle w) := by
  intro _
  show decodeWord (packX 0x37#7 0x00#8 w) = _
  rw [decode_37 (major_packX _ _ _), fn_packX, fields_packX]
  rfl

theorem EncodeDecode.fadd (w : FmtA) : EncodeDecode.Statement (.fadd w) := by
  intro _
  show decodeWord (packA 0x38#7 w) = _
  rw [decode_38 (major_packA _ _), fields_packA]

theorem EncodeDecode.fsub (w : FmtA) : EncodeDecode.Statement (.fsub w) := by
  intro _
  show decodeWord (packA 0x39#7 w) = _
  rw [decode_39 (major_packA _ _), fields_packA]

theorem EncodeDecode.fmul (w : FmtA) : EncodeDecode.Statement (.fmul w) := by
  intro _
  show decodeWord (packA 0x3A#7 w) = _
  rw [decode_3A (major_packA _ _), fields_packA]

theorem EncodeDecode.ffma (w : FmtA) : EncodeDecode.Statement (.ffma w) := by
  intro _
  show decodeWord (packA 0x3B#7 w) = _
  rw [decode_3B (major_packA _ _), fields_packA]

theorem EncodeDecode.fmin (w : FmtA) : EncodeDecode.Statement (.fmin w) := by
  intro _
  show decodeWord (packA 0x3C#7 w) = _
  rw [decode_3C (major_packA _ _), fields_packA]

theorem EncodeDecode.fmax (w : FmtA) : EncodeDecode.Statement (.fmax w) := by
  intro _
  show decodeWord (packA 0x3D#7 w) = _
  rw [decode_3D (major_packA _ _), fields_packA]

theorem EncodeDecode.fcmp (w : FmtP) : EncodeDecode.Statement (.fcmp w) := by
  intro _
  show decodeWord (packP 0x3E#7 w) = _
  rw [decode_3E (major_packP _ _)]
  simp [fields_packP, wordP, bit1_packP]

theorem EncodeDecode.funaryNeg (w : FmtX) : EncodeDecode.Statement (.funaryNeg w) := by
  intro _
  show decodeWord (packX 0x3F#7 0x00#8 w) = _
  rw [decode_3F (major_packX _ _ _), fn_packX, fields_packX]
  rfl

theorem EncodeDecode.funaryAbs (w : FmtX) : EncodeDecode.Statement (.funaryAbs w) := by
  intro _
  show decodeWord (packX 0x3F#7 0x01#8 w) = _
  rw [decode_3F (major_packX _ _ _), fn_packX, fields_packX]
  rfl

theorem EncodeDecode.funaryRcp (w : FmtX) : EncodeDecode.Statement (.funaryRcp w) := by
  intro _
  show decodeWord (packX 0x3F#7 0x02#8 w) = _
  rw [decode_3F (major_packX _ _ _), fn_packX, fields_packX]
  rfl

theorem EncodeDecode.funaryRsq (w : FmtX) : EncodeDecode.Statement (.funaryRsq w) := by
  intro _
  show decodeWord (packX 0x3F#7 0x03#8 w) = _
  rw [decode_3F (major_packX _ _ _), fn_packX, fields_packX]
  rfl

theorem EncodeDecode.funarySqrt (w : FmtX) : EncodeDecode.Statement (.funarySqrt w) := by
  intro _
  show decodeWord (packX 0x3F#7 0x04#8 w) = _
  rw [decode_3F (major_packX _ _ _), fn_packX, fields_packX]
  rfl

theorem EncodeDecode.funaryExp2 (w : FmtX) : EncodeDecode.Statement (.funaryExp2 w) := by
  intro _
  show decodeWord (packX 0x3F#7 0x05#8 w) = _
  rw [decode_3F (major_packX _ _ _), fn_packX, fields_packX]
  rfl

theorem EncodeDecode.funaryLog2 (w : FmtX) : EncodeDecode.Statement (.funaryLog2 w) := by
  intro _
  show decodeWord (packX 0x3F#7 0x06#8 w) = _
  rw [decode_3F (major_packX _ _ _), fn_packX, fields_packX]
  rfl

theorem EncodeDecode.funarySinpi (w : FmtX) : EncodeDecode.Statement (.funarySinpi w) := by
  intro _
  show decodeWord (packX 0x3F#7 0x07#8 w) = _
  rw [decode_3F (major_packX _ _ _), fn_packX, fields_packX]
  rfl

theorem EncodeDecode.funaryCospi (w : FmtX) : EncodeDecode.Statement (.funaryCospi w) := by
  intro _
  show decodeWord (packX 0x3F#7 0x08#8 w) = _
  rw [decode_3F (major_packX _ _ _), fn_packX, fields_packX]
  rfl

theorem EncodeDecode.funaryFloor (w : FmtX) : EncodeDecode.Statement (.funaryFloor w) := by
  intro _
  show decodeWord (packX 0x3F#7 0x09#8 w) = _
  rw [decode_3F (major_packX _ _ _), fn_packX, fields_packX]
  rfl

theorem EncodeDecode.funaryCeil (w : FmtX) : EncodeDecode.Statement (.funaryCeil w) := by
  intro _
  show decodeWord (packX 0x3F#7 0x0A#8 w) = _
  rw [decode_3F (major_packX _ _ _), fn_packX, fields_packX]
  rfl

theorem EncodeDecode.funaryTrunc (w : FmtX) : EncodeDecode.Statement (.funaryTrunc w) := by
  intro _
  show decodeWord (packX 0x3F#7 0x0B#8 w) = _
  rw [decode_3F (major_packX _ _ _), fn_packX, fields_packX]
  rfl

theorem EncodeDecode.funaryRndne (w : FmtX) : EncodeDecode.Statement (.funaryRndne w) := by
  intro _
  show decodeWord (packX 0x3F#7 0x0C#8 w) = _
  rw [decode_3F (major_packX _ _ _), fn_packX, fields_packX]
  rfl

theorem EncodeDecode.funaryFract (w : FmtX) : EncodeDecode.Statement (.funaryFract w) := by
  intro _
  show decodeWord (packX 0x3F#7 0x0D#8 w) = _
  rw [decode_3F (major_packX _ _ _), fn_packX, fields_packX]
  rfl

theorem EncodeDecode.fscale (w : FmtA) : EncodeDecode.Statement (.fscale w) := by
  intro _
  show decodeWord (packA 0x40#7 w) = _
  rw [decode_40 (major_packA _ _), fields_packA]

theorem EncodeDecode.hadd2 (w : FmtA) : EncodeDecode.Statement (.hadd2 w) := by
  intro _
  show decodeWord (packA 0x41#7 w) = _
  rw [decode_41 (major_packA _ _), fields_packA]

theorem EncodeDecode.hmul2 (w : FmtA) : EncodeDecode.Statement (.hmul2 w) := by
  intro _
  show decodeWord (packA 0x42#7 w) = _
  rw [decode_42 (major_packA _ _), fields_packA]

theorem EncodeDecode.hfma2 (w : FmtA) : EncodeDecode.Statement (.hfma2 w) := by
  intro _
  show decodeWord (packA 0x43#7 w) = _
  rw [decode_43 (major_packA _ _), fields_packA]

theorem EncodeDecode.badd2 (w : FmtA) : EncodeDecode.Statement (.badd2 w) := by
  intro _
  show decodeWord (packA 0x44#7 w) = _
  rw [decode_44 (major_packA _ _), fields_packA]

theorem EncodeDecode.bmul2 (w : FmtA) : EncodeDecode.Statement (.bmul2 w) := by
  intro _
  show decodeWord (packA 0x45#7 w) = _
  rw [decode_45 (major_packA _ _), fields_packA]

theorem EncodeDecode.bfma2 (w : FmtA) : EncodeDecode.Statement (.bfma2 w) := by
  intro _
  show decodeWord (packA 0x46#7 w) = _
  rw [decode_46 (major_packA _ _), fields_packA]

theorem EncodeDecode.famax (w : FmtA) : EncodeDecode.Statement (.famax w) := by
  intro _
  show decodeWord (packA 0x47#7 w) = _
  rw [decode_47 (major_packA _ _), fields_packA]

theorem EncodeDecode.cvt (w : FmtX) (t : BitVec 3) (s : BitVec 3) (m : BitVec 2) : EncodeDecode.Statement (.cvt w t s m) := by
  intro _
  show decodeWord (packX 0x48#7 (t ++ s ++ m) w) = _
  rw [decode_48 (major_packX _ _ _), fn_packX, fields_packX]
  have h1 : ∀ (t : BitVec 3) (s : BitVec 3) (m : BitVec 2), (t ++ s ++ m : BitVec 8).extractLsb' 5 3 = t := by decide
  have h2 : ∀ (t : BitVec 3) (s : BitVec 3) (m : BitVec 2), (t ++ s ++ m : BitVec 8).extractLsb' 2 3 = s := by decide
  have h3 : ∀ (t : BitVec 3) (s : BitVec 3) (m : BitVec 2), (t ++ s ++ m : BitVec 8).extractLsb' 0 2 = m := by decide
  unfold fnOf48
  rw [h1 t s m, h2 t s m, h3 t s m]

theorem EncodeDecode.cvtn (w : FmtA) : EncodeDecode.Statement (.cvtn w) := by
  intro _
  show decodeWord (packA 0x49#7 w) = _
  rw [decode_49 (major_packA _ _), fields_packA]

theorem EncodeDecode.qscale (w : FmtA) : EncodeDecode.Statement (.qscale w) := by
  intro _
  show decodeWord (packA 0x4A#7 w) = _
  rw [decode_4A (major_packA _ _), fields_packA]

theorem EncodeDecode.cbld (w : FmtX) (k : BitVec 4) : EncodeDecode.Statement (.cbld w k) := by
  intro _
  show decodeWord (packX 0x4B#7 (0#4 ++ k) w) = _
  rw [decode_4B (major_packX _ _ _), fn_packX, fields_packX]
  have h1 : ∀ (k : BitVec 4), (0#4 ++ k : BitVec 8).extractLsb' 4 4 = 0 := by decide
  have h2 : ∀ (k : BitVec 4), (0#4 ++ k : BitVec 8).extractLsb' 0 4 = k := by decide
  unfold fnOf4B
  rw [if_pos (h1 k), h2 k]

theorem EncodeDecode.cbdec (w : FmtA) : EncodeDecode.Statement (.cbdec w) := by
  intro _
  show decodeWord (packA 0x4C#7 w) = _
  rw [decode_4C (major_packA _ _), fields_packA]

theorem EncodeDecode.mma (w : FmtT) : EncodeDecode.Statement (.mma w) := by
  intro _
  show decodeWord (packT 0x50#7 w) = _
  rw [decode_50 (major_packT _ _), fields_packT]

theorem EncodeDecode.mmaf (w : FmtT) : EncodeDecode.Statement (.mmaf w) := by
  intro _
  show decodeWord (packT 0x51#7 w) = _
  rw [decode_51 (major_packT _ _), fields_packT]

theorem EncodeDecode.mmaz (w : FmtT) : EncodeDecode.Statement (.mmaz w) := by
  intro _
  show decodeWord (packT 0x52#7 w) = _
  rw [decode_52 (major_packT _ _), fields_packT]

theorem EncodeDecode.tzero (w : FmtT) : EncodeDecode.Statement (.tzero w) := by
  intro _
  show decodeWord (packT 0x53#7 w) = _
  rw [decode_53 (major_packT _ _), fields_packT]

theorem EncodeDecode.trd (w : FmtT) : EncodeDecode.Statement (.trd w) := by
  intro _
  show decodeWord (packT 0x54#7 w) = _
  rw [decode_54 (major_packT _ _), fields_packT]

theorem EncodeDecode.twr (w : FmtT) : EncodeDecode.Statement (.twr w) := by
  intro _
  show decodeWord (packT 0x55#7 w) = _
  rw [decode_55 (major_packT _ _), fields_packT]

theorem EncodeDecode.twm (w : FmtT) : EncodeDecode.Statement (.twm w) := by
  intro _
  show decodeWord (packT 0x56#7 w) = _
  rw [decode_56 (major_packT _ _), fields_packT]

theorem EncodeDecode.fhset (w : FmtX) : EncodeDecode.Statement (.fhset w) := by
  intro _
  show decodeWord (packX 0x57#7 0x00#8 w) = _
  rw [decode_57 (major_packX _ _ _), fn_packX, fields_packX]
  rfl

theorem EncodeDecode.tcvt (w : FmtT) : EncodeDecode.Statement (.tcvt w) := by
  intro _
  show decodeWord (packT 0x58#7 w) = _
  rw [decode_58 (major_packT _ _), fields_packT]

theorem EncodeDecode.tscl (w : FmtT) : EncodeDecode.Statement (.tscl w) := by
  intro _
  show decodeWord (packT 0x59#7 w) = _
  rw [decode_59 (major_packT _ _), fields_packT]

theorem EncodeDecode.ldb (w : FmtM) : EncodeDecode.Statement (.ldb w) := by
  intro _
  show decodeWord (packM 0x5A#7 w) = _
  rw [decode_5A (major_packM _ _), fields_packM]

theorem EncodeDecode.ldh (w : FmtM) : EncodeDecode.Statement (.ldh w) := by
  intro _
  show decodeWord (packM 0x5B#7 w) = _
  rw [decode_5B (major_packM _ _), fields_packM]

theorem EncodeDecode.ldw (w : FmtM) : EncodeDecode.Statement (.ldw w) := by
  intro _
  show decodeWord (packM 0x5C#7 w) = _
  rw [decode_5C (major_packM _ _), fields_packM]

theorem EncodeDecode.ldd (w : FmtM) : EncodeDecode.Statement (.ldd w) := by
  intro _
  show decodeWord (packM 0x5D#7 w) = _
  rw [decode_5D (major_packM _ _), fields_packM]

theorem EncodeDecode.ldq (w : FmtM) : EncodeDecode.Statement (.ldq w) := by
  intro _
  show decodeWord (packM 0x5E#7 w) = _
  rw [decode_5E (major_packM _ _), fields_packM]

theorem EncodeDecode.stb (w : FmtM) : EncodeDecode.Statement (.stb w) := by
  intro _
  show decodeWord (packM 0x5F#7 w) = _
  rw [decode_5F (major_packM _ _), fields_packM]

theorem EncodeDecode.sth (w : FmtM) : EncodeDecode.Statement (.sth w) := by
  intro _
  show decodeWord (packM 0x60#7 w) = _
  rw [decode_60 (major_packM _ _), fields_packM]

theorem EncodeDecode.stw (w : FmtM) : EncodeDecode.Statement (.stw w) := by
  intro _
  show decodeWord (packM 0x61#7 w) = _
  rw [decode_61 (major_packM _ _), fields_packM]

theorem EncodeDecode.std (w : FmtM) : EncodeDecode.Statement (.std w) := by
  intro _
  show decodeWord (packM 0x62#7 w) = _
  rw [decode_62 (major_packM _ _), fields_packM]

theorem EncodeDecode.stq (w : FmtM) : EncodeDecode.Statement (.stq w) := by
  intro _
  show decodeWord (packM 0x63#7 w) = _
  rw [decode_63 (major_packM _ _), fields_packM]

theorem EncodeDecode.ldxLdsc (w : FmtX) (r : BitVec 2) : EncodeDecode.Statement (.ldxLdsc w r) := by
  intro _
  show decodeWord (packX 0x64#7 (r ++ 0#6) w) = _
  rw [decode_64 (major_packX _ _ _), fn_packX, fields_packX]
  have h1 : ∀ (r : BitVec 2), (r ++ 0#6 : BitVec 8).extractLsb' 0 6 = 0 := by decide
  have h2 : ∀ (r : BitVec 2), (r ++ 0#6 : BitVec 8).extractLsb' 6 2 = r := by decide
  unfold fnOf64
  rw [if_pos (h1 r), h2 r]

theorem EncodeDecode.ldxLsib (w : FmtX) (r : BitVec 2) (i : BitVec 3) : EncodeDecode.Statement (.ldxLsib w r i) := by
  intro _
  show decodeWord (packX 0x64#7 (r ++ i ++ 1#3) w) = _
  rw [decode_64 (major_packX _ _ _), fn_packX, fields_packX]
  have h1 : ∀ (r : BitVec 2) (i : BitVec 3), ¬ ((r ++ i ++ 1#3 : BitVec 8).extractLsb' 0 6 = 0) := by decide
  have h2 : ∀ (r : BitVec 2) (i : BitVec 3), (r ++ i ++ 1#3 : BitVec 8).extractLsb' 0 3 = 1 := by decide
  have h3 : ∀ (r : BitVec 2) (i : BitVec 3), (r ++ i ++ 1#3 : BitVec 8).extractLsb' 6 2 = r := by decide
  have h4 : ∀ (r : BitVec 2) (i : BitVec 3), (r ++ i ++ 1#3 : BitVec 8).extractLsb' 3 3 = i := by decide
  unfold fnOf64
  rw [if_neg (h1 r i), if_pos (h2 r i), h3 r i, h4 r i]

theorem EncodeDecode.ldxLdnc (w : FmtX) (r : BitVec 2) (s : BitVec 3) : EncodeDecode.Statement (.ldxLdnc w r s) := by
  intro _
  show decodeWord (packX 0x64#7 (r ++ s ++ 2#3) w) = _
  rw [decode_64 (major_packX _ _ _), fn_packX, fields_packX]
  have h1 : ∀ (r : BitVec 2) (s : BitVec 3), ¬ ((r ++ s ++ 2#3 : BitVec 8).extractLsb' 0 6 = 0) := by decide
  have h2 : ∀ (r : BitVec 2) (s : BitVec 3), ¬ ((r ++ s ++ 2#3 : BitVec 8).extractLsb' 0 3 = 1) := by decide
  have h3 : ∀ (r : BitVec 2) (s : BitVec 3), (r ++ s ++ 2#3 : BitVec 8).extractLsb' 0 3 = 2 := by decide
  have h4 : ∀ (r : BitVec 2) (s : BitVec 3), (r ++ s ++ 2#3 : BitVec 8).extractLsb' 6 2 = r := by decide
  have h5 : ∀ (r : BitVec 2) (s : BitVec 3), (r ++ s ++ 2#3 : BitVec 8).extractLsb' 3 3 = s := by decide
  unfold fnOf64
  rw [if_neg (h1 r s), if_neg (h2 r s), if_pos (h3 r s), h4 r s, h5 r s]

theorem EncodeDecode.ldxPref (w : FmtX) : EncodeDecode.Statement (.ldxPref w) := by
  intro _
  show decodeWord (packX 0x64#7 0x03#8 w) = _
  rw [decode_64 (major_packX _ _ _), fn_packX, fields_packX]
  rfl

theorem EncodeDecode.lds (w : FmtM) : EncodeDecode.Statement (.lds w) := by
  intro _
  show decodeWord (packM 0x65#7 w) = _
  rw [decode_65 (major_packM _ _), fields_packM]

theorem EncodeDecode.sts (w : FmtM) : EncodeDecode.Statement (.sts w) := by
  intro _
  show decodeWord (packM 0x66#7 w) = _
  rw [decode_66 (major_packM _ _), fields_packM]

theorem EncodeDecode.memxFence (w : FmtX) (s : BitVec 4) : EncodeDecode.Statement (.memxFence w s) := by
  intro _
  show decodeWord (packX 0x67#7 (0#4 ++ s) w) = _
  rw [decode_67 (major_packX _ _ _), fn_packX, fields_packX]
  have h1 : ∀ (s : BitVec 4), (0#4 ++ s : BitVec 8).extractLsb' 4 4 = 0 := by decide
  have h2 : ∀ (s : BitVec 4), (0#4 ++ s : BitVec 8).extractLsb' 0 4 = s := by decide
  unfold fnOf67
  rw [if_pos (h1 s), h2 s]

theorem EncodeDecode.memxFenceva (w : FmtX) : EncodeDecode.Statement (.memxFenceva w) := by
  intro _
  show decodeWord (packX 0x67#7 0x10#8 w) = _
  rw [decode_67 (major_packX _ _ _), fn_packX, fields_packX]
  rfl

theorem EncodeDecode.memxWaitc (w : FmtX) (c : BitVec 4) : EncodeDecode.Statement (.memxWaitc w c) := by
  intro _
  show decodeWord (packX 0x67#7 (2#4 ++ c) w) = _
  rw [decode_67 (major_packX _ _ _), fn_packX, fields_packX]
  have h1 : ∀ (c : BitVec 4), ¬ ((2#4 ++ c : BitVec 8).extractLsb' 4 4 = 0) := by decide
  have h2 : ∀ (c : BitVec 4), ¬ ((2#4 ++ c : BitVec 8).extractLsb' 0 8 = 16) := by decide
  have h3 : ∀ (c : BitVec 4), (2#4 ++ c : BitVec 8).extractLsb' 4 4 = 2 := by decide
  have h4 : ∀ (c : BitVec 4), (2#4 ++ c : BitVec 8).extractLsb' 0 4 = c := by decide
  unfold fnOf67
  rw [if_neg (h1 c), if_neg (h2 c), if_pos (h3 c), h4 c]

theorem EncodeDecode.memxCntq (w : FmtX) (c : BitVec 4) : EncodeDecode.Statement (.memxCntq w c) := by
  intro _
  show decodeWord (packX 0x67#7 (3#4 ++ c) w) = _
  rw [decode_67 (major_packX _ _ _), fn_packX, fields_packX]
  have h1 : ∀ (c : BitVec 4), ¬ ((3#4 ++ c : BitVec 8).extractLsb' 4 4 = 0) := by decide
  have h2 : ∀ (c : BitVec 4), ¬ ((3#4 ++ c : BitVec 8).extractLsb' 0 8 = 16) := by decide
  have h3 : ∀ (c : BitVec 4), ¬ ((3#4 ++ c : BitVec 8).extractLsb' 4 4 = 2) := by decide
  have h4 : ∀ (c : BitVec 4), (3#4 ++ c : BitVec 8).extractLsb' 4 4 = 3 := by decide
  have h5 : ∀ (c : BitVec 4), (3#4 ++ c : BitVec 8).extractLsb' 0 4 = c := by decide
  unfold fnOf67
  rw [if_neg (h1 c), if_neg (h2 c), if_neg (h3 c), if_pos (h4 c), h5 c]

theorem EncodeDecode.memxCinv (w : FmtX) : EncodeDecode.Statement (.memxCinv w) := by
  intro _
  show decodeWord (packX 0x67#7 0x40#8 w) = _
  rw [decode_67 (major_packX _ _ _), fn_packX, fields_packX]
  rfl

theorem EncodeDecode.memxSplitq (w : FmtX) : EncodeDecode.Statement (.memxSplitq w) := by
  intro _
  show decodeWord (packX 0x67#7 0x50#8 w) = _
  rw [decode_67 (major_packX _ _ _), fn_packX, fields_packX]
  rfl

theorem EncodeDecode.drayCopy (w : FmtX) (m : BitVec 1) : EncodeDecode.Statement (.drayCopy w m) := by
  intro _
  show decodeWord (packX 0x68#7 (m ++ 0#7) w) = _
  rw [decode_68 (major_packX _ _ _), fn_packX, fields_packX]
  have h1 : ∀ (m : BitVec 1), (m ++ 0#7 : BitVec 8).extractLsb' 0 7 = 0 := by decide
  have h2 : ∀ (m : BitVec 1), (m ++ 0#7 : BitVec 8).extractLsb' 7 1 = m := by decide
  unfold fnOf68
  rw [if_pos (h1 m), h2 m]

theorem EncodeDecode.drayCopy2d (w : FmtX) (m : BitVec 1) : EncodeDecode.Statement (.drayCopy2d w m) := by
  intro _
  show decodeWord (packX 0x68#7 (m ++ 1#7) w) = _
  rw [decode_68 (major_packX _ _ _), fn_packX, fields_packX]
  have h1 : ∀ (m : BitVec 1), ¬ ((m ++ 1#7 : BitVec 8).extractLsb' 0 7 = 0) := by decide
  have h2 : ∀ (m : BitVec 1), (m ++ 1#7 : BitVec 8).extractLsb' 0 7 = 1 := by decide
  have h3 : ∀ (m : BitVec 1), (m ++ 1#7 : BitVec 8).extractLsb' 7 1 = m := by decide
  unfold fnOf68
  rw [if_neg (h1 m), if_pos (h2 m), h3 m]

theorem EncodeDecode.drayGather (w : FmtX) (m : BitVec 1) : EncodeDecode.Statement (.drayGather w m) := by
  intro _
  show decodeWord (packX 0x68#7 (m ++ 2#7) w) = _
  rw [decode_68 (major_packX _ _ _), fn_packX, fields_packX]
  have h1 : ∀ (m : BitVec 1), ¬ ((m ++ 2#7 : BitVec 8).extractLsb' 0 7 = 0) := by decide
  have h2 : ∀ (m : BitVec 1), ¬ ((m ++ 2#7 : BitVec 8).extractLsb' 0 7 = 1) := by decide
  have h3 : ∀ (m : BitVec 1), (m ++ 2#7 : BitVec 8).extractLsb' 0 7 = 2 := by decide
  have h4 : ∀ (m : BitVec 1), (m ++ 2#7 : BitVec 8).extractLsb' 7 1 = m := by decide
  unfold fnOf68
  rw [if_neg (h1 m), if_neg (h2 m), if_pos (h3 m), h4 m]

theorem EncodeDecode.drayScatter (w : FmtX) (m : BitVec 1) : EncodeDecode.Statement (.drayScatter w m) := by
  intro _
  show decodeWord (packX 0x68#7 (m ++ 3#7) w) = _
  rw [decode_68 (major_packX _ _ _), fn_packX, fields_packX]
  have h1 : ∀ (m : BitVec 1), ¬ ((m ++ 3#7 : BitVec 8).extractLsb' 0 7 = 0) := by decide
  have h2 : ∀ (m : BitVec 1), ¬ ((m ++ 3#7 : BitVec 8).extractLsb' 0 7 = 1) := by decide
  have h3 : ∀ (m : BitVec 1), ¬ ((m ++ 3#7 : BitVec 8).extractLsb' 0 7 = 2) := by decide
  have h4 : ∀ (m : BitVec 1), (m ++ 3#7 : BitVec 8).extractLsb' 0 7 = 3 := by decide
  have h5 : ∀ (m : BitVec 1), (m ++ 3#7 : BitVec 8).extractLsb' 7 1 = m := by decide
  unfold fnOf68
  rw [if_neg (h1 m), if_neg (h2 m), if_neg (h3 m), if_pos (h4 m), h5 m]

theorem EncodeDecode.draySpill (w : FmtX) (m : BitVec 1) : EncodeDecode.Statement (.draySpill w m) := by
  intro _
  show decodeWord (packX 0x68#7 (m ++ 4#7) w) = _
  rw [decode_68 (major_packX _ _ _), fn_packX, fields_packX]
  have h1 : ∀ (m : BitVec 1), ¬ ((m ++ 4#7 : BitVec 8).extractLsb' 0 7 = 0) := by decide
  have h2 : ∀ (m : BitVec 1), ¬ ((m ++ 4#7 : BitVec 8).extractLsb' 0 7 = 1) := by decide
  have h3 : ∀ (m : BitVec 1), ¬ ((m ++ 4#7 : BitVec 8).extractLsb' 0 7 = 2) := by decide
  have h4 : ∀ (m : BitVec 1), ¬ ((m ++ 4#7 : BitVec 8).extractLsb' 0 7 = 3) := by decide
  have h5 : ∀ (m : BitVec 1), (m ++ 4#7 : BitVec 8).extractLsb' 0 7 = 4 := by decide
  have h6 : ∀ (m : BitVec 1), (m ++ 4#7 : BitVec 8).extractLsb' 7 1 = m := by decide
  unfold fnOf68
  rw [if_neg (h1 m), if_neg (h2 m), if_neg (h3 m), if_neg (h4 m), if_pos (h5 m), h6 m]

theorem EncodeDecode.drayGcopy (w : FmtX) (m : BitVec 1) : EncodeDecode.Statement (.drayGcopy w m) := by
  intro _
  show decodeWord (packX 0x68#7 (m ++ 5#7) w) = _
  rw [decode_68 (major_packX _ _ _), fn_packX, fields_packX]
  have h1 : ∀ (m : BitVec 1), ¬ ((m ++ 5#7 : BitVec 8).extractLsb' 0 7 = 0) := by decide
  have h2 : ∀ (m : BitVec 1), ¬ ((m ++ 5#7 : BitVec 8).extractLsb' 0 7 = 1) := by decide
  have h3 : ∀ (m : BitVec 1), ¬ ((m ++ 5#7 : BitVec 8).extractLsb' 0 7 = 2) := by decide
  have h4 : ∀ (m : BitVec 1), ¬ ((m ++ 5#7 : BitVec 8).extractLsb' 0 7 = 3) := by decide
  have h5 : ∀ (m : BitVec 1), ¬ ((m ++ 5#7 : BitVec 8).extractLsb' 0 7 = 4) := by decide
  have h6 : ∀ (m : BitVec 1), (m ++ 5#7 : BitVec 8).extractLsb' 0 7 = 5 := by decide
  have h7 : ∀ (m : BitVec 1), (m ++ 5#7 : BitVec 8).extractLsb' 7 1 = m := by decide
  unfold fnOf68
  rw [if_neg (h1 m), if_neg (h2 m), if_neg (h3 m), if_neg (h4 m), if_neg (h5 m), if_pos (h6 m), h7 m]

theorem EncodeDecode.drayPut (w : FmtX) (m : BitVec 1) : EncodeDecode.Statement (.drayPut w m) := by
  intro _
  show decodeWord (packX 0x68#7 (m ++ 6#7) w) = _
  rw [decode_68 (major_packX _ _ _), fn_packX, fields_packX]
  have h1 : ∀ (m : BitVec 1), ¬ ((m ++ 6#7 : BitVec 8).extractLsb' 0 7 = 0) := by decide
  have h2 : ∀ (m : BitVec 1), ¬ ((m ++ 6#7 : BitVec 8).extractLsb' 0 7 = 1) := by decide
  have h3 : ∀ (m : BitVec 1), ¬ ((m ++ 6#7 : BitVec 8).extractLsb' 0 7 = 2) := by decide
  have h4 : ∀ (m : BitVec 1), ¬ ((m ++ 6#7 : BitVec 8).extractLsb' 0 7 = 3) := by decide
  have h5 : ∀ (m : BitVec 1), ¬ ((m ++ 6#7 : BitVec 8).extractLsb' 0 7 = 4) := by decide
  have h6 : ∀ (m : BitVec 1), ¬ ((m ++ 6#7 : BitVec 8).extractLsb' 0 7 = 5) := by decide
  have h7 : ∀ (m : BitVec 1), (m ++ 6#7 : BitVec 8).extractLsb' 0 7 = 6 := by decide
  have h8 : ∀ (m : BitVec 1), (m ++ 6#7 : BitVec 8).extractLsb' 7 1 = m := by decide
  unfold fnOf68
  rw [if_neg (h1 m), if_neg (h2 m), if_neg (h3 m), if_neg (h4 m), if_neg (h5 m), if_neg (h6 m), if_pos (h7 m), h8 m]

theorem EncodeDecode.drayGet (w : FmtX) (m : BitVec 1) : EncodeDecode.Statement (.drayGet w m) := by
  intro _
  show decodeWord (packX 0x68#7 (m ++ 7#7) w) = _
  rw [decode_68 (major_packX _ _ _), fn_packX, fields_packX]
  have h1 : ∀ (m : BitVec 1), ¬ ((m ++ 7#7 : BitVec 8).extractLsb' 0 7 = 0) := by decide
  have h2 : ∀ (m : BitVec 1), ¬ ((m ++ 7#7 : BitVec 8).extractLsb' 0 7 = 1) := by decide
  have h3 : ∀ (m : BitVec 1), ¬ ((m ++ 7#7 : BitVec 8).extractLsb' 0 7 = 2) := by decide
  have h4 : ∀ (m : BitVec 1), ¬ ((m ++ 7#7 : BitVec 8).extractLsb' 0 7 = 3) := by decide
  have h5 : ∀ (m : BitVec 1), ¬ ((m ++ 7#7 : BitVec 8).extractLsb' 0 7 = 4) := by decide
  have h6 : ∀ (m : BitVec 1), ¬ ((m ++ 7#7 : BitVec 8).extractLsb' 0 7 = 5) := by decide
  have h7 : ∀ (m : BitVec 1), ¬ ((m ++ 7#7 : BitVec 8).extractLsb' 0 7 = 6) := by decide
  have h8 : ∀ (m : BitVec 1), (m ++ 7#7 : BitVec 8).extractLsb' 0 7 = 7 := by decide
  have h9 : ∀ (m : BitVec 1), (m ++ 7#7 : BitVec 8).extractLsb' 7 1 = m := by decide
  unfold fnOf68
  rw [if_neg (h1 m), if_neg (h2 m), if_neg (h3 m), if_neg (h4 m), if_neg (h5 m), if_neg (h6 m), if_neg (h7 m), if_pos (h8 m), h9 m]

theorem EncodeDecode.drayFill (w : FmtX) (m : BitVec 1) : EncodeDecode.Statement (.drayFill w m) := by
  intro _
  show decodeWord (packX 0x68#7 (m ++ 8#7) w) = _
  rw [decode_68 (major_packX _ _ _), fn_packX, fields_packX]
  have h1 : ∀ (m : BitVec 1), ¬ ((m ++ 8#7 : BitVec 8).extractLsb' 0 7 = 0) := by decide
  have h2 : ∀ (m : BitVec 1), ¬ ((m ++ 8#7 : BitVec 8).extractLsb' 0 7 = 1) := by decide
  have h3 : ∀ (m : BitVec 1), ¬ ((m ++ 8#7 : BitVec 8).extractLsb' 0 7 = 2) := by decide
  have h4 : ∀ (m : BitVec 1), ¬ ((m ++ 8#7 : BitVec 8).extractLsb' 0 7 = 3) := by decide
  have h5 : ∀ (m : BitVec 1), ¬ ((m ++ 8#7 : BitVec 8).extractLsb' 0 7 = 4) := by decide
  have h6 : ∀ (m : BitVec 1), ¬ ((m ++ 8#7 : BitVec 8).extractLsb' 0 7 = 5) := by decide
  have h7 : ∀ (m : BitVec 1), ¬ ((m ++ 8#7 : BitVec 8).extractLsb' 0 7 = 6) := by decide
  have h8 : ∀ (m : BitVec 1), ¬ ((m ++ 8#7 : BitVec 8).extractLsb' 0 7 = 7) := by decide
  have h9 : ∀ (m : BitVec 1), (m ++ 8#7 : BitVec 8).extractLsb' 0 7 = 8 := by decide
  have h10 : ∀ (m : BitVec 1), (m ++ 8#7 : BitVec 8).extractLsb' 7 1 = m := by decide
  unfold fnOf68
  rw [if_neg (h1 m), if_neg (h2 m), if_neg (h3 m), if_neg (h4 m), if_neg (h5 m), if_neg (h6 m), if_neg (h7 m), if_neg (h8 m), if_pos (h9 m), h10 m]

theorem EncodeDecode.drayPoolfill (w : FmtX) (m : BitVec 1) : EncodeDecode.Statement (.drayPoolfill w m) := by
  intro _
  show decodeWord (packX 0x68#7 (m ++ 9#7) w) = _
  rw [decode_68 (major_packX _ _ _), fn_packX, fields_packX]
  have h1 : ∀ (m : BitVec 1), ¬ ((m ++ 9#7 : BitVec 8).extractLsb' 0 7 = 0) := by decide
  have h2 : ∀ (m : BitVec 1), ¬ ((m ++ 9#7 : BitVec 8).extractLsb' 0 7 = 1) := by decide
  have h3 : ∀ (m : BitVec 1), ¬ ((m ++ 9#7 : BitVec 8).extractLsb' 0 7 = 2) := by decide
  have h4 : ∀ (m : BitVec 1), ¬ ((m ++ 9#7 : BitVec 8).extractLsb' 0 7 = 3) := by decide
  have h5 : ∀ (m : BitVec 1), ¬ ((m ++ 9#7 : BitVec 8).extractLsb' 0 7 = 4) := by decide
  have h6 : ∀ (m : BitVec 1), ¬ ((m ++ 9#7 : BitVec 8).extractLsb' 0 7 = 5) := by decide
  have h7 : ∀ (m : BitVec 1), ¬ ((m ++ 9#7 : BitVec 8).extractLsb' 0 7 = 6) := by decide
  have h8 : ∀ (m : BitVec 1), ¬ ((m ++ 9#7 : BitVec 8).extractLsb' 0 7 = 7) := by decide
  have h9 : ∀ (m : BitVec 1), ¬ ((m ++ 9#7 : BitVec 8).extractLsb' 0 7 = 8) := by decide
  have h10 : ∀ (m : BitVec 1), (m ++ 9#7 : BitVec 8).extractLsb' 0 7 = 9 := by decide
  have h11 : ∀ (m : BitVec 1), (m ++ 9#7 : BitVec 8).extractLsb' 7 1 = m := by decide
  unfold fnOf68
  rw [if_neg (h1 m), if_neg (h2 m), if_neg (h3 m), if_neg (h4 m), if_neg (h5 m), if_neg (h6 m), if_neg (h7 m), if_neg (h8 m), if_neg (h9 m), if_pos (h10 m), h11 m]

theorem EncodeDecode.drayPoolcmp (w : FmtX) (m : BitVec 1) : EncodeDecode.Statement (.drayPoolcmp w m) := by
  intro _
  show decodeWord (packX 0x68#7 (m ++ 10#7) w) = _
  rw [decode_68 (major_packX _ _ _), fn_packX, fields_packX]
  have h1 : ∀ (m : BitVec 1), ¬ ((m ++ 10#7 : BitVec 8).extractLsb' 0 7 = 0) := by decide
  have h2 : ∀ (m : BitVec 1), ¬ ((m ++ 10#7 : BitVec 8).extractLsb' 0 7 = 1) := by decide
  have h3 : ∀ (m : BitVec 1), ¬ ((m ++ 10#7 : BitVec 8).extractLsb' 0 7 = 2) := by decide
  have h4 : ∀ (m : BitVec 1), ¬ ((m ++ 10#7 : BitVec 8).extractLsb' 0 7 = 3) := by decide
  have h5 : ∀ (m : BitVec 1), ¬ ((m ++ 10#7 : BitVec 8).extractLsb' 0 7 = 4) := by decide
  have h6 : ∀ (m : BitVec 1), ¬ ((m ++ 10#7 : BitVec 8).extractLsb' 0 7 = 5) := by decide
  have h7 : ∀ (m : BitVec 1), ¬ ((m ++ 10#7 : BitVec 8).extractLsb' 0 7 = 6) := by decide
  have h8 : ∀ (m : BitVec 1), ¬ ((m ++ 10#7 : BitVec 8).extractLsb' 0 7 = 7) := by decide
  have h9 : ∀ (m : BitVec 1), ¬ ((m ++ 10#7 : BitVec 8).extractLsb' 0 7 = 8) := by decide
  have h10 : ∀ (m : BitVec 1), ¬ ((m ++ 10#7 : BitVec 8).extractLsb' 0 7 = 9) := by decide
  have h11 : ∀ (m : BitVec 1), (m ++ 10#7 : BitVec 8).extractLsb' 0 7 = 10 := by decide
  have h12 : ∀ (m : BitVec 1), (m ++ 10#7 : BitVec 8).extractLsb' 7 1 = m := by decide
  unfold fnOf68
  rw [if_neg (h1 m), if_neg (h2 m), if_neg (h3 m), if_neg (h4 m), if_neg (h5 m), if_neg (h6 m), if_neg (h7 m), if_neg (h8 m), if_neg (h9 m), if_neg (h10 m), if_pos (h11 m), h12 m]

theorem EncodeDecode.drayPoolred (w : FmtX) (m : BitVec 1) : EncodeDecode.Statement (.drayPoolred w m) := by
  intro _
  show decodeWord (packX 0x68#7 (m ++ 11#7) w) = _
  rw [decode_68 (major_packX _ _ _), fn_packX, fields_packX]
  have h1 : ∀ (m : BitVec 1), ¬ ((m ++ 11#7 : BitVec 8).extractLsb' 0 7 = 0) := by decide
  have h2 : ∀ (m : BitVec 1), ¬ ((m ++ 11#7 : BitVec 8).extractLsb' 0 7 = 1) := by decide
  have h3 : ∀ (m : BitVec 1), ¬ ((m ++ 11#7 : BitVec 8).extractLsb' 0 7 = 2) := by decide
  have h4 : ∀ (m : BitVec 1), ¬ ((m ++ 11#7 : BitVec 8).extractLsb' 0 7 = 3) := by decide
  have h5 : ∀ (m : BitVec 1), ¬ ((m ++ 11#7 : BitVec 8).extractLsb' 0 7 = 4) := by decide
  have h6 : ∀ (m : BitVec 1), ¬ ((m ++ 11#7 : BitVec 8).extractLsb' 0 7 = 5) := by decide
  have h7 : ∀ (m : BitVec 1), ¬ ((m ++ 11#7 : BitVec 8).extractLsb' 0 7 = 6) := by decide
  have h8 : ∀ (m : BitVec 1), ¬ ((m ++ 11#7 : BitVec 8).extractLsb' 0 7 = 7) := by decide
  have h9 : ∀ (m : BitVec 1), ¬ ((m ++ 11#7 : BitVec 8).extractLsb' 0 7 = 8) := by decide
  have h10 : ∀ (m : BitVec 1), ¬ ((m ++ 11#7 : BitVec 8).extractLsb' 0 7 = 9) := by decide
  have h11 : ∀ (m : BitVec 1), ¬ ((m ++ 11#7 : BitVec 8).extractLsb' 0 7 = 10) := by decide
  have h12 : ∀ (m : BitVec 1), (m ++ 11#7 : BitVec 8).extractLsb' 0 7 = 11 := by decide
  have h13 : ∀ (m : BitVec 1), (m ++ 11#7 : BitVec 8).extractLsb' 7 1 = m := by decide
  unfold fnOf68
  rw [if_neg (h1 m), if_neg (h2 m), if_neg (h3 m), if_neg (h4 m), if_neg (h5 m), if_neg (h6 m), if_neg (h7 m), if_neg (h8 m), if_neg (h9 m), if_neg (h10 m), if_neg (h11 m), if_pos (h12 m), h13 m]

theorem EncodeDecode.drayPub (w : FmtX) (m : BitVec 1) : EncodeDecode.Statement (.drayPub w m) := by
  intro _
  show decodeWord (packX 0x68#7 (m ++ 12#7) w) = _
  rw [decode_68 (major_packX _ _ _), fn_packX, fields_packX]
  have h1 : ∀ (m : BitVec 1), ¬ ((m ++ 12#7 : BitVec 8).extractLsb' 0 7 = 0) := by decide
  have h2 : ∀ (m : BitVec 1), ¬ ((m ++ 12#7 : BitVec 8).extractLsb' 0 7 = 1) := by decide
  have h3 : ∀ (m : BitVec 1), ¬ ((m ++ 12#7 : BitVec 8).extractLsb' 0 7 = 2) := by decide
  have h4 : ∀ (m : BitVec 1), ¬ ((m ++ 12#7 : BitVec 8).extractLsb' 0 7 = 3) := by decide
  have h5 : ∀ (m : BitVec 1), ¬ ((m ++ 12#7 : BitVec 8).extractLsb' 0 7 = 4) := by decide
  have h6 : ∀ (m : BitVec 1), ¬ ((m ++ 12#7 : BitVec 8).extractLsb' 0 7 = 5) := by decide
  have h7 : ∀ (m : BitVec 1), ¬ ((m ++ 12#7 : BitVec 8).extractLsb' 0 7 = 6) := by decide
  have h8 : ∀ (m : BitVec 1), ¬ ((m ++ 12#7 : BitVec 8).extractLsb' 0 7 = 7) := by decide
  have h9 : ∀ (m : BitVec 1), ¬ ((m ++ 12#7 : BitVec 8).extractLsb' 0 7 = 8) := by decide
  have h10 : ∀ (m : BitVec 1), ¬ ((m ++ 12#7 : BitVec 8).extractLsb' 0 7 = 9) := by decide
  have h11 : ∀ (m : BitVec 1), ¬ ((m ++ 12#7 : BitVec 8).extractLsb' 0 7 = 10) := by decide
  have h12 : ∀ (m : BitVec 1), ¬ ((m ++ 12#7 : BitVec 8).extractLsb' 0 7 = 11) := by decide
  have h13 : ∀ (m : BitVec 1), (m ++ 12#7 : BitVec 8).extractLsb' 0 7 = 12 := by decide
  have h14 : ∀ (m : BitVec 1), (m ++ 12#7 : BitVec 8).extractLsb' 7 1 = m := by decide
  unfold fnOf68
  rw [if_neg (h1 m), if_neg (h2 m), if_neg (h3 m), if_neg (h4 m), if_neg (h5 m), if_neg (h6 m), if_neg (h7 m), if_neg (h8 m), if_neg (h9 m), if_neg (h10 m), if_neg (h11 m), if_neg (h12 m), if_pos (h13 m), h14 m]

theorem EncodeDecode.drayStat (w : FmtX) : EncodeDecode.Statement (.drayStat w) := by
  intro _
  show decodeWord (packX 0x68#7 0x0D#8 w) = _
  rw [decode_68 (major_packX _ _ _), fn_packX, fields_packX]
  rfl

theorem EncodeDecode.dwaitOne (w : FmtX) : EncodeDecode.Statement (.dwaitOne w) := by
  intro _
  show decodeWord (packX 0x69#7 0x00#8 w) = _
  rw [decode_69 (major_packX _ _ _), fn_packX, fields_packX]
  rfl

theorem EncodeDecode.dwaitAll (w : FmtX) : EncodeDecode.Statement (.dwaitAll w) := by
  intro _
  show decodeWord (packX 0x69#7 0x01#8 w) = _
  rw [decode_69 (major_packX _ _ _), fn_packX, fields_packX]
  rfl

theorem EncodeDecode.barInit (w : FmtX) : EncodeDecode.Statement (.barInit w) := by
  intro _
  show decodeWord (packX 0x6C#7 0x00#8 w) = _
  rw [decode_6C (major_packX _ _ _), fn_packX, fields_packX]
  rfl

theorem EncodeDecode.barArr (w : FmtX) : EncodeDecode.Statement (.barArr w) := by
  intro _
  show decodeWord (packX 0x6C#7 0x10#8 w) = _
  rw [decode_6C (major_packX _ _ _), fn_packX, fields_packX]
  rfl

theorem EncodeDecode.barArrn (w : FmtX) : EncodeDecode.Statement (.barArrn w) := by
  intro _
  show decodeWord (packX 0x6C#7 0x20#8 w) = _
  rw [decode_6C (major_packX _ _ _), fn_packX, fields_packX]
  rfl

theorem EncodeDecode.barExpb (w : FmtX) : EncodeDecode.Statement (.barExpb w) := by
  intro _
  show decodeWord (packX 0x6C#7 0x30#8 w) = _
  rw [decode_6C (major_packX _ _ _), fn_packX, fields_packX]
  rfl

theorem EncodeDecode.barWait (w : FmtX) (p : BitVec 1) : EncodeDecode.Statement (.barWait w p) := by
  intro _
  show decodeWord (packX 0x6C#7 (32#7 ++ p) w) = _
  rw [decode_6C (major_packX _ _ _), fn_packX, fields_packX]
  have h1 : ∀ (p : BitVec 1), ¬ ((32#7 ++ p : BitVec 8).extractLsb' 0 8 = 0) := by decide
  have h2 : ∀ (p : BitVec 1), ¬ ((32#7 ++ p : BitVec 8).extractLsb' 0 8 = 16) := by decide
  have h3 : ∀ (p : BitVec 1), ¬ ((32#7 ++ p : BitVec 8).extractLsb' 0 8 = 32) := by decide
  have h4 : ∀ (p : BitVec 1), ¬ ((32#7 ++ p : BitVec 8).extractLsb' 0 8 = 48) := by decide
  have h5 : ∀ (p : BitVec 1), (32#7 ++ p : BitVec 8).extractLsb' 1 7 = 32 := by decide
  have h6 : ∀ (p : BitVec 1), (32#7 ++ p : BitVec 8).extractLsb' 0 1 = p := by decide
  unfold fnOf6C
  rw [if_neg (h1 p), if_neg (h2 p), if_neg (h3 p), if_neg (h4 p), if_pos (h5 p), h6 p]

theorem EncodeDecode.barTry (w : FmtX) (p : BitVec 1) : EncodeDecode.Statement (.barTry w p) := by
  intro _
  show decodeWord (packX 0x6C#7 (40#7 ++ p) w) = _
  rw [decode_6C (major_packX _ _ _), fn_packX, fields_packX]
  have h1 : ∀ (p : BitVec 1), ¬ ((40#7 ++ p : BitVec 8).extractLsb' 0 8 = 0) := by decide
  have h2 : ∀ (p : BitVec 1), ¬ ((40#7 ++ p : BitVec 8).extractLsb' 0 8 = 16) := by decide
  have h3 : ∀ (p : BitVec 1), ¬ ((40#7 ++ p : BitVec 8).extractLsb' 0 8 = 32) := by decide
  have h4 : ∀ (p : BitVec 1), ¬ ((40#7 ++ p : BitVec 8).extractLsb' 0 8 = 48) := by decide
  have h5 : ∀ (p : BitVec 1), ¬ ((40#7 ++ p : BitVec 8).extractLsb' 1 7 = 32) := by decide
  have h6 : ∀ (p : BitVec 1), (40#7 ++ p : BitVec 8).extractLsb' 1 7 = 40 := by decide
  have h7 : ∀ (p : BitVec 1), (40#7 ++ p : BitVec 8).extractLsb' 0 1 = p := by decide
  unfold fnOf6C
  rw [if_neg (h1 p), if_neg (h2 p), if_neg (h3 p), if_neg (h4 p), if_neg (h5 p), if_pos (h6 p), h7 p]

theorem EncodeDecode.barQry (w : FmtX) : EncodeDecode.Statement (.barQry w) := by
  intro _
  show decodeWord (packX 0x6C#7 0x60#8 w) = _
  rw [decode_6C (major_packX _ _ _), fn_packX, fields_packX]
  rfl

theorem EncodeDecode.atarithAdd (w : FmtAT) : EncodeDecode.Statement (.atarithAdd w) := by
  intro _
  show decodeWord (packAT 0x6D#7 0#2 w) = _
  rw [decode_6D (major_packAT _ _ _)]
  simp only [sub_packAT, fields_packAT]
  simp [subOf6D, bit0_packAT]

theorem EncodeDecode.atarithFadd (w : FmtAT) : EncodeDecode.Statement (.atarithFadd w) := by
  intro _
  show decodeWord (packAT 0x6D#7 1#2 w) = _
  rw [decode_6D (major_packAT _ _ _)]
  simp only [sub_packAT, fields_packAT]
  simp [subOf6D, bit0_packAT]

theorem EncodeDecode.atarithDecp (w : FmtAT) : EncodeDecode.Statement (.atarithDecp w) := by
  intro _
  show decodeWord (packAT 0x6D#7 2#2 w) = _
  rw [decode_6D (major_packAT _ _ _)]
  simp only [sub_packAT, fields_packAT]
  simp [subOf6D, bit0_packAT]

theorem EncodeDecode.atarithIncw (w : FmtAT) : EncodeDecode.Statement (.atarithIncw w) := by
  intro _
  show decodeWord (packAT 0x6D#7 3#2 w) = _
  rw [decode_6D (major_packAT _ _ _)]
  simp only [sub_packAT, fields_packAT]
  simp [subOf6D, bit0_packAT]

theorem EncodeDecode.atminmaxMin (w : FmtAT) : EncodeDecode.Statement (.atminmaxMin w) := by
  intro _
  show decodeWord (packAT 0x6E#7 0#2 w) = _
  rw [decode_6E (major_packAT _ _ _)]
  simp only [sub_packAT, fields_packAT]
  simp [subOf6E, bit0_packAT]

theorem EncodeDecode.atminmaxMax (w : FmtAT) : EncodeDecode.Statement (.atminmaxMax w) := by
  intro _
  show decodeWord (packAT 0x6E#7 1#2 w) = _
  rw [decode_6E (major_packAT _ _ _)]
  simp only [sub_packAT, fields_packAT]
  simp [subOf6E, bit0_packAT]

theorem EncodeDecode.atminmaxMinu (w : FmtAT) : EncodeDecode.Statement (.atminmaxMinu w) := by
  intro _
  show decodeWord (packAT 0x6E#7 2#2 w) = _
  rw [decode_6E (major_packAT _ _ _)]
  simp only [sub_packAT, fields_packAT]
  simp [subOf6E, bit0_packAT]

theorem EncodeDecode.atminmaxMaxu (w : FmtAT) : EncodeDecode.Statement (.atminmaxMaxu w) := by
  intro _
  show decodeWord (packAT 0x6E#7 3#2 w) = _
  rw [decode_6E (major_packAT _ _ _)]
  simp only [sub_packAT, fields_packAT]
  simp [subOf6E, bit0_packAT]

theorem EncodeDecode.atlogicAnd (w : FmtAT) : EncodeDecode.Statement (.atlogicAnd w) := by
  intro _
  show decodeWord (packAT 0x6F#7 0#2 w) = _
  rw [decode_6F (major_packAT _ _ _)]
  simp only [sub_packAT, fields_packAT]
  simp [subOf6F, bit0_packAT]

theorem EncodeDecode.atlogicOr (w : FmtAT) : EncodeDecode.Statement (.atlogicOr w) := by
  intro _
  show decodeWord (packAT 0x6F#7 1#2 w) = _
  rw [decode_6F (major_packAT _ _ _)]
  simp only [sub_packAT, fields_packAT]
  simp [subOf6F, bit0_packAT]

theorem EncodeDecode.atlogicXor (w : FmtAT) : EncodeDecode.Statement (.atlogicXor w) := by
  intro _
  show decodeWord (packAT 0x6F#7 2#2 w) = _
  rw [decode_6F (major_packAT _ _ _)]
  simp only [sub_packAT, fields_packAT]
  simp [subOf6F, bit0_packAT]

theorem EncodeDecode.atlogicSwap (w : FmtAT) : EncodeDecode.Statement (.atlogicSwap w) := by
  intro _
  show decodeWord (packAT 0x6F#7 3#2 w) = _
  rw [decode_6F (major_packAT _ _ _)]
  simp only [sub_packAT, fields_packAT]
  simp [subOf6F, bit0_packAT]

theorem EncodeDecode.atcasCas32 (w : FmtAT) : EncodeDecode.Statement (.atcasCas32 w) := by
  intro _
  show decodeWord (packAT 0x70#7 0#2 w) = _
  rw [decode_70 (major_packAT _ _ _)]
  simp only [sub_packAT, fields_packAT]
  simp [subOf70, bit0_packAT]

theorem EncodeDecode.atcasCas64 (w : FmtAT) : EncodeDecode.Statement (.atcasCas64 w) := by
  intro _
  show decodeWord (packAT 0x70#7 1#2 w) = _
  rw [decode_70 (major_packAT _ _ _)]
  simp only [sub_packAT, fields_packAT]
  simp [subOf70, bit0_packAT]

theorem EncodeDecode.atcasAdd64 (w : FmtAT) : EncodeDecode.Statement (.atcasAdd64 w) := by
  intro _
  show decodeWord (packAT 0x70#7 2#2 w) = _
  rw [decode_70 (major_packAT _ _ _)]
  simp only [sub_packAT, fields_packAT]
  simp [subOf70, bit0_packAT]

theorem EncodeDecode.redAdd (w : FmtAT) : EncodeDecode.Statement (.redAdd w) := by
  intro _
  show decodeWord (packAT 0x71#7 0#2 w) = _
  rw [decode_71 (major_packAT _ _ _)]
  simp only [sub_packAT, fields_packAT]
  simp [subOf71, bit0_packAT]

theorem EncodeDecode.redFadd (w : FmtAT) : EncodeDecode.Statement (.redFadd w) := by
  intro _
  show decodeWord (packAT 0x71#7 1#2 w) = _
  rw [decode_71 (major_packAT _ _ _)]
  simp only [sub_packAT, fields_packAT]
  simp [subOf71, bit0_packAT]

theorem EncodeDecode.redMin (w : FmtAT) : EncodeDecode.Statement (.redMin w) := by
  intro _
  show decodeWord (packAT 0x71#7 2#2 w) = _
  rw [decode_71 (major_packAT _ _ _)]
  simp only [sub_packAT, fields_packAT]
  simp [subOf71, bit0_packAT]

theorem EncodeDecode.redMax (w : FmtAT) : EncodeDecode.Statement (.redMax w) := by
  intro _
  show decodeWord (packAT 0x71#7 3#2 w) = _
  rw [decode_71 (major_packAT _ _ _)]
  simp only [sub_packAT, fields_packAT]
  simp [subOf71, bit0_packAT]

theorem EncodeDecode.waita (w : FmtAT) : EncodeDecode.Statement (.waita w) := by
  intro _
  show decodeWord (packAT 0x72#7 0#2 w) = _
  rw [decode_72 (major_packAT _ _ _)]
  simp only [sub_packAT, fields_packAT]
  simp [subOf72, bit0_packAT]

theorem EncodeDecode.waitaTo (w : FmtAT) : EncodeDecode.Statement (.waitaTo w) := by
  intro _
  show decodeWord (packAT 0x72#7 1#2 w) = _
  rw [decode_72 (major_packAT _ _ _)]
  simp only [sub_packAT, fields_packAT]
  simp [subOf72, bit0_packAT]

theorem EncodeDecode.wakeOne (w : FmtAT) : EncodeDecode.Statement (.wakeOne w) := by
  intro _
  show decodeWord (packAT 0x73#7 0#2 w) = _
  rw [decode_73 (major_packAT _ _ _)]
  simp only [sub_packAT, fields_packAT]
  simp [subOf73, bit0_packAT]

theorem EncodeDecode.wakeAll (w : FmtAT) : EncodeDecode.Statement (.wakeAll w) := by
  intro _
  show decodeWord (packAT 0x73#7 1#2 w) = _
  rw [decode_73 (major_packAT _ _ _)]
  simp only [sub_packAT, fields_packAT]
  simp [subOf73, bit0_packAT]

theorem EncodeDecode.rcn (w : FmtAT) : EncodeDecode.Statement (.rcn w) := by
  intro _
  show decodeWord (packAT 0x74#7 0#2 w) = _
  rw [decode_74 (major_packAT _ _ _)]
  simp only [sub_packAT, fields_packAT]
  simp [subOf74, bit0_packAT]

theorem EncodeDecode.rcnD (w : FmtAT) : EncodeDecode.Statement (.rcnD w) := by
  intro _
  show decodeWord (packAT 0x74#7 1#2 w) = _
  rw [decode_74 (major_packAT _ _ _)]
  simp only [sub_packAT, fields_packAT]
  simp [subOf74, bit0_packAT]

theorem EncodeDecode.send (w : FmtX) (c : BitVec 6) : EncodeDecode.Statement (.send w c) := by
  intro _
  show decodeWord (packX 0x75#7 (0#2 ++ c) w) = _
  rw [decode_75 (major_packX _ _ _), fn_packX, fields_packX]
  have h1 : ∀ (c : BitVec 6), (0#2 ++ c : BitVec 8).extractLsb' 6 2 = 0 := by decide
  have h2 : ∀ (c : BitVec 6), (0#2 ++ c : BitVec 8).extractLsb' 0 6 = c := by decide
  unfold fnOf75
  rw [if_pos (h1 c), h2 c]

theorem EncodeDecode.recv (w : FmtX) (c : BitVec 6) : EncodeDecode.Statement (.recv w c) := by
  intro _
  show decodeWord (packX 0x76#7 (0#2 ++ c) w) = _
  rw [decode_76 (major_packX _ _ _), fn_packX, fields_packX]
  have h1 : ∀ (c : BitVec 6), (0#2 ++ c : BitVec 8).extractLsb' 6 2 = 0 := by decide
  have h2 : ∀ (c : BitVec 6), (0#2 ++ c : BitVec 8).extractLsb' 0 6 = c := by decide
  unfold fnOf76
  rw [if_pos (h1 c), h2 c]

theorem EncodeDecode.chq (w : FmtX) (c : BitVec 6) : EncodeDecode.Statement (.chq w c) := by
  intro _
  show decodeWord (packX 0x77#7 (0#2 ++ c) w) = _
  rw [decode_77 (major_packX _ _ _), fn_packX, fields_packX]
  have h1 : ∀ (c : BitVec 6), (0#2 ++ c : BitVec 8).extractLsb' 6 2 = 0 := by decide
  have h2 : ∀ (c : BitVec 6), (0#2 ++ c : BitVec 8).extractLsb' 0 6 = c := by decide
  unfold fnOf77
  rw [if_pos (h1 c), h2 c]

theorem EncodeDecode.syscall (w : FmtX) : EncodeDecode.Statement (.syscall w) := by
  intro _
  show decodeWord (packX 0x78#7 0x00#8 w) = _
  rw [decode_78 (major_packX _ _ _), fn_packX, fields_packX]
  rfl

theorem EncodeDecode.eret (w : FmtX) : EncodeDecode.Statement (.eret w) := by
  intro _
  show decodeWord (packX 0x78#7 0x01#8 w) = _
  rw [decode_78 (major_packX _ _ _), fn_packX, fields_packX]
  rfl

theorem EncodeDecode.wfi (w : FmtX) : EncodeDecode.Statement (.wfi w) := by
  intro _
  show decodeWord (packX 0x78#7 0x02#8 w) = _
  rw [decode_78 (major_packX _ _ _), fn_packX, fields_packX]
  rfl

theorem EncodeDecode.halt (w : FmtX) : EncodeDecode.Statement (.halt w) := by
  intro _
  show decodeWord (packX 0x78#7 0x03#8 w) = _
  rw [decode_78 (major_packX _ _ _), fn_packX, fields_packX]
  rfl

theorem EncodeDecode.csrr (w : FmtL) : EncodeDecode.Statement (.csrr w) := by
  intro _
  show decodeWord (packL 0x79#7 w) = _
  rw [decode_79 (major_packL _ _), fields_packL]

theorem EncodeDecode.csrw (w : FmtL) : EncodeDecode.Statement (.csrw w) := by
  intro _
  show decodeWord (packL 0x7A#7 w) = _
  rw [decode_7A (major_packL _ _), fields_packL]

theorem EncodeDecode.rlySend (w : FmtX) : EncodeDecode.Statement (.rlySend w) := by
  intro _
  show decodeWord (packX 0x7B#7 0x00#8 w) = _
  rw [decode_7B (major_packX _ _ _), fn_packX, fields_packX]
  rfl

theorem EncodeDecode.rlyRecv (w : FmtX) : EncodeDecode.Statement (.rlyRecv w) := by
  intro _
  show decodeWord (packX 0x7B#7 0x01#8 w) = _
  rw [decode_7B (major_packX _ _ _), fn_packX, fields_packX]
  rfl

theorem EncodeDecode.rlyPoll (w : FmtX) : EncodeDecode.Statement (.rlyPoll w) := by
  intro _
  show decodeWord (packX 0x7B#7 0x02#8 w) = _
  rw [decode_7B (major_packX _ _ _), fn_packX, fields_packX]
  rfl

theorem EncodeDecode.xlatInvr (w : FmtX) : EncodeDecode.Statement (.xlatInvr w) := by
  intro _
  show decodeWord (packX 0x7C#7 0x00#8 w) = _
  rw [decode_7C (major_packX _ _ _), fn_packX, fields_packX]
  rfl

theorem EncodeDecode.xlatBlock (w : FmtX) : EncodeDecode.Statement (.xlatBlock w) := by
  intro _
  show decodeWord (packX 0x7C#7 0x01#8 w) = _
  rw [decode_7C (major_packX _ _ _), fn_packX, fields_packX]
  rfl

theorem EncodeDecode.xlatPurge (w : FmtX) : EncodeDecode.Statement (.xlatPurge w) := by
  intro _
  show decodeWord (packX 0x7C#7 0x02#8 w) = _
  rw [decode_7C (major_packX _ _ _), fn_packX, fields_packX]
  rfl

theorem EncodeDecode.xlatProbe (w : FmtX) : EncodeDecode.Statement (.xlatProbe w) := by
  intro _
  show decodeWord (packX 0x7C#7 0x03#8 w) = _
  rw [decode_7C (major_packX _ _ _), fn_packX, fields_packX]
  rfl

theorem EncodeDecode.xlatScrub (w : FmtX) : EncodeDecode.Statement (.xlatScrub w) := by
  intro _
  show decodeWord (packX 0x7C#7 0x04#8 w) = _
  rw [decode_7C (major_packX _ _ _), fn_packX, fields_packX]
  rfl

theorem EncodeDecode.xlatPin (w : FmtX) : EncodeDecode.Statement (.xlatPin w) := by
  intro _
  show decodeWord (packX 0x7C#7 0x05#8 w) = _
  rw [decode_7C (major_packX _ _ _), fn_packX, fields_packX]
  rfl

theorem EncodeDecode.pwrIslq (w : FmtX) (f : BitVec 3) : EncodeDecode.Statement (.pwrIslq w f) := by
  intro _
  show decodeWord (packX 0x7D#7 (0#5 ++ f) w) = _
  rw [decode_7D (major_packX _ _ _), fn_packX, fields_packX]
  have h1 : ∀ (f : BitVec 3), (0#5 ++ f : BitVec 8).extractLsb' 3 5 = 0 := by decide
  have h2 : ∀ (f : BitVec 3), (0#5 ++ f : BitVec 8).extractLsb' 0 3 = f := by decide
  unfold fnOf7D
  rw [if_pos (h1 f), h2 f]

theorem EncodeDecode.pwrDorm (w : FmtX) : EncodeDecode.Statement (.pwrDorm w) := by
  intro _
  show decodeWord (packX 0x7D#7 0x10#8 w) = _
  rw [decode_7D (major_packX _ _ _), fn_packX, fields_packX]
  rfl

theorem EncodeDecode.pwrWakeq (w : FmtX) : EncodeDecode.Statement (.pwrWakeq w) := by
  intro _
  show decodeWord (packX 0x7D#7 0x20#8 w) = _
  rw [decode_7D (major_packX _ _ _), fn_packX, fields_packX]
  rfl

theorem EncodeDecode.launch (vd : Nat) (off : Nat) (size : Nat) (val : BitVec 64) : EncodeDecode.Statement (.launch vd off size val) := by
  intro h; cases h

theorem EncodeDecode.wakeWrite (vd : Nat) (size : Nat) : EncodeDecode.Statement (.wakeWrite vd size) := by
  intro h; cases h

theorem EncodeDecode.registerWrite (vd : Nat) (off : Nat) (size : Nat) (val : BitVec 64) : EncodeDecode.Statement (.registerWrite vd off size val) := by
  intro h; cases h

theorem EncodeDecode.hwbaseWrite (vd : Nat) (val : BitVec 64) : EncodeDecode.Statement (.hwbaseWrite vd val) := by
  intro h; cases h

theorem EncodeDecode.hostApertureAccess (vd : Nat) (off : Nat) (size : Nat) (isWrite : Bool) (val : Nat) : EncodeDecode.Statement (.hostApertureAccess vd off size isWrite val) := by
  intro h; cases h

theorem EncodeDecode.functionLevelReset (fn : Nat) : EncodeDecode.Statement (.functionLevelReset fn) := by
  intro h; cases h

theorem EncodeDecode.registerAGraph (vd : Nat) : EncodeDecode.Statement (.registerAGraph vd) := by
  intro h; cases h

theorem EncodeDecode.unregister (vd : Nat) : EncodeDecode.Statement (.unregister vd) := by
  intro h; cases h

theorem EncodeDecode.createAVd (desc : Option (List (BitVec 8))) (setup : VdSetup) : EncodeDecode.Statement (.createAVd desc setup) := by
  intro h; cases h

theorem EncodeDecode.destroyAVd (num : Option Nat) : EncodeDecode.Statement (.destroyAVd num) := by
  intro h; cases h

theorem EncodeDecode.resetTheVf (num : Option Nat) : EncodeDecode.Statement (.resetTheVf num) := by
  intro h; cases h

theorem EncodeDecode.unknownOperationCode (vd : Nat) : EncodeDecode.Statement (.unknownOperationCode vd) := by
  intro h; cases h

theorem EncodeDecode.vfReset (vd : Nat) : EncodeDecode.Statement (.vfReset vd) := by
  intro h; cases h

theorem EncodeDecode.dispatchTeam (vd : Nat) (vdie : Nat) : EncodeDecode.Statement (.dispatchTeam vd vdie) := by
  intro h; cases h

theorem EncodeDecode.stealRequest (vd : Nat) (vdie : Nat) : EncodeDecode.Statement (.stealRequest vd vdie) := by
  intro h; cases h

theorem EncodeDecode.stealHandled (id : Nat) : EncodeDecode.Statement (.stealHandled id) := by
  intro h; cases h

theorem EncodeDecode.stealReply (id : Nat) : EncodeDecode.Statement (.stealReply id) := by
  intro h; cases h

theorem EncodeDecode.compactionMove (die : Nat) (cluster : Nat) (blk : Block) (dst : Nat) : EncodeDecode.Statement (.compactionMove die cluster blk dst) := by
  intro h; cases h

theorem EncodeDecode.compactorRetry (vd : Nat) (vdie : Nat) : EncodeDecode.Statement (.compactorRetry vd vdie) := by
  intro h; cases h

theorem EncodeDecode.steeringCap (vd : Nat) (vdie : Nat) : EncodeDecode.Statement (.steeringCap vd vdie) := by
  intro h; cases h

theorem EncodeDecode.imeasUpdate (field : Nat) (val : BitVec 16) : EncodeDecode.Statement (.imeasUpdate field val) := by
  intro h; cases h

theorem EncodeDecode.tokenRefill (vd : Nat) (die : Nat) : EncodeDecode.Statement (.tokenRefill vd die) := by
  intro h; cases h

theorem EncodeDecode.egressRelease (vd : Nat) (die : Nat) : EncodeDecode.Statement (.egressRelease vd die) := by
  intro h; cases h

theorem EncodeDecode.surgeGrant (field : Nat) : EncodeDecode.Statement (.surgeGrant field) := by
  intro h; cases h

theorem EncodeDecode.dieFailure (die : Nat) : EncodeDecode.Statement (.dieFailure die) := by
  intro h; cases h

theorem EncodeDecode.workBegins (vd : Nat) : EncodeDecode.Statement (.workBegins vd) := by
  intro h; cases h

theorem EncodeDecode.workEnds (vd : Nat) : EncodeDecode.Statement (.workEnds vd) := by
  intro h; cases h

theorem EncodeDecode.timerExpires (vd : Nat) : EncodeDecode.Statement (.timerExpires vd) := by
  intro h; cases h

theorem EncodeDecode.collapseStepDone (vd : Nat) : EncodeDecode.Statement (.collapseStepDone vd) := by
  intro h; cases h

theorem EncodeDecode.saveFaultInStep1 (vd : Nat) : EncodeDecode.Statement (.saveFaultInStep1 vd) := by
  intro h; cases h

theorem EncodeDecode.wakeDone (vd : Nat) (us : BitVec 32) : EncodeDecode.Statement (.wakeDone vd us) := by
  intro h; cases h

theorem EncodeDecode.issueChoice (site : Site) (bay : Nat) : EncodeDecode.Statement (.issueChoice site bay) := by
  intro h; cases h

theorem EncodeDecode.sliceRequest (req : Nat) : EncodeDecode.Statement (.sliceRequest req) := by
  intro h; cases h

theorem EncodeDecode.homePerform (req : Nat) : EncodeDecode.Statement (.homePerform req) := by
  intro h; cases h

theorem EncodeDecode.remoteWriteback (die : Nat) (pa : Nat) : EncodeDecode.Statement (.remoteWriteback die pa) := by
  intro h; cases h

theorem EncodeDecode.replyArrives (req : Nat) : EncodeDecode.Statement (.replyArrives req) := by
  intro h; cases h

theorem EncodeDecode.remapResend (req : Nat) : EncodeDecode.Statement (.remapResend req) := by
  intro h; cases h

theorem EncodeDecode.blockAtSlice (op : Nat) (die : Nat) (slice : Nat) : EncodeDecode.Statement (.blockAtSlice op die slice) := by
  intro h; cases h

theorem EncodeDecode.purgeAtSlice (op : Nat) (die : Nat) (slice : Nat) : EncodeDecode.Statement (.purgeAtSlice op die slice) := by
  intro h; cases h

theorem EncodeDecode.shootdownComplete (op : Nat) : EncodeDecode.Statement (.shootdownComplete op) := by
  intro h; cases h

theorem EncodeDecode.pubSliceBlock (cmd : Nat) (die : Nat) (slice : Nat) : EncodeDecode.Statement (.pubSliceBlock cmd die slice) := by
  intro h; cases h

theorem EncodeDecode.swapPoint (cmd : Nat) : EncodeDecode.Statement (.swapPoint cmd) := by
  intro h; cases h

theorem EncodeDecode.sliceMapChange (die : Nat) (keep : BitVec 64) : EncodeDecode.Statement (.sliceMapChange die keep) := by
  intro h; cases h

theorem EncodeDecode.sweepPassStart (vd : Nat) : EncodeDecode.Statement (.sweepPassStart vd) := by
  intro h; cases h

theorem EncodeDecode.sweepPassEnd (vd : Nat) : EncodeDecode.Statement (.sweepPassEnd vd) := by
  intro h; cases h

theorem EncodeDecode.drayUnitDone (cmd : Nat) : EncodeDecode.Statement (.drayUnitDone cmd) := by
  intro h; cases h

theorem EncodeDecode.drayComplete (cmd : Nat) (err : Option DrayErr) : EncodeDecode.Statement (.drayComplete cmd err) := by
  intro h; cases h

theorem EncodeDecode.drayRemainderResume (handle : Nat) (vd : Nat) : EncodeDecode.Statement (.drayRemainderResume handle vd) := by
  intro h; cases h

theorem EncodeDecode.poolResponse (port : Nat) (vd : Nat) (devLoad : BitVec 2) : EncodeDecode.Statement (.poolResponse port vd devLoad) := by
  intro h; cases h

theorem EncodeDecode.monitorWake (mon : Nat) : EncodeDecode.Statement (.monitorWake mon) := by
  intro h; cases h

theorem EncodeDecode.waitaTimeout (mon : Nat) : EncodeDecode.Statement (.waitaTimeout mon) := by
  intro h; cases h

theorem EncodeDecode.mmafRendezvous (team : Nat) (group : Nat) : EncodeDecode.Statement (.mmafRendezvous team group) := by
  intro h; cases h

theorem EncodeDecode.wfiWake (vd : Nat) (handle : Nat) : EncodeDecode.Statement (.wfiWake vd handle) := by
  intro h; cases h

theorem EncodeDecode.ktimerExpires (vd : Nat) (vdie : Nat) : EncodeDecode.Statement (.ktimerExpires vd vdie) := by
  intro h; cases h

theorem EncodeDecode.groupStop (vd : Nat) (handle : Nat) : EncodeDecode.Statement (.groupStop vd handle) := by
  intro h; cases h

theorem EncodeDecode.saveComplete (vd : Nat) (handle : Nat) : EncodeDecode.Statement (.saveComplete vd handle) := by
  intro h; cases h

theorem EncodeDecode.faultRecordPost (vd : Nat) (vdie : Nat) : EncodeDecode.Statement (.faultRecordPost vd vdie) := by
  intro h; cases h

theorem EncodeDecode.saveWriteFault (vd : Nat) (handle : Nat) : EncodeDecode.Statement (.saveWriteFault vd handle) := by
  intro h; cases h

theorem EncodeDecode.groupRestore (vd : Nat) (handle : Nat) : EncodeDecode.Statement (.groupRestore vd handle) := by
  intro h; cases h

theorem EncodeDecode.quantumExpires (team : Nat) : EncodeDecode.Statement (.quantumExpires team) := by
  intro h; cases h

theorem EncodeDecode.watchdog (die : Nat) (cluster : Nat) : EncodeDecode.Statement (.watchdog die cluster) := by
  intro h; cases h

theorem EncodeDecode.drainEnd (vd : Nat) (handle : Nat) : EncodeDecode.Statement (.drainEnd vd handle) := by
  intro h; cases h

theorem EncodeDecode.teamRetire (team : Nat) : EncodeDecode.Statement (.teamRetire team) := by
  intro h; cases h

theorem EncodeDecode.relayMessageArrives (vd : Nat) (vdie : Nat) : EncodeDecode.Statement (.relayMessageArrives vd vdie) := by
  intro h; cases h

theorem EncodeDecode.opent (vd : Nat) : EncodeDecode.Statement (.opent vd) := by
  intro h; cases h

theorem EncodeDecode.opens (vd : Nat) (peer : PeerAnswer) : EncodeDecode.Statement (.opens vd peer) := by
  intro h; cases h

theorem EncodeDecode.close (vd : Nat) : EncodeDecode.Statement (.close vd) := by
  intro h; cases h

theorem EncodeDecode.abort (vd : Nat) : EncodeDecode.Statement (.abort vd) := by
  intro h; cases h

theorem EncodeDecode.couplerPutArrives (win : Nat) (off : Nat) (bytes : List (BitVec 8)) (part : PutPart) : EncodeDecode.Statement (.couplerPutArrives win off bytes part) := by
  intro h; cases h

theorem EncodeDecode.putAcknowledged (cmd : Nat) : EncodeDecode.Statement (.putAcknowledged cmd) := by
  intro h; cases h

theorem EncodeDecode.integrity (req : Nat) (pa : Nat) : EncodeDecode.Statement (.integrity req pa) := by
  intro h; cases h

theorem EncodeDecode.fieldInService (field : Nat) : EncodeDecode.Statement (.fieldInService field) := by
  intro h; cases h

theorem EncodeDecode.earlyServiceEnd : EncodeDecode.Statement (.earlyServiceEnd) := by
  intro h; cases h

theorem EncodeDecode.fieldRecalibration (field : Nat) : EncodeDecode.Statement (.fieldRecalibration field) := by
  intro h; cases h

theorem EncodeDecode.hbmChannelService (die : Nat) (chan : Nat) : EncodeDecode.Statement (.hbmChannelService die chan) := by
  intro h; cases h

theorem EncodeDecode.couplerPortService (port : Nat) : EncodeDecode.Statement (.couplerPortService port) := by
  intro h; cases h

theorem EncodeDecode.smcFailover : EncodeDecode.Statement (.smcFailover) := by
  intro h; cases h

theorem EncodeDecode.packageReset : EncodeDecode.Statement (.packageReset) := by
  intro h; cases h

theorem EncodeDecode.managementPathWrite (what : MgmtWrite) : EncodeDecode.Statement (.managementPathWrite what) := by
  intro h; cases h

theorem EncodeDecode.peerAbort (tag : BitVec 16) : EncodeDecode.Statement (.peerAbort tag) := by
  intro h; cases h

theorem EncodeDecode.recalibrationEnd (field : Nat) : EncodeDecode.Statement (.recalibrationEnd field) := by
  intro h; cases h

theorem EncodeDecode.computeDieRetirement (die : Nat) : EncodeDecode.Statement (.computeDieRetirement die) := by
  intro h; cases h

end Sys2Proof.Laws
end

