-- ==== Sys2Proof/Safety.lean ====
section
/-! DEFINITION. Safety.lean: what counts as a safe step, when a word can issue, and what a word or an event of the package may change, in the terms the statements use. -/

namespace Sys2Proof

open Sys2Proof.Machine

/-- A step that neither faults nor is refused. -/
def Safe (o : Host.Outcome State Fault Refusal) : Prop :=
  match o with
  | .next _ => True
  | .fault _ => False
  | .refused _ => False

/-! ### When a word can issue -/

/-- Whether a word begins or continues a run: the next word is a member, or may be one (04 R91). -/
def bonds (i : Instr) (s : State) (g : Group) (f : Frag) : Bool := nextMember s g (prepared f (shape i).b false s.nextId) (shape i)

/-- The fragment as it stands when its word is considered: a head starts a run, of a fresh identity when the next word is a member (04 R90, R91). -/
def issuing (i : Instr) (s : State) (g : Group) (f : Frag) : Frag :=
  prepared f (shape i).b (bonds i s g f && nextReads s g (prepared f (shape i).b false s.nextId)) s.nextId

/-- The context in which fragment fi of a group executes a word. -/
def issueCtx (i : Instr) (s : State) (g : Group) (fi : Nat) (f : Frag) : Ctx :=
  let bond := bonds i s g f
  { s := setGroup { s with cur := none, tried := untry s g, nextId := if bond || (shape i).b then s.nextId + 1 else s.nextId } g
    g := g, fi := fi, f := issuing i s g f, bond := bond, chain := !(shape i).flow
    held := { s with cur := none, tried := { gid := g.gid, fi := fi } :: s.tried } }

/-- The fragment that the package has chosen to issue stands before word i with nothing to replay, and c is the context it executes the word in. -/
structure Chosen (i : Instr) (s : State) (c : Ctx) : Prop where
  cur : s.cur = some { gid := c.g.gid, fi := c.fi }
  found : findGroup s c.g.gid = some c.g
  running : c.g.status = .running
  fresh : c.g.replay = []
  here : ∃ f, c.g.frags[c.fi]? = some f ∧ c = issueCtx i s c.g c.fi f

/-- Moreover the word need not wait to be considered (04 R93; 06 R148), no trap cause that every word is subject to holds (04 R106), and nothing that a word waits for is outstanding
(06 R127, R141). -/
structure Issues (i : Instr) (s : State) (c : Ctx) : Prop extends Chosen i s c where
  starts : startHeld s c.g c.f i = false
  noTrap : firstTrap s c.g c.f i = none
  ready : notReady s c.g c.fi c.f c.cycle i = false

/-! ### What a word may change -/

/-- The allocation registers, the uniform registers and the predicates that a word names as its destinations. -/
def destRegs (i : Instr) (g : Group) : List Nat := ((shape i).opds.filter Opd.dst).flatMap (Opd.regs g)
def destUnis (i : Instr) : List Nat := ((shape i).opds.filter Opd.dst).flatMap Opd.unis
def destPreds : Instr → List Nat
  | .icmp w | .icmpu w | .icmp64 w | .fcmp w => [w.pd.toNat]
  | _ => []

/-- t is s but for the record of one group; the fragment that was issuing has issued, and no fragment counts as tried that did not before. Every other group, every byte of memory, and everything
else the package holds is as it was. -/
structure OnlyGroup (s t : State) (gid : Nat) : Prop where
  rest : t = { s with groups := t.groups, cur := none, tried := t.tried, nextId := t.nextId }
  tried : ∀ u, u ∈ t.tried → u ∈ s.tried
  others : ∀ h, h ≠ gid → findGroup t h = findGroup s h
  memory : ∀ a, rd t.mem a = rd s.mem a

/-- A word of fragment c.fi that falls through has changed its group only in its destinations, in the active lanes: the fragment stands at the next word, with its mask; the other
fragment, and everything else the group holds, is as it was; of GSTAT the bits in flags may have been set and none has been cleared. -/
structure Falls (i : Instr) (c : Ctx) (flags : BitVec 64) (h : Group) : Prop where
  vregs : ∀ r l, l < 32 → (r ∉ destRegs i c.g ∨ c.f.mask.getLsbD l = false) → vget h r l = vget c.g r l
  unis : ∀ k, k ∉ destUnis i → sget h k = sget c.g k
  preds : ∀ k l, (k ∉ destPreds i ∨ c.f.mask.getLsbD l = false) → (pget h k).getLsbD l = (pget c.g k).getLsbD l
  stat : ∃ b, b &&& ~~~flags = 0#64 ∧ h.gstat = c.g.gstat ||| b
  frag : ∃ f, h.frags[c.fi]? = some f ∧ f.pc = c.f.pc + 4#64 ∧ f.mask = c.f.mask ∧ f.board = c.f.board
  frags : h.frags.length = c.g.frags.length ∧ ∀ j, j ≠ c.fi → h.frags[j]? = c.g.frags[j]?
  rest : h = { c.g with v := h.v, s := h.s, p := h.p, gstat := h.gstat, frags := h.frags, lastFrag := c.fi }

/-- Word i issues, falls through to the next word and changes nothing but its destinations; see Falls. -/
def FallsThrough (i : Instr) (flags : BitVec 64) : Prop :=
  ∀ s c, Issues i s c → ∃ t h, exec i s = .next t ∧ findGroup t c.g.gid = some h ∧ OnlyGroup s t c.g.gid ∧ Falls i c flags h

/-! ### What a word delivers -/

/-- A result x (lane by lane) of 32 k bits has been delivered: with N = 0 a vector destination holds it in the active lanes (a pair for k = 2) and a uniform one the leader's, s0 stays
zero; with N = 1 no register does; and the newest latch holds it, per lane, or as one value when the result is uniform (04 R78-R81, R87, R88; 07 R159). -/
structure Delivers (c : Ctx) (h : Group) (uni n : Bool) (d : BitVec 7) (k : Nat) (x : Nat → DWord) : Prop where
  vec : n = false → d.toNat < 96 → ∀ l, l < 32 → c.f.mask.getLsbD l = true →
    vget h (regOf c.g d) l = (x l).setWidth 32 ∧ (k = 2 → vget h (regOf c.g d + 1) l = (x l).extractLsb' 32 32)
  unif : n = false → 96 < d.toNat → sget h (d.toNat - 96) = x (leader c.f.mask)
  zero : sget h 0 = 0#64
  silent : n = true → h.v = c.g.v ∧ h.s = c.g.s
  latch : ∃ f, h.frags[c.fi]? = some f ∧ f.latches.tail = c.f.latches.take 7 ∧
    (if uni || (!n && decide (96 ≤ d.toNat)) then latchOf f 0 = .uni (x (leader c.f.mask))
     else ∀ l, l < 32 → c.f.mask.getLsbD l = true → (latchOf f 0).at l = x l)

/-- Word i issues and delivers x, computed from the registers as they were before it. -/
def Gives (i : Instr) (uni n : Bool) (d : BitVec 7) (k : Nat) (x : Ctx → Nat → DWord) : Prop :=
  ∀ s c, Issues i s c → ∃ t h, exec i s = .next t ∧ findGroup t c.g.gid = some h ∧ Delivers c h uni n d k (x c)

/-- The same for a result that is one value for the fragment, written to every active lane of a vector destination and pushed as a uniform value (06 R153; 07 R175). -/
def GivesOne (i : Instr) (n : Bool) (d : BitVec 7) (x : Ctx → DWord) : Prop := Gives i true n d 1 (fun c _ => x c)

/-- The same for a fragment with an active lane; the manual's fragments always have one (06 R132; 07 R175). -/
def GivesActive (i : Instr) (n : Bool) (d : BitVec 7) (x : Ctx → DWord) : Prop :=
  ∀ s c, c.f.mask ≠ 0#32 → Issues i s c → ∃ t h, exec i s = .next t ∧ findGroup t c.g.gid = some h ∧ Delivers c h true n d 1 (fun _ => x c)

/-- Word i issues and writes bit x to predicate pd in the active lanes, the leader's bit in all of them when u holds; p0 keeps reading all ones; nothing enters the latches
(04 R80, R97; 07 R159). -/
def GivesBit (i : Instr) (u : Bool) (pd : BitVec 3) (x : Ctx → Nat → Bool) : Prop :=
  ∀ s c, Issues i s c → ∃ t h, exec i s = .next t ∧ findGroup t c.g.gid = some h ∧
    (pd ≠ 0#3 → ∀ l, l < 32 → c.f.mask.getLsbD l = true → (pget h pd.toNat).getLsbD l = x c (if u then leader c.f.mask else l)) ∧
    pget h 0 = 0xFFFFFFFF#32 ∧ ∃ f, h.frags[c.fi]? = some f ∧ f.latches = c.f.latches

/-- Word i sets in GSTAT the flags fl of the lanes it computes in, the leader alone when u holds, and clears none (08 R186). -/
def SetsFlags (i : Instr) (u : Bool) (fl : Ctx → Nat → BitVec 5) : Prop :=
  ∀ s c, Issues i s c → ∃ t h, exec i s = .next t ∧ findGroup t c.g.gid = some h ∧
    ∀ k, h.gstat.getLsbD k = (c.g.gstat.getLsbD k || (if u then [leader c.f.mask] else (List.range 32).filter (fun l => c.f.mask.getLsbD l)).any (fun l => (fl c l).getLsbD k))

/-- Word i issues, delivers the results of x and sets its flags. -/
def GivesFlags (i : Instr) (u n : Bool) (d : BitVec 7) (k : Nat) (x : Ctx → Nat → DWord × BitVec 5) : Prop :=
  Gives i u n d k (fun c l => (x c l).1) ∧ SetsFlags i u (fun c l => (x c l).2)

/-- A 32-bit result with flags of a format X word with source a, and of a format A word with sources a, b and d. -/
def GivesFloat (i : Instr) (w : FmtX) (f : Word → Word × BitVec 5) : Prop :=
  GivesFlags i w.u w.n w.d 1 (fun c l => ((f (op32 c w.a l)).1.setWidth 64, (f (op32 c w.a l)).2))
def GivesFloats (i : Instr) (w : FmtA) (f : Word → Word → Word → Word × BitVec 5) : Prop :=
  GivesFlags i w.u w.n w.d 1 (fun c l => ((f (op32 c w.a l) (op32 c w.b l) (op32 c w.d l)).1.setWidth 64, (f (op32 c w.a l) (op32 c w.b l) (op32 c w.d l)).2))

/-- A 32-bit result of a format A word with sources a and b, of a format X word with source a, and of a format A word that reads d too. -/
def GivesTwo (i : Instr) (w : FmtA) (op : Word → Word → Word) : Prop :=
  Gives i w.u w.n w.d 1 (fun c l => (op (op32 c w.a l) (srcB32 c w.x w.b l)).setWidth 64)
def GivesReg (i : Instr) (w : FmtA) (op : Word → Word → Word → Word) : Prop :=
  Gives i w.u w.n w.d 1 (fun c l => (op (op32 c w.a l) (op32 c w.b l) (op32 c w.d l)).setWidth 64)
def GivesX (i : Instr) (w : FmtX) (op : Word → Word) : Prop := Gives i w.u w.n w.d 1 (fun c l => (op (op32 c w.a l)).setWidth 64)

/-- The fragment that issued stands at the next word, with its mask, and has nothing to wait for that it did not wait for. -/
def Advances (c : Ctx) (h : Group) : Prop := ∃ f, h.frags[c.fi]? = some f ∧ f.pc = c.f.pc + 4#64 ∧ f.mask = c.f.mask

/-- The registers, predicates, tiles, status, control and trap registers of a group are as they were. -/
def SameRegs (c : Ctx) (h : Group) : Prop :=
  h.v = c.g.v ∧ h.s = c.g.s ∧ h.p = c.g.p ∧ h.t = c.g.t ∧ h.gstat = c.g.gstat ∧ h.gcfg = c.g.gcfg ∧ h.chteam = c.g.chteam ∧
  h.trapc = c.g.trapc ∧ h.trappc = c.g.trappc ∧ h.trapv = c.g.trapv ∧ h.trapm = c.g.trapm

/-- Nothing of memory has changed, and no other group. -/
def Elsewhere (s t : State) (gid : Nat) : Prop := (∀ a, rd t.mem a = rd s.mem a) ∧ ∀ g, g ≠ gid → findGroup t g = findGroup s g

/-- How much a load (near is G) or a store (near is W) raises a counter: near for a lane in the global half, F for a lane in the far half (11 R250, R260). -/
def rise (near : Ctr) (ls : List Nat) (ea : Nat → DWord) (k : Ctr) : Nat :=
  if (k = near ∧ ls.any (fun l => !(ea l).getLsbD 56) = true) ∨ (k = .f ∧ ls.any (fun l => (ea l).getLsbD 56) = true) then 1 else 0

/-- Word i has been sent into the memory system: it is in flight, each lane of ls has a request of size z and operation op at its address with its one or two operands, and each
counter has risen by up (11 R255, R260). The group holds what it held, its fragment stands at the next word, and memory and every other group are as they were. -/
structure Sent (i : Instr) (s : State) (c : Ctx) (t : State) (h : Group) (ls : List Nat) (op : MemOp) (z : Nat) (ea : Nat → DWord) (data : Nat → Nat × Nat) (up : Ctr → Nat) : Prop where
  flight : ∃ x, x ∈ h.flights ∧ x.id = c.s.nextId ∧ x.word = encode i ∧ x.mask = c.f.mask ∧
    ∀ l, l ∈ ls → ∃ r, r ∈ t.reqs ∧ r.gid = c.g.gid ∧ r.flight = x.id ∧ r.op = op ∧ r.size = z ∧ ∃ a, a ∈ r.lanes ∧ a.lane = l ∧ a.va = ea l ∧ (a.data, a.second) = data l
  counts : ∀ k, h.count k = c.g.count k + up k
  group : h = { c.g with cg := h.cg, cs := h.cs, cf := h.cf, cw := h.cw, flights := h.flights, frags := h.frags, lastFrag := c.fi }
  next : Advances c h
  frags : ∀ j, j ≠ c.fi → h.frags[j]? = c.g.frags[j]?
  rest : Elsewhere s t c.g.gid

/-- A release of scope o has nothing to wait for and nothing to bring home: W is zero, at system scope F too, no refusal is recorded, and at package scope the die holds no dirty remote
word of the virtual device (11 R264; 14 R360; 15 R379). -/
def ReleaseReady (s : State) (c : Ctx) (o : Scope) : Prop :=
  o = .none ∨ (c.g.cw = [] ∧ (o = .system → c.g.cf = []) ∧ c.g.refuse = none ∧
    (o = .die ∨ ∀ r, r ∈ s.remote → r.vd = c.g.vd → r.die = siteDie c.g.site → r.dirty = false))

/-- What an operation that leaves an object with r arrivals and b bytes makes of it: the phase completes when both are zero, the object is over-credited when no arrival is left and b is
negative, and else it waits (14 R335, R336). -/
structure Settles (o : BarObj) (r : Nat) (b : Int) (o' : BarObj) : Prop where
  same : o'.earr = o.earr ∧ o'.ebytes = o.ebytes
  complete : r = 0 → b = 0 → o'.par = !o.par ∧ o'.phase = (o.phase + 1) % 65536 ∧ o'.rarr = o.earr ∧ o'.rbytes = o.ebytes ∧ o'.err = o.err
  broken : r = 0 → b < 0 → o'.err = true ∧ o'.rarr = 0 ∧ o'.rbytes = b ∧ o'.par = o.par ∧ o'.phase = o.phase
  waits : r ≠ 0 ∨ 0 < b → o'.rarr = r ∧ o'.rbytes = b ∧ o'.par = o.par ∧ o'.phase = o.phase ∧ o'.err = o.err

/-! ### Floating-point numbers (08 Tables 8.1-8.5, R182-R186) -/

/-- The exponent field and the sign of a code of a binary format with ew exponent and fw fraction bits; whether it is a NaN, a signalling one, an infinity. -/
def codeExp (ew fw r : Nat) : Nat := r / 2 ^ fw % 2 ^ ew
def codeNeg (ew fw r : Nat) : Bool := r / 2 ^ (ew + fw) % 2 == 1
def codeNan (ew fw r : Nat) : Bool := codeExp ew fw r == 2 ^ ew - 1 && r % 2 ^ fw != 0
def codeSig (ew fw r : Nat) : Bool := codeNan ew fw r && decide (r % 2 ^ fw < 2 ^ (fw - 1))
def codeInf (ew fw r : Nat) : Bool := codeExp ew fw r == 2 ^ ew - 1 && r % 2 ^ fw == 0

/-- The canonical NaN of a format, its infinities and its zeros. -/
def quietNan (ew fw : Nat) : Nat := (2 ^ ew - 1) * 2 ^ fw + 2 ^ (fw - 1)
def infCode (ew fw : Nat) (neg : Bool) : Nat := (if neg then 2 ^ (ew + fw) else 0) + (2 ^ ew - 1) * 2 ^ fw
def zeroCode (ew fw : Nat) (neg : Bool) : Nat := if neg then 2 ^ (ew + fw) else 0

/-- The number that a finite code stands for; its bias is 2 ^ (ew - 1) - 1. -/
def codeVal (ew fw r : Nat) : Option Rat :=
  let e := codeExp ew fw r
  let f := r % 2 ^ fw
  let bias := 2 ^ (ew - 1) - 1
  let m : Rat := if e = 0 then (f : Rat) / 2 ^ (bias + fw - 1) else ((2 ^ fw + f : Nat) : Rat) * 2 ^ e / 2 ^ (bias + fw)
  if e = 2 ^ ew - 1 then none else some (if codeNeg ew fw r then -m else m)

/-- y, rounded in direction m with an unbounded exponent, is greater in magnitude than every finite number of the format (08 R183): the least power of two above them is top. -/
def Overflows (ew fw : Nat) (m : BitVec 2) (y : Rat) : Prop :=
  let top : Rat := 2 ^ (2 ^ (ew - 1))
  let big := top - top / 2 ^ (fw + 1)
  match m.toNat with
  | 0 => top - top / 2 ^ (fw + 2) ≤ |y|
  | 1 => top ≤ |y|
  | 2 => top ≤ y ∨ y < -big
  | _ => big < y ∨ y ≤ -top

/-- y, rounded in direction m with an unbounded exponent, is less in magnitude than the least normal number, and it is not zero (08 R184). -/
def Tiny (ew fw : Nat) (m : BitVec 2) (y : Rat) : Prop :=
  let small : Rat := 1 / 2 ^ (2 ^ (ew - 1) - 2)
  let below := small - small / 2 ^ (fw + 1)
  y ≠ 0 ∧ match m.toNat with
    | 0 => |y| < small - small / 2 ^ (fw + 2)
    | 1 => |y| < small
    | 2 => -below ≤ y ∧ y < small
    | _ => -small < y ∧ y ≤ below

/-- r is the code of y, not zero, rounded in direction m: of two nearest numbers the even one; the greatest in magnitude not beyond y, the greatest not above it, the least not below it; and on
overflow what Table 8.4 gives (08 R182, R183). -/
structure RoundsTo (ew fw : Nat) (m : BitVec 2) (y : Rat) (r : Nat) : Prop where
  width : r < 2 ^ (ew + fw + 1)
  sign : codeNeg ew fw r = decide (y < 0)
  large : Overflows ew fw m y → r = (if m = 0#2 ∨ (m = 2#2 ∧ y < 0) ∨ (m = 3#2 ∧ 0 < y) then infCode ew fw (decide (y < 0)) else infCode ew fw (decide (y < 0)) - 1)
  fits : ¬ Overflows ew fw m y → ∃ q, codeVal ew fw r = some q ∧ ∀ k x, codeVal ew fw k = some x →
    match m.toNat with
    | 0 => |q - y| ≤ |x - y| ∧ (|q - y| = |x - y| → x = q ∨ r % 2 = 0)
    | 1 => |q| ≤ |y| ∧ (|x| ≤ |y| → |x| ≤ |q|)
    | 2 => q ≤ y ∧ (x ≤ y → x ≤ q)
    | _ => y ≤ q ∧ (y ≤ x → q ≤ x)

/-- fl holds the flags of delivering code r for the exact result y: NX (bit 0) when r is not y, UF (bit 1) when it is tiny too, OF (bit 2) on overflow; not DZ, not NV (08 Table 8.5). -/
structure Flagged (ew fw : Nat) (m : BitVec 2) (y : Rat) (r : Nat) (fl : BitVec 5) : Prop where
  nx : fl.getLsbD 0 = true ↔ codeVal ew fw r ≠ some y
  uf : fl.getLsbD 1 = true ↔ Tiny ew fw m y ∧ codeVal ew fw r ≠ some y
  of : fl.getLsbD 2 = true ↔ Overflows ew fw m y
  rest : fl.getLsbD 3 = false ∧ fl.getLsbD 4 = false

/-- r and fl are what the finite exact result y delivers; a zero has the sign given. -/
def Exactly (ew fw : Nat) (m : BitVec 2) (y : Rat) (neg : Bool) (r : Nat) (fl : BitVec 5) : Prop :=
  (y = 0 → r = zeroCode ew fw neg ∧ fl = 0#5) ∧ (y ≠ 0 → RoundsTo ew fw m y r ∧ Flagged ew fw m y r fl)

/-- r and fl are the canonical NaN, with NV (bit 4) set when inv holds; or an infinity, without a flag. -/
def Invalid (ew fw : Nat) (inv : Bool) (r : Nat) (fl : BitVec 5) : Prop := r = quietNan ew fw ∧ fl = if inv then 0x10#5 else 0#5
def Infinite (ew fw : Nat) (neg : Bool) (r : Nat) (fl : BitVec 5) : Prop := r = infCode ew fw neg ∧ fl = 0#5

/-- r and fl are the sum of two codes rounded once, with its flags (08 R183, R185). -/
structure IsSum (ew fw : Nat) (m : BitVec 2) (a b r : Nat) (fl : BitVec 5) : Prop where
  nan : codeNan ew fw a = true ∨ codeNan ew fw b = true → Invalid ew fw (codeSig ew fw a || codeSig ew fw b) r fl
  infs : codeInf ew fw a = true → codeInf ew fw b = true → if codeNeg ew fw a = codeNeg ew fw b then Infinite ew fw (codeNeg ew fw a) r fl else Invalid ew fw true r fl
  left : codeInf ew fw a = true → (codeVal ew fw b).isSome = true → Infinite ew fw (codeNeg ew fw a) r fl
  right : (codeVal ew fw a).isSome = true → codeInf ew fw b = true → Infinite ew fw (codeNeg ew fw b) r fl
  fin : ∀ p q, codeVal ew fw a = some p → codeVal ew fw b = some q →
    Exactly ew fw m (p + q) (if codeNeg ew fw a = codeNeg ew fw b then codeNeg ew fw a else decide (m = 2#2)) r fl

/-- The product of an infinity and a zero, and of an infinity and anything else that is no NaN. -/
def infByZero (ew fw a b : Nat) : Bool := (codeInf ew fw a && codeVal ew fw b == some 0) || (codeInf ew fw b && codeVal ew fw a == some 0)
def infProduct (ew fw a b : Nat) : Bool := (codeInf ew fw a || codeInf ew fw b) && !codeNan ew fw a && !codeNan ew fw b && !infByZero ew fw a b

/-- r and fl are the product of two codes, likewise. -/
structure IsProduct (ew fw : Nat) (m : BitVec 2) (a b r : Nat) (fl : BitVec 5) : Prop where
  nan : codeNan ew fw a = true ∨ codeNan ew fw b = true → Invalid ew fw (codeSig ew fw a || codeSig ew fw b) r fl
  zero : infByZero ew fw a b = true → Invalid ew fw true r fl
  inf : infProduct ew fw a b = true → Infinite ew fw (codeNeg ew fw a != codeNeg ew fw b) r fl
  fin : ∀ p q, codeVal ew fw a = some p → codeVal ew fw b = some q → Exactly ew fw m (p * q) (codeNeg ew fw a != codeNeg ew fw b) r fl

/-- r and fl are the exact product of a and b plus d, rounded once, likewise; 0 times an infinity is invalid whatever d is (08 R185, R188). -/
structure IsFused (ew fw : Nat) (m : BitVec 2) (a b d r : Nat) (fl : BitVec 5) : Prop where
  nan : codeNan ew fw a = true ∨ codeNan ew fw b = true ∨ codeNan ew fw d = true →
    Invalid ew fw (codeSig ew fw a || codeSig ew fw b || codeSig ew fw d || infByZero ew fw a b) r fl
  zero : infByZero ew fw a b = true → Invalid ew fw true r fl
  infs : infProduct ew fw a b = true → codeInf ew fw d = true →
    if (codeNeg ew fw a != codeNeg ew fw b) = codeNeg ew fw d then Infinite ew fw (codeNeg ew fw d) r fl else Invalid ew fw true r fl
  left : infProduct ew fw a b = true → (codeVal ew fw d).isSome = true → Infinite ew fw (codeNeg ew fw a != codeNeg ew fw b) r fl
  right : (codeVal ew fw a).isSome = true → (codeVal ew fw b).isSome = true → codeInf ew fw d = true → Infinite ew fw (codeNeg ew fw d) r fl
  fin : ∀ p q z, codeVal ew fw a = some p → codeVal ew fw b = some q → codeVal ew fw d = some z →
    Exactly ew fw m (p * q + z) (if (codeNeg ew fw a != codeNeg ew fw b) = codeNeg ew fw d then codeNeg ew fw d else decide (m = 2#2)) r fl

/-- p holds of both halves of packed words, with the flags of either (08 R195). -/
def BothHalves (a b d r : Word) (fl : BitVec 5) (p : Nat → Nat → Nat → Nat → BitVec 5 → Prop) : Prop :=
  ∃ f0 f1, fl = f0 ||| f1 ∧ p (a.toNat % 2 ^ 16) (b.toNat % 2 ^ 16) (d.toNat % 2 ^ 16) (r.toNat % 2 ^ 16) f0 ∧
    p (a.toNat / 2 ^ 16) (b.toNat / 2 ^ 16) (d.toNat / 2 ^ 16) (r.toNat / 2 ^ 16) f1

/-- The tree of 07 R175 over lanes l to l + 2 ^ k - 1: the combined value, and the flags of every combination. -/
def treeOver (f : Word → Word → Word × BitVec 5) (x : Nat → Option Word) : Nat → Nat → Option (Word × BitVec 5)
  | 0, l => (x l).map (fun v => (v, 0#5))
  | k + 1, l =>
    match treeOver f x k l, treeOver f x k (l + 2 ^ k) with
    | some p, some q => some ((f p.1 q.1).1, p.2 ||| q.2 ||| (f p.1 q.1).2)
    | some p, none => some p
    | none, y => y

/-- Word i delivers, as one value, what the tree makes of the active lanes' values, and sets the flags of its combinations (07 R175). -/
def Combines (i : Instr) (w : FmtX) (f : Word → Word → Word × BitVec 5) : Prop :=
  let tree := fun (c : Ctx) => (treeOver f (fun l => if c.f.mask.getLsbD l then some (op32 c w.a l) else none) 5 0).getD (0#32, 0#5)
  GivesActive i w.n w.d (fun c => (tree c).1.setWidth 64) ∧ SetsFlags i true (fun c _ => (tree c).2)

/-! ### Narrow formats (09 Table 9.1, R213, R214) -/

/-- The magnitude of a finite narrow code. -/
def narrowVal (fw bias c : Nat) : Rat := if c / 2 ^ fw = 0 then (c : Rat) / 2 ^ (bias + fw - 1) else ((2 ^ fw + c % 2 ^ fw : Nat) : Rat) * 2 ^ (c / 2 ^ fw) / 2 ^ (bias + fw)

/-- A magnitude x rounded to a multiple of u, to nearest even, or by the stochastic rule with its 12 random bits (09 R213). -/
def roundMag (sr : Bool) (rnd : Nat) (u x : Rat) : Rat :=
  let k := ⌊x / u⌋
  let r := x / u - k
  (if (if sr then decide (4096 ≤ ⌊4096 * r⌋ + rnd) else decide (1 / 2 < r) || (decide (r = 1 / 2) && k % 2 == 1)) then k + 1 else k : Int) * u

/-- q and fl are the code and the flags of FP32 value v in a narrow format of n bits, largest finite code top, NaN code nan and infinity inf: rounded with subnormals, or what Table 9.7 gives; sat
is x = 1 (09 R213, R214). -/
def IsNarrow (fw bias n top nan : Nat) (inf : Option Nat) (sr : Bool) (rnd : Nat) (sat : Bool) (v : Nat) (q : Nat) (fl : BitVec 5) : Prop :=
  let sign := if codeNeg 8 23 v then 2 ^ (n - 1) else 0
  let clip := sat || n == 4
  let beyond := if clip then sign + top else match inf with | some i => sign + i | none => nan
  (codeNan 8 23 v = true → q = nan ∧ fl = 0x10#5) ∧
  (codeInf 8 23 v = true → q = beyond ∧ fl = if clip || inf.isNone then 0x10#5 else 0#5) ∧
  (codeVal 8 23 v = some 0 → q = sign ∧ fl = 0#5) ∧
  ∀ (p : Rat) (e : Int), codeVal 8 23 v = some p → (2 : Rat) ^ e ≤ |p| → |p| < (2 : Rat) ^ (e + 1) →
    let least : Int := 1 - bias
    let mag := roundMag sr rnd ((2 : Rat) ^ (max e least - fw)) |p|
    let tiny := decide (roundMag sr rnd ((2 : Rat) ^ (e - fw)) |p| < (2 : Rat) ^ least)
    (narrowVal fw bias top < mag → q = beyond ∧ fl = 0x05#5) ∧
    (mag ≤ narrowVal fw bias top → ∃ c, c ≤ top ∧ q = sign + c ∧ narrowVal fw bias c = mag ∧ fl = if mag = |p| then 0#5 else if tiny then 0x03#5 else 0x01#5)

/-! ### Requests at their home, units of the Dray -/

/-- Where a request's first lane lies. -/
def firstPa (r : Req) (x : Xl) : Nat := x.at ((r.lanes.head?.map Access.va).getD 0#64)

/-- A request has reached its home, translated, and nothing holds it there (11 R256; 14 R346; 17 R439, R440). -/
structure AtItsHome (s : State) (req : Nat) (r : Req) (x : Xl) : Prop where
  found : findReq s req = some r
  xl : r.xl = some x
  stage : r.stage = .home
  first : firstAtHome s r x = true
  carriers : carriersDone s r = true
  served : chanHeld s (firstPa r x) = false

/-- Moreover the home is a slice of its die's HBM, which has not failed, the request named it, and no check is mismatched (12 R295, R312, R315; 17 R439). -/
structure AtHbm (s : State) (req : Nat) (r : Req) (x : Xl) : Prop extends AtItsHome s req r x where
  page : x.dev = false
  kind : paKind (firstPa r x) = .hbm
  home : r.home = none ∨ r.home = some (homeOf s (firstPa r x))
  lives : s.failed.contains (paDie (firstPa r x)) = false
  clean : badBlock s r x = false

/-- No 64-byte block that n bytes of memory meet has a mismatched check (17 R439). -/
def Unmarked (s : State) (pa n : Nat) : Prop := ∀ b, b ∈ s.integrity → 64 * b + 64 ≤ pa ∨ pa + n ≤ 64 * b

/-- A home has answered a request: the step answers t, no group has changed, and q is the request on its way back. -/
structure Answers (s : State) (req : Nat) (r : Req) (t : State) (q : Req) : Prop where
  next : exec (.homePerform req) s = .next t
  groups : t.groups = s.groups
  there : q ∈ t.reqs
  id : q.id = r.id
  stage : q.stage = .reply

/-- A unit of a Dray command has landed bytes bs at an offset of its team's scratchpad: it counts k further, every other byte of the cluster's SRAM but the barrier object's is as it was, as is
memory; and the object that BAR names is credited with the bytes (13 R321, R322). -/
structure Lands (s t : State) (cmd : Nat) (d : DrayCmd) (tm : Team) (k off : Nat) (bs : List (BitVec 8)) : Prop where
  done : ∃ d', t.drays.find? (fun d => d.id == cmd) = some d' ∧ d'.done = d.done + k
  bytes : ∀ j b, bs[j]? = some b → rd (clusterOf t d.site).sram (tm.block + off + j) = b
  other : ∀ p, (p < tm.block + off ∨ tm.block + off + bs.length ≤ p) →
    ((DrayArgs.ofList d.args).bar = 255 ∨ p < tm.block + 16 * (DrayArgs.ofList d.args).bar ∨ tm.block + 16 * (DrayArgs.ofList d.args).bar + 16 ≤ p) →
    rd (clusterOf t d.site).sram p = rd (clusterOf s d.site).sram p
  credit : (DrayArgs.ofList d.args).bar ≠ 255 →
    let o := readBar (clusterOf s d.site).sram (tm.block + 16 * (DrayArgs.ofList d.args).bar)
    Settles o o.rarr (o.rbytes - bs.length) (readBar (clusterOf t d.site).sram (tm.block + 16 * (DrayArgs.ofList d.args).bar))
  memory : ∀ a, rd t.mem a = rd s.mem a

/-! ### Traps -/

/-- The issuing fragment has taken a trap: cause, value and lanes stand in TRAPC, TRAPV and TRAPM, TRAPPC holds the head of the run (the word itself outside a run) and RUNIX the
position in it, the group stops and will issue nothing, and the fragment will resume past bytes after TRAPPC (16 R394, R395; 04 R92). Registers, stack and counters, every
other group and memory are as they were. -/
structure Trapped (s : State) (c : Ctx) (t : State) (h : Group) (cause : BitVec 8) (val : DWord) (mask : Mask) (past : DWord) : Prop where
  cause : h.trapc = cause.setWidth 64
  val : h.trapv = val
  mask : h.trapm = mask.setWidth 64
  pc : h.trappc = (if c.f.run = 0 then c.f.pc else c.f.head)
  runix : (h.gstat.extractLsb' 8 3).toNat = (if c.f.run = 0 then 0 else c.f.run % 8) ∧ h.gstat &&& ~~~0x700#64 = c.g.gstat &&& ~~~0x700#64
  stops : h.status = .stopping .trap
  frag : ∃ f, h.frags[c.fi]? = some f ∧ f.pc = (if c.f.run = 0 then c.f.pc else c.f.head) + past ∧ f.mask = c.f.mask
  frags : ∀ j, j ≠ c.fi → h.frags[j]? = c.g.frags[j]?
  rest : h = { c.g with trapc := h.trapc, trappc := h.trappc, trapv := h.trapv, trapm := h.trapm, detail := h.detail, gstat := h.gstat, frags := h.frags, status := h.status }
  only : OnlyGroup s t c.g.gid

/-- Word i takes a trap. -/
def TakesTrap (i : Instr) (s : State) (c : Ctx) (cause : BitVec 8) (val : DWord) (mask : Mask) (past : DWord) : Prop :=
  ∃ t h, exec i s = .next t ∧ findGroup t c.g.gid = some h ∧ Trapped s c t h cause val mask past

/-- An event that is not enabled changes nothing. -/
def Stays (i : Instr) (s : State) : Prop := exec i s = .next s

end Sys2Proof
end

