-- ==== Sys2Proof/Certificates/Slice0/Obligations.lean ====
section
/-! DEFINITION. Certificates/Slice0/Obligations.lean: the statements for the provers. -/

open Sys2Proof Sys2Proof.Machine

/-! ## Encoding and the step -/

/-- 04 R96-R105, 05 R116-R121: the decoder reads back every field of every word that the encoder lays out, from the word and from its four bytes in memory order, with every
operand at every value its field admits. -/
def Obligations.DecodeOfEncodeIsTheWord : Prop :=
  ∀ i : Instr, i.isWord = true →
    decodeWord (encode i) = .ok i ∧ decodeTableWord 32 (encode i).toNat = some i ∧ (encode i).toNat < 2 ^ 32

/-- 05 R116-R122: a word that decodes is the encoding of what it decodes to, so no two instructions share a word and no bit of a word is ignored. -/
def Obligations.EveryDecodedWordIsAnEncoding : Prop :=
  ∀ (w : Word) (i : Instr), decodeWord w = .ok i → i.isWord = true ∧ encode i = w

/-- Words that the manual prints with their assembly, one or more of every family: control, integer, lanes and selects, floating point, narrow formats, matrix, loads and stores, fences, Dray,
barriers, atomics, channels, system words, CSRs, Relay, translation and power (06 R144-R158; 07 R163-R179; 08 R182-R198; 09 Table 9.5; 10; 11 Table 11.6; 12 Table 12.10; 13; 14 Tables 14.2, 14.4,
14.7; 16 Table 16.10, R422-R424). -/
def Obligations.PrintedWordsDecode : Prop :=
  decodeWord 0x200C0820#32 = .ok (.iadd { d := 3#7, a := 1#7, b := 2#7, x := false, u := false, n := false, z := false }) ∧
  decodeWord 0x200C0FF8#32 = .ok (.iadd { d := 3#7, a := 1#7, b := 0x7F#7, x := true, u := false, n := false, z := false }) ∧
  decodeWord 0x340C4818#32 = .ok (.iunaryPopc { d := 3#7, a := 9#7, u := false, n := false, z := false }) ∧
  decodeWord 0x4A481030#32 = .ok (.icmp { pd := 1#3, cond := 2#4, a := 2#7, b := 3#7, x := false, u := false, z := false }) ∧
  decodeWord 0x4E181032#32 = .ok (.sel { d := 6#7, a := 2#7, b := 3#7, ps := 1#3, n := false }) ∧
  decodeWord 0x50092494#32 = .ok (.movi { d := 2#7, imm := 0x4925#16, u := false, z := false }) ∧
  decodeWord 0x04E0000C#32 = .ok (.brc { p := 3#3, n := true, off := 3#19, u := false }) ∧
  decodeWord 0x0A033008#32 = .ok (.calli { d := 0#7, a := 102#7, b := 0#7, u := false, n := false, z := false }) ∧
  decodeWord 0x1A000068#32 = .ok (.winb { d := 0#7, imm := 26#16, u := false, z := false }) ∧
  decodeWord 0x1C030028#32 = .ok (.trap { d := 0#7, a := 96#7, u := false, n := false, z := false } 5#7) ∧
  decodeWord 0x60143008#32 = .ok (.laneShup { d := 5#7, a := 6#7, u := false, n := false, z := false } 0#1 1#5) ∧
  decodeWord 0x67900800#32 = .ok (.gredAdd { d := 100#7, a := 1#7, u := false, n := false, z := false }) ∧
  decodeWord 0x700C0828#32 = .ok (.fadd { d := 3#7, a := 1#7, b := 2#7, x := true, u := false, n := false, z := false }) ∧
  decodeWord 0x76200820#32 = .ok (.ffma { d := 8#7, a := 1#7, b := 2#7, x := false, u := false, n := false, z := false }) ∧
  decodeWord 0x90080B08#32 = .ok (.cvt { d := 2#7, a := 1#7, u := false, n := false, z := false } 3#3 0#3 1#2) ∧
  decodeWord 0x86182050#32 = .ok (.hfma2 { d := 6#7, a := 4#7, b := 5#7, x := false, u := false, n := false, z := false }) ∧
  decodeWord 0x9268B198#32 = .ok (.cvtn { d := 26#7, a := 22#7, b := 25#7, x := true, u := false, n := false, z := false }) ∧
  decodeWord 0x96032018#32 = .ok (.cbld { d := 0#7, a := 100#7, u := false, n := false, z := false } 3#4) ∧
  decodeWord 0xA0000410#32 = .ok (.mma { td := 0#4, a := 0#7, b := 8#7, f := 16#7 }) ∧
  decodeWord 0xAE030000#32 = .ok (.fhset { d := 0#7, a := 96#7, u := false, n := false, z := false }) ∧
  decodeWord 0xC2243008#32 = .ok (.stw { d := 9#7, a := 6#7, off := 0#7, ord := 2#2, u := false, z := false }) ∧
  decodeWord 0xC8101090#32 = .ok (.ldxLdnc { d := 4#7, a := 2#7, u := false, n := false, z := false } 0#2 2#3) ∧
  decodeWord 0xCA180818#32 = .ok (.lds { d := 6#7, a := 1#7, off := 1#7, ord := 2#2, u := false, z := false }) ∧
  decodeWord 0xCE000018#32 = .ok (.memxFence { d := 0#7, a := 0#7, u := false, n := false, z := false } 3#4) ∧
  decodeWord 0xD1976060#32 = .ok (.drayPub { d := 101#7, a := 108#7, u := false, n := false, z := false } 0#1) ∧
  decodeWord 0xD2032800#32 = .ok (.dwaitOne { d := 0#7, a := 101#7, u := false, n := false, z := false }) ∧
  decodeWord 0xD8032208#32 = .ok (.barWait { d := 0#7, a := 100#7, u := false, n := false, z := false } 1#1) ∧
  decodeWord 0xDA0C2060#32 = .ok (.atarithAdd { d := 3#7, a := 4#7, b := 6#7, ar := false }) ∧
  decodeWord 0xE8082060#32 = .ok (.rcn { d := 2#7, a := 4#7, b := 6#7, ar := false }) ∧
  decodeWord 0xEA004018#32 = .ok (.send { d := 0#7, a := 8#7, u := false, n := false, z := false } 3#6) ∧
  decodeWord 0xF1974008#32 = .ok (.eret { d := 101#7, a := 104#7, u := false, n := false, z := false }) ∧
  decodeWord 0xF3940000#32 = .ok (.csrr { d := 101#7, imm := 0#16, u := false, z := false }) ∧
  decodeWord 0xF7974000#32 = .ok (.rlySend { d := 101#7, a := 104#7, u := false, n := false, z := false }) ∧
  decodeWord 0xF9974008#32 = .ok (.xlatBlock { d := 101#7, a := 104#7, u := false, n := false, z := false }) ∧
  decodeWord 0xFB940018#32 = .ok (.pwrIslq { d := 101#7, a := 0#7, u := false, n := false, z := false } 3#3)

/-- 06 R140, 05 R123-R125: when a fragment has been chosen, a step fetches the word at its PC (its group's first replay entry instead, 16 R400), runs the instruction it decodes to, and nothing
else; a fetch that faults and a word that does not decode are delivered at the word; a fetch that a block holds (12 R298) leaves everything as it was, and the fragment counts as tried in this
cycle. A trap in which the fragment's wait has ended behind the other fragment's run (04 R91) is delivered instead. When none has been chosen, the step runs the first event asked for (log 2). -/
def Obligations.AStepRunsTheDecodedInstruction : Prop :=
  (∀ s u g f, s.cur = some u → findGroup s u.gid = some g → g.status = .running → g.replay = [] → g.frags[u.fi]? = some f → dueTrap f = none →
    (fetchStalls s g f.pc = false →
      (∀ x i, fetchWord s g f.pc = .ok x → decodeWord x = .ok i → step s = exec i s) ∧
      (∀ x e, fetchWord s g f.pc = .ok x → decodeWord x = .error e → step s = issueBad x s) ∧
      (∀ t, fetchWord s g f.pc = .error t → step s = issueFetchFault t s)) ∧
    (fetchStalls s g f.pc = true → step s = .next { s with cur := none, tried := u :: s.tried })) ∧
  (∀ s u g f e, s.cur = some u → findGroup s u.gid = some g → g.status = .running → g.replay = [] → g.frags[u.fi]? = some f → dueTrap f = some e → step s = issueDue e s) ∧
  (∀ s u g r l f i, s.cur = some u → findGroup s u.gid = some g → g.status = .running → g.replay = r :: l → g.frags[u.fi]? = some f → decodeWord r.word = .ok i → step s = exec i s) ∧
  (∀ s i l, s.cur = none → s.agenda = i :: l → step s = exec i { s with agenda := l })

/-- Word i is considered at once, has only legal fields and a place in its run, and its core has its major (04 R90, R93; 05 R123; 16 R417). -/
def LegalFields (i : Instr) (s : State) (c : Ctx) : Prop :=
  i.isWord = true ∧ Chosen i s c ∧ startHeld s c.g c.f i = false ∧ legal i = true ∧ (isCluster c.g.site = true ∨ (shape i).notCore = false) ∧ ((shape i).b = false ∨ c.f.run ≠ 0)

/-- Moreover, of a SWITCH, the case bytes above cnt are zero and can be fetched (04 R105; 06 R148). -/
def LegalHere (i : Instr) (s : State) (c : Ctx) : Prop := LegalFields i s c ∧ ∀ w, i = .switch w → switchData s c.g c.f.pc w = .ok true

/-- 04 R77, R88-R90, R106; 05 R123, R124; 16 R394, R414, R417: a word whose fields are not legal, whose major a core does not have, or whose B bit is set where no run can go on, raises
ILLEGAL, then one above its group's level PRIV, both with the word in TRAPV; then an allocation register at or above VREGS raises REGBUD with its number, a tile at or above TILES TILE,
and an invalid latch LATCH with its number. A SWITCH whose case bytes above cnt are not all zero raises ILLEGAL, one whose case or slot words cannot be fetched the cause of the first that
cannot (04 R105; 06 R140, R148). Choices of the model in it: logs 38, 77. -/
def Obligations.WordsTrapInTheirOrder : Prop :=
  (∀ i s c, i.isWord = true → Chosen i s c → startHeld s c.g c.f i = false →
    (legal i = false ∨ ((shape i).notCore = true ∧ isCluster c.g.site = false) ∨ ((shape i).b = true ∧ c.f.run = 0)) →
    TakesTrap i s c 0x01#8 ((encode i).setWidth 64) c.f.mask 0#64) ∧
  (∀ w s c, LegalFields (.switch w) s c →
    let data := fun (n : Nat) => fetchWord s c.g (c.f.pc + BitVec.ofNat 64 (4 * n))
    (∀ x y : Word, data 1 = .ok x → data 2 = .ok y → (∃ i, w.cnt.toNat < i ∧ i < 8 ∧ (if i < 4 then x else y).toNat / 2 ^ (8 * (i % 4)) % 256 ≠ 0) →
      TakesTrap (.switch w) s c 0x01#8 ((encode (.switch w)).setWidth 64) c.f.mask 0#64) ∧
    (∀ n e, n = 1 ∨ (n = 2 ∧ ∃ x, data 1 = .ok x) → data n = .error e → TakesTrap (.switch w) s c e.cause (c.f.pc + BitVec.ofNat 64 (4 * n)) c.f.mask 0#64) ∧
    (∀ n e, Issues (.switch w) s c → (∀ k, 3 ≤ k → k ≤ w.cnt.toNat + 4 → fetchStalls s c.g (c.f.pc + BitVec.ofNat 64 (4 * k)) = false) → 3 ≤ n → n ≤ w.cnt.toNat + 4 →
      (∀ k, 3 ≤ k → k < n → ∃ x, data k = .ok x) → data n = .error e → TakesTrap (.switch w) s c e.cause (c.f.pc + BitVec.ofNat 64 (4 * n)) c.f.mask 0#64)) ∧
  (∀ i s c, LegalHere i s c → c.g.level.has (shape i).priv = false → TakesTrap i s c 0x02#8 ((encode i).setWidth 64) c.f.mask 0#64) ∧
  (∀ i s c, LegalHere i s c → c.g.level.has (shape i).priv = true →
    let regs := (shape i).opds.flatMap (Opd.regs c.g)
    let latches := (shape i).opds.filter (fun o => !o.dst && decide (120 ≤ o.fld.toNat))
    (∀ r, regs.find? (fun r => decide (c.g.vregs ≤ r)) = some r → TakesTrap i s c 0x0E#8 (BitVec.ofNat 64 r) c.f.mask 0#64) ∧
    (∀ k, (∀ r, r ∈ regs → r < c.g.vregs) → (shape i).tiles.find? (fun k => decide (c.g.tiles ≤ k)) = some k → TakesTrap i s c 0x17#8 (BitVec.ofNat 64 k) c.f.mask 0#64) ∧
    (∀ o, (∀ r, r ∈ regs → r < c.g.vregs) → (∀ k, k ∈ (shape i).tiles → k < c.g.tiles) → latches.find? (fun o => latchOf c.f (o.fld.toNat - 120) == .invalid) = some o →
      TakesTrap i s c 0x04#8 (BitVec.ofNat 64 (o.fld.toNat - 120)) c.f.mask 0#64))

/-- 04 R90, R92, R93; 05 R123, R124; 06 R140; 16 R394: a word that does not decode, and one whose fetch faults, at the PC of the chosen fragment, raises ILLEGAL with the word in TRAPV, or the
fault's cause with the PC, and changes nothing else: at the word, with RUNIX 0, once the run before it has been translated; a word that is a member of the fragment's run, its B bit being set,
at the run's head, with its place in the run in RUNIX. Choices of the model in it: log 54, what counts as the B bit of such a word, and log 92, a fetch that faults behind the words of a run. -/
def Obligations.WordsThatDoNotDecodeTrap : Prop :=
  ∀ s g fi f, s.cur = some { gid := g.gid, fi := fi } → findGroup s g.gid = some g → g.status = .running → g.replay = [] → g.frags[fi]? = some f → dueTrap f = none →
    fetchStalls s g f.pc = false →
    let trapped := fun (cause v pc : DWord) (place : Nat) => ∃ t h, step s = .next t ∧ findGroup t g.gid = some h ∧ h.trapc = cause ∧ h.trapv = v ∧ h.trapm = f.mask.setWidth 64 ∧ h.trappc = pc ∧
      h.gstat = (g.gstat &&& ~~~0x700#64) ||| BitVec.ofNat 64 (256 * place) ∧ (∃ k, h.frags[fi]? = some k ∧ k.pc = pc ∧ k.mask = f.mask) ∧
      h.status = .stopping .trap ∧ h.v = g.v ∧ h.s = g.s ∧ h.p = g.p ∧ h.stack = g.stack ∧ Elsewhere s t g.gid
    (∀ x e, fetchWord s g f.pc = .ok x → decodeWord x = .error e →
      (runHeld g = false → badWordB x = false ∨ memberOk f = false → trapped 0x01#64 (x.setWidth 64) f.pc 0) ∧
      (badWordB x = true → f.chain = true → 1 ≤ f.run → f.run < 8 → trapped 0x01#64 (x.setWidth 64) f.head f.run)) ∧
    (∀ x, x.getLsbD 0 = false → badWordB x = false) ∧
    (∀ e, runHeld g = false → fetchWord s g f.pc = .error e → trapped (e.cause.setWidth 64) f.pc f.pc 0)

/-! ## Words that compute in their group -/

/-- 07 R159-R172: the integer words issue, write only their destinations in the active lanes, set no status bit and go on to the next word; everything else is as it was. -/
def Obligations.IntegerWordsChangeOnlyTheirDestinations : Prop :=
  (∀ w : FmtA, ∀ i, i ∈ [Instr.iadd w, .isub w, .imul w, .imulh w, .imulhu w, .imad w, .imin w, .imax w, .iminu w, .imaxu w, .shl w, .shr w, .shra w, .rotl w, .and w, .or w, .xor w,
      .andn w, .bfx w, .bfi w, .mov w, .iadd64 w, .lea w, .dp4 w, .vaddmin w] → FallsThrough i 0) ∧
  (∀ w : FmtX, ∀ i, i ∈ [Instr.iunaryNeg w, .iunaryAbs w, .iunaryNot w, .iunaryPopc w, .iunaryClz w, .iunaryCtz w, .iunaryBrev w, .iunaryBswap w, .iunarySextb w, .iunarySexth w] →
    FallsThrough i 0) ∧
  (∀ w : FmtP, ∀ i, i ∈ [Instr.icmp w, .icmpu w, .icmp64 w] → FallsThrough i 0) ∧
  (∀ w : FmtL, ∀ i, i ∈ [Instr.movi w, .movhi w] → FallsThrough i 0) ∧ (∀ w : FmtQ, FallsThrough (.sel w) 0)

/-- 07 R173-R179; 06 R150-R156; 11 R281, R283; 16 R423; 17: lane moves, scans, votes, integer reductions, identities and queries issue, write only their destinations, set no status bit and
go on; NOP and LAND write nothing. -/
def Obligations.LaneAndQueryWordsChangeOnlyTheirDestinations : Prop :=
  (∀ w : FmtX, ∀ i, i ∈ [Instr.voteAny w, .voteAll w, .voteBallot w, .voteCount w, .voteFirst w, .voteUniq w, .gredAdd w, .gredMin w, .gredMax w, .gredMinu w, .gredMaxu w, .gredAnd w,
      .gredOr w, .gredXor w, .getidLane w, .getidGroup w, .getidTeamx w, .getidTeamy w, .getidTeamz w, .getidRole w, .getidVdie w, .getidNvdie w, .getidCluster w, .getidBay w,
      .getidGridx w, .getidGridy w, .getidGridz w, .cycle w, .dstkDepth w, .nop w, .memxSplitq w, .rlyPoll w, .pwrWakeq w] → FallsThrough i 0) ∧
  (∀ (w : FmtX) f k, FallsThrough (.laneShup w f k) 0 ∧ FallsThrough (.laneShdn w f k) 0 ∧ FallsThrough (.laneXor w k) 0) ∧
  (∀ (w : FmtX) e, FallsThrough (.gscanAdd w e) 0 ∧ FallsThrough (.gscanMin w e) 0 ∧ FallsThrough (.gscanMax w e) 0) ∧
  (∀ (w : FmtX) k, FallsThrough (.memxCntq w k) 0) ∧ (∀ (w : FmtX) k, FallsThrough (.pwrIslq w k) 0) ∧
  (∀ w : FmtA, FallsThrough (.laneidx w) 0 ∧ FallsThrough (.bcast w) 0 ∧ FallsThrough (.vdhop w) 0) ∧ (∀ w : FmtL, FallsThrough (.land w) 0)

/-- 08 R185-R198, 09 R212-R218, 07 R175: the floating-point and narrow-format words issue, write only their destinations in the active lanes, set at most the five sticky flags and clear
none, and go on to the next word. -/
def Obligations.FloatWordsChangeOnlyTheirDestinationsAndFlags : Prop :=
  (∀ w : FmtA, ∀ i, i ∈ [Instr.fadd w, .fsub w, .fmul w, .ffma w, .fmin w, .fmax w, .fscale w, .hadd2 w, .hmul2 w, .hfma2 w, .badd2 w, .bmul2 w, .bfma2 w, .famax w, .cvtn w, .qscale w] →
    FallsThrough i 0x1F#64) ∧
  (∀ w : FmtX, ∀ i, i ∈ [Instr.funaryNeg w, .funaryAbs w, .funaryRcp w, .funaryRsq w, .funarySqrt w, .funaryExp2 w, .funaryLog2 w, .funarySinpi w, .funaryCospi w, .funaryFloor w,
      .funaryCeil w, .funaryTrunc w, .funaryRndne w, .funaryFract w, .gredFadd w, .gredFmin w, .gredFmax w] → FallsThrough i 0x1F#64) ∧
  (∀ (w : FmtX) t q m, FallsThrough (.cvt w t q m) 0x1F#64) ∧ (∀ w : FmtP, FallsThrough (.fcmp w) 0x1F#64) ∧ (∀ w : FmtA, FallsThrough (.cbdec w) 0)

/-! ## What they compute -/

/-- 07 R163, R164 (Table 7.1): the two-source integer words. The operation is the exact one on integers, truncated to 32 bits; a shift by 32 or more, a minimum and a high half are as
the table says. -/
def Obligations.TwoSourceIntegerResults : Prop :=
  ∀ w : FmtA,
    GivesTwo (.iadd w) w (fun a b => BitVec.ofInt 32 (a.toInt + b.toInt)) ∧
    GivesTwo (.isub w) w (fun a b => BitVec.ofInt 32 (a.toInt - b.toInt)) ∧
    GivesTwo (.imul w) w (fun a b => BitVec.ofInt 32 (a.toInt * b.toInt)) ∧
    GivesTwo (.imulh w) w (fun a b => BitVec.ofInt 32 (a.toInt * b.toInt / 2 ^ 32)) ∧
    GivesTwo (.imulhu w) w (fun a b => BitVec.ofNat 32 (a.toNat * b.toNat / 2 ^ 32)) ∧
    GivesTwo (.imin w) w (fun a b => BitVec.ofInt 32 (min a.toInt b.toInt)) ∧
    GivesTwo (.imax w) w (fun a b => BitVec.ofInt 32 (max a.toInt b.toInt)) ∧
    GivesTwo (.iminu w) w (fun a b => BitVec.ofNat 32 (min a.toNat b.toNat)) ∧
    GivesTwo (.imaxu w) w (fun a b => BitVec.ofNat 32 (max a.toNat b.toNat)) ∧
    GivesTwo (.and w) w (fun a b => a &&& b) ∧ GivesTwo (.or w) w (fun a b => a ||| b) ∧
    GivesTwo (.xor w) w (fun a b => a ^^^ b) ∧ GivesTwo (.andn w) w (fun a b => a &&& ~~~b) ∧
    GivesTwo (.shl w) w (fun a b => BitVec.ofNat 32 (a.toNat * 2 ^ b.toNat)) ∧
    GivesTwo (.shr w) w (fun a b => BitVec.ofNat 32 (a.toNat / 2 ^ b.toNat)) ∧
    GivesTwo (.shra w) w (fun a b => BitVec.ofInt 32 (a.toInt / 2 ^ b.toNat)) ∧
    GivesTwo (.rotl w) w (fun a b => BitVec.ofNat 32 (a.toNat * 2 ^ (b.toNat % 32) + a.toNat / 2 ^ (32 - b.toNat % 32)))

/-- 07 R165-R170, R172 (Tables 7.2, 7.3): bit fields, bit and byte order, the words that accumulate into d, the one-source functions, constants, moves, 64-bit addresses and the select. -/
def Obligations.OtherIntegerResults : Prop :=
  (∀ w : FmtA,
    Gives (.imad w) w.u w.n w.d 1 (fun c l => (BitVec.ofInt 32 ((op32 c w.a l).toInt * (srcB32 c w.x w.b l).toInt + (op32 c w.d l).toInt)).setWidth 64) ∧
    Gives (.vaddmin w) w.u w.n w.d 1 (fun c l => (BitVec.ofInt 32 (min (op32 c w.d l).toInt (op32 c w.a l + srcB32 c w.x w.b l).toInt)).setWidth 64) ∧
    GivesReg (.dp4 w) w (fun a b d =>
      let v := fun (x : Word) (i : Nat) => if w.x then ((x.toNat / 2 ^ (8 * i) % 256 : Nat) : Int) else (BitVec.ofNat 8 (x.toNat / 2 ^ (8 * i))).toInt
      BitVec.ofInt 32 (d.toInt + v a 0 * v b 0 + v a 1 * v b 1 + v a 2 * v b 2 + v a 3 * v b 3)) ∧
    GivesReg (.bfx w) w (fun a b _ =>
      let pos := b.toNat % 32
      let ew := min (b.toNat / 256 % 64) (32 - pos)
      let x := a.toNat / 2 ^ pos % 2 ^ ew
      if w.x && decide (0 < ew) && decide (2 ^ (ew - 1) ≤ x) then BitVec.ofInt 32 ((x : Int) - 2 ^ ew) else BitVec.ofNat 32 x) ∧
    GivesReg (.bfi w) w (fun a b d =>
      let pos := b.toNat % 32
      let ew := min (b.toNat / 256 % 64) (32 - pos)
      BitVec.ofNat 32 (d.toNat % 2 ^ pos + a.toNat % 2 ^ ew * 2 ^ pos + d.toNat / 2 ^ (pos + ew) * 2 ^ (pos + ew))) ∧
    (w.x = false → GivesTwo (.mov w) w (fun a _ => a)) ∧
    (w.x = true → Gives (.mov w) w.u w.n w.d 2 (fun c l => op64 c w.a l)) ∧
    Gives (.iadd64 w) w.u w.n w.d 2 (fun c l => op64 c w.a l + srcB64 c w.x w.b l) ∧
    Gives (.lea w) w.u w.n w.d 2 (fun c l => BitVec.ofInt 64 ((op64 c w.a l).toInt + (op32 c w.b l).toInt * (if w.x then 4 else 1)))) ∧
  (∀ w : FmtX,
    GivesX (.iunaryNeg w) w (fun a => 0#32 - a) ∧ GivesX (.iunaryAbs w) w (fun a => BitVec.ofNat 32 a.toInt.natAbs) ∧ GivesX (.iunaryNot w) w (fun a => ~~~a) ∧
    GivesX (.iunaryPopc w) w (fun a => BitVec.ofNat 32 ((List.range 32).countP (fun i => a.getLsbD i))) ∧
    GivesX (.iunaryClz w) w (fun a => BitVec.ofNat 32 (if a = 0#32 then 32 else 31 - Nat.log2 a.toNat)) ∧
    GivesX (.iunarySextb w) w (fun a => (a.setWidth 8).signExtend 32) ∧ GivesX (.iunarySexth w) w (fun a => (a.setWidth 16).signExtend 32)) ∧
  (∀ w : FmtL,
    Gives (.movi w) w.u false w.d 1 (fun _ _ => if w.u then w.imm.signExtend 64 else (w.imm.signExtend 32).setWidth 64) ∧
    Gives (.movhi w) w.u false w.d 1 (fun c l =>
      let old := if w.u then (op64 c w.d l).toNat else (op32 c w.d l).toNat
      BitVec.ofNat 64 (old % 2 ^ 16 + w.imm.toNat * 2 ^ 16 + old / 2 ^ 32 * 2 ^ 32))) ∧
  (∀ w : FmtQ, Gives (.sel w) false false w.d 1 (fun c l => (if (pget c.g w.ps.toNat).getLsbD l = w.n then op32 c w.b l else op32 c w.a l).setWidth 64)) ∧
  (∀ w : FmtX,
    (∃ f : Word → Word, GivesX (.iunaryBrev w) w f ∧ ∀ a i, i < 32 → (f a).getLsbD i = a.getLsbD (31 - i)) ∧
    (∃ f : Word → Word, GivesX (.iunaryBswap w) w f ∧ ∀ a i, i < 4 → (f a).extractLsb' (8 * i) 8 = a.extractLsb' (8 * (3 - i)) 8) ∧
    (∃ f : Word → Word, GivesX (.iunaryCtz w) w f ∧ f 0#32 = 32#32 ∧ ∀ a, a ≠ 0#32 → (f a).toNat < 32 ∧ a.getLsbD (f a).toNat = true ∧ ∀ j, j < (f a).toNat → a.getLsbD j = false))

/-- 07 R171 (Table 7.4), 04 R80, R97: the compares write the condition's outcome of each active lane to the predicate, the leader's with U = 1, and push nothing. -/
def Obligations.CompareResults : Prop :=
  ∀ w : FmtP,
    GivesBit (.icmp w) w.u w.pd (fun c l =>
      let a := op32 c w.a l
      let b := srcB32 c w.x w.b l
      match w.cond.toNat with
      | 0 => decide (a = b) | 1 => decide (a ≠ b) | 2 => decide (a.toInt < b.toInt) | 3 => decide (a.toInt ≤ b.toInt)
      | 4 => decide (b.toInt < a.toInt) | 5 => decide (b.toInt ≤ a.toInt) | 6 => decide (a &&& b ≠ 0#32) | _ => decide (a &&& b = 0#32)) ∧
    GivesBit (.icmpu w) w.u w.pd (fun c l =>
      let a := op32 c w.a l
      let b := srcB32 c w.x w.b l
      match w.cond.toNat with
      | 0 => decide (a = b) | 1 => decide (a ≠ b) | 2 => decide (a.toNat < b.toNat) | 3 => decide (a.toNat ≤ b.toNat)
      | 4 => decide (b.toNat < a.toNat) | 5 => decide (b.toNat ≤ a.toNat) | 6 => decide (a &&& b ≠ 0#32) | _ => decide (a &&& b = 0#32)) ∧
    GivesBit (.icmp64 w) w.u w.pd (fun c l =>
      let a := op64 c w.a l
      let b := srcB64 c w.x w.b l
      match w.cond.toNat with
      | 0 => decide (a = b) | 1 => decide (a ≠ b) | 2 => decide (a.toInt < b.toInt) | 3 => decide (a.toInt ≤ b.toInt)
      | 4 => decide (b.toInt < a.toInt) | 5 => decide (b.toInt ≤ a.toInt) | 6 => decide (a &&& b ≠ 0#64) | 7 => decide (a &&& b = 0#64)
      | 8 => decide (a.toNat < b.toNat) | 9 => decide (a.toNat ≤ b.toNat) | 10 => decide (b.toNat < a.toNat) | _ => decide (b.toNat ≤ a.toNat))

/-- 07 R173, R174, R176: lane moves take a lane of the fragment's own active lanes or the fill; scans run over the active lanes below. Choices of the model in it: log 56. -/
def Obligations.LaneMoveAndScanResults : Prop :=
  (∀ (w : FmtX) (f : BitVec 1) (k : BitVec 5),
    Gives (.laneShup w f k) false w.n w.d 1 (fun c l =>
      (if k.toNat ≤ l ∧ c.f.mask.getLsbD (l - k.toNat) = true then op32 c w.a (l - k.toNat) else if f = 1#1 then op32 c w.a l else 0#32).setWidth 64) ∧
    Gives (.laneShdn w f k) false w.n w.d 1 (fun c l =>
      (if l + k.toNat < 32 ∧ c.f.mask.getLsbD (l + k.toNat) = true then op32 c w.a (l + k.toNat) else if f = 1#1 then op32 c w.a l else 0#32).setWidth 64) ∧
    Gives (.laneXor w k) false w.n w.d 1 (fun c l => (if c.f.mask.getLsbD (l ^^^ k.toNat) = true then op32 c w.a (l ^^^ k.toNat) else op32 c w.a l).setWidth 64)) ∧
  (∀ w : FmtA, Gives (.laneidx w) false w.n w.d 1 (fun c l =>
      let j := (op32 c w.b l).toNat % 32
      (if c.f.mask.getLsbD j = true then op32 c w.a j else if w.x then op32 c w.a l else 0#32).setWidth 64)) ∧
  (∀ w : FmtA, Gives (.bcast w) false w.n w.d 1 (fun c _ =>
      let j := if w.x then w.b.toNat else (op32 c w.b (leader c.f.mask)).toNat % 32
      (if c.f.mask.getLsbD j = true then op32 c w.a j else 0#32).setWidth 64)) ∧
  (∀ (w : FmtX) (e : BitVec 1),
    let below := fun (c : Ctx) (l : Nat) => (List.range 32).filter (fun j => c.f.mask.getLsbD j && (decide (j < l) || (e == 0#1 && j == l)))
    Gives (.gscanAdd w e) false w.n w.d 1 (fun c l => (((below c l).map (fun j => op32 c w.a j)).foldl (fun p q => p + q) 0#32).setWidth 64) ∧
    Gives (.gscanMin w e) false w.n w.d 1 (fun c l => (BitVec.ofInt 32 (((below c l).map (fun j => (op32 c w.a j).toInt)).foldl min (2 ^ 31 - 1))).setWidth 64) ∧
    Gives (.gscanMax w e) false w.n w.d 1 (fun c l => (BitVec.ofInt 32 (((below c l).map (fun j => (op32 c w.a j).toInt)).foldl max (-(2 ^ 31)))).setWidth 64))

/-- 06 R153 (Table 6.6), 07 R175 (Table 7.6): votes and integer reductions are one value of the active lanes, whatever the order of combination. -/
def Obligations.VoteAndReductionResults : Prop :=
  ∀ w : FmtX,
    let on := fun (c : Ctx) => (List.range 32).filter (fun l => c.f.mask.getLsbD l)
    let set := fun (c : Ctx) => (on c).filter (fun l => decide (op32 c w.a l ≠ 0#32))
    let sum := fun (ls : List Nat) => ls.foldl (fun (m : Nat) l => m + 2 ^ l) 0
    GivesOne (.voteAny w) w.n w.d (fun c => if (set c).isEmpty then 0#64 else 1#64) ∧
    GivesOne (.voteAll w) w.n w.d (fun c => if (on c).all (fun l => decide (op32 c w.a l ≠ 0#32)) then 1#64 else 0#64) ∧
    GivesOne (.voteBallot w) w.n w.d (fun c => BitVec.ofNat 64 (sum (set c))) ∧
    GivesOne (.voteCount w) w.n w.d (fun c => BitVec.ofNat 64 (set c).length) ∧
    GivesOne (.voteFirst w) w.n w.d (fun c => BitVec.ofNat 64 ((set c).headD 32)) ∧
    GivesOne (.voteUniq w) w.n w.d (fun c => BitVec.ofNat 64 (sum ((on c).filter (fun l => (on c).all (fun j => decide (l ≤ j ∨ op32 c w.a j ≠ op32 c w.a l)))))) ∧
    GivesActive (.gredAdd w) w.n w.d (fun c => (((on c).map (fun l => op32 c w.a l)).foldl (fun p q => p + q) 0#32).setWidth 64) ∧
    GivesActive (.gredAnd w) w.n w.d (fun c => (((on c).map (fun l => op32 c w.a l)).foldl (fun p q => p &&& q) 0xFFFFFFFF#32).setWidth 64) ∧
    GivesActive (.gredOr w) w.n w.d (fun c => (((on c).map (fun l => op32 c w.a l)).foldl (fun p q => p ||| q) 0#32).setWidth 64) ∧
    GivesActive (.gredXor w) w.n w.d (fun c => (((on c).map (fun l => op32 c w.a l)).foldl (fun p q => p ^^^ q) 0#32).setWidth 64) ∧
    GivesActive (.gredMin w) w.n w.d (fun c => (BitVec.ofInt 32 (((on c).map (fun l => (op32 c w.a l).toInt)).foldl min (2 ^ 31 - 1))).setWidth 64) ∧
    GivesActive (.gredMax w) w.n w.d (fun c => (BitVec.ofInt 32 (((on c).map (fun l => (op32 c w.a l).toInt)).foldl max (-(2 ^ 31)))).setWidth 64) ∧
    GivesActive (.gredMinu w) w.n w.d (fun c => BitVec.ofNat 64 (((on c).map (fun l => (op32 c w.a l).toNat)).foldl min (2 ^ 32 - 1))) ∧
    GivesActive (.gredMaxu w) w.n w.d (fun c => BitVec.ofNat 64 (((on c).map (fun l => (op32 c w.a l).toNat)).foldl max 0))

/-- The order of minimumNumber: the codes by sign and magnitude, -0 below +0 (08 R190). -/
def order32 (v : Word) : Int := if v.toNat < 2 ^ 31 then v.toNat else 2 ^ 31 - 1 - (v.toNat : Int)

/-- 08 R182-R186, R188, R189, R191, R195; 07 R175: FADD, FSUB, FMUL and FFMA deliver the exact result rounded once, to nearest with ties to even or, with x = 1, in the direction of GCFG.FRM;
the packed words the same for each half in their 16-bit format, GRED.FADD for each combination of its tree, FSCALE for its operand times a power of two. A finite exact result is delivered as a
finite number unless it overflows (then as Table 8.4 gives), an exact zero with its sign; a NaN operand and an invalid operation give the canonical NaN, and infinite operands the infinity.
Each sets the sticky flags of Table 8.5 that its lanes, halves and combinations meet: NX, UF, OF, NV. -/
def Obligations.FloatArithmeticRoundsTheExactResult : Prop :=
  (∀ w : FmtA,
    let rounded := fun (i : Instr) (f : BitVec 2 → Word → Word → Word → Word × BitVec 5) => GivesFlags i w.u w.n w.d 1 (fun c l =>
      let r := f (if w.x then c.g.gcfg.extractLsb' 0 2 else 0#2) (op32 c w.a l) (op32 c w.b l) (op32 c w.d l)
      (r.1.setWidth 64, r.2))
    (∃ f, rounded (.fadd w) f ∧ ∀ m a b d, IsSum 8 23 m a.toNat b.toNat (f m a b d).1.toNat (f m a b d).2) ∧
    (∃ f, rounded (.fsub w) f ∧ ∀ m a b d, IsSum 8 23 m a.toNat (b ^^^ 0x80000000#32).toNat (f m a b d).1.toNat (f m a b d).2) ∧
    (∃ f, rounded (.fmul w) f ∧ ∀ m a b d, IsProduct 8 23 m a.toNat b.toNat (f m a b d).1.toNat (f m a b d).2) ∧
    (∃ f, rounded (.ffma w) f ∧ ∀ m a b d, IsFused 8 23 m a.toNat b.toNat d.toNat (f m a b d).1.toNat (f m a b d).2) ∧
    (∃ f, GivesFloats (.hadd2 w) w f ∧ ∀ a b d, BothHalves a b d (f a b d).1 (f a b d).2 (fun a b _ r fl => IsSum 5 10 0#2 a b r fl)) ∧
    (∃ f, GivesFloats (.hmul2 w) w f ∧ ∀ a b d, BothHalves a b d (f a b d).1 (f a b d).2 (fun a b _ r fl => IsProduct 5 10 0#2 a b r fl)) ∧
    (∃ f, GivesFloats (.hfma2 w) w f ∧ ∀ a b d, BothHalves a b d (f a b d).1 (f a b d).2 (fun a b d r fl => IsFused 5 10 0#2 a b d r fl)) ∧
    (∃ f, GivesFloats (.badd2 w) w f ∧ ∀ a b d, BothHalves a b d (f a b d).1 (f a b d).2 (fun a b _ r fl => IsSum 8 7 0#2 a b r fl)) ∧
    (∃ f, GivesFloats (.bmul2 w) w f ∧ ∀ a b d, BothHalves a b d (f a b d).1 (f a b d).2 (fun a b _ r fl => IsProduct 8 7 0#2 a b r fl)) ∧
    (∃ f, GivesFloats (.bfma2 w) w f ∧ ∀ a b d, BothHalves a b d (f a b d).1 (f a b d).2 (fun a b d r fl => IsFused 8 7 0#2 a b d r fl)) ∧
    (∃ f : Word → Word → Word × BitVec 5,
      GivesFlags (.fscale w) w.u w.n w.d 1 (fun c l => ((f (op32 c w.a l) (srcB32 c w.x w.b l)).1.setWidth 64, (f (op32 c w.a l) (srcB32 c w.x w.b l)).2)) ∧ ∀ a n,
      let r := (f a n).1.toNat
      (codeNan 8 23 a.toNat = true → Invalid 8 23 (codeSig 8 23 a.toNat) r (f a n).2) ∧ (codeInf 8 23 a.toNat = true → Infinite 8 23 (codeNeg 8 23 a.toNat) r (f a n).2) ∧
      ∀ p, codeVal 8 23 a.toNat = some p → Exactly 8 23 0#2 (p * (2 : Rat) ^ n.toInt) (codeNeg 8 23 a.toNat) r (f a n).2)) ∧
  (∀ w : FmtX, ∃ f, Combines (.gredFadd w) w f ∧ ∀ a b, IsSum 8 23 0#2 a.toNat b.toNat (f a b).1.toNat (f a b).2)

/-- 08 R190, R192 (Table 8.6); 07 R175: FMIN, FMAX and FAMAX deliver one of their operands, the lesser or the greater with -0 below +0, the number when one is a NaN, the canonical NaN when both
are, and GRED.FMIN and GRED.FMAX combine their lanes so; they set NV for a signalling NaN and no other flag. FCMP takes the zeros as equal; it sets NV for a signalling NaN and, under a
signalling condition, for unordered operands. -/
def Obligations.FloatOrderResults : Prop :=
  (∃ lesser greater : Word → Word → Word × BitVec 5,
    (∀ w : FmtA, GivesFloats (.fmin w) w (fun a b _ => lesser a b) ∧ GivesFloats (.fmax w) w (fun a b _ => greater a b) ∧
      GivesFloats (.famax w) w (fun a _ d => greater d (a &&& 0x7FFFFFFF#32))) ∧
    (∀ w : FmtX, Combines (.gredFmin w) w lesser ∧ Combines (.gredFmax w) w greater) ∧
    (∀ f, f = lesser ∨ f = greater → ∀ a b,
      let nan := fun (x : Word) => codeNan 8 23 x.toNat
      (f a b).2 = (if codeSig 8 23 a.toNat || codeSig 8 23 b.toNat then 0x10#5 else 0#5) ∧ (nan a = true → nan b = true → (f a b).1 = 0x7FC00000#32) ∧
      (nan a = true → nan b = false → (f a b).1 = b) ∧ (nan a = false → nan b = true → (f a b).1 = a) ∧ (nan a = false → nan b = false → (f a b).1 = a ∨ (f a b).1 = b)) ∧
    (∀ a b, codeNan 8 23 a.toNat = false → codeNan 8 23 b.toNat = false →
      order32 (lesser a b).1 ≤ order32 a ∧ order32 (lesser a b).1 ≤ order32 b ∧ order32 a ≤ order32 (greater a b).1 ∧ order32 b ≤ order32 (greater a b).1)) ∧
  (∀ w : FmtP, ∃ f : Word → Word → Bool × BitVec 5, GivesBit (.fcmp w) w.u w.pd (fun c l => (f (op32 c w.a l) (op32 c w.b l)).1) ∧
    SetsFlags (.fcmp w) w.u (fun c l => (f (op32 c w.a l) (op32 c w.b l)).2) ∧ ∀ a b,
    let unordered := codeNan 8 23 a.toNat || codeNan 8 23 b.toNat
    (f a b).2 = (if codeSig 8 23 a.toNat || codeSig 8 23 b.toNat || (unordered && decide (w.cond.toNat ∈ [2, 3, 4, 5])) then 0x10#5 else 0#5) ∧
    (unordered = true → (f a b).1 = decide (w.cond.toNat ∈ [1, 6, 8, 9, 10, 11])) ∧
    (∀ p q, codeVal 8 23 a.toNat = some p → codeVal 8 23 b.toNat = some q → w.cond.toNat < 12 →
      (f a b).1 = (match w.cond.toNat with
        | 0 => decide (p = q) | 1 => decide (p ≠ q) | 2 => decide (p < q) | 3 => decide (p ≤ q) | 4 => decide (q < p) | 5 => decide (q ≤ p)
        | 6 => false | 7 => true | 8 => decide (p < q) | 9 => decide (p ≤ q) | 10 => decide (q < p) | _ => decide (q ≤ p))))

/-- A word of one FP32 operand: what it delivers for a NaN is the canonical NaN, with NV for a signalling one, and of any other value v holds (08 R194, Table 8.8). -/
def OneOperand (i : Instr) (w : FmtX) (v : Nat → Nat → BitVec 5 → Prop) : Prop :=
  ∃ f, GivesFloat i w f ∧ ∀ a, (codeNan 8 23 a.toNat = true → Invalid 8 23 (codeSig 8 23 a.toNat) (f a).1.toNat (f a).2) ∧
    (codeNan 8 23 a.toNat = false → v a.toNat (f a).1.toNat (f a).2)

/-- r and fl round a to an integer: n holds of its value and the integer; the sign is a's, infinities stay, no flag is set (08 R194). -/
def ToInteger (n : Rat → Int → Prop) (a r : Nat) (fl : BitVec 5) : Prop :=
  fl = 0#5 ∧ codeNeg 8 23 r = codeNeg 8 23 a ∧ (codeInf 8 23 a = true → r = a) ∧ ∀ p, codeVal 8 23 a = some p → ∃ k : Int, codeVal 8 23 r = some (k : Rat) ∧ n p k

/-- The integer k is p rounded in direction m (08 R182). -/
def IntRound (m : BitVec 2) (p : Rat) (k : Int) : Prop :=
  match m.toNat with
  | 0 => |(k : Rat) - p| ≤ 1 / 2 ∧ (|(k : Rat) - p| = 1 / 2 → k % 2 = 0)
  | 1 => k = if 0 ≤ p then p.floor else p.ceil
  | 2 => k = p.floor
  | _ => k = p.ceil

/-- The exponent and fraction widths of a floating type of CVT, and the signedness and width of an integer type (05 Table 5.5). -/
def floatType (t : BitVec 3) : Nat × Nat := if t = 1#3 then (5, 10) else if t = 2#3 then (8, 7) else (8, 23)
def intType (t : BitVec 3) : Bool × Nat := (t = 3#3 ∨ t = 5#3, if t.toNat < 5 then 32 else 64)

/-- 08 R193, R194, R196-R198 (Tables 8.7, 8.8, 8.10): NEG and ABS; FLOOR, CEIL, TRUNC and RNDNE; FRACT, SQRT correctly rounded; RCP and RSQ within one ulp; of EXP2, LOG2, SINPI and COSPI the
special inputs (their bound for other inputs is not stated here); CVT between all its types. 09 R212-R215: CVTN, and QSCALE under both its rules. Each with its flags. Choices of the model in it: logs 37
and 55 (UF of an approximate function is judged on the exact result, and one that overflows delivers infinity). -/
def Obligations.FloatToIntegerAndSignResults : Prop :=
  (∀ w : FmtX,
    (∃ f, GivesFloat (.funaryNeg w) w f ∧ ∀ a, f a = (if codeNan 8 23 a.toNat then 0x7FC00000#32 else a ^^^ 0x80000000#32, 0#5)) ∧
    (∃ f, GivesFloat (.funaryAbs w) w f ∧ ∀ a, f a = (if codeNan 8 23 a.toNat then 0x7FC00000#32 else a &&& 0x7FFFFFFF#32, 0#5)) ∧
    OneOperand (.funaryFloor w) w (ToInteger (IntRound 2#2)) ∧ OneOperand (.funaryCeil w) w (ToInteger (IntRound 3#2)) ∧
    OneOperand (.funaryTrunc w) w (ToInteger (IntRound 1#2)) ∧ OneOperand (.funaryRndne w) w (ToInteger (IntRound 0#2)) ∧
    OneOperand (.funaryFract w) w (fun a r fl => (codeInf 8 23 a = true → Invalid 8 23 true r fl) ∧ ∀ p, codeVal 8 23 a = some p →
      (p = p.floor → r = 0 ∧ fl = 0#5) ∧ (p ≠ p.floor → (∃ k, RoundsTo 8 23 0#2 (p - p.floor) k ∧ r = min k 0x3F7FFFFF) ∧ Flagged 8 23 0#2 (p - p.floor) r fl)) ∧
    OneOperand (.funarySqrt w) w (fun a r fl => (codeInf 8 23 a = true → if codeNeg 8 23 a then Invalid 8 23 true r fl else r = a ∧ fl = 0#5) ∧ ∀ p, codeVal 8 23 a = some p →
      (p = 0 → r = a ∧ fl = 0#5) ∧ (p < 0 → Invalid 8 23 true r fl) ∧
      (0 < p → ∃ q, codeVal 8 23 r = some q ∧ 0 < q ∧ (fl = if q * q = p then 0#5 else 1#5) ∧ ∀ k x, codeVal 8 23 k = some x → 0 ≤ x →
        (x < q → ((x + q) / 2) ^ 2 ≤ p) ∧ (q < x → p ≤ ((q + x) / 2) ^ 2))) ∧
    OneOperand (.funaryRcp w) w (fun a r fl => (codeInf 8 23 a = true → r = zeroCode 8 23 (codeNeg 8 23 a) ∧ fl = 0#5) ∧ ∀ p, codeVal 8 23 a = some p →
      (p = 0 → r = infCode 8 23 (codeNeg 8 23 a) ∧ fl = 0x08#5) ∧
      (p ≠ 0 → Overflows 8 23 0#2 (1 / p) → r = infCode 8 23 (codeNeg 8 23 a) ∧ fl = 0x05#5) ∧
      (p ≠ 0 → ¬ Overflows 8 23 0#2 (1 / p) → ∃ q, codeVal 8 23 r = some q ∧ Flagged 8 23 0#2 (1 / p) r fl ∧ ((∃ n : Int, |p| = (2 : Rat) ^ n) → q = 1 / p) ∧
        ∀ e : Int, (2 : Rat) ^ e ≤ |1 / p| → |1 / p| < (2 : Rat) ^ (e + 1) → |q - 1 / p| ≤ (2 : Rat) ^ (max e (-126) - 23))) ∧
    OneOperand (.funaryRsq w) w (fun a r fl => (codeInf 8 23 a = true → if codeNeg 8 23 a then Invalid 8 23 true r fl else r = 0 ∧ fl = 0#5) ∧ ∀ p, codeVal 8 23 a = some p →
      (p = 0 → r = infCode 8 23 (codeNeg 8 23 a) ∧ fl = 0x08#5) ∧ (p < 0 → Invalid 8 23 true r fl) ∧
      (0 < p → ∃ q, codeVal 8 23 r = some q ∧ 0 < q ∧ (fl = if q * q * p = 1 then 0#5 else 1#5) ∧ ∀ e : Int, ((2 : Rat) ^ e) ^ 2 * p ≤ 1 → 1 < ((2 : Rat) ^ (e + 1)) ^ 2 * p →
        (q - (2 : Rat) ^ (e - 23)) ^ 2 * p ≤ 1 ∧ 1 ≤ (q + (2 : Rat) ^ (e - 23)) ^ 2 * p)) ∧
    OneOperand (.funaryExp2 w) w (fun a r fl => (codeInf 8 23 a = true → r = (if codeNeg 8 23 a then 0 else a) ∧ fl = 0#5) ∧ ∀ p, codeVal 8 23 a = some p →
      (∀ n : Int, p = n → -149 ≤ n → n ≤ 127 → codeVal 8 23 r = some ((2 : Rat) ^ n) ∧ fl = 0#5) ∧ (128 ≤ p → r = 0x7F800000 ∧ fl = 0x05#5) ∧ (p ≤ -150 → r = 0 ∧ fl = 0x03#5)) ∧
    OneOperand (.funaryLog2 w) w (fun a r fl => (codeInf 8 23 a = true → if codeNeg 8 23 a then Invalid 8 23 true r fl else r = a ∧ fl = 0#5) ∧ ∀ p, codeVal 8 23 a = some p →
      (p = 0 → r = 0xFF800000 ∧ fl = 0x08#5) ∧ (p < 0 → Invalid 8 23 true r fl) ∧ ∀ n : Int, p = (2 : Rat) ^ n → codeVal 8 23 r = some (n : Rat) ∧ fl = 0#5 ∧ (n = 0 → r = 0)) ∧
    OneOperand (.funarySinpi w) w (fun a r fl => (codeInf 8 23 a = true → Invalid 8 23 true r fl) ∧ ∀ p, codeVal 8 23 a = some p → ∀ n : Int,
      (p = n → r = zeroCode 8 23 (codeNeg 8 23 a) ∧ fl = 0#5) ∧ (p = n + 1 / 2 → codeVal 8 23 r = some (if n % 2 = 0 then 1 else -1) ∧ fl = 0#5)) ∧
    OneOperand (.funaryCospi w) w (fun a r fl => (codeInf 8 23 a = true → Invalid 8 23 true r fl) ∧ ∀ p, codeVal 8 23 a = some p → ∀ n : Int,
      (p = n → codeVal 8 23 r = some (if n % 2 = 0 then 1 else -1) ∧ fl = 0#5) ∧ (p = n + 1 / 2 → r = 0 ∧ fl = 0#5)) ∧
    (∀ t s m, legal (.cvt w t s m) = true → ∃ f : DWord → DWord × BitVec 5,
      GivesFlags (.cvt w t s m) w.u w.n w.d (if 5 ≤ t.toNat then 2 else 1) (fun c l => f (if 5 ≤ s.toNat then op64 c w.a l else (op32 c w.a l).setWidth 64)) ∧ ∀ x,
      let ew := (floatType s).1
      let fw := (floatType s).2
      let a := x.toNat % 2 ^ (ew + fw + 1)
      let int : Int := if (intType s).1 then (x.setWidth (intType s).2).toInt else ((x.setWidth (intType s).2).toNat : Int)
      let r := (f x).1.toNat
      let wide := (intType t).2
      let lo : Int := if (intType t).1 then -(2 ^ (wide - 1)) else 0
      let hi : Int := if (intType t).1 then 2 ^ (wide - 1) - 1 else 2 ^ wide - 1
      let put := fun (n : Int) => (n % 2 ^ wide).toNat
      (t.toNat < 3 → s.toNat < 3 →
        (codeNan ew fw a = true → Invalid (floatType t).1 (floatType t).2 (codeSig ew fw a) r (f x).2) ∧
        (codeInf ew fw a = true → Infinite (floatType t).1 (floatType t).2 (codeNeg ew fw a) r (f x).2) ∧
        ∀ p, codeVal ew fw a = some p → Exactly (floatType t).1 (floatType t).2 m p (codeNeg ew fw a) r (f x).2) ∧
      (t.toNat < 3 → 3 ≤ s.toNat → Exactly (floatType t).1 (floatType t).2 m (int : Rat) false r (f x).2) ∧
      (3 ≤ t.toNat → s.toNat < 3 →
        (codeNan ew fw a = true → r = 0 ∧ (f x).2 = 0x10#5) ∧ (codeInf ew fw a = true → r = put (if codeNeg ew fw a then lo else hi) ∧ (f x).2 = 0x10#5) ∧
        ∀ p k, codeVal ew fw a = some p → IntRound m p k → r = put (max lo (min hi k)) ∧
          (f x).2 = if k < lo ∨ hi < k then 0x10#5 else if p = k then 0#5 else 1#5))) ∧
  (∀ w : FmtA,
    (∃ f : DWord → Word → Word → Word × BitVec 5,
      GivesFlags (.cvtn w) w.u w.n w.d 1 (fun c l => ((f (op64 c w.a l) (op32 c w.b l) (op32 c w.d l)).1.setWidth 64, (f (op64 c w.a l) (op32 c w.b l) (op32 c w.d l)).2)) ∧ ∀ p ctl d, ∃ q0 q1 f0 f1,
      let is := fun (rnd v q : Nat) (fl : BitVec 5) =>
        if ctl.getLsbD 1 then IsNarrow 1 1 4 0x7 0x0 none (ctl.getLsbD 4) rnd w.x v q fl
        else if ctl.getLsbD 0 then IsNarrow 2 15 8 0x7B 0x7E (some 0x7C) (ctl.getLsbD 4) rnd w.x v q fl
        else IsNarrow 3 7 8 0x7E 0x7F none (ctl.getLsbD 4) rnd w.x v q fl
      let n := if ctl.getLsbD 1 then 4 else 8
      let pos := if ctl.getLsbD 1 then 8 * (ctl.toNat / 4 % 4) else 16 * (ctl.toNat / 4 % 2)
      is (ctl.toNat / 2 ^ 8 % 2 ^ 12) (p.toNat % 2 ^ 32) q0 f0 ∧ is (ctl.toNat / 2 ^ 20) (p.toNat / 2 ^ 32) q1 f1 ∧ (f p ctl d).2 = f0 ||| f1 ∧
      ∀ j, j < 32 → (f p ctl d).1.getLsbD j =
        (if j < pos then d.getLsbD j else if j < pos + n then q0.testBit (j - pos) else if j < pos + 2 * n then q1.testBit (j - pos - n) else d.getLsbD j)) ∧
    (∃ f : Word → Word × BitVec 5, GivesFlags (.qscale w) w.u w.n w.d 1 (fun c l => ((f (op32 c w.a l)).1.setWidth 64, (f (op32 c w.a l)).2)) ∧ ∀ a,
      (f a).2 = (if codeSig 8 23 a.toNat then 0x10#5 else 0#5) ∧ (codeVal 8 23 a.toNat = none → (f a).1 = 0xFF#32) ∧ (codeVal 8 23 a.toNat = some 0 → (f a).1 = 0x7F#32) ∧
      (∀ p, codeVal 8 23 a.toNat = some p → p ≠ 0 → ∃ e : Int, (f a).1 = BitVec.ofInt 32 (max (-127) (min 127 e) + 127) ∧
        (w.x = false → (2 : Rat) ^ (e + (if w.b.toNat = 2 then 8 else if w.b.toNat = 3 then 15 else 2)) ≤ |p| ∧
          |p| < (2 : Rat) ^ (e + (if w.b.toNat = 2 then 8 else if w.b.toNat = 3 then 15 else 2) + 1)) ∧
        (w.x = true →
          let most : Rat := if w.b.toNat = 2 then 448 else if w.b.toNat = 3 then 57344 else 6
          most * (2 : Rat) ^ (e - 1) < |p| ∧ |p| ≤ most * (2 : Rat) ^ e))))

/-- 07 R177-R179, 06 R156, 11 R281, R283, 16 R424: what the identity and query words deliver; VDHOP with the dies of its virtual device numbered 0 to 7, as they always are.
Choices of the model in it: log 78, the field whose cycles CYCLE counts on the SMC core. -/
def Obligations.IdentityAndQueryResults : Prop :=
  (∀ w : FmtX,
    let one := fun (i : Instr) (v : Ctx → Nat) => Gives i false w.n w.d 1 (fun c _ => BitVec.ofNat 64 (v c))
    let team := fun (i : Instr) (v : Team → Nat) => ∀ s c tm, findTeam s c.g.team = some tm → Issues i s c → ∃ t h, exec i s = .next t ∧ findGroup t c.g.gid = some h ∧
      Delivers c h false w.n w.d 1 (fun _ => BitVec.ofNat 64 (v tm))
    Gives (.getidLane w) false w.n w.d 1 (fun _ l => BitVec.ofNat 64 l) ∧
    one (.getidGroup w) (fun c => c.g.num) ∧ one (.getidRole w) (fun c => c.g.role) ∧ one (.getidVdie w) (fun c => c.g.vdie) ∧ one (.getidBay w) (fun c => c.g.bay) ∧
    one (.getidCluster w) (fun c => match c.g.site with | .cluster _ n => n | _ => 0) ∧
    team (.getidTeamx w) Team.tx ∧ team (.getidTeamy w) Team.ty ∧ team (.getidTeamz w) Team.tz ∧ team (.getidGridx w) Team.gx ∧ team (.getidGridy w) Team.gy ∧ team (.getidGridz w) Team.gz ∧
    (∀ s c v, findVd s c.g.vd = some v → Issues (.getidNvdie w) s c → ∃ t h, exec (.getidNvdie w) s = .next t ∧ findGroup t c.g.gid = some h ∧
      Delivers c h false w.n w.d 1 (fun _ => BitVec.ofNat 64 v.insts.length)) ∧
    Gives (.cycle w) false w.n w.d 2 (fun c _ => BitVec.ofNat 64 (cycleOf c.s (siteDie c.g.site))) ∧
    GivesOne (.dstkDepth w) w.n w.d (fun c => BitVec.ofNat 64 (c.g.stack.length + 256 * c.g.spilled)) ∧
    GivesOne (.memxCntq w 0#4) w.n w.d (fun c => BitVec.ofNat 64 (c.g.count .g)) ∧ GivesOne (.memxCntq w 1#4) w.n w.d (fun c => BitVec.ofNat 64 (c.g.count .s)) ∧
    GivesOne (.memxCntq w 2#4) w.n w.d (fun c => BitVec.ofNat 64 (c.g.count .f)) ∧ GivesOne (.memxCntq w 3#4) w.n w.d (fun c => BitVec.ofNat 64 (c.g.count .w)) ∧
    (∀ s c tm, findTeam s c.g.team = some tm → Issues (.memxSplitq w) s c → ∃ t h, exec (.memxSplitq w) s = .next t ∧ findGroup t c.g.gid = some h ∧
      Delivers c h true w.n w.d 1 (fun _ => BitVec.ofNat 64 (tm.scratch * 2 ^ 32 + (clusterOf s c.g.site).split)))) ∧
  (∀ w : FmtA, ∀ s c v, findVd s c.g.vd = some v → (∀ i, i ∈ v.insts → i.pdie < 8) → Issues (.vdhop w) s c → ∃ t h, exec (.vdhop w) s = .next t ∧ findGroup t c.g.gid = some h ∧
    Delivers c h w.u w.n w.d 1 (fun l =>
      match v.inst (op32 c w.a l).toNat, v.inst (srcB32 c w.x w.b l).toNat with
      | some i, some j =>
        if i.failed || j.failed then 0xFFFFFFFF#64
        else BitVec.ofNat 64 (((i.pdie / 4 : Int) - (j.pdie / 4 : Int)).natAbs + ((i.pdie % 4 : Int) - (j.pdie % 4 : Int)).natAbs)
      | _, _ => 0xFFFFFFFF#64)) ∧
  (∀ (w : FmtX) (n : BitVec 3) s c x, s.fields[n.toNat]? = some x → Issues (.pwrIslq w n) s c → ∃ t h, exec (.pwrIslq w n) s = .next t ∧ findGroup t c.g.gid = some h ∧
    Delivers c h true false w.d 1 (fun _ => BitVec.ofNat 64 ((if x.pll then x.imeas.toNat else 0) * 2 ^ 32 + x.ilim.toNat)) ∧ OnlyGroup s t c.g.gid) ∧
  (∀ (w : FmtX) s c v, findVd s c.g.vd = some v → Issues (.pwrWakeq w) s c → ∃ t h, exec (.pwrWakeq w) s = .next t ∧ findGroup t c.g.gid = some h ∧ OnlyGroup s t c.g.gid ∧
    Delivers c h true false w.d 1 (fun _ => BitVec.ofNat 64 (v.wakeUs.toNat * 2 ^ 32 + v.wakeCause * 256 + v.desc.wclass * 16 +
      (match v.state with | .active => 0 | .idle => 1 | .collapsing => 2 | .dormant => 3 | .waking => 4))))

/-! ## Control flow -/

/-- 06 R144, R145, R150, R152, R154: the whole fragment moves to the target: BRA and CALL by their offset in words, RET to the address in s23; CALL leaves the next word's address in
s23; a RET to a misaligned address raises LANDING. YIELD and WINB go on to the next word; YIELD makes its fragment the youngest of the cycle after, WINB moves the window, or
raises REGBUD when the new base is not below VREGS. -/
def Obligations.JumpsMoveTheFragment : Prop :=
  (∀ (w : FmtC) s c, Issues (.bra w) s c → ∃ t h, exec (.bra w) s = .next t ∧ findGroup t c.g.gid = some h ∧ SameRegs c h ∧ Elsewhere s t c.g.gid ∧
    ∃ f, h.frags[c.fi]? = some f ∧ f.pc = c.f.pc + BitVec.ofInt 64 (4 * w.off.toInt) ∧ f.mask = c.f.mask) ∧
  (∀ (w : FmtC) s c, Issues (.call w) s c → ∃ t h, exec (.call w) s = .next t ∧ findGroup t c.g.gid = some h ∧ sget h 23 = c.f.pc + 4#64 ∧
    (∀ k, k ≠ 23 → sget h k = sget c.g k) ∧ h.v = c.g.v ∧ h.p = c.g.p ∧ h.gstat = c.g.gstat ∧ Elsewhere s t c.g.gid ∧
    ∃ f, h.frags[c.fi]? = some f ∧ f.pc = c.f.pc + BitVec.ofInt 64 (4 * w.off.toInt) ∧ f.mask = c.f.mask) ∧
  (∀ (w : FmtX) s c, Issues (.ret w) s c → (sget c.g 23).toNat % 4 = 0 → ∃ t h, exec (.ret w) s = .next t ∧ findGroup t c.g.gid = some h ∧ SameRegs c h ∧ Elsewhere s t c.g.gid ∧
    ∃ f, h.frags[c.fi]? = some f ∧ f.pc = sget c.g 23 ∧ f.mask = c.f.mask) ∧
  (∀ (w : FmtX) s c, Issues (.ret w) s c → (sget c.g 23).toNat % 4 ≠ 0 → TakesTrap (.ret w) s c 0x05#8 (sget c.g 23) c.f.mask 0#64) ∧
  (∀ (w : FmtX) s c, Issues (.yield w) s c → ∃ t h, exec (.yield w) s = .next t ∧ findGroup t c.g.gid = some h ∧ SameRegs c h ∧ Advances c h ∧ Elsewhere s t c.g.gid ∧
    ∃ f, h.frags[c.fi]? = some f ∧ f.age = c.cycle + 1) ∧
  (∀ (w : FmtL) s c, Issues (.winb w) s c → 16 * w.imm.toNat < c.g.vregs → ∃ t h, exec (.winb w) s = .next t ∧ findGroup t c.g.gid = some h ∧ SameRegs c h ∧ Advances c h ∧
    Elsewhere s t c.g.gid ∧ h.wbase = BitVec.ofNat 64 (16 * w.imm.toNat)) ∧
  (∀ (w : FmtL) s c, Issues (.winb w) s c → c.g.vregs ≤ 16 * w.imm.toNat → TakesTrap (.winb w) s c 0x0E#8 (BitVec.ofNat 64 (16 * w.imm.toNat)) c.f.mask 0#64)

/-- Every lane that was active and goes where the leader goes, or where one of at most two targets is, stands in a live fragment at its own target; with three or more targets the lanes that
do not go with the leader are parked on top of the stack to execute the word again (06 R134). -/
def GoesTo (c : Ctx) (h : Group) (t : Nat → DWord) : Prop :=
  let lead := t (leader c.f.mask)
  let on := fun (l : Nat) => l < 32 ∧ c.f.mask.getLsbD l = true
  let stands := fun (l : Nat) => ∃ f, f ∈ h.frags ∧ f.mask.getLsbD l = true ∧ f.pc = t l
  ∀ l, on l →
    (t l = lead → stands l) ∧
    (t l ≠ lead → (∀ m, on m → t m = lead ∨ t m = t l) → stands l) ∧
    (∀ m, on m → t l ≠ lead → t m ≠ lead → t m ≠ t l → ∃ e, h.stack.head? = some e ∧ e.pmask.getLsbD l = true ∧ e.ppc = c.f.pc ∧ e.pmode = .remainder)

/-- The word can send its lanes to their targets: they agree, or the issuing fragment holds every unarrived lane of the top entry, or fewer than 16 entries are resident (06 R134). -/
def CanGo (c : Ctx) (t : Nat → DWord) : Prop :=
  (∀ l, l < 32 → c.f.mask.getLsbD l = true → t l = t (leader c.f.mask)) ∨ (∃ e st, c.g.stack = e :: st ∧ c.f.mask = e.rmask &&& ~~~e.arr) ∨ c.g.stack.length < 16

/-- An address is that of a LAND word which can be fetched; a fetch that a block holds is another matter (06 R146; 12 R298). -/
def Lands (c : Ctx) (t : DWord) : Prop := t.toNat % 4 = 0 ∧ ∃ x w, fetchWord c.s c.g t = .ok x ∧ decodeWord x = .ok (.land w)

/-- The words that follow a SWITCH, cnt + 4 of them, are x 1, x 2, ..., and no block holds the fetch of one of them (04 R105). -/
def SwitchWords (c : Ctx) (w : FmtS) (x : Nat → Word) : Prop :=
  ∀ i, 1 ≤ i → i ≤ w.cnt.toNat + 4 → fetchWord c.s c.g (c.f.pc + BitVec.ofNat 64 (4 * i)) = .ok (x i) ∧ fetchStalls c.s c.g (c.f.pc + BitVec.ofNat 64 (4 * i)) = false

/-- 06 R134, R138, R142, R144, R146, R148: BRC, JMPI, CALLI and SWITCH complete and send every active lane to its target, leaving every register but CALLI's s23 alone, when their lanes agree,
split in place or find room on the stack; else they raise DIVSTACK 0. BRC with U = 1 sends all lanes where the leader's bit says; dissenting lanes set UNIV, or in strict mode raise UNIFORM. A
lane whose target is no LAND word makes JMPI and CALLI raise LANDING for all such lanes, with the lowest one's target; nothing moves. Choices of the model in it: log 76, what counts as a LAND
word, and log 77. -/
def Obligations.BranchesSendEveryLaneToItsTarget : Prop :=
  (∀ (w : FmtC) s c, Issues (.brc w) s c →
    let t := fun l => if (pget c.g w.p.toNat).getLsbD l = w.n then c.f.pc + 4#64 else c.f.pc + BitVec.ofInt 64 (4 * w.off.toInt)
    let dissent := (lanesOf c.f.mask).filter (fun l => (pget c.g w.p.toNat).getLsbD l != (pget c.g w.p.toNat).getLsbD (leader c.f.mask))
    (w.u = false → CanGo c t → ∃ t' h, exec (.brc w) s = .next t' ∧ findGroup t' c.g.gid = some h ∧ SameRegs c h ∧ Elsewhere s t' c.g.gid ∧ GoesTo c h t) ∧
    (w.u = false → ¬ CanGo c t → TakesTrap (.brc w) s c 0x03#8 0#64 c.f.mask 0#64) ∧
    (w.u = true → dissent = [] ∨ c.g.gcfg.getLsbD 2 = false → ∃ t' h f, exec (.brc w) s = .next t' ∧ findGroup t' c.g.gid = some h ∧ h.frags[c.fi]? = some f ∧ f.mask = c.f.mask ∧
      f.pc = t (leader c.f.mask) ∧ h.gstat = c.g.gstat ||| (if dissent = [] then 0#64 else 0x20#64) ∧ h.v = c.g.v ∧ h.s = c.g.s ∧ h.p = c.g.p ∧ h.stack = c.g.stack ∧ Elsewhere s t' c.g.gid) ∧
    (∀ d : Mask, w.u = true → dissent ≠ [] → c.g.gcfg.getLsbD 2 = true → (∀ l, l < 32 → d.getLsbD l = dissent.contains l) → TakesTrap (.brc w) s c 0x08#8 0#64 d 0#64)) ∧
  (∀ (w : FmtJ) i s c, i = Instr.jmpi w ∨ i = Instr.calli w → Issues i s c → c.f.mask ≠ 0#32 →
    (∀ l, l < 32 → c.f.mask.getLsbD l = true → (op64 c w.a l).toNat % 4 = 0 → fetchStalls c.s c.g (op64 c w.a l) = false) →
    ((∀ l, l < 32 → c.f.mask.getLsbD l = true → Lands c (op64 c w.a l)) → CanGo c (op64 c w.a) → ∃ t h, exec i s = .next t ∧ findGroup t c.g.gid = some h ∧
      h.v = c.g.v ∧ h.p = c.g.p ∧ h.t = c.g.t ∧ h.gstat = c.g.gstat ∧ (∀ k, k ≠ 23 ∨ i = .jmpi w → sget h k = sget c.g k) ∧ (i = .calli w → sget h 23 = c.f.pc + 4#64) ∧
      Elsewhere s t c.g.gid ∧ GoesTo c h (op64 c w.a)) ∧
    ((∀ l, l < 32 → c.f.mask.getLsbD l = true → Lands c (op64 c w.a l)) → ¬ CanGo c (op64 c w.a) → TakesTrap i s c 0x03#8 0#64 c.f.mask 0#64) ∧
    (∀ bad : Mask, bad ≠ 0#32 → (∀ l, l < 32 → (bad.getLsbD l = true ↔ c.f.mask.getLsbD l = true ∧ ¬ Lands c (op64 c w.a l))) →
      TakesTrap i s c 0x05#8 (op64 c w.a (leader bad)) bad 0#64)) ∧
  (∀ (w : FmtS) s c x, Issues (.switch w) s c → c.f.mask ≠ 0#32 → SwitchWords c w x →
    let case := fun i => (BitVec.ofNat 8 ((x (1 + i / 4)).toNat / 2 ^ (8 * (i % 4)))).signExtend 32
    let slot := fun l => ((List.range (w.cnt.toNat + 1)).find? (fun i => case i == op32 c w.a l)).getD (w.cnt.toNat + 1)
    let again := ∃ e st, c.g.stack = e :: st ∧ e.kind = .switch ∧ e.origin = c.f.pc ∧ c.f.mask = e.rmask &&& ~~~e.arr
    (again ∨ c.g.stack.length < 16 → ∃ t h, exec (.switch w) s = .next t ∧ findGroup t c.g.gid = some h ∧ SameRegs c h ∧ Elsewhere s t c.g.gid ∧
      (again → h.stack.length = c.g.stack.length) ∧
      (¬ again → h.stack.length = c.g.stack.length + 1 ∧ ∃ e, h.stack.head? = some e ∧ e.kind = .switch ∧ e.origin = c.f.pc ∧ e.rpc = some (c.f.pc + BitVec.ofNat 64 (4 * w.recon.toNat)) ∧ e.rmask = c.f.mask ∧ e.arr = 0#32) ∧
      GoesTo c h (fun l => c.f.pc + BitVec.ofInt 64 (4 * (x (3 + slot l)).toInt))) ∧
    (¬ again → 16 ≤ c.g.stack.length → TakesTrap (.switch w) s c 0x03#8 0#64 c.f.mask 0#64))

/-- Settle would pop every resident entry of a stack, when lanes m arrive at the top one: each is complete, and goes on to the next because no lane is left in it or it is implicit, or it is the
last one (06 R136). -/
def Empties : Mask → List StackEntry → Prop
  | _, [] => True
  | m, e :: st => e.arr ||| m = e.rmask ∧ (st = [] ∨ (e.rmask = 0#32 ∧ Empties 0#32 st) ∨ (e.rmask ≠ 0#32 ∧ e.kind = .implicit ∧ Empties e.rmask st))

/-- 06 R133-R138, R147, R149, R151: RECON opens an entry for the fragment's lanes and goes on, parking another fragment, or raises DIVSTACK 0. JOIN at the top entry's address, and EXIT, complete
unless Settle would pop the last resident entry while others are spilled (DIVSTACK 3). The last lanes to arrive pop the entry and go on together after the JOIN, with the parked arm
beside them; others leave their fragment. JOIN anywhere else raises DIVSTACK 1 or 2. EXIT takes the lanes out of the group, which drains when none is left. -/
def Obligations.DivergenceOpensAndCloses : Prop :=
  (∀ (w : FmtC) s c, Issues (.recon w) s c →
    (c.g.stack.length < 16 → ∃ t h e f, exec (.recon w) s = .next t ∧ findGroup t c.g.gid = some h ∧ SameRegs c h ∧ Elsewhere s t c.g.gid ∧
      h.stack.head? = some e ∧ e.kind = .recon ∧ e.rpc = some (c.f.pc + BitVec.ofInt 64 (4 * w.off.toInt)) ∧ e.rmask = c.f.mask ∧ e.arr = 0#32 ∧ e.pmode = .none ∧
      h.stack.length = c.g.stack.length + 1 ∧ h.frags = [f] ∧ f.pc = c.f.pc + 4#64 ∧ f.mask = c.f.mask ∧ (c.g.frags.length = 1 → h.stack.tail = c.g.stack) ∧
      ∀ o u st, c.g.frags.length = 2 → c.g.frags[1 - c.fi]? = some o → c.g.stack = u :: st →
        ∃ u', h.stack.tail = u' :: st ∧ u'.ppc = o.pc ∧ u'.pmask = o.mask ∧ u'.pmode = .arm ∧ u'.rmask = u.rmask ∧ u'.arr = u.arr) ∧
    (16 ≤ c.g.stack.length → TakesTrap (.recon w) s c 0x03#8 0#64 c.f.mask 0#64)) ∧
  (∀ (w : FmtX) s c, Issues (.join w) s c →
    (c.g.stack = [] → TakesTrap (.join w) s c 0x03#8 1#64 c.f.mask 0#64) ∧
    (∀ e rest, c.g.stack = e :: rest → e.rpc ≠ some c.f.pc → TakesTrap (.join w) s c 0x03#8 2#64 c.f.mask 0#64) ∧
    (∀ e rest, c.g.stack = e :: rest → e.rpc = some c.f.pc → c.g.spilled ≠ 0 → Empties c.f.mask c.g.stack → TakesTrap (.join w) s c 0x03#8 3#64 c.f.mask 0#64) ∧
    (∀ e rest, c.g.stack = e :: rest → e.rpc = some c.f.pc → c.g.spilled = 0 ∨ ¬ Empties c.f.mask c.g.stack →
      ∃ t h, exec (.join w) s = .next t ∧ findGroup t c.g.gid = some h ∧ SameRegs c h ∧ Elsewhere s t c.g.gid ∧
        (e.arr ||| c.f.mask = e.rmask → e.rmask ≠ 0#32 → e.kind ≠ .implicit → rest.head?.map StackEntry.pmode ≠ some .arm →
          ∃ f, h.stack = rest ∧ h.frags = [f] ∧ f.pc = c.f.pc + 4#64 ∧ f.mask = e.rmask) ∧
        (∀ u r, e.arr ||| c.f.mask = e.rmask → e.rmask ≠ 0#32 → e.kind ≠ .implicit → rest = u :: r → u.pmode = .arm →
          ∃ f o u', h.frags = [f, o] ∧ f.pc = c.f.pc + 4#64 ∧ f.mask = e.rmask ∧ o.pc = u.ppc ∧ o.mask = u.pmask ∧ h.stack = u' :: r ∧ u'.pmode = .none ∧ u'.rmask = u.rmask ∧ u'.arr = u.arr) ∧
        (∀ o, c.g.frags.length = 2 → c.g.frags[1 - c.fi]? = some o → e.arr ||| c.f.mask ≠ e.rmask →
          ∃ e', h.stack = e' :: rest ∧ e'.arr = e.arr ||| c.f.mask ∧ e'.rmask = e.rmask ∧ h.frags = [o]) ∧
        (c.g.frags.length = 1 → e.arr ||| c.f.mask ≠ e.rmask → e.pmode ≠ .none →
          ∃ o e', h.frags = [o] ∧ o.pc = e.ppc ∧ o.mask = e.pmask ∧ h.stack = e' :: rest ∧ e'.arr = e.arr ||| c.f.mask ∧ e'.rmask = e.rmask ∧ e'.pmode = .none))) ∧
  (∀ (w : FmtX) s c, Issues (.exit w) s c →
    (c.g.exited ||| c.f.mask = 0xFFFFFFFF#32 → ∃ t h, exec (.exit w) s = .next t ∧ findGroup t c.g.gid = some h ∧ SameRegs c h ∧ h.exited = 0xFFFFFFFF#32 ∧ h.status = .draining ∧
      h.frags = [] ∧ h.stack = [] ∧ ∀ a, rd t.mem a = rd s.mem a) ∧
    let left := c.g.stack.map (fun e => { e with rmask := e.rmask &&& ~~~c.f.mask, arr := e.arr &&& ~~~c.f.mask })
    (c.g.exited ||| c.f.mask ≠ 0xFFFFFFFF#32 → c.g.spilled = 0 ∨ c.g.stack = [] ∨ ¬ Empties 0#32 left →
      ∃ t h, exec (.exit w) s = .next t ∧ findGroup t c.g.gid = some h ∧ SameRegs c h ∧ h.exited = c.g.exited ||| c.f.mask ∧ h.status = .running ∧
        (∀ f, f ∈ h.frags → f.mask &&& c.f.mask = 0#32) ∧ (∀ e, e ∈ h.stack → e.rmask &&& c.f.mask = 0#32) ∧ Elsewhere s t c.g.gid) ∧
    (c.g.exited ||| c.f.mask ≠ 0xFFFFFFFF#32 → c.g.spilled ≠ 0 → c.g.stack ≠ [] → Empties 0#32 left →
      TakesTrap (.exit w) s c 0x03#8 3#64 c.f.mask 0#64))

/-- 06 R155, 16 R418: TRAP, BKPT and SYSCALL take their traps: the code and the leader's a in TRAPV, or the 64 bits of s(a); a resumed SYSCALL goes on after itself. -/
def Obligations.TrapWordsTakeTheirTraps : Prop :=
  (∀ (w : FmtX) k s c, Issues (.trap w k) s c → TakesTrap (.trap w k) s c 0x12#8 (BitVec.ofNat 64 ((op32 c w.a (leader c.f.mask)).toNat * 2 ^ 32 + k.toNat)) c.f.mask 0#64) ∧
  (∀ (w : FmtX) k s c, Issues (.bkpt w k) s c → TakesTrap (.bkpt w k) s c 0x12#8 (BitVec.ofNat 64 ((op32 c w.a (leader c.f.mask)).toNat * 2 ^ 32 + 128 + k.toNat)) c.f.mask 0#64) ∧
  (∀ (w : FmtX) s c, Issues (.syscall w) s c → TakesTrap (.syscall w) s c 0x13#8 (sget c.g (w.a.toNat - 96)) c.f.mask 4#64)

/-! ## Tiles -/

/-- 10 R243-R247: TZERO clears the active rows, TRD copies rows into the active lanes of a register block, TWR copies them back, TWM delivers the first row not final; no other element,
register or byte of memory changes. Choices of the model in it: logs 10, 58. -/
def Obligations.TileRowsMoveAsTold : Prop :=
  (∀ (w : FmtT) s c, Issues (.tzero w) s c → ∃ t h, exec (.tzero w) s = .next t ∧ findGroup t c.g.gid = some h ∧ h.v = c.g.v ∧ h.s = c.g.s ∧ h.p = c.g.p ∧ Advances c h ∧ Elsewhere s t c.g.gid ∧
    ∀ k i j, i < 32 → j < 32 → tget h k i j = if k = w.td.toNat ∧ c.f.mask.getLsbD i = true then 0#32 else tget c.g k i j) ∧
  (∀ (w : FmtT) s c x, Issues (.trd w) s c → rowCheck (.trd w) w c = .ok x → regsHeld c true ((List.range (rowCount x)).map (fun i => regOf c.g w.b + i)) = false →
    (rowsOf x).any (pendingRow c.f.board c.cycle w.td.toNat) = false →
    ∃ t h, exec (.trd w) s = .next t ∧ findGroup t c.g.gid = some h ∧ h.t = c.g.t ∧ h.s = c.g.s ∧ h.p = c.g.p ∧ Advances c h ∧ Elsewhere s t c.g.gid ∧
      ∀ r l, l < 32 → vget h r l = if regOf c.g w.b ≤ r ∧ r < regOf c.g w.b + rowCount x ∧ c.f.mask.getLsbD l = true then tget c.g w.td.toNat (rowFirst x + (r - regOf c.g w.b)) l
        else vget c.g r l) ∧
  (∀ (w : FmtT) s c x, Issues (.twr w) s c → rowCheck (.twr w) w c = .ok x → regsHeld c false ((List.range (rowCount x)).map (fun i => regOf c.g w.b + i)) = false →
    ∃ t h, exec (.twr w) s = .next t ∧ findGroup t c.g.gid = some h ∧ h.v = c.g.v ∧ h.s = c.g.s ∧ h.p = c.g.p ∧ Advances c h ∧ Elsewhere s t c.g.gid ∧
      ∀ k i j, i < 32 → j < 32 → tget h k i j = if k = w.td.toNat ∧ rowFirst x ≤ i ∧ i < rowFirst x + rowCount x ∧ c.f.mask.getLsbD j = true then
        vget c.g (regOf c.g w.b + (i - rowFirst x)) j else tget c.g k i j) ∧
  (∀ (w : FmtT) s c, Issues (.twm w) s c → ∃ t h, exec (.twm w) s = .next t ∧ findGroup t c.g.gid = some h ∧ h.t = c.g.t ∧ h.v = c.g.v ∧ h.p = c.g.p ∧ Advances c h ∧ Elsewhere s t c.g.gid ∧
    (∀ k, k ≠ w.f.toNat - 96 → sget h k = sget c.g k) ∧
    (w.f.toNat ≠ 96 → ∃ n, n ≤ 32 ∧ sget h (w.f.toNat - 96) = BitVec.ofNat 64 n ∧ (∀ r, r < n → assoc c.g.rows (w.td.toNat * 32 + r) ≤ c.cycle) ∧
      (n < 32 → c.cycle < assoc c.g.rows (w.td.toNat * 32 + n))))

/-- The active rows of tile td hold f, every other element of every tile what it held. -/
def RowsHold (c : Ctx) (h : Group) (td : Nat) (f : Nat → Nat → Word) : Prop :=
  ∀ k i j, i < 32 → j < 32 → tget h k i j = if k = td ∧ c.f.mask.getLsbD i = true then f i j else tget c.g k i j

/-- 10 R226, R227, R233, R237, R248, R249: once their format or control word has passed its checks and nothing they need is pending, MMA and MMAZ leave in each active row of the tile its
old value (MMAZ: nothing) plus the exact chunk sum rounded once; TCVT and TSCL rewrite the active rows from the elements as they stood. Choices of the model in it: log 10. -/
def Obligations.MatrixWordsRewriteTheActiveRows : Prop :=
  (∀ (w : FmtT) (z : Bool) (i : Instr) s c x, (i = .mma w ∧ z = false ∨ i = .mmaz w ∧ z = true) → Issues i s c → mmaCheck i w false c = .ok x → operandsHeld c w x false = false →
    arrayReady (arrayOf c.s c.g.site c.g.bay) c.cycle = true →
    ∃ t h, exec i s = .next t ∧ findGroup t c.g.gid = some h ∧ h.v = c.g.v ∧ h.s = c.g.s ∧ h.p = c.g.p ∧ Advances c h ∧ Elsewhere s t c.g.gid ∧
      RowsHold c h w.td.toNat (fun r j =>
        let cb := (clusterOf s c.g.site).codebook
        accumulate z (tget c.g w.td.toNat r j) (chunkSum ((List.range (passK x)).map (fun q => (mulV (elemA c.g cb w x r q) (elemB c.g cb w x q j)).1))))) ∧
  (∀ (w : FmtT) s c x, Issues (.tcvt w) s c → voted c w.f = .ok x → x.toNat < 32 → x.toNat % 4 ≠ 3 → (x.toNat % 4 = 0 → x.toNat / 8 < 2) →
    (lanesOf c.f.mask).any (pendingRow c.f.board c.cycle (w.a.toNat - 96)) = false →
    ∃ t h, exec (.tcvt w) s = .next t ∧ findGroup t c.g.gid = some h ∧ h.v = c.g.v ∧ h.s = c.g.s ∧ h.p = c.g.p ∧ Advances c h ∧ Elsewhere s t c.g.gid ∧
      RowsHold c h w.td.toNat (tcvtRow c.g (w.a.toNat - 96) w.td.toNat (x.toNat % 4) (x.toNat / 8) (x.getLsbD 2))) ∧
  (∀ (w : FmtT) s c x, Issues (.tscl w) s c → voted c w.f = .ok x → x.toNat < 16 →
    ∃ t h, exec (.tscl w) s = .next t ∧ findGroup t c.g.gid = some h ∧ h.v = c.g.v ∧ h.s = c.g.s ∧ h.p = c.g.p ∧ Advances c h ∧ Elsewhere s t c.g.gid ∧
      RowsHold c h w.td.toNat (fun r j =>
        let rs := tsclScale (x.getLsbD 0) (x.getLsbD 2) (vget c.g (regOf c.g w.a) r)
        let cs := tsclScale (x.getLsbD 1) (x.getLsbD 3) (vget c.g (regOf c.g w.b) j)
        BitVec.ofNat 32 (deliver fp32 .rne (mulV (mulV (unpack fp32 (tget c.g w.td.toNat r j).toNat) rs).1 cs).1).1))

/-- A member that waits with the format word x can start: its word passes its checks, nothing that it reads is pending, no run owns its bay, and its array is free and granted (10 R240). -/
def MemberStarts (s : State) (x : Word) (m : FhMember) : Prop :=
  m.x = .ok x ∧ memberReady s m = true ∧ arrayReady (arrayOf s m.g.site m.g.bay) (cycleOf s (siteDie m.g.site)) = true ∧ findGroup s m.g.gid = some m.g

/-- 10 R238-R241; 09 R203, R205, R216-R218: FHSET records or dissolves a good specification and starts its count again, and raises FOURHAND 1 for a bad one. An MMAF that passes its checks waits
at its word; once the four members of its set wait there with one format word and can start, in each active row of each member's tile the old element is left plus the exact chunk sum over the
four quarters of B, rounded once, and the member goes on past the word. CBLD copies 64 bytes of scratchpad to a block of the table and of its team's image, and to nothing else; CBDEC delivers the
E4M3 codes of an index's eight coordinates under the rule it selects. Choices of the model in it: logs 10, 18, 65, 79. -/
def Obligations.FourInHandAndCodebookComplete : Prop :=
  (∀ (w : FmtX) s c tm, Issues (.fhset w) s c → findTeam s c.g.team = some tm →
    let x := op64 c w.a (leader c.f.mask)
    let member := fun q => (x.extractLsb' (8 * q) 5).toNat
    let good := x.getLsbD 31 = true ∧ x &&& 0xFFFFFFFF60E0E0E0#64 = 0#64 ∧ tm.fourhand = true ∧ (∃ q, q < 4 ∧ member q = c.g.num) ∧
      ∀ q, q < 4 → member q < (tm.roles.map (·.groups)).foldl (· + ·) 0 ∧ member q % 4 = q
    (good ∨ x = 0#64 → (∀ f, f ∈ c.g.frags → atRendezvous f = false) → ∃ t h, exec (.fhset w) s = .next t ∧ findGroup t c.g.gid = some h ∧ h.fhspec = x ∧ h.fhcount = 0 ∧ SameRegs c h ∧
      Advances c h ∧ (∀ a, rd t.mem a = rd s.mem a) ∧ (c.g.fhspec.getLsbD 31 = false → Elsewhere s t c.g.gid)) ∧
    (¬ good → x ≠ 0#64 → TakesTrap (.fhset w) s c 0x07#8 1#64 c.f.mask 0#64)) ∧
  (∀ (w : FmtT) s c x, Issues (.mmaf w) s c → c.g.fhspec.getLsbD 31 = true → mmaCheck (.mmaf w) w true c = .ok x → fhClash c = [] →
    (fhLeft c = false → operandsHeld c w x true = false → ∃ t h f n, exec (.mmaf w) s = .next t ∧ findGroup t c.g.gid = some h ∧ SameRegs c h ∧ Elsewhere s t c.g.gid ∧
      h.frags[c.fi]? = some f ∧ f.pc = c.f.pc ∧ f.mask = c.f.mask ∧ f.wait = .rendezvous n) ∧
    (fhLeft c = true → TakesTrap (.mmaf w) s c 0x07#8 2#64 c.f.mask 0#64)) ∧
  (∀ (w : FmtT) s c, Issues (.mmaf w) s c → c.g.fhspec.getLsbD 31 = false → ∃ t h, exec (.mmaf w) s = .next t ∧ findGroup t c.g.gid = some h ∧ SameRegs c { h with trapc := c.g.trapc, trappc := c.g.trappc, trapv := c.g.trapv, trapm := c.g.trapm, gstat := c.g.gstat } ∧
    h.trapc = 0x07#64 ∧ h.trapv = 3#64 ∧ h.status = .stopping .trap ∧ ∀ a, rd t.mem a = rd s.mem a) ∧
  (∀ tid num s ms x, membersOf s tid num = some ms → (∀ m, m ∈ ms → MemberStarts s x m) → (ms.map (fun m => m.g.gid)).Nodup →
    ∃ t, exec (.mmafRendezvous tid num) s = .next t ∧ (∀ a, rd t.mem a = rd s.mem a) ∧ ∀ m, m ∈ ms → ∃ h f, findGroup t m.g.gid = some h ∧ h.v = m.g.v ∧ h.s = m.g.s ∧ h.p = m.g.p ∧
      h.frags[m.fi]? = some f ∧ f.pc = m.f.pc + 4#64 ∧ f.mask = m.f.mask ∧ atRendezvous f = false ∧ h.fhcount = m.g.fhcount + 1 ∧
      ∀ k i j, i < 32 → j < 32 → tget h k i j = if k = m.w.td.toNat ∧ m.f.mask.getLsbD i = true then
          let cb := (clusterOf s m.g.site).codebook
          let n := passK x / 4
          accumulate false (tget m.g k i j) (chunkSum ((List.range (passK x)).map (fun q =>
            (mulV (elemA m.g cb m.w x i q) (match ms[q / n]? with
              | some b => elemQuarter b.g cb b.w.b x (q / n * n) (q % n) j
              | none => .zero false)).1)))
        else tget m.g k i j) ∧
  (∀ w : FmtA, ∃ f : Option Word → Word → DWord,
    Gives (.cbdec w) false w.n w.d 2 (fun c l => f (if w.x then some (rd (clusterOf c.s c.g.site).codebook ((op32 c w.a l).toNat / 256 % 256)) else none) (op32 c w.a l)) ∧
    ∀ row x i, i < 8 →
      let neg := if i < 7 then x.getLsbD (i + 1) else ((List.range 7).filter (fun k => x.getLsbD (k + 1))).length % 2 == 1
      let mag : Rat := match row with
        | some y => ((y.toNat / 16 ^ i % 16 : Nat) : Rat) / 4
        | none => if x.getLsbD (8 + i) then 3 / 2 else 1 / 2
      let v : Rat := (if neg then -mag else mag) + (if x.getLsbD 0 then 1 / 4 else 0)
      let code := (f row x).toNat / 256 ^ i % 256
      code % 128 ≤ 0x7E ∧ (if code < 128 then narrowVal 3 7 code else -narrowVal 3 7 (code % 128)) = v ∧ (v = 0 → code = 0)) ∧
  (∀ (w : FmtX) k s c tm, Issues (.cbld w k) s c → findTeam s c.g.team = some tm →
    let a := (op32 c w.a (leader c.f.mask)).toNat
    let source := fun (j : Nat) => rd (clusterOf s c.g.site).sram (tm.block + a + j)
    (a % 64 = 0 → a + 64 ≤ tm.scratch → ∃ t h, exec (.cbld w k) s = .next t ∧ findGroup t c.g.gid = some h ∧ SameRegs c h ∧ Advances c h ∧
      (∀ g, g ≠ c.g.gid → findGroup t g = findGroup s g) ∧
      (∀ r, rd (clusterOf t c.g.site).codebook r =
        if r / 16 = k.toNat then BitVec.ofNat 32 (rdBytes (clusterOf s c.g.site).sram (tm.block + a + 4 * (r % 16)) 4) else rd (clusterOf s c.g.site).codebook r) ∧
      (∀ v, findVd s tm.vd = some v →
        let p := unitPa v tm.unit0 + 0x21C00 + 64 * k.toNat
        p % 64 = 0 → (∀ j, j < 64 → rd t.mem (p + j) = source j) ∧ ∀ b, b < p ∨ p + 64 ≤ b → rd t.mem b = rd s.mem b)) ∧
    (a % 64 ≠ 0 → TakesTrap (.cbld w k) s c 0x09#8 (BitVec.ofNat 64 a) c.f.mask 0#64) ∧
    (a % 64 = 0 → tm.scratch < a + 64 → TakesTrap (.cbld w k) s c 0x0F#8 (BitVec.ofNat 64 a) c.f.mask 0#64))

/-! ## Loads, stores, atomics, scratchpad -/

/-- 04 R93; 06 R127, R141; 11 R262; 12 R298; 16 R398: a word that cannot be considered yet (the run before it is not translated, or a block holds its case values), and one that no trap takes but
that waits for a register, a counter or an acquire, leaves everything as it was, and counts as tried in this cycle. Choices of the model in it: logs 9, 10, 53. -/
def Obligations.WordsThatAreNotReadyWait : Prop :=
  ∀ i s c, i.isWord = true → Chosen i s c →
    startHeld s c.g c.f i = true ∨ (firstTrap s c.g c.f i = none ∧ notReady s c.g c.fi c.f c.cycle i = true) →
    exec i s = .next { s with cur := none, tried := { gid := c.g.gid, fi := c.fi } :: s.tried }

/-- 11 R250, R260, R262, R265-R267, R274-R276: loads are sent with each lane's address, raise G for the global half and F for the far half, and go on; a prefetch of the leader's line raises
nothing and writes nothing. Choices of the model in it: log 46. -/
def Obligations.LoadsAreSentLaneByLane : Prop :=
  (∀ (w : FmtM) (i : Instr) (k : Nat) s c, (i, k) ∈ [(Instr.ldb w, 0), (.ldh w, 1), (.ldw w, 2), (.ldd w, 3), (.ldq w, 4)] → Issues i s c →
    let ea := fun l => op64 c w.a l + BitVec.ofInt 64 (w.off.toInt * 2 ^ k)
    (∀ l, l ∈ accessLanes c w.u → (ea l).toNat % 2 ^ k = 0) → (∀ q, rise .g (accessLanes c w.u) ea q = 1 → c.g.count q < 63) →
    ∃ t h, exec i s = .next t ∧ findGroup t c.g.gid = some h ∧ Sent i s c t h (accessLanes c w.u) .load (2 ^ k) ea (fun _ => (0, 0)) (rise .g (accessLanes c w.u) ea)) ∧
  (∀ (w : FmtX) (r : BitVec 2) (k z : BitVec 3) (i : Instr) (o : MemOp) (n : Nat) s c,
    (i, o, n) ∈ [(Instr.ldxLdsc w r, MemOp.ldsc, 4), (.ldxLsib w r k, .lsib k.toNat, 8), (.ldxLdnc w r z, .load, 2 ^ z.toNat)] → Issues i s c →
    (∀ l, l ∈ accessLanes c w.u → (op64 c w.a l).toNat % n = 0) → (∀ q, rise .g (accessLanes c w.u) (op64 c w.a) q = 1 → c.g.count q < 63) →
    ∃ t h, exec i s = .next t ∧ findGroup t c.g.gid = some h ∧
      Sent i s c t h (accessLanes c w.u) o n (op64 c w.a) (fun _ => (0, 0)) (rise .g (accessLanes c w.u) (op64 c w.a))) ∧
  (∀ (w : FmtX) s c, Issues (.ldxPref w) s c → ∃ t h r, exec (.ldxPref w) s = .next t ∧ findGroup t c.g.gid = some h ∧ SameRegs c h ∧ Advances c h ∧ Elsewhere s t c.g.gid ∧
    (∀ q, h.count q = c.g.count q) ∧ t.reqs = s.reqs ++ [r] ∧ r.op = .pref ∧ r.size = 128 ∧
    ∃ a, r.lanes = [a] ∧ a.va = op64 c w.a (leader c.f.mask) - BitVec.ofNat 64 ((op64 c w.a (leader c.f.mask)).toNat % 128))

/-- 11 R250, R260, R262, R264-R268; 15 R379: stores are sent with each lane's address and data, raise W for the global half and F for the far half, and go on; a release store does so once
nothing that it releases is outstanding. Choices of the model in it: log 46. -/
def Obligations.StoresAreSentLaneByLane : Prop :=
  ∀ (w : FmtM) (i : Instr) (k : Nat) s c, (i, k) ∈ [(Instr.stb w, 0), (.sth w, 1), (.stw w, 2), (.std w, 3), (.stq w, 4)] → Issues i s c →
    let ea := fun l => op64 c w.a l + BitVec.ofInt 64 (w.off.toInt * 2 ^ k)
    let data := fun l => if k ≤ 2 then (op32 c w.d l).toNat % 2 ^ (8 * 2 ^ k) else if k = 3 then (op64 c w.d l).toNat
      else if w.d.toNat < 96 then (vget c.g (regOf c.g w.d + 3) l ++ vget c.g (regOf c.g w.d + 2) l ++ vget c.g (regOf c.g w.d + 1) l ++ vget c.g (regOf c.g w.d) l).toNat
      else (sget c.g (w.d.toNat - 95) ++ sget c.g (w.d.toNat - 96)).toNat
    (∀ l, l ∈ accessLanes c w.u → (ea l).toNat % 2 ^ k = 0) → (∀ q, rise .w (accessLanes c w.u) ea q = 1 → c.g.count q < 63) → ReleaseReady s c (scopeOf w.ord) →
    ∃ t h, exec i s = .next t ∧ findGroup t c.g.gid = some h ∧ Sent i s c t h (accessLanes c w.u) .store (2 ^ k) ea (fun l => (data l, 0)) (rise .w (accessLanes c w.u) ea)

/-- 11 R267, R274; 14 R342, R345, R347, R350: a lane whose address is not a multiple of the size makes the word raise ALIGN for those lanes, with the lowest one's address, every lane having the
leader's with U = 1 (04 R86); WAITA and WAKE look at the leader alone; an atomic-class word then raises PERM for lanes in the far half. Nothing is accessed. -/
def Obligations.AddressChecksOfMemoryWords : Prop :=
  (∀ (w : FmtM) (i : Instr) (k : Nat) s c (bad : Mask),
    (i, k) ∈ [(Instr.ldb w, 0), (.ldh w, 1), (.ldw w, 2), (.ldd w, 3), (.ldq w, 4), (.stb w, 0), (.sth w, 1), (.stw w, 2), (.std w, 3), (.stq w, 4)] → Issues i s c →
    let ea := fun l => op64 c w.a (if w.u then leader c.f.mask else l) + BitVec.ofInt 64 (w.off.toInt * 2 ^ k)
    bad ≠ 0#32 → (∀ l, l < 32 → bad.getLsbD l = (c.f.mask.getLsbD l && decide ((ea l).toNat % 2 ^ k ≠ 0))) → TakesTrap i s c 0x09#8 (ea (leader bad)) bad 0#64) ∧
  (∀ (w : FmtX) (r : BitVec 2) (k z : BitVec 3) (i : Instr) (n : Nat) s c (bad : Mask), (i, n) ∈ [(Instr.ldxLdsc w r, 4), (.ldxLsib w r k, 8), (.ldxLdnc w r z, 2 ^ z.toNat)] → Issues i s c →
    let ea := fun l => op64 c w.a (if w.u then leader c.f.mask else l)
    bad ≠ 0#32 → (∀ l, l < 32 → bad.getLsbD l = (c.f.mask.getLsbD l && decide ((ea l).toNat % n ≠ 0))) → TakesTrap i s c 0x09#8 (ea (leader bad)) bad 0#64) ∧
  (∀ (w : FmtAT) (i : Instr) (n : Nat) (one : Bool) s c (bad : Mask),
    (i, n, one) ∈ [(Instr.atarithAdd w, 4, false), (.atarithFadd w, 4, false), (.atarithDecp w, 4, false), (.atarithIncw w, 4, false), (.atminmaxMin w, 4, false), (.atminmaxMax w, 4, false),
      (.atminmaxMinu w, 4, false), (.atminmaxMaxu w, 4, false), (.atlogicAnd w, 4, false), (.atlogicOr w, 4, false), (.atlogicXor w, 4, false), (.atlogicSwap w, 4, false),
      (.atcasCas32 w, 4, false), (.atcasCas64 w, 8, false), (.atcasAdd64 w, 8, false), (.redAdd w, 4, false), (.redFadd w, 4, false), (.redMin w, 4, false), (.redMax w, 4, false),
      (.rcn w, 4, false), (.rcnD w, 8, false), (.waita w, 4, true), (.waitaTo w, 4, true), (.wakeOne w, 4, true), (.wakeAll w, 4, true)] → Issues i s c →
    let off := fun l => c.f.mask.getLsbD l && (!one || l == leader c.f.mask) && decide ((op64 c w.a l).toNat % n ≠ 0)
    let far := fun l => c.f.mask.getLsbD l && (!one || l == leader c.f.mask) && (op64 c w.a l).getLsbD 56
    bad ≠ 0#32 →
    ((∀ l, l < 32 → bad.getLsbD l = off l) → TakesTrap i s c 0x09#8 (op64 c w.a (leader bad)) bad 0#64) ∧
    ((∀ l, l < 32 → off l = false) → (∀ l, l < 32 → bad.getLsbD l = far l) → TakesTrap i s c 0x0C#8 (op64 c w.a (leader bad)) bad 0#64))

/-- 14 R342, R343, R345, R347, R350, R362: atomics and RED are sent with each active lane's address and operands, RCN with its value and token, WAKE with the leader's address; they raise W and
go on. WAITA is sent with the leader's expected value (and timeout) and raises nothing; its fragment waits for the status. Choices of the model in it: log 46. -/
def Obligations.AtomicsAreSentLaneByLane : Prop :=
  (∀ (w : FmtAT) (i : Instr) (op : MemOp) (z : Nat) s c,
    (i, op, z) ∈ [(Instr.atarithAdd w, MemOp.atomic .add, 4), (.atarithFadd w, .atomic .fadd, 4), (.atarithDecp w, .atomic .decp, 4), (.atarithIncw w, .atomic .incw, 4),
      (.atminmaxMin w, .atomic .min, 4), (.atminmaxMax w, .atomic .max, 4), (.atminmaxMinu w, .atomic .minu, 4), (.atminmaxMaxu w, .atomic .maxu, 4), (.atlogicAnd w, .atomic .and, 4),
      (.atlogicOr w, .atomic .or, 4), (.atlogicXor w, .atomic .xor, 4), (.atlogicSwap w, .atomic .swap, 4), (.atcasCas32 w, .atomic .cas32, 4), (.atcasCas64 w, .atomic .cas64, 8),
      (.atcasAdd64 w, .atomic .add64, 8), (.redAdd w, .red .add, 4), (.redFadd w, .red .fadd, 4), (.redMin w, .red .min, 4), (.redMax w, .red .max, 4)] → Issues i s c →
    let quad := fun (k l : Nat) => (if w.b.toNat < 96 then vget c.g (regOf c.g w.b + k + 1) l ++ vget c.g (regOf c.g w.b + k) l else sget c.g (w.b.toNat - 96 + k / 2)).toNat
    let data := fun l => if op = .atomic .cas32 then ((op64 c w.b l).toNat % 2 ^ 32, (op64 c w.b l).toNat / 2 ^ 32) else if op = .atomic .cas64 then (quad 0 l, quad 2 l)
      else if z = 8 then ((op64 c w.b l).toNat, 0) else ((op32 c w.b l).toNat, 0)
    (∀ l, l < 32 → c.f.mask.getLsbD l = true → (op64 c w.a l).toNat % z = 0 ∧ (op64 c w.a l).getLsbD 56 = false) → c.g.count .w < 63 →
    ReleaseReady s c (if w.ar then .package else .none) →
    ∃ t h, exec i s = .next t ∧ findGroup t c.g.gid = some h ∧ Sent i s c t h (lanesOf c.f.mask) op z (op64 c w.a) data (fun q => if q = .w then 1 else 0)) ∧
  (∀ (w : FmtAT) s c, ReleaseReady s c (if w.ar then .package else .none) →
    let good := fun (n : Nat) (l : Nat) => (op64 c w.a l).toNat % n = 0 ∧ (op64 c w.a l).getLsbD 56 = false
    let one := fun (q : Ctr) => if q = .w then 1 else 0
    (∀ i z, (i, z) ∈ [(Instr.rcn w, 4), (.rcnD w, 8)] → Issues i s c → (∀ l, l < 32 → c.f.mask.getLsbD l = true → good z l) → c.g.count .w < 63 →
      ∃ t h, exec i s = .next t ∧ findGroup t c.g.gid = some h ∧ Sent i s c t h (lanesOf c.f.mask) .rcn z (op64 c w.a)
        (fun l => (if z = 8 then (op64 c w.b l).toNat else (op32 c w.b l).toNat, (op32 c w.d l).toNat % 65536)) one) ∧
    (∀ i a, (i, a) ∈ [(Instr.wakeOne w, false), (.wakeAll w, true)] → Issues i s c → c.f.mask ≠ 0#32 → good 4 (leader c.f.mask) → c.g.count .w < 63 →
      ∃ t h, exec i s = .next t ∧ findGroup t c.g.gid = some h ∧ Sent i s c t h [leader c.f.mask] (.wake a) 4 (op64 c w.a) (fun _ => (0, 0)) one) ∧
    (∀ i timed, (i, timed) ∈ [(Instr.waita w, false), (.waitaTo w, true)] → Issues i s c → c.f.mask ≠ 0#32 → good 4 (leader c.f.mask) →
      ∃ t h f, exec i s = .next t ∧ findGroup t c.g.gid = some h ∧
        Sent i s c t h [leader c.f.mask] (.waita timed) 4 (op64 c w.a)
          (fun l => if timed then ((op64 c w.b l).toNat % 2 ^ 32, (op64 c w.b l).toNat / 2 ^ 32) else ((op32 c w.b l).toNat, 0)) (fun _ => 0) ∧
        h.frags[c.fi]? = some f ∧ f.wait = .monitor c.s.nextId))

/-- 11 R268, R272, R273: LDS reads the bytes of each lane's exact offset as they stand, for its answer to write; STS writes each lane's bytes and no other byte of the cluster's SRAM, the highest
lane's remaining where lanes overlap; both raise S; misaligned, outside and barrier offsets raise ALIGN, SCRATCH and BARRIER in that order, with no effect. Choices of the model in it: log 10. -/
def Obligations.ScratchpadWordsAccessTheirBytes : Prop :=
  ∀ (w : FmtM) s c tm, findTeam s c.g.team = some tm →
    let z : Nat := 2 ^ w.ord.toNat
    let ea := fun (l : Nat) => ((op32 c w.a (if w.u then leader c.f.mask else l)).toNat : Int) + w.off.toInt * z
    let at_ := fun (l : Nat) => tm.block + (ea l).toNat
    let on := fun (l : Nat) => c.f.mask.getLsbD l
    let fits := fun (l : Nat) => ea l % z = 0 ∧ 0 ≤ ea l ∧ ea l + z ≤ tm.scratch
    (Issues (.lds w) s c → c.f.mask ≠ 0#32 → (∀ l, l < 32 → on l = true → fits l) → c.g.count .s < 63 →
      ∃ t h x r, exec (.lds w) s = .next t ∧ findGroup t c.g.gid = some h ∧ SameRegs c h ∧ Advances c h ∧ Elsewhere s t c.g.gid ∧ t.clusters = s.clusters ∧ h.count .s = c.g.count .s + 1 ∧
        x ∈ h.flights ∧ x.id = c.s.nextId ∧ r ∈ t.reqs ∧ r.gid = c.g.gid ∧ r.flight = x.id ∧ r.stage = .reply ∧
        ∀ l, l ∈ accessLanes c w.u → ∃ y, y ∈ r.results ∧ y.lane = l ∧ y.value = rdBytes (clusterOf s c.g.site).sram (at_ l) z) ∧
    (Issues (.sts w) s c → c.f.mask ≠ 0#32 → (∀ l, l < 32 → on l = true → fits l ∧ 16 * (tm.nbars : Int) ≤ ea l) → c.g.count .s < 63 →
      ∃ t h, exec (.sts w) s = .next t ∧ findGroup t c.g.gid = some h ∧ SameRegs c h ∧ Advances c h ∧ Elsewhere s t c.g.gid ∧ h.count .s = c.g.count .s + 1 ∧
        (∀ p, (∀ l, l ∈ accessLanes c w.u → p < at_ l ∨ at_ l + z ≤ p) → rd (clusterOf t c.g.site).sram p = rd (clusterOf s c.g.site).sram p) ∧
        (∀ l, l ∈ accessLanes c w.u → (∀ m, m ∈ accessLanes c w.u → l < m → at_ l + z ≤ at_ m ∨ at_ m + z ≤ at_ l) →
          rdBytes (clusterOf t c.g.site).sram (at_ l) z = if w.ord = 3#2 then (op64 c w.d l).toNat else (op32 c w.d l).toNat % 2 ^ (8 * z))) ∧
    (∀ i bad, i = Instr.lds w ∨ i = Instr.sts w → Issues i s c → bad ≠ 0#32 →
      ((∀ l, l < 32 → bad.getLsbD l = (on l && decide (ea l % z ≠ 0))) → TakesTrap i s c 0x09#8 (BitVec.ofInt 64 (ea (leader bad))) bad 0#64) ∧
      ((∀ l, l < 32 → on l = true → ea l % z = 0) → (∀ l, l < 32 → bad.getLsbD l = (on l && decide (ea l < 0 ∨ tm.scratch < ea l + z))) →
        TakesTrap i s c 0x0F#8 (BitVec.ofInt 64 (ea (leader bad))) bad 0#64) ∧
      ((∀ l, l < 32 → on l = true → fits l) → (∀ l, l < 32 → bad.getLsbD l = (on l && decide (ea l < 16 * (tm.nbars : Int)))) → i = .sts w →
        TakesTrap i s c 0x11#8 (BitVec.ofInt 64 (ea (leader bad))) bad 0#64))

/-- 11 R278-R280, R282: with every counter at zero FENCE completes, at package and system scope the die's dirty remote words being home; else its fragment waits at it. FENCEVA completes with W at
zero and leaves the cluster's L1 empty; WAITC completes once its counter is at or below the threshold that it read as it issued, and else waits for that; CINV drops the range's words of the
issuing address space from the L1. Choices of the model in it: log 46. -/
def Obligations.FencesAndWaitsComplete : Prop :=
  (∀ (w : FmtX) (k : BitVec 4) s c, Issues (.memxFence w k) s c → c.g.refuse = none → (∀ q, c.g.count q = 0) →
    (k.toNat < 3 ∨ ∀ r, r ∈ s.remote → r.vd = c.g.vd → r.die = siteDie c.g.site → r.dirty = false) →
    ∃ t h, exec (.memxFence w k) s = .next t ∧ findGroup t c.g.gid = some h ∧ SameRegs c h ∧ Advances c h ∧ Elsewhere s t c.g.gid ∧
      (3 ≤ k.toNat → ∀ r, r ∈ t.remote → r.vd = c.g.vd → r.die ≠ siteDie c.g.site)) ∧
  (∀ (w : FmtX) (k : BitVec 4) s c q, Issues (.memxFence w k) s c → c.g.refuse = none → c.g.count q ≠ 0 →
    ∃ t h f, exec (.memxFence w k) s = .next t ∧ findGroup t c.g.gid = some h ∧ SameRegs c h ∧ Elsewhere s t c.g.gid ∧ h.frags[c.fi]? = some f ∧ f.pc = c.f.pc ∧ f.wait = .fence k.toNat) ∧
  (∀ (w : FmtX) s c, Issues (.memxFenceva w) s c → c.g.count .w = 0 → ∃ t h, exec (.memxFenceva w) s = .next t ∧ findGroup t c.g.gid = some h ∧ SameRegs c h ∧ Advances c h ∧
    Elsewhere s t c.g.gid ∧ (clusterOf t c.g.site).l1 = []) ∧
  (∀ (w : FmtX) (k : BitVec 4) s c q, (k.toNat, q) ∈ [(0, Ctr.g), (1, .s), (2, .f), (3, .w)] → Issues (.memxWaitc w k) s c →
    let n := match c.f.wait with | .waitc _ n => n | _ => (argOf c w.a 0).toNat
    (c.g.count q ≤ n → ∃ t h, exec (.memxWaitc w k) s = .next t ∧ findGroup t c.g.gid = some h ∧ SameRegs c h ∧ Advances c h ∧ OnlyGroup s t c.g.gid) ∧
    (n < c.g.count q → ∃ t h f, exec (.memxWaitc w k) s = .next t ∧ findGroup t c.g.gid = some h ∧ SameRegs c h ∧ Elsewhere s t c.g.gid ∧ h.frags[c.fi]? = some f ∧ f.pc = c.f.pc ∧
      f.wait = .waitc q n)) ∧
  (∀ (w : FmtX) s c, Issues (.memxCinv w) s c → ∃ t h, exec (.memxCinv w) s = .next t ∧ findGroup t c.g.gid = some h ∧ SameRegs c h ∧ Advances c h ∧ Elsewhere s t c.g.gid ∧
    ∀ x, x ∈ (clusterOf t c.g.site).l1 ↔ x ∈ (clusterOf s c.g.site).l1 ∧ ¬ (2 ^ 21 < (argOf c w.a 1).toNat ∨
      (x.asid = asidOf s c.g ∧ ∃ b, 4 * x.va ≤ b ∧ b < 4 * x.va + 4 ∧ (argOf c w.a 0).toNat ≤ b ∧ b < (argOf c w.a 0).toNat + (argOf c w.a 1).toNat)))

/-! ## Barriers, channels, the Dray -/

/-- 14 R335, R336, R338, R340: on an object of the team, INIT sets it up; ARR and ARRN, with nothing of the group outstanding, take their arrivals away, EXPB adds its bytes, and the phase
completes when both are used up: the waiters of its parity are released. WAIT goes on when the phase of its parity is over, or has ended while it waited, and else waits; TRY and QRY deliver
what the object holds. Choices of the model in it: log 46. -/
def Obligations.BarrierWordsActOnTheirObject : Prop :=
  ∀ (w : FmtX) s c tm, findTeam s c.g.team = some tm → tm.site = c.g.site →
    let off := (argOf c w.a 0).toNat % 2 ^ 32
    let o := readBar (clusterOf s c.g.site).sram (tm.block + off)
    let x := (argOf c w.a 1).toNat
    let after := fun (t : State) => readBar (clusterOf t c.g.site).sram (tm.block + off)
    let kept := fun (t : State) (h : Group) => SameRegs c h ∧ Advances c h ∧ (∀ a, rd t.mem a = rd s.mem a) ∧ ∀ p, p < tm.block + off ∨ tm.block + off + 16 ≤ p →
      rd (clusterOf t c.g.site).sram p = rd (clusterOf s c.g.site).sram p
    off % 16 = 0 → off < 16 * tm.nbars →
    (Issues (.barInit w) s c → 0 < x % 2 ^ 16 → x < 2 ^ 47 → ∃ t h, exec (.barInit w) s = .next t ∧ findGroup t c.g.gid = some h ∧ kept t h ∧
      after t = { rbytes := (x / 2 ^ 16 : Nat), ebytes := x / 2 ^ 16, rarr := x % 2 ^ 16, earr := x % 2 ^ 16, phase := 0, err := false, par := false }) ∧
    (∀ i n, (i = Instr.barArr w ∧ n = 1) ∨ (i = Instr.barArrn w ∧ n = x ∧ 0 < x ∧ x < 2 ^ 16) → Issues i s c → o.err = false → o.earr ≠ 0 → n ≤ o.rarr → o.ebytes < 2 ^ 31 →
      c.g.refuse = none → arrivalWaits c.g = [] → ∃ t h, exec i s = .next t ∧ findGroup t c.g.gid = some h ∧ (o.rarr ≠ n ∨ 0 ≤ o.rbytes → kept t h) ∧ Settles o (o.rarr - n) o.rbytes (after t) ∧
        (o.rarr = n → o.rbytes = 0 → ∀ g f, g ∈ t.groups → g.team = c.g.team → f ∈ g.frags → f.wait ≠ .barrier off o.par)) ∧
    (Issues (.barExpb w) s c → x < 2 ^ 31 → o.err = false → o.rbytes + x < 2 ^ 31 → o.ebytes < 2 ^ 31 → ∃ t h, exec (.barExpb w) s = .next t ∧ findGroup t c.g.gid = some h ∧
      (o.rarr ≠ 0 ∨ 0 ≤ o.rbytes + x → kept t h) ∧ Settles o o.rarr (o.rbytes + x) (after t)) ∧
    (∀ p : BitVec 1, Issues (.barWait w p) s c → c.f.wait = .barrierDone → ∃ t h, exec (.barWait w p) s = .next t ∧ findGroup t c.g.gid = some h ∧ kept t h ∧ OnlyGroup s t c.g.gid) ∧
    (∀ p : BitVec 1, o.err = false → o.earr ≠ 0 → c.f.wait ≠ .barrierDone →
      (Issues (.barWait w p) s c → o.par ≠ (p == 1#1) → ∃ t h, exec (.barWait w p) s = .next t ∧ findGroup t c.g.gid = some h ∧ kept t h ∧ OnlyGroup s t c.g.gid) ∧
      (Issues (.barWait w p) s c → o.par = (p == 1#1) → ∃ t h f, exec (.barWait w p) s = .next t ∧ findGroup t c.g.gid = some h ∧ SameRegs c h ∧ Elsewhere s t c.g.gid ∧
        h.frags[c.fi]? = some f ∧ f.pc = c.f.pc ∧ f.wait = .barrier off (p == 1#1)) ∧
      (Issues (.barTry w p) s c → ∃ t h, exec (.barTry w p) s = .next t ∧ findGroup t c.g.gid = some h ∧ OnlyGroup s t c.g.gid ∧
        Delivers c h true false w.d 1 (fun _ => if o.par ≠ (p == 1#1) then 1#64 else 0#64))) ∧
    (Issues (.barQry w) s c → ∃ t h, exec (.barQry w) s = .next t ∧ findGroup t c.g.gid = some h ∧ OnlyGroup s t c.g.gid ∧
      Delivers c h true false w.d 1 (fun _ =>
        BitVec.ofNat 64 ((o.rbytes % 2 ^ 32).toNat * 2 ^ 32 + o.rarr * 2 ^ 16 + o.phase % 2 ^ 14 * 4 + (if o.err then 2 else 0) + (if o.par then 1 else 0))))

/-- 14 R338, R339 (Table 14.3): the checks of the BAR words in their order, with the code and the offset in TRAPV; nothing else happens. A WAIT
whose phase has ended checks nothing any more. -/
def Obligations.BarrierWordsCheckTheirObject : Prop :=
  ∀ (w : FmtX) (p : BitVec 1) s c tm i, findTeam s c.g.team = some tm → Issues i s c →
    i ∈ [Instr.barInit w, .barArr w, .barArrn w, .barExpb w, .barWait w p, .barTry w p, .barQry w] → (i = .barWait w p → c.f.wait ≠ .barrierDone) →
    let off := (argOf c w.a 0).toNat % 2 ^ 32
    let o := readBar (clusterOf s c.g.site).sram (tm.block + off)
    let x := (argOf c w.a 1).toNat
    let n := if i = .barArr w then 1 else x
    let code := fun k => TakesTrap i s c 0x11#8 (BitVec.ofNat 64 (off * 2 ^ 32 + k)) c.f.mask 0#64
    (off % 16 ≠ 0 → code 1) ∧ (off % 16 = 0 → 16 * tm.nbars ≤ off → code 2) ∧
    (off % 16 = 0 → off < 16 * tm.nbars →
      let bad := (i = .barInit w ∧ (x % 2 ^ 16 = 0 ∨ 2 ^ 47 ≤ x)) ∨ (i = .barArrn w ∧ (x = 0 ∨ 2 ^ 16 ≤ x)) ∨ (i = .barExpb w ∧ 2 ^ 31 ≤ x)
      let arr := i = .barArr w ∨ i = .barArrn w
      let wait := i = .barWait w p ∨ i = .barTry w p
      (bad → code 4) ∧ (¬ bad → (arr ∨ wait ∨ i = .barExpb w) → o.err = true → code 3) ∧ (¬ bad → arr ∨ wait → o.err = false → o.earr = 0 → code 7) ∧
      (¬ bad → arr → o.err = false → o.earr ≠ 0 → o.rarr < n → code 5) ∧ (¬ bad → i = .barExpb w → o.err = false → 0x7FFFFFFF < o.rbytes + x → code 6))

/-- 14 R352-R355: SEND writes what it formed as it issued, the active lanes' values and zero elsewhere, to the next slot of the ring of the named team of its grid, in its cluster's SRAM, taking a rate
token to reach another cluster; behind a blocked SEND of its group to that ring, or at a full ring, it keeps its place. RECV takes the oldest full slot once the RECVs that reached the ring before it
have theirs, and else waits in its place; CHQ delivers how many are full, and SLOTS; a channel the team does not have, a team outside the grid and a retired one raise CHANNEL with codes 1, 2 and 3.
Choices of the model in it: logs 43, 46, 73. -/
def Obligations.ChannelWordsMoveSlots : Prop :=
  ∀ (w : FmtX) (k : BitVec 6) s c tm, findTeam s c.g.team = some tm →
    let code := fun i n => TakesTrap i s c 0x10#8 (BitVec.ofNat 64 (n + 256 * k.toNat)) c.f.mask 0#64
    let x := c.sendOf w k
    let mine := fun (q : Claim) => q.isOf c.g.gid (leader c.f.mask) c.f.pc
    (c.blockedSend = none → x.lin = c.g.chteam.toNat % 2 ^ 24 ∧ x.chan = k.toNat ∧ ∀ l, l < 32 → x.slot.getD l 0#32 = if c.f.mask.getLsbD l then op32 c w.a l else 0#32) ∧
    (∀ u r, Issues (.send w k) s c → k.toNat < tm.chans.length → x.lin < tm.gx * tm.gy * tm.gz → gridTeam s tm x.lin = some u → u.status = .resident → u.chans[x.chan]? = some r →
      (sendBehind c.g x = false → r.count < r.slots → u.site = tm.site ∨ (takeTurn c.s c.g.vd (siteDie c.g.site) (.send c.g.gid c.f.pc) 1).1 = true →
        ∃ t h u', exec (.send w k) s = .next t ∧ findGroup t c.g.gid = some h ∧ SameRegs c h ∧ Advances c h ∧ Elsewhere s t c.g.gid ∧ x ∉ h.sends ∧
          findTeam t u.tid = some u' ∧ u'.chans[x.chan]? = some { r with count := r.count + 1 } ∧
          (∀ l, l < 32 → rdBytes (clusterOf t u.site).sram (slotAddr u x.chan r r.count + 4 * l) 4 = (x.slot.getD l 0#32).toNat) ∧
          ∀ p, p < slotAddr u x.chan r r.count ∨ slotAddr u x.chan r r.count + 128 ≤ p → rd (clusterOf t u.site).sram p = rd (clusterOf s u.site).sram p) ∧
      (sendBehind c.g x = true ∨ r.slots ≤ r.count → ∃ t h, exec (.send w k) s = .next t ∧ findGroup t c.g.gid = some h ∧ x ∈ h.sends ∧ h.frags = c.g.frags ∧ SameRegs c h ∧
        Elsewhere s t c.g.gid ∧ t.clusters = s.clusters ∧ t.teams = s.teams)) ∧
    (∀ r, Issues (.recv w k) s c → tm.chans[k.toNat]? = some r →
      let before := r.claims.filter (liveClaim c.s)
      let reg := ((before.find? mine).map Claim.reg).getD (regOf c.g w.d)
      (0 < r.count → before = [] ∨ before.head?.any mine = true → ∃ t h tm' r', exec (.recv w k) s = .next t ∧ findGroup t c.g.gid = some h ∧
        findTeam t c.g.team = some tm' ∧ tm'.chans[k.toNat]? = some r' ∧ r'.count = r.count - 1 ∧ r'.head = (r.head + 1) % r.slots ∧ r'.slots = r.slots ∧
        r'.claims = before.filter (fun q => !mine q) ∧ h.s = c.g.s ∧ h.p = c.g.p ∧ h.t = c.g.t ∧ h.gstat = c.g.gstat ∧ Advances c h ∧ Elsewhere s t c.g.gid ∧
        ∀ q l, l < 32 → vget h q l = if q = reg ∧ c.f.mask.getLsbD l = true then BitVec.ofNat 32 (rdBytes (clusterOf s tm.site).sram (slotAddr tm k.toNat r 0 + 4 * l) 4) else vget c.g q l) ∧
      (r.count = 0 ∨ (before ≠ [] ∧ before.head?.any mine = false) → ∃ t tm' r', exec (.recv w k) s = .next t ∧ findGroup t c.g.gid = some c.g ∧ findTeam t c.g.team = some tm' ∧
        tm'.chans[k.toNat]? = some r' ∧ r'.count = r.count ∧ r'.head = r.head ∧ before <+: r'.claims ∧ r'.claims.any mine = true ∧ Elsewhere s t c.g.gid)) ∧
    (∀ r, Issues (.chq w k) s c → tm.chans[k.toNat]? = some r → ∃ t h, exec (.chq w k) s = .next t ∧ findGroup t c.g.gid = some h ∧ OnlyGroup s t c.g.gid ∧
      Delivers c h true w.n w.d 1 (fun _ => BitVec.ofNat 64 (r.count % 256 + 256 * (r.slots % 256)))) ∧
    (∀ i, i ∈ [Instr.send w k, .recv w k, .chq w k] → Issues i s c → tm.chans.length ≤ k.toNat → code i 1) ∧
    (Issues (.send w k) s c → k.toNat < tm.chans.length → tm.gx * tm.gy * tm.gz ≤ x.lin → code (.send w k) 2) ∧
    (∀ u, Issues (.send w k) s c → k.toNat < tm.chans.length → x.lin < tm.gx * tm.gy * tm.gz → gridTeam s tm x.lin = some u → u.status = .retired → code (.send w k) 3)

/-- 13 R316-R321: a DRAY word that passes its checks, with a free slot and nothing that it releases outstanding, puts its command in a slot with its argument block, delivers the id, moves
to the next id (past 0) and raises S and F as it names scratchpad and memory; a failing check raises its trap. Choices of the model in it: logs 10, 42, 84, 97. -/
def Obligations.DrayWordsTakeASlot : Prop :=
  ∀ (w : FmtX) (k : BitVec 1) i f s c, (i, f) ∈ [(Instr.drayCopy w k, DrayFn.copy), (.drayCopy2d w k, .copy2d), (.drayGather w k, .gather), (.drayScatter w k, .scatter), (.draySpill w k, .spill),
      (.drayGcopy w k, .gcopy), (.drayPut w k, .put), (.drayGet w k, .get), (.drayFill w k, .fill), (.drayPoolfill w k, .poolfill), (.drayPoolcmp w k, .poolcmp), (.drayPoolred w k, .poolred),
      (.drayPub w k, .pub)] → Issues i s c →
    let a : DrayArgs := { ctl := argOf c w.a 0, src := argOf c w.a 1, dst := argOf c w.a 2, aux := argOf c w.a 3 }
    let check := drayCheck f (k == 1#1) a { size := scratchSize c, bars := ((teamOf c).map Team.nbars).getD 0 } c.g.tiles
    (∀ tr, check = some tr → TakesTrap i s c tr.cause tr.val c.f.mask 0#64) ∧
    (check = none → draysAt s c.g.site < 8 → remaindersWait c.s c.g.site = false → (namesScr f a = true → c.g.count .s < 63) → (namesMem f a = true → c.g.count .f < 63) →
      (f = .spill → ∀ j, j < a.nrows → pendingRow c.f.board c.cycle a.tile (a.row0 + j) = false) → ReleaseReady s c (drayScope f a) →
      ∃ t h d, exec i s = .next t ∧ findGroup t c.g.gid = some h ∧ t.drays = s.drays ++ [d] ∧ d.gid = c.g.gid ∧ d.site = c.g.site ∧ d.fn = f.code ∧ d.args = a.list ∧ d.atom = (k == 1#1) ∧
        d.drayId = c.g.drayId ∧ d.done = 0 ∧ d.phase = (if f = .pub then .waiting else .moving) ∧ (f = .spill → d.rows = spillRows c.g a) ∧ d.pc = c.f.pc ∧ d.mask = c.f.mask ∧
        h.drayId = (if c.g.drayId = 0xFFFF#16 then 1#16 else c.g.drayId + 1#16) ∧ (w.d ≠ 96#7 → sget h (w.d.toNat - 96) = c.g.drayId.setWidth 64) ∧
        (∀ q, q ≠ w.d.toNat - 96 → sget h q = sget c.g q) ∧ h.v = c.g.v ∧ h.p = c.g.p ∧ h.t = c.g.t ∧ h.gstat = c.g.gstat ∧
        h.count .s = c.g.count .s + (if namesScr f a then 1 else 0) ∧ h.count .f = c.g.count .f + (if namesMem f a then 1 else 0) ∧ Advances c h ∧ Elsewhere s t c.g.gid)

/-- 13 R324, R326, R327 (Table 13.4): DWAIT.ONE and DWAIT.ALL complete when the command that it named as it issued, or every command that the group issued before it, is out of flight and no
failure is logged, raise DRAYERR with the logged code and id, which leaves the log, and else wait; DRAY.STAT delivers IN-FLIGHT with DONE, FAILED with the code, or 0. -/
def Obligations.DrayWaitsAndStatus : Prop :=
  (∀ (w : FmtX) s c, Issues (.dwaitOne w) s c →
    let id := match c.f.wait with | .dwait (id :: _) => id | _ => (argOf c w.a 0).setWidth 16
    (drayFlying s c.g id = true → ∃ t h f, exec (.dwaitOne w) s = .next t ∧ findGroup t c.g.gid = some h ∧ SameRegs c h ∧ Elsewhere s t c.g.gid ∧ h.frags[c.fi]? = some f ∧
      f.pc = c.f.pc ∧ f.wait = .dwait [id]) ∧
    (drayFlying s c.g id = false → (∀ e, e ∈ c.g.dlog → e.id ≠ id) →
      ∃ t h, exec (.dwaitOne w) s = .next t ∧ findGroup t c.g.gid = some h ∧ SameRegs c h ∧ Advances c h ∧ OnlyGroup s t c.g.gid ∧ h.dlog = c.g.dlog) ∧
    (∀ e, drayFlying s c.g id = false → c.g.dlog.find? (fun x => x.id == id) = some e → ∃ t h, exec (.dwaitOne w) s = .next t ∧ findGroup t c.g.gid = some h ∧ h.trapc = 0x16#64 ∧
      h.trapv = BitVec.ofNat 64 (e.code.toNat + e.id.toNat * 2 ^ 16) ∧ h.dlog = c.g.dlog.erase e ∧ h.status = .stopping .trap ∧ h.v = c.g.v ∧ h.s = c.g.s ∧ Elsewhere s t c.g.gid)) ∧
  (∀ (w : FmtX) s c ids, Issues (.dwaitAll w) s c → ids = (match c.f.wait with | .dwait l => l | _ => dwaitIds s c.g) →
    (∀ id, id ∈ ids → drayFlying s c.g id = true → ∃ t h f, exec (.dwaitAll w) s = .next t ∧ findGroup t c.g.gid = some h ∧ SameRegs c h ∧ Elsewhere s t c.g.gid ∧ h.frags[c.fi]? = some f ∧
      f.pc = c.f.pc ∧ f.wait = .dwait ids) ∧
    ((∀ id, id ∈ ids → drayFlying s c.g id = false) → c.g.dlog = [] → ∃ t h, exec (.dwaitAll w) s = .next t ∧ findGroup t c.g.gid = some h ∧ SameRegs c h ∧ Advances c h ∧ OnlyGroup s t c.g.gid) ∧
    (∀ e l, (∀ id, id ∈ ids → drayFlying s c.g id = false) → c.g.dlog = e :: l → ∃ t h, exec (.dwaitAll w) s = .next t ∧ findGroup t c.g.gid = some h ∧ h.trapc = 0x16#64 ∧
      h.trapv = BitVec.ofNat 64 (e.code.toNat + e.id.toNat * 2 ^ 16) ∧ h.dlog = l ∧ h.status = .stopping .trap ∧ h.v = c.g.v ∧ h.s = c.g.s ∧ Elsewhere s t c.g.gid)) ∧
  (∀ (w : FmtX) s c, Issues (.drayStat w) s c →
    let id := (argOf c w.a 0).setWidth 16
    ∃ t h v, exec (.drayStat w) s = .next t ∧ findGroup t c.g.gid = some h ∧ OnlyGroup s t c.g.gid ∧ (w.d ≠ 96#7 → sget h (w.d.toNat - 96) = v) ∧ h.v = c.g.v ∧ h.p = c.g.p ∧ Advances c h ∧
      (∀ d, s.drays.find? (fun d => d.gid == c.g.gid && d.drayId == id) = some d →
        v = BitVec.ofNat 64 (2 ^ 32 + min (if d.fn = 1#4 then d.done / max (DrayArgs.ofList d.args).len 1 else d.done) (2 ^ 32 - 1))) ∧
      (∀ e, drayFlying s c.g id = false → c.g.dlog.find? (fun x => x.id == id) = some e → v = BitVec.ofNat 64 (2 * 2 ^ 32 + e.code.toNat * 2 ^ 40)) ∧
      (drayFlying s c.g id = false → (∀ e, e ∈ c.g.dlog → e.id ≠ id) → v = 0#64))

/-! ## System words -/

/-- 16 R419-R421; 19 R453: ERET, which waits for W to be zero (log 82), delivers its status: 0 when it queues a stopped group whose frame is good (killing lanes first or not), removes one, or
starts an empty kernel unit at a PC with s1; 1 for a bad action word, which changes nothing else. WFI goes on when a wake condition of its instance holds and else waits; HALT goes on and the SMC
core has halted. Choices of the model in it: log 28. -/
def Obligations.KernelControlWordsComplete : Prop :=
  (∀ (w : FmtX) s c, Issues (.eret w) s c → c.g.cw ≠ [] → exec (.eret w) s = .next { s with cur := none, tried := { gid := c.g.gid, fi := c.fi } :: s.tried }) ∧
  (∀ (w : FmtX) s c v, Issues (.eret w) s c → c.g.cw = [] →
    let act := argOf c w.a 1
    let h := (argOf c w.a 0).toNat % 2 ^ 32
    eretBad c.g.level act = false → findVd c.s (if c.g.level = .m then eretVdn act else c.g.vd) = some v → h < unitCount v.desc →
    (∀ g, groupByHandle c.s v.num h = some g → isStopped c.s g = true → eretOwns c h (some g) = true → g.gid ≠ c.g.gid →
      (eretAct act < 2 → frameOk c.s (unitPa v h) = true → ∃ t k q, exec (.eret w) s = .next t ∧ findGroup t c.g.gid = some k ∧ Delivers c k true false w.d 1 (fun _ => 0#64) ∧
        findGroup t g.gid = some q ∧ q.status = .queued ∧ (eretAct act = 0 → ∀ a, rd t.mem a = rd s.mem a)) ∧
      (eretAct act < 2 → frameOk c.s (unitPa v h) = false → ∃ t k, exec (.eret w) s = .next t ∧ findGroup t c.g.gid = some k ∧ Delivers c k true false w.d 1 (fun _ => 4#64) ∧
        OnlyGroup s t c.g.gid) ∧
      (eretAct act = 2 → ∃ t k, exec (.eret w) s = .next t ∧ findGroup t c.g.gid = some k ∧ Delivers c k true false w.d 1 (fun _ => 0#64) ∧ findGroup t g.gid = none)) ∧
    (∀ tm, eretAct act = 3 → h < 32 → eretOwns c h none = true → groupByHandle c.s v.num h = none → kernelTeamOf c.s v.num (h / 4) = some tm → c.g.gid < c.s.nextId →
      ∃ t k q f, exec (.eret w) s = .next t ∧ findGroup t c.g.gid = some k ∧ Delivers c k true false w.d 1 (fun _ => 0#64) ∧ q ∈ t.groups ∧ q.gid = c.s.nextId ∧ q.vd = tm.vd ∧
        q.handle = 4 * tm.vdie + h % 4 ∧ q.level = .k ∧ q.status = .running ∧ q.frags = [f] ∧ f.pc = argOf c w.a 2 ∧ f.mask = 0xFFFFFFFF#32 ∧
        sget q 1 = BitVec.ofNat 64 ((argOf c w.a 0).toNat / 2 ^ 32))) ∧
  (∀ (w : FmtX) s c, Issues (.eret w) s c → c.g.cw = [] → eretBad c.g.level (argOf c w.a 1) = true → ∃ t k, exec (.eret w) s = .next t ∧ findGroup t c.g.gid = some k ∧
    Delivers c k true false w.d 1 (fun _ => 1#64) ∧ OnlyGroup s t c.g.gid) ∧
  (∀ (w : FmtX) s c d u i, Issues (.wfi w) s c → c.g.site = .core d u → instOf c.s c.g = some i → wfiReady c.s i c.g.num = true → ∃ t h, exec (.wfi w) s = .next t ∧
    findGroup t c.g.gid = some h ∧ SameRegs c h ∧ Advances c h ∧ Elsewhere s t c.g.gid) ∧
  (∀ (w : FmtX) s c d u i, Issues (.wfi w) s c → c.g.site = .core d u → instOf c.s c.g = some i → wfiReady c.s i c.g.num = false → c.f.wait ≠ .wfiDone →
    ∃ t h f, exec (.wfi w) s = .next t ∧ findGroup t c.g.gid = some h ∧ SameRegs c h ∧ Elsewhere s t c.g.gid ∧ h.frags[c.fi]? = some f ∧ f.pc = c.f.pc ∧ f.wait = .wfi) ∧
  (∀ (w : FmtX) s c, Issues (.halt w) s c → ∃ t h, exec (.halt w) s = .next t ∧ findGroup t c.g.gid = some h ∧ SameRegs c h ∧ Advances c h ∧ Elsewhere s t c.g.gid ∧ t.smcHalted = true)

/-- 16 R422 (Tables 16.4-16.6), 00 R8, R9: CSRR delivers the register as it stands and changes nothing else, but for FRTAIL's acquire; CSRW writes GSTAT by writing ones, the defined bits of
GCFG and CHTEAM, and the registers of its group's instance. Choices of the model in it: logs 48, 78 (CYCLE on the SMC core). -/
def Obligations.CsrWordsReadAndWriteTheirRegister : Prop :=
  (∀ (w : FmtL) s c v i n x, Issues (.csrr w) s c → findVd c.s c.g.vd = some v → v.inst c.g.vdie = some i → w.imm.toNat = n →
    (n, x) ∈ [(0x0000, c.g.gstat), (0x0001, c.g.gcfg), (0x0003, c.g.chteam), (0x2002, c.g.wbase), (0x2004, BitVec.ofNat 64 (clusterOf c.s c.g.site).split),
      (0x2005, BitVec.ofNat 64 v.desc.monlim), (0x2008, BitVec.ofNat 64 (cycleOf c.s (siteDie c.g.site))), (0x2010, c.g.trapc), (0x2011, c.g.trappc), (0x2012, c.g.trapv), (0x2013, c.g.trapm),
      (0x4020, BitVec.ofNat 64 i.quant), (0x4022, i.s1tab), (0x4023, i.frbase), (0x4024, i.frhead.setWidth 64), (0x4028, i.ktimer), (0x6021, sweepWord v i),
      (0x6025, BitVec.ofNat 64 (i.frlost.toNat * 2 ^ 32 + i.frtail.toNat)), (0x6026, BitVec.ofNat 64 i.debt), (0x6027, BitVec.ofNat 64 v.saveGpa)] →
    ∃ t h, exec (.csrr w) s = .next t ∧ findGroup t c.g.gid = some h ∧ Delivers c h true false w.d 1 (fun _ => x) ∧ (n ≠ 0x6025 → OnlyGroup s t c.g.gid)) ∧
  (∀ (w : FmtL) s c k f, Issues (.csrr w) s c → w.imm.toNat = 0x2030 + k → k < 8 → s.fields[k]? = some f → ∃ t h, exec (.csrr w) s = .next t ∧ findGroup t c.g.gid = some h ∧
    Delivers c h true false w.d 1 (fun _ => BitVec.ofNat 64 ((if f.pll then f.imeas.toNat else 0) * 2 ^ 32 + f.ilim.toNat)) ∧ OnlyGroup s t c.g.gid) ∧
  (∀ (w : FmtL) s c, Issues (.csrw w) s c → w.imm.toNat < 4 →
    let x := sget c.g (w.d.toNat - 96)
    ∃ t h, exec (.csrw w) s = .next t ∧ findGroup t c.g.gid = some h ∧ Advances c h ∧ OnlyGroup s t c.g.gid ∧
      h = { c.g with gstat := h.gstat, gcfg := h.gcfg, chteam := h.chteam, frags := h.frags, lastFrag := c.fi } ∧
      h.gstat = (if w.imm = 0#16 then c.g.gstat &&& ~~~(x &&& 0xFF#64) else c.g.gstat) ∧ h.gcfg = (if w.imm = 1#16 then x &&& 7#64 else c.g.gcfg) ∧
      h.chteam = (if w.imm = 3#16 then x &&& 0xFFFFFF#64 else c.g.chteam)) ∧
  (∀ (w : FmtL) s c v i, Issues (.csrw w) s c → 4 ≤ w.imm.toNat → findVd c.s c.g.vd = some v → v.inst c.g.vdie = some i →
    let x := sget c.g (w.d.toNat - 96)
    ∃ t h v', exec (.csrw w) s = .next t ∧ findGroup t c.g.gid = some h ∧ SameRegs c h ∧ Advances c h ∧ findVd t c.g.vd = some v' ∧
      v'.inst c.g.vdie = some { i with
        quant := if w.imm = 0x4020#16 then min (max (x.toNat % 65536) 100) 50000 else i.quant
        s1tab := if w.imm = 0x4022#16 then x else i.s1tab
        frbase := if w.imm = 0x4023#16 then x &&& 0x0000FFFFFFFFF00F#64 else i.frbase
        frset := i.frset || w.imm == 0x4023#16
        frhead := if w.imm = 0x4024#16 then x.setWidth 32 else i.frhead
        ktimer := if w.imm = 0x4028#16 then x else i.ktimer } ∧ (w.imm ≠ 0x4023#16 → Elsewhere s t c.g.gid))

/-- 16 R416, R423; 17 R437: RLY.SEND, with its line readable and W at zero, appends the line's bytes to every target's messages under the next sequence number and delivers it, or hands them to
the service queue; bad arguments deliver code 1. RLY.RECV delivers and stores the oldest message, which leaves the queue: its 64 bytes lie in memory at its address, and no other byte changes,
when their home is on the die, and else the die's copy holds them; with none it delivers code 1. RLY.POLL delivers the number of messages in the queue. Choices of the model in it: logs 26, 33. -/
def Obligations.RelayWordsMoveMessages : Prop :=
  (∀ (w : FmtX) s c v, Issues (.rlySend w) s c → c.g.cw = [] → findVd c.s c.g.vd = some v →
    let va := argOf c w.a 0
    let a := argOf c w.a 1
    let bad := va.toNat % 64 ≠ 0 ∨ 2 ^ 9 ≤ a.toNat ∨ (2 ^ 8 ≤ a.toNat ∧ a.toNat % 2 ^ 8 ≠ 0) ∨ (a.toNat < 2 ^ 8 ∧ 2 ^ v.insts.length ≤ a.toNat)
    (bad → ∃ t h, exec (.rlySend w) s = .next t ∧ findGroup t c.g.gid = some h ∧ Delivers c h true false w.d 1 (fun _ => 1#64) ∧ OnlyGroup s t c.g.gid) ∧
    (∀ p, ¬ bad → rlyAccess c .read va = .ok (some p) →
      let bytes := (seenBytes p.2 c.g.vd (siteDie c.g.site) (p.1.at va)).1
      (a.toNat = 2 ^ 8 → ∃ t h, exec (.rlySend w) s = .next t ∧ findGroup t c.g.gid = some h ∧ Delivers c h true false w.d 1 (fun _ => 0#64) ∧
        t.services = s.services ++ [{ vd := c.g.vd, vdie := c.g.vdie, bytes := bytes }] ∧ ∀ x, rd t.mem x = rd s.mem x) ∧
      (a.toNat < 2 ^ 8 → (∀ d, d ∈ relayTargets v a.toNat → hasRoom v d = true) → ∃ t h v', exec (.rlySend w) s = .next t ∧ findGroup t c.g.gid = some h ∧
        Delivers c h true false w.d 1 (fun _ => BitVec.ofNat 64 (v.relaySeq % 2 ^ 32 * 2 ^ 32)) ∧ (∀ x, rd t.mem x = rd s.mem x) ∧ findVd t c.g.vd = some v' ∧
        v'.relaySeq = v.relaySeq + 1 ∧ ∀ d i, d ∈ relayTargets v a.toNat → v.inst d = some i →
          ∃ j, v'.inst d = some j ∧ j.inbox = i.inbox ++ [{ seq := v.relaySeq, src := c.g.vdie, smc := false, ext := false, bytes := bytes }]))) ∧
  (∀ (w : FmtX) s c i, Issues (.rlyRecv w) s c → instOf c.s c.g = some i →
    (i.queue = [] → ∃ t h, exec (.rlyRecv w) s = .next t ∧ findGroup t c.g.gid = some h ∧ Delivers c h true false w.d 1 (fun _ => 1#64) ∧ OnlyGroup s t c.g.gid) ∧
    (∀ m l p, i.queue = m :: l → (argOf c w.a 0).toNat % 64 = 0 → rlyAccess c .write (argOf c w.a 0) = .ok (some p) → ∃ t h j, exec (.rlyRecv w) s = .next t ∧
      findGroup t c.g.gid = some h ∧ Delivers c h true false w.d 1 (fun _ => BitVec.ofNat 64 (if m.smc then 2 ^ 11 else m.seq % 2 ^ 32 * 2 ^ 32 + m.src % 8 * 2 ^ 8)) ∧
      instOf t c.g = some j ∧ j.queue = l ∧
      ∀ va pa, va = (argOf c w.a 0).toNat → pa = p.1.at (argOf c w.a 0) → p.1.va ≤ va → pa % 64 = 0 → paKind pa = .hbm → m.bytes.length = 64 →
        (paDie pa = siteDie c.g.site → p.1.fed = false → (∀ k b, m.bytes[k]? = some b → rd t.mem (pa + k) = b) ∧ ∀ a, a < pa ∨ pa + 64 ≤ a → rd t.mem a = rd s.mem a) ∧
        (paDie pa ≠ siteDie c.g.site → (seenBytes t c.g.vd (siteDie c.g.site) pa).1 = m.bytes))) ∧
  (∀ (w : FmtX) s c i, Issues (.rlyPoll w) s c → instOf c.s c.g = some i → ∃ t h, exec (.rlyPoll w) s = .next t ∧ findGroup t c.g.gid = some h ∧
    Delivers c h true false w.d 1 (fun _ => BitVec.ofNat 64 i.queue.length) ∧ OnlyGroup s t c.g.gid)

/-- 12 R302-R306: XLAT words on good arguments: INVR removes the range's translations from its die's slices, BLOCK and PURGE put their operation on the relay with every slice to answer and d
pending, PROBE delivers what the walk finds, SCRUB leaves zeros in its range (as it read it when it issued) and every other byte as it was, PIN sets bit 51 of the
entry of each leaf, clears it with WONLY = 1, and writes nothing else, where no entry lies in a block with a mismatched check. Choices of the model in it: logs 24, 27, 98 (INVR and PROBE at
privilege M). -/
def Obligations.TranslationWordsComplete : Prop :=
  ∀ (w : FmtX) s c v,
    let x := argOf c w.a 0
    let base := argOf c w.a 1
    let len := argOf c w.a 2
    let die := siteDie c.g.site
    let d := w.d.toNat - 96
    (ReleaseReady s c .package → xlatVd c x = some v → Issues (.xlatInvr w) s c → xArgOk v c.g.level x false = true → xArgKind x = 0 → xRangeOk x base len = true → ∃ t h, exec (.xlatInvr w) s = .next t ∧ findGroup t c.g.gid = some h ∧
      (d ≠ 0 → sget h d = 0#64) ∧ h.v = c.g.v ∧ h.p = c.g.p ∧ Advances c h ∧ Elsewhere s t c.g.gid ∧
      ∀ e, e ∈ t.stc → e.vd = v.num → e.die = die → (die, e.slice) ∈ vdAllSlices c.s v → rangeHits (xArgStage2 x) (xAsid x) base.toNat len.toNat e.asid e.xl = false) ∧
    (∀ i purge, (i, purge) ∈ [(Instr.xlatBlock w, false), (.xlatPurge w, true)] → ReleaseReady s c .package → xlatVd c x = some v → Issues i s c → xArgOk v c.g.level x (!purge) = true → xArgKind x = 0 → xRangeOk x base len = true →
      (purge = true → xArgStage2 x = true → ∀ l, l ∈ s2Leaves c.s v base.toNat len.toNat → l.2.1.getLsbD 51 = false) →
      ∃ t h o y, exec i s = .next t ∧ findGroup t c.g.gid = some h ∧ t.shoots = s.shoots ++ [o] ∧ o.vd = v.num ∧ o.gid = c.g.gid ∧ o.purge = purge ∧ o.stage2 = xArgStage2 x ∧
        o.asid = xAsid x ∧ o.base = base.toNat ∧ o.len = len.toNat ∧ o.wonly = xArgWonly x ∧ o.seq = v.relaySeq ∧ o.pend = vdAllSlices c.s v ∧
        y ∈ h.flights ∧ y.id = o.flight ∧ y.udst = [d] ∧ h.v = c.g.v ∧ h.s = c.g.s ∧ h.p = c.g.p ∧ Advances c h ∧ Elsewhere s t c.g.gid) ∧
    (xlatVd c x = some v → Issues (.xlatProbe w) s c → xArgOk v c.g.level x false = true → xArgKind x ≠ 3 → (xArgAll x = true → xArgStage2 x = true) → ∃ t h, exec (.xlatProbe w) s = .next t ∧
      findGroup t c.g.gid = some h ∧ (d ≠ 0 → sget h d = probeAnswer c.s v (if c.g.level = .m then v.vdieOf die else c.g.vdie) x base) ∧ h.v = c.g.v ∧ h.p = c.g.p ∧ Advances c h ∧
      OnlyGroup s t c.g.gid) ∧
    (∀ b n, Issues (.xlatScrub w) s c → c.f.wait = .scrub b n ∨
        ((∀ b' n', c.f.wait ≠ .scrub b' n') ∧ ReleaseReady s c .package ∧ b = x.toNat ∧ n = base.toNat ∧ b % 65536 = 0 ∧ n % 65536 = 0 ∧ b + n ≤ 2 ^ 40) →
      (∀ r, r ∈ s.reqs → towards b n r = false) → ∃ t h, exec (.xlatScrub w) s = .next t ∧ findGroup t c.g.gid = some h ∧ SameRegs c h ∧ Advances c h ∧ (∀ g, g ≠ c.g.gid → findGroup t g = findGroup s g) ∧
        ∀ a, rd t.mem a = if b ≤ a ∧ a < b + n then 0#8 else rd s.mem a) ∧
    (ReleaseReady s c .package → xlatVd c x = some v → Issues (.xlatPin w) s c → xArgOk v c.g.level x true = true → xArgStage2 x = true → xArgKind x = 0 → xRangeOk x base len = true →
      let ls := s2Leaves c.s v base.toNat len.toNat
      (ls.map (fun l => min (l.2.2.1 + l.2.2.2) (base.toNat + len.toNat) - max l.2.2.1 base.toNat)).sum = len.toNat → (∀ l, l ∈ ls → l.2.1.getLsbD 4 = true) → (∀ l, l ∈ ls → Unmarked s l.1 8) →
      ∃ t h, exec (.xlatPin w) s = .next t ∧ findGroup t c.g.gid = some h ∧ (d ≠ 0 → sget h d = 0#64) ∧ h.v = c.g.v ∧ h.p = c.g.p ∧ Advances c h ∧
        (∀ l, l ∈ ls → (∀ m, m ∈ ls → (m.1 = l.1 ∧ m.2.1 = l.2.1) ∨ m.1 + 8 ≤ l.1 ∨ l.1 + 8 ≤ m.1) →
          rdBytes t.mem l.1 8 = (if xArgWonly x then l.2.1 &&& ~~~0x0008000000000000#64 else l.2.1 ||| 0x0008000000000000#64).toNat) ∧
        ∀ a, (∀ l, l ∈ ls → a < l.1 ∨ l.1 + 8 ≤ a) → rd t.mem a = rd s.mem a)

/-- 16 R424, 06 R157: PWR.DORM delivers STATE; in idle the timer counts as expired, and since the issuing group is itself work (02 R46) R52 starts no collapse but makes the device active (log
71); in another state it does nothing more. DSTK.SPILL moves the deepest resident entries of a stopped group's frame to the spill area and DSTK.FILL takes the highest spilled ones back without
exited lanes, both delivering the new depths, where no check of the frame unit is mismatched; they deliver all ones and move nothing when the handle names no stopped group, a count is out of
bounds, or FILL meets a bad entry. Choices of the model in it: logs 24, 63, 71. -/
def Obligations.DormancyAndFrameWordsComplete : Prop :=
  (∀ (w : FmtX) s c v, Issues (.pwrDorm w) s c → findVd c.s c.g.vd = some v → ∃ t h, exec (.pwrDorm w) s = .next t ∧ findGroup t c.g.gid = some h ∧
    Delivers c h true false w.d 1 (fun _ => match v.state with | .active => 0#64 | .idle => 1#64 | .collapsing => 2#64 | .dormant => 3#64 | .waking => 4#64) ∧
    (v.state ≠ .idle → OnlyGroup s t c.g.gid) ∧
    (v.state = .idle → v.resetting = false → c.f.wait ≠ .wfi → findVd t c.g.vd = some { v with state := .active, timer := false, due := false } ∧ (∀ a, rd t.mem a = rd s.mem a) ∧
      ∀ g, g ≠ c.g.gid → findGroup t g = findGroup s g)) ∧
  (∀ (w : FmtX) s c v g,
    let pa := unitPa v ((argOf c w.a 0).toNat % 2 ^ 32)
    let n := (argOf c w.a 1).toNat
    let res := rdBytes s.mem (pa + 0x44) 1
    let sp := rdBytes s.mem (pa + 0x45) 1
    let entry := fun (i : Nat) => readStack c.s (pa + 0x21000 + 48 * (sp - n + i))
    let fails := fun (i : Instr) => ∃ t h, exec i s = .next t ∧ findGroup t c.g.gid = some h ∧ Delivers c h true false w.d 1 (fun _ => 0xFFFFFFFFFFFFFFFF#64) ∧ OnlyGroup s t c.g.gid
    findVd c.s c.g.vd = some v → stoppedGroup c.s c.g.vd ((argOf c w.a 0).toNat % 2 ^ 32) = some g →
    (Issues (.dstkSpill w) s c → (n = 0 ∨ res ≤ n ∨ 48 < sp + n → fails (.dstkSpill w)) ∧
      (0 < n → n < res → sp + n ≤ 48 → Unmarked s pa 0x22000 → ∃ t h, exec (.dstkSpill w) s = .next t ∧ findGroup t c.g.gid = some h ∧
        Delivers c h true false w.d 1 (fun _ => BitVec.ofNat 64 (res - n + 256 * (sp + n))) ∧ rdBytes t.mem (pa + 0x44) 1 = res - n ∧ rdBytes t.mem (pa + 0x45) 1 = sp + n ∧
        rdList t.mem (pa + 0x21000 + 48 * sp) (48 * n) = rdList s.mem (pa + 0x200) (48 * n) ∧
        (res ≤ 16 → rdList t.mem (pa + 0x200) (48 * (res - n)) = rdList s.mem (pa + 0x200 + 48 * n) (48 * (res - n))))) ∧
    (Issues (.dstkFill w) s c → ((n = 0 ∨ sp < n ∨ 16 < res + n ∨ ∃ i, i < n ∧ entry i = none) → fails (.dstkFill w)) ∧
      (0 < n → n ≤ sp → res + n ≤ 16 → (∀ i, i < n → entry i ≠ none) → Unmarked s pa 0x22000 → ∃ t h, exec (.dstkFill w) s = .next t ∧
        findGroup t c.g.gid = some h ∧ Delivers c h true false w.d 1 (fun _ => BitVec.ofNat 64 (res + n + 256 * (sp - n))) ∧ rdBytes t.mem (pa + 0x44) 1 = res + n ∧
        rdBytes t.mem (pa + 0x45) 1 = sp - n ∧ rdList t.mem (pa + 0x200 + 48 * n) (48 * res) = rdList s.mem (pa + 0x200) (48 * res) ∧
        ∀ i e, i < n → entry i = some e →
          rdList t.mem (pa + 0x200 + 48 * i) 48 = stackBytes (entryWithout (BitVec.ofNat 32 (rdBytes s.mem (pa + 0x40) 4)) e)))) ∧
  (∀ (w : FmtX) i s c, i = Instr.dstkSpill w ∨ i = .dstkFill w → Issues i s c → stoppedGroup c.s c.g.vd ((argOf c w.a 0).toNat % 2 ^ 32) = none → ∃ t h, exec i s = .next t ∧
    findGroup t c.g.gid = some h ∧ Delivers c h true false w.d 1 (fun _ => 0xFFFFFFFFFFFFFFFF#64) ∧ OnlyGroup s t c.g.gid)

/-! ## What the package does of itself: requests, shootdowns, the Dray -/

/-- 02 R43; 11 R256-R258; 12 R285, R291-R294, R312; 15 R368; 16 R399: a bucket gains RREQ tokens up to RBURST; a supervisor core's request goes to its entry slice at once, the oldest of the clusters'
takes a token when nobody older waits; the slice translates it and sends it to its home, with the home that it names, first writing its dirty words of the span home for one that bypasses the copies;
or serves it from the copy that it holds of another die's words, which a store makes dirty; or refuses it when its map says otherwise, or faults and stops the group; a refused one is rehashed under the
new map and, in its turn, sent again. Choices of the model in it: logs 3, 40, 43, 45 (who waits at the entry slice, the wait of a resend, the home that the entry slice names),
53. -/
def Obligations.RequestsReachTheirHome : Prop :=
  let va := fun (r : Req) => (r.lanes.head?.map Access.va).getD 0#64
  let waits := fun (vd die : Nat) (r : Req) => r.vd == vd && r.die == die && r.stage == .egress
  (∀ vd die s v i, findVd s vd = some v → i ∈ v.insts → i.pdie = die → ∃ t v', exec (.tokenRefill vd die) s = .next t ∧ t.groups = s.groups ∧ t.mem = s.mem ∧ findVd t vd = some v' ∧
    { i with tokens := min (i.tokens + v.desc.rreq) v.desc.rburst } ∈ v'.insts) ∧
  (∀ vd die s r, s.reqs.find? (fun r => waits vd die r && !isCluster r.site) = some r →
    ∃ t, exec (.egressRelease vd die) s = .next t ∧ { r with stage := .entry } ∈ t.reqs ∧ t = { s with reqs := t.reqs }) ∧
  (∀ vd die s r, s.reqs.find? (fun r => waits vd die r && !isCluster r.site) = none → leastBy Req.id (s.reqs.filter (waits vd die)) = some r →
    (tokenReady s vd die = true → ticketOlder s vd die r.id = false →
      ∃ t, exec (.egressRelease vd die) s = .next t ∧ { r with stage := .entry } ∈ t.reqs ∧ tokensOf t vd die = (tokensOf s vd die).map (fun n => n - 1) ∧ t.groups = s.groups ∧ t.mem = s.mem) ∧
    (tokenReady s vd die = false ∨ ticketOlder s vd die r.id = true → exec (.egressRelease vd die) s = .next s)) ∧
  (∀ req s r, findReq s req = some r → r.stage = .entry → firstAtEntry s r = true → (findVd s r.vd).isSome = true →
    let mine := entryIn s r.vd r.die (va r).toNat (sliceNew s r.die r.slice)
    (mine ≠ r.slice → ∃ t, exec (.sliceRequest req) s = .next t ∧ { r with stage := .remap, xl := none, reached := false } ∈ t.reqs ∧ t = { s with reqs := t.reqs }) ∧
    (mine = r.slice → spanBusy s r = true → ∃ t, exec (.sliceRequest req) s = .next t ∧ { r with reached := true } ∈ t.reqs ∧ t = { s with reqs := t.reqs }) ∧
    ∀ g x, mine = r.slice → spanBusy s r = false → r.xl = none → reqBlocked s r = false → findGroup s r.gid = some g → g.status = .running → flightOf s r = some x → x.runId = 0 → r.op ≠ .pref →
      (∀ p, translateReq s r = .ok p →
        let pa := fun (a : Access) => p.1.at a.va
        let sent := { r with xl := some p.1, out := some (vecOf p.2 r.vd r.die), home := homeFor p.2 r p.1, gen := homeGen p.2 r p.1, stage := .home }
        let near := paDie (firstPa r p.1) = r.die ∨ paKind (firstPa r p.1) ≠ .hbm ∨ p.1.dev = true
        (near ∨ (r.bypass = false ∧ (holdsSpan s r p.1 = false ∨ r.size = 16)) → ∃ t, exec (.sliceRequest req) s = .next t ∧ sent ∈ t.reqs ∧ t.mem = s.mem) ∧
        (¬ near → r.bypass = true → ∃ t, exec (.sliceRequest req) s = .next t ∧ sent ∈ t.reqs ∧
          ∀ y, y ∈ t.remote → y.vd = r.vd → y.die = r.die → y.slice = r.slice → (∃ w, w ∈ spanWords r p.1 ∧ w.2 / 2 = y.word / 2) → y.dirty = false) ∧
        (¬ near → r.bypass = false → holdsSpan s r p.1 = true → r.op = .load → r.size ≠ 16 → ∃ t q, exec (.sliceRequest req) s = .next t ∧ q ∈ t.reqs ∧ q.id = r.id ∧ q.stage = .reply ∧ t.mem = s.mem ∧
          q.results = r.lanes.map (fun a => { lane := a.lane, p7 := none, value := leNat ((List.range r.size).map (fun j =>
            (((remoteWord s r ((pa a + j) / 4)).map RemoteWord.data).getD 0#32).extractLsb' (8 * ((pa a + j) % 4)) 8)) })) ∧
        (∀ a, ¬ near → r.bypass = false → holdsSpan s r p.1 = true → r.op = .store → r.size ≠ 16 → r.lanes = [a] → ∃ t q, exec (.sliceRequest req) s = .next t ∧ q ∈ t.reqs ∧ q.id = r.id ∧
          q.stage = .reply ∧ t.mem = s.mem ∧ ∀ k y, remoteWord s r (k / 4) = some y → ∃ z, remoteWord t r (k / 4) = some z ∧
            (pa a ≤ k → k < pa a + r.size → z.dirty = true ∧ z.data.extractLsb' (8 * (k % 4)) 8 = BitVec.ofNat 8 (a.data / 2 ^ (8 * (k - pa a)))) ∧
            (k < pa a ∨ pa a + r.size ≤ k → z.data.extractLsb' (8 * (k % 4)) 8 = y.data.extractLsb' (8 * (k % 4)) 8))) ∧
      (∀ f, (∀ h, h ∈ g.frags → h.bonded = false) → (g.flights.map Flight.id).Nodup → translateReq s r = .error f →
        ∃ t h, exec (.sliceRequest req) s = .next t ∧ findReq t req = none ∧ findGroup t r.gid = some h ∧ h.status = .stopping .trap ∧ h.v = g.v ∧ h.s = g.s ∧ t.mem = s.mem ∧
          ∃ y, y ∈ h.flights ∧ y.id = x.id ∧ ∀ a, a ∈ r.lanes → (a.lane, f.cause, f.detail, a.va) ∈ y.faulted)) ∧
  (∀ req s r, findReq s req = some r → r.stage = .remap →
    (∀ new, r.xl = none → new = siteNew s r.die r.site → ((findVd s r.vd).isSome = false ∨ entryIn s r.vd r.die (va r).toNat new ≠ r.slice ∨ sliceNew s r.die r.slice = true) →
      ∃ t q, exec (.remapResend req) s = .next t ∧ q ∈ t.reqs ∧ t.mem = s.mem ∧ t.groups = s.groups ∧
        q = { r with id := s.nextId, stage := .egress, slice := entryIn s r.vd r.die (va r).toNat new, gen := genUnder s r.die new, xl := none, reached := false }) ∧
    (∀ x, r.xl = some x → homeFor s r x ≠ r.home → overtaken s r = false →
      (isCluster r.site = false ∨ (takeTurn s r.vd r.die (.resend req) 1).1 = true → ∃ t q, exec (.remapResend req) s = .next t ∧ q ∈ t.reqs ∧ t.mem = s.mem ∧ t.groups = s.groups ∧
        q = { r with id := s.nextId, stage := .home, home := homeFor s r x, out := some (vecOf s r.vd r.die), gen := homeGen s r x }) ∧
      (isCluster r.site = true → (takeTurn s r.vd r.die (.resend req) 1).1 = false → ∃ t, exec (.remapResend req) s = .next t ∧ t.reqs = s.reqs ∧ t.groups = s.groups ∧ t.mem = s.mem)) ∧
    (∀ x, r.xl = some x → overtaken s r = true → exec (.remapResend req) s = .next s))

/-- 11 R250, R252, R254, R256-R258, R268, R269; 14 R342-R350 (Table 14.4), R358-R362; 15 R365: a request performed at its home. In its own die's HBM a load answers with memory's bytes and a store
writes each lane's and no others, of 16 bytes first the low half and then, as a step of its own, the high one; an atomic or a RED leaves its operation's result, unless its cell holds siblings, RCN
its value under a valid token, with their status; LDSC and LSIB read a cell; WAITA answers or arms a monitor; WAKE frees one or all. A store to a federated cell replaces the siblings that its vector
covers, and joins the rest or is refused. Another die's HBM grants its words to the entry slice's copy, where a store leaves them dirty. Pool memory is plain; lanes that read the same bytes of a device
or of another package receive one value. A write-back leaves the dirty words in memory, but for those of a block with a mismatched check that it does not replace whole (17 R439), and the copies gone.
Choices of the model in it: logs 7, 20, 24 (the refused write-back), 40, 45, 47 (the room of the spill area), 80. -/
def Obligations.HomesPerformRequests : Prop :=
  (∀ req s r x, AtHbm s req r x → paDie (firstPa r x) = r.die →
    let pa := fun (a : Access) => x.at a.va
    let tops := ∀ a, a ∈ r.lanes → pa a % 16 = 0 ∧ x.va ≤ a.va.toNat ∧ a.va.toNat + 16 ≤ 2 ^ 64
    let b := if r.half then 8 else 0
    let one := fun (a : Access) (c : Nat) => r.lanes = [a] ∧ c = pa a / 8 ∧ pa a % r.size = 0
    let plain := fun (t : State) (z : Access) => ∀ p, p < pa z ∨ pa z + r.size ≤ p → rd t.mem p = rd s.mem p
    let mark := fun (t : State) (c : Nat) => sibsOf t c = [{ die := r.die, rcnt := (r.carries s).getD r.die 0, aged := false, value := memCell t c }]
    (r.op = .load → r.size ≠ 16 → ∃ t q, Answers s req r t q ∧ t.mem = s.mem ∧ q.results = r.lanes.map (fun a => { lane := a.lane, value := rdBytes s.mem (pa a) r.size, p7 := none })) ∧
    (r.op = .load → r.size = 16 → tops → ∃ t q, exec (.homePerform req) s = .next t ∧ t.mem = s.mem ∧ t.groups = s.groups ∧ q ∈ t.reqs ∧ q.id = r.id ∧
      (r.half = false → q.stage = .home ∧ q.half = true ∧ q.results = r.lanes.map (fun a => { lane := a.lane, value := rdBytes s.mem (pa a) 8, p7 := none })) ∧
      (r.half = true → q.stage = .reply ∧ q.results = r.lanes.map (fun a =>
        { lane := a.lane, value := ((r.results.find? (fun z => z.lane == a.lane)).map LaneResult.value).getD 0 + rdBytes s.mem (pa a + 8) 8 * 2 ^ 64, p7 := none }))) ∧
    (r.op = .store → x.fed = false → r.size ∈ [1, 2, 4, 8] → (∀ a, a ∈ r.lanes → pa a % r.size = 0) → ∃ t q, Answers s req r t q ∧
      (∀ p, (∀ a, a ∈ r.lanes → p < pa a ∨ pa a + r.size ≤ p) → rd t.mem p = rd s.mem p) ∧
      ∀ l a l', r.lanes = l ++ a :: l' → (∀ b, b ∈ l' → pa b ≠ pa a) → rdBytes t.mem (pa a) r.size = a.data % 2 ^ (8 * r.size)) ∧
    (r.op = .store → x.fed = false → r.size = 16 → tops → ∃ t q, exec (.homePerform req) s = .next t ∧ t.groups = s.groups ∧
      q ∈ t.reqs ∧ q.id = r.id ∧ (r.half = false → q.stage = .home ∧ q.half = true) ∧ (r.half = true → q.stage = .reply) ∧
      (∀ p, (∀ a, a ∈ r.lanes → p < pa a + b ∨ pa a + b + 8 ≤ p) → rd t.mem p = rd s.mem p) ∧
      ∀ l a l', r.lanes = l ++ a :: l' → (∀ c, c ∈ l' → pa c ≠ pa a) → rdBytes t.mem (pa a + b) 8 = a.data / 2 ^ (8 * b) % 2 ^ 64) ∧
    (∀ a c, r.op = .store → x.fed = true → r.size ∈ [1, 2, 4, 8] → one a c →
      let old := sibsOf s c
      let keep := old.filter (fun y => !(y.die == r.die || y.aged || later ((r.carries s).getD y.die 0) y.rcnt))
      let byte := fun (k : Nat) => if pa a % 8 ≤ k ∧ k < pa a % 8 + r.size then BitVec.ofNat 8 (a.data / 2 ^ (8 * (k - pa a % 8))) else ((old.head?.map Sib.value).getD 0#64).extractLsb' (8 * k) 8
      (keep = [] ∨ (keep.length < sibMax s r.vd ∧ (takeEntry s c).isSome = true) → ∃ t q y, Answers s req r t q ∧ q.refused = r.refused ∧ sibsOf t c = insertSib y keep ∧ y.die = r.die ∧ y.aged = false ∧
        y.rcnt = (r.carries s).getD r.die 0 ∧ ∀ k, k < 8 → y.value.extractLsb' (8 * k) 8 = byte k) ∧
      (keep ≠ [] → sibMax s r.vd ≤ keep.length ∨ takeEntry s c = none → ∃ t q, Answers s req r t q ∧ q.refused = some (r.refused.getD a.va) ∧ t.mem = s.mem ∧ sibsOf t c = old)) ∧
    (∀ o a c, r.op = .atomic o ∨ (r.op = .red o ∧ a.merge = .alone ∧ a.terms = []) → one a c → (r.size = 4 ∧ o ∉ [.cas64, .add64] ∨ r.size = 8 ∧ o ∈ [.cas64, .add64]) →
      let old := rdBytes s.mem (pa a) r.size
      let new : Nat := match o with
        | .add => (old + a.data) % 2 ^ 32
        | .fadd => (fadd32 (BitVec.ofNat 32 old) (BitVec.ofNat 32 a.data)).toNat
        | .decp => if (BitVec.ofNat 32 a.data).toInt ≤ (BitVec.ofNat 32 old).toInt then (BitVec.ofNat 32 old - BitVec.ofNat 32 a.data).toNat else old
        | .incw => if a.data % 2 ^ 32 ≤ old then 0 else (old + 1) % 2 ^ 32
        | .min => (BitVec.ofInt 32 (min (BitVec.ofNat 32 old).toInt (BitVec.ofNat 32 a.data).toInt)).toNat
        | .max => (BitVec.ofInt 32 (max (BitVec.ofNat 32 old).toInt (BitVec.ofNat 32 a.data).toInt)).toNat
        | .minu => min old (a.data % 2 ^ 32)
        | .maxu => max old (a.data % 2 ^ 32)
        | .and => old &&& a.data % 2 ^ 32
        | .or => old ||| a.data % 2 ^ 32
        | .xor => old ^^^ a.data % 2 ^ 32
        | .swap => a.data % 2 ^ 32
        | .cas32 => if old = a.data % 2 ^ 32 then a.second % 2 ^ 32 else old
        | .cas64 => if old = a.data % 2 ^ 64 then a.second % 2 ^ 64 else old
        | .add64 => (old + a.data) % 2 ^ 64
      let many := x.fed = true ∧ 2 ≤ (sibsOf s c).length
      (¬ many → ∃ t q, Answers s req r t q ∧ rdBytes t.mem (pa a) r.size = new ∧ plain t a ∧ (x.fed = true → mark t c) ∧
        (x.fed = false → sibsOf t c = [{ die := 0, rcnt := 0, aged := true, value := memCell t c }]) ∧
        q.results = if r.op = .atomic o then [{ lane := a.lane, value := old, p7 := some true }] else []) ∧
      (many → ∃ t q, Answers s req r t q ∧ t.mem = s.mem ∧ sibsOf t c = sibsOf s c ∧
        (r.op = .atomic o → q.sibs = true ∧ q.results = [{ lane := a.lane, value := old, p7 := some false }]) ∧ (r.op = .red o → q.results = [] ∧ q.refused = some (r.refused.getD a.va)))) ∧
    (∀ a c, r.op = .rcn → one a c → r.size ∈ [4, 8] →
      let tok := tokenOf s c
      let tells := fun (t : State) (n : Nat) => ∃ q, Answers s req r t q ∧ q.results = [{ lane := a.lane, value := n, p7 := none }]
      (x.fed = false → ∃ t, tells t 0x02000000 ∧ t.mem = s.mem) ∧ (x.fed = true → tok ≠ a.second → ∃ t, tells t (0x01000000 + tok) ∧ t.mem = s.mem ∧ sibsOf t c = sibsOf s c) ∧
      (x.fed = true → tok = a.second → ∃ t, tells t 1 ∧ rdBytes t.mem (pa a) r.size = a.data % 2 ^ (8 * r.size) ∧ plain t a ∧ mark t c ∧ tokenOf t c = 1)) ∧
    (r.op = .ldsc → r.size ≠ 16 → ∃ t q, Answers s req r t q ∧ t.mem = s.mem ∧
      q.results = r.lanes.map (fun a => { lane := a.lane, value := rdBytes s.mem (pa a) 4 + (if x.fed then tokenOf s (pa a / 8) else 1) * 2 ^ 32, p7 := none })) ∧
    (∀ n, r.op = .lsib n → r.size ≠ 16 → ∃ t q, Answers s req r t q ∧ t.mem = s.mem ∧ q.results = r.lanes.map (fun a =>
      let c := pa a / 8
      let y := if x.fed then (sibsOf s c)[n]? else if n = 0 then some { die := 0, rcnt := 0, aged := false, value := memCell s c } else none
      let v := (y.map (fun q => q.value.toNat)).getD 0
      let dot := if x.fed then (y.map (fun q => q.die * 2 ^ 29 + q.rcnt % 2 ^ 21 * 2 ^ 8 + ((sibsOf s c).length - 1) * 32 + (if q.aged then 16 else 0))).getD 0 else 0
      let tok := if x.fed then tokenOf s c else 1
      { lane := a.lane, value := if r.uni then v + tok * 2 ^ 64 + dot * 2 ^ 96 else v + dot * 2 ^ 64 + tok * 2 ^ 96, p7 := none })) ∧
    (∀ a timed, r.op = .waita timed → r.lanes = [a] → r.size = 4 →
      let v := rdBytes s.mem (pa a) 4
      let tells := fun (n : Nat) => ∃ t q, Answers s req r t q ∧ t.mem = s.mem ∧ t.monitors = s.monitors ∧ q.results = [{ lane := a.lane, value := v * 2 ^ 32 + n, p7 := none }]
      let full := 16 ≤ sliceMonitors s (homeOf s (pa a)) ∨ ((findVd s r.vd).map (fun d => d.desc.monlim)).getD 1024 ≤ vdMonitors s r.vd (homeOf s (pa a)).1
      let many := x.fed = true ∧ 2 ≤ (sibsOf s (pa a / 8)).length
      (many → tells 2) ∧ (¬ many → v ≠ a.data → tells 0) ∧ (¬ many → v = a.data → timed = true → a.second = 0 → tells 7) ∧ (¬ many → v = a.data → (timed = false ∨ a.second ≠ 0) → full → tells 1) ∧
      (¬ many → v = a.data → (timed = false ∨ a.second ≠ 0) → ¬ full → (findGroup s r.gid).isSome = true → ∃ t m, exec (.homePerform req) s = .next t ∧ t.groups = s.groups ∧ t.mem = s.mem ∧
        findReq t req = none ∧ t.monitors = s.monitors ++ [m] ∧ m.vd = r.vd ∧ (m.die, m.slice) = homeOf s (pa a) ∧ m.word = pa a / 4 ∧ m.gid = r.gid ∧ m.flight = r.flight ∧ m.timed = timed ∧
        m.woken = none)) ∧
    (∀ a all, r.op = .wake all → r.lanes = [a] → r.size = 4 →
      let on := fun (m : Monitor) => m.word == pa a / 4 && m.woken == none
      ∃ t q, Answers s req r t q ∧ t.mem = s.mem ∧ q.results = [] ∧ t.monitors.map (fun m => (m.id, m.woken)) = s.monitors.map (fun m =>
        (m.id, if on m ∧ (all = true ∨ (s.monitors.find? on).any (fun f => f.id == m.id) = true) then some (4, rdBytes s.mem (4 * m.word) 4) else m.woken)))) ∧
  (∀ req s r x, AtHbm s req r x → paDie (firstPa r x) ≠ r.die → r.size ≠ 16 →
    let pa := fun (a : Access) => x.at a.va
    let aligned := x.va % 8 = 0 ∧ x.pa % 8 = 0 ∧ ∀ a, a ∈ r.lanes → a.va.toNat % r.size = 0 ∧ x.va ≤ a.va.toNat
    let fresh := ∀ y w, y ∈ s.remote → y.vd = r.vd → y.die = r.die → w ∈ spanWords r x → w.2 / 2 ≠ y.word / 2
    (r.op = .load → r.bypass = false → aligned → r.size ∈ [1, 2, 4, 8] → fresh → ∃ t q, Answers s req r t q ∧ t.mem = s.mem ∧
      q.results = r.lanes.map (fun a => { lane := a.lane, value := rdBytes s.mem (pa a) r.size, p7 := none }) ∧
      ∀ w, w ∈ spanWords r x → ∃ y, remoteWord t r w.2 = some y ∧ y.data = memWord s w.2 ∧ y.dirty = false) ∧
    (r.op = .load → r.bypass = true → (∀ y, y ∈ s.remote → y.fed = false) → ∃ t q, Answers s req r t q ∧ q.results = r.lanes.map (fun a => { lane := a.lane, value := rdBytes t.mem (pa a) r.size, p7 := none }) ∧
      ∀ y w, y ∈ t.remote → y.vd = r.vd → y.die = r.die → w ∈ spanWords r x → w.2 / 2 = y.word / 2 → y.dirty = false) ∧
    (∀ a, r.op = .store → r.bypass = false → r.lanes = [a] → aligned → r.size ∈ [1, 2, 4, 8] → fresh → ∃ t q, Answers s req r t q ∧ t.mem = s.mem ∧
      ∀ k, pa a ≤ k → k < pa a + r.size → ∃ y, remoteWord t r (k / 4) = some y ∧ y.dirty = true ∧ y.data.extractLsb' (8 * (k % 4)) 8 = BitVec.ofNat 8 (a.data / 2 ^ (8 * (k - pa a))))) ∧
  (∀ req s r x, AtItsHome s req r x → x.dev = false → badBlock s r x = false → r.size ≠ 16 →
    let pa := fun (a : Access) => x.at a.va
    let kind := fun k => paKind (firstPa r x) = k ∧ ∀ a, a ∈ r.lanes → paKind (pa a) = k
    (kind .pool → r.op = .load → ∃ t q, Answers s req r t q ∧ t.mem = s.mem ∧ q.results = r.lanes.map (fun a => { lane := a.lane, value := rdBytes s.mem (pa a) r.size, p7 := none })) ∧
    (∀ a, kind .pool → r.op = .store → r.lanes = [a] → ∃ t q, Answers s req r t q ∧ rdBytes t.mem (pa a) r.size = a.data % 256 ^ r.size ∧
      ∀ p, p < pa a ∨ pa a + r.size ≤ p → rd t.mem p = rd s.mem p) ∧
    (kind .coupler → r.op = .load → ∃ t q, ∃ value : Nat → Nat, Answers s req r t q ∧ t.mem = s.mem ∧ q.results = r.lanes.map (fun a => { lane := a.lane, value := value (pa a), p7 := none })) ∧
    (kind .coupler → r.op = .store → ∃ t q, Answers s req r t q ∧ t.mem = s.mem)) ∧
  (∀ req s r x, findReq s req = some r → r.xl = some x → r.stage = .home → x.dev = true → deviceTurn s r = false → exec (.homePerform req) s = .next s) ∧
  (∀ req s r x, AtItsHome s req r x → x.dev = true →
    (deviceTurn s r = true → (∀ a, a ∈ r.lanes → feTarget s (x.at a.va) = none) → ∃ t q, ∃ value : Nat → Nat, Answers s req r t q ∧ t.mem = s.mem ∧
      q.results = if r.op = .store then [] else r.lanes.map (fun a => { lane := a.lane, value := value (x.at a.va), p7 := none }))) ∧
  (∀ die pa s, (∀ r, r ∈ s.remote → r.fed = false) → ∃ t, exec (.remoteWriteback die pa) s = .next t ∧ (∀ r, r ∈ t.remote → r.die = die → r.word / 32 ≠ pa / 128) ∧
    (∀ r, r ∈ s.remote → r.die = die → r.word / 32 = pa / 128 → r.dirty = true → (∀ q, q ∈ s.remote → q.word = r.word → q = r) → s.integrity.contains (r.word / 16) = false → memWord t r.word = r.data) ∧
    (∀ w, s.integrity.contains (w / 16) = true → (∃ i, i < 16 ∧ ∀ r, r ∈ s.remote → r.die = die → r.word = 16 * (w / 16) + i → r.dirty = false) → memWord t w = memWord s w) ∧
    ∀ w, (∀ r, r ∈ s.remote → r.word = w → r.die = die → r.dirty = false) → memWord t w = memWord s w)

/-- 11 R261, R265, R266, R270; 14 R342, R344, R347, R349, R360: an answer writes each of its lanes' registers, one, a pair or four, or its uniform registers, an atomic's its bits of p7, and no others;
with its word's last lane the word completes: its counters drop, as their order allows, and it is in flight no more. The first cause that woke a monitor, or its timeout, gives its waiter reason and
value, frees the monitor, and its fragment no longer waits. Choices of the model in it: logs 46, 53. -/
def Obligations.AnswersWriteTheirRegisters : Prop :=
  (∀ req s r g x, findReq s req = some r → r.stage = .reply → (∀ b, r.op ≠ .waita b) → r.lost = false → findGroup s r.gid = some g → flightOf s r = some x → x.runId = 0 → x.acquire = .none →
    x.dst.Nodup → x.udst.Nodup → (r.results.map LaneResult.lane).Nodup → (∀ y, y ∈ r.results → y.lane < 32) →
    let left := if r.op = .sram then 0#32 else x.left &&& ~~~r.mask
    ∃ t h, exec (.replyArrives req) s = .next t ∧ findReq t req = none ∧ findGroup t r.gid = some h ∧ t.mem = s.mem ∧
      (∀ i q y, x.dst[i]? = some q → y ∈ r.results → vget h q y.lane = BitVec.ofNat 32 (y.value / 2 ^ (32 * i))) ∧
      (∀ p l, l < 32 → (p ∉ x.dst ∨ ∀ y, y ∈ r.results → y.lane ≠ l) → vget h p l = vget g p l) ∧
      (∀ i k y, r.results = [y] → x.udst[i]? = some k → k ≠ 0 → sget h k = BitVec.ofNat 64 (y.value / 2 ^ (64 * i))) ∧ (∀ k, k ∉ x.udst → sget h k = sget g k) ∧
      (∀ y b, y ∈ r.results → y.p7 = some b → (pget h 7).getLsbD y.lane = b) ∧
      (∀ k l, (k ≠ 7 ∨ ∀ y, y ∈ r.results → y.lane = l → y.p7 = none) → (pget h k).getLsbD l = (pget g k).getLsbD l) ∧
      h.gstat &&& 0xFF#64 = (g.gstat ||| (if r.sibs then 0x40#64 else 0#64)) &&& 0xFF#64 ∧ h.refuse = (match g.refuse with | some a => some a | none => r.refused) ∧
      (left ≠ 0#32 → h.cg = g.cg ∧ h.cs = g.cs ∧ h.cf = g.cf ∧ h.cw = g.cw ∧ ∃ y, y ∈ h.flights ∧ y.id = x.id ∧ y.left = left) ∧
      (left = 0#32 → h.cg = markDone g.cg x.id ∧ h.cs = markDone g.cs x.id ∧ h.cf = markDone g.cf x.id ∧ h.cw = markDone g.cw x.id ∧ ∀ y, y ∈ h.flights → y.id ≠ x.id)) ∧
  (∀ mon s m g x, s.monitors.find? (fun m => m.id == mon) = some m → findGroup s m.gid = some g → g.flights.find? (fun x => x.id == m.flight) = some x → x.dst.Nodup → x.udst.Nodup →
    x.mask ≠ 0#32 → x.acquire = .none →
    let ends := fun (e : Instr) (n : Nat) => ∃ t h, exec e s = .next t ∧ (∀ y, y ∈ t.monitors → y.id ≠ mon) ∧ findGroup t m.gid = some h ∧ t.mem = s.mem ∧
      (∀ i q l, x.dst[i]? = some q → l < 32 → x.mask.getLsbD l = true → vget h q l = BitVec.ofNat 32 (n / 2 ^ (32 * i))) ∧
      (∀ i k, x.udst[i]? = some k → k ≠ 0 → sget h k = BitVec.ofNat 64 (n / 2 ^ (64 * i))) ∧
      (∀ y, y ∈ h.flights → y.id ≠ x.id) ∧ ∀ f, f ∈ h.frags → f.wait ≠ .monitor x.id
    (∀ reason value, m.woken = some (reason, value) → ends (.monitorWake mon) (value * 2 ^ 32 + reason)) ∧
    (m.woken = none → m.timed = true → m.due ≤ cycleOf s m.die → ends (.waitaTimeout mon) ((memWord s m.word).toNat * 2 ^ 32 + 7)))

/-- 12 R298, R299, R303, R313, R314; 15 R384-R387: a BLOCK is recorded at a slice and acknowledged; a PURGE, with nothing of its range in flight, removes the range's translations and the slice's
words of it; when all have answered the status is written; a slice-map change writes a map of the slices kept and asks every slice to acknowledge it; a sweep pass takes its snapshot, and at its
end BASE is the snapshot and PASS counts. Choices of the model in it: logs 3, 44, 53, 68, 69. -/
def Obligations.ShootdownsAndSweepsComplete : Prop :=
  (∀ op die slice s o, findShoot s op = some o → (findVd s o.vd).isSome = true → o.purge = false → o.wonly = false → shootTurn s o die slice = true → (∀ b, b ∈ s.blocks → b.op ≠ o.id) →
    ∃ t, exec (.blockAtSlice op die slice) s = .next t ∧ t.mem = s.mem ∧ t.groups = s.groups ∧
      { op := o.id, vd := o.vd, die := die, slice := slice, stage2 := o.stage2, asid := o.asid, base := o.base, len := o.len, wonly := false } ∈ t.blocks ∧
      ∀ q, findShoot t op = some q → (die, slice) ∉ q.pend) ∧
  (∀ op die slice s o v, findShoot s op = some o → findVd s o.vd = some v → o.purge = true → shootTurn s o die slice = true → (∀ r, r ∈ s.reqs → forwardedIn (addBlock s o die slice) o.vd die slice o.stage2 o.asid o.base o.len r = false) →
    ∃ t, exec (.purgeAtSlice op die slice) s = .next t ∧ (∀ q, findShoot t op = some q → (die, slice) ∉ q.pend) ∧
      (∀ e, e ∈ t.stc → e.vd = o.vd → e.die = die → e.slice = slice → rangeHits o.stage2 o.asid o.base o.len e.asid e.xl = false) ∧
      ∀ y, y ∈ t.remote → y.vd = o.vd → y.die = die → y.slice = slice → (o.stage2 = true ∨ o.asid = none ∨ o.asid = some y.asid) →
        (if o.stage2 then y.gpa else y.va) + 4 ≤ o.base ∨ o.base + o.len ≤ (if o.stage2 then y.gpa else y.va)) ∧
  (∀ op s o g x k, findShoot s op = some o → o.pend = [] → findGroup s o.gid = some g → g.flights.find? (fun x => x.id == o.flight) = some x → x.udst = [k] → k ≠ 0 → x.acquire = .none →
    ∃ t h, exec (.shootdownComplete op) s = .next t ∧ findShoot t op = none ∧ findGroup t o.gid = some h ∧ t.mem = s.mem ∧
      sget h k = BitVec.ofNat 64 (o.seq % 2 ^ 32 * 2 ^ 32 + o.failed % 256 * 256)) ∧
  (∀ die keep s, keep &&& liveSlices s die ≠ 0#64 → changeOf s die = none →
    (∀ v, v ∈ s.vds → vdSlices s v die ≠ 0#64 → vdSlices s v die &&& (keep &&& liveSlices s die) ≠ 0#64) →
    ∃ t m, exec (.sliceMapChange die keep) s = .next t ∧ assoc t.mapGen die = (assoc s.mapGen die + 1) % 65536 ∧ t.teams = s.teams ∧ t.groups = s.groups ∧ t.mem = s.mem ∧
      liveSlices t die = liveSlices s die ∧ changeOf t die = some m ∧ m.gone = liveSlices s die &&& ~~~keep ∧ (∀ i, i < 64 → (i ∈ m.slices ↔ (liveSlices s die).getLsbD i = true)) ∧
      ∀ w, w < 64 → m.old[w]? = some (windowMask s die w) ∧ windowMask t die w ≠ 0#64 ∧ windowMask t die w &&& ~~~(keep &&& liveSlices s die) = 0#64) ∧
  (∀ vd s v, findVd s vd = some v → v.state = .active ∨ v.state = .idle → v.sweeping = false → ∃ t v', exec (.sweepPassStart vd) s = .next t ∧ t.mem = s.mem ∧ t.groups = s.groups ∧
    findVd t vd = some v' ∧ v'.sweeping = true ∧ v'.snapshot = countsNow v) ∧
  (∀ vd s v, findVd s vd = some v → v.state = .active ∨ v.state = .idle → v.sweeping = true → ∃ t v', exec (.sweepPassEnd vd) s = .next t ∧ t.mem = s.mem ∧ t.groups = s.groups ∧
    findVd t vd = some v' ∧ v'.sweeping = true ∧ v'.pass = v.pass + 1 ∧ ∀ i, i ∈ v'.insts → i.base = v.snapshot.getD i.pdie 0)

/-- 13 R321-R325, R328, R329, R331; 17 R435: a unit of COPY, COPY2D, GATHER, SCATTER, SPILL or FILL lands its bytes in scratchpad, nothing else there, and credits the object that BAR names; one
of COPY from scratchpad writes memory; what a unit has read of an aligned 8 bytes beyond its own comes first in the next (R323). A command whose units are done leaves its slot and its counters, a
PUT once it is acknowledged, when its counter has counted, as failed when a failure was found; a PUB's slices block its buffer and answer, and the swap point inverts FRONT and counts GEN;
remainders take slots again; DevLoad sets the pace. Choices of the model in it: logs 24, 31, 32, 42, 61. -/
def Obligations.DrayCommandsProgress : Prop :=
  (∀ cmd s d g tm, s.drays.find? (fun d => d.id == cmd) = some d → findGroup s d.gid = some g → g.status = .running → findTeam s g.team = some tm → tm.site = d.site → d.fault = none → d.err = none →
    let a := DrayArgs.ofList d.args
    let fn := fnOfCode d.fn
    let front := fun (k n : Nat) => ((match d.ahead with
      | some (x, l) => if x = BitVec.ofNat 64 k then l else []
      | none => []) : List (BitVec 8)).take n
    let o := readBar (clusterOf s d.site).sram (tm.block + 16 * a.bar)
    let bytes := fun (p n : Nat) => front p n ++ rdList (clusterOf s d.site).sram (tm.block + p + (front p n).length) (n - (front p n).length)
    let index := rdBytes (clusterOf s d.site).sram (tm.block + a.aux.toNat + 4 * d.done) 4
    let lands := fun (k q : Nat) (bs : List (BitVec 8)) => (a.bar = 255 ∨ (16 * a.bar + 16 ≤ q ∧ o.err = false ∧ o.ebytes < 2 ^ 31 ∧ -2 ^ 31 ≤ o.rbytes - bs.length)) →
      ∃ t, exec (.drayUnitDone cmd) s = .next t ∧ Lands s t cmd d tm k q bs
    (fn = .copy → a.ssp = true → a.dsp = true → d.done < a.len →
      let n := min (a.len - d.done) (128 - (a.dst.toNat + d.done) % 128)
      lands n (a.dst.toNat + d.done) (bytes (a.src.toNat + d.done) n)) ∧
    (∀ p q : Nat, fn = .copy2d → a.ssp = true → a.dsp = true → d.done < a.rows * a.len → (p : Int) = a.src.toNat + (d.done / a.len : Nat) * a.sstride + (d.done % a.len : Nat) →
      (q : Int) = a.dst.toNat + (d.done / a.len : Nat) * a.dstride + (d.done % a.len : Nat) →
      let n := min (a.len - d.done % a.len) (128 - q % 128)
      lands n q (bytes p n)) ∧
    (fn = .gather → a.ssp = true → a.dsp = true → d.done < a.len → a.src.toNat + index * a.esize + a.esize ≤ tm.scratch →
      lands 1 (a.dst.toNat + d.done * a.esize) (bytes (a.src.toNat + index * a.esize) a.esize)) ∧
    (fn = .scatter → a.ssp = true → a.dsp = true → d.done < a.len → 16 * tm.nbars ≤ a.dst.toNat + index * a.esize → a.dst.toNat + index * a.esize + a.esize ≤ tm.scratch →
      lands 1 (a.dst.toNat + index * a.esize) (bytes (a.src.toNat + d.done * a.esize) a.esize)) ∧
    (∀ (q : Nat) row, fn = .spill → a.dsp = true → d.done < a.nrows → (q : Int) = a.dst.toNat + d.done * a.dstride → d.rows[d.done]? = some row →
      lands 1 q (row.flatMap (fun w => leBytes w.toNat 4))) ∧
    (fn = .fill → a.dsp = true → d.done < a.len →
      let n := min (a.len - d.done) (128 - (a.dst.toNat + d.done) % 128)
      lands n (a.dst.toNat + d.done) ((List.range n).map (fun j => BitVec.ofNat 8 (a.src.toNat / 2 ^ (8 * ((d.done + j) % a.esize)))))) ∧
    (∀ x s3, fn = .copy → a.ssp = false → a.dsp = true → d.done < a.len →
      let n := min (a.len - d.done) (128 - (a.dst.toNat + d.done) % 128)
      let from_ := a.src + BitVec.ofNat 64 d.done
      let turn := takeTurn s d.vd d.die (.unit d.id) ((from_.toNat % 128 + n + 127) / 128)
      let have_ := front from_.toNat n
      let va := from_ + BitVec.ofNat 64 have_.length
      let m := n - have_.length
      turn.1 = true → va.toNat % 65536 + m ≤ 65536 → drayXl turn.2 d .drayRead m va = .ok (x, s3) → x.dev = false → paKind (x.at va) = .hbm → s.failed.contains (paDie (x.at va)) = false →
      chanHeld s (x.at va) = false → badBlocks s [(x.at va, m)] = [] → (∀ y, y ∈ s.remote → y.vd = d.vd → y.die = d.die → y.dirty = false) →
      lands n (a.dst.toNat + d.done) (have_ ++ rdList s.mem (x.at va) m)) ∧
    (∀ x s3, fn = .copy → a.ssp = true → a.dsp = false → d.done < a.len →
      let va := a.dst + BitVec.ofNat 64 d.done
      let n := min (a.len - d.done) (128 - va.toNat % 128)
      let turn := takeTurn s d.vd d.die (.unit d.id) ((va.toNat % 128 + n + 127) / 128)
      turn.1 = true → drayXl turn.2 d .drayWrite n va = .ok (x, s3) → x.dev = false → x.fed = false → paKind (x.at va) = .hbm → s.failed.contains (paDie (x.at va)) = false →
      chanHeld s (x.at va) = false → keptBlocks s [(x.at va, n)] = [] →
      ∃ t d', exec (.drayUnitDone cmd) s = .next t ∧ t.drays.find? (fun d => d.id == cmd) = some d' ∧ d'.done = d.done + n ∧ (clusterOf t d.site).sram = (clusterOf s d.site).sram ∧
        rdList t.mem (x.at va) n = bytes (a.src.toNat + d.done) n ∧ ∀ p, p < x.at va ∨ x.at va + n ≤ p → rd t.mem p = rd s.mem p)) ∧
  (∀ cmd s d g, s.drays.find? (fun d => d.id == cmd) = some d → findGroup s d.gid = some g →
    let leaves := fun (t : State) (h : Machine.Group) => (∀ c, c ∈ t.drays → c.id ≠ cmd) ∧ findGroup t d.gid = some h ∧ h.cf = markDone g.cf cmd ∧ h.cs = markDone g.cs cmd
    let a := DrayArgs.ofList d.args
    (d.fault = none → d.err = none → fnOfCode d.fn ≠ .put → (fnOfCode d.fn = .pub → d.phase = .finished) → (fnOfCode d.fn ≠ .pub → drayTotal (fnOfCode d.fn) a ≤ d.done) →
      ∃ t h, exec (.drayComplete cmd none) s = .next t ∧ t.mem = s.mem ∧ leaves t h ∧ h.dlog = g.dlog ∧ h.gstat = g.gstat ||| (if d.sibs then 0x40#64 else 0#64)) ∧
    (∀ e, d.err = some e → ∃ t h, exec (.drayComplete cmd none) s = .next t ∧ t.mem = s.mem ∧ leaves t h ∧
      h.gstat.getLsbD 7 = true ∧ h.dlog.getLast? = some { id := d.drayId, code := match e with | .space => 0x10#8 | .index => 0x11#8 | .device => 0x12#8 | .abort => 0x13#8 }) ∧
    (fnOfCode d.fn = .put → d.fault = none → d.err = none → (a.len ≤ d.done → d.target = none → ∃ t h, exec (.putAcknowledged cmd) s = .next t ∧ t.mem = s.mem ∧ leaves t h) ∧
      (d.done < a.len → exec (.putAcknowledged cmd) s = .next s) ∧ exec (.drayComplete cmd none) s = .next s) ∧
    (∀ k p v, fnOfCode d.fn = .put → d.fault = none → d.err = none → a.len ≤ d.done → d.target = some k → s.paths.find? (fun p => p.vd == d.vd && p.pkg == k.1 && p.win == k.2) = some p →
      findVd s p.vd = some v →
      let at_ := BitVec.ofNat 64 p.cntva
      let held := blockHits s v (v.pdie 0) (entrySlice s p.vd (v.pdie 0) p.cntva) p.asid .write at_
      (held = true → exec (.putAcknowledged cmd) s = .next s) ∧
      (∀ x, held = false → walk s v 0 p.asid false .write 8 at_ = .ok x →
        let pa := x.at at_
        let old := rdBytes s.mem pa 8
        (lockHeld s pa 8 = true → exec (.putAcknowledged cmd) s = .next s) ∧
        (lockHeld s pa 8 = false → chanHeld s pa = false → badBlocks s [(pa, 8)] ≠ [] → ∃ t h, exec (.putAcknowledged cmd) s = .next t ∧ leaves t h ∧ t.mem = s.mem) ∧
        (lockHeld s pa 8 = false → chanHeld s pa = false → badBlocks s [(pa, 8)] = [] → pa % 8 = 0 → ∃ t h, exec (.putAcknowledged cmd) s = .next t ∧ leaves t h ∧
          rdBytes t.mem pa 8 = old / 2 ^ 63 * 2 ^ 63 + (old + 1) % 2 ^ 63 ∧ ∀ q, q < pa ∨ pa + 8 ≤ q → rd t.mem q = rd s.mem q)))) ∧
  (∀ handle vd s g r l, s.groups.find? (fun g => g.handle == handle && g.vd == vd && (g.status == .running || g.status == .draining)) = some g → findGroup s g.gid = some g → g.remainders = r :: l →
    draysAt s g.site < 8 → g.count .s < 63 → g.count .f < 63 → ∃ t h d, exec (.drayRemainderResume handle vd) s = .next t ∧ t.mem = s.mem ∧ t.drays = s.drays ++ [d] ∧ d.gid = g.gid ∧
      d.drayId = r.id ∧ d.done = r.done ∧ d.args = [r.ctl, r.src, r.dst, r.aux] ∧
      (∀ k, g.kept.find? (fun k => k.id == r.id) = some k → d.pc = k.pc ∧ d.mask = k.mask ∧ d.sibs = k.sibs ∧ d.order = k.order ∧ d.differ = k.differ ∧ d.ahead = k.ahead) ∧
      findGroup t g.gid = some h ∧ h.remainders = l ∧ h.v = g.v ∧ h.s = g.s) ∧
  (∀ port vd (load : BitVec 2) s, ∃ t, exec (.poolResponse port vd load) s = .next t ∧ t = { s with pace := t.pace } ∧
    assoc t.pace (port * 64 + vd) = (match load.toNat with | 0 => 0 | 1 => assoc s.pace (port * 64 + vd) | 2 => max (assoc s.pace (port * 64 + vd)) 1 | _ => 2)) ∧
  (∀ cmd die slice s d v b, s.drays.find? (fun d => d.id == cmd) = some d → d.phase = .blocking → d.fault = none → d.err = none → (die, slice) ∈ d.pend → findVd s d.vd = some v →
    publishBuffer s d (DrayArgs.ofList d.args).dst = .ok (some b) → ((DrayArgs.ofList d.args).param = 1 → relayTurn s d.vd die d.seq = true) → (∀ k, k ∈ s.blocks → k.op ≠ d.id) →
    let new : BlockRec := { op := d.id, vd := d.vd, die := die, slice := slice, stage2 := false, asid := none, base := b.2.1, len := b.2.2, wonly := false }
    (∀ r, r ∈ s.reqs → forwardedIn { s with blocks := new :: s.blocks } d.vd die slice false none b.2.1 b.2.2 r = false) →
    ∃ t d', exec (.pubSliceBlock cmd die slice) s = .next t ∧ new ∈ t.blocks ∧ t.drays.find? (fun d => d.id == cmd) = some d' ∧ (die, slice) ∉ d'.pend) ∧
  (∀ cmd s d v b l, s.drays.find? (fun d => d.id == cmd) = some d → d.phase = .blocking → d.fault = none → d.err = none → d.pend = [] → findVd s d.vd = some v →
    publishBuffer s d (DrayArgs.ofList d.args).dst = .ok (some b) → stage2 s v (b.1 + 0x10) = .ok l →
    let pa := l.at (b.1 + 0x10)
    let old := rdBytes s.mem pa 8
    (lockHeld s pa 8 = true ∨ chanHeld s pa = true → exec (.swapPoint cmd) s = .next s) ∧
    (lockHeld s pa 8 = false → chanHeld s pa = false → badBlocks s [(pa, 8)] = [] → ∃ t d', exec (.swapPoint cmd) s = .next t ∧ rdBytes t.mem pa 8 = (old / 2 + 1) % 2 ^ 63 * 2 + (1 - old % 2) ∧ (∀ p, p < pa ∨ pa + 8 ≤ p → rd t.mem p = rd s.mem p) ∧
      t.drays.find? (fun d => d.id == cmd) = some d' ∧ d'.phase = .finished ∧ ∀ k, k ∈ t.blocks → k.op ≠ d.id))

/-! ## Groups that stop and return, teams, records -/

/-- No field is being recalibrated, so a wake event ends no recalibration (17 R428). -/
def NoRecal (s : State) : Prop := ∀ f, f ∈ s.fields → f.recal = false

/-- A group is the one its handle names, and the package has it. -/
def Named (s : State) (vd handle : Nat) (g : Group) : Prop := groupByHandle s vd handle = some g ∧ findGroup s g.gid = some g

/-- A group has been restored from the frame at pa (16 R400, R412, Tables 16.7, 16.8; 06 R133, Table 6.1): fragments, exited lanes, registers, tiles, stack, status, trap registers and replay entries
are what its bytes say. -/
structure FromFrame (s : State) (pa : Nat) (g h : Machine.Group) : Prop where
  frags : h.frags.map (fun f => (f.pc, f.mask)) = (List.range 2).filterMap (fun k => if rdBytes s.mem (pa + 0x2C + 16 * k) 4 % 2 = 1 then
    some (BitVec.ofNat 64 (rdBytes s.mem (pa + 0x20 + 16 * k) 8), BitVec.ofNat 32 (rdBytes s.mem (pa + 0x28 + 16 * k) 4)) else none)
  lanes : h.exited = BitVec.ofNat 32 (rdBytes s.mem (pa + 0x40) 4) ∧ h.spilled = rdBytes s.mem (pa + 0x45) 1
  unis : sget h 0 = 0#64 ∧ ∀ k, 0 < k → k < 24 → sget h k = BitVec.ofNat 64 (rdBytes s.mem (pa + 0x100 + 8 * k) 8)
  preds : ∀ k, 0 < k → k < 8 → pget h k = BitVec.ofNat 32 (rdBytes s.mem (pa + 0x1C0 + 4 * k) 4)
  vregs : ∀ k l, k < g.vregs → l < 32 → vget h k l = BitVec.ofNat 32 (rdBytes s.mem (pa + 0x1000 + 128 * k + 4 * l) 4)
  tiles : ∀ k i j, k < g.tiles → i < 32 → j < 32 → tget h k i j = BitVec.ofNat 32 (rdBytes s.mem (pa + 0x1000 + 128 * g.vregs + 4096 * k + 128 * i + 4 * j) 4)
  regs : h.gstat = BitVec.ofNat 64 (rdBytes s.mem (pa + 0x50) 8) &&& 0x7FF#64 ∧ h.wbase = BitVec.ofNat 64 (rdBytes s.mem (pa + 0x68) 8) &&& 0xFFFF#64 ∧
    h.trappc = BitVec.ofNat 64 (rdBytes s.mem (pa + 0x78) 8) ∧ h.trapv = BitVec.ofNat 64 (rdBytes s.mem (pa + 0x80) 8)
  stack : let n := rdBytes s.mem (pa + 0x44) 1
    (∀ i, i < n → readStack s (pa + 0x200 + 48 * i) ≠ none) → h.stack.length = n ∧ ∀ i e, i < n → h.stack[n - 1 - i]? = some e →
      let q := fun (off k : Nat) => rdBytes s.mem (pa + 0x200 + 48 * i + off) k
      (q 0 8 % 2 = 1 → e.rpc = none) ∧ (q 0 8 % 2 = 0 → ∃ x, e.rpc = some x ∧ x.toNat % 2 ^ 57 = q 0 8 / 4 * 4) ∧ e.ppc.toNat % 2 ^ 57 = q 8 8 / 4 * 4 ∧ e.origin.toNat % 2 ^ 57 = q 0x10 8 / 4 * 4 ∧
      e.rmask.toNat = q 0x18 4 ∧ e.arr.toNat = q 0x1C 4 ∧ e.pmask.toNat = q 0x20 4
  replay : h.replay.map (fun r => (r.pc.toNat, r.word.toNat, r.mask.toNat, r.frag)) = (List.range (rdBytes s.mem (pa + 0x46) 1)).map (fun i =>
    let q := fun (off k : Nat) => rdBytes s.mem (pa + 0x500 + 32 * i + off) k
    (q 0 8, q 8 4, q 12 4, q 18 1))
  flow : h.status = (if h.exited = 0xFFFFFFFF#32 ∧ h.replay = [] then .draining else .running) ∧ h.flights = [] ∧ h.cg = [] ∧ h.cs = [] ∧ h.cf = [] ∧ h.cw = []

/-- 16 R395, R399, R400, R407, R410, R412; 12 R315: a stopped group with nothing left in flight is saved: its frame's first bytes and uniform registers stand in its unit, and it keeps what it holds.
When the save ends it is stopped and its TRAP record posted; the last group of a team being pre-empted, whatever it stopped for, takes the team's scratchpad to its scratch block, which the frame of
group 0 names. A save write that faults holds a trapped group in its slot. A resumed group with room takes its place again with what the bytes of its frame say. No check of what is written is
mismatched. Choices of the model in it: logs 17, 18, 24, 41, 47, 50. -/
def Obligations.StoppedGroupsAreSavedAndRestored : Prop :=
  (∀ vd handle s g v why, Named s vd handle g → findVd s vd = some v → g.status = .stopping why → setMates s g = [] → (∀ r, r ∈ s.reqs → r.gid ≠ g.gid) →
    (∀ d, d ∈ s.drays → d.gid ≠ g.gid) → (∀ o, o ∈ s.shoots → o.gid ≠ g.gid) → (∀ m, m ∈ s.monitors → m.gid ≠ g.gid) → saveFaults s v g = false → lockHeld s (unitPa v handle) 0x21000 = false →
    Unmarked s (unitPa v handle) 0x1C0 →
    ∃ t h, exec (.groupStop vd handle) s = .next t ∧ findGroup t g.gid = some h ∧ h.status = .saving why ∧ h.flights = [] ∧ h.v = g.v ∧ h.s = g.s ∧ h.p = g.p ∧ h.t = g.t ∧
      h.stack = g.stack ∧ h.wbase = g.wbase ∧ h.frags.map (fun f => (f.pc, f.mask)) = g.frags.map (fun f => (f.pc, f.mask)) ∧
      rdBytes t.mem (unitPa v handle) 4 = 0x58434649 ∧ ∀ i, i < 24 → rdBytes t.mem (unitPa v handle + 0x100 + 8 * i) 8 = (sget g i).toNat) ∧
  (∀ vd handle s g v i, Named s vd handle g → findVd s vd = some v → v.inst g.vdie = some i → g.status = .saving .trap → g.trapc.setWidth 8 ≠ causeXlat2 →
    (∀ tm b, findTeam s g.team = some tm → tm.grace ≠ 0 → tm.saveBlk = some b → areaFaults s v b tm.size true = false) →
    ∃ t v' i', exec (.saveComplete vd handle) s = .next t ∧ findGroup t g.gid = some { g with status := .stopped .trap, refault := false } ∧ findVd t vd = some v' ∧ v'.inst g.vdie = some i' ∧
      i'.records = i.records ++ [trapRecord s g] ∧ ((∀ tm, findTeam s g.team = some tm → tm.grace = 0) → t.mem = s.mem)) ∧
  (∀ vd handle s g v, Named s vd handle g → findVd s vd = some v → g.status = .saving .collapse →
    ∃ t, exec (.saveComplete vd handle) s = .next t ∧ findGroup t g.gid = some { g with status := .stopped .collapse, refault := false } ∧ t.mem = s.mem) ∧
  (∀ vd handle s g v tm b why, Named s vd handle g → findVd s vd = some v → g.status = .saving why → why ≠ .collapse → findTeam s g.team = some tm → tm.grace ≠ 0 → tm.saveBlk = some b → areaFaults s v b tm.size true = false →
    (∀ h, h ∈ s.groups → h.team = tm.tid → h.gid ≠ g.gid → h.status = .queued ∨ ∃ w, h.status = .stopped w) →
    Unmarked s (v.desc.saveBase + b) tm.size → (∀ h, h ∈ s.groups → unitPa v h.handle + 0x18 ≤ v.desc.saveBase + b ∨ v.desc.saveBase + b + tm.size ≤ unitPa v h.handle + 0x14) → ∃ t u, exec (.saveComplete vd handle) s = .next t ∧
      findTeam t g.team = some u ∧ u.status = .saved ∧ u.saveBlk = some b ∧
      rdList t.mem (v.desc.saveBase + b) tm.size = rdList (clusterOf s tm.site).sram tm.block tm.size ∧
      ∀ q, teamGroup s g.team 0 = some q → Unmarked s (unitPa v q.handle + 0x14) 4 → rdBytes t.mem (unitPa v q.handle + 0x14) 4 = b / 65536 % 2 ^ 32) ∧
  (∀ vd handle s g v, Named s vd handle g → findVd s vd = some v → g.status = .stopping .trap → settled s g = true → saveFaults s v g = true →
    ∃ t v', exec (.saveWriteFault vd handle) s = .next t ∧ findGroup t g.gid = some { g with status := .held .trap, refault := true } ∧ findVd t vd = some v' ∧ v'.savef = true ∧ vd ∈ t.smcTold ∧
      t.mem = s.mem) ∧
  (∀ vd handle s g v tm q, Named s vd handle g → findVd s vd = some v → g.status = .queued → findTeam s g.team = some tm → resident tm = true → tm.grace = 0 → setMates s g = [] →
    seatAll s tm.site [] [g] = some [q] → ∃ t h, exec (.groupRestore vd handle) s = .next t ∧ findGroup t g.gid = some h ∧ h.site = tm.site ∧ h.slot = q.slot ∧ FromFrame s (unitPa v handle) g h ∧ t.mem = s.mem)

/-- 16 R402, R403, R407-R409, R416, R420; 17 R426, R427: the oldest record is written to its place in the ring and the tail moves on; one whose write would fault at stage 2 is held and the SMC
told; in a full ring a TRAP record waits and another is discarded and counted. A quantum's end pre-empts the team when another waits, and begins a new quantum when none does or the team cannot be
saved; 500 us later, with the team unsettled, the watchdog leaves no group of the virtual device on the cluster. A drained group goes; a team without groups retires. WFI ends on a wake condition;
a message joins the queue in its turn, one from over the Coupler when its virtual device is awake, which it else wakes with cause 4. Choices of the model in it: logs 24, 47, 48, 66, 67 (which messages are
wake events), 81. -/
def Obligations.RecordsQuantaAndRetirement : Prop :=
  (∀ vd vdie s v i r l x, findVd s vd = some v → v.inst vdie = some i → ringFull i = false → i.records = r :: l →
    let gpa := (i.frbase &&& 0x0000FFFFFFFFF000#64).toNat + 64 * (i.frtail.toNat % ringSize i)
    stage2 s v gpa = .ok x → x.w = true → (r.type = 2 → v.state = .active ∨ v.state = .idle) → lockHeld s (x.at gpa) 64 = false → x.at gpa % 64 = 0 ∨ Unmarked s (x.at gpa) 64 →
    ∃ t v' i', exec (.faultRecordPost vd vdie) s = .next t ∧ rdList t.mem (x.at gpa) 64 = recordBytes r (cycleOf s i.pdie) ∧
      (∀ p, p < x.at gpa ∨ x.at gpa + 64 ≤ p → rd t.mem p = rd s.mem p) ∧ findVd t vd = some v' ∧ v'.inst vdie = some i' ∧ i'.records = l ∧ i'.frtail = i.frtail + 1#32) ∧
  (∀ vd vdie s v i, findVd s vd = some v → v.inst vdie = some i → ringFull i = false → i.records ≠ [] →
    let place := stage2 s v ((i.frbase &&& 0x0000FFFFFFFFF000#64).toNat + 64 * (i.frtail.toNat % ringSize i))
    ((∃ e, place = .error e) ∨ ∃ x, place = .ok x ∧ x.w = false) → ∃ t, exec (.faultRecordPost vd vdie) s = .next t ∧ t = { s with smcTold := t.smcTold } ∧ vd ∈ t.smcTold) ∧
  (∀ vd vdie s v i, findVd s vd = some v → v.inst vdie = some i → ringFull i = true → (∃ r, r ∈ i.records ∧ r.type ≠ 1) →
    ∃ t v' i', exec (.faultRecordPost vd vdie) s = .next t ∧ t.mem = s.mem ∧ findVd t vd = some v' ∧ v'.inst vdie = some i' ∧ i'.frlost = i.frlost + 1#32 ∧
      i'.frtail = i.frtail ∧ i'.records = dropFirst (fun r => r.type != 1) i.records) ∧
  (∀ vd vdie s v i, findVd s vd = some v → v.inst vdie = some i → ringFull i = true → (∀ r, r ∈ i.records → r.type = 1) → Stays (.faultRecordPost vd vdie) s) ∧
  (∀ tid s tm v, findTeam s tid = some tm → tm.kernel = false → resident tm = true → tm.grace = 0 → tm.quantum ≤ cycleOf s (siteDie tm.site) → findVd s tm.vd = some v →
    (∀ b, teamWaits s v tm.vdie (teamPrio s tm) = true → poolFor s v tm.size = some b → ∃ t, exec (.quantumExpires tid) s = .next t ∧
      findTeam t tid = some { tm with saveBlk := some b, grace := cycleOf s (siteDie tm.site) + 1 } ∧ t.mem = s.mem ∧
      ∀ g, g ∈ s.groups → g.team = tid → g.status = .running → inBonded g = false → { g with status := .stopping .preempt } ∈ t.groups) ∧
    (∀ i, teamWaits s v tm.vdie (teamPrio s tm) = false ∨ poolFor s v tm.size = none → v.instAt (siteDie tm.site) = some i → ∃ t, exec (.quantumExpires tid) s = .next t ∧
      findTeam t tid = some { tm with quantum := cycleOf s (siteDie tm.site) + max (i.quant - i.debt) (i.quant / 4) * cyclesPerUs s (siteDie tm.site) } ∧
      t.groups = s.groups ∧ t.mem = s.mem)) ∧
  (∀ die cluster s tm, (teamsAt s (.cluster die cluster)).find? (fun t => t.grace != 0 && decide (t.quantum + 500 * cyclesPerUs s die ≤ cycleOf s die) && s.groups.any (fun g => g.team == t.tid && unsettled g)) = some tm →
    ∃ t, exec (.watchdog die cluster) s = .next t ∧
      (∀ g u, g ∈ t.groups → g.vd = tm.vd → u ∈ teamsAt s (.cluster die cluster) → u.vd = tm.vd → g.team ≠ u.tid) ∧
      ∀ v i, findVd t tm.vd = some v → v.inst tm.vdie = some i → i.records.getLast? = some (watchdogRecord tm.vdie tm.launch cluster)) ∧
  (∀ vd handle s g tm, Named s vd handle g → g.status = .draining → drained s g = true → findTeam s g.team = some tm → tm.grace = 0 → (findVd s vd).isSome = true →
    ∃ t, exec (.drainEnd vd handle) s = .next t ∧ findGroup t g.gid = none ∧ findTeam t g.team = some { tm with drained := tm.drained + 1 } ∧ t.mem = s.mem) ∧
  (∀ tid s tm, findTeam s tid = some tm → tm.kernel = false → tm.status ≠ .retired → (∀ g, g ∈ s.groups → g.team ≠ tid) →
    ∃ t, exec (.teamRetire tid) s = .next t ∧ ∀ u, u ∈ t.teams → u.tid = tid → u.status = .retired) ∧
  (∀ vd handle s g i, Named s vd handle g → g.level = .k → instOf s g = some i → wfiReady s i g.num = true →
    ∃ t h, exec (.wfiWake vd handle) s = .next t ∧ findGroup t g.gid = some h ∧ h.v = g.v ∧ h.s = g.s ∧ h.p = g.p ∧ (∀ f, f ∈ h.frags → f.wait ≠ .wfi) ∧ t.mem = s.mem) ∧
  (∀ vd vdie s v i, findVd s vd = some v → v.inst vdie = some i → i.ktimer ≠ 0#64 → i.ktimer.toNat ≤ cycleOf s i.pdie → ∃ t, exec (.ktimerExpires vd vdie) s = .next t ∧ t.mem = s.mem ∧
    t.vds = s.vds ∧ ∀ g f, g ∈ t.groups → g.vd = vd → g.vdie = vdie → g.level = .k → f ∈ g.frags → f.wait ≠ .wfi) ∧
  (∀ vd vdie s v i m l, findVd s vd = some v → v.inst vdie = some i → i.inbox = m :: l → m.ext = false ∨ v.state = .active ∨ v.state = .idle → m.smc = true ∨ relayTurn s vd i.pdie m.seq = true → i.queue.length < 64 → ∃ t v', exec (.relayMessageArrives vd vdie) s = .next t ∧ t.mem = s.mem ∧
    (m.ext = false ∨ NoRecal s → t.groups = s.groups) ∧ findVd t vd = some v' ∧ v'.inst vdie = some { i with queue := i.queue ++ [m], inbox := l }) ∧
  (∀ vd vdie s v i m l, findVd s vd = some v → v.inst vdie = some i → i.inbox = m :: l → m.ext = true → v.state = .dormant → ∃ t v', exec (.relayMessageArrives vd vdie) s = .next t ∧ t.mem = s.mem ∧
    findVd t vd = some v' ∧ v'.state = .waking ∧ v'.wakeCause = 4 ∧ v'.inst vdie = some i)

/-! ## The host -/

/-- 02 R39, R52, R53; 03 R73; 16 R410, R411; 17 R432-R434: a launch word is dropped for its first cause, counted and kept, or accepted and counted; WAKE wakes; MBREQ stores and 1 to MBBELL rings;
HWBASE takes its fields; an access through the aperture writes its bytes and no other, or returns those that it reads, waits while its virtual device sleeps and wakes it, and is aborted and
counted for a foreign ASID, a read returning all ones.
Choices of the model in it: logs 3, 29, 50, 59. -/
def Obligations.HostRegistersAndAperture : Prop :=
  (∀ vd off size w s v, findVd s vd = some v →
    (∀ c, dropCauseOf v off size w = some c → ∃ t v', exec (.launch vd off size w) s = .next t ∧ t.groups = s.groups ∧ t.mem = s.mem ∧ findVd t vd = some v' ∧ v'.dropCause = c ∧
      v'.dropCount = min (v.dropCount + 1) 0xFFFFFFFF ∧ v'.felast = w ∧ v'.feacc = v.feacc ∧ v'.launches = v.launches) ∧
    (dropCauseOf v off size w = none → w.getLsbD 43 = false → ∃ t v', exec (.launch vd off size w) s = .next t ∧ t.teams = s.teams ∧ findVd t vd = some v' ∧ v'.feacc = v.feacc + 1#32 ∧
      v'.dropCause = v.dropCause) ∧
    (dropCauseOf v off size w = none → w.getLsbD 43 = true → ∃ t, exec (.launch vd off size w) s = .next t ∧ (NoRecal s → t.groups = s.groups) ∧ t.mem = s.mem ∧ findVd t vd = some (wakeVd v))) ∧
  (∀ vd size s v, findVd s vd = some v → v.resetting = false → size = 4 ∨ size = 8 → ∃ t, exec (.wakeWrite vd size) s = .next t ∧ (NoRecal s → t.groups = s.groups) ∧ t.mem = s.mem ∧
    findVd t vd = some (wakeVd v)) ∧
  (∀ vd off size val s, vd = 0 ∨ (findVd s vd).isSome = true →
    (0x1000 ≤ off → off + size ≤ 0x1040 → 0 < size → ∃ t, exec (.registerWrite vd off size val) s = .next t ∧ t = { s with mboxes := t.mboxes } ∧
      ∀ i, i < 64 → (mboxOf t vd).req.getD i 0#8 =
        (if off - 0x1000 ≤ i ∧ i < off - 0x1000 + size then BitVec.ofNat 8 (val.toNat / 2 ^ (8 * (i - (off - 0x1000)))) else (mboxOf s vd).req.getD i 0#8)) ∧
    (off = 0x1080 → val = 1#64 → (mboxOf s vd).busy = false → ∃ t, exec (.registerWrite vd off size val) s = .next t ∧ (NoRecal s → t.groups = s.groups) ∧ t.mem = s.mem ∧
      (mboxOf t vd).busy = true ∧ (mboxOf t vd).ready = false ∧ (mboxOf t vd).req = (mboxOf s vd).req)) ∧
  (∀ vd val s v, findVd s vd = some v → ∃ t, exec (.hwbaseWrite vd val) s = .next t ∧ t.groups = s.groups ∧ t.mem = s.mem ∧
    findVd t vd = some { v with hwva := (val.toNat / 2 ^ 16 % 2 ^ 41) * 2 ^ 16, hwasid := val.toNat % 2 ^ 10 }) ∧
  (∀ s, ∃ t, exec (.functionLevelReset 0) s = .next t ∧ t.vds = s.vds ∧ t.groups = s.groups ∧ mboxOf t 0 = freshMbox) ∧
  (∀ fn s v, fn ≠ 0 → findVd s fn = some v → ∃ t, exec (.functionLevelReset fn) s = .next t ∧ t.groups = s.groups ∧ t.mem = s.mem ∧ findVd t fn = some (beginReset v)) ∧
  (∀ f x y s, s.fields[f]? = some y → ∃ t, exec (.managementPathWrite (.ilim f x)) s = .next t ∧ t = { s with fields := t.fields } ∧ t.fields[f]? = some { y with ilim := x } ∧
    ∀ k, k ≠ f → t.fields[k]? = s.fields[k]?) ∧
  (∀ vd s v, findVd s vd = some v → ∃ t v', exec (.managementPathWrite (.clearCfail vd)) s = .next t ∧ t = { s with vds := t.vds } ∧ findVd t vd = some v' ∧ v'.cfail = false ∧
    (v.cfail = true → v.state = .idle → v'.timer = true)) ∧
  (∀ vd s v, findVd s vd = some v → ∃ t, exec (.managementPathWrite (.clearSavef vd)) s = .next t ∧ t = { s with vds := t.vds } ∧ findVd t vd = some { v with savef := false }) ∧
  (∀ vd off size wr val s v, findVd s vd = some v →
    let va := ((BitVec.ofNat 57 v.hwva).signExtend 64) + BitVec.ofNat 64 off
    let h : HostOp := { vd := vd, asid := v.hwasid, va := va, size := size, isWrite := wr, val := val, fe := false }
    let s1 := touchEvent { s with hostHeld := s.hostHeld ++ [h] } vd 3
    (v.state = .dormant → (∀ k, k ∈ s.hostHeld → k.vd = vd → k.fe = false) → ∃ t v', exec (.hostApertureAccess vd off size wr val) s = .next t ∧ t.mem = s.mem ∧ (NoRecal s → t.groups = s.groups) ∧ t.hostHeld = s.hostHeld ++ [h] ∧
      findVd t vd = some v' ∧ v'.state = .waking ∧ v'.wakeCause = 3) ∧
    (v.state = .active → s.hostHeld = [] → v.hwasid < v.desc.asidBase ∨ v.desc.asidBase + v.desc.asidCnt ≤ v.hwasid → ∃ t v', exec (.hostApertureAccess vd off size wr val) s = .next t ∧
      t.mem = s.mem ∧ (NoRecal s → t.groups = s.groups) ∧ findVd t vd = some v' ∧ v'.hwerr = min (v.hwerr + 1) 0xFFFFFFFF ∧
      t.hostReads = s.hostReads ++ (if wr then [] else [(vd, List.replicate size 0xFF#8)])) ∧
    (∀ ps s2, v.state = .active → s.hostHeld = [] → wr = false → v.desc.asidBase ≤ v.hwasid → v.hwasid < v.desc.asidBase + v.desc.asidCnt → va.getLsbD 56 = false →
      findVd s1 vd = some v → hostXl s1 v h = .ok (some (ps, s2)) →
      let at_ := fun (p : Xl × Nat × Nat × Nat) => p.1.at (BitVec.ofNat 64 p.2.1)
      (∀ p, p ∈ ps → p.1.dev = false ∧ paKind (at_ p) = .hbm ∧ chanHeld s2 (at_ p) = false ∧ s2.integrity.contains (at_ p / 64) = false) → ∃ t, exec (.hostApertureAccess vd off size wr val) s = .next t ∧
        t.hostHeld = [] ∧ t.mem = s.mem ∧ t.hostReads = s.hostReads ++ [(vd, ps.flatMap (fun p => rdList s.mem (at_ p) p.2.2.1))]) ∧
    (∀ x va1 n val1 s2, v.state = .active → s.hostHeld = [] → wr = true → v.desc.asidBase ≤ v.hwasid → v.hwasid < v.desc.asidBase + v.desc.asidCnt → va.getLsbD 56 = false →
      findVd s1 vd = some v → hostXl s1 v h = .ok (some ([(x, va1, n, val1)], s2)) → x.dev = false → x.fed = false →
      let pa := x.at (BitVec.ofNat 64 va1)
      s2.integrity.contains (pa / 64) = false → chanHeld s2 pa = false → lockHeld s2 pa n = false → pa % 8 + n ≤ 8 → ∃ t, exec (.hostApertureAccess vd off size wr val) s = .next t ∧ t.hostHeld = [] ∧
        (∀ j, j < n → rd t.mem (pa + j) = BitVec.ofNat 8 (val1 / 2 ^ (8 * j))) ∧ ∀ p, p < pa ∨ pa + n ≤ p → rd t.mem p = rd s2.mem p))

/-- 01 R27-R32, Table 1.9; 02 R33, R34, R54; 16 R411; 17 R433: a mailbox operation of a code rings, acts and replies: a registration answers the failed check or a handle under which the front
end now knows the graph; an unregistered handle is known no more; a refused descriptor answers its status and an accepted one makes an idle virtual device with its share; a destroyed one is
gone with its groups; a reset one is idle with nothing queued; one that sleeps or collapses is woken first; a code of no operation answers BADOP. Nothing is served while the SMC is away (17 R440), and a
registration waits for the last accesses to pages that it takes (12 R301). Choices of the model in it: logs 5, 6, 29, 34, 35, 36, 48 (virtual die 0 writes back before it reads), 64, 87 (management
operations ring virtual device 0). -/
def Obligations.MailboxOperationsReply : Prop :=
  let unheld := fun (n : Nat) (s : State) => ((∀ w, w ∈ s.windows → w.vd ≠ n) ∧ ∀ p, p ∈ s.paths → p.vd ≠ n) ∨ (s.blocks = [] ∧ s.locks = [] ∧ s.chanService = [])
  (∀ vd s v, (mboxOf s vd).byte 0 = 1 → (findVd s vd).isSome = true →
    let s1 := doorbell s vd
    let m := mboxOf s1 vd
    let s2 := settleDie0 s1 v
    findVd s1 vd = some v → serves v = true → smcAway s1 = false →
    (∀ f, readGraph s2 v (m.arg 2).toNat (m.arg 1).toNat = .error f → ∃ t, exec (.registerAGraph vd) s = .next t ∧ t.mem = s2.mem ∧ t.vds = s2.vds ∧ (mboxOf t vd).status = 0#64 ∧
      (mboxOf t vd).ready = true ∧ (mboxOf t vd).busy = false ∧ (mboxOf t vd).result = BitVec.ofNat 64 (f.err * 2 ^ 16 + f.detail * 2 ^ 24)) ∧
    (∀ r f, readGraph s2 v (m.arg 2).toNat (m.arg 1).toNat = .ok r → regFail v r = some f → ∃ t, exec (.registerAGraph vd) s = .next t ∧ t.mem = s2.mem ∧ t.vds = s2.vds ∧
      (mboxOf t vd).status = 0#64 ∧ (mboxOf t vd).result = BitVec.ofNat 64 (f.err * 2 ^ 16 + f.detail * 2 ^ 24)) ∧
    (registerWaits s1 v (m.arg 2).toNat (m.arg 1).toNat = true → exec (.registerAGraph vd) s = .next s1) ∧
    (∀ r, readGraph s2 v (m.arg 2).toNat (m.arg 1).toNat = .ok r → regFail v r = none → registerWaits s1 v (m.arg 2).toNat (m.arg 1).toNat = false → ∃ t v' g, exec (.registerAGraph vd) s = .next t ∧
      findVd t vd = some v' ∧ g ∈ v'.graphs ∧ g.live = true ∧ g.asid = (m.arg 2).toNat ∧ g.nodes = r.nodes.map (nodeOf r) ∧ g.edges = r.edges.map edgeOf ∧ (mboxOf t vd).status = 0#64 ∧
      (mboxOf t vd).result = BitVec.ofNat 64 g.handle)) ∧
  (∀ vd s v, (mboxOf s vd).byte 0 = 2 → (findVd s vd).isSome = true →
    let s1 := doorbell s vd
    let h := ((mboxOf s1 vd).arg 1).toNat
    findVd s1 vd = some v → serves v = true → smcAway s1 = false →
    (v.known h = none → ∃ t, exec (.unregister vd) s = .next t ∧ t.vds = s1.vds ∧ (mboxOf t vd).status = 2#64 ∧ (mboxOf t vd).ready = true) ∧
    (v.known h ≠ none → ∃ t v', exec (.unregister vd) s = .next t ∧ t.mem = s1.mem ∧ findVd t vd = some v' ∧ v'.known h = none ∧ (mboxOf t vd).status = 0#64 ∧
      (mboxOf t vd).ready = true)) ∧
  (∀ b setup s, (mboxOf s 0).byte 0 = 0x10 → smcAway s = false →
    let s1 := doorbell s 0
    (createStatus s1 b ≠ 0 → ∃ t, exec (.createAVd (some b) setup) s = .next t ∧ t.vds = s1.vds ∧ t.groups = s1.groups ∧ t.mem = s1.mem ∧ (mboxOf t 0).status = BitVec.ofNat 64 (createStatus s1 b)) ∧
    (∀ u, createStatus s1 b = 0 → createVd s1 (fieldOf b 0 1) (descOf b) setup = some u → ∃ t v, exec (.createAVd (some b) setup) s = .next t ∧ findVd t (fieldOf b 0 1) = some v ∧ v.desc = descOf b ∧ v.state = .idle ∧ v.timer = true ∧
      v.graphs = [] ∧ v.launches = [] ∧ (mboxOf t 0).status = 0#64 ∧ (mboxOf t 0).result = BitVec.ofNat 64 (fieldOf b 0 1)) ∧
    (createStatus s1 b = 0 → createVd s1 (fieldOf b 0 1) (descOf b) setup = none → Stays (.createAVd (some b) setup) s)) ∧
  (∀ setup s, (mboxOf s 0).byte 0 = 0x10 → smcAway s = false → ∃ t, exec (.createAVd none setup) s = .next t ∧ t.groups = (doorbell s 0).groups ∧ t.mem = s.mem ∧ (mboxOf t 0).status = 3#64) ∧
  (∀ n s v, (mboxOf s 0).byte 0 = 0x11 → smcAway s = false → findVd (doorbell s 0) n = some v → awake v = true → (∀ r, r ∈ s.reqs → r.vd = n → r.stage ≠ .home) → unheld n s →
    ∃ t, exec (.destroyAVd (some n)) s = .next t ∧ findVd t n = none ∧ (∀ g, g ∈ t.groups → g.vd ≠ n) ∧ (mboxOf t 0).status = 0#64) ∧
  (∀ n s v, (mboxOf s 0).byte 0 = 0x11 → smcAway s = false → findVd (doorbell s 0) n = some v → awake v = false → ∃ t, exec (.destroyAVd (some n)) s = .next t ∧ t.groups = (doorbell s 0).groups ∧
    t.mem = s.mem ∧ findVd t n = some (beginReset v)) ∧
  (∀ n s v, (mboxOf s 0).byte 0 = 0x12 → smcAway s = false → findVd (doorbell s 0) n = some v → ∃ t, exec (.resetTheVf (some n)) s = .next t ∧ t.groups = (doorbell s 0).groups ∧ t.mem = s.mem ∧
    findVd t n = some (beginReset v) ∧ (mboxOf t 0).status = 0#64) ∧
  (∀ n s, smcAway s = false → findVd (doorbell s 0) n = none →
    ((mboxOf s 0).byte 0 = 0x11 → ∃ t, exec (.destroyAVd (some n)) s = .next t ∧ (mboxOf t 0).status = 0x0B#64) ∧
    ((mboxOf s 0).byte 0 = 0x12 → ∃ t, exec (.resetTheVf (some n)) s = .next t ∧ (mboxOf t 0).status = 0x0B#64)) ∧
  (∀ vd s v, findVd (doorbell s vd) vd = some v → vd ≠ 0 → (mboxOf s vd).byte 0 ≠ 1 → (mboxOf s vd).byte 0 ≠ 2 → smcAway s = false → serves v = true →
    ∃ t, exec (.unknownOperationCode vd) s = .next t ∧ t.groups = (doorbell s vd).groups ∧ t.mem = s.mem ∧ (mboxOf t vd).status = 1#64 ∧ (mboxOf t vd).ready = true ∧ (mboxOf t vd).busy = false) ∧
  (∀ vd s v, findVd s vd = some v → awake v = false → ∃ t, exec (.vfReset vd) s = .next t ∧ t.groups = s.groups ∧ t.mem = s.mem ∧ findVd t vd = some (beginReset v)) ∧
  (∀ vd s v, findVd s vd = some v → awake v = true → (∀ r, r ∈ s.reqs → r.vd = vd → r.stage ≠ .home) → (∀ h, h ∈ s.hostHeld → h.vd ≠ vd) → unheld vd s → ∃ t v', exec (.vfReset vd) s = .next t ∧ findVd t vd = some v' ∧
    v'.state = .idle ∧ v'.timer = true ∧
    v'.graphs = [] ∧ v'.launches = [] ∧ v'.resetting = false ∧ v'.feacc = 0#32 ∧ v'.fecmp = 0#32 ∧ ∀ g, g ∈ t.groups → g.vd = vd → g.level = .k ∧ g.num = 0)

/-! ## Placement and stealing -/

/-- What placing the next team of a range leaves: team s.nextId resident on a cluster of its die with the range's lowest index, every new group its own, and the range one shorter. -/
def Placed (s t : State) (v : Vd) (i : Inst) (r : Range) : Prop :=
  ∃ tm v' i', findTeam t s.nextId = some tm ∧ tm.vd = v.num ∧ tm.vdie = i.vdie ∧ tm.launch = r.launch ∧ tm.node = r.node ∧ tm.lin = r.lo ∧ tm.status = .resident ∧ tm.site ∈ sitesOf v i ∧
    (∀ g, g ∈ t.groups → s.nextId < g.gid → g.team = s.nextId ∧ g.status = .running ∧ g.site = tm.site) ∧ findVd t v.num = some v' ∧ v'.inst i.vdie = some i' ∧
    { r with lo := r.lo + 1, held := none } ∈ i'.ranges

/-- 03 R58-R62, R67-R74; 06 R131: a waiting team that fits some cluster of its die, as things stand or after moves there, becomes resident; else nothing happens; one that steering holds is marked
with the cycle and waits; once 100 us have passed the cap has the dispatcher try; a move changes where a block lies and nothing that a group or team reads, and is made as the first of the fewest
that give somebody room; IMEAS takes the value of a field that is on. Choices of the model in it: logs 14, 16, 62. -/
def Obligations.TeamsFindTheirClusters : Prop :=
  (∀ vd vdie s v i r e, findVd s vd = some v → v.inst vdie = some i → mayPlace s v i = true → waiters s v i = [.fresh r] →
    (∀ u, u ∈ s.teams → u.tid < s.nextId) → (∀ g, g ∈ s.groups → g.gid < s.nextId) → e = Instr.dispatchTeam vd vdie ∨ (e = .compactorRetry vd vdie ∧ ∀ site, stuckGroups s site = []) →
    (heldBySteering s v i (.fresh r) = false → (placeMoving s v i (.fresh r)).isSome = true → ∃ t, exec e s = .next t ∧ Placed s t v i r) ∧
    (heldBySteering s v i (.fresh r) = false → placeMoving s v i (.fresh r) = none → Stays e s) ∧
    (heldBySteering s v i (.fresh r) = true → (placeMoving s v i (.fresh r)).isSome = true → r.held = none → ∃ t v' i', exec e s = .next t ∧ t.groups = s.groups ∧
      t.teams = s.teams ∧ t.mem = s.mem ∧ findVd t vd = some v' ∧ v'.inst vdie = some i' ∧ { r with held := some (cycleOf s i.pdie) } ∈ i'.ranges)) ∧
  (∀ die cluster handle dst s v i g, ownerOf s die cluster = some (v, i) →
    s.groups.find? (fun g => g.site == .cluster die cluster && g.level == .u && g.handle == handle) = some g → findGroup s g.gid = some g → (moveRegs s g (dst % 512) (dst / 512)).isSome = true →
    ∃ u, u = { s with groups := u.groups } ∧ findGroup u g.gid = some { g with regBlk := dst % 512, tileBlk := if g.tiles = 0 then g.tileBlk else dst / 512 } ∧
      (∀ h, h ≠ g.gid → findGroup u h = findGroup s h) ∧
      ∀ k, k + 1 ∈ movesWanted s v i (.cluster die cluster) → k ∈ movesWanted u v i (.cluster die cluster) → exec (.compactionMove die cluster (.regs handle) dst) s = .next u) ∧
  (∀ die cluster tid dst s v i tm, ownerOf s die cluster = some (v, i) → findTeam s tid = some tm → tm.site = .cluster die cluster → (moveScratch s tm dst).isSome = true →
    ∃ u, u.groups = s.groups ∧ u.mem = s.mem ∧ findTeam u tid = some { tm with block := dst } ∧
      rdList (clusterOf u tm.site).sram dst tm.size = rdList (clusterOf s tm.site).sram tm.block tm.size ∧
      ∀ k, k + 1 ∈ movesWanted s v i (.cluster die cluster) → k ∈ movesWanted u v i (.cluster die cluster) → exec (.compactionMove die cluster (.scratch tid) dst) s = .next u) ∧
  (∀ vd vdie s v i, findVd s vd = some v → v.inst vdie = some i →
    ((∃ w, w ∈ waiters s v i ∧ heavyHere s v i w.node = true ∧ capPassed s i.pdie w.heldAt = true) → exec (.steeringCap vd vdie) s = exec (.dispatchTeam vd vdie) s) ∧
    ((∀ w, w ∈ waiters s v i → heavyHere s v i w.node = false ∨ capPassed s i.pdie w.heldAt = false) → Stays (.steeringCap vd vdie) s)) ∧
  (∀ f val x s, s.fields[f]? = some x → ∃ t, exec (.imeasUpdate f val) s = .next t ∧ t = { s with fields := t.fields } ∧ t.fields[f]? = some { x with imeas := if x.pll then val else x.imeas } ∧
    ∀ k, k ≠ f → t.fields[k]? = s.fields[k]?)

/-- 03 R64-R66: an idle dispatcher sends a probe to the next victim, which takes a rate token in its turn; a victim that holds at least two teams of the node gives the highest half of them and
keeps the rest, any other refuses; the thief takes what it was given, or marks the victim as having refused. Choices of the model in it: log 15. -/
def Obligations.StealsMoveRanges : Prop :=
  (∀ vd vdie s v i r d, findVd s vd = some v → v.inst vdie = some i → mayPlace s v i = true → (∀ q, q ∈ i.ranges → q.probing = false) →
    leastBy (fun (r : Range) => nodeRank v (r.launch, r.node)) (idleNodes s v i) = some r → nextVictim v i r = some d →
    ((takeTurn s vd i.pdie (.steal vdie) 1).1 = false → exec (.stealRequest vd vdie) s = .next (takeTurn s vd i.pdie (.steal vdie) 1).2) ∧
    ((takeTurn s vd i.pdie (.steal vdie) 1).1 = true → ∃ t v', exec (.stealRequest vd vdie) s = .next t ∧ t.groups = s.groups ∧ t.mem = s.mem ∧ t.nextId = s.nextId + 1 ∧ findVd t vd = some v' ∧
      v'.steals = v.steals ++ [{ id := s.nextId, vd := vd, launch := r.launch, node := r.node, thief := vdie, victim := d, answer := none }])) ∧
  (∀ id s x v i, findSteal s id = some x → x.answer = none → findVd s x.vd = some v → x ∈ v.steals → v.inst x.victim = some i →
    (∀ r, i.failed = false → rangesOf i (x.launch, x.node) = [r] → 2 ≤ r.hi - r.lo → ∃ t v' i', exec (.stealHandled id) s = .next t ∧ t.groups = s.groups ∧ t.mem = s.mem ∧
      findVd t x.vd = some v' ∧ { x with answer := some (r.hi - (r.hi - r.lo) / 2, r.hi) } ∈ v'.steals ∧ v'.inst x.victim = some i' ∧
      { r with hi := r.hi - (r.hi - r.lo) / 2 } ∈ i'.ranges) ∧
    ((i.failed = true ∨ ∀ r, r ∈ i.ranges → r.launch = x.launch → r.node = x.node → r.hi - r.lo < 2) → ∃ t v', exec (.stealHandled id) s = .next t ∧ t.groups = s.groups ∧ t.mem = s.mem ∧
      findVd t x.vd = some v' ∧ { x with answer := some (0, 0) } ∈ v'.steals ∧ v'.insts = v.insts)) ∧
  (∀ id s x v i lo hi, findSteal s id = some x → x.answer = some (lo, hi) → findVd s x.vd = some v → v.inst x.thief = some i →
    (lo < hi → i.failed = false → ∃ t v' i', exec (.stealReply id) s = .next t ∧ t.groups = s.groups ∧ t.mem = s.mem ∧ findVd t x.vd = some v' ∧ (∀ y, y ∈ v'.steals → y.id ≠ id) ∧
      v'.inst x.thief = some i' ∧ ∃ q, q ∈ i'.ranges ∧ q = { launch := x.launch, node := x.node, lo := lo, hi := hi, refused := [], stopped := q.stopped, probing := false, held := none }) ∧
    (hi ≤ lo → ∃ t v' i', exec (.stealReply id) s = .next t ∧ t.groups = s.groups ∧ t.mem = s.mem ∧ findVd t x.vd = some v' ∧ (∀ y, y ∈ v'.steals → y.id ≠ id) ∧
      v'.inst x.thief = some i' ∧ ∀ q, q ∈ i'.ranges → q.launch = x.launch → q.node = x.node → q.probing = false ∧ x.victim ∈ q.refused))

/-! ## Dormancy -/

/-- 02 R46-R52, Table 2.8; 17 R428, R435: work makes an idle virtual device active and wakes a dormant one; without work it is idle and its timer runs unless CFAIL stops it; the timer's end
begins the collapse, waits for service to end, or finds work; each step of the collapse leads to the next, its flush leaves nothing of the virtual device in the slices, the fourth leaves it
dormant; a wake event turns it round; a save that faults returns it to idle with CFAIL; a finished wake leaves it active or idle with its fields on. A Coupler put wakes it and waits. Choices of
the model in it: logs 19, 60. -/
def Obligations.DormancyFollowsItsTable : Prop :=
  (∀ vd s v, findVd s vd = some v → hasWork s v = true → v.resetting = false →
    (v.state = .idle → ∃ t, exec (.workBegins vd) s = .next t ∧ t = { s with vds := t.vds } ∧ findVd t vd = some { v with state := .active, timer := false, due := false }) ∧
    (v.state = .dormant → ∃ t, exec (.workBegins vd) s = .next t ∧ t = { s with vds := t.vds } ∧ findVd t vd = some { v with state := .waking })) ∧
  (∀ vd s v, findVd s vd = some v → v.state = .active → hasWork s v = false → ∃ t, exec (.workEnds vd) s = .next t ∧ t = { s with vds := t.vds } ∧
    findVd t vd = some { v with state := .idle, timer := !v.cfail, due := false }) ∧
  (∀ vd s v, findVd s vd = some v → v.state = .idle → v.timer = true → v.resetting = false →
    (hasWork s v = true → ∃ t, exec (.timerExpires vd) s = .next t ∧ t = { s with vds := t.vds } ∧ findVd t vd = some { v with state := .active, timer := false, due := false }) ∧
    (hasWork s v = false → underService s v = false → ∃ t v', exec (.timerExpires vd) s = .next t ∧ t.mem = s.mem ∧ findVd t vd = some v' ∧ v'.state = .collapsing ∧ v'.steps = 0 ∧ v'.timer = false ∧
      ∀ g, g ∈ s.groups → g.vd = vd → g.level = .k → g.status = .running → { g with status := .stopping .collapse } ∈ t.groups) ∧
    (hasWork s v = false → underService s v = true → ∃ t, exec (.timerExpires vd) s = .next t ∧ t = { s with vds := t.vds } ∧ findVd t vd = some { v with due := true })) ∧
  (∀ vd s v, findVd s vd = some v → v.state = .collapsing → (v.steps = 0 → instancesSaved s vd = true) →
    ((v.steps = 1 → s.integrity = []) → v.interrupted = true →
      ∃ t, exec (.collapseStepDone vd) s = .next t ∧ findVd t vd = some { v with steps := v.steps + 1, state := .waking, interrupted := false }) ∧
    ((v.steps = 1 → s.integrity = []) → v.interrupted = false → v.steps < 3 → ∃ t, exec (.collapseStepDone vd) s = .next t ∧ findVd t vd = some { v with steps := v.steps + 1 }) ∧
    (v.interrupted = false → v.steps = 3 → ∃ t, exec (.collapseStepDone vd) s = .next t ∧ t.mem = s.mem ∧ t.groups = s.groups ∧ findVd t vd = some { v with steps := 4, state := .dormant }) ∧
    (v.steps = 1 → ∃ t, exec (.collapseStepDone vd) s = .next t ∧ (∀ r, r ∈ t.remote → r.vd ≠ v.num) ∧ ∀ e, e ∈ t.stc → e.vd ≠ v.num)) ∧
  (∀ vd s v g, findVd s vd = some v → v.state = .collapsing → v.steps = 0 → g ∈ s.groups → g.vd = vd → g.level = .k → g.status = .stopping .collapse → settled s g = true →
    saveFaults s v g = true → ∃ t, exec (.saveFaultInStep1 vd) s = .next t ∧ t.mem = s.mem ∧ vd ∈ t.smcTold ∧ { g with status := .running } ∈ t.groups ∧
      findVd t vd = some { v with state := .idle, cfail := true, timer := false, due := false, interrupted := false, waits := false }) ∧
  (∀ vd us s v, findVd s vd = some v → v.state = .waking → s.hostHeld = [] → s.putHeld = [] → ∃ t v', exec (.wakeDone vd us) s = .next t ∧ findVd t vd = some v' ∧ v'.wakeUs = us ∧
    v'.waits = false ∧ v'.steps = 0 ∧ (v.waits = true → v'.state = .active ∧ v'.timer = false) ∧ (v'.state = .active ∨ (v'.state = .idle ∧ v'.timer = !v.cfail)) ∧
    (v.waits = false → v.launches = [] → (∀ g, g ∈ s.groups → g.vd ≠ vd) → (∀ u, u ∈ s.teams → u.status ≠ .saved) → s.drays = [] → (∀ i, i ∈ v.insts → instWorks s vd i = false) → v'.state = .idle) ∧
    ∀ d f, d ∈ v.desc.dies → t.fields[d.pdie]? = some f → f.pll = true) ∧
  (∀ win off bytes part s w v, s.windows.find? (fun w => w.num == win) = some w → w.aborted = false → findVd s w.vd = some v → s.putHeld = [] →
    let p : PutOp := { win := win, off := off, bytes := bytes, part := part }
    let s1 := { touchEvent s w.vd 4 with putHeld := [p] }
    (v.state = .dormant → ∃ t v', exec (.couplerPutArrives win off bytes part) s = .next t ∧ t.mem = s.mem ∧ (NoRecal s → t.groups = s.groups) ∧ t.putHeld = [p] ∧ findVd t w.vd = some v' ∧
      v'.state = .waking ∧ v'.wakeCause = 4) ∧
    (∀ v1 x va n val, findVd s1 w.vd = some v1 → awake v1 = true → part.last = false → off + bytes.length ≤ w.size → putXl s1 v1 w p = .ok (some [(x, va, n, val)]) → x.fed = false →
      let pa := x.at (BitVec.ofNat 64 va)
      chanHeld s1 pa = false → lockHeld s1 pa n = false → pa % 8 + n ≤ 8 → keptBlocks s1 [(pa, n)] = [] → ∃ t, exec (.couplerPutArrives win off bytes part) s = .next t ∧ t.putHeld = [] ∧
        (∀ j, j < n → rd t.mem (pa + j) = BitVec.ofNat 8 (val / 2 ^ (8 * j))) ∧ ∀ a, a < pa ∨ pa + n ≤ a → rd t.mem a = rd s.mem a))

/-! ## The SMC's services, bring-up, live service, failures -/

/-- The request has been answered: the last message on its way to its instance is the reply of Table 17.7 with a status and a result. -/
def Replied (t : State) (q : SvcReq) (status result : Nat) : Prop :=
  ∃ v i m, findVd t q.vd = some v ∧ v.inst q.vdie = some i ∧ i.inbox.getLast? = some m ∧ m.smc = true ∧ m.bytes.length = 64 ∧ m.bytes.getD 1 0#8 = BitVec.ofNat 8 status ∧
    leNat ((m.bytes.drop 16).take 8) = result % 2 ^ 64

/-- The oldest request of a virtual device with an operation code stands before an SMC that serves. -/
structure Served (s : State) (vd op : Nat) (q : SvcReq) (v : Vd) : Prop where
  serves : smcAway s = false
  oldest : s.services.find? (fun q => q.vd == vd && svcOp q == op) = some q
  dev : findVd s vd = some v
  inst : ∃ i, v.inst q.vdie = some i
  clean : svcClean q = true

/-- No block, lock or channel service holds a Coupler counter. -/
def Unheld (s : State) : Prop := s.blocks = [] ∧ s.locks = [] ∧ s.chanService = []

/-- 17 R435-R437: OPENT opens a window of its arguments under a free number, OPENS a path when the peer's SMC opens it, CLOSE closes a window or a path, ABORT aborts a tag's windows here, and
each answers with its status; an argument out of range is BADARG, nothing to close NOWIN. A peer's abort closes every path and window of its tag. An abort waits while a block, lock or channel
service holds one of its counters. A path for whose mapping the table frames do not do is refused with FULL. Choices of the model in it: logs 5, 6, 22, 23. -/
def Obligations.ServiceRequestsAreAnswered : Prop :=
  (∀ vd s q v, Served s vd 0x20 q v →
    let ok := svcAsidOk v q && svcCounterOk q && svcField q 0x18 8 % 65536 == 0 && svcField q 0x20 8 != 0 && svcField q 0x20 8 % 65536 == 0 && decide (svcField q 0x20 8 ≤ 2 ^ 32) &&
      decide (svcField q 0x14 1 < 128)
    (ok = false → ∃ t, exec (.opent vd) s = .next t ∧ t.windows = s.windows ∧ Replied t q 1 0) ∧
    (∀ k, ok = true → k < 256 → (∀ w, w ∈ s.windows → w.num ≠ k) → ∃ t w, exec (.opent vd) s = .next t ∧ t.mem = s.mem ∧ t.windows = s.windows ++ [w] ∧ w.num < 256 ∧
      (∀ x, x ∈ s.windows → x.num ≠ w.num) ∧ w.vd = vd ∧ w.asid = svcField q 0x10 2 ∧ w.va = svcField q 0x18 8 ∧ w.size = svcField q 0x20 8 ∧ w.cntva = svcField q 0x28 8 ∧
      w.pkg = svcField q 0x14 1 ∧ w.tag = svcField q 0x12 2 ∧ w.aborted = false ∧ w.bad = [] ∧ Replied t q 0 w.num)) ∧
  (∀ vd s q v, Served s vd 0x21 q v →
    let ok := svcAsidOk v q && svcCounterOk q && decide (svcField q 0x14 1 < 128)
    (ok = false → ∀ a, ∃ t, exec (.opens vd a) s = .next t ∧ t.paths = s.paths ∧ Replied t q 1 0) ∧
    (ok = true → (∃ t, exec (.opens vd .noWin) s = .next t ∧ t.paths = s.paths ∧ Replied t q 4 0) ∧ (∃ t, exec (.opens vd .refused) s = .next t ∧ t.paths = s.paths ∧ Replied t q 3 0) ∧
      ∀ g, let maps := mapFor { s with services := s.services.eraseP (fun r => r == q) } vd (g % 2 ^ 48 / 2 ^ 32 * 2 ^ 32) (couplerPa (svcField q 0x14 1) (svcField q 0x15 1) 0) (2 ^ 32) (leafFlags true false false)
        (maps = none → ∃ t, exec (.opens vd (.opened g)) s = .next t ∧ t.paths = s.paths ∧ Replied t q 2 0) ∧
        (maps ≠ none → ∃ t p, exec (.opens vd (.opened g)) s = .next t ∧ p ∈ t.paths ∧ p.vd = vd ∧ p.asid = svcField q 0x10 2 ∧ p.pkg = svcField q 0x14 1 ∧ p.win = svcField q 0x15 1 ∧
        p.cntva = svcField q 0x28 8 ∧ p.tag = svcField q 0x12 2 ∧ p.isOpen = true ∧ p.gpa = g % 2 ^ 48 / 2 ^ 32 * 2 ^ 32 ∧ Replied t q 0 p.gpa))) ∧
  (∀ vd s q v, Served s vd 0x22 q v →
    let pkg := svcField q 0x14 1
    let win := svcField q 0x15 1
    (128 ≤ pkg → ∃ t, exec (.close vd) s = .next t ∧ Replied t q 1 0) ∧
    (pkg < 128 → pkg = Config.packageNumber.toNat → (∃ w, w ∈ s.windows ∧ w.vd = vd ∧ w.num = win) → ∃ t, exec (.close vd) s = .next t ∧ (∀ w, w ∈ t.windows → w.vd = vd → w.num ≠ win) ∧
      Replied t q 0 0) ∧
    (pkg < 128 → pkg ≠ Config.packageNumber.toNat → (∃ p, p ∈ s.paths ∧ p.vd = vd ∧ p.pkg = pkg ∧ p.win = win ∧ p.closed = false) → ∃ t, exec (.close vd) s = .next t ∧
      (∀ p, p ∈ t.paths → p.vd = vd → p.pkg = pkg → p.win = win → p.closed = true) ∧ Replied t q 0 0) ∧
    (pkg < 128 → (∀ w, w ∈ s.windows → w.vd = vd → w.num ≠ win) → (∀ p, p ∈ s.paths → p.vd = vd → p.pkg = pkg → p.win = win → p.closed = true) → ∃ t, exec (.close vd) s = .next t ∧ Replied t q 4 0)) ∧
  (∀ vd s q v, Served s vd 0x23 q v → (svcField q 0x12 2 = 0 → ∃ t, exec (.abort vd) s = .next t ∧ Replied t q 1 0) ∧
    (svcField q 0x12 2 ≠ 0 → Unheld s → ∃ t, exec (.abort vd) s = .next t ∧ Replied t q 0 0 ∧
      ((∃ w, w ∈ s.windows ∧ w.vd = vd ∧ w.tag = svcField q 0x12 2) → ∀ w, w ∈ t.windows → w.tag = svcField q 0x12 2 → w.aborted = true))) ∧
  (∀ (tag : BitVec 16) s, tag ≠ 0#16 → Unheld s → ∃ t, exec (.peerAbort tag) s = .next t ∧ t.groups = s.groups ∧ (∀ w, w ∈ t.windows → w.tag = tag.toNat → w.aborted = true) ∧
    ∀ p, p ∈ t.paths → p.tag = tag.toNat → p.isOpen = false)

/-- 02 R45; 03 R56, R63; 12 R315; 17 R431, R435, R439, R440; 06 R128: fields come up in their order; early service ends with field 7 in service; a field's recalibration and a channel's service begin
and end; the SMCs change over when the standby is ready; a port's service performs the held puts in order and counts each put once; retirement marks a die. A start grant goes to a cluster, at
most 8 in a window; a failed die is marked in every virtual device and nothing of it is left in slices; a mismatch stays with its block. A package reset leaves nothing; a bay with one fragment
chooses it. Choices of the model in it: logs 3, 23 (where a put's bytes and its counter lie), 24, 25, 39. -/
def Obligations.BringUpServiceAndFailures : Prop :=
  (∀ f s x, nextField s = some f → s.fields[f]? = some x → ∃ t y, exec (.fieldInService f) s = .next t ∧ t.groups = s.groups ∧ t.mem = s.mem ∧ t.fields[f]? = some y ∧ y.pll = true ∧
    y.svc = (if f = 0 then 2 else 3) ∧ (f = 0 → t.early = true) ∧ (f = 7 → t.standby = true)) ∧
  (∀ f s, nextField s ≠ some f → Stays (.fieldInService f) s) ∧
  (∀ s x y, s.early = true → s.fields[7]? = some x → x.svc = 3 → s.fields[0]? = some y → ∃ t, exec .earlyServiceEnd s = .next t ∧ t.early = false ∧ t.fields[0]? = some { y with svc := 3 } ∧
    t.groups = s.groups ∧ t.mem = s.mem) ∧
  (∀ f s x, s.fields[f]? = some x → x.svc = 3 → x.recal = false → ∃ t b, exec (.fieldRecalibration f) s = .next t ∧ t.fields[f]? = some { x with recal := true, stops := b } ∧ t.mem = s.mem) ∧
  (∀ f s x, s.fields[f]? = some x → (∀ v, v ∈ s.vds → v.due = false) → ∃ t, exec (.recalibrationEnd f) s = .next t ∧ t = { s with fields := t.fields } ∧
    t.fields[f]? = some { x with recal := false }) ∧
  (∀ die ch s, (die, ch) ∉ s.chanService → exec (.hbmChannelService die ch) s = .next { s with chanService := s.chanService ++ [(die, ch)] }) ∧
  (∀ die ch s, (die, ch) ∈ s.chanService → (∀ v, v ∈ s.vds → v.due = false) →
    exec (.hbmChannelService die ch) s = .next { s with chanService := s.chanService.filter (fun c => c != (die, ch)) }) ∧
  (∀ port s, s.putHeld = [] → Stays (.couplerPortService port) s) ∧
  (∀ port s p r w v, s.putHeld = p :: r → s.windows.find? (fun w => w.num == p.win) = some w → w.aborted = false → findVd s w.vd = some v →
    (awake v = false → Stays (.couplerPortService port) s) ∧
    (∀ x va n val y, port < 32 → awake v = true → r = [] → p.off + p.bytes.length ≤ w.size → putXl s v w p = .ok (some [(x, va, n, val)]) → x.fed = false → Unheld s → s.integrity = [] →
      let pa := x.at (BitVec.ofNat 64 va)
      let u := hostWrite s w.vd false pa n val
      let c := y.at (BitVec.ofNat 64 w.cntva)
      pa % 8 + n ≤ 8 →
      (∀ j, j < n → rd u.mem (pa + j) = BitVec.ofNat 8 (val / 2 ^ (8 * j))) ∧ (∀ a, a < pa ∨ pa + n ≤ a → rd u.mem a = rd s.mem a) ∧
      (p.part.last = false → ∃ t, exec (.couplerPortService port) s = .next t ∧ t.mem = u.mem ∧ t.putHeld = []) ∧
      (p.part.last = true → w.bad.contains p.part.put = false → walk u v 0 w.asid false .write 8 (BitVec.ofNat 64 w.cntva) = .ok y → y.fed = false → c % 8 = 0 →
        ∃ t, exec (.couplerPortService port) s = .next t ∧ t.putHeld = [] ∧
          tableEntry t c = ((tableEntry u c &&& 0x8000000000000000#64) ||| ((tableEntry u c + 1#64) &&& 0x7FFFFFFFFFFFFFFF#64)) ∧
          ∀ a, a < c ∨ c + 8 ≤ a → rd t.mem a = rd u.mem a) ∧
      (p.part.last = true → w.bad.contains p.part.put = true → ∃ t, exec (.couplerPortService port) s = .next t ∧ t.mem = u.mem ∧ t.putHeld = []))) ∧
  (∀ s, s.failover = false → s.standby = false → Stays .smcFailover s) ∧
  (∀ s, s.failover = false → s.standby = true → exec .smcFailover s = .next { s with failover := true, smcHalted := true, standby := false }) ∧
  (∀ s, s.failover = true → (∀ v, v ∈ s.vds → v.due = false) → ∃ t, exec .smcFailover s = .next t ∧ t.failover = false ∧ t.smcHalted = false ∧ t.mem = s.mem ∧ t.vds = s.vds ∧
    ∀ g, g ∈ t.groups ↔ g ∈ s.groups ∧ g.site ≠ .smc) ∧
  (∀ die s, die < 8 → die ∉ s.retired → (∀ v d, v ∈ s.vds → d ∈ v.desc.dies → d.pdie ≠ die) → exec (.computeDieRetirement die) s = .next { s with retired := s.retired ++ [die] }) ∧
  (∀ field s a0 v k, s.surges[field]? = some a0 →
    let cycle := cycleOf s field
    let a := if a0.window = cycle / 64 then a0 else { a0 with window := cycle / 64, grants := 0 }
    a.grants < 8 → leastBy (fun (v : Vd) => (v.num + 31 - a.last) % 32) (s.vds.filter (fun v => !(askingClusters s v field).isEmpty)) = some v →
    leastBy Cluster.asked (askingClusters s v field) = some k → ∃ t, exec (.surgeGrant field) s = .next t ∧ clusterOf t k.site = grantCluster k cycle ∧
      t.surges[field]? = some { window := cycle / 64, grants := a.grants + 1, last := v.num } ∧ t.groups = s.groups ∧ t.mem = s.mem) ∧
  (∀ field s a, s.surges[field]? = some a → a.window = cycleOf s field / 64 → 8 ≤ a.grants → Stays (.surgeGrant field) s) ∧
  (∀ die s, die < 8 → die ∉ s.failed → ∃ t, exec (.dieFailure die) s = .next t ∧ t.failed = s.failed ++ [die] ∧
    (∀ n v i, findVd t n = some v → i ∈ v.insts → i.pdie = die → i.failed = true) ∧ ∀ r, r ∈ t.remote → r.die ≠ die) ∧
  (∀ req pa s, ∃ t, exec (.integrity req pa) s = .next t ∧ pa / 64 ∈ t.integrity ∧ t.mem = s.mem) ∧
  (∀ s, ∃ t, exec .packageReset s = .next t ∧ t.vds = [] ∧ t.groups = [] ∧ t.teams = [] ∧ t.mem = [] ∧ t.reqs = [] ∧ t.windows = [] ∧ t.retired = s.retired) ∧
  (∀ site bay s g f, s.cur = none → s.tried = [] → bayGroups s site bay = [g] → g.replay = [] → g.frags = [f] → mayTry (cycleOf s (siteDie site)) f = true → f.bonded = false → stopDue s g = false →
    ∃ t, exec (.issueChoice site bay) s = .next t ∧ t.cur = some { gid := g.gid, fi := 0 } ∧ t.groups = s.groups ∧ t.mem = s.mem ∧ t.vds = s.vds)

/-! ## What holds of every step -/

/-- The model's own: memory lists its bytes at strictly rising addresses and none that is zero, so that equal memories are equal data; every step keeps that form (log 8). -/
def Obligations.EveryStepKeepsTheFormOfMemory : Prop :=
  ∀ s t : State, Memory.wf s.mem = true → step s = .next t → Memory.wf t.mem = true

/-- 02 R45: no surge window ever has more than 8 start grants, whatever a step does. -/
def Obligations.EveryStepKeepsTheSurgeLimit : Prop :=
  ∀ s t : State, (∀ a, a ∈ s.surges → a.grants ≤ 8) → step s = .next t → ∀ a, a ∈ t.surges → a.grants ≤ 8

/-- 05 R123-R125: no instruction is refused, and a step answers a next state whenever the next event asked for, if there is one, is no bare instruction word: a word runs in a fragment.
Choices of the model in it: logs 2, 49. -/
def Obligations.EveryStepAnswersAState : Prop :=
  (∀ i s r, exec i s ≠ .refused r) ∧ ∀ s : State, (∀ i, s.agenda.head? = some i → i.isWord = false) → ∃ t, step s = .next t

/-- 00 R6; 03 Table 3.3; 14 R359; 17 R431: after package reset nothing is in flight and no virtual device exists, every field is out of service, every slice gives stamp 1 next, memory is in its
form, and the surge limit holds. Choices of the model in it: logs 1, 11. -/
def Obligations.ResetHoldsTheInvariants : Prop :=
  Memory.wf State.reset.mem = true ∧ (∀ a, a ∈ State.reset.surges → a.grants ≤ 8) ∧ State.reset.groups = [] ∧ State.reset.vds = [] ∧ State.reset.reqs = [] ∧
  (∀ (f : Nat) (x : FieldSt), State.reset.fields[f]? = some x → x.svc = 0 ∧ x.imeas = 0#16 ∧ x.recal = false) ∧ State.reset.fields.length = 8 ∧ ∀ d k, (nextStamp State.reset d k).1 = 1
end

