-- ==== Sys2Proof/Laws/Store.lean ====
section
/-! SUPPORT. Laws/Store.lean: read after write, and the canonical form that every write keeps. -/

namespace Sys2Proof.Laws

open Sys2Proof.Machine

variable {w : Nat}

theorem wfFrom_mono {m : SMap w} {lo lo' : Nat} (h : lo' ≤ lo) (hm : wfFrom lo m = true) : wfFrom lo' m = true := by
  cases m with
  | nil => rfl
  | cons e r =>
    simp only [wfFrom, Bool.and_eq_true, decide_eq_true_eq] at hm ⊢
    exact ⟨⟨by omega, hm.1.2⟩, hm.2⟩

theorem rd_filter_ne (m : SMap w) (k j : Nat) : rd (m.filter (fun e => e.1 != k)) j = if j = k then 0#w else rd m j := by
  induction m with
  | nil => simp [rd]
  | cons e r ih =>
    obtain ⟨a, u⟩ := e
    by_cases ha : a = k
    · subst ha
      simp only [bne_self_eq_false, Bool.false_eq_true, not_false_eq_true, List.filter_cons_of_neg, rd, ih]
      by_cases hj : j = a
      · simp [hj]
      · simp [hj, Ne.symm hj]
    · have hp : (a != k) = true := by simpa using ha
      simp only [List.filter_cons, hp, if_true]
      by_cases hj : a = j
      · subst hj; simp [rd, ha]
      · simp [rd, hj, ih]

theorem rd_ins (m : SMap w) (k j : Nat) (v : BitVec w) : rd (ins m k v) j = if j = k then v else rd m j := by
  induction m with
  | nil =>
    by_cases h : j = k
    · simp [ins, rd, h]
    · simp [ins, rd, h, Ne.symm h]
  | cons e r ih =>
    obtain ⟨a, u⟩ := e
    by_cases h1 : k < a
    · by_cases h : j = k
      · simp [ins, h1, rd, h]
      · simp [ins, h1, rd, h, Ne.symm h]
    · by_cases h2 : k = a
      · subst h2
        by_cases h : j = k
        · simp [ins, rd, h]
        · simp [ins, rd, h, Ne.symm h]
      · by_cases h : a = j
        · subst h; simp [ins, h1, h2, rd, Ne.symm h2]
        · simp [ins, h1, h2, rd, h, ih]

/-- What every index reads as after a write. -/
theorem rd_wr (m : SMap w) (k j : Nat) (v : BitVec w) : rd (wr m k v) j = if j = k then v else rd m j := by
  unfold wr
  by_cases hv : v = 0#w
  · rw [if_pos hv, rd_filter_ne, hv]
  · rw [if_neg hv, rd_ins]

/-- A write leaves every other index alone. -/
theorem rd_wr_other (m : SMap w) {k j : Nat} (v : BitVec w) (h : j ≠ k) : rd (wr m k v) j = rd m j := by rw [rd_wr, if_neg h]

/-- A read after a write to the same index gives the value written. -/
@[simp] theorem rd_wr_same (m : SMap w) (k : Nat) (v : BitVec w) : rd (wr m k v) k = v := by rw [rd_wr, if_pos rfl]

theorem wfFrom_filter {m : SMap w} {lo : Nat} (p : Nat × BitVec w → Bool) (hm : wfFrom lo m = true) : wfFrom lo (m.filter p) = true := by
  induction m generalizing lo with
  | nil => rfl
  | cons e r ih =>
    obtain ⟨a, u⟩ := e
    simp only [wfFrom, Bool.and_eq_true, decide_eq_true_eq] at hm
    by_cases hp : p (a, u) = true
    · simp only [List.filter_cons_of_pos hp, wfFrom, Bool.and_eq_true, decide_eq_true_eq]
      exact ⟨hm.1, ih hm.2⟩
    · rw [List.filter_cons_of_neg hp]
      exact wfFrom_mono (by omega) (ih hm.2)

theorem wfFrom_ins {m : SMap w} {lo k : Nat} {v : BitVec w} (hv : v ≠ 0#w) (hm : wfFrom lo m = true) (hk : lo ≤ k) : wfFrom lo (ins m k v) = true := by
  induction m generalizing lo with
  | nil => simp [ins, hv, wfFrom, hk]
  | cons e r ih =>
    obtain ⟨a, u⟩ := e
    have hr := hm
    simp only [wfFrom, Bool.and_eq_true, decide_eq_true_eq] at hr
    by_cases h1 : k < a
    · simp only [ins, h1, if_true, wfFrom, Bool.and_eq_true, decide_eq_true_eq]
      exact ⟨⟨hk, hv⟩, ⟨by omega, hr.1.2⟩, hr.2⟩
    · by_cases h2 : k = a
      · subst h2
        simp only [ins, lt_irrefl, if_false, if_true, wfFrom, Bool.and_eq_true, decide_eq_true_eq]
        exact ⟨⟨hr.1.1, hv⟩, hr.2⟩
      · simp only [ins, h1, h2, if_false, wfFrom, Bool.and_eq_true, decide_eq_true_eq]
        exact ⟨hr.1, ih hr.2 (by omega)⟩

/-- A write keeps the canonical form. -/
theorem wf_wr {m : SMap w} (hm : SMap.wf m = true) (k : Nat) (v : BitVec w) : SMap.wf (wr m k v) = true := by
  unfold wr
  by_cases hv : v = 0#w
  · rw [if_pos hv]; exact wfFrom_filter _ hm
  · rw [if_neg hv]; exact wfFrom_ins hv hm (Nat.zero_le k)

theorem wf_nil : SMap.wf ([] : SMap w) = true := rfl

/-- Dropping entries keeps the canonical form. -/
theorem wf_drop {m : SMap w} (hm : SMap.wf m = true) (p : Nat → Bool) : SMap.wf (drop m p) = true := wfFrom_filter _ hm

theorem wf_filter {m : SMap w} (hm : SMap.wf m = true) (p : Nat × BitVec w → Bool) : SMap.wf (m.filter p) = true := wfFrom_filter p hm

/-- Writing bytes keeps the canonical form. -/
theorem wf_wrBytes {m : SMap 8} (hm : SMap.wf m = true) (a v n : Nat) : SMap.wf (wrBytes m a v n) = true := by
  induction n generalizing m a v with
  | zero => exact hm
  | succ n ih => exact ih (wf_wr hm _ _) _ _

theorem wf_wrList {m : SMap 8} (hm : SMap.wf m = true) (a : Nat) (l : List (BitVec 8)) : SMap.wf (wrList m a l) = true := by
  induction l generalizing m a with
  | nil => exact hm
  | cons b r ih => exact ih (wf_wr hm _ _) _

theorem wf_foldl {α : Type} (l : List α) (f : SMap w → α → SMap w) (hf : ∀ m x, SMap.wf m = true → SMap.wf (f m x) = true) {m : SMap w} (hm : SMap.wf m = true) :
    SMap.wf (l.foldl f m) = true := by
  induction l generalizing m with
  | nil => exact hm
  | cons x r ih => exact ih (hf m x hm)

theorem wf_wrLanes {m : SMap w} (hm : SMap.wf m = true) (base : Nat) (mask : Mask) (f : Nat → BitVec w) : SMap.wf (wrLanes m base mask f) = true := by
  apply wf_foldl _ _ _ hm
  intro m l h
  by_cases hl : mask.getLsbD l = true
  · simp only [hl, if_true]; exact wf_wr h _ _
  · simp only [hl]; exact h

/-! ### Writing a list in one pass -/

theorem wfFrom_append {l r : SMap w} {lo b : Nat} (hl : wfFrom lo l = true) (hb : ∀ e ∈ l, e.1 < b) (hr : wfFrom b r = true) (h : lo ≤ b) : wfFrom lo (l ++ r) = true := by
  induction l generalizing lo with
  | nil => exact wfFrom_mono h hr
  | cons e l ih =>
    simp only [wfFrom, Bool.and_eq_true, decide_eq_true_eq, List.cons_append] at hl ⊢
    exact ⟨hl.1, ih hl.2 (fun x hx => hb x (List.mem_cons_of_mem _ hx)) (hb e List.mem_cons_self)⟩

theorem wfFrom_filter_ge {m : SMap w} {lo : Nat} (b : Nat) (hm : wfFrom lo m = true) : wfFrom b (m.filter (fun e => decide (b ≤ e.1))) = true := by
  induction m generalizing lo with
  | nil => rfl
  | cons e r ih =>
    simp only [wfFrom, Bool.and_eq_true, decide_eq_true_eq] at hm
    by_cases h : b ≤ e.1
    · rw [List.filter_cons_of_pos (by simpa using h)]
      simp only [wfFrom, Bool.and_eq_true, decide_eq_true_eq]
      exact ⟨⟨h, hm.1.2⟩, wfFrom_filter _ hm.2⟩
    · rw [List.filter_cons_of_neg (by simpa using h)]; exact ih hm.2

/-- The values of a run that are not zero, with their indices. -/
def runOf (a : Nat) (l : List (BitVec w)) : SMap w :=
  (List.range l.length).filterMap (fun i => match l[i]? with
    | some v => if v = 0#w then none else some (a + i, v)
    | none => none)

theorem runOf_cons (a : Nat) (v : BitVec w) (l : List (BitVec w)) : runOf a (v :: l) = (if v = 0#w then [] else [(a, v)]) ++ runOf (a + 1) l := by
  unfold runOf
  rw [List.length_cons, List.range_succ_eq_map, List.filterMap_cons, List.filterMap_map]
  have h : (fun i => match (v :: l)[i]? with
      | some v => if v = 0#w then none else some (a + i, v)
      | none => none) ∘ Nat.succ = (fun i => match l[i]? with
      | some v => if v = 0#w then none else some (a + 1 + i, v)
      | none => none) := by
    funext i
    simp only [Function.comp, Nat.succ_eq_add_one, List.getElem?_cons_succ, Nat.add_assoc, Nat.add_comm 1]
  rw [h]
  by_cases hv : v = 0#w <;> simp [hv]

theorem wf_runOf (l : List (BitVec w)) : ∀ a, wfFrom a (runOf a l) = true ∧ ∀ e ∈ runOf a l, e.1 < a + l.length := by
  induction l with
  | nil => intro a; exact ⟨rfl, by simp [runOf]⟩
  | cons v l ih =>
    intro a
    obtain ⟨h1, h2⟩ := ih (a + 1)
    rw [runOf_cons]
    by_cases hv : v = 0#w
    · rw [if_pos hv, List.nil_append]
      refine ⟨wfFrom_mono (Nat.le_succ a) h1, fun e he => ?_⟩
      have := h2 e he
      simp only [List.length_cons]; omega
    · rw [if_neg hv]
      refine ⟨?_, fun e he => ?_⟩
      · simp only [List.singleton_append, wfFrom, Bool.and_eq_true, decide_eq_true_eq]
        exact ⟨⟨Nat.le_refl _, hv⟩, h1⟩
      · rcases List.mem_append.mp he with he | he
        · rw [List.mem_singleton.mp he]; simp
        · have := h2 e he
          simp only [List.length_cons]; omega

/-- Writing a list in one pass keeps the canonical form. -/
theorem wf_wrRun {m : SMap w} (hm : SMap.wf m = true) (a : Nat) (l : List (BitVec w)) : SMap.wf (wrRun m a l) = true := by
  have h2 := wf_runOf l a
  have h12 : wfFrom 0 (m.filter (fun e => decide (e.1 < a)) ++ runOf a l) = true :=
    wfFrom_append (wfFrom_filter _ hm) (fun e he => by simpa using (List.mem_filter.mp he).2) h2.1 (Nat.zero_le _)
  refine wfFrom_append h12 (fun e he => ?_) (wfFrom_filter_ge (a + l.length) hm) (Nat.zero_le _)
  rcases List.mem_append.mp he with he | he
  · have : e.1 < a := by simpa using (List.mem_filter.mp he).2
    omega
  · exact h2.2 e he

/-- A byte outside the written bytes reads as before. -/
theorem rd_wrBytes_other (m : SMap 8) (a v n k : Nat) (h : k < a ∨ a + n ≤ k) : rd (wrBytes m a v n) k = rd m k := by
  induction n generalizing m a v with
  | zero => rfl
  | succ n ih =>
    simp only [wrBytes]
    rw [ih _ _ _ (by omega), rd_wr_other _ _ (by omega)]

theorem rd_wrList_other (m : SMap 8) (a : Nat) (l : List (BitVec 8)) (k : Nat) (h : k < a ∨ a + l.length ≤ k) : rd (wrList m a l) k = rd m k := by
  induction l generalizing m a with
  | nil => rfl
  | cons b r ih =>
    simp only [List.length_cons] at h
    simp only [wrList]
    rw [ih _ _ (by omega), rd_wr_other _ _ (by omega)]

/-- Bytes written are read back: the number modulo the bytes' range. -/
theorem rdBytes_wrBytes (m : SMap 8) (a v n : Nat) : rdBytes (wrBytes m a v n) a n = v % 256 ^ n := by
  induction n generalizing m a v with
  | zero => simp [rdBytes, Nat.mod_one]
  | succ n ih =>
    simp only [rdBytes, wrBytes]
    rw [rd_wrBytes_other _ _ _ _ _ (Or.inl (Nat.lt_succ_self a)), rd_wr_same, ih]
    rw [BitVec.toNat_ofNat, show (256 : Nat) ^ (n + 1) = 256 * 256 ^ n from Nat.pow_succ', Nat.mod_mul]

theorem rd_wrList_same (m : SMap 8) (a : Nat) (l : List (BitVec 8)) (i : Nat) (h : i < l.length) : rd (wrList m a l) (a + i) = l[i] := by
  induction l generalizing m a i with
  | nil => simp at h
  | cons b r ih =>
    cases i with
    | zero =>
      simp only [wrList, Nat.add_zero, List.getElem_cons_zero]
      rw [rd_wrList_other _ _ _ _ (Or.inl (Nat.lt_succ_self a)), rd_wr_same]
    | succ i =>
      simp only [wrList, List.getElem_cons_succ]
      have := ih (wr m a b) (a + 1) i (by simpa using h)
      rw [← this]; congr 1; omega

theorem rd_lanes_fold (m : SMap w) (base : Nat) (mask : Mask) (f : Nat → BitVec w) (l : List Nat) (k : Nat) :
    rd (l.foldl (fun m l => if mask.getLsbD l then wr m (base + l) (f l) else m) m) k =
      (if ∃ j ∈ l, mask.getLsbD j = true ∧ base + j = k then f (k - base) else rd m k) := by
  induction l generalizing m with
  | nil => simp
  | cons x r ih =>
    simp only [List.foldl_cons]
    by_cases hx : mask.getLsbD x = true
    · simp only [hx, if_true]
      rw [ih]
      by_cases hr : ∃ j ∈ r, mask.getLsbD j = true ∧ base + j = k
      · rw [if_pos hr, if_pos]
        obtain ⟨j, hj, h⟩ := hr
        exact ⟨j, List.mem_cons_of_mem _ hj, h⟩
      · rw [if_neg hr]
        by_cases hk : base + x = k
        · subst hk
          rw [rd_wr_same, if_pos ⟨x, List.mem_cons_self, hx, rfl⟩]; congr 1; omega
        · rw [rd_wr_other _ _ (fun h => hk h.symm), if_neg]
          rintro ⟨j, hj, h⟩
          rcases List.mem_cons.mp hj with rfl | hj
          · exact hk h.2
          · exact hr ⟨j, hj, h⟩
    · simp only [hx, Bool.false_eq_true, if_false]
      rw [ih]
      have : (∃ j ∈ x :: r, mask.getLsbD j = true ∧ base + j = k) ↔ (∃ j ∈ r, mask.getLsbD j = true ∧ base + j = k) := by
        constructor
        · rintro ⟨j, hj, h⟩
          rcases List.mem_cons.mp hj with rfl | hj
          · exact absurd h.1 hx
          · exact ⟨j, hj, h⟩
        · rintro ⟨j, hj, h⟩
          exact ⟨j, List.mem_cons_of_mem _ hj, h⟩
      simp only [this]

/-- What a masked write of 32 lanes leaves at each index. -/
theorem rd_wrLanes (m : SMap w) (base : Nat) (mask : Mask) (f : Nat → BitVec w) (k : Nat) :
    rd (wrLanes m base mask f) k = if base ≤ k ∧ k < base + 32 ∧ mask.getLsbD (k - base) = true then f (k - base) else rd m k := by
  unfold wrLanes
  rw [rd_lanes_fold]
  have : (∃ j ∈ List.range 32, mask.getLsbD j = true ∧ base + j = k) ↔ (base ≤ k ∧ k < base + 32 ∧ mask.getLsbD (k - base) = true) := by
    constructor
    · rintro ⟨j, hj, hm, rfl⟩
      rw [List.mem_range] at hj
      refine ⟨by omega, by omega, ?_⟩
      rwa [show base + j - base = j by omega]
    · rintro ⟨h1, h2, h3⟩
      exact ⟨k - base, List.mem_range.mpr (by omega), h3, by omega⟩
  simp only [this]

theorem rd_filter (m : SMap w) (p : Nat → Bool) (k : Nat) : rd (m.filter (fun e => p e.1)) k = if p k then rd m k else 0#w := by
  induction m with
  | nil => simp [rd]
  | cons e r ih =>
    obtain ⟨a, u⟩ := e
    by_cases hp : p a = true <;> by_cases ha : a = k
    · subst ha; simp [hp, rd]
    · simp [hp, rd, ha, ih]
    · subst ha; simp [hp, ih]
    · simp [hp, rd, ha, ih]

theorem rd_shift_fold (l m : SMap 8) (a b k : Nat) (h : ∀ e ∈ l, a ≤ e.1) :
    rd (l.foldr (fun e m => wr m (b + (e.1 - a)) e.2) m) k = if b ≤ k ∧ ∃ e ∈ l, e.1 = a + (k - b) then rd l (a + (k - b)) else rd m k := by
  induction l with
  | nil => simp
  | cons e r ih =>
    obtain ⟨x, u⟩ := e
    have hx : a ≤ x := h (x, u) List.mem_cons_self
    simp only [List.foldr_cons, rd_wr, ih (fun e he => h e (List.mem_cons_of_mem _ he)), List.mem_cons, exists_eq_or_imp, rd]
    by_cases hk : k = b + (x - a)
    · rw [if_pos hk, if_pos ⟨by omega, .inl (by omega)⟩, if_pos (by omega)]
    · have : ¬ (b ≤ k ∧ x = a + (k - b)) := fun c => hk (by omega)
      by_cases hb : b ≤ k
      · have hne : x ≠ a + (k - b) := fun c => this ⟨hb, c⟩
        simp [hk, hb, hne]
      · simp [hk, hb]

theorem wf_foldr {α : Type} (l : List α) (f : α → SMap w → SMap w) (hf : ∀ x m, SMap.wf m = true → SMap.wf (f x m) = true) {m : SMap w} (hm : SMap.wf m = true) :
    SMap.wf (l.foldr f m) = true := by
  induction l with
  | nil => exact hm
  | cons x r ih => exact hf _ _ ih

theorem wf_shiftBytes {m : SMap 8} (hm : SMap.wf m = true) (a n b : Nat) : SMap.wf (shiftBytes m a n b) = true :=
  wf_foldr _ _ (fun _ _ h => wf_wr h _ _) (wf_filter hm _)

theorem rd_none (m : SMap w) (k : Nat) (h : ¬ ∃ e ∈ m, e.1 = k) : rd m k = 0#w := by
  induction m with
  | nil => rfl
  | cons e r ih =>
    obtain ⟨x, u⟩ := e
    have hx : x ≠ k := fun c => h ⟨(x, u), List.mem_cons_self, c⟩
    rw [rd, if_neg hx]
    exact ih (fun ⟨e, he, c⟩ => h ⟨e, List.mem_cons_of_mem _ he, c⟩)

/-- Bytes that move are found where they moved to, zeros where they were, and every other byte as it was. -/
theorem rd_shiftBytes (m : SMap 8) (a n b k : Nat) :
    rd (shiftBytes m a n b) k = if b ≤ k ∧ k < b + n then rd m (a + (k - b)) else if a ≤ k ∧ k < a + n then 0#8 else rd m k := by
  unfold shiftBytes
  simp only
  rw [rd_shift_fold _ _ _ _ _ (fun e he => by simp only [List.mem_filter, Bool.and_eq_true, decide_eq_true_eq] at he; exact he.2.1),
    rd_filter m (fun i => decide (a ≤ i) && decide (i < a + n)) (a + (k - b)),
    rd_filter m (fun i => !(decide (a ≤ i) && decide (i < a + n)) && !(decide (b ≤ i) && decide (i < b + n))) k]
  by_cases hb : b ≤ k ∧ k < b + n
  · rw [if_pos hb]
    by_cases hm : ∃ e ∈ m, e.1 = a + (k - b)
    · obtain ⟨e, he, h⟩ := hm
      rw [if_pos ⟨hb.1, e, by simp only [List.mem_filter, Bool.and_eq_true, decide_eq_true_eq]; exact ⟨he, by omega, by omega⟩, h⟩, if_pos (by simp; omega)]
    · rw [if_neg (fun c => hm (by obtain ⟨-, e, he, h⟩ := c; exact ⟨e, (List.mem_filter.mp he).1, h⟩)), if_neg (by simp; omega), rd_none m _ hm]
  · rw [if_neg hb, if_neg (fun c => hb (by
      obtain ⟨h, e, he, h2⟩ := c
      simp only [List.mem_filter, Bool.and_eq_true, decide_eq_true_eq] at he
      exact ⟨h, by omega⟩))]
    by_cases ha : a ≤ k ∧ k < a + n
    · rw [if_pos ha, if_neg (by simp; omega)]
    · rw [if_neg ha, if_pos (by simp; omega)]

end Sys2Proof.Laws
end

