-- ==== Sys2Proof/Laws/Issue.lean ====
section
/-! SUPPORT. Laws/Issue.lean: what issuing a word answers; what putting a group back does; what every form of result leaves alone. -/

namespace Sys2Proof.Laws

open Sys2Proof.Machine

/-! ### Putting a group back -/

theorem find_map_group (l : List Group) (g : Group) (h : Nat) :
    (l.map (fun x => if x.gid == g.gid then g else x)).find? (fun x => x.gid == h) =
      if h = g.gid then (l.find? (fun x => x.gid == h)).map (fun _ => g) else l.find? (fun x => x.gid == h) := by
  induction l with
  | nil => by_cases hh : h = g.gid <;> simp [hh]
  | cons x r ih =>
    simp only [List.map_cons, List.find?_cons]
    by_cases hh : h = g.gid
    · subst hh
      rw [if_pos rfl] at ih ⊢
      by_cases hx : x.gid == g.gid
      · simp [hx]
      · simp only [hx, if_false, Bool.false_eq_true]; exact ih
    · rw [if_neg hh] at ih ⊢
      by_cases hx : x.gid == g.gid
      · have h1 : (g.gid == h) = false := by simpa using Ne.symm hh
        have h2 : (x.gid == h) = false := by rw [beq_iff_eq.mp hx]; exact h1
        simp only [hx, if_true, h1, h2]; exact ih
      · simp only [hx, if_false, Bool.false_eq_true]
        by_cases h2 : x.gid == h
        · simp [h2]
        · simp only [h2]; exact ih

/-- A group put back is found under its number. -/
theorem findGroup_setGroup_same {s : State} {g g' : Group} (h : findGroup s g'.gid = some g) : findGroup (setGroup s g') g'.gid = some g' := by
  unfold findGroup setGroup at *
  simp only [find_map_group, if_true, h, Option.map_some]

theorem findGroup_setGroup_at {s : State} {g g' : Group} {n : Nat} (hn : g'.gid = n) (h : findGroup s n = some g) : findGroup (setGroup s g') n = some g' := by
  subst hn; exact findGroup_setGroup_same h

/-- Every other group is found as before. -/
theorem findGroup_setGroup_other {s : State} {g : Group} {h : Nat} (hh : h ≠ g.gid) : findGroup (setGroup s g) h = findGroup s h := by
  unfold findGroup setGroup
  simp only [find_map_group, if_neg hh]

/-! ### Issuing -/

/-- A word that the chosen fragment may issue has the effect its body gives it. -/
theorem issue_of_issues {i : Instr} {s : State} {c : Ctx} (h : Issues i s c) (body : Ctx → Except Trap State) :
    issue i s body = .next (finishIssue c body) := by
  obtain ⟨f, hf, hc⟩ := h.here
  have h1 := h.noTrap
  have h2 := h.ready
  have h3 := h.starts
  have hs := h.cur
  have hg := h.found
  have hr := h.running
  have hn := h.fresh
  have hcy : c.cycle = cycleOf s (siteDie c.g.site) := by rw [hc]; rfl
  have hcf : c.f = issuing i s c.g f := by rw [hc]; rfl
  unfold issue
  simp only [hs, hg, hn, List.isEmpty_nil, if_true, hf, Bool.true_and]
  simp only [hr, bne_self_eq_false, Bool.false_eq_true, if_false]
  rw [hcf] at h1 h2 h3
  rw [hcy] at h2
  simp only [issuing, bonds] at h1 h2 h3
  rw [h3, h1, h2]
  simp only [Bool.false_eq_true, if_false]
  rw [hc]
  rfl

/-- A word that only computes in its group answers the state its effect leaves. -/
theorem plain_of_issues {i : Instr} {s : State} {c : Ctx} (h : Issues i s c) (op : Ctx → Ctx) : plain i s op = .next (op c).finish := by
  unfold plain; rw [issue_of_issues h]; rfl

/-- A word whose trap causes hold is trapped (04 R106). -/
theorem issue_of_trap {i : Instr} {s : State} {c : Ctx} {t : Trap} (h : Chosen i s c) (h3 : startHeld s c.g c.f i = false) (ht : firstTrap s c.g c.f i = some t) (body : Ctx → Except Trap State) :
    issue i s body = .next (raiseTrap c t) := by
  obtain ⟨f, hf, hc⟩ := h.here
  have hs := h.cur
  have hg := h.found
  have hr := h.running
  have hn := h.fresh
  have hcf : c.f = issuing i s c.g f := by rw [hc]; rfl
  unfold issue
  simp only [hs, hg, hn, List.isEmpty_nil, if_true, hf, Bool.true_and]
  simp only [hr, bne_self_eq_false, Bool.false_eq_true, if_false]
  rw [hcf] at ht h3
  simp only [issuing, bonds] at ht h3
  rw [h3, ht]
  simp only [Bool.false_eq_true, if_false]
  rw [hc]
  rfl

/-- The state in a chosen context is the package's, but for what issuing itself changes. -/
theorem state_of_chosen {i : Instr} {s : State} {c : Ctx} (h : Chosen i s c) :
    ∃ n, c.s = setGroup { s with cur := none, tried := untry s c.g, nextId := n } c.g := by
  obtain ⟨f, -, hc⟩ := h.here
  rw [hc]; exact ⟨_, rfl⟩

/-- Issuing counts no fragment as tried. -/
theorem untry_sub {s : State} {g : Group} {u : Cur} (h : u ∈ untry s g) : u ∈ s.tried := (List.mem_filter.mp h).1

theorem frag_of_chosen {i : Instr} {s : State} {c : Ctx} (h : Chosen i s c) : ∃ f, c.g.frags[c.fi]? = some f ∧ c.f.pc = f.pc ∧ c.f.mask = f.mask ∧ c.f.board = f.board := by
  obtain ⟨f, hf, hc⟩ := h.here
  refine ⟨f, hf, ?_⟩
  have : c.f = issuing i s c.g f := by rw [hc]; rfl
  rw [this]
  unfold issuing prepared
  dsimp only
  split <;> exact ⟨rfl, rfl, rfl⟩

end Sys2Proof.Laws
end

