-- ==== Sys2Proof/Laws/State.lean ====
section
/-! SUPPORT. Laws/State.lean: what each update of the state, of a group and of a context leaves as it was: one lemma for each field and update, so that no proof unfolds a record update. -/

namespace Sys2Proof.Machine

/-! ### Updates of the state -/

@[simp] theorem setGroup_teams (s : State) (g : Group) : (setGroup s g).teams = s.teams := rfl
@[simp] theorem setGroup_clusters (s : State) (g : Group) : (setGroup s g).clusters = s.clusters := rfl
@[simp] theorem setGroup_cur (s : State) (g : Group) : (setGroup s g).cur = s.cur := rfl
@[simp] theorem setGroup_tried (s : State) (g : Group) : (setGroup s g).tried = s.tried := rfl
@[simp] theorem setGroup_cycles (s : State) (g : Group) : (setGroup s g).cycles = s.cycles := rfl
@[simp] theorem setGroup_freeCtr (s : State) (g : Group) : (setGroup s g).freeCtr = s.freeCtr := rfl
@[simp] theorem setGroup_nextId (s : State) (g : Group) : (setGroup s g).nextId = s.nextId := rfl
@[simp] theorem setGroup_agenda (s : State) (g : Group) : (setGroup s g).agenda = s.agenda := rfl
@[simp] theorem setGroup_mem (s : State) (g : Group) : (setGroup s g).mem = s.mem := rfl
@[simp] theorem setGroup_vds (s : State) (g : Group) : (setGroup s g).vds = s.vds := rfl
@[simp] theorem setGroup_reqs (s : State) (g : Group) : (setGroup s g).reqs = s.reqs := rfl
@[simp] theorem setGroup_stc (s : State) (g : Group) : (setGroup s g).stc = s.stc := rfl
@[simp] theorem setGroup_blocks (s : State) (g : Group) : (setGroup s g).blocks = s.blocks := rfl
@[simp] theorem setGroup_remote (s : State) (g : Group) : (setGroup s g).remote = s.remote := rfl
@[simp] theorem setGroup_fed (s : State) (g : Group) : (setGroup s g).fed = s.fed := rfl
@[simp] theorem setGroup_monitors (s : State) (g : Group) : (setGroup s g).monitors = s.monitors := rfl
@[simp] theorem setGroup_drays (s : State) (g : Group) : (setGroup s g).drays = s.drays := rfl
@[simp] theorem setGroup_shoots (s : State) (g : Group) : (setGroup s g).shoots = s.shoots := rfl
@[simp] theorem setGroup_stamps (s : State) (g : Group) : (setGroup s g).stamps = s.stamps := rfl
@[simp] theorem setGroup_hvecs (s : State) (g : Group) : (setGroup s g).hvecs = s.hvecs := rfl
@[simp] theorem setGroup_sliceMap (s : State) (g : Group) : (setGroup s g).sliceMap = s.sliceMap := rfl
@[simp] theorem setGroup_mapGen (s : State) (g : Group) : (setGroup s g).mapGen = s.mapGen := rfl
@[simp] theorem setGroup_retiredSlices (s : State) (g : Group) : (setGroup s g).retiredSlices = s.retiredSlices := rfl
@[simp] theorem setGroup_fields (s : State) (g : Group) : (setGroup s g).fields = s.fields := rfl
@[simp] theorem setGroup_early (s : State) (g : Group) : (setGroup s g).early = s.early := rfl
@[simp] theorem setGroup_surges (s : State) (g : Group) : (setGroup s g).surges = s.surges := rfl
@[simp] theorem setGroup_failed (s : State) (g : Group) : (setGroup s g).failed = s.failed := rfl
@[simp] theorem setGroup_retired (s : State) (g : Group) : (setGroup s g).retired = s.retired := rfl
@[simp] theorem setGroup_integrity (s : State) (g : Group) : (setGroup s g).integrity = s.integrity := rfl
@[simp] theorem setGroup_mboxes (s : State) (g : Group) : (setGroup s g).mboxes = s.mboxes := rfl
@[simp] theorem setGroup_pace (s : State) (g : Group) : (setGroup s g).pace = s.pace := rfl
@[simp] theorem setGroup_poolFarOps (s : State) (g : Group) : (setGroup s g).poolFarOps = s.poolFarOps := rfl
@[simp] theorem setGroup_windows (s : State) (g : Group) : (setGroup s g).windows = s.windows := rfl
@[simp] theorem setGroup_paths (s : State) (g : Group) : (setGroup s g).paths = s.paths := rfl
@[simp] theorem setGroup_services (s : State) (g : Group) : (setGroup s g).services = s.services := rfl
@[simp] theorem setGroup_smcTold (s : State) (g : Group) : (setGroup s g).smcTold = s.smcTold := rfl
@[simp] theorem setGroup_smcRecords (s : State) (g : Group) : (setGroup s g).smcRecords = s.smcRecords := rfl
@[simp] theorem setGroup_smcHalted (s : State) (g : Group) : (setGroup s g).smcHalted = s.smcHalted := rfl
@[simp] theorem setGroup_standby (s : State) (g : Group) : (setGroup s g).standby = s.standby := rfl
@[simp] theorem setGroup_failover (s : State) (g : Group) : (setGroup s g).failover = s.failover := rfl
@[simp] theorem setGroup_chanService (s : State) (g : Group) : (setGroup s g).chanService = s.chanService := rfl
@[simp] theorem setGroup_hostHeld (s : State) (g : Group) : (setGroup s g).hostHeld = s.hostHeld := rfl
@[simp] theorem setGroup_hostReads (s : State) (g : Group) : (setGroup s g).hostReads = s.hostReads := rfl
@[simp] theorem setGroup_putHeld (s : State) (g : Group) : (setGroup s g).putHeld = s.putHeld := rfl
@[simp] theorem setGroup_tickets (s : State) (g : Group) : (setGroup s g).tickets = s.tickets := rfl
@[simp] theorem setGroup_locks (s : State) (g : Group) : (setGroup s g).locks = s.locks := rfl
@[simp] theorem setGroup_mapChanges (s : State) (g : Group) : (setGroup s g).mapChanges = s.mapChanges := rfl
@[simp] theorem setGroup_syscalls (s : State) (g : Group) : (setGroup s g).syscalls = s.syscalls := rfl

@[simp] theorem modGroup_teams (s : State) (n : Nat) (f : Group → Group) : (modGroup s n f).teams = s.teams := rfl
@[simp] theorem modGroup_clusters (s : State) (n : Nat) (f : Group → Group) : (modGroup s n f).clusters = s.clusters := rfl
@[simp] theorem modGroup_cur (s : State) (n : Nat) (f : Group → Group) : (modGroup s n f).cur = s.cur := rfl
@[simp] theorem modGroup_tried (s : State) (n : Nat) (f : Group → Group) : (modGroup s n f).tried = s.tried := rfl
@[simp] theorem modGroup_cycles (s : State) (n : Nat) (f : Group → Group) : (modGroup s n f).cycles = s.cycles := rfl
@[simp] theorem modGroup_freeCtr (s : State) (n : Nat) (f : Group → Group) : (modGroup s n f).freeCtr = s.freeCtr := rfl
@[simp] theorem modGroup_nextId (s : State) (n : Nat) (f : Group → Group) : (modGroup s n f).nextId = s.nextId := rfl
@[simp] theorem modGroup_agenda (s : State) (n : Nat) (f : Group → Group) : (modGroup s n f).agenda = s.agenda := rfl
@[simp] theorem modGroup_mem (s : State) (n : Nat) (f : Group → Group) : (modGroup s n f).mem = s.mem := rfl
@[simp] theorem modGroup_vds (s : State) (n : Nat) (f : Group → Group) : (modGroup s n f).vds = s.vds := rfl
@[simp] theorem modGroup_reqs (s : State) (n : Nat) (f : Group → Group) : (modGroup s n f).reqs = s.reqs := rfl
@[simp] theorem modGroup_stc (s : State) (n : Nat) (f : Group → Group) : (modGroup s n f).stc = s.stc := rfl
@[simp] theorem modGroup_blocks (s : State) (n : Nat) (f : Group → Group) : (modGroup s n f).blocks = s.blocks := rfl
@[simp] theorem modGroup_remote (s : State) (n : Nat) (f : Group → Group) : (modGroup s n f).remote = s.remote := rfl
@[simp] theorem modGroup_fed (s : State) (n : Nat) (f : Group → Group) : (modGroup s n f).fed = s.fed := rfl
@[simp] theorem modGroup_monitors (s : State) (n : Nat) (f : Group → Group) : (modGroup s n f).monitors = s.monitors := rfl
@[simp] theorem modGroup_drays (s : State) (n : Nat) (f : Group → Group) : (modGroup s n f).drays = s.drays := rfl
@[simp] theorem modGroup_shoots (s : State) (n : Nat) (f : Group → Group) : (modGroup s n f).shoots = s.shoots := rfl
@[simp] theorem modGroup_stamps (s : State) (n : Nat) (f : Group → Group) : (modGroup s n f).stamps = s.stamps := rfl
@[simp] theorem modGroup_hvecs (s : State) (n : Nat) (f : Group → Group) : (modGroup s n f).hvecs = s.hvecs := rfl
@[simp] theorem modGroup_sliceMap (s : State) (n : Nat) (f : Group → Group) : (modGroup s n f).sliceMap = s.sliceMap := rfl
@[simp] theorem modGroup_mapGen (s : State) (n : Nat) (f : Group → Group) : (modGroup s n f).mapGen = s.mapGen := rfl
@[simp] theorem modGroup_retiredSlices (s : State) (n : Nat) (f : Group → Group) : (modGroup s n f).retiredSlices = s.retiredSlices := rfl
@[simp] theorem modGroup_fields (s : State) (n : Nat) (f : Group → Group) : (modGroup s n f).fields = s.fields := rfl
@[simp] theorem modGroup_early (s : State) (n : Nat) (f : Group → Group) : (modGroup s n f).early = s.early := rfl
@[simp] theorem modGroup_surges (s : State) (n : Nat) (f : Group → Group) : (modGroup s n f).surges = s.surges := rfl
@[simp] theorem modGroup_failed (s : State) (n : Nat) (f : Group → Group) : (modGroup s n f).failed = s.failed := rfl
@[simp] theorem modGroup_retired (s : State) (n : Nat) (f : Group → Group) : (modGroup s n f).retired = s.retired := rfl
@[simp] theorem modGroup_integrity (s : State) (n : Nat) (f : Group → Group) : (modGroup s n f).integrity = s.integrity := rfl
@[simp] theorem modGroup_mboxes (s : State) (n : Nat) (f : Group → Group) : (modGroup s n f).mboxes = s.mboxes := rfl
@[simp] theorem modGroup_pace (s : State) (n : Nat) (f : Group → Group) : (modGroup s n f).pace = s.pace := rfl
@[simp] theorem modGroup_poolFarOps (s : State) (n : Nat) (f : Group → Group) : (modGroup s n f).poolFarOps = s.poolFarOps := rfl
@[simp] theorem modGroup_windows (s : State) (n : Nat) (f : Group → Group) : (modGroup s n f).windows = s.windows := rfl
@[simp] theorem modGroup_paths (s : State) (n : Nat) (f : Group → Group) : (modGroup s n f).paths = s.paths := rfl
@[simp] theorem modGroup_services (s : State) (n : Nat) (f : Group → Group) : (modGroup s n f).services = s.services := rfl
@[simp] theorem modGroup_smcTold (s : State) (n : Nat) (f : Group → Group) : (modGroup s n f).smcTold = s.smcTold := rfl
@[simp] theorem modGroup_smcRecords (s : State) (n : Nat) (f : Group → Group) : (modGroup s n f).smcRecords = s.smcRecords := rfl
@[simp] theorem modGroup_smcHalted (s : State) (n : Nat) (f : Group → Group) : (modGroup s n f).smcHalted = s.smcHalted := rfl
@[simp] theorem modGroup_standby (s : State) (n : Nat) (f : Group → Group) : (modGroup s n f).standby = s.standby := rfl
@[simp] theorem modGroup_failover (s : State) (n : Nat) (f : Group → Group) : (modGroup s n f).failover = s.failover := rfl
@[simp] theorem modGroup_chanService (s : State) (n : Nat) (f : Group → Group) : (modGroup s n f).chanService = s.chanService := rfl
@[simp] theorem modGroup_hostHeld (s : State) (n : Nat) (f : Group → Group) : (modGroup s n f).hostHeld = s.hostHeld := rfl
@[simp] theorem modGroup_hostReads (s : State) (n : Nat) (f : Group → Group) : (modGroup s n f).hostReads = s.hostReads := rfl
@[simp] theorem modGroup_putHeld (s : State) (n : Nat) (f : Group → Group) : (modGroup s n f).putHeld = s.putHeld := rfl
@[simp] theorem modGroup_tickets (s : State) (n : Nat) (f : Group → Group) : (modGroup s n f).tickets = s.tickets := rfl
@[simp] theorem modGroup_locks (s : State) (n : Nat) (f : Group → Group) : (modGroup s n f).locks = s.locks := rfl
@[simp] theorem modGroup_mapChanges (s : State) (n : Nat) (f : Group → Group) : (modGroup s n f).mapChanges = s.mapChanges := rfl
@[simp] theorem modGroup_syscalls (s : State) (n : Nat) (f : Group → Group) : (modGroup s n f).syscalls = s.syscalls := rfl

@[simp] theorem setTeam_groups (s : State) (t : Team) : (setTeam s t).groups = s.groups := rfl
@[simp] theorem setTeam_clusters (s : State) (t : Team) : (setTeam s t).clusters = s.clusters := rfl
@[simp] theorem setTeam_cur (s : State) (t : Team) : (setTeam s t).cur = s.cur := rfl
@[simp] theorem setTeam_tried (s : State) (t : Team) : (setTeam s t).tried = s.tried := rfl
@[simp] theorem setTeam_cycles (s : State) (t : Team) : (setTeam s t).cycles = s.cycles := rfl
@[simp] theorem setTeam_freeCtr (s : State) (t : Team) : (setTeam s t).freeCtr = s.freeCtr := rfl
@[simp] theorem setTeam_nextId (s : State) (t : Team) : (setTeam s t).nextId = s.nextId := rfl
@[simp] theorem setTeam_agenda (s : State) (t : Team) : (setTeam s t).agenda = s.agenda := rfl
@[simp] theorem setTeam_mem (s : State) (t : Team) : (setTeam s t).mem = s.mem := rfl
@[simp] theorem setTeam_vds (s : State) (t : Team) : (setTeam s t).vds = s.vds := rfl
@[simp] theorem setTeam_reqs (s : State) (t : Team) : (setTeam s t).reqs = s.reqs := rfl
@[simp] theorem setTeam_stc (s : State) (t : Team) : (setTeam s t).stc = s.stc := rfl
@[simp] theorem setTeam_blocks (s : State) (t : Team) : (setTeam s t).blocks = s.blocks := rfl
@[simp] theorem setTeam_remote (s : State) (t : Team) : (setTeam s t).remote = s.remote := rfl
@[simp] theorem setTeam_fed (s : State) (t : Team) : (setTeam s t).fed = s.fed := rfl
@[simp] theorem setTeam_monitors (s : State) (t : Team) : (setTeam s t).monitors = s.monitors := rfl
@[simp] theorem setTeam_drays (s : State) (t : Team) : (setTeam s t).drays = s.drays := rfl
@[simp] theorem setTeam_shoots (s : State) (t : Team) : (setTeam s t).shoots = s.shoots := rfl
@[simp] theorem setTeam_stamps (s : State) (t : Team) : (setTeam s t).stamps = s.stamps := rfl
@[simp] theorem setTeam_hvecs (s : State) (t : Team) : (setTeam s t).hvecs = s.hvecs := rfl
@[simp] theorem setTeam_sliceMap (s : State) (t : Team) : (setTeam s t).sliceMap = s.sliceMap := rfl
@[simp] theorem setTeam_mapGen (s : State) (t : Team) : (setTeam s t).mapGen = s.mapGen := rfl
@[simp] theorem setTeam_retiredSlices (s : State) (t : Team) : (setTeam s t).retiredSlices = s.retiredSlices := rfl
@[simp] theorem setTeam_fields (s : State) (t : Team) : (setTeam s t).fields = s.fields := rfl
@[simp] theorem setTeam_early (s : State) (t : Team) : (setTeam s t).early = s.early := rfl
@[simp] theorem setTeam_surges (s : State) (t : Team) : (setTeam s t).surges = s.surges := rfl
@[simp] theorem setTeam_failed (s : State) (t : Team) : (setTeam s t).failed = s.failed := rfl
@[simp] theorem setTeam_retired (s : State) (t : Team) : (setTeam s t).retired = s.retired := rfl
@[simp] theorem setTeam_integrity (s : State) (t : Team) : (setTeam s t).integrity = s.integrity := rfl
@[simp] theorem setTeam_mboxes (s : State) (t : Team) : (setTeam s t).mboxes = s.mboxes := rfl
@[simp] theorem setTeam_pace (s : State) (t : Team) : (setTeam s t).pace = s.pace := rfl
@[simp] theorem setTeam_poolFarOps (s : State) (t : Team) : (setTeam s t).poolFarOps = s.poolFarOps := rfl
@[simp] theorem setTeam_windows (s : State) (t : Team) : (setTeam s t).windows = s.windows := rfl
@[simp] theorem setTeam_paths (s : State) (t : Team) : (setTeam s t).paths = s.paths := rfl
@[simp] theorem setTeam_services (s : State) (t : Team) : (setTeam s t).services = s.services := rfl
@[simp] theorem setTeam_smcTold (s : State) (t : Team) : (setTeam s t).smcTold = s.smcTold := rfl
@[simp] theorem setTeam_smcRecords (s : State) (t : Team) : (setTeam s t).smcRecords = s.smcRecords := rfl
@[simp] theorem setTeam_smcHalted (s : State) (t : Team) : (setTeam s t).smcHalted = s.smcHalted := rfl
@[simp] theorem setTeam_standby (s : State) (t : Team) : (setTeam s t).standby = s.standby := rfl
@[simp] theorem setTeam_failover (s : State) (t : Team) : (setTeam s t).failover = s.failover := rfl
@[simp] theorem setTeam_chanService (s : State) (t : Team) : (setTeam s t).chanService = s.chanService := rfl
@[simp] theorem setTeam_hostHeld (s : State) (t : Team) : (setTeam s t).hostHeld = s.hostHeld := rfl
@[simp] theorem setTeam_hostReads (s : State) (t : Team) : (setTeam s t).hostReads = s.hostReads := rfl
@[simp] theorem setTeam_putHeld (s : State) (t : Team) : (setTeam s t).putHeld = s.putHeld := rfl
@[simp] theorem setTeam_tickets (s : State) (t : Team) : (setTeam s t).tickets = s.tickets := rfl
@[simp] theorem setTeam_locks (s : State) (t : Team) : (setTeam s t).locks = s.locks := rfl
@[simp] theorem setTeam_mapChanges (s : State) (t : Team) : (setTeam s t).mapChanges = s.mapChanges := rfl
@[simp] theorem setTeam_syscalls (s : State) (t : Team) : (setTeam s t).syscalls = s.syscalls := rfl

@[simp] theorem setVd_groups (s : State) (v : Vd) : (setVd s v).groups = s.groups := rfl
@[simp] theorem setVd_teams (s : State) (v : Vd) : (setVd s v).teams = s.teams := rfl
@[simp] theorem setVd_clusters (s : State) (v : Vd) : (setVd s v).clusters = s.clusters := rfl
@[simp] theorem setVd_cur (s : State) (v : Vd) : (setVd s v).cur = s.cur := rfl
@[simp] theorem setVd_tried (s : State) (v : Vd) : (setVd s v).tried = s.tried := rfl
@[simp] theorem setVd_cycles (s : State) (v : Vd) : (setVd s v).cycles = s.cycles := rfl
@[simp] theorem setVd_freeCtr (s : State) (v : Vd) : (setVd s v).freeCtr = s.freeCtr := rfl
@[simp] theorem setVd_nextId (s : State) (v : Vd) : (setVd s v).nextId = s.nextId := rfl
@[simp] theorem setVd_agenda (s : State) (v : Vd) : (setVd s v).agenda = s.agenda := rfl
@[simp] theorem setVd_mem (s : State) (v : Vd) : (setVd s v).mem = s.mem := rfl
@[simp] theorem setVd_reqs (s : State) (v : Vd) : (setVd s v).reqs = s.reqs := rfl
@[simp] theorem setVd_stc (s : State) (v : Vd) : (setVd s v).stc = s.stc := rfl
@[simp] theorem setVd_blocks (s : State) (v : Vd) : (setVd s v).blocks = s.blocks := rfl
@[simp] theorem setVd_remote (s : State) (v : Vd) : (setVd s v).remote = s.remote := rfl
@[simp] theorem setVd_fed (s : State) (v : Vd) : (setVd s v).fed = s.fed := rfl
@[simp] theorem setVd_monitors (s : State) (v : Vd) : (setVd s v).monitors = s.monitors := rfl
@[simp] theorem setVd_drays (s : State) (v : Vd) : (setVd s v).drays = s.drays := rfl
@[simp] theorem setVd_shoots (s : State) (v : Vd) : (setVd s v).shoots = s.shoots := rfl
@[simp] theorem setVd_stamps (s : State) (v : Vd) : (setVd s v).stamps = s.stamps := rfl
@[simp] theorem setVd_hvecs (s : State) (v : Vd) : (setVd s v).hvecs = s.hvecs := rfl
@[simp] theorem setVd_sliceMap (s : State) (v : Vd) : (setVd s v).sliceMap = s.sliceMap := rfl
@[simp] theorem setVd_mapGen (s : State) (v : Vd) : (setVd s v).mapGen = s.mapGen := rfl
@[simp] theorem setVd_retiredSlices (s : State) (v : Vd) : (setVd s v).retiredSlices = s.retiredSlices := rfl
@[simp] theorem setVd_fields (s : State) (v : Vd) : (setVd s v).fields = s.fields := rfl
@[simp] theorem setVd_early (s : State) (v : Vd) : (setVd s v).early = s.early := rfl
@[simp] theorem setVd_surges (s : State) (v : Vd) : (setVd s v).surges = s.surges := rfl
@[simp] theorem setVd_failed (s : State) (v : Vd) : (setVd s v).failed = s.failed := rfl
@[simp] theorem setVd_retired (s : State) (v : Vd) : (setVd s v).retired = s.retired := rfl
@[simp] theorem setVd_integrity (s : State) (v : Vd) : (setVd s v).integrity = s.integrity := rfl
@[simp] theorem setVd_mboxes (s : State) (v : Vd) : (setVd s v).mboxes = s.mboxes := rfl
@[simp] theorem setVd_pace (s : State) (v : Vd) : (setVd s v).pace = s.pace := rfl
@[simp] theorem setVd_poolFarOps (s : State) (v : Vd) : (setVd s v).poolFarOps = s.poolFarOps := rfl
@[simp] theorem setVd_windows (s : State) (v : Vd) : (setVd s v).windows = s.windows := rfl
@[simp] theorem setVd_paths (s : State) (v : Vd) : (setVd s v).paths = s.paths := rfl
@[simp] theorem setVd_services (s : State) (v : Vd) : (setVd s v).services = s.services := rfl
@[simp] theorem setVd_smcTold (s : State) (v : Vd) : (setVd s v).smcTold = s.smcTold := rfl
@[simp] theorem setVd_smcRecords (s : State) (v : Vd) : (setVd s v).smcRecords = s.smcRecords := rfl
@[simp] theorem setVd_smcHalted (s : State) (v : Vd) : (setVd s v).smcHalted = s.smcHalted := rfl
@[simp] theorem setVd_standby (s : State) (v : Vd) : (setVd s v).standby = s.standby := rfl
@[simp] theorem setVd_failover (s : State) (v : Vd) : (setVd s v).failover = s.failover := rfl
@[simp] theorem setVd_chanService (s : State) (v : Vd) : (setVd s v).chanService = s.chanService := rfl
@[simp] theorem setVd_hostHeld (s : State) (v : Vd) : (setVd s v).hostHeld = s.hostHeld := rfl
@[simp] theorem setVd_hostReads (s : State) (v : Vd) : (setVd s v).hostReads = s.hostReads := rfl
@[simp] theorem setVd_putHeld (s : State) (v : Vd) : (setVd s v).putHeld = s.putHeld := rfl
@[simp] theorem setVd_tickets (s : State) (v : Vd) : (setVd s v).tickets = s.tickets := rfl
@[simp] theorem setVd_locks (s : State) (v : Vd) : (setVd s v).locks = s.locks := rfl
@[simp] theorem setVd_mapChanges (s : State) (v : Vd) : (setVd s v).mapChanges = s.mapChanges := rfl
@[simp] theorem setVd_syscalls (s : State) (v : Vd) : (setVd s v).syscalls = s.syscalls := rfl

@[simp] theorem modVd_groups (s : State) (n : Nat) (f : Vd → Vd) : (modVd s n f).groups = s.groups := rfl
@[simp] theorem modVd_teams (s : State) (n : Nat) (f : Vd → Vd) : (modVd s n f).teams = s.teams := rfl
@[simp] theorem modVd_clusters (s : State) (n : Nat) (f : Vd → Vd) : (modVd s n f).clusters = s.clusters := rfl
@[simp] theorem modVd_cur (s : State) (n : Nat) (f : Vd → Vd) : (modVd s n f).cur = s.cur := rfl
@[simp] theorem modVd_tried (s : State) (n : Nat) (f : Vd → Vd) : (modVd s n f).tried = s.tried := rfl
@[simp] theorem modVd_cycles (s : State) (n : Nat) (f : Vd → Vd) : (modVd s n f).cycles = s.cycles := rfl
@[simp] theorem modVd_freeCtr (s : State) (n : Nat) (f : Vd → Vd) : (modVd s n f).freeCtr = s.freeCtr := rfl
@[simp] theorem modVd_nextId (s : State) (n : Nat) (f : Vd → Vd) : (modVd s n f).nextId = s.nextId := rfl
@[simp] theorem modVd_agenda (s : State) (n : Nat) (f : Vd → Vd) : (modVd s n f).agenda = s.agenda := rfl
@[simp] theorem modVd_mem (s : State) (n : Nat) (f : Vd → Vd) : (modVd s n f).mem = s.mem := rfl
@[simp] theorem modVd_reqs (s : State) (n : Nat) (f : Vd → Vd) : (modVd s n f).reqs = s.reqs := rfl
@[simp] theorem modVd_stc (s : State) (n : Nat) (f : Vd → Vd) : (modVd s n f).stc = s.stc := rfl
@[simp] theorem modVd_blocks (s : State) (n : Nat) (f : Vd → Vd) : (modVd s n f).blocks = s.blocks := rfl
@[simp] theorem modVd_remote (s : State) (n : Nat) (f : Vd → Vd) : (modVd s n f).remote = s.remote := rfl
@[simp] theorem modVd_fed (s : State) (n : Nat) (f : Vd → Vd) : (modVd s n f).fed = s.fed := rfl
@[simp] theorem modVd_monitors (s : State) (n : Nat) (f : Vd → Vd) : (modVd s n f).monitors = s.monitors := rfl
@[simp] theorem modVd_drays (s : State) (n : Nat) (f : Vd → Vd) : (modVd s n f).drays = s.drays := rfl
@[simp] theorem modVd_shoots (s : State) (n : Nat) (f : Vd → Vd) : (modVd s n f).shoots = s.shoots := rfl
@[simp] theorem modVd_stamps (s : State) (n : Nat) (f : Vd → Vd) : (modVd s n f).stamps = s.stamps := rfl
@[simp] theorem modVd_hvecs (s : State) (n : Nat) (f : Vd → Vd) : (modVd s n f).hvecs = s.hvecs := rfl
@[simp] theorem modVd_sliceMap (s : State) (n : Nat) (f : Vd → Vd) : (modVd s n f).sliceMap = s.sliceMap := rfl
@[simp] theorem modVd_mapGen (s : State) (n : Nat) (f : Vd → Vd) : (modVd s n f).mapGen = s.mapGen := rfl
@[simp] theorem modVd_retiredSlices (s : State) (n : Nat) (f : Vd → Vd) : (modVd s n f).retiredSlices = s.retiredSlices := rfl
@[simp] theorem modVd_fields (s : State) (n : Nat) (f : Vd → Vd) : (modVd s n f).fields = s.fields := rfl
@[simp] theorem modVd_early (s : State) (n : Nat) (f : Vd → Vd) : (modVd s n f).early = s.early := rfl
@[simp] theorem modVd_surges (s : State) (n : Nat) (f : Vd → Vd) : (modVd s n f).surges = s.surges := rfl
@[simp] theorem modVd_failed (s : State) (n : Nat) (f : Vd → Vd) : (modVd s n f).failed = s.failed := rfl
@[simp] theorem modVd_retired (s : State) (n : Nat) (f : Vd → Vd) : (modVd s n f).retired = s.retired := rfl
@[simp] theorem modVd_integrity (s : State) (n : Nat) (f : Vd → Vd) : (modVd s n f).integrity = s.integrity := rfl
@[simp] theorem modVd_mboxes (s : State) (n : Nat) (f : Vd → Vd) : (modVd s n f).mboxes = s.mboxes := rfl
@[simp] theorem modVd_pace (s : State) (n : Nat) (f : Vd → Vd) : (modVd s n f).pace = s.pace := rfl
@[simp] theorem modVd_poolFarOps (s : State) (n : Nat) (f : Vd → Vd) : (modVd s n f).poolFarOps = s.poolFarOps := rfl
@[simp] theorem modVd_windows (s : State) (n : Nat) (f : Vd → Vd) : (modVd s n f).windows = s.windows := rfl
@[simp] theorem modVd_paths (s : State) (n : Nat) (f : Vd → Vd) : (modVd s n f).paths = s.paths := rfl
@[simp] theorem modVd_services (s : State) (n : Nat) (f : Vd → Vd) : (modVd s n f).services = s.services := rfl
@[simp] theorem modVd_smcTold (s : State) (n : Nat) (f : Vd → Vd) : (modVd s n f).smcTold = s.smcTold := rfl
@[simp] theorem modVd_smcRecords (s : State) (n : Nat) (f : Vd → Vd) : (modVd s n f).smcRecords = s.smcRecords := rfl
@[simp] theorem modVd_smcHalted (s : State) (n : Nat) (f : Vd → Vd) : (modVd s n f).smcHalted = s.smcHalted := rfl
@[simp] theorem modVd_standby (s : State) (n : Nat) (f : Vd → Vd) : (modVd s n f).standby = s.standby := rfl
@[simp] theorem modVd_failover (s : State) (n : Nat) (f : Vd → Vd) : (modVd s n f).failover = s.failover := rfl
@[simp] theorem modVd_chanService (s : State) (n : Nat) (f : Vd → Vd) : (modVd s n f).chanService = s.chanService := rfl
@[simp] theorem modVd_hostHeld (s : State) (n : Nat) (f : Vd → Vd) : (modVd s n f).hostHeld = s.hostHeld := rfl
@[simp] theorem modVd_hostReads (s : State) (n : Nat) (f : Vd → Vd) : (modVd s n f).hostReads = s.hostReads := rfl
@[simp] theorem modVd_putHeld (s : State) (n : Nat) (f : Vd → Vd) : (modVd s n f).putHeld = s.putHeld := rfl
@[simp] theorem modVd_tickets (s : State) (n : Nat) (f : Vd → Vd) : (modVd s n f).tickets = s.tickets := rfl
@[simp] theorem modVd_locks (s : State) (n : Nat) (f : Vd → Vd) : (modVd s n f).locks = s.locks := rfl
@[simp] theorem modVd_mapChanges (s : State) (n : Nat) (f : Vd → Vd) : (modVd s n f).mapChanges = s.mapChanges := rfl
@[simp] theorem modVd_syscalls (s : State) (n : Nat) (f : Vd → Vd) : (modVd s n f).syscalls = s.syscalls := rfl

@[simp] theorem modInstAt_groups (s : State) (n d : Nat) (f : Inst → Inst) : (modInstAt s n d f).groups = s.groups := rfl
@[simp] theorem modInstAt_teams (s : State) (n d : Nat) (f : Inst → Inst) : (modInstAt s n d f).teams = s.teams := rfl
@[simp] theorem modInstAt_clusters (s : State) (n d : Nat) (f : Inst → Inst) : (modInstAt s n d f).clusters = s.clusters := rfl
@[simp] theorem modInstAt_cur (s : State) (n d : Nat) (f : Inst → Inst) : (modInstAt s n d f).cur = s.cur := rfl
@[simp] theorem modInstAt_tried (s : State) (n d : Nat) (f : Inst → Inst) : (modInstAt s n d f).tried = s.tried := rfl
@[simp] theorem modInstAt_cycles (s : State) (n d : Nat) (f : Inst → Inst) : (modInstAt s n d f).cycles = s.cycles := rfl
@[simp] theorem modInstAt_freeCtr (s : State) (n d : Nat) (f : Inst → Inst) : (modInstAt s n d f).freeCtr = s.freeCtr := rfl
@[simp] theorem modInstAt_nextId (s : State) (n d : Nat) (f : Inst → Inst) : (modInstAt s n d f).nextId = s.nextId := rfl
@[simp] theorem modInstAt_agenda (s : State) (n d : Nat) (f : Inst → Inst) : (modInstAt s n d f).agenda = s.agenda := rfl
@[simp] theorem modInstAt_mem (s : State) (n d : Nat) (f : Inst → Inst) : (modInstAt s n d f).mem = s.mem := rfl
@[simp] theorem modInstAt_reqs (s : State) (n d : Nat) (f : Inst → Inst) : (modInstAt s n d f).reqs = s.reqs := rfl
@[simp] theorem modInstAt_stc (s : State) (n d : Nat) (f : Inst → Inst) : (modInstAt s n d f).stc = s.stc := rfl
@[simp] theorem modInstAt_blocks (s : State) (n d : Nat) (f : Inst → Inst) : (modInstAt s n d f).blocks = s.blocks := rfl
@[simp] theorem modInstAt_remote (s : State) (n d : Nat) (f : Inst → Inst) : (modInstAt s n d f).remote = s.remote := rfl
@[simp] theorem modInstAt_fed (s : State) (n d : Nat) (f : Inst → Inst) : (modInstAt s n d f).fed = s.fed := rfl
@[simp] theorem modInstAt_monitors (s : State) (n d : Nat) (f : Inst → Inst) : (modInstAt s n d f).monitors = s.monitors := rfl
@[simp] theorem modInstAt_drays (s : State) (n d : Nat) (f : Inst → Inst) : (modInstAt s n d f).drays = s.drays := rfl
@[simp] theorem modInstAt_shoots (s : State) (n d : Nat) (f : Inst → Inst) : (modInstAt s n d f).shoots = s.shoots := rfl
@[simp] theorem modInstAt_stamps (s : State) (n d : Nat) (f : Inst → Inst) : (modInstAt s n d f).stamps = s.stamps := rfl
@[simp] theorem modInstAt_hvecs (s : State) (n d : Nat) (f : Inst → Inst) : (modInstAt s n d f).hvecs = s.hvecs := rfl
@[simp] theorem modInstAt_sliceMap (s : State) (n d : Nat) (f : Inst → Inst) : (modInstAt s n d f).sliceMap = s.sliceMap := rfl
@[simp] theorem modInstAt_mapGen (s : State) (n d : Nat) (f : Inst → Inst) : (modInstAt s n d f).mapGen = s.mapGen := rfl
@[simp] theorem modInstAt_retiredSlices (s : State) (n d : Nat) (f : Inst → Inst) : (modInstAt s n d f).retiredSlices = s.retiredSlices := rfl
@[simp] theorem modInstAt_fields (s : State) (n d : Nat) (f : Inst → Inst) : (modInstAt s n d f).fields = s.fields := rfl
@[simp] theorem modInstAt_early (s : State) (n d : Nat) (f : Inst → Inst) : (modInstAt s n d f).early = s.early := rfl
@[simp] theorem modInstAt_surges (s : State) (n d : Nat) (f : Inst → Inst) : (modInstAt s n d f).surges = s.surges := rfl
@[simp] theorem modInstAt_failed (s : State) (n d : Nat) (f : Inst → Inst) : (modInstAt s n d f).failed = s.failed := rfl
@[simp] theorem modInstAt_retired (s : State) (n d : Nat) (f : Inst → Inst) : (modInstAt s n d f).retired = s.retired := rfl
@[simp] theorem modInstAt_integrity (s : State) (n d : Nat) (f : Inst → Inst) : (modInstAt s n d f).integrity = s.integrity := rfl
@[simp] theorem modInstAt_mboxes (s : State) (n d : Nat) (f : Inst → Inst) : (modInstAt s n d f).mboxes = s.mboxes := rfl
@[simp] theorem modInstAt_pace (s : State) (n d : Nat) (f : Inst → Inst) : (modInstAt s n d f).pace = s.pace := rfl
@[simp] theorem modInstAt_poolFarOps (s : State) (n d : Nat) (f : Inst → Inst) : (modInstAt s n d f).poolFarOps = s.poolFarOps := rfl
@[simp] theorem modInstAt_windows (s : State) (n d : Nat) (f : Inst → Inst) : (modInstAt s n d f).windows = s.windows := rfl
@[simp] theorem modInstAt_paths (s : State) (n d : Nat) (f : Inst → Inst) : (modInstAt s n d f).paths = s.paths := rfl
@[simp] theorem modInstAt_services (s : State) (n d : Nat) (f : Inst → Inst) : (modInstAt s n d f).services = s.services := rfl
@[simp] theorem modInstAt_smcTold (s : State) (n d : Nat) (f : Inst → Inst) : (modInstAt s n d f).smcTold = s.smcTold := rfl
@[simp] theorem modInstAt_smcRecords (s : State) (n d : Nat) (f : Inst → Inst) : (modInstAt s n d f).smcRecords = s.smcRecords := rfl
@[simp] theorem modInstAt_smcHalted (s : State) (n d : Nat) (f : Inst → Inst) : (modInstAt s n d f).smcHalted = s.smcHalted := rfl
@[simp] theorem modInstAt_standby (s : State) (n d : Nat) (f : Inst → Inst) : (modInstAt s n d f).standby = s.standby := rfl
@[simp] theorem modInstAt_failover (s : State) (n d : Nat) (f : Inst → Inst) : (modInstAt s n d f).failover = s.failover := rfl
@[simp] theorem modInstAt_chanService (s : State) (n d : Nat) (f : Inst → Inst) : (modInstAt s n d f).chanService = s.chanService := rfl
@[simp] theorem modInstAt_hostHeld (s : State) (n d : Nat) (f : Inst → Inst) : (modInstAt s n d f).hostHeld = s.hostHeld := rfl
@[simp] theorem modInstAt_hostReads (s : State) (n d : Nat) (f : Inst → Inst) : (modInstAt s n d f).hostReads = s.hostReads := rfl
@[simp] theorem modInstAt_putHeld (s : State) (n d : Nat) (f : Inst → Inst) : (modInstAt s n d f).putHeld = s.putHeld := rfl
@[simp] theorem modInstAt_tickets (s : State) (n d : Nat) (f : Inst → Inst) : (modInstAt s n d f).tickets = s.tickets := rfl
@[simp] theorem modInstAt_locks (s : State) (n d : Nat) (f : Inst → Inst) : (modInstAt s n d f).locks = s.locks := rfl
@[simp] theorem modInstAt_mapChanges (s : State) (n d : Nat) (f : Inst → Inst) : (modInstAt s n d f).mapChanges = s.mapChanges := rfl
@[simp] theorem modInstAt_syscalls (s : State) (n d : Nat) (f : Inst → Inst) : (modInstAt s n d f).syscalls = s.syscalls := rfl

@[simp] theorem postRecord_groups (s : State) (n d : Nat) (r : Record) : (postRecord s n d r).groups = s.groups := rfl
@[simp] theorem postRecord_teams (s : State) (n d : Nat) (r : Record) : (postRecord s n d r).teams = s.teams := rfl
@[simp] theorem postRecord_clusters (s : State) (n d : Nat) (r : Record) : (postRecord s n d r).clusters = s.clusters := rfl
@[simp] theorem postRecord_cur (s : State) (n d : Nat) (r : Record) : (postRecord s n d r).cur = s.cur := rfl
@[simp] theorem postRecord_tried (s : State) (n d : Nat) (r : Record) : (postRecord s n d r).tried = s.tried := rfl
@[simp] theorem postRecord_cycles (s : State) (n d : Nat) (r : Record) : (postRecord s n d r).cycles = s.cycles := rfl
@[simp] theorem postRecord_freeCtr (s : State) (n d : Nat) (r : Record) : (postRecord s n d r).freeCtr = s.freeCtr := rfl
@[simp] theorem postRecord_nextId (s : State) (n d : Nat) (r : Record) : (postRecord s n d r).nextId = s.nextId := rfl
@[simp] theorem postRecord_agenda (s : State) (n d : Nat) (r : Record) : (postRecord s n d r).agenda = s.agenda := rfl
@[simp] theorem postRecord_mem (s : State) (n d : Nat) (r : Record) : (postRecord s n d r).mem = s.mem := rfl
@[simp] theorem postRecord_reqs (s : State) (n d : Nat) (r : Record) : (postRecord s n d r).reqs = s.reqs := rfl
@[simp] theorem postRecord_stc (s : State) (n d : Nat) (r : Record) : (postRecord s n d r).stc = s.stc := rfl
@[simp] theorem postRecord_blocks (s : State) (n d : Nat) (r : Record) : (postRecord s n d r).blocks = s.blocks := rfl
@[simp] theorem postRecord_remote (s : State) (n d : Nat) (r : Record) : (postRecord s n d r).remote = s.remote := rfl
@[simp] theorem postRecord_fed (s : State) (n d : Nat) (r : Record) : (postRecord s n d r).fed = s.fed := rfl
@[simp] theorem postRecord_monitors (s : State) (n d : Nat) (r : Record) : (postRecord s n d r).monitors = s.monitors := rfl
@[simp] theorem postRecord_drays (s : State) (n d : Nat) (r : Record) : (postRecord s n d r).drays = s.drays := rfl
@[simp] theorem postRecord_shoots (s : State) (n d : Nat) (r : Record) : (postRecord s n d r).shoots = s.shoots := rfl
@[simp] theorem postRecord_stamps (s : State) (n d : Nat) (r : Record) : (postRecord s n d r).stamps = s.stamps := rfl
@[simp] theorem postRecord_hvecs (s : State) (n d : Nat) (r : Record) : (postRecord s n d r).hvecs = s.hvecs := rfl
@[simp] theorem postRecord_sliceMap (s : State) (n d : Nat) (r : Record) : (postRecord s n d r).sliceMap = s.sliceMap := rfl
@[simp] theorem postRecord_mapGen (s : State) (n d : Nat) (r : Record) : (postRecord s n d r).mapGen = s.mapGen := rfl
@[simp] theorem postRecord_retiredSlices (s : State) (n d : Nat) (r : Record) : (postRecord s n d r).retiredSlices = s.retiredSlices := rfl
@[simp] theorem postRecord_fields (s : State) (n d : Nat) (r : Record) : (postRecord s n d r).fields = s.fields := rfl
@[simp] theorem postRecord_early (s : State) (n d : Nat) (r : Record) : (postRecord s n d r).early = s.early := rfl
@[simp] theorem postRecord_surges (s : State) (n d : Nat) (r : Record) : (postRecord s n d r).surges = s.surges := rfl
@[simp] theorem postRecord_failed (s : State) (n d : Nat) (r : Record) : (postRecord s n d r).failed = s.failed := rfl
@[simp] theorem postRecord_retired (s : State) (n d : Nat) (r : Record) : (postRecord s n d r).retired = s.retired := rfl
@[simp] theorem postRecord_integrity (s : State) (n d : Nat) (r : Record) : (postRecord s n d r).integrity = s.integrity := rfl
@[simp] theorem postRecord_mboxes (s : State) (n d : Nat) (r : Record) : (postRecord s n d r).mboxes = s.mboxes := rfl
@[simp] theorem postRecord_pace (s : State) (n d : Nat) (r : Record) : (postRecord s n d r).pace = s.pace := rfl
@[simp] theorem postRecord_poolFarOps (s : State) (n d : Nat) (r : Record) : (postRecord s n d r).poolFarOps = s.poolFarOps := rfl
@[simp] theorem postRecord_windows (s : State) (n d : Nat) (r : Record) : (postRecord s n d r).windows = s.windows := rfl
@[simp] theorem postRecord_paths (s : State) (n d : Nat) (r : Record) : (postRecord s n d r).paths = s.paths := rfl
@[simp] theorem postRecord_services (s : State) (n d : Nat) (r : Record) : (postRecord s n d r).services = s.services := rfl
@[simp] theorem postRecord_smcTold (s : State) (n d : Nat) (r : Record) : (postRecord s n d r).smcTold = s.smcTold := rfl
@[simp] theorem postRecord_smcRecords (s : State) (n d : Nat) (r : Record) : (postRecord s n d r).smcRecords = s.smcRecords := rfl
@[simp] theorem postRecord_smcHalted (s : State) (n d : Nat) (r : Record) : (postRecord s n d r).smcHalted = s.smcHalted := rfl
@[simp] theorem postRecord_standby (s : State) (n d : Nat) (r : Record) : (postRecord s n d r).standby = s.standby := rfl
@[simp] theorem postRecord_failover (s : State) (n d : Nat) (r : Record) : (postRecord s n d r).failover = s.failover := rfl
@[simp] theorem postRecord_chanService (s : State) (n d : Nat) (r : Record) : (postRecord s n d r).chanService = s.chanService := rfl
@[simp] theorem postRecord_hostHeld (s : State) (n d : Nat) (r : Record) : (postRecord s n d r).hostHeld = s.hostHeld := rfl
@[simp] theorem postRecord_hostReads (s : State) (n d : Nat) (r : Record) : (postRecord s n d r).hostReads = s.hostReads := rfl
@[simp] theorem postRecord_putHeld (s : State) (n d : Nat) (r : Record) : (postRecord s n d r).putHeld = s.putHeld := rfl
@[simp] theorem postRecord_tickets (s : State) (n d : Nat) (r : Record) : (postRecord s n d r).tickets = s.tickets := rfl
@[simp] theorem postRecord_locks (s : State) (n d : Nat) (r : Record) : (postRecord s n d r).locks = s.locks := rfl
@[simp] theorem postRecord_mapChanges (s : State) (n d : Nat) (r : Record) : (postRecord s n d r).mapChanges = s.mapChanges := rfl
@[simp] theorem postRecord_syscalls (s : State) (n d : Nat) (r : Record) : (postRecord s n d r).syscalls = s.syscalls := rfl

@[simp] theorem mergeV_groups (s : State) (n d : Nat) (w : List Nat) : (mergeV s n d w).groups = s.groups := rfl
@[simp] theorem mergeV_teams (s : State) (n d : Nat) (w : List Nat) : (mergeV s n d w).teams = s.teams := rfl
@[simp] theorem mergeV_clusters (s : State) (n d : Nat) (w : List Nat) : (mergeV s n d w).clusters = s.clusters := rfl
@[simp] theorem mergeV_cur (s : State) (n d : Nat) (w : List Nat) : (mergeV s n d w).cur = s.cur := rfl
@[simp] theorem mergeV_tried (s : State) (n d : Nat) (w : List Nat) : (mergeV s n d w).tried = s.tried := rfl
@[simp] theorem mergeV_cycles (s : State) (n d : Nat) (w : List Nat) : (mergeV s n d w).cycles = s.cycles := rfl
@[simp] theorem mergeV_freeCtr (s : State) (n d : Nat) (w : List Nat) : (mergeV s n d w).freeCtr = s.freeCtr := rfl
@[simp] theorem mergeV_nextId (s : State) (n d : Nat) (w : List Nat) : (mergeV s n d w).nextId = s.nextId := rfl
@[simp] theorem mergeV_agenda (s : State) (n d : Nat) (w : List Nat) : (mergeV s n d w).agenda = s.agenda := rfl
@[simp] theorem mergeV_mem (s : State) (n d : Nat) (w : List Nat) : (mergeV s n d w).mem = s.mem := rfl
@[simp] theorem mergeV_reqs (s : State) (n d : Nat) (w : List Nat) : (mergeV s n d w).reqs = s.reqs := rfl
@[simp] theorem mergeV_stc (s : State) (n d : Nat) (w : List Nat) : (mergeV s n d w).stc = s.stc := rfl
@[simp] theorem mergeV_blocks (s : State) (n d : Nat) (w : List Nat) : (mergeV s n d w).blocks = s.blocks := rfl
@[simp] theorem mergeV_remote (s : State) (n d : Nat) (w : List Nat) : (mergeV s n d w).remote = s.remote := rfl
@[simp] theorem mergeV_fed (s : State) (n d : Nat) (w : List Nat) : (mergeV s n d w).fed = s.fed := rfl
@[simp] theorem mergeV_monitors (s : State) (n d : Nat) (w : List Nat) : (mergeV s n d w).monitors = s.monitors := rfl
@[simp] theorem mergeV_drays (s : State) (n d : Nat) (w : List Nat) : (mergeV s n d w).drays = s.drays := rfl
@[simp] theorem mergeV_shoots (s : State) (n d : Nat) (w : List Nat) : (mergeV s n d w).shoots = s.shoots := rfl
@[simp] theorem mergeV_stamps (s : State) (n d : Nat) (w : List Nat) : (mergeV s n d w).stamps = s.stamps := rfl
@[simp] theorem mergeV_hvecs (s : State) (n d : Nat) (w : List Nat) : (mergeV s n d w).hvecs = s.hvecs := rfl
@[simp] theorem mergeV_sliceMap (s : State) (n d : Nat) (w : List Nat) : (mergeV s n d w).sliceMap = s.sliceMap := rfl
@[simp] theorem mergeV_mapGen (s : State) (n d : Nat) (w : List Nat) : (mergeV s n d w).mapGen = s.mapGen := rfl
@[simp] theorem mergeV_retiredSlices (s : State) (n d : Nat) (w : List Nat) : (mergeV s n d w).retiredSlices = s.retiredSlices := rfl
@[simp] theorem mergeV_fields (s : State) (n d : Nat) (w : List Nat) : (mergeV s n d w).fields = s.fields := rfl
@[simp] theorem mergeV_early (s : State) (n d : Nat) (w : List Nat) : (mergeV s n d w).early = s.early := rfl
@[simp] theorem mergeV_surges (s : State) (n d : Nat) (w : List Nat) : (mergeV s n d w).surges = s.surges := rfl
@[simp] theorem mergeV_failed (s : State) (n d : Nat) (w : List Nat) : (mergeV s n d w).failed = s.failed := rfl
@[simp] theorem mergeV_retired (s : State) (n d : Nat) (w : List Nat) : (mergeV s n d w).retired = s.retired := rfl
@[simp] theorem mergeV_integrity (s : State) (n d : Nat) (w : List Nat) : (mergeV s n d w).integrity = s.integrity := rfl
@[simp] theorem mergeV_mboxes (s : State) (n d : Nat) (w : List Nat) : (mergeV s n d w).mboxes = s.mboxes := rfl
@[simp] theorem mergeV_pace (s : State) (n d : Nat) (w : List Nat) : (mergeV s n d w).pace = s.pace := rfl
@[simp] theorem mergeV_poolFarOps (s : State) (n d : Nat) (w : List Nat) : (mergeV s n d w).poolFarOps = s.poolFarOps := rfl
@[simp] theorem mergeV_windows (s : State) (n d : Nat) (w : List Nat) : (mergeV s n d w).windows = s.windows := rfl
@[simp] theorem mergeV_paths (s : State) (n d : Nat) (w : List Nat) : (mergeV s n d w).paths = s.paths := rfl
@[simp] theorem mergeV_services (s : State) (n d : Nat) (w : List Nat) : (mergeV s n d w).services = s.services := rfl
@[simp] theorem mergeV_smcTold (s : State) (n d : Nat) (w : List Nat) : (mergeV s n d w).smcTold = s.smcTold := rfl
@[simp] theorem mergeV_smcRecords (s : State) (n d : Nat) (w : List Nat) : (mergeV s n d w).smcRecords = s.smcRecords := rfl
@[simp] theorem mergeV_smcHalted (s : State) (n d : Nat) (w : List Nat) : (mergeV s n d w).smcHalted = s.smcHalted := rfl
@[simp] theorem mergeV_standby (s : State) (n d : Nat) (w : List Nat) : (mergeV s n d w).standby = s.standby := rfl
@[simp] theorem mergeV_failover (s : State) (n d : Nat) (w : List Nat) : (mergeV s n d w).failover = s.failover := rfl
@[simp] theorem mergeV_chanService (s : State) (n d : Nat) (w : List Nat) : (mergeV s n d w).chanService = s.chanService := rfl
@[simp] theorem mergeV_hostHeld (s : State) (n d : Nat) (w : List Nat) : (mergeV s n d w).hostHeld = s.hostHeld := rfl
@[simp] theorem mergeV_hostReads (s : State) (n d : Nat) (w : List Nat) : (mergeV s n d w).hostReads = s.hostReads := rfl
@[simp] theorem mergeV_putHeld (s : State) (n d : Nat) (w : List Nat) : (mergeV s n d w).putHeld = s.putHeld := rfl
@[simp] theorem mergeV_tickets (s : State) (n d : Nat) (w : List Nat) : (mergeV s n d w).tickets = s.tickets := rfl
@[simp] theorem mergeV_locks (s : State) (n d : Nat) (w : List Nat) : (mergeV s n d w).locks = s.locks := rfl
@[simp] theorem mergeV_mapChanges (s : State) (n d : Nat) (w : List Nat) : (mergeV s n d w).mapChanges = s.mapChanges := rfl
@[simp] theorem mergeV_syscalls (s : State) (n d : Nat) (w : List Nat) : (mergeV s n d w).syscalls = s.syscalls := rfl

@[simp] theorem modFields_groups (s : State) (p : Nat → Bool) (f : FieldSt → FieldSt) : (modFields s p f).groups = s.groups := rfl
@[simp] theorem modFields_teams (s : State) (p : Nat → Bool) (f : FieldSt → FieldSt) : (modFields s p f).teams = s.teams := rfl
@[simp] theorem modFields_clusters (s : State) (p : Nat → Bool) (f : FieldSt → FieldSt) : (modFields s p f).clusters = s.clusters := rfl
@[simp] theorem modFields_cur (s : State) (p : Nat → Bool) (f : FieldSt → FieldSt) : (modFields s p f).cur = s.cur := rfl
@[simp] theorem modFields_tried (s : State) (p : Nat → Bool) (f : FieldSt → FieldSt) : (modFields s p f).tried = s.tried := rfl
@[simp] theorem modFields_cycles (s : State) (p : Nat → Bool) (f : FieldSt → FieldSt) : (modFields s p f).cycles = s.cycles := rfl
@[simp] theorem modFields_freeCtr (s : State) (p : Nat → Bool) (f : FieldSt → FieldSt) : (modFields s p f).freeCtr = s.freeCtr := rfl
@[simp] theorem modFields_nextId (s : State) (p : Nat → Bool) (f : FieldSt → FieldSt) : (modFields s p f).nextId = s.nextId := rfl
@[simp] theorem modFields_agenda (s : State) (p : Nat → Bool) (f : FieldSt → FieldSt) : (modFields s p f).agenda = s.agenda := rfl
@[simp] theorem modFields_mem (s : State) (p : Nat → Bool) (f : FieldSt → FieldSt) : (modFields s p f).mem = s.mem := rfl
@[simp] theorem modFields_vds (s : State) (p : Nat → Bool) (f : FieldSt → FieldSt) : (modFields s p f).vds = s.vds := rfl
@[simp] theorem modFields_reqs (s : State) (p : Nat → Bool) (f : FieldSt → FieldSt) : (modFields s p f).reqs = s.reqs := rfl
@[simp] theorem modFields_stc (s : State) (p : Nat → Bool) (f : FieldSt → FieldSt) : (modFields s p f).stc = s.stc := rfl
@[simp] theorem modFields_blocks (s : State) (p : Nat → Bool) (f : FieldSt → FieldSt) : (modFields s p f).blocks = s.blocks := rfl
@[simp] theorem modFields_remote (s : State) (p : Nat → Bool) (f : FieldSt → FieldSt) : (modFields s p f).remote = s.remote := rfl
@[simp] theorem modFields_fed (s : State) (p : Nat → Bool) (f : FieldSt → FieldSt) : (modFields s p f).fed = s.fed := rfl
@[simp] theorem modFields_monitors (s : State) (p : Nat → Bool) (f : FieldSt → FieldSt) : (modFields s p f).monitors = s.monitors := rfl
@[simp] theorem modFields_drays (s : State) (p : Nat → Bool) (f : FieldSt → FieldSt) : (modFields s p f).drays = s.drays := rfl
@[simp] theorem modFields_shoots (s : State) (p : Nat → Bool) (f : FieldSt → FieldSt) : (modFields s p f).shoots = s.shoots := rfl
@[simp] theorem modFields_stamps (s : State) (p : Nat → Bool) (f : FieldSt → FieldSt) : (modFields s p f).stamps = s.stamps := rfl
@[simp] theorem modFields_hvecs (s : State) (p : Nat → Bool) (f : FieldSt → FieldSt) : (modFields s p f).hvecs = s.hvecs := rfl
@[simp] theorem modFields_sliceMap (s : State) (p : Nat → Bool) (f : FieldSt → FieldSt) : (modFields s p f).sliceMap = s.sliceMap := rfl
@[simp] theorem modFields_mapGen (s : State) (p : Nat → Bool) (f : FieldSt → FieldSt) : (modFields s p f).mapGen = s.mapGen := rfl
@[simp] theorem modFields_retiredSlices (s : State) (p : Nat → Bool) (f : FieldSt → FieldSt) : (modFields s p f).retiredSlices = s.retiredSlices := rfl
@[simp] theorem modFields_early (s : State) (p : Nat → Bool) (f : FieldSt → FieldSt) : (modFields s p f).early = s.early := rfl
@[simp] theorem modFields_surges (s : State) (p : Nat → Bool) (f : FieldSt → FieldSt) : (modFields s p f).surges = s.surges := rfl
@[simp] theorem modFields_failed (s : State) (p : Nat → Bool) (f : FieldSt → FieldSt) : (modFields s p f).failed = s.failed := rfl
@[simp] theorem modFields_retired (s : State) (p : Nat → Bool) (f : FieldSt → FieldSt) : (modFields s p f).retired = s.retired := rfl
@[simp] theorem modFields_integrity (s : State) (p : Nat → Bool) (f : FieldSt → FieldSt) : (modFields s p f).integrity = s.integrity := rfl
@[simp] theorem modFields_mboxes (s : State) (p : Nat → Bool) (f : FieldSt → FieldSt) : (modFields s p f).mboxes = s.mboxes := rfl
@[simp] theorem modFields_pace (s : State) (p : Nat → Bool) (f : FieldSt → FieldSt) : (modFields s p f).pace = s.pace := rfl
@[simp] theorem modFields_poolFarOps (s : State) (p : Nat → Bool) (f : FieldSt → FieldSt) : (modFields s p f).poolFarOps = s.poolFarOps := rfl
@[simp] theorem modFields_windows (s : State) (p : Nat → Bool) (f : FieldSt → FieldSt) : (modFields s p f).windows = s.windows := rfl
@[simp] theorem modFields_paths (s : State) (p : Nat → Bool) (f : FieldSt → FieldSt) : (modFields s p f).paths = s.paths := rfl
@[simp] theorem modFields_services (s : State) (p : Nat → Bool) (f : FieldSt → FieldSt) : (modFields s p f).services = s.services := rfl
@[simp] theorem modFields_smcTold (s : State) (p : Nat → Bool) (f : FieldSt → FieldSt) : (modFields s p f).smcTold = s.smcTold := rfl
@[simp] theorem modFields_smcRecords (s : State) (p : Nat → Bool) (f : FieldSt → FieldSt) : (modFields s p f).smcRecords = s.smcRecords := rfl
@[simp] theorem modFields_smcHalted (s : State) (p : Nat → Bool) (f : FieldSt → FieldSt) : (modFields s p f).smcHalted = s.smcHalted := rfl
@[simp] theorem modFields_standby (s : State) (p : Nat → Bool) (f : FieldSt → FieldSt) : (modFields s p f).standby = s.standby := rfl
@[simp] theorem modFields_failover (s : State) (p : Nat → Bool) (f : FieldSt → FieldSt) : (modFields s p f).failover = s.failover := rfl
@[simp] theorem modFields_chanService (s : State) (p : Nat → Bool) (f : FieldSt → FieldSt) : (modFields s p f).chanService = s.chanService := rfl
@[simp] theorem modFields_hostHeld (s : State) (p : Nat → Bool) (f : FieldSt → FieldSt) : (modFields s p f).hostHeld = s.hostHeld := rfl
@[simp] theorem modFields_hostReads (s : State) (p : Nat → Bool) (f : FieldSt → FieldSt) : (modFields s p f).hostReads = s.hostReads := rfl
@[simp] theorem modFields_putHeld (s : State) (p : Nat → Bool) (f : FieldSt → FieldSt) : (modFields s p f).putHeld = s.putHeld := rfl
@[simp] theorem modFields_tickets (s : State) (p : Nat → Bool) (f : FieldSt → FieldSt) : (modFields s p f).tickets = s.tickets := rfl
@[simp] theorem modFields_locks (s : State) (p : Nat → Bool) (f : FieldSt → FieldSt) : (modFields s p f).locks = s.locks := rfl
@[simp] theorem modFields_mapChanges (s : State) (p : Nat → Bool) (f : FieldSt → FieldSt) : (modFields s p f).mapChanges = s.mapChanges := rfl
@[simp] theorem modFields_syscalls (s : State) (p : Nat → Bool) (f : FieldSt → FieldSt) : (modFields s p f).syscalls = s.syscalls := rfl

@[simp] theorem mergeH_groups (s : State) (d k : Nat) (v : List Nat) : (mergeH s d k v).groups = s.groups := rfl
@[simp] theorem mergeH_teams (s : State) (d k : Nat) (v : List Nat) : (mergeH s d k v).teams = s.teams := rfl
@[simp] theorem mergeH_clusters (s : State) (d k : Nat) (v : List Nat) : (mergeH s d k v).clusters = s.clusters := rfl
@[simp] theorem mergeH_cur (s : State) (d k : Nat) (v : List Nat) : (mergeH s d k v).cur = s.cur := rfl
@[simp] theorem mergeH_tried (s : State) (d k : Nat) (v : List Nat) : (mergeH s d k v).tried = s.tried := rfl
@[simp] theorem mergeH_cycles (s : State) (d k : Nat) (v : List Nat) : (mergeH s d k v).cycles = s.cycles := rfl
@[simp] theorem mergeH_freeCtr (s : State) (d k : Nat) (v : List Nat) : (mergeH s d k v).freeCtr = s.freeCtr := rfl
@[simp] theorem mergeH_nextId (s : State) (d k : Nat) (v : List Nat) : (mergeH s d k v).nextId = s.nextId := rfl
@[simp] theorem mergeH_agenda (s : State) (d k : Nat) (v : List Nat) : (mergeH s d k v).agenda = s.agenda := rfl
@[simp] theorem mergeH_mem (s : State) (d k : Nat) (v : List Nat) : (mergeH s d k v).mem = s.mem := rfl
@[simp] theorem mergeH_vds (s : State) (d k : Nat) (v : List Nat) : (mergeH s d k v).vds = s.vds := rfl
@[simp] theorem mergeH_reqs (s : State) (d k : Nat) (v : List Nat) : (mergeH s d k v).reqs = s.reqs := rfl
@[simp] theorem mergeH_stc (s : State) (d k : Nat) (v : List Nat) : (mergeH s d k v).stc = s.stc := rfl
@[simp] theorem mergeH_blocks (s : State) (d k : Nat) (v : List Nat) : (mergeH s d k v).blocks = s.blocks := rfl
@[simp] theorem mergeH_remote (s : State) (d k : Nat) (v : List Nat) : (mergeH s d k v).remote = s.remote := rfl
@[simp] theorem mergeH_fed (s : State) (d k : Nat) (v : List Nat) : (mergeH s d k v).fed = s.fed := rfl
@[simp] theorem mergeH_monitors (s : State) (d k : Nat) (v : List Nat) : (mergeH s d k v).monitors = s.monitors := rfl
@[simp] theorem mergeH_drays (s : State) (d k : Nat) (v : List Nat) : (mergeH s d k v).drays = s.drays := rfl
@[simp] theorem mergeH_shoots (s : State) (d k : Nat) (v : List Nat) : (mergeH s d k v).shoots = s.shoots := rfl
@[simp] theorem mergeH_stamps (s : State) (d k : Nat) (v : List Nat) : (mergeH s d k v).stamps = s.stamps := rfl
@[simp] theorem mergeH_sliceMap (s : State) (d k : Nat) (v : List Nat) : (mergeH s d k v).sliceMap = s.sliceMap := rfl
@[simp] theorem mergeH_mapGen (s : State) (d k : Nat) (v : List Nat) : (mergeH s d k v).mapGen = s.mapGen := rfl
@[simp] theorem mergeH_retiredSlices (s : State) (d k : Nat) (v : List Nat) : (mergeH s d k v).retiredSlices = s.retiredSlices := rfl
@[simp] theorem mergeH_fields (s : State) (d k : Nat) (v : List Nat) : (mergeH s d k v).fields = s.fields := rfl
@[simp] theorem mergeH_early (s : State) (d k : Nat) (v : List Nat) : (mergeH s d k v).early = s.early := rfl
@[simp] theorem mergeH_surges (s : State) (d k : Nat) (v : List Nat) : (mergeH s d k v).surges = s.surges := rfl
@[simp] theorem mergeH_failed (s : State) (d k : Nat) (v : List Nat) : (mergeH s d k v).failed = s.failed := rfl
@[simp] theorem mergeH_retired (s : State) (d k : Nat) (v : List Nat) : (mergeH s d k v).retired = s.retired := rfl
@[simp] theorem mergeH_integrity (s : State) (d k : Nat) (v : List Nat) : (mergeH s d k v).integrity = s.integrity := rfl
@[simp] theorem mergeH_mboxes (s : State) (d k : Nat) (v : List Nat) : (mergeH s d k v).mboxes = s.mboxes := rfl
@[simp] theorem mergeH_pace (s : State) (d k : Nat) (v : List Nat) : (mergeH s d k v).pace = s.pace := rfl
@[simp] theorem mergeH_poolFarOps (s : State) (d k : Nat) (v : List Nat) : (mergeH s d k v).poolFarOps = s.poolFarOps := rfl
@[simp] theorem mergeH_windows (s : State) (d k : Nat) (v : List Nat) : (mergeH s d k v).windows = s.windows := rfl
@[simp] theorem mergeH_paths (s : State) (d k : Nat) (v : List Nat) : (mergeH s d k v).paths = s.paths := rfl
@[simp] theorem mergeH_services (s : State) (d k : Nat) (v : List Nat) : (mergeH s d k v).services = s.services := rfl
@[simp] theorem mergeH_smcTold (s : State) (d k : Nat) (v : List Nat) : (mergeH s d k v).smcTold = s.smcTold := rfl
@[simp] theorem mergeH_smcRecords (s : State) (d k : Nat) (v : List Nat) : (mergeH s d k v).smcRecords = s.smcRecords := rfl
@[simp] theorem mergeH_smcHalted (s : State) (d k : Nat) (v : List Nat) : (mergeH s d k v).smcHalted = s.smcHalted := rfl
@[simp] theorem mergeH_standby (s : State) (d k : Nat) (v : List Nat) : (mergeH s d k v).standby = s.standby := rfl
@[simp] theorem mergeH_failover (s : State) (d k : Nat) (v : List Nat) : (mergeH s d k v).failover = s.failover := rfl
@[simp] theorem mergeH_chanService (s : State) (d k : Nat) (v : List Nat) : (mergeH s d k v).chanService = s.chanService := rfl
@[simp] theorem mergeH_hostHeld (s : State) (d k : Nat) (v : List Nat) : (mergeH s d k v).hostHeld = s.hostHeld := rfl
@[simp] theorem mergeH_hostReads (s : State) (d k : Nat) (v : List Nat) : (mergeH s d k v).hostReads = s.hostReads := rfl
@[simp] theorem mergeH_putHeld (s : State) (d k : Nat) (v : List Nat) : (mergeH s d k v).putHeld = s.putHeld := rfl
@[simp] theorem mergeH_tickets (s : State) (d k : Nat) (v : List Nat) : (mergeH s d k v).tickets = s.tickets := rfl
@[simp] theorem mergeH_locks (s : State) (d k : Nat) (v : List Nat) : (mergeH s d k v).locks = s.locks := rfl
@[simp] theorem mergeH_mapChanges (s : State) (d k : Nat) (v : List Nat) : (mergeH s d k v).mapChanges = s.mapChanges := rfl
@[simp] theorem mergeH_syscalls (s : State) (d k : Nat) (v : List Nat) : (mergeH s d k v).syscalls = s.syscalls := rfl

@[simp] theorem putCell_groups (s : State) (c : Nat) (x : BitVec 64) : (putCell s c x).groups = s.groups := rfl
@[simp] theorem putCell_teams (s : State) (c : Nat) (x : BitVec 64) : (putCell s c x).teams = s.teams := rfl
@[simp] theorem putCell_clusters (s : State) (c : Nat) (x : BitVec 64) : (putCell s c x).clusters = s.clusters := rfl
@[simp] theorem putCell_cur (s : State) (c : Nat) (x : BitVec 64) : (putCell s c x).cur = s.cur := rfl
@[simp] theorem putCell_tried (s : State) (c : Nat) (x : BitVec 64) : (putCell s c x).tried = s.tried := rfl
@[simp] theorem putCell_cycles (s : State) (c : Nat) (x : BitVec 64) : (putCell s c x).cycles = s.cycles := rfl
@[simp] theorem putCell_freeCtr (s : State) (c : Nat) (x : BitVec 64) : (putCell s c x).freeCtr = s.freeCtr := rfl
@[simp] theorem putCell_nextId (s : State) (c : Nat) (x : BitVec 64) : (putCell s c x).nextId = s.nextId := rfl
@[simp] theorem putCell_agenda (s : State) (c : Nat) (x : BitVec 64) : (putCell s c x).agenda = s.agenda := rfl
@[simp] theorem putCell_vds (s : State) (c : Nat) (x : BitVec 64) : (putCell s c x).vds = s.vds := rfl
@[simp] theorem putCell_reqs (s : State) (c : Nat) (x : BitVec 64) : (putCell s c x).reqs = s.reqs := rfl
@[simp] theorem putCell_stc (s : State) (c : Nat) (x : BitVec 64) : (putCell s c x).stc = s.stc := rfl
@[simp] theorem putCell_blocks (s : State) (c : Nat) (x : BitVec 64) : (putCell s c x).blocks = s.blocks := rfl
@[simp] theorem putCell_remote (s : State) (c : Nat) (x : BitVec 64) : (putCell s c x).remote = s.remote := rfl
@[simp] theorem putCell_fed (s : State) (c : Nat) (x : BitVec 64) : (putCell s c x).fed = s.fed := rfl
@[simp] theorem putCell_monitors (s : State) (c : Nat) (x : BitVec 64) : (putCell s c x).monitors = s.monitors := rfl
@[simp] theorem putCell_drays (s : State) (c : Nat) (x : BitVec 64) : (putCell s c x).drays = s.drays := rfl
@[simp] theorem putCell_shoots (s : State) (c : Nat) (x : BitVec 64) : (putCell s c x).shoots = s.shoots := rfl
@[simp] theorem putCell_stamps (s : State) (c : Nat) (x : BitVec 64) : (putCell s c x).stamps = s.stamps := rfl
@[simp] theorem putCell_hvecs (s : State) (c : Nat) (x : BitVec 64) : (putCell s c x).hvecs = s.hvecs := rfl
@[simp] theorem putCell_sliceMap (s : State) (c : Nat) (x : BitVec 64) : (putCell s c x).sliceMap = s.sliceMap := rfl
@[simp] theorem putCell_mapGen (s : State) (c : Nat) (x : BitVec 64) : (putCell s c x).mapGen = s.mapGen := rfl
@[simp] theorem putCell_retiredSlices (s : State) (c : Nat) (x : BitVec 64) : (putCell s c x).retiredSlices = s.retiredSlices := rfl
@[simp] theorem putCell_fields (s : State) (c : Nat) (x : BitVec 64) : (putCell s c x).fields = s.fields := rfl
@[simp] theorem putCell_early (s : State) (c : Nat) (x : BitVec 64) : (putCell s c x).early = s.early := rfl
@[simp] theorem putCell_surges (s : State) (c : Nat) (x : BitVec 64) : (putCell s c x).surges = s.surges := rfl
@[simp] theorem putCell_failed (s : State) (c : Nat) (x : BitVec 64) : (putCell s c x).failed = s.failed := rfl
@[simp] theorem putCell_retired (s : State) (c : Nat) (x : BitVec 64) : (putCell s c x).retired = s.retired := rfl
@[simp] theorem putCell_integrity (s : State) (c : Nat) (x : BitVec 64) : (putCell s c x).integrity = s.integrity := rfl
@[simp] theorem putCell_mboxes (s : State) (c : Nat) (x : BitVec 64) : (putCell s c x).mboxes = s.mboxes := rfl
@[simp] theorem putCell_pace (s : State) (c : Nat) (x : BitVec 64) : (putCell s c x).pace = s.pace := rfl
@[simp] theorem putCell_poolFarOps (s : State) (c : Nat) (x : BitVec 64) : (putCell s c x).poolFarOps = s.poolFarOps := rfl
@[simp] theorem putCell_windows (s : State) (c : Nat) (x : BitVec 64) : (putCell s c x).windows = s.windows := rfl
@[simp] theorem putCell_paths (s : State) (c : Nat) (x : BitVec 64) : (putCell s c x).paths = s.paths := rfl
@[simp] theorem putCell_services (s : State) (c : Nat) (x : BitVec 64) : (putCell s c x).services = s.services := rfl
@[simp] theorem putCell_smcTold (s : State) (c : Nat) (x : BitVec 64) : (putCell s c x).smcTold = s.smcTold := rfl
@[simp] theorem putCell_smcRecords (s : State) (c : Nat) (x : BitVec 64) : (putCell s c x).smcRecords = s.smcRecords := rfl
@[simp] theorem putCell_smcHalted (s : State) (c : Nat) (x : BitVec 64) : (putCell s c x).smcHalted = s.smcHalted := rfl
@[simp] theorem putCell_standby (s : State) (c : Nat) (x : BitVec 64) : (putCell s c x).standby = s.standby := rfl
@[simp] theorem putCell_failover (s : State) (c : Nat) (x : BitVec 64) : (putCell s c x).failover = s.failover := rfl
@[simp] theorem putCell_chanService (s : State) (c : Nat) (x : BitVec 64) : (putCell s c x).chanService = s.chanService := rfl
@[simp] theorem putCell_hostHeld (s : State) (c : Nat) (x : BitVec 64) : (putCell s c x).hostHeld = s.hostHeld := rfl
@[simp] theorem putCell_hostReads (s : State) (c : Nat) (x : BitVec 64) : (putCell s c x).hostReads = s.hostReads := rfl
@[simp] theorem putCell_putHeld (s : State) (c : Nat) (x : BitVec 64) : (putCell s c x).putHeld = s.putHeld := rfl
@[simp] theorem putCell_tickets (s : State) (c : Nat) (x : BitVec 64) : (putCell s c x).tickets = s.tickets := rfl
@[simp] theorem putCell_locks (s : State) (c : Nat) (x : BitVec 64) : (putCell s c x).locks = s.locks := rfl
@[simp] theorem putCell_mapChanges (s : State) (c : Nat) (x : BitVec 64) : (putCell s c x).mapChanges = s.mapChanges := rfl
@[simp] theorem putCell_syscalls (s : State) (c : Nat) (x : BitVec 64) : (putCell s c x).syscalls = s.syscalls := rfl

@[simp] theorem unfed_groups (s : State) (c : Nat) : (unfed s c).groups = s.groups := rfl
@[simp] theorem unfed_teams (s : State) (c : Nat) : (unfed s c).teams = s.teams := rfl
@[simp] theorem unfed_clusters (s : State) (c : Nat) : (unfed s c).clusters = s.clusters := rfl
@[simp] theorem unfed_cur (s : State) (c : Nat) : (unfed s c).cur = s.cur := rfl
@[simp] theorem unfed_tried (s : State) (c : Nat) : (unfed s c).tried = s.tried := rfl
@[simp] theorem unfed_cycles (s : State) (c : Nat) : (unfed s c).cycles = s.cycles := rfl
@[simp] theorem unfed_freeCtr (s : State) (c : Nat) : (unfed s c).freeCtr = s.freeCtr := rfl
@[simp] theorem unfed_nextId (s : State) (c : Nat) : (unfed s c).nextId = s.nextId := rfl
@[simp] theorem unfed_agenda (s : State) (c : Nat) : (unfed s c).agenda = s.agenda := rfl
@[simp] theorem unfed_mem (s : State) (c : Nat) : (unfed s c).mem = s.mem := rfl
@[simp] theorem unfed_vds (s : State) (c : Nat) : (unfed s c).vds = s.vds := rfl
@[simp] theorem unfed_reqs (s : State) (c : Nat) : (unfed s c).reqs = s.reqs := rfl
@[simp] theorem unfed_stc (s : State) (c : Nat) : (unfed s c).stc = s.stc := rfl
@[simp] theorem unfed_blocks (s : State) (c : Nat) : (unfed s c).blocks = s.blocks := rfl
@[simp] theorem unfed_remote (s : State) (c : Nat) : (unfed s c).remote = s.remote := rfl
@[simp] theorem unfed_monitors (s : State) (c : Nat) : (unfed s c).monitors = s.monitors := rfl
@[simp] theorem unfed_drays (s : State) (c : Nat) : (unfed s c).drays = s.drays := rfl
@[simp] theorem unfed_shoots (s : State) (c : Nat) : (unfed s c).shoots = s.shoots := rfl
@[simp] theorem unfed_stamps (s : State) (c : Nat) : (unfed s c).stamps = s.stamps := rfl
@[simp] theorem unfed_hvecs (s : State) (c : Nat) : (unfed s c).hvecs = s.hvecs := rfl
@[simp] theorem unfed_sliceMap (s : State) (c : Nat) : (unfed s c).sliceMap = s.sliceMap := rfl
@[simp] theorem unfed_mapGen (s : State) (c : Nat) : (unfed s c).mapGen = s.mapGen := rfl
@[simp] theorem unfed_retiredSlices (s : State) (c : Nat) : (unfed s c).retiredSlices = s.retiredSlices := rfl
@[simp] theorem unfed_fields (s : State) (c : Nat) : (unfed s c).fields = s.fields := rfl
@[simp] theorem unfed_early (s : State) (c : Nat) : (unfed s c).early = s.early := rfl
@[simp] theorem unfed_surges (s : State) (c : Nat) : (unfed s c).surges = s.surges := rfl
@[simp] theorem unfed_failed (s : State) (c : Nat) : (unfed s c).failed = s.failed := rfl
@[simp] theorem unfed_retired (s : State) (c : Nat) : (unfed s c).retired = s.retired := rfl
@[simp] theorem unfed_integrity (s : State) (c : Nat) : (unfed s c).integrity = s.integrity := rfl
@[simp] theorem unfed_mboxes (s : State) (c : Nat) : (unfed s c).mboxes = s.mboxes := rfl
@[simp] theorem unfed_pace (s : State) (c : Nat) : (unfed s c).pace = s.pace := rfl
@[simp] theorem unfed_poolFarOps (s : State) (c : Nat) : (unfed s c).poolFarOps = s.poolFarOps := rfl
@[simp] theorem unfed_windows (s : State) (c : Nat) : (unfed s c).windows = s.windows := rfl
@[simp] theorem unfed_paths (s : State) (c : Nat) : (unfed s c).paths = s.paths := rfl
@[simp] theorem unfed_services (s : State) (c : Nat) : (unfed s c).services = s.services := rfl
@[simp] theorem unfed_smcTold (s : State) (c : Nat) : (unfed s c).smcTold = s.smcTold := rfl
@[simp] theorem unfed_smcRecords (s : State) (c : Nat) : (unfed s c).smcRecords = s.smcRecords := rfl
@[simp] theorem unfed_smcHalted (s : State) (c : Nat) : (unfed s c).smcHalted = s.smcHalted := rfl
@[simp] theorem unfed_standby (s : State) (c : Nat) : (unfed s c).standby = s.standby := rfl
@[simp] theorem unfed_failover (s : State) (c : Nat) : (unfed s c).failover = s.failover := rfl
@[simp] theorem unfed_chanService (s : State) (c : Nat) : (unfed s c).chanService = s.chanService := rfl
@[simp] theorem unfed_hostHeld (s : State) (c : Nat) : (unfed s c).hostHeld = s.hostHeld := rfl
@[simp] theorem unfed_hostReads (s : State) (c : Nat) : (unfed s c).hostReads = s.hostReads := rfl
@[simp] theorem unfed_putHeld (s : State) (c : Nat) : (unfed s c).putHeld = s.putHeld := rfl
@[simp] theorem unfed_tickets (s : State) (c : Nat) : (unfed s c).tickets = s.tickets := rfl
@[simp] theorem unfed_locks (s : State) (c : Nat) : (unfed s c).locks = s.locks := rfl
@[simp] theorem unfed_mapChanges (s : State) (c : Nat) : (unfed s c).mapChanges = s.mapChanges := rfl
@[simp] theorem unfed_syscalls (s : State) (c : Nat) : (unfed s c).syscalls = s.syscalls := rfl

@[simp] theorem wakeMonitors_groups (s : State) (n : Nat) (p : Monitor → Bool) : (wakeMonitors s n p).groups = s.groups := rfl
@[simp] theorem wakeMonitors_teams (s : State) (n : Nat) (p : Monitor → Bool) : (wakeMonitors s n p).teams = s.teams := rfl
@[simp] theorem wakeMonitors_clusters (s : State) (n : Nat) (p : Monitor → Bool) : (wakeMonitors s n p).clusters = s.clusters := rfl
@[simp] theorem wakeMonitors_cur (s : State) (n : Nat) (p : Monitor → Bool) : (wakeMonitors s n p).cur = s.cur := rfl
@[simp] theorem wakeMonitors_tried (s : State) (n : Nat) (p : Monitor → Bool) : (wakeMonitors s n p).tried = s.tried := rfl
@[simp] theorem wakeMonitors_cycles (s : State) (n : Nat) (p : Monitor → Bool) : (wakeMonitors s n p).cycles = s.cycles := rfl
@[simp] theorem wakeMonitors_freeCtr (s : State) (n : Nat) (p : Monitor → Bool) : (wakeMonitors s n p).freeCtr = s.freeCtr := rfl
@[simp] theorem wakeMonitors_nextId (s : State) (n : Nat) (p : Monitor → Bool) : (wakeMonitors s n p).nextId = s.nextId := rfl
@[simp] theorem wakeMonitors_agenda (s : State) (n : Nat) (p : Monitor → Bool) : (wakeMonitors s n p).agenda = s.agenda := rfl
@[simp] theorem wakeMonitors_mem (s : State) (n : Nat) (p : Monitor → Bool) : (wakeMonitors s n p).mem = s.mem := rfl
@[simp] theorem wakeMonitors_vds (s : State) (n : Nat) (p : Monitor → Bool) : (wakeMonitors s n p).vds = s.vds := rfl
@[simp] theorem wakeMonitors_reqs (s : State) (n : Nat) (p : Monitor → Bool) : (wakeMonitors s n p).reqs = s.reqs := rfl
@[simp] theorem wakeMonitors_stc (s : State) (n : Nat) (p : Monitor → Bool) : (wakeMonitors s n p).stc = s.stc := rfl
@[simp] theorem wakeMonitors_blocks (s : State) (n : Nat) (p : Monitor → Bool) : (wakeMonitors s n p).blocks = s.blocks := rfl
@[simp] theorem wakeMonitors_remote (s : State) (n : Nat) (p : Monitor → Bool) : (wakeMonitors s n p).remote = s.remote := rfl
@[simp] theorem wakeMonitors_fed (s : State) (n : Nat) (p : Monitor → Bool) : (wakeMonitors s n p).fed = s.fed := rfl
@[simp] theorem wakeMonitors_drays (s : State) (n : Nat) (p : Monitor → Bool) : (wakeMonitors s n p).drays = s.drays := rfl
@[simp] theorem wakeMonitors_shoots (s : State) (n : Nat) (p : Monitor → Bool) : (wakeMonitors s n p).shoots = s.shoots := rfl
@[simp] theorem wakeMonitors_stamps (s : State) (n : Nat) (p : Monitor → Bool) : (wakeMonitors s n p).stamps = s.stamps := rfl
@[simp] theorem wakeMonitors_hvecs (s : State) (n : Nat) (p : Monitor → Bool) : (wakeMonitors s n p).hvecs = s.hvecs := rfl
@[simp] theorem wakeMonitors_sliceMap (s : State) (n : Nat) (p : Monitor → Bool) : (wakeMonitors s n p).sliceMap = s.sliceMap := rfl
@[simp] theorem wakeMonitors_mapGen (s : State) (n : Nat) (p : Monitor → Bool) : (wakeMonitors s n p).mapGen = s.mapGen := rfl
@[simp] theorem wakeMonitors_retiredSlices (s : State) (n : Nat) (p : Monitor → Bool) : (wakeMonitors s n p).retiredSlices = s.retiredSlices := rfl
@[simp] theorem wakeMonitors_fields (s : State) (n : Nat) (p : Monitor → Bool) : (wakeMonitors s n p).fields = s.fields := rfl
@[simp] theorem wakeMonitors_early (s : State) (n : Nat) (p : Monitor → Bool) : (wakeMonitors s n p).early = s.early := rfl
@[simp] theorem wakeMonitors_surges (s : State) (n : Nat) (p : Monitor → Bool) : (wakeMonitors s n p).surges = s.surges := rfl
@[simp] theorem wakeMonitors_failed (s : State) (n : Nat) (p : Monitor → Bool) : (wakeMonitors s n p).failed = s.failed := rfl
@[simp] theorem wakeMonitors_retired (s : State) (n : Nat) (p : Monitor → Bool) : (wakeMonitors s n p).retired = s.retired := rfl
@[simp] theorem wakeMonitors_integrity (s : State) (n : Nat) (p : Monitor → Bool) : (wakeMonitors s n p).integrity = s.integrity := rfl
@[simp] theorem wakeMonitors_mboxes (s : State) (n : Nat) (p : Monitor → Bool) : (wakeMonitors s n p).mboxes = s.mboxes := rfl
@[simp] theorem wakeMonitors_pace (s : State) (n : Nat) (p : Monitor → Bool) : (wakeMonitors s n p).pace = s.pace := rfl
@[simp] theorem wakeMonitors_poolFarOps (s : State) (n : Nat) (p : Monitor → Bool) : (wakeMonitors s n p).poolFarOps = s.poolFarOps := rfl
@[simp] theorem wakeMonitors_windows (s : State) (n : Nat) (p : Monitor → Bool) : (wakeMonitors s n p).windows = s.windows := rfl
@[simp] theorem wakeMonitors_paths (s : State) (n : Nat) (p : Monitor → Bool) : (wakeMonitors s n p).paths = s.paths := rfl
@[simp] theorem wakeMonitors_services (s : State) (n : Nat) (p : Monitor → Bool) : (wakeMonitors s n p).services = s.services := rfl
@[simp] theorem wakeMonitors_smcTold (s : State) (n : Nat) (p : Monitor → Bool) : (wakeMonitors s n p).smcTold = s.smcTold := rfl
@[simp] theorem wakeMonitors_smcRecords (s : State) (n : Nat) (p : Monitor → Bool) : (wakeMonitors s n p).smcRecords = s.smcRecords := rfl
@[simp] theorem wakeMonitors_smcHalted (s : State) (n : Nat) (p : Monitor → Bool) : (wakeMonitors s n p).smcHalted = s.smcHalted := rfl
@[simp] theorem wakeMonitors_standby (s : State) (n : Nat) (p : Monitor → Bool) : (wakeMonitors s n p).standby = s.standby := rfl
@[simp] theorem wakeMonitors_failover (s : State) (n : Nat) (p : Monitor → Bool) : (wakeMonitors s n p).failover = s.failover := rfl
@[simp] theorem wakeMonitors_chanService (s : State) (n : Nat) (p : Monitor → Bool) : (wakeMonitors s n p).chanService = s.chanService := rfl
@[simp] theorem wakeMonitors_hostHeld (s : State) (n : Nat) (p : Monitor → Bool) : (wakeMonitors s n p).hostHeld = s.hostHeld := rfl
@[simp] theorem wakeMonitors_hostReads (s : State) (n : Nat) (p : Monitor → Bool) : (wakeMonitors s n p).hostReads = s.hostReads := rfl
@[simp] theorem wakeMonitors_putHeld (s : State) (n : Nat) (p : Monitor → Bool) : (wakeMonitors s n p).putHeld = s.putHeld := rfl
@[simp] theorem wakeMonitors_tickets (s : State) (n : Nat) (p : Monitor → Bool) : (wakeMonitors s n p).tickets = s.tickets := rfl
@[simp] theorem wakeMonitors_locks (s : State) (n : Nat) (p : Monitor → Bool) : (wakeMonitors s n p).locks = s.locks := rfl
@[simp] theorem wakeMonitors_mapChanges (s : State) (n : Nat) (p : Monitor → Bool) : (wakeMonitors s n p).mapChanges = s.mapChanges := rfl
@[simp] theorem wakeMonitors_syscalls (s : State) (n : Nat) (p : Monitor → Bool) : (wakeMonitors s n p).syscalls = s.syscalls := rfl

@[simp] theorem dropRemote_groups (s : State) (p : RemoteWord → Bool) : (dropRemote s p).groups = s.groups := rfl
@[simp] theorem dropRemote_teams (s : State) (p : RemoteWord → Bool) : (dropRemote s p).teams = s.teams := rfl
@[simp] theorem dropRemote_clusters (s : State) (p : RemoteWord → Bool) : (dropRemote s p).clusters = s.clusters := rfl
@[simp] theorem dropRemote_cur (s : State) (p : RemoteWord → Bool) : (dropRemote s p).cur = s.cur := rfl
@[simp] theorem dropRemote_tried (s : State) (p : RemoteWord → Bool) : (dropRemote s p).tried = s.tried := rfl
@[simp] theorem dropRemote_cycles (s : State) (p : RemoteWord → Bool) : (dropRemote s p).cycles = s.cycles := rfl
@[simp] theorem dropRemote_freeCtr (s : State) (p : RemoteWord → Bool) : (dropRemote s p).freeCtr = s.freeCtr := rfl
@[simp] theorem dropRemote_nextId (s : State) (p : RemoteWord → Bool) : (dropRemote s p).nextId = s.nextId := rfl
@[simp] theorem dropRemote_agenda (s : State) (p : RemoteWord → Bool) : (dropRemote s p).agenda = s.agenda := rfl
@[simp] theorem dropRemote_mem (s : State) (p : RemoteWord → Bool) : (dropRemote s p).mem = s.mem := rfl
@[simp] theorem dropRemote_vds (s : State) (p : RemoteWord → Bool) : (dropRemote s p).vds = s.vds := rfl
@[simp] theorem dropRemote_reqs (s : State) (p : RemoteWord → Bool) : (dropRemote s p).reqs = s.reqs := rfl
@[simp] theorem dropRemote_stc (s : State) (p : RemoteWord → Bool) : (dropRemote s p).stc = s.stc := rfl
@[simp] theorem dropRemote_blocks (s : State) (p : RemoteWord → Bool) : (dropRemote s p).blocks = s.blocks := rfl
@[simp] theorem dropRemote_fed (s : State) (p : RemoteWord → Bool) : (dropRemote s p).fed = s.fed := rfl
@[simp] theorem dropRemote_monitors (s : State) (p : RemoteWord → Bool) : (dropRemote s p).monitors = s.monitors := rfl
@[simp] theorem dropRemote_drays (s : State) (p : RemoteWord → Bool) : (dropRemote s p).drays = s.drays := rfl
@[simp] theorem dropRemote_shoots (s : State) (p : RemoteWord → Bool) : (dropRemote s p).shoots = s.shoots := rfl
@[simp] theorem dropRemote_stamps (s : State) (p : RemoteWord → Bool) : (dropRemote s p).stamps = s.stamps := rfl
@[simp] theorem dropRemote_hvecs (s : State) (p : RemoteWord → Bool) : (dropRemote s p).hvecs = s.hvecs := rfl
@[simp] theorem dropRemote_sliceMap (s : State) (p : RemoteWord → Bool) : (dropRemote s p).sliceMap = s.sliceMap := rfl
@[simp] theorem dropRemote_mapGen (s : State) (p : RemoteWord → Bool) : (dropRemote s p).mapGen = s.mapGen := rfl
@[simp] theorem dropRemote_retiredSlices (s : State) (p : RemoteWord → Bool) : (dropRemote s p).retiredSlices = s.retiredSlices := rfl
@[simp] theorem dropRemote_fields (s : State) (p : RemoteWord → Bool) : (dropRemote s p).fields = s.fields := rfl
@[simp] theorem dropRemote_early (s : State) (p : RemoteWord → Bool) : (dropRemote s p).early = s.early := rfl
@[simp] theorem dropRemote_surges (s : State) (p : RemoteWord → Bool) : (dropRemote s p).surges = s.surges := rfl
@[simp] theorem dropRemote_failed (s : State) (p : RemoteWord → Bool) : (dropRemote s p).failed = s.failed := rfl
@[simp] theorem dropRemote_retired (s : State) (p : RemoteWord → Bool) : (dropRemote s p).retired = s.retired := rfl
@[simp] theorem dropRemote_integrity (s : State) (p : RemoteWord → Bool) : (dropRemote s p).integrity = s.integrity := rfl
@[simp] theorem dropRemote_mboxes (s : State) (p : RemoteWord → Bool) : (dropRemote s p).mboxes = s.mboxes := rfl
@[simp] theorem dropRemote_pace (s : State) (p : RemoteWord → Bool) : (dropRemote s p).pace = s.pace := rfl
@[simp] theorem dropRemote_poolFarOps (s : State) (p : RemoteWord → Bool) : (dropRemote s p).poolFarOps = s.poolFarOps := rfl
@[simp] theorem dropRemote_windows (s : State) (p : RemoteWord → Bool) : (dropRemote s p).windows = s.windows := rfl
@[simp] theorem dropRemote_paths (s : State) (p : RemoteWord → Bool) : (dropRemote s p).paths = s.paths := rfl
@[simp] theorem dropRemote_services (s : State) (p : RemoteWord → Bool) : (dropRemote s p).services = s.services := rfl
@[simp] theorem dropRemote_smcTold (s : State) (p : RemoteWord → Bool) : (dropRemote s p).smcTold = s.smcTold := rfl
@[simp] theorem dropRemote_smcRecords (s : State) (p : RemoteWord → Bool) : (dropRemote s p).smcRecords = s.smcRecords := rfl
@[simp] theorem dropRemote_smcHalted (s : State) (p : RemoteWord → Bool) : (dropRemote s p).smcHalted = s.smcHalted := rfl
@[simp] theorem dropRemote_standby (s : State) (p : RemoteWord → Bool) : (dropRemote s p).standby = s.standby := rfl
@[simp] theorem dropRemote_failover (s : State) (p : RemoteWord → Bool) : (dropRemote s p).failover = s.failover := rfl
@[simp] theorem dropRemote_chanService (s : State) (p : RemoteWord → Bool) : (dropRemote s p).chanService = s.chanService := rfl
@[simp] theorem dropRemote_hostHeld (s : State) (p : RemoteWord → Bool) : (dropRemote s p).hostHeld = s.hostHeld := rfl
@[simp] theorem dropRemote_hostReads (s : State) (p : RemoteWord → Bool) : (dropRemote s p).hostReads = s.hostReads := rfl
@[simp] theorem dropRemote_putHeld (s : State) (p : RemoteWord → Bool) : (dropRemote s p).putHeld = s.putHeld := rfl
@[simp] theorem dropRemote_tickets (s : State) (p : RemoteWord → Bool) : (dropRemote s p).tickets = s.tickets := rfl
@[simp] theorem dropRemote_locks (s : State) (p : RemoteWord → Bool) : (dropRemote s p).locks = s.locks := rfl
@[simp] theorem dropRemote_mapChanges (s : State) (p : RemoteWord → Bool) : (dropRemote s p).mapChanges = s.mapChanges := rfl
@[simp] theorem dropRemote_syscalls (s : State) (p : RemoteWord → Bool) : (dropRemote s p).syscalls = s.syscalls := rfl

@[simp] theorem setCluster_groups (s : State) (k : Cluster) : (setCluster s k).groups = s.groups := by unfold setCluster; split <;> rfl
@[simp] theorem setCluster_teams (s : State) (k : Cluster) : (setCluster s k).teams = s.teams := by unfold setCluster; split <;> rfl
@[simp] theorem setCluster_cur (s : State) (k : Cluster) : (setCluster s k).cur = s.cur := by unfold setCluster; split <;> rfl
@[simp] theorem setCluster_tried (s : State) (k : Cluster) : (setCluster s k).tried = s.tried := by unfold setCluster; split <;> rfl
@[simp] theorem setCluster_cycles (s : State) (k : Cluster) : (setCluster s k).cycles = s.cycles := by unfold setCluster; split <;> rfl
@[simp] theorem setCluster_freeCtr (s : State) (k : Cluster) : (setCluster s k).freeCtr = s.freeCtr := by unfold setCluster; split <;> rfl
@[simp] theorem setCluster_nextId (s : State) (k : Cluster) : (setCluster s k).nextId = s.nextId := by unfold setCluster; split <;> rfl
@[simp] theorem setCluster_agenda (s : State) (k : Cluster) : (setCluster s k).agenda = s.agenda := by unfold setCluster; split <;> rfl
@[simp] theorem setCluster_mem (s : State) (k : Cluster) : (setCluster s k).mem = s.mem := by unfold setCluster; split <;> rfl
@[simp] theorem setCluster_vds (s : State) (k : Cluster) : (setCluster s k).vds = s.vds := by unfold setCluster; split <;> rfl
@[simp] theorem setCluster_reqs (s : State) (k : Cluster) : (setCluster s k).reqs = s.reqs := by unfold setCluster; split <;> rfl
@[simp] theorem setCluster_stc (s : State) (k : Cluster) : (setCluster s k).stc = s.stc := by unfold setCluster; split <;> rfl
@[simp] theorem setCluster_blocks (s : State) (k : Cluster) : (setCluster s k).blocks = s.blocks := by unfold setCluster; split <;> rfl
@[simp] theorem setCluster_remote (s : State) (k : Cluster) : (setCluster s k).remote = s.remote := by unfold setCluster; split <;> rfl
@[simp] theorem setCluster_fed (s : State) (k : Cluster) : (setCluster s k).fed = s.fed := by unfold setCluster; split <;> rfl
@[simp] theorem setCluster_monitors (s : State) (k : Cluster) : (setCluster s k).monitors = s.monitors := by unfold setCluster; split <;> rfl
@[simp] theorem setCluster_drays (s : State) (k : Cluster) : (setCluster s k).drays = s.drays := by unfold setCluster; split <;> rfl
@[simp] theorem setCluster_shoots (s : State) (k : Cluster) : (setCluster s k).shoots = s.shoots := by unfold setCluster; split <;> rfl
@[simp] theorem setCluster_stamps (s : State) (k : Cluster) : (setCluster s k).stamps = s.stamps := by unfold setCluster; split <;> rfl
@[simp] theorem setCluster_hvecs (s : State) (k : Cluster) : (setCluster s k).hvecs = s.hvecs := by unfold setCluster; split <;> rfl
@[simp] theorem setCluster_sliceMap (s : State) (k : Cluster) : (setCluster s k).sliceMap = s.sliceMap := by unfold setCluster; split <;> rfl
@[simp] theorem setCluster_mapGen (s : State) (k : Cluster) : (setCluster s k).mapGen = s.mapGen := by unfold setCluster; split <;> rfl
@[simp] theorem setCluster_retiredSlices (s : State) (k : Cluster) : (setCluster s k).retiredSlices = s.retiredSlices := by unfold setCluster; split <;> rfl
@[simp] theorem setCluster_fields (s : State) (k : Cluster) : (setCluster s k).fields = s.fields := by unfold setCluster; split <;> rfl
@[simp] theorem setCluster_early (s : State) (k : Cluster) : (setCluster s k).early = s.early := by unfold setCluster; split <;> rfl
@[simp] theorem setCluster_surges (s : State) (k : Cluster) : (setCluster s k).surges = s.surges := by unfold setCluster; split <;> rfl
@[simp] theorem setCluster_failed (s : State) (k : Cluster) : (setCluster s k).failed = s.failed := by unfold setCluster; split <;> rfl
@[simp] theorem setCluster_retired (s : State) (k : Cluster) : (setCluster s k).retired = s.retired := by unfold setCluster; split <;> rfl
@[simp] theorem setCluster_integrity (s : State) (k : Cluster) : (setCluster s k).integrity = s.integrity := by unfold setCluster; split <;> rfl
@[simp] theorem setCluster_mboxes (s : State) (k : Cluster) : (setCluster s k).mboxes = s.mboxes := by unfold setCluster; split <;> rfl
@[simp] theorem setCluster_pace (s : State) (k : Cluster) : (setCluster s k).pace = s.pace := by unfold setCluster; split <;> rfl
@[simp] theorem setCluster_poolFarOps (s : State) (k : Cluster) : (setCluster s k).poolFarOps = s.poolFarOps := by unfold setCluster; split <;> rfl
@[simp] theorem setCluster_windows (s : State) (k : Cluster) : (setCluster s k).windows = s.windows := by unfold setCluster; split <;> rfl
@[simp] theorem setCluster_paths (s : State) (k : Cluster) : (setCluster s k).paths = s.paths := by unfold setCluster; split <;> rfl
@[simp] theorem setCluster_services (s : State) (k : Cluster) : (setCluster s k).services = s.services := by unfold setCluster; split <;> rfl
@[simp] theorem setCluster_smcTold (s : State) (k : Cluster) : (setCluster s k).smcTold = s.smcTold := by unfold setCluster; split <;> rfl
@[simp] theorem setCluster_smcRecords (s : State) (k : Cluster) : (setCluster s k).smcRecords = s.smcRecords := by unfold setCluster; split <;> rfl
@[simp] theorem setCluster_smcHalted (s : State) (k : Cluster) : (setCluster s k).smcHalted = s.smcHalted := by unfold setCluster; split <;> rfl
@[simp] theorem setCluster_standby (s : State) (k : Cluster) : (setCluster s k).standby = s.standby := by unfold setCluster; split <;> rfl
@[simp] theorem setCluster_failover (s : State) (k : Cluster) : (setCluster s k).failover = s.failover := by unfold setCluster; split <;> rfl
@[simp] theorem setCluster_chanService (s : State) (k : Cluster) : (setCluster s k).chanService = s.chanService := by unfold setCluster; split <;> rfl
@[simp] theorem setCluster_hostHeld (s : State) (k : Cluster) : (setCluster s k).hostHeld = s.hostHeld := by unfold setCluster; split <;> rfl
@[simp] theorem setCluster_hostReads (s : State) (k : Cluster) : (setCluster s k).hostReads = s.hostReads := by unfold setCluster; split <;> rfl
@[simp] theorem setCluster_putHeld (s : State) (k : Cluster) : (setCluster s k).putHeld = s.putHeld := by unfold setCluster; split <;> rfl
@[simp] theorem setCluster_tickets (s : State) (k : Cluster) : (setCluster s k).tickets = s.tickets := by unfold setCluster; split <;> rfl
@[simp] theorem setCluster_locks (s : State) (k : Cluster) : (setCluster s k).locks = s.locks := by unfold setCluster; split <;> rfl
@[simp] theorem setCluster_mapChanges (s : State) (k : Cluster) : (setCluster s k).mapChanges = s.mapChanges := by unfold setCluster; split <;> rfl
@[simp] theorem setCluster_syscalls (s : State) (k : Cluster) : (setCluster s k).syscalls = s.syscalls := by unfold setCluster; split <;> rfl

@[simp] theorem l1Drop_groups (s : State) (d : Nat) (p : L1Word → Bool) : (l1Drop s d p).groups = s.groups := rfl
@[simp] theorem l1Drop_teams (s : State) (d : Nat) (p : L1Word → Bool) : (l1Drop s d p).teams = s.teams := rfl
@[simp] theorem l1Drop_cur (s : State) (d : Nat) (p : L1Word → Bool) : (l1Drop s d p).cur = s.cur := rfl
@[simp] theorem l1Drop_tried (s : State) (d : Nat) (p : L1Word → Bool) : (l1Drop s d p).tried = s.tried := rfl
@[simp] theorem l1Drop_cycles (s : State) (d : Nat) (p : L1Word → Bool) : (l1Drop s d p).cycles = s.cycles := rfl
@[simp] theorem l1Drop_freeCtr (s : State) (d : Nat) (p : L1Word → Bool) : (l1Drop s d p).freeCtr = s.freeCtr := rfl
@[simp] theorem l1Drop_nextId (s : State) (d : Nat) (p : L1Word → Bool) : (l1Drop s d p).nextId = s.nextId := rfl
@[simp] theorem l1Drop_agenda (s : State) (d : Nat) (p : L1Word → Bool) : (l1Drop s d p).agenda = s.agenda := rfl
@[simp] theorem l1Drop_mem (s : State) (d : Nat) (p : L1Word → Bool) : (l1Drop s d p).mem = s.mem := rfl
@[simp] theorem l1Drop_vds (s : State) (d : Nat) (p : L1Word → Bool) : (l1Drop s d p).vds = s.vds := rfl
@[simp] theorem l1Drop_stc (s : State) (d : Nat) (p : L1Word → Bool) : (l1Drop s d p).stc = s.stc := rfl
@[simp] theorem l1Drop_blocks (s : State) (d : Nat) (p : L1Word → Bool) : (l1Drop s d p).blocks = s.blocks := rfl
@[simp] theorem l1Drop_remote (s : State) (d : Nat) (p : L1Word → Bool) : (l1Drop s d p).remote = s.remote := rfl
@[simp] theorem l1Drop_fed (s : State) (d : Nat) (p : L1Word → Bool) : (l1Drop s d p).fed = s.fed := rfl
@[simp] theorem l1Drop_monitors (s : State) (d : Nat) (p : L1Word → Bool) : (l1Drop s d p).monitors = s.monitors := rfl
@[simp] theorem l1Drop_drays (s : State) (d : Nat) (p : L1Word → Bool) : (l1Drop s d p).drays = s.drays := rfl
@[simp] theorem l1Drop_shoots (s : State) (d : Nat) (p : L1Word → Bool) : (l1Drop s d p).shoots = s.shoots := rfl
@[simp] theorem l1Drop_stamps (s : State) (d : Nat) (p : L1Word → Bool) : (l1Drop s d p).stamps = s.stamps := rfl
@[simp] theorem l1Drop_hvecs (s : State) (d : Nat) (p : L1Word → Bool) : (l1Drop s d p).hvecs = s.hvecs := rfl
@[simp] theorem l1Drop_sliceMap (s : State) (d : Nat) (p : L1Word → Bool) : (l1Drop s d p).sliceMap = s.sliceMap := rfl
@[simp] theorem l1Drop_mapGen (s : State) (d : Nat) (p : L1Word → Bool) : (l1Drop s d p).mapGen = s.mapGen := rfl
@[simp] theorem l1Drop_retiredSlices (s : State) (d : Nat) (p : L1Word → Bool) : (l1Drop s d p).retiredSlices = s.retiredSlices := rfl
@[simp] theorem l1Drop_fields (s : State) (d : Nat) (p : L1Word → Bool) : (l1Drop s d p).fields = s.fields := rfl
@[simp] theorem l1Drop_early (s : State) (d : Nat) (p : L1Word → Bool) : (l1Drop s d p).early = s.early := rfl
@[simp] theorem l1Drop_surges (s : State) (d : Nat) (p : L1Word → Bool) : (l1Drop s d p).surges = s.surges := rfl
@[simp] theorem l1Drop_failed (s : State) (d : Nat) (p : L1Word → Bool) : (l1Drop s d p).failed = s.failed := rfl
@[simp] theorem l1Drop_retired (s : State) (d : Nat) (p : L1Word → Bool) : (l1Drop s d p).retired = s.retired := rfl
@[simp] theorem l1Drop_integrity (s : State) (d : Nat) (p : L1Word → Bool) : (l1Drop s d p).integrity = s.integrity := rfl
@[simp] theorem l1Drop_mboxes (s : State) (d : Nat) (p : L1Word → Bool) : (l1Drop s d p).mboxes = s.mboxes := rfl
@[simp] theorem l1Drop_pace (s : State) (d : Nat) (p : L1Word → Bool) : (l1Drop s d p).pace = s.pace := rfl
@[simp] theorem l1Drop_poolFarOps (s : State) (d : Nat) (p : L1Word → Bool) : (l1Drop s d p).poolFarOps = s.poolFarOps := rfl
@[simp] theorem l1Drop_windows (s : State) (d : Nat) (p : L1Word → Bool) : (l1Drop s d p).windows = s.windows := rfl
@[simp] theorem l1Drop_paths (s : State) (d : Nat) (p : L1Word → Bool) : (l1Drop s d p).paths = s.paths := rfl
@[simp] theorem l1Drop_services (s : State) (d : Nat) (p : L1Word → Bool) : (l1Drop s d p).services = s.services := rfl
@[simp] theorem l1Drop_smcTold (s : State) (d : Nat) (p : L1Word → Bool) : (l1Drop s d p).smcTold = s.smcTold := rfl
@[simp] theorem l1Drop_smcRecords (s : State) (d : Nat) (p : L1Word → Bool) : (l1Drop s d p).smcRecords = s.smcRecords := rfl
@[simp] theorem l1Drop_smcHalted (s : State) (d : Nat) (p : L1Word → Bool) : (l1Drop s d p).smcHalted = s.smcHalted := rfl
@[simp] theorem l1Drop_standby (s : State) (d : Nat) (p : L1Word → Bool) : (l1Drop s d p).standby = s.standby := rfl
@[simp] theorem l1Drop_failover (s : State) (d : Nat) (p : L1Word → Bool) : (l1Drop s d p).failover = s.failover := rfl
@[simp] theorem l1Drop_chanService (s : State) (d : Nat) (p : L1Word → Bool) : (l1Drop s d p).chanService = s.chanService := rfl
@[simp] theorem l1Drop_hostHeld (s : State) (d : Nat) (p : L1Word → Bool) : (l1Drop s d p).hostHeld = s.hostHeld := rfl
@[simp] theorem l1Drop_hostReads (s : State) (d : Nat) (p : L1Word → Bool) : (l1Drop s d p).hostReads = s.hostReads := rfl
@[simp] theorem l1Drop_putHeld (s : State) (d : Nat) (p : L1Word → Bool) : (l1Drop s d p).putHeld = s.putHeld := rfl
@[simp] theorem l1Drop_tickets (s : State) (d : Nat) (p : L1Word → Bool) : (l1Drop s d p).tickets = s.tickets := rfl
@[simp] theorem l1Drop_locks (s : State) (d : Nat) (p : L1Word → Bool) : (l1Drop s d p).locks = s.locks := rfl
@[simp] theorem l1Drop_mapChanges (s : State) (d : Nat) (p : L1Word → Bool) : (l1Drop s d p).mapChanges = s.mapChanges := rfl
@[simp] theorem l1Drop_syscalls (s : State) (d : Nat) (p : L1Word → Bool) : (l1Drop s d p).syscalls = s.syscalls := rfl

/-! ### Updates of a group -/

@[simp] theorem vset_gid (g : Group) (r : Nat) (m : Mask) (f : Nat → Word) : (vset g r m f).gid = g.gid := rfl
@[simp] theorem vset_vd (g : Group) (r : Nat) (m : Mask) (f : Nat → Word) : (vset g r m f).vd = g.vd := rfl
@[simp] theorem vset_vdie (g : Group) (r : Nat) (m : Mask) (f : Nat → Word) : (vset g r m f).vdie = g.vdie := rfl
@[simp] theorem vset_site (g : Group) (r : Nat) (m : Mask) (f : Nat → Word) : (vset g r m f).site = g.site := rfl
@[simp] theorem vset_bay (g : Group) (r : Nat) (m : Mask) (f : Nat → Word) : (vset g r m f).bay = g.bay := rfl
@[simp] theorem vset_slot (g : Group) (r : Nat) (m : Mask) (f : Nat → Word) : (vset g r m f).slot = g.slot := rfl
@[simp] theorem vset_level (g : Group) (r : Nat) (m : Mask) (f : Nat → Word) : (vset g r m f).level = g.level := rfl
@[simp] theorem vset_team (g : Group) (r : Nat) (m : Mask) (f : Nat → Word) : (vset g r m f).team = g.team := rfl
@[simp] theorem vset_num (g : Group) (r : Nat) (m : Mask) (f : Nat → Word) : (vset g r m f).num = g.num := rfl
@[simp] theorem vset_role (g : Group) (r : Nat) (m : Mask) (f : Nat → Word) : (vset g r m f).role = g.role := rfl
@[simp] theorem vset_handle (g : Group) (r : Nat) (m : Mask) (f : Nat → Word) : (vset g r m f).handle = g.handle := rfl
@[simp] theorem vset_prio (g : Group) (r : Nat) (m : Mask) (f : Nat → Word) : (vset g r m f).prio = g.prio := rfl
@[simp] theorem vset_status (g : Group) (r : Nat) (m : Mask) (f : Nat → Word) : (vset g r m f).status = g.status := rfl
@[simp] theorem vset_vregs (g : Group) (r : Nat) (m : Mask) (f : Nat → Word) : (vset g r m f).vregs = g.vregs := rfl
@[simp] theorem vset_tiles (g : Group) (r : Nat) (m : Mask) (f : Nat → Word) : (vset g r m f).tiles = g.tiles := rfl
@[simp] theorem vset_regBlk (g : Group) (r : Nat) (m : Mask) (f : Nat → Word) : (vset g r m f).regBlk = g.regBlk := rfl
@[simp] theorem vset_tileBlk (g : Group) (r : Nat) (m : Mask) (f : Nat → Word) : (vset g r m f).tileBlk = g.tileBlk := rfl
@[simp] theorem vset_s (g : Group) (r : Nat) (m : Mask) (f : Nat → Word) : (vset g r m f).s = g.s := rfl
@[simp] theorem vset_p (g : Group) (r : Nat) (m : Mask) (f : Nat → Word) : (vset g r m f).p = g.p := rfl
@[simp] theorem vset_t (g : Group) (r : Nat) (m : Mask) (f : Nat → Word) : (vset g r m f).t = g.t := rfl
@[simp] theorem vset_wbase (g : Group) (r : Nat) (m : Mask) (f : Nat → Word) : (vset g r m f).wbase = g.wbase := rfl
@[simp] theorem vset_gstat (g : Group) (r : Nat) (m : Mask) (f : Nat → Word) : (vset g r m f).gstat = g.gstat := rfl
@[simp] theorem vset_gcfg (g : Group) (r : Nat) (m : Mask) (f : Nat → Word) : (vset g r m f).gcfg = g.gcfg := rfl
@[simp] theorem vset_chteam (g : Group) (r : Nat) (m : Mask) (f : Nat → Word) : (vset g r m f).chteam = g.chteam := rfl
@[simp] theorem vset_trapc (g : Group) (r : Nat) (m : Mask) (f : Nat → Word) : (vset g r m f).trapc = g.trapc := rfl
@[simp] theorem vset_trappc (g : Group) (r : Nat) (m : Mask) (f : Nat → Word) : (vset g r m f).trappc = g.trappc := rfl
@[simp] theorem vset_trapv (g : Group) (r : Nat) (m : Mask) (f : Nat → Word) : (vset g r m f).trapv = g.trapv := rfl
@[simp] theorem vset_trapm (g : Group) (r : Nat) (m : Mask) (f : Nat → Word) : (vset g r m f).trapm = g.trapm := rfl
@[simp] theorem vset_detail (g : Group) (r : Nat) (m : Mask) (f : Nat → Word) : (vset g r m f).detail = g.detail := rfl
@[simp] theorem vset_frags (g : Group) (r : Nat) (m : Mask) (f : Nat → Word) : (vset g r m f).frags = g.frags := rfl
@[simp] theorem vset_lastFrag (g : Group) (r : Nat) (m : Mask) (f : Nat → Word) : (vset g r m f).lastFrag = g.lastFrag := rfl
@[simp] theorem vset_stack (g : Group) (r : Nat) (m : Mask) (f : Nat → Word) : (vset g r m f).stack = g.stack := rfl
@[simp] theorem vset_spilled (g : Group) (r : Nat) (m : Mask) (f : Nat → Word) : (vset g r m f).spilled = g.spilled := rfl
@[simp] theorem vset_exited (g : Group) (r : Nat) (m : Mask) (f : Nat → Word) : (vset g r m f).exited = g.exited := rfl
@[simp] theorem vset_fhspec (g : Group) (r : Nat) (m : Mask) (f : Nat → Word) : (vset g r m f).fhspec = g.fhspec := rfl
@[simp] theorem vset_fhcount (g : Group) (r : Nat) (m : Mask) (f : Nat → Word) : (vset g r m f).fhcount = g.fhcount := rfl
@[simp] theorem vset_fhFinal (g : Group) (r : Nat) (m : Mask) (f : Nat → Word) : (vset g r m f).fhFinal = g.fhFinal := rfl
@[simp] theorem vset_fhbroken (g : Group) (r : Nat) (m : Mask) (f : Nat → Word) : (vset g r m f).fhbroken = g.fhbroken := rfl
@[simp] theorem vset_refuse (g : Group) (r : Nat) (m : Mask) (f : Nat → Word) : (vset g r m f).refuse = g.refuse := rfl
@[simp] theorem vset_dlog (g : Group) (r : Nat) (m : Mask) (f : Nat → Word) : (vset g r m f).dlog = g.dlog := rfl
@[simp] theorem vset_drayId (g : Group) (r : Nat) (m : Mask) (f : Nat → Word) : (vset g r m f).drayId = g.drayId := rfl
@[simp] theorem vset_cg (g : Group) (r : Nat) (m : Mask) (f : Nat → Word) : (vset g r m f).cg = g.cg := rfl
@[simp] theorem vset_cs (g : Group) (r : Nat) (m : Mask) (f : Nat → Word) : (vset g r m f).cs = g.cs := rfl
@[simp] theorem vset_cf (g : Group) (r : Nat) (m : Mask) (f : Nat → Word) : (vset g r m f).cf = g.cf := rfl
@[simp] theorem vset_cw (g : Group) (r : Nat) (m : Mask) (f : Nat → Word) : (vset g r m f).cw = g.cw := rfl
@[simp] theorem vset_flights (g : Group) (r : Nat) (m : Mask) (f : Nat → Word) : (vset g r m f).flights = g.flights := rfl
@[simp] theorem vset_sends (g : Group) (r : Nat) (m : Mask) (f : Nat → Word) : (vset g r m f).sends = g.sends := rfl
@[simp] theorem vset_rows (g : Group) (r : Nat) (m : Mask) (f : Nat → Word) : (vset g r m f).rows = g.rows := rfl
@[simp] theorem vset_replay (g : Group) (r : Nat) (m : Mask) (f : Nat → Word) : (vset g r m f).replay = g.replay := rfl
@[simp] theorem vset_remainders (g : Group) (r : Nat) (m : Mask) (f : Nat → Word) : (vset g r m f).remainders = g.remainders := rfl
@[simp] theorem vset_kept (g : Group) (r : Nat) (m : Mask) (f : Nat → Word) : (vset g r m f).kept = g.kept := rfl
@[simp] theorem vset_owed (g : Group) (r : Nat) (m : Mask) (f : Nat → Word) : (vset g r m f).owed = g.owed := rfl
@[simp] theorem vset_refault (g : Group) (r : Nat) (m : Mask) (f : Nat → Word) : (vset g r m f).refault = g.refault := rfl
@[simp] theorem vset_vaFences (g : Group) (r : Nat) (m : Mask) (f : Nat → Word) : (vset g r m f).vaFences = g.vaFences := rfl

@[simp] theorem trow_gid (g : Group) (k i : Nat) (m : Mask) (f : Nat → Word) : (trow g k i m f).gid = g.gid := rfl
@[simp] theorem trow_vd (g : Group) (k i : Nat) (m : Mask) (f : Nat → Word) : (trow g k i m f).vd = g.vd := rfl
@[simp] theorem trow_vdie (g : Group) (k i : Nat) (m : Mask) (f : Nat → Word) : (trow g k i m f).vdie = g.vdie := rfl
@[simp] theorem trow_site (g : Group) (k i : Nat) (m : Mask) (f : Nat → Word) : (trow g k i m f).site = g.site := rfl
@[simp] theorem trow_bay (g : Group) (k i : Nat) (m : Mask) (f : Nat → Word) : (trow g k i m f).bay = g.bay := rfl
@[simp] theorem trow_slot (g : Group) (k i : Nat) (m : Mask) (f : Nat → Word) : (trow g k i m f).slot = g.slot := rfl
@[simp] theorem trow_level (g : Group) (k i : Nat) (m : Mask) (f : Nat → Word) : (trow g k i m f).level = g.level := rfl
@[simp] theorem trow_team (g : Group) (k i : Nat) (m : Mask) (f : Nat → Word) : (trow g k i m f).team = g.team := rfl
@[simp] theorem trow_num (g : Group) (k i : Nat) (m : Mask) (f : Nat → Word) : (trow g k i m f).num = g.num := rfl
@[simp] theorem trow_role (g : Group) (k i : Nat) (m : Mask) (f : Nat → Word) : (trow g k i m f).role = g.role := rfl
@[simp] theorem trow_handle (g : Group) (k i : Nat) (m : Mask) (f : Nat → Word) : (trow g k i m f).handle = g.handle := rfl
@[simp] theorem trow_prio (g : Group) (k i : Nat) (m : Mask) (f : Nat → Word) : (trow g k i m f).prio = g.prio := rfl
@[simp] theorem trow_status (g : Group) (k i : Nat) (m : Mask) (f : Nat → Word) : (trow g k i m f).status = g.status := rfl
@[simp] theorem trow_vregs (g : Group) (k i : Nat) (m : Mask) (f : Nat → Word) : (trow g k i m f).vregs = g.vregs := rfl
@[simp] theorem trow_tiles (g : Group) (k i : Nat) (m : Mask) (f : Nat → Word) : (trow g k i m f).tiles = g.tiles := rfl
@[simp] theorem trow_regBlk (g : Group) (k i : Nat) (m : Mask) (f : Nat → Word) : (trow g k i m f).regBlk = g.regBlk := rfl
@[simp] theorem trow_tileBlk (g : Group) (k i : Nat) (m : Mask) (f : Nat → Word) : (trow g k i m f).tileBlk = g.tileBlk := rfl
@[simp] theorem trow_v (g : Group) (k i : Nat) (m : Mask) (f : Nat → Word) : (trow g k i m f).v = g.v := rfl
@[simp] theorem trow_s (g : Group) (k i : Nat) (m : Mask) (f : Nat → Word) : (trow g k i m f).s = g.s := rfl
@[simp] theorem trow_p (g : Group) (k i : Nat) (m : Mask) (f : Nat → Word) : (trow g k i m f).p = g.p := rfl
@[simp] theorem trow_wbase (g : Group) (k i : Nat) (m : Mask) (f : Nat → Word) : (trow g k i m f).wbase = g.wbase := rfl
@[simp] theorem trow_gstat (g : Group) (k i : Nat) (m : Mask) (f : Nat → Word) : (trow g k i m f).gstat = g.gstat := rfl
@[simp] theorem trow_gcfg (g : Group) (k i : Nat) (m : Mask) (f : Nat → Word) : (trow g k i m f).gcfg = g.gcfg := rfl
@[simp] theorem trow_chteam (g : Group) (k i : Nat) (m : Mask) (f : Nat → Word) : (trow g k i m f).chteam = g.chteam := rfl
@[simp] theorem trow_trapc (g : Group) (k i : Nat) (m : Mask) (f : Nat → Word) : (trow g k i m f).trapc = g.trapc := rfl
@[simp] theorem trow_trappc (g : Group) (k i : Nat) (m : Mask) (f : Nat → Word) : (trow g k i m f).trappc = g.trappc := rfl
@[simp] theorem trow_trapv (g : Group) (k i : Nat) (m : Mask) (f : Nat → Word) : (trow g k i m f).trapv = g.trapv := rfl
@[simp] theorem trow_trapm (g : Group) (k i : Nat) (m : Mask) (f : Nat → Word) : (trow g k i m f).trapm = g.trapm := rfl
@[simp] theorem trow_detail (g : Group) (k i : Nat) (m : Mask) (f : Nat → Word) : (trow g k i m f).detail = g.detail := rfl
@[simp] theorem trow_frags (g : Group) (k i : Nat) (m : Mask) (f : Nat → Word) : (trow g k i m f).frags = g.frags := rfl
@[simp] theorem trow_lastFrag (g : Group) (k i : Nat) (m : Mask) (f : Nat → Word) : (trow g k i m f).lastFrag = g.lastFrag := rfl
@[simp] theorem trow_stack (g : Group) (k i : Nat) (m : Mask) (f : Nat → Word) : (trow g k i m f).stack = g.stack := rfl
@[simp] theorem trow_spilled (g : Group) (k i : Nat) (m : Mask) (f : Nat → Word) : (trow g k i m f).spilled = g.spilled := rfl
@[simp] theorem trow_exited (g : Group) (k i : Nat) (m : Mask) (f : Nat → Word) : (trow g k i m f).exited = g.exited := rfl
@[simp] theorem trow_fhspec (g : Group) (k i : Nat) (m : Mask) (f : Nat → Word) : (trow g k i m f).fhspec = g.fhspec := rfl
@[simp] theorem trow_fhcount (g : Group) (k i : Nat) (m : Mask) (f : Nat → Word) : (trow g k i m f).fhcount = g.fhcount := rfl
@[simp] theorem trow_fhFinal (g : Group) (k i : Nat) (m : Mask) (f : Nat → Word) : (trow g k i m f).fhFinal = g.fhFinal := rfl
@[simp] theorem trow_fhbroken (g : Group) (k i : Nat) (m : Mask) (f : Nat → Word) : (trow g k i m f).fhbroken = g.fhbroken := rfl
@[simp] theorem trow_refuse (g : Group) (k i : Nat) (m : Mask) (f : Nat → Word) : (trow g k i m f).refuse = g.refuse := rfl
@[simp] theorem trow_dlog (g : Group) (k i : Nat) (m : Mask) (f : Nat → Word) : (trow g k i m f).dlog = g.dlog := rfl
@[simp] theorem trow_drayId (g : Group) (k i : Nat) (m : Mask) (f : Nat → Word) : (trow g k i m f).drayId = g.drayId := rfl
@[simp] theorem trow_cg (g : Group) (k i : Nat) (m : Mask) (f : Nat → Word) : (trow g k i m f).cg = g.cg := rfl
@[simp] theorem trow_cs (g : Group) (k i : Nat) (m : Mask) (f : Nat → Word) : (trow g k i m f).cs = g.cs := rfl
@[simp] theorem trow_cf (g : Group) (k i : Nat) (m : Mask) (f : Nat → Word) : (trow g k i m f).cf = g.cf := rfl
@[simp] theorem trow_cw (g : Group) (k i : Nat) (m : Mask) (f : Nat → Word) : (trow g k i m f).cw = g.cw := rfl
@[simp] theorem trow_flights (g : Group) (k i : Nat) (m : Mask) (f : Nat → Word) : (trow g k i m f).flights = g.flights := rfl
@[simp] theorem trow_sends (g : Group) (k i : Nat) (m : Mask) (f : Nat → Word) : (trow g k i m f).sends = g.sends := rfl
@[simp] theorem trow_rows (g : Group) (k i : Nat) (m : Mask) (f : Nat → Word) : (trow g k i m f).rows = g.rows := rfl
@[simp] theorem trow_replay (g : Group) (k i : Nat) (m : Mask) (f : Nat → Word) : (trow g k i m f).replay = g.replay := rfl
@[simp] theorem trow_remainders (g : Group) (k i : Nat) (m : Mask) (f : Nat → Word) : (trow g k i m f).remainders = g.remainders := rfl
@[simp] theorem trow_kept (g : Group) (k i : Nat) (m : Mask) (f : Nat → Word) : (trow g k i m f).kept = g.kept := rfl
@[simp] theorem trow_owed (g : Group) (k i : Nat) (m : Mask) (f : Nat → Word) : (trow g k i m f).owed = g.owed := rfl
@[simp] theorem trow_refault (g : Group) (k i : Nat) (m : Mask) (f : Nat → Word) : (trow g k i m f).refault = g.refault := rfl
@[simp] theorem trow_vaFences (g : Group) (k i : Nat) (m : Mask) (f : Nat → Word) : (trow g k i m f).vaFences = g.vaFences := rfl

@[simp] theorem sset_gid (g : Group) (i : Nat) (x : DWord) : (sset g i x).gid = g.gid := by unfold sset; split <;> rfl
@[simp] theorem sset_vd (g : Group) (i : Nat) (x : DWord) : (sset g i x).vd = g.vd := by unfold sset; split <;> rfl
@[simp] theorem sset_vdie (g : Group) (i : Nat) (x : DWord) : (sset g i x).vdie = g.vdie := by unfold sset; split <;> rfl
@[simp] theorem sset_site (g : Group) (i : Nat) (x : DWord) : (sset g i x).site = g.site := by unfold sset; split <;> rfl
@[simp] theorem sset_bay (g : Group) (i : Nat) (x : DWord) : (sset g i x).bay = g.bay := by unfold sset; split <;> rfl
@[simp] theorem sset_slot (g : Group) (i : Nat) (x : DWord) : (sset g i x).slot = g.slot := by unfold sset; split <;> rfl
@[simp] theorem sset_level (g : Group) (i : Nat) (x : DWord) : (sset g i x).level = g.level := by unfold sset; split <;> rfl
@[simp] theorem sset_team (g : Group) (i : Nat) (x : DWord) : (sset g i x).team = g.team := by unfold sset; split <;> rfl
@[simp] theorem sset_num (g : Group) (i : Nat) (x : DWord) : (sset g i x).num = g.num := by unfold sset; split <;> rfl
@[simp] theorem sset_role (g : Group) (i : Nat) (x : DWord) : (sset g i x).role = g.role := by unfold sset; split <;> rfl
@[simp] theorem sset_handle (g : Group) (i : Nat) (x : DWord) : (sset g i x).handle = g.handle := by unfold sset; split <;> rfl
@[simp] theorem sset_prio (g : Group) (i : Nat) (x : DWord) : (sset g i x).prio = g.prio := by unfold sset; split <;> rfl
@[simp] theorem sset_status (g : Group) (i : Nat) (x : DWord) : (sset g i x).status = g.status := by unfold sset; split <;> rfl
@[simp] theorem sset_vregs (g : Group) (i : Nat) (x : DWord) : (sset g i x).vregs = g.vregs := by unfold sset; split <;> rfl
@[simp] theorem sset_tiles (g : Group) (i : Nat) (x : DWord) : (sset g i x).tiles = g.tiles := by unfold sset; split <;> rfl
@[simp] theorem sset_regBlk (g : Group) (i : Nat) (x : DWord) : (sset g i x).regBlk = g.regBlk := by unfold sset; split <;> rfl
@[simp] theorem sset_tileBlk (g : Group) (i : Nat) (x : DWord) : (sset g i x).tileBlk = g.tileBlk := by unfold sset; split <;> rfl
@[simp] theorem sset_t (g : Group) (i : Nat) (x : DWord) : (sset g i x).t = g.t := by unfold sset; split <;> rfl
@[simp] theorem sset_wbase (g : Group) (i : Nat) (x : DWord) : (sset g i x).wbase = g.wbase := by unfold sset; split <;> rfl
@[simp] theorem sset_gstat (g : Group) (i : Nat) (x : DWord) : (sset g i x).gstat = g.gstat := by unfold sset; split <;> rfl
@[simp] theorem sset_gcfg (g : Group) (i : Nat) (x : DWord) : (sset g i x).gcfg = g.gcfg := by unfold sset; split <;> rfl
@[simp] theorem sset_chteam (g : Group) (i : Nat) (x : DWord) : (sset g i x).chteam = g.chteam := by unfold sset; split <;> rfl
@[simp] theorem sset_trapc (g : Group) (i : Nat) (x : DWord) : (sset g i x).trapc = g.trapc := by unfold sset; split <;> rfl
@[simp] theorem sset_trappc (g : Group) (i : Nat) (x : DWord) : (sset g i x).trappc = g.trappc := by unfold sset; split <;> rfl
@[simp] theorem sset_trapv (g : Group) (i : Nat) (x : DWord) : (sset g i x).trapv = g.trapv := by unfold sset; split <;> rfl
@[simp] theorem sset_trapm (g : Group) (i : Nat) (x : DWord) : (sset g i x).trapm = g.trapm := by unfold sset; split <;> rfl
@[simp] theorem sset_detail (g : Group) (i : Nat) (x : DWord) : (sset g i x).detail = g.detail := by unfold sset; split <;> rfl
@[simp] theorem sset_frags (g : Group) (i : Nat) (x : DWord) : (sset g i x).frags = g.frags := by unfold sset; split <;> rfl
@[simp] theorem sset_lastFrag (g : Group) (i : Nat) (x : DWord) : (sset g i x).lastFrag = g.lastFrag := by unfold sset; split <;> rfl
@[simp] theorem sset_stack (g : Group) (i : Nat) (x : DWord) : (sset g i x).stack = g.stack := by unfold sset; split <;> rfl
@[simp] theorem sset_spilled (g : Group) (i : Nat) (x : DWord) : (sset g i x).spilled = g.spilled := by unfold sset; split <;> rfl
@[simp] theorem sset_exited (g : Group) (i : Nat) (x : DWord) : (sset g i x).exited = g.exited := by unfold sset; split <;> rfl
@[simp] theorem sset_fhspec (g : Group) (i : Nat) (x : DWord) : (sset g i x).fhspec = g.fhspec := by unfold sset; split <;> rfl
@[simp] theorem sset_fhcount (g : Group) (i : Nat) (x : DWord) : (sset g i x).fhcount = g.fhcount := by unfold sset; split <;> rfl
@[simp] theorem sset_fhFinal (g : Group) (i : Nat) (x : DWord) : (sset g i x).fhFinal = g.fhFinal := by unfold sset; split <;> rfl
@[simp] theorem sset_fhbroken (g : Group) (i : Nat) (x : DWord) : (sset g i x).fhbroken = g.fhbroken := by unfold sset; split <;> rfl
@[simp] theorem sset_refuse (g : Group) (i : Nat) (x : DWord) : (sset g i x).refuse = g.refuse := by unfold sset; split <;> rfl
@[simp] theorem sset_dlog (g : Group) (i : Nat) (x : DWord) : (sset g i x).dlog = g.dlog := by unfold sset; split <;> rfl
@[simp] theorem sset_drayId (g : Group) (i : Nat) (x : DWord) : (sset g i x).drayId = g.drayId := by unfold sset; split <;> rfl
@[simp] theorem sset_cg (g : Group) (i : Nat) (x : DWord) : (sset g i x).cg = g.cg := by unfold sset; split <;> rfl
@[simp] theorem sset_cs (g : Group) (i : Nat) (x : DWord) : (sset g i x).cs = g.cs := by unfold sset; split <;> rfl
@[simp] theorem sset_cf (g : Group) (i : Nat) (x : DWord) : (sset g i x).cf = g.cf := by unfold sset; split <;> rfl
@[simp] theorem sset_cw (g : Group) (i : Nat) (x : DWord) : (sset g i x).cw = g.cw := by unfold sset; split <;> rfl
@[simp] theorem sset_flights (g : Group) (i : Nat) (x : DWord) : (sset g i x).flights = g.flights := by unfold sset; split <;> rfl
@[simp] theorem sset_sends (g : Group) (i : Nat) (x : DWord) : (sset g i x).sends = g.sends := by unfold sset; split <;> rfl
@[simp] theorem sset_rows (g : Group) (i : Nat) (x : DWord) : (sset g i x).rows = g.rows := by unfold sset; split <;> rfl
@[simp] theorem sset_replay (g : Group) (i : Nat) (x : DWord) : (sset g i x).replay = g.replay := by unfold sset; split <;> rfl
@[simp] theorem sset_remainders (g : Group) (i : Nat) (x : DWord) : (sset g i x).remainders = g.remainders := by unfold sset; split <;> rfl
@[simp] theorem sset_kept (g : Group) (i : Nat) (x : DWord) : (sset g i x).kept = g.kept := by unfold sset; split <;> rfl
@[simp] theorem sset_owed (g : Group) (i : Nat) (x : DWord) : (sset g i x).owed = g.owed := by unfold sset; split <;> rfl
@[simp] theorem sset_refault (g : Group) (i : Nat) (x : DWord) : (sset g i x).refault = g.refault := by unfold sset; split <;> rfl
@[simp] theorem sset_vaFences (g : Group) (i : Nat) (x : DWord) : (sset g i x).vaFences = g.vaFences := by unfold sset; split <;> rfl

@[simp] theorem pset_gid (g : Group) (i : Nat) (m x : Mask) : (pset g i m x).gid = g.gid := by unfold pset; split <;> rfl
@[simp] theorem pset_vd (g : Group) (i : Nat) (m x : Mask) : (pset g i m x).vd = g.vd := by unfold pset; split <;> rfl
@[simp] theorem pset_vdie (g : Group) (i : Nat) (m x : Mask) : (pset g i m x).vdie = g.vdie := by unfold pset; split <;> rfl
@[simp] theorem pset_site (g : Group) (i : Nat) (m x : Mask) : (pset g i m x).site = g.site := by unfold pset; split <;> rfl
@[simp] theorem pset_bay (g : Group) (i : Nat) (m x : Mask) : (pset g i m x).bay = g.bay := by unfold pset; split <;> rfl
@[simp] theorem pset_slot (g : Group) (i : Nat) (m x : Mask) : (pset g i m x).slot = g.slot := by unfold pset; split <;> rfl
@[simp] theorem pset_level (g : Group) (i : Nat) (m x : Mask) : (pset g i m x).level = g.level := by unfold pset; split <;> rfl
@[simp] theorem pset_team (g : Group) (i : Nat) (m x : Mask) : (pset g i m x).team = g.team := by unfold pset; split <;> rfl
@[simp] theorem pset_num (g : Group) (i : Nat) (m x : Mask) : (pset g i m x).num = g.num := by unfold pset; split <;> rfl
@[simp] theorem pset_role (g : Group) (i : Nat) (m x : Mask) : (pset g i m x).role = g.role := by unfold pset; split <;> rfl
@[simp] theorem pset_handle (g : Group) (i : Nat) (m x : Mask) : (pset g i m x).handle = g.handle := by unfold pset; split <;> rfl
@[simp] theorem pset_prio (g : Group) (i : Nat) (m x : Mask) : (pset g i m x).prio = g.prio := by unfold pset; split <;> rfl
@[simp] theorem pset_status (g : Group) (i : Nat) (m x : Mask) : (pset g i m x).status = g.status := by unfold pset; split <;> rfl
@[simp] theorem pset_vregs (g : Group) (i : Nat) (m x : Mask) : (pset g i m x).vregs = g.vregs := by unfold pset; split <;> rfl
@[simp] theorem pset_tiles (g : Group) (i : Nat) (m x : Mask) : (pset g i m x).tiles = g.tiles := by unfold pset; split <;> rfl
@[simp] theorem pset_regBlk (g : Group) (i : Nat) (m x : Mask) : (pset g i m x).regBlk = g.regBlk := by unfold pset; split <;> rfl
@[simp] theorem pset_tileBlk (g : Group) (i : Nat) (m x : Mask) : (pset g i m x).tileBlk = g.tileBlk := by unfold pset; split <;> rfl
@[simp] theorem pset_t (g : Group) (i : Nat) (m x : Mask) : (pset g i m x).t = g.t := by unfold pset; split <;> rfl
@[simp] theorem pset_wbase (g : Group) (i : Nat) (m x : Mask) : (pset g i m x).wbase = g.wbase := by unfold pset; split <;> rfl
@[simp] theorem pset_gstat (g : Group) (i : Nat) (m x : Mask) : (pset g i m x).gstat = g.gstat := by unfold pset; split <;> rfl
@[simp] theorem pset_gcfg (g : Group) (i : Nat) (m x : Mask) : (pset g i m x).gcfg = g.gcfg := by unfold pset; split <;> rfl
@[simp] theorem pset_chteam (g : Group) (i : Nat) (m x : Mask) : (pset g i m x).chteam = g.chteam := by unfold pset; split <;> rfl
@[simp] theorem pset_trapc (g : Group) (i : Nat) (m x : Mask) : (pset g i m x).trapc = g.trapc := by unfold pset; split <;> rfl
@[simp] theorem pset_trappc (g : Group) (i : Nat) (m x : Mask) : (pset g i m x).trappc = g.trappc := by unfold pset; split <;> rfl
@[simp] theorem pset_trapv (g : Group) (i : Nat) (m x : Mask) : (pset g i m x).trapv = g.trapv := by unfold pset; split <;> rfl
@[simp] theorem pset_trapm (g : Group) (i : Nat) (m x : Mask) : (pset g i m x).trapm = g.trapm := by unfold pset; split <;> rfl
@[simp] theorem pset_detail (g : Group) (i : Nat) (m x : Mask) : (pset g i m x).detail = g.detail := by unfold pset; split <;> rfl
@[simp] theorem pset_frags (g : Group) (i : Nat) (m x : Mask) : (pset g i m x).frags = g.frags := by unfold pset; split <;> rfl
@[simp] theorem pset_lastFrag (g : Group) (i : Nat) (m x : Mask) : (pset g i m x).lastFrag = g.lastFrag := by unfold pset; split <;> rfl
@[simp] theorem pset_stack (g : Group) (i : Nat) (m x : Mask) : (pset g i m x).stack = g.stack := by unfold pset; split <;> rfl
@[simp] theorem pset_spilled (g : Group) (i : Nat) (m x : Mask) : (pset g i m x).spilled = g.spilled := by unfold pset; split <;> rfl
@[simp] theorem pset_exited (g : Group) (i : Nat) (m x : Mask) : (pset g i m x).exited = g.exited := by unfold pset; split <;> rfl
@[simp] theorem pset_fhspec (g : Group) (i : Nat) (m x : Mask) : (pset g i m x).fhspec = g.fhspec := by unfold pset; split <;> rfl
@[simp] theorem pset_fhcount (g : Group) (i : Nat) (m x : Mask) : (pset g i m x).fhcount = g.fhcount := by unfold pset; split <;> rfl
@[simp] theorem pset_fhFinal (g : Group) (i : Nat) (m x : Mask) : (pset g i m x).fhFinal = g.fhFinal := by unfold pset; split <;> rfl
@[simp] theorem pset_fhbroken (g : Group) (i : Nat) (m x : Mask) : (pset g i m x).fhbroken = g.fhbroken := by unfold pset; split <;> rfl
@[simp] theorem pset_refuse (g : Group) (i : Nat) (m x : Mask) : (pset g i m x).refuse = g.refuse := by unfold pset; split <;> rfl
@[simp] theorem pset_dlog (g : Group) (i : Nat) (m x : Mask) : (pset g i m x).dlog = g.dlog := by unfold pset; split <;> rfl
@[simp] theorem pset_drayId (g : Group) (i : Nat) (m x : Mask) : (pset g i m x).drayId = g.drayId := by unfold pset; split <;> rfl
@[simp] theorem pset_cg (g : Group) (i : Nat) (m x : Mask) : (pset g i m x).cg = g.cg := by unfold pset; split <;> rfl
@[simp] theorem pset_cs (g : Group) (i : Nat) (m x : Mask) : (pset g i m x).cs = g.cs := by unfold pset; split <;> rfl
@[simp] theorem pset_cf (g : Group) (i : Nat) (m x : Mask) : (pset g i m x).cf = g.cf := by unfold pset; split <;> rfl
@[simp] theorem pset_cw (g : Group) (i : Nat) (m x : Mask) : (pset g i m x).cw = g.cw := by unfold pset; split <;> rfl
@[simp] theorem pset_flights (g : Group) (i : Nat) (m x : Mask) : (pset g i m x).flights = g.flights := by unfold pset; split <;> rfl
@[simp] theorem pset_sends (g : Group) (i : Nat) (m x : Mask) : (pset g i m x).sends = g.sends := by unfold pset; split <;> rfl
@[simp] theorem pset_rows (g : Group) (i : Nat) (m x : Mask) : (pset g i m x).rows = g.rows := by unfold pset; split <;> rfl
@[simp] theorem pset_replay (g : Group) (i : Nat) (m x : Mask) : (pset g i m x).replay = g.replay := by unfold pset; split <;> rfl
@[simp] theorem pset_remainders (g : Group) (i : Nat) (m x : Mask) : (pset g i m x).remainders = g.remainders := by unfold pset; split <;> rfl
@[simp] theorem pset_kept (g : Group) (i : Nat) (m x : Mask) : (pset g i m x).kept = g.kept := by unfold pset; split <;> rfl
@[simp] theorem pset_owed (g : Group) (i : Nat) (m x : Mask) : (pset g i m x).owed = g.owed := by unfold pset; split <;> rfl
@[simp] theorem pset_refault (g : Group) (i : Nat) (m x : Mask) : (pset g i m x).refault = g.refault := by unfold pset; split <;> rfl
@[simp] theorem pset_vaFences (g : Group) (i : Nat) (m x : Mask) : (pset g i m x).vaFences = g.vaFences := by unfold pset; split <;> rfl

/-! ### Updates of a context -/

@[simp] theorem Ctx.push_s (c : Ctx) (k : Latch) : (c.push k).s = c.s := rfl
@[simp] theorem Ctx.push_g (c : Ctx) (k : Latch) : (c.push k).g = c.g := rfl
@[simp] theorem Ctx.push_fi (c : Ctx) (k : Latch) : (c.push k).fi = c.fi := rfl
@[simp] theorem Ctx.push_bond (c : Ctx) (k : Latch) : (c.push k).bond = c.bond := rfl
@[simp] theorem Ctx.push_chain (c : Ctx) (k : Latch) : (c.push k).chain = c.chain := rfl
@[simp] theorem Ctx.push_held (c : Ctx) (k : Latch) : (c.push k).held = c.held := rfl
@[simp] theorem Ctx.goto_s (c : Ctx) (a : DWord) : (c.goto a).s = c.s := rfl
@[simp] theorem Ctx.goto_g (c : Ctx) (a : DWord) : (c.goto a).g = c.g := rfl
@[simp] theorem Ctx.goto_fi (c : Ctx) (a : DWord) : (c.goto a).fi = c.fi := rfl
@[simp] theorem Ctx.goto_bond (c : Ctx) (a : DWord) : (c.goto a).bond = c.bond := rfl
@[simp] theorem Ctx.goto_chain (c : Ctx) (a : DWord) : (c.goto a).chain = c.chain := rfl
@[simp] theorem Ctx.goto_held (c : Ctx) (a : DWord) : (c.goto a).held = c.held := rfl
@[simp] theorem Ctx.goto_pc (c : Ctx) (a : DWord) : (c.goto a).f.pc = a := rfl
@[simp] theorem Ctx.goto_mask (c : Ctx) (a : DWord) : (c.goto a).f.mask = c.f.mask := rfl
@[simp] theorem Ctx.push_pc (c : Ctx) (k : Latch) : (c.push k).f.pc = c.f.pc := rfl
@[simp] theorem Ctx.push_mask (c : Ctx) (k : Latch) : (c.push k).f.mask = c.f.mask := rfl
@[simp] theorem Ctx.push_latches (c : Ctx) (k : Latch) : (c.push k).f.latches = k :: c.f.latches.take 7 := rfl
@[simp] theorem Ctx.finish_teams (c : Ctx) : c.finish.teams = c.s.teams := rfl
@[simp] theorem Ctx.finish_clusters (c : Ctx) : c.finish.clusters = c.s.clusters := rfl
@[simp] theorem Ctx.finish_cur (c : Ctx) : c.finish.cur = c.s.cur := rfl
@[simp] theorem Ctx.finish_tried (c : Ctx) : c.finish.tried = c.s.tried := rfl
@[simp] theorem Ctx.finish_cycles (c : Ctx) : c.finish.cycles = c.s.cycles := rfl
@[simp] theorem Ctx.finish_freeCtr (c : Ctx) : c.finish.freeCtr = c.s.freeCtr := rfl
@[simp] theorem Ctx.finish_nextId (c : Ctx) : c.finish.nextId = c.s.nextId := rfl
@[simp] theorem Ctx.finish_agenda (c : Ctx) : c.finish.agenda = c.s.agenda := rfl
@[simp] theorem Ctx.finish_mem (c : Ctx) : c.finish.mem = c.s.mem := rfl
@[simp] theorem Ctx.finish_vds (c : Ctx) : c.finish.vds = c.s.vds := rfl
@[simp] theorem Ctx.finish_reqs (c : Ctx) : c.finish.reqs = c.s.reqs := rfl
@[simp] theorem Ctx.finish_stc (c : Ctx) : c.finish.stc = c.s.stc := rfl
@[simp] theorem Ctx.finish_blocks (c : Ctx) : c.finish.blocks = c.s.blocks := rfl
@[simp] theorem Ctx.finish_remote (c : Ctx) : c.finish.remote = c.s.remote := rfl
@[simp] theorem Ctx.finish_fed (c : Ctx) : c.finish.fed = c.s.fed := rfl
@[simp] theorem Ctx.finish_monitors (c : Ctx) : c.finish.monitors = c.s.monitors := rfl
@[simp] theorem Ctx.finish_drays (c : Ctx) : c.finish.drays = c.s.drays := rfl
@[simp] theorem Ctx.finish_shoots (c : Ctx) : c.finish.shoots = c.s.shoots := rfl
@[simp] theorem Ctx.finish_stamps (c : Ctx) : c.finish.stamps = c.s.stamps := rfl
@[simp] theorem Ctx.finish_hvecs (c : Ctx) : c.finish.hvecs = c.s.hvecs := rfl
@[simp] theorem Ctx.finish_sliceMap (c : Ctx) : c.finish.sliceMap = c.s.sliceMap := rfl
@[simp] theorem Ctx.finish_mapGen (c : Ctx) : c.finish.mapGen = c.s.mapGen := rfl
@[simp] theorem Ctx.finish_retiredSlices (c : Ctx) : c.finish.retiredSlices = c.s.retiredSlices := rfl
@[simp] theorem Ctx.finish_fields (c : Ctx) : c.finish.fields = c.s.fields := rfl
@[simp] theorem Ctx.finish_early (c : Ctx) : c.finish.early = c.s.early := rfl
@[simp] theorem Ctx.finish_surges (c : Ctx) : c.finish.surges = c.s.surges := rfl
@[simp] theorem Ctx.finish_failed (c : Ctx) : c.finish.failed = c.s.failed := rfl
@[simp] theorem Ctx.finish_retired (c : Ctx) : c.finish.retired = c.s.retired := rfl
@[simp] theorem Ctx.finish_integrity (c : Ctx) : c.finish.integrity = c.s.integrity := rfl
@[simp] theorem Ctx.finish_mboxes (c : Ctx) : c.finish.mboxes = c.s.mboxes := rfl
@[simp] theorem Ctx.finish_pace (c : Ctx) : c.finish.pace = c.s.pace := rfl
@[simp] theorem Ctx.finish_poolFarOps (c : Ctx) : c.finish.poolFarOps = c.s.poolFarOps := rfl
@[simp] theorem Ctx.finish_windows (c : Ctx) : c.finish.windows = c.s.windows := rfl
@[simp] theorem Ctx.finish_paths (c : Ctx) : c.finish.paths = c.s.paths := rfl
@[simp] theorem Ctx.finish_services (c : Ctx) : c.finish.services = c.s.services := rfl
@[simp] theorem Ctx.finish_smcTold (c : Ctx) : c.finish.smcTold = c.s.smcTold := rfl
@[simp] theorem Ctx.finish_smcRecords (c : Ctx) : c.finish.smcRecords = c.s.smcRecords := rfl
@[simp] theorem Ctx.finish_smcHalted (c : Ctx) : c.finish.smcHalted = c.s.smcHalted := rfl
@[simp] theorem Ctx.finish_standby (c : Ctx) : c.finish.standby = c.s.standby := rfl
@[simp] theorem Ctx.finish_failover (c : Ctx) : c.finish.failover = c.s.failover := rfl
@[simp] theorem Ctx.finish_chanService (c : Ctx) : c.finish.chanService = c.s.chanService := rfl
@[simp] theorem Ctx.finish_hostHeld (c : Ctx) : c.finish.hostHeld = c.s.hostHeld := rfl
@[simp] theorem Ctx.finish_hostReads (c : Ctx) : c.finish.hostReads = c.s.hostReads := rfl
@[simp] theorem Ctx.finish_putHeld (c : Ctx) : c.finish.putHeld = c.s.putHeld := rfl
@[simp] theorem Ctx.finish_tickets (c : Ctx) : c.finish.tickets = c.s.tickets := rfl
@[simp] theorem Ctx.finish_locks (c : Ctx) : c.finish.locks = c.s.locks := rfl
@[simp] theorem Ctx.finish_mapChanges (c : Ctx) : c.finish.mapChanges = c.s.mapChanges := rfl
@[simp] theorem Ctx.finish_syscalls (c : Ctx) : c.finish.syscalls = c.s.syscalls := rfl

/-! ### Finding a record after it has been put -/

theorem findVd_num {s : State} {n : Nat} {v : Vd} (h : findVd s n = some v) : v.num = n := by
  have := List.find?_some h
  simpa using this

theorem find_map_vd (l : List Vd) (n : Nat) (f : Vd → Vd) (hf : ∀ v, v.num = n → (f v).num = n) :
    (l.map (fun u => if u.num == n then f u else u)).find? (fun v => v.num == n) = (l.find? (fun v => v.num == n)).map f := by
  induction l with
  | nil => rfl
  | cons u r ih =>
    simp only [List.map_cons, List.find?_cons]
    by_cases h : u.num = n
    · simp [h, hf u h]
    · have : (u.num == n) = false := by simpa using h
      simp only [this, Bool.false_eq_true, if_false, ih]

/-- Changing a virtual device's record changes what is found under its number. -/
theorem findVd_modVd_same {s : State} {n : Nat} {f : Vd → Vd} {v : Vd} (hf : ∀ v, v.num = n → (f v).num = n) (h : findVd s n = some v) :
    findVd (modVd s n f) n = some (f v) := by
  unfold findVd modVd
  rw [find_map_vd _ _ _ hf]
  unfold findVd at h
  rw [h]; rfl

/-- Putting a virtual device's record back changes what is found under its number. -/
theorem findVd_setVd_same {s : State} {v v' : Vd} (h : findVd s v'.num = some v) : findVd (setVd s v') v'.num = some v' := by
  have := findVd_modVd_same (s := s) (n := v'.num) (f := fun _ => v') (fun _ _ => rfl) h
  exact this

theorem find_map_team (l : List Team) (t : Team) :
    (l.map (fun u => if u.tid == t.tid then t else u)).find? (fun u => u.tid == t.tid) = (l.find? (fun u => u.tid == t.tid)).map (fun _ => t) := by
  induction l with
  | nil => rfl
  | cons u r ih =>
    simp only [List.map_cons, List.find?_cons]
    by_cases h : u.tid = t.tid
    · simp [h]
    · have : (u.tid == t.tid) = false := by simpa using h
      simp only [this, Bool.false_eq_true, if_false, ih]

/-- Putting a team's record back changes what is found under its number. -/
theorem findTeam_setTeam_same {s : State} {t t' : Team} (h : findTeam s t'.tid = some t) : findTeam (setTeam s t') t'.tid = some t' := by
  unfold findTeam setTeam
  rw [find_map_team]
  unfold findTeam at h
  rw [h]; rfl

/-- Putting a site's record in place is what is found there. -/
theorem clusterOf_setCluster_same (s : State) (k : Cluster) : clusterOf (setCluster s k) k.site = k := by
  unfold clusterOf setCluster
  split
  · rename_i h
    have : ∀ l : List Cluster, l.any (fun h => h.site == k.site) = true →
        (l.map (fun h => if h.site == k.site then k else h)).find? (fun h => h.site == k.site) = some k := by
      intro l
      induction l with
      | nil => intro h; simp at h
      | cons u r ih =>
        intro h
        simp only [List.map_cons, List.find?_cons]
        by_cases hu : u.site = k.site
        · simp [hu]
        · have hf : (u.site == k.site) = false := by simpa using hu
          simp only [List.any_cons, hf, Bool.false_or] at h
          simp only [hf, Bool.false_eq_true, if_false, ih h]
    rw [this _ h]; rfl
  · simp


end Sys2Proof.Machine
end

