-- ==== Sys2Proof/Laws/Memory.lean ====
section
/-! SUPPORT. Laws/Memory.lean: every operation on memory keeps its canonical form, and what it leaves of the state. -/

namespace Sys2Proof.Machine

/-! ### Cells -/

theorem wf_putCell {s : State} (h : Memory.wf s.mem = true) (c : Nat) (x : BitVec 64) : Memory.wf (putCell s c x).mem = true := Laws.wf_wrBytes h _ _ _

theorem wf_putSibs {s : State} (h : Memory.wf s.mem = true) (vd c : Nat) (l : List Sib) (n : Nat) : Memory.wf (putSibs s vd c l n).mem = true := wf_putCell h _ _

@[simp] theorem afterWrite_mem (s : State) (c : Nat) (m : BitVec 8) : (afterWrite s c m).mem = s.mem := rfl
@[simp] theorem afterWrite_groups (s : State) (c : Nat) (m : BitVec 8) : (afterWrite s c m).groups = s.groups := rfl
@[simp] theorem afterWrite_teams (s : State) (c : Nat) (m : BitVec 8) : (afterWrite s c m).teams = s.teams := rfl
@[simp] theorem afterWrite_vds (s : State) (c : Nat) (m : BitVec 8) : (afterWrite s c m).vds = s.vds := rfl
@[simp] theorem afterFed_mem (s : State) (c : Nat) (m : BitVec 8) : (afterFed s c m).mem = s.mem := rfl
@[simp] theorem freshChecks_mem (s : State) (ps : List (Nat × Nat)) : (freshChecks s ps).mem = s.mem := rfl
@[simp] theorem nextStamp_mem (s : State) (d k : Nat) : (nextStamp s d k).2.mem = s.mem := rfl

/-- What writes at homes leave: they write memory, the federated cells, the L1 words, the answers on their way, the monitors, the stamps, the slice vectors
and the marks of mismatched checks only (11 R257; 14 R349, R358-R360; 17 R439). -/
def HomeOnly (s t : State) : Prop :=
  t = { s with mem := t.mem, fed := t.fed, clusters := t.clusters, reqs := t.reqs, monitors := t.monitors, stamps := t.stamps, hvecs := t.hvecs, integrity := t.integrity }

theorem HomeOnly.refl (s : State) : HomeOnly s s := rfl

theorem HomeOnly.trans {s t u : State} (h : HomeOnly s t) (k : HomeOnly t u) : HomeOnly s u := by
  unfold HomeOnly at *
  rw [k, h]

theorem homeOnly_mergeH (s : State) (d k : Nat) (v : List Nat) : HomeOnly s (mergeH s d k v) := rfl
theorem homeOnly_putCell (s : State) (c : Nat) (x : BitVec 64) : HomeOnly s (putCell s c x) := rfl
theorem homeOnly_unfed (s : State) (c : Nat) : HomeOnly s (unfed s c) := rfl
theorem homeOnly_putSibs (s : State) (vd c : Nat) (l : List Sib) (n : Nat) : HomeOnly s (putSibs s vd c l n) := rfl
theorem homeOnly_nextStamp (s : State) (d k : Nat) : HomeOnly s (nextStamp s d k).2 := rfl
theorem homeOnly_afterWrite (s : State) (c : Nat) (m : BitVec 8) : HomeOnly s (afterWrite s c m) := rfl
theorem homeOnly_afterFed (s : State) (c : Nat) (m : BitVec 8) : HomeOnly s (afterFed s c m) := rfl
theorem homeOnly_freshChecks (s : State) (ps : List (Nat × Nat)) : HomeOnly s (freshChecks s ps) := rfl

theorem homeOnly_mergeAtHome (s : State) (w : Writer) (c : Nat) : HomeOnly s (mergeAtHome s w c) := by
  unfold mergeAtHome
  repeat' split
  all_goals rfl

theorem takeEntry_some {s t : State} {c : Nat} (h : takeEntry s c = some t) : t = { s with fed := t.fed } := by
  unfold takeEntry at h
  simp only at h
  split at h
  · cases h; rfl
  · split at h
    · cases h
    · split at h
      · cases h; rfl
      · cases h

theorem homeOnly_takeEntry {s t : State} {c : Nat} (h : takeEntry s c = some t) : HomeOnly s t := by
  rw [takeEntry_some h]; rfl

theorem mergeAtHome_mem (s : State) (w : Writer) (c : Nat) : (mergeAtHome s w c).mem = s.mem := by
  rw [homeOnly_mergeAtHome s w c]
  unfold mergeAtHome
  repeat' split
  all_goals rfl

/-- What each step of a cell's write keeps, the whole write keeps. -/
theorem writeCell_parts (s : State) (w : Writer) (c : Nat) (m : BitVec 8) (x : BitVec 64) (P : State → Prop) (h0 : P s)
    (hm : ∀ s, P s → P (mergeAtHome s w c)) (ht : ∀ s t, takeEntry s c = some t → P s → P t) (hp : ∀ s vd l n, P s → P (putSibs s vd c l n))
    (hn : ∀ s d k, P s → P (nextStamp s d k).2) (hu : ∀ s y, P s → P (putCell (unfed s c) c y)) (ha : ∀ s, P s → P (afterWrite s c m))
    (hf : ∀ s, P s → P (afterFed s c m)) : P (writeCell s w c m x).2 := by
  unfold writeCell
  generalize homeOf s (8 * c) = h
  cases hw : w.fed with
  | false => simp only [Bool.false_eq_true, if_false]; exact ha _ (hu _ _ (hm _ h0))
  | true =>
    simp only [if_true]
    cases hv : w.vec with
    | none => exact hf _ (hp _ _ _ _ h0)
    | some v =>
      simp only
      split
      · exact hf _ (hp _ _ _ _ (hm _ h0))
      · split
        · exact h0
        · cases he : takeEntry s c with
          | none => exact h0
          | some t => exact hf _ (hp _ _ _ _ (hn _ _ _ (hm _ (ht _ _ he h0))))

theorem writeCell_rest (s : State) (w : Writer) (c : Nat) (m : BitVec 8) (x : BitVec 64) : HomeOnly s (writeCell s w c m x).2 :=
  writeCell_parts s w c m x (HomeOnly s) (HomeOnly.refl s) (fun _ h => h.trans (homeOnly_mergeAtHome _ _ _)) (fun _ _ he h => h.trans (homeOnly_takeEntry he))
    (fun _ _ _ _ h => h.trans (homeOnly_putSibs _ _ _ _ _)) (fun _ _ _ h => h.trans (homeOnly_nextStamp _ _ _))
    (fun _ _ h => h.trans ((homeOnly_unfed _ _).trans (homeOnly_putCell _ _ _))) (fun _ h => h.trans (homeOnly_afterWrite _ _ _)) (fun _ h => h.trans (homeOnly_afterFed _ _ _))

theorem wf_writeCell {s : State} (h : Memory.wf s.mem = true) (w : Writer) (c : Nat) (m : BitVec 8) (x : BitVec 64) : Memory.wf (writeCell s w c m x).2.mem = true :=
  writeCell_parts s w c m x (fun t => Memory.wf t.mem = true) h (fun _ h => by rw [mergeAtHome_mem]; exact h) (fun _ _ he h => by rw [takeEntry_some he]; exact h)
    (fun _ _ _ _ h => wf_putSibs h _ _ _ _) (fun _ _ _ h => h) (fun t _ h => wf_putCell (s := unfed t c) h _ _) (fun _ h => h) (fun _ h => h)

theorem wf_writeHome {s : State} (h : Memory.wf s.mem = true) (w : Writer) (pa n x : Nat) : Memory.wf (writeHome s w pa n x).2.mem = true := wf_writeCell h _ _ _ _

theorem writeHome_rest (s : State) (w : Writer) (pa n x : Nat) : HomeOnly s (writeHome s w pa n x).2 := writeCell_rest _ _ _ _ _

/-! ### The device's own writes -/

theorem wf_deviceBytes (bad : List Nat) (l : List (BitVec 8)) : ∀ {s : State} (_ : Memory.wf s.mem = true) (pa : Nat), Memory.wf (deviceBytes bad s pa l).mem = true := by
  induction l with
  | nil => intro s h pa; exact h
  | cons b r ih =>
    intro s h pa
    unfold deviceBytes
    split
    · exact ih h _
    · exact ih (wf_writeHome h _ _ _ _) _

theorem deviceBytes_rest (bad : List Nat) (l : List (BitVec 8)) : ∀ (s : State) (pa : Nat), HomeOnly s (deviceBytes bad s pa l) := by
  induction l with
  | nil => intro s pa; exact HomeOnly.refl s
  | cons b r ih =>
    intro s pa
    unfold deviceBytes
    split
    · exact ih _ _
    · exact (writeHome_rest _ _ _ _ _).trans (ih _ _)

theorem wf_deviceWrite (l : List (BitVec 8)) {s : State} (h : Memory.wf s.mem = true) (pa : Nat) : Memory.wf (deviceWrite s pa l).mem = true :=
  wf_deviceBytes _ l (s := freshChecks s [(pa, l.length)]) h pa

theorem deviceWrite_rest (l : List (BitVec 8)) (s : State) (pa : Nat) : HomeOnly s (deviceWrite s pa l) :=
  (homeOnly_freshChecks s _).trans (deviceBytes_rest _ l _ pa)

/-- The groups, teams, virtual devices and cycles stay as they are. -/
theorem HomeOnly.keeps {s t : State} (h : HomeOnly s t) : t.groups = s.groups ∧ t.teams = s.teams ∧ t.vds = s.vds ∧ t.cycles = s.cycles := by
  unfold HomeOnly at h
  rw [h]; exact ⟨rfl, rfl, rfl, rfl⟩

/-! ### Write-backs, releases and acquires -/

theorem wf_noteRefusal {s : State} (h : Memory.wf s.mem = true) (gid : Nat) (va : DWord) : Memory.wf (noteRefusal s gid va).mem = true := h

theorem wf_writeBackCell {s : State} (h : Memory.wf s.mem = true) (ws : List RemoteWord) : Memory.wf (writeBackCell s ws).mem = true := by
  cases ws with
  | nil => exact h
  | cons r l =>
    simp only [writeBackCell]
    split
    · exact wf_writeCell h _ _ _ _
    · exact wf_noteRefusal (wf_writeCell h _ _ _ _) _ _

theorem wf_foldState {α : Type} (l : List α) (f : State → α → State) (hf : ∀ s x, Memory.wf s.mem = true → Memory.wf (f s x).mem = true) :
    ∀ {s : State}, Memory.wf s.mem = true → Memory.wf (l.foldl f s).mem = true := by
  induction l with
  | nil => intro s h; exact h
  | cons x r ih => intro s h; exact ih (hf s x h)

theorem postIntegrity_mem (s : State) (vd pa : Nat) : (postIntegrity s vd pa).mem = s.mem := by
  unfold postIntegrity
  split <;> rfl

theorem wf_writeBack {s : State} (h : Memory.wf s.mem = true) (p : RemoteWord → Bool) : Memory.wf (writeBack s p).mem = true := by
  unfold writeBack
  exact wf_foldState _ _ (fun s b hs => (postIntegrity_mem s _ _).symm ▸ hs) (wf_foldState _ _ (fun s ws hs => wf_writeBackCell hs ws) h)

theorem bumpCount_mem (s : State) (vd die : Nat) : (bumpCount s vd die).mem = s.mem := by
  unfold bumpCount
  dsimp only
  repeat' split
  all_goals rfl

theorem wf_releasePkg {s : State} (h : Memory.wf s.mem = true) (vd die : Nat) : Memory.wf (releasePkg s vd die).mem = true := by
  unfold releasePkg
  rw [bumpCount_mem]
  exact wf_writeBack h _

theorem mergeVs_mem (s : State) (vd die : Nat) (ws : List (List Nat)) : (mergeVs s vd die ws).mem = s.mem := by
  unfold mergeVs
  induction ws generalizing s with
  | nil => rfl
  | cons w r ih => rw [List.foldl_cons, ih]; rfl

theorem wf_acquirePkg {s : State} (h : Memory.wf s.mem = true) (vd die : Nat) (ws : List (List Nat)) : Memory.wf (acquirePkg s vd die ws).mem = true := by
  unfold acquirePkg
  rw [mergeVs_mem]
  split <;> exact wf_writeBack h _

/-- What forgetting frames leaves of memory and of the groups: all of it (12 R301). -/
@[simp] theorem forget_mem (s : State) (base len : Nat) : (forget s base len).mem = s.mem := rfl
@[simp] theorem forget_groups (s : State) (base len : Nat) : (forget s base len).groups = s.groups := rfl
@[simp] theorem forget_vds (s : State) (base len : Nat) : (forget s base len).vds = s.vds := rfl

/-- SCRUB leaves the form (12 R305). -/
theorem wf_scrub {s : State} (h : Memory.wf s.mem = true) (base len : Nat) : Memory.wf (scrub s base len).mem = true := Laws.wf_drop (m := (forget s base len).mem) h _

/-! ### The SMC's own mappings -/

/-- What mapping a range may do: it writes memory in its form, and uses up frames for tables (log 6). -/
structure Maps (s t : State) : Prop where
  form : Memory.wf s.mem = true → Memory.wf t.mem = true
  rest : t = { s with mem := t.mem, vds := t.vds }

theorem Maps.refl (s : State) : Maps s s := ⟨id, rfl⟩

theorem Maps.trans {s t u : State} (h : Maps s t) (k : Maps t u) : Maps s u := ⟨fun w => k.form (h.form w), by rw [k.rest, h.rest]⟩

theorem maps_wrRun (s : State) (a : Nat) (l : List (BitVec 8)) : Maps s { s with mem := wrRun s.mem a l } := ⟨fun w => Laws.wf_wrRun w a l, rfl⟩

theorem maps_takeFrame {s t : State} {vd f : Nat} (h : takeFrame s vd = some (f, t)) : Maps s t := by
  unfold takeFrame at h
  split at h
  · cases h
  · cases h
    have d : Memory.wf s.mem = true → Memory.wf (drop s.mem (fun a => decide (f ≤ a) && decide (a < f + 4096))) = true := fun w => Laws.wf_drop w _
    exact ⟨d, rfl⟩

theorem maps_tableFor (vd gpa target : Nat) : ∀ (n : Nat) {s t : State} (table lvl : Nat) {r : Nat}, tableFor vd gpa target n s table lvl = some (r, t) → Maps s t
  | 0, s, t, table, lvl, r, h => by
    unfold tableFor at h
    split at h <;> cases h
    exact Maps.refl s
  | n + 1, s, t, table, lvl, r, h => by
    unfold tableFor at h
    simp only at h
    split at h
    · cases h; exact Maps.refl s
    · split at h
      · split at h
        · cases h
        · exact maps_tableFor vd gpa target n _ _ h
      · split at h
        · cases h
        · rename_i f u hu
          exact ((maps_takeFrame hu).trans (maps_wrRun _ _ _)).trans (maps_tableFor vd gpa target n _ _ h)

theorem maps_mapRun {s t : State} {vd root lvl gpa pa n flags : Nat} (h : mapRun s vd root lvl gpa pa n flags = some t) : Maps s t := by
  unfold mapRun at h
  split at h
  · cases h
  · rename_i hu
    cases h
    exact (maps_tableFor _ _ _ _ _ _ hu).trans (maps_wrRun _ _ _)

theorem maps_mapRange (vd root flags : Nat) : ∀ (n : Nat) {s t : State} (gpa pa len : Nat), mapRange vd root flags n s gpa pa len = some t → Maps s t
  | 0, s, t, _, _, len, h => by
    unfold mapRange at h
    split at h <;> cases h
    exact Maps.refl s
  | n + 1, s, t, gpa, pa, len, h => by
    unfold mapRange at h
    simp only at h
    split at h
    · cases h; exact Maps.refl s
    · split at h
      · cases h
      · rename_i hu
        exact (maps_mapRun hu).trans (maps_mapRange vd root flags n _ _ _ h)

/-- Mapping a range for a virtual device writes memory in its form and uses up frames for tables, and does nothing else (02 R34; log 6). -/
theorem maps_mapFor {s t : State} {vd gpa pa len flags : Nat} (h : mapFor s vd gpa pa len flags = some t) : Maps s t := by
  unfold mapFor at h
  cases hv : findVd s vd with
  | none => rw [hv] at h; cases h
  | some v => rw [hv] at h; exact maps_mapRange _ _ _ _ _ _ _ h

end Sys2Proof.Machine
end

