-- ==== Sys2Proof/Laws/Operands.lean ====
section
/-! SUPPORT. Laws/Operands.lean: what writing a result leaves alone, for every form of destination. -/

namespace Sys2Proof.Laws

open Sys2Proof.Machine

/-! ### Registers -/

@[simp] theorem sset_v (g : Group) (i : Nat) (x : DWord) : (sset g i x).v = g.v := by unfold sset; split <;> rfl
@[simp] theorem sset_p (g : Group) (i : Nat) (x : DWord) : (sset g i x).p = g.p := by unfold sset; split <;> rfl
@[simp] theorem pset_v (g : Group) (i : Nat) (m x : Mask) : (pset g i m x).v = g.v := by unfold pset; split <;> rfl
@[simp] theorem pset_s (g : Group) (i : Nat) (m x : Mask) : (pset g i m x).s = g.s := by unfold pset; split <;> rfl

/-- A lane of a vector register after a masked write of a register. -/
theorem vget_vset (g : Group) (r r' l : Nat) (m : Mask) (f : Nat → Word) (h : l < 32) :
    vget (vset g r m f) r' l = if r' = r ∧ m.getLsbD l = true then f l else vget g r' l := by
  unfold vget vset
  simp only [rd_wrLanes]
  by_cases hr : r' = r
  · subst hr
    have h1 : r' * 32 ≤ r' * 32 + l ∧ r' * 32 + l < r' * 32 + 32 := by omega
    have h2 : r' * 32 + l - r' * 32 = l := by omega
    simp [h1.1, h1.2, h2]
  · rw [if_neg, if_neg]
    · rintro ⟨h1, -⟩; exact hr h1
    · rintro ⟨h1, h2, -⟩; omega

/-- A uniform register after a write; s0 stays zero. -/
theorem sget_sset (g : Group) (i j : Nat) (x : DWord) : sget (sset g i x) j = if j = i ∧ i ≠ 0 then x else sget g j := by
  unfold sget sset
  by_cases hi : i = 0
  · simp [hi]
  · by_cases hj : j = 0
    · subst hj; simp [hi]; intro h; exact absurd h.symm hi
    · by_cases hji : j = i
      · subst hji; simp [hi]
      · simp [hi, hj, hji, rd_wr]

/-- A predicate's bit after a masked write; p0 stays all ones. -/
theorem pget_pset (g : Group) (i j l : Nat) (m x : Mask) :
    (pget (pset g i m x) j).getLsbD l = if j = i ∧ i ≠ 0 ∧ m.getLsbD l = true then x.getLsbD l else (pget g j).getLsbD l := by
  unfold pget pset
  by_cases hi : i = 0
  · simp [hi]
  · by_cases hj : j = 0
    · subst hj; simp [hi]; intro h; exact absurd h.symm hi
    · by_cases hji : j = i
      · subst hji
        simp only [hi, if_false, rd_wr_same, BitVec.getLsbD_or, BitVec.getLsbD_and, BitVec.getLsbD_not, ne_eq, not_false_eq_true, true_and]
        by_cases hl : l < 32
        · by_cases hm : m.getLsbD l = true
          · simp [hm]
          · have hm' : m.getLsbD l = false := by simpa using hm
            rw [BitVec.getLsbD_eq_getElem hl] at hm'
            simp [hm', hl]
        · simp [BitVec.getLsbD_of_ge _ _ (Nat.le_of_not_lt hl)]
      · simp [hi, hj, hji, rd_wr]

/-! ### Writes -/

/-- c' is c but for the registers in R, U and P, in the active lanes, the latches, and bits of GSTAT in flags that have been set. -/
structure Writes (c c' : Ctx) (R U P : List Nat) (flags : BitVec 64) : Prop where
  fi : c'.fi = c.fi
  state : c'.s = c.s
  frag : c'.f = { c.f with latches := c'.f.latches }
  rest : c'.g = { c.g with v := c'.g.v, s := c'.g.s, p := c'.g.p, gstat := c'.g.gstat }
  vregs : ∀ r l, l < 32 → (r ∉ R ∨ c.f.mask.getLsbD l = false) → vget c'.g r l = vget c.g r l
  unis : ∀ k, k ∉ U → sget c'.g k = sget c.g k
  preds : ∀ k l, (k ∉ P ∨ c.f.mask.getLsbD l = false) → (pget c'.g k).getLsbD l = (pget c.g k).getLsbD l
  stat : ∃ b, b &&& ~~~flags = 0#64 ∧ c'.g.gstat = c.g.gstat ||| b

theorem Writes.refl (c : Ctx) (R U P : List Nat) (flags : BitVec 64) : Writes c c R U P flags :=
  ⟨rfl, rfl, rfl, rfl, fun _ _ _ _ => rfl, fun _ _ => rfl, fun _ _ _ => rfl, 0#64, by simp, by simp⟩

theorem Writes.trans {c d e : Ctx} {R U P : List Nat} {fl : BitVec 64} (h : Writes c d R U P fl) (k : Writes d e R U P fl) : Writes c e R U P fl where
  fi := k.fi.trans h.fi
  state := k.state.trans h.state
  frag := by rw [k.frag, h.frag]
  rest := by rw [k.rest, h.rest]
  vregs := fun r l hl hr => by
    have hm : d.f.mask = c.f.mask := by rw [h.frag]
    rw [k.vregs r l hl (by rw [hm]; exact hr), h.vregs r l hl hr]
  unis := fun j hj => (k.unis j hj).trans (h.unis j hj)
  preds := fun j l hj => by
    have hm : d.f.mask = c.f.mask := by rw [h.frag]
    rw [k.preds j l (by rw [hm]; exact hj), h.preds j l hj]
  stat := by
    obtain ⟨a, ha, ha'⟩ := h.stat
    obtain ⟨b, hb, hb'⟩ := k.stat
    refine ⟨a ||| b, ?_, by rw [hb', ha', BitVec.or_assoc]⟩
    have : (a ||| b) &&& ~~~fl = (a &&& ~~~fl) ||| (b &&& ~~~fl) := by
      ext i hi; simp [Bool.and_or_distrib_right]
    rw [this, ha, hb]; simp

theorem Writes.push (c : Ctx) (k : Latch) (R U P : List Nat) (fl : BitVec 64) : Writes c (c.push k) R U P fl :=
  ⟨rfl, rfl, rfl, rfl, fun _ _ _ _ => rfl, fun _ _ => rfl, fun _ _ _ => rfl, 0#64, by simp, by simp [Ctx.push]⟩

theorem Writes.setStat (c : Ctx) (b : BitVec 64) (R U P : List Nat) (fl : BitVec 64) (h : b &&& ~~~fl = 0#64) :
    Writes c { c with g := Machine.setStat c.g b } R U P fl :=
  ⟨rfl, rfl, rfl, rfl, fun _ _ _ _ => rfl, fun _ _ => rfl, fun _ _ _ => rfl, b, h, rfl⟩

/-- Writing to a destination of k registers changes those registers alone. -/
theorem Writes.writeDst (c : Ctx) (n : Bool) (d : BitVec 7) (k : Nat) (f : Nat → DWord) (R U P : List Nat) (fl : BitVec 64) (hk : k = 1 ∨ k = 2)
    (hv : n = false → d.toNat < 96 → ∀ j, j < k → regOf c.g d + j ∈ R)
    (hu : n = false → 96 ≤ d.toNat → d.toNat ≠ 96 → d.toNat - 96 ∈ U) : Writes c (Machine.writeDst c n d k f) R U P fl := by
  unfold Machine.writeDst
  by_cases hn : n = true
  · simp only [hn, if_true]; exact Writes.refl c R U P fl
  · have hn' : n = false := by simpa using hn
    simp only [hn', Bool.false_eq_true, if_false]
    by_cases hd : d.toNat < 96
    · simp only [hd, if_true]
      have h0 := hv hn' hd
      refine ⟨rfl, rfl, rfl, ?_, ?_, ?_, ?_, 0#64, by simp, ?_⟩
      · split <;> rfl
      · intro r l hl hr
        have key : ∀ (g : Group) (q : Nat) (f : Nat → Word), q ∈ R → vget (vset g q c.f.mask f) r l = vget g r l := by
          intro g q f hq
          rw [vget_vset _ _ _ _ _ _ hl, if_neg]
          rintro ⟨rfl, hm⟩
          rcases hr with hr | hr
          · exact hr hq
          · rw [hr] at hm; exact absurd hm (by simp)
        rcases hk with rfl | rfl
        · simp only [show ¬ (1 = 2) by omega, if_false]
          exact key _ _ _ (by simpa using h0 0 (by omega))
        · simp only [if_true]
          rw [key _ _ _ (h0 1 (by omega)), key _ _ _ (by simpa using h0 0 (by omega))]
      · intro j _; split <;> rfl
      · intro j l _; split <;> rfl
      · split <;> simp [vset]
    · simp only [hd, if_false]
      refine ⟨rfl, rfl, rfl, ?_, ?_, ?_, ?_, 0#64, by simp, ?_⟩
      · simp only [sset]; split <;> rfl
      · intro r l _ _; simp [vget]
      · intro j hj
        rw [sget_sset, if_neg]
        rintro ⟨rfl, h⟩
        exact hj (hu hn' (by omega) (by omega))
      · intro j l _; simp [pget]
      · simp only [sset]; split <;> simp

theorem Writes.putResult (c : Ctx) (uni n : Bool) (d : BitVec 7) (k : Nat) (f : Nat → DWord) (R U P : List Nat) (fl : BitVec 64) (hk : k = 1 ∨ k = 2)
    (hv : n = false → d.toNat < 96 → ∀ j, j < k → regOf c.g d + j ∈ R)
    (hu : n = false → 96 ≤ d.toNat → d.toNat ≠ 96 → d.toNat - 96 ∈ U) : Writes c (Machine.putResult c uni n d k f) R U P fl := by
  unfold Machine.putResult
  have h := Writes.writeDst c n d k f R U P fl hk hv hu
  simp only
  split
  · exact h.trans (Writes.push _ _ _ _ _ _)
  · exact h.trans (Writes.push _ _ _ _ _ _)

theorem Writes.putUni (c : Ctx) (n : Bool) (d : BitVec 7) (k : Nat) (x : DWord) (R U P : List Nat) (fl : BitVec 64) (hk : k = 1 ∨ k = 2)
    (hv : n = false → d.toNat < 96 → ∀ j, j < k → regOf c.g d + j ∈ R)
    (hu : n = false → 96 ≤ d.toNat → d.toNat ≠ 96 → d.toNat - 96 ∈ U) : Writes c (Machine.putUni c n d k x) R U P fl :=
  (Writes.writeDst c n d k _ R U P fl hk hv hu).trans (Writes.push _ _ _ _ _ _)

theorem Writes.putPred (c : Ctx) (u : Bool) (pd : BitVec 3) (f : Nat → Bool) (R U P : List Nat) (fl : BitVec 64) (hp : pd.toNat ∈ P) :
    Writes c (Machine.putPred c u pd f) R U P fl := by
  unfold Machine.putPred
  refine ⟨rfl, rfl, rfl, ?_, ?_, ?_, ?_, 0#64, by simp, ?_⟩
  · simp only [pset]; split <;> rfl
  · intro r l _ _; simp [vget]
  · intro j _; simp [sget]
  · intro j l hj
    rw [pget_pset, if_neg]
    rintro ⟨rfl, -, h⟩
    rcases hj with hj | hj
    · exact hj hp
    · rw [hj] at h; exact absurd h (by simp)
  · simp only [pset]; split <;> simp

/-! ### Falling through -/

/-- A word whose effect is a write, and which falls through, changes nothing else. -/
theorem falls_of_writes {i : Instr} {s : State} {c c' : Ctx} {fl : BitVec 64} (hi : Issues i s c)
    (hw : Writes c c' (destRegs i c.g) (destUnis i) (destPreds i) fl) :
    ∃ h, findGroup c'.finish c.g.gid = some h ∧ OnlyGroup s c'.finish c.g.gid ∧ Falls i c fl h := by
  obtain ⟨n, hs⟩ := state_of_chosen hi.toChosen
  obtain ⟨f, hf, hpc, hm, hb⟩ := frag_of_chosen hi.toChosen
  have hgid : c'.g.gid = c.g.gid := by rw [hw.rest]
  have hfr : c'.g.frags = c.g.frags := by rw [hw.rest]
  have hlen : c.fi < c.g.frags.length := by
    rcases Nat.lt_or_ge c.fi c.g.frags.length with h | h
    · exact h
    · rw [List.getElem?_eq_none h] at hf; exact absurd hf (by simp)
  have hfound : findGroup c'.s c.g.gid = some c.g := by
    rw [hw.state, hs]
    exact findGroup_setGroup_same (g := c.g) hi.found
  unfold Ctx.finish Ctx.commit Ctx.group
  refine ⟨_, findGroup_setGroup_at hgid hfound, ⟨?_, ?_, ?_, ?_⟩, ?_⟩
  · simp only [hw.state, hs, setGroup]
  · intro u hu
    simp only [hw.state, hs, setGroup] at hu
    exact untry_sub hu
  · intro h hh
    rw [findGroup_setGroup_other (by simpa [hgid] using hh)]
    simp only [hw.state, hs]
    rw [findGroup_setGroup_other hh]; rfl
  · intro a; simp only [hw.state, hs, setGroup]
  · refine ⟨?_, ?_, ?_, ?_, ?_, ?_, ?_⟩
    · intro r l hl hr; exact hw.vregs r l hl hr
    · intro k hk; exact hw.unis k hk
    · intro k l hk; exact hw.preds k l hk
    · exact hw.stat
    · refine ⟨_, by simp [setAt, hw.fi, hfr, hlen]; rfl, ?_, ?_, ?_⟩
      · exact congrArg (fun x => x.pc + 4#64) hw.frag
      · have := congrArg Frag.mask hw.frag; exact this
      · have := congrArg Frag.board hw.frag; exact this
    · refine ⟨by simp [setAt, hfr], ?_⟩
      intro j hj
      simp only [setAt, hfr, hw.fi]
      rw [List.getElem?_set_ne (Ne.symm hj)]
    · rw [hw.rest]; simp only [hw.fi]

/-! ### Destinations -/

theorem legal_of_firstTrap {s : State} {g : Group} {f : Frag} {i : Instr} (h : firstTrap s g f i = none) : legal i = true := by
  unfold firstTrap at h
  by_cases hl : legal i = true
  · exact hl
  · simp [hl] at h

/-- Operand o is a destination block of k registers at field d. -/
structure IsDest (i : Instr) (d : BitVec 7) (k : Nat) (o : Opd) : Prop where
  mem : o ∈ (shape i).opds
  dst : o.dst = true
  fld : o.fld = d
  n : o.n = k
  span : 1 ≤ o.span

theorem mem_destRegs {i : Instr} {d : BitVec 7} {k : Nat} {o : Opd} (g : Group) (h : IsDest i d k o) (hd : d.toNat < 96) (j : Nat) (hj : j < k) :
    regOf g d + j ∈ destRegs i g := by
  unfold destRegs
  rw [List.mem_flatMap]
  refine ⟨o, List.mem_filter.mpr ⟨h.mem, h.dst⟩, ?_⟩
  unfold Opd.regs
  rw [h.fld, if_pos hd, List.mem_map]
  exact ⟨j, List.mem_range.mpr (by rw [h.n]; exact hj), rfl⟩

theorem mem_destUnis {i : Instr} {d : BitVec 7} {k : Nat} {o : Opd} (hl : legal i = true) (h : IsDest i d k o) (hd : 96 ≤ d.toNat) (h0 : d.toNat ≠ 96) :
    d.toNat - 96 ∈ destUnis i := by
  have hok : Opd.ok (shape i).u o = true := by
    unfold legal at hl
    simp only [Bool.and_eq_true, List.all_eq_true] at hl
    exact hl.2 o h.mem
  have hlt : d.toNat < 120 := by
    unfold Opd.ok at hok
    simp only [h.fld, h.dst] at hok
    by_contra hc
    rw [if_neg (by omega), if_neg hc] at hok
    simp at hok
  unfold destUnis
  rw [List.mem_flatMap]
  refine ⟨o, List.mem_filter.mpr ⟨h.mem, h.dst⟩, ?_⟩
  unfold Opd.unis
  rw [h.fld, if_pos ⟨hd, hlt⟩, List.mem_filter]
  refine ⟨List.mem_map.mpr ⟨0, List.mem_range.mpr h.span, rfl⟩, ?_⟩
  simp; omega

/-- A result written to the destination that the shape names. -/
theorem writes_putResult {i : Instr} (c : Ctx) (uni n : Bool) (d : BitVec 7) (k : Nat) (f : Nat → DWord) (fl : BitVec 64) (hk : k = 1 ∨ k = 2) (hl : legal i = true)
    (hd : n = false → ∃ o, IsDest i d k o) : Writes c (Machine.putResult c uni n d k f) (destRegs i c.g) (destUnis i) (destPreds i) fl :=
  Writes.putResult c uni n d k f _ _ _ fl hk
    (fun hn h j hj => by obtain ⟨o, ho⟩ := hd hn; exact mem_destRegs c.g ho h j hj)
    (fun hn h h0 => by obtain ⟨o, ho⟩ := hd hn; exact mem_destUnis hl ho h h0)

theorem writes_putUni {i : Instr} (c : Ctx) (n : Bool) (d : BitVec 7) (k : Nat) (x : DWord) (fl : BitVec 64) (hk : k = 1 ∨ k = 2) (hl : legal i = true)
    (hd : n = false → ∃ o, IsDest i d k o) : Writes c (Machine.putUni c n d k x) (destRegs i c.g) (destUnis i) (destPreds i) fl :=
  Writes.putUni c n d k x _ _ _ fl hk
    (fun hn h j hj => by obtain ⟨o, ho⟩ := hd hn; exact mem_destRegs c.g ho h j hj)
    (fun hn h h0 => by obtain ⟨o, ho⟩ := hd hn; exact mem_destUnis hl ho h h0)

/-- The destination of a word with an N bit stands in its operand list. -/
theorem isDest_dstOpds {i : Instr} {u n uniOk vecOk reads : Bool} {fld : BitVec 7} {k : Nat} {before : List Opd}
    (h : (shape i).opds = before ++ dstOpds u n fld k uniOk vecOk reads) (hn : n = false) : ∃ o, IsDest i fld k o := by
  refine ⟨Opd.dest fld k vecOk (u || uniOk), ?_, rfl, rfl, rfl, by simp [Opd.dest]⟩
  rw [h]
  simp [dstOpds, hn]

end Sys2Proof.Laws
end

