-- ==== Sys2Proof/Tests/Slice0.lean ====
section
/-! SUPPORT. Tests/Slice0.lean: terms that WellFormed refuses; words laid out by the encoding tables and what they decode to; for every statement a state and operands that meet its
hypotheses; single steps with results taken from the manual. -/

namespace Sys2Proof.Tests

-- one theorem after another: side by side their evaluations need more memory than the check allows
set_option Elab.async false

open Sys2Proof.Machine

/-! ## States for one word -/

/-- The state after reset with one word placed, its group about to issue it. -/
def boot (i : Instr) : State := State.reset.withFetchWord 32 (encode i).toNat

/-- Group 0 of a state, and fragment k of it. -/
def grp (s : State) : Group := (findGroup s 0).getD (bootGroup 0 1 .smc .u 0)
def frag (s : State) (k : Nat) : Frag := ((grp s).frags[k]?).getD (newFrag 0#64 0#32 0)

/-- The context in which fragment k of group 0 executes a word. -/
def ctxAt (k : Nat) (i : Instr) (s : State) : Ctx := issueCtx i s (grp s) k (frag s k)
def ctx (i : Instr) (s : State) : Ctx := ctxAt 0 i s

/-- The hypotheses of Chosen and of Issues, evaluated. -/
def chosenB (k : Nat) (_ : Instr) (s : State) : Bool :=
  s.cur == some { gid := 0, fi := k } && (findGroup s 0).isSome && (grp s).gid == 0 && (grp s).status == .running && (grp s).replay.isEmpty && ((grp s).frags[k]?).isSome
def issuesB (k : Nat) (i : Instr) (s : State) : Bool :=
  chosenB k i s && !startHeld s (grp s) (ctxAt k i s).f i && firstTrap s (grp s) (ctxAt k i s).f i == none && !notReady s (grp s) k (ctxAt k i s).f (ctxAt k i s).cycle i

theorem chosen_of_check {k : Nat} {i : Instr} {s : State} (h : chosenB k i s = true) : Chosen i s (ctxAt k i s) := by
  simp only [chosenB, Bool.and_eq_true, beq_iff_eq, List.isEmpty_iff] at h
  obtain ⟨⟨⟨⟨⟨h1, h2⟩, h3⟩, h4⟩, h5⟩, h6⟩ := h
  obtain ⟨g, hg⟩ := Option.isSome_iff_exists.mp h2
  obtain ⟨f, hf⟩ := Option.isSome_iff_exists.mp h6
  have e : grp s = g := by simp [grp, hg]
  refine ⟨?_, ?_, h4, h5, f, hf, ?_⟩
  · show s.cur = some { gid := (grp s).gid, fi := k }
    rw [h3]; exact h1
  · show findGroup s (grp s).gid = some (grp s)
    rw [h3, hg, e]
  · show issueCtx i s (grp s) k (frag s k) = issueCtx i s (grp s) k f
    simp [frag, hf]

theorem issues_of_check {k : Nat} {i : Instr} {s : State} (h : issuesB k i s = true) : Issues i s (ctxAt k i s) := by
  simp only [issuesB, Bool.and_eq_true, beq_iff_eq, Bool.not_eq_true'] at h
  exact ⟨chosen_of_check h.1.1.1, h.1.1.2, h.1.2, h.2⟩

/-- A state with group 0, its team, its cluster, its virtual device changed. -/
def withGroup (s : State) (f : Group → Group) : State := modGroup s 0 f
def withTeam (s : State) (f : Team → Team) : State := { s with teams := s.teams.map f }
def withVd (s : State) (f : Vd → Vd) : State := { s with vds := s.vds.map f }

/-- A word that decodes to an instruction which the placed group may issue. -/
def wordIssues (w : Word) : Bool :=
  match decodeWord w with
  | .ok i => issuesB 0 i (boot i)
  | .error _ => false

/-! ## Fields and states, written short -/

def fa (d a b : BitVec 7) (x : Bool := false) (u : Bool := false) (n : Bool := false) (z : Bool := false) : FmtA := { d := d, a := a, b := b, x := x, u := u, n := n, z := z }
def fj (d a b : BitVec 7) (u : Bool := false) (n : Bool := false) (z : Bool := false) : FmtJ := { d := d, a := a, b := b, u := u, n := n, z := z }
def fp (pd : BitVec 3) (cond : BitVec 4) (a b : BitVec 7) (x : Bool := false) (u : Bool := false) (z : Bool := false) : FmtP :=
  { pd := pd, cond := cond, a := a, b := b, x := x, u := u, z := z }
def fq (d a b : BitVec 7) (ps : BitVec 3) (n : Bool := false) : FmtQ := { d := d, a := a, b := b, ps := ps, n := n }
def fl (d : BitVec 7) (imm : BitVec 16) (u : Bool := false) (z : Bool := false) : FmtL := { d := d, imm := imm, u := u, z := z }
def fm (d a off : BitVec 7) (ord : BitVec 2 := 0#2) (u : Bool := false) (z : Bool := false) : FmtM := { d := d, a := a, off := off, ord := ord, u := u, z := z }
def fat (d a b : BitVec 7) (ar : Bool := false) : FmtAT := { d := d, a := a, b := b, ar := ar }
def fc (off : BitVec 19) (p : BitVec 3 := 0#3) (n : Bool := false) (u : Bool := false) : FmtC := { p := p, n := n, off := off, u := u }
def ft (td : BitVec 4) (a b f : BitVec 7) : FmtT := { td := td, a := a, b := b, f := f }
def fx (d a : BitVec 7) (u : Bool := false) (n : Bool := false) (z : Bool := false) : FmtX := { d := d, a := a, u := u, n := n, z := z }
def fs (a : BitVec 7) (cnt : BitVec 3) (recon : BitVec 15) : FmtS := { a := a, cnt := cnt, recon := recon }

/-- Group 0 with uniform registers, with one value in every lane of a vector register, with its fragments, with a word of its code changed. -/
def regs (l : List (Nat × DWord)) (s : State) : State := withGroup s (fun g => l.foldl (fun h e => sset h e.1 e.2) g)
def vecs (l : List (Nat × (Nat → Word))) (s : State) : State := withGroup s (fun g => l.foldl (fun h e => vset h e.1 0xFFFFFFFF#32 e.2) g)
def frags (f : Frag → Frag) (s : State) : State := withGroup s (fun g => { g with frags := g.frags.map f })
def code (k : Nat) (i : Instr) (s : State) : State := { s with mem := wrBytes s.mem (bootPc + 4 * k) (encode i).toNat 4 }
def pcAt (k : Nat) : DWord := BitVec.ofNat 64 (bootPc + 4 * k)

/-- A fragment of group 0 executes word i in a context of which p holds. -/
def meetsAt (k : Nat) (i : Instr) (s : State) (p : Ctx → Bool) : Bool := issuesB k i s && p (ctxAt k i s)
def meets (i : Instr) (s : State) (p : Ctx → Bool) : Bool := meetsAt 0 i s p

theorem met {k : Nat} {i : Instr} {s : State} {p : Ctx → Bool} (h : meetsAt k i s p = true) : ∃ c, Issues i s c ∧ p c = true := by
  simp only [meetsAt, Bool.and_eq_true] at h
  exact ⟨_, issues_of_check h.1, h.2⟩


/-! ## WellFormed: for each check a term that it refuses, beside one that differs in that point alone and passes (04, 05 R117-R123) -/

/-- The checks are on terms alone. -/
def ok (i : Instr) : Bool := decide (WellFormed i)

theorem smoke_U_bit : ok (.shl (fa 3 1 2 (u := true))) = false ∧ ok (.fadd (fa 3 1 2 (u := true))) = false ∧ ok (.shl (fa 99 100 101 (u := true))) = true ∧ ok (.fadd (fa 99 100 101 (u := true))) = true ∧
    ok (.voteAny (fx 99 100 (u := true))) = false ∧ ok (.voteAny (fx 99 100)) = true := by decide

theorem smoke_N_bit : ok (.sts (fm 3 1 0)) = true ∧ ok (.ret { fx 0 0 with n := true }) = false ∧ ok (.ret (fx 0 0)) = true ∧ ok (.cycle (fx 2 0)) = true ∧ ok (.trap (fx 0 1 (n := true)) 0#7) = false ∧
    ok (.trap (fx 0 1) 0#7) = true := by decide

theorem smoke_N_bit_leaves_d_zero : ok (.iadd (fa 3 1 2 (n := true))) = false ∧ ok (.iadd (fa 0 1 2 (n := true))) = true := by decide

theorem smoke_B_bit : ok (.voteAny (fx 99 1 (z := true))) = false ∧ ok (.voteAny (fx 99 1)) = true ∧ ok (.iadd (fa 3 1 2 (z := true))) = true ∧ ok (.trap (fx 0 1 (z := true)) 0#7) = false := by decide

theorem smoke_unused_fields : ok (.bra (fc 3 (p := 1))) = false ∧ ok (.bra (fc 3)) = true ∧ ok (.mov (fa 3 1 2)) = false ∧ ok (.mov (fa 3 1 0)) = true ∧ ok (.tzero (ft 1 2 0 0)) = false ∧
    ok (.tzero (ft 1 0 0 0)) = true ∧ ok (.exit (fx 0 1)) = false ∧ ok (.exit (fx 0 0)) = true := by decide

theorem smoke_immediate_bit : ok (.fmin (fa 3 1 2 (x := true))) = false ∧ ok (.fmin (fa 3 1 2)) = true ∧ ok (.iadd (fa 3 1 2 (x := true))) = true := by decide

theorem smoke_shift_amount : ok (.shl (fa 3 1 32 (x := true))) = false ∧ ok (.shl (fa 3 1 31 (x := true))) = true ∧ ok (.rotl (fa 3 1 127 (x := true))) = false ∧
    ok (.bcast (fa 3 1 32 (x := true))) = false ∧ ok (.bcast (fa 3 1 31 (x := true))) = true := by decide

theorem smoke_condition : ok (.icmp (fp 1 8 1 2)) = false ∧ ok (.icmp (fp 1 7 1 2)) = true ∧ ok (.icmp64 (fp 1 12 2 4)) = false ∧ ok (.icmp64 (fp 1 11 2 4)) = true ∧
    ok (.fcmp (fp 1 12 1 2)) = false ∧ ok (.fcmp (fp 1 11 1 2)) = true := by decide

theorem smoke_convert_types : ok (.cvt (fx 3 1) 1#3 1#3 0#2) = false ∧ ok (.cvt (fx 3 1) 7#3 0#3 0#2) = false ∧ ok (.cvt (fx 3 1) 3#3 4#3 0#2) = false ∧ ok (.cvt (fx 3 1) 1#3 0#3 1#2) = false ∧
    ok (.cvt (fx 3 1) 1#3 0#3 0#2) = true ∧ ok (.cvt (fx 3 1) 3#3 0#3 1#2) = true := by decide

theorem smoke_numbers_in_range : ok (.winb (fl 0 32)) = false ∧ ok (.winb (fl 0 31)) = true ∧ ok (.memxFence (fx 0 0) 5#4) = false ∧ ok (.memxFence (fx 0 0) 4#4) = true ∧
    ok (.ldxLdnc (fx 4 2) 0#2 5#3) = false ∧ ok (.ldxLdnc (fx 4 2) 0#2 4#3) = true ∧ ok (.switch (fs 1 3 7)) = false ∧ ok (.switch (fs 1 3 8)) = true ∧
    ok (.qscale (fa 3 1 5)) = false ∧ ok (.qscale (fa 3 1 4)) = true := by decide

theorem smoke_csr : ok (.csrr (fl 100 0x0002)) = false ∧ ok (.csrr (fl 100 0x0003)) = true ∧ ok (.csrw (fl 100 0x2002)) = false ∧ ok (.csrr (fl 100 0x2002)) = true ∧ ok (.csrr (fl 3 0x0003)) = false := by decide

theorem smoke_register_classes : ok (.iadd (fa 99 1 2)) = false ∧ ok (.iadd (fa 95 119 127)) = true ∧ ok (.iadd (fa 120 1 2)) = false ∧ ok (.iadd (fa 99 1 2 (u := true))) = false ∧
    ok (.dwaitOne (fx 0 5)) = false ∧ ok (.dwaitOne (fx 0 101)) = true ∧ ok (.send (fx 0 101) 0#6) = false ∧ ok (.send (fx 0 5) 0#6) = true := by decide

theorem smoke_register_blocks : ok (.iadd64 (fa 3 2 4)) = false ∧ ok (.iadd64 (fa 2 3 4)) = false ∧ ok (.iadd64 (fa 2 4 6)) = true ∧ ok (.ldq (fm 6 2 0)) = false ∧ ok (.ldq (fm 8 2 0)) = true ∧
    ok (.ldq (fm 99 100 0 (u := true))) = false ∧ ok (.ldq (fm 98 100 0 (u := true))) = true ∧ ok (.drayCopy (fx 97 117) 0#1) = false ∧ ok (.drayCopy (fx 97 116) 0#1) = true := by decide

theorem smoke_tiles : ok (.mma (ft 1 112 3 96)) = false ∧ ok (.mma (ft 1 111 3 96)) = true ∧ ok (.mma (ft 1 2 97 96)) = false ∧ ok (.tcvt (ft 1 95 0 96)) = false ∧ ok (.tcvt (ft 1 96 0 96)) = true ∧
    ok (.tcvt (ft 1 112 0 96)) = false := by decide

/-! ## Decoding: every row of the opcode table with a number in each of its fields (05 Tables 5.1-5.5; 04 R96-R105) -/

/-- A word decodes to an instruction. -/
def reads (p : Word × Instr) : Bool := match decodeWord p.1 with
  | .ok j => decide (j = p.2)
  | .error _ => false

theorem decode_Control :
    [(0x020A5CD8#32, .bra (fc 169782 0)),
     (0x04B4D47A#32, .brc (fc 341278 2 (n := true) (u := true))),
     (0x06025168#32, .call (fc 37978 0)),
     (0x08000000#32, .ret (fx 0 0)),
     (0x0A035004#32, .jmpi (fj 0 106 0 (u := true))),
     (0x0A01780C#32, .calli (fj 0 47 0 (u := true))),
     (0x0C1584D2#32, .switch (fs 5 3 1234)),
     (0x0E1D1C4C#32, .recon (fc 476947 0)),
     (0x10000000#32, .join (fx 0 0)),
     (0x120207A0#32, .land (fl 0 33256)),
     (0x14000000#32, .exit (fx 0 0)),
     (0x16000000#32, .nop (fx 0 0)),
     (0x16000008#32, .yield (fx 0 0)),
     (0x18702802#32, .voteAny (fx 28 5 (n := true))),
     (0x18E1B00A#32, .voteAll (fx 56 54 (n := true))),
     (0x187C6012#32, .voteBallot (fx 31 12 (n := true))),
     (0x1823501A#32, .voteCount (fx 8 106 (n := true))),
     (0x19E8E822#32, .voteFirst (fx 122 29 (n := true))),
     (0x192A582A#32, .voteUniq (fx 74 75 (n := true))),
     (0x1A000008#32, .winb (fl 0 2)),
     (0x1C03E8E8#32, .trap (fx 0 125) 29#7),
     (0x1C003640#32, .bkpt (fx 0 6) 72#7),
     (0x1FB80002#32, .dstkDepth (fx 110 0 (n := true))),
     (0x1E99B008#32, .dstkSpill (fx 38 54)),
     (0x1E4E3010#32, .dstkFill (fx 19 70))].all reads = true := by decide +kernel

theorem decode_Integer1 :
    [(0x2042528F#32, .iadd (fa 16 74 40 (x := true) (u := true) (n := true) (z := true))),
     (0x22363DCF#32, .isub (fa 13 71 92 (x := true) (u := true) (n := true) (z := true))),
     (0x25622B7F#32, .imul (fa 88 69 55 (x := true) (u := true) (n := true) (z := true))),
     (0x269D066F#32, .imulh (fa 39 32 102 (x := true) (u := true) (n := true) (z := true))),
     (0x2912071F#32, .imulhu (fa 68 64 113 (x := true) (u := true) (n := true) (z := true))),
     (0x2A42136F#32, .imad (fa 16 66 54 (x := true) (u := true) (n := true) (z := true))),
     (0x2CD837CF#32, .imin (fa 54 6 124 (x := true) (u := true) (n := true) (z := true))),
     (0x2F3604BF#32, .imax (fa 77 64 75 (x := true) (u := true) (n := true) (z := true))),
     (0x30F6D56F#32, .iminu (fa 61 90 86 (x := true) (u := true) (n := true) (z := true))),
     (0x3296E32F#32, .imaxu (fa 37 92 50 (x := true) (u := true) (n := true) (z := true))),
     (0x345A7807#32, .iunaryNeg (fx 22 79 (u := true) (n := true) (z := true))),
     (0x3473180F#32, .iunaryAbs (fx 28 99 (u := true) (n := true) (z := true))),
     (0x34CD9817#32, .iunaryNot (fx 51 51 (u := true) (n := true) (z := true))),
     (0x34E9A01F#32, .iunaryPopc (fx 58 52 (u := true) (n := true) (z := true))),
     (0x35BE3827#32, .iunaryClz (fx 111 71 (u := true) (n := true) (z := true))),
     (0x3563902F#32, .iunaryCtz (fx 88 114 (u := true) (n := true) (z := true))),
     (0x342CB837#32, .iunaryBrev (fx 11 23 (u := true) (n := true) (z := true))),
     (0x3409F83F#32, .iunaryBswap (fx 2 63 (u := true) (n := true) (z := true))),
     (0x34049847#32, .iunarySextb (fx 1 19 (u := true) (n := true) (z := true))),
     (0x35E8884F#32, .iunarySexth (fx 122 17 (u := true) (n := true) (z := true))),
     (0x36CDA33F#32, .shl (fa 51 52 51 (x := true) (u := true) (n := true) (z := true))),
     (0x38644FFF#32, .shr (fa 25 9 127 (x := true) (u := true) (n := true) (z := true))),
     (0x3AB2687F#32, .shra (fa 44 77 7 (x := true) (u := true) (n := true) (z := true))),
     (0x3DE97CFF#32, .rotl (fa 122 47 79 (x := true) (u := true) (n := true) (z := true))),
     (0x3E52921F#32, .and (fa 20 82 33 (x := true) (u := true) (n := true) (z := true))),
     (0x403F6BFF#32, .or (fa 15 109 63 (x := true) (u := true) (n := true) (z := true))),
     (0x422C98EF#32, .xor (fa 11 19 14 (x := true) (u := true) (n := true) (z := true))),
     (0x450C19BF#32, .andn (fa 67 3 27 (x := true) (u := true) (n := true) (z := true))),
     (0x47FA9EFF#32, .bfx (fa 126 83 111 (x := true) (u := true) (n := true) (z := true))),
     (0x48BB19D7#32, .bfi (fa 46 99 29 (u := true) (n := true) (z := true)))].all reads = true := by decide +kernel

theorem decode_Integer2 :
    [(0x4BD34B4D#32, .icmp (fp 7 4 105 52 (x := true) (u := true) (z := true))),
     (0x4CF027FD#32, .icmpu (fp 3 12 4 127 (x := true) (u := true) (z := true))),
     (0x4E88CD9B#32, .sel (fq 34 25 89 5 (n := true))),
     (0x50EB3BFF#32, .movi (fl 58 52991 (u := true) (z := true))),
     (0x522CE1C7#32, .movhi (fl 11 14449 (u := true) (z := true))),
     (0x54F4D00F#32, .mov (fa 61 26 0 (x := true) (u := true) (n := true) (z := true))),
     (0x56FBAD4F#32, .iadd64 (fa 62 117 84 (x := true) (u := true) (n := true) (z := true))),
     (0x5996E61F#32, .lea (fa 101 92 97 (x := true) (u := true) (n := true) (z := true))),
     (0x5BED58CD#32, .icmp64 (fp 7 11 43 12 (x := true) (u := true) (z := true))),
     (0x5D83D0BF#32, .dp4 (fa 96 122 11 (x := true) (u := true) (n := true) (z := true))),
     (0x5E52674F#32, .vaddmin (fa 20 76 116 (x := true) (u := true) (n := true) (z := true)))].all reads = true := by decide +kernel

theorem decode_Lanes1 :
    [(0x6052390B#32, .laneShup (fx 20 71 (n := true) (z := true)) 1#1 1#5),
     (0x61130373#32, .laneShdn (fx 68 96 (n := true) (z := true)) 1#1 14#5),
     (0x60110C3B#32, .laneXor (fx 4 33 (n := true) (z := true)) 7#5),
     (0x638A62AB#32, .laneidx (fa 98 76 42 (x := true) (n := true) (z := true))),
     (0x6423ADFB#32, .bcast (fa 8 117 95 (x := true) (n := true) (z := true))),
     (0x67ABB003#32, .gredAdd (fx 106 118 (n := true) (z := true))),
     (0x6712100B#32, .gredMin (fx 68 66 (n := true) (z := true))),
     (0x6790C013#32, .gredMax (fx 100 24 (n := true) (z := true))),
     (0x665C981B#32, .gredMinu (fx 23 19 (n := true) (z := true))),
     (0x67204023#32, .gredMaxu (fx 72 8 (n := true) (z := true))),
     (0x6797202B#32, .gredAnd (fx 101 100 (n := true) (z := true))),
     (0x6680C833#32, .gredOr (fx 32 25 (n := true) (z := true))),
     (0x678C683B#32, .gredXor (fx 99 13 (n := true) (z := true))),
     (0x678B9843#32, .gredFadd (fx 98 115 (n := true) (z := true))),
     (0x66AA784B#32, .gredFmin (fx 42 79 (n := true) (z := true))),
     (0x66EA1053#32, .gredFmax (fx 58 66 (n := true) (z := true))),
     (0x696A1C03#32, .gscanAdd (fx 90 67 (n := true) (z := true)) 1#1),
     (0x6849B40B#32, .gscanMin (fx 18 54 (n := true) (z := true)) 1#1),
     (0x68A45413#32, .gscanMax (fx 41 10 (n := true) (z := true)) 1#1),
     (0x6A700003#32, .getidLane (fx 28 0 (n := true) (z := true))),
     (0x6BCC000B#32, .getidGroup (fx 115 0 (n := true) (z := true))),
     (0x6A4C0013#32, .getidTeamx (fx 19 0 (n := true) (z := true))),
     (0x6BF0001B#32, .getidTeamy (fx 124 0 (n := true) (z := true))),
     (0x6B800023#32, .getidTeamz (fx 96 0 (n := true) (z := true))),
     (0x6BC8002B#32, .getidRole (fx 114 0 (n := true) (z := true))),
     (0x6BFC0033#32, .getidVdie (fx 127 0 (n := true) (z := true))),
     (0x6B6C003B#32, .getidNvdie (fx 91 0 (n := true) (z := true))),
     (0x6AB00043#32, .getidCluster (fx 44 0 (n := true) (z := true))),
     (0x6AB8004B#32, .getidBay (fx 46 0 (n := true) (z := true))),
     (0x6B740053#32, .getidGridx (fx 93 0 (n := true) (z := true)))].all reads = true := by decide +kernel

theorem decode_Lanes2 :
    [(0x6AB0005B#32, .getidGridy (fx 44 0 (n := true) (z := true))),
     (0x6B6C0063#32, .getidGridz (fx 91 0 (n := true) (z := true))),
     (0x6CAE1D0F#32, .vdhop (fa 43 67 80 (x := true) (u := true) (n := true) (z := true))),
     (0x6FF40003#32, .cycle (fx 125 0 (n := true) (z := true)))].all reads = true := by decide +kernel

theorem decode_Float1 :
    [(0x7089186F#32, .fadd (fa 34 35 6 (x := true) (u := true) (n := true) (z := true))),
     (0x73B7AD7F#32, .fsub (fa 109 117 87 (x := true) (u := true) (n := true) (z := true))),
     (0x756950CF#32, .fmul (fa 90 42 12 (x := true) (u := true) (n := true) (z := true))),
     (0x77CC523F#32, .ffma (fa 115 10 35 (x := true) (u := true) (n := true) (z := true))),
     (0x793B71D7#32, .fmin (fa 78 110 29 (u := true) (n := true) (z := true))),
     (0x7AEC12C7#32, .fmax (fa 59 2 44 (u := true) (n := true) (z := true))),
     (0x7C66D9F5#32, .fcmp (fp 1 9 91 31 (u := true) (z := true))),
     (0x7E883807#32, .funaryNeg (fx 34 7 (u := true) (n := true) (z := true))),
     (0x7F45400F#32, .funaryAbs (fx 81 40 (u := true) (n := true) (z := true))),
     (0x7F06B817#32, .funaryRcp (fx 65 87 (u := true) (n := true) (z := true))),
     (0x7F9C181F#32, .funaryRsq (fx 103 3 (u := true) (n := true) (z := true))),
     (0x7E0EF027#32, .funarySqrt (fx 3 94 (u := true) (n := true) (z := true))),
     (0x7FE1D02F#32, .funaryExp2 (fx 120 58 (u := true) (n := true) (z := true))),
     (0x7F1B5837#32, .funaryLog2 (fx 70 107 (u := true) (n := true) (z := true))),
     (0x7FF8F03F#32, .funarySinpi (fx 126 30 (u := true) (n := true) (z := true))),
     (0x7ED3F847#32, .funaryCospi (fx 52 127 (u := true) (n := true) (z := true))),
     (0x7E08504F#32, .funaryFloor (fx 2 10 (u := true) (n := true) (z := true))),
     (0x7E205857#32, .funaryCeil (fx 8 11 (u := true) (n := true) (z := true))),
     (0x7F65305F#32, .funaryTrunc (fx 89 38 (u := true) (n := true) (z := true))),
     (0x7E551867#32, .funaryRndne (fx 21 35 (u := true) (n := true) (z := true))),
     (0x7EBFE06F#32, .funaryFract (fx 47 124 (u := true) (n := true) (z := true))),
     (0x8017E71F#32, .fscale (fa 5 124 113 (x := true) (u := true) (n := true) (z := true))),
     (0x82055B17#32, .hadd2 (fa 1 43 49 (u := true) (n := true) (z := true))),
     (0x8506A1A7#32, .hmul2 (fa 65 84 26 (u := true) (n := true) (z := true))),
     (0x868B48C7#32, .hfma2 (fa 34 105 12 (u := true) (n := true) (z := true))),
     (0x88CC1A77#32, .badd2 (fa 51 3 39 (u := true) (n := true) (z := true))),
     (0x8B2FDC47#32, .bmul2 (fa 75 123 68 (u := true) (n := true) (z := true))),
     (0x8D77FC07#32, .bfma2 (fa 93 127 64 (u := true) (n := true) (z := true))),
     (0x8E1B5007#32, .famax (fa 6 106 0 (u := true) (n := true) (z := true))),
     (0x91AAC5FF#32, .cvt (fx 106 88 (u := true) (n := true) (z := true)) 5#3 7#3 3#2)].all reads = true := by decide +kernel

theorem decode_Float2 :
    [(0x9218952F#32, .cvtn (fa 6 18 82 (x := true) (u := true) (n := true) (z := true))),
     (0x95203D1F#32, .qscale (fa 72 7 81 (x := true) (u := true) (n := true) (z := true))),
     (0x96000840#32, .cbld (fx 0 1) 8#4),
     (0x999C480B#32, .cbdec (fa 103 9 0 (x := true) (n := true) (z := true)))].all reads = true := by decide +kernel

theorem decode_Matrix :
    [(0xA0BA056D#32, .mma (ft 5 104 10 109)),
     (0xA2A7EF61#32, .mmaf (ft 5 31 94 97)),
     (0xA487AFD4#32, .mmaz (ft 4 30 95 84)),
     (0xA7000000#32, .tzero (ft 8 0 0 0)),
     (0xA90036B1#32, .trd (ft 8 0 109 49)),
     (0xAA401F75#32, .twr (ft 2 0 62 117)),
     (0xAD600025#32, .twm (ft 11 0 0 37)),
     (0xAE031800#32, .fhset (fx 0 99)),
     (0xB033C051#32, .tcvt (ft 1 79 0 81)),
     (0xB366854D#32, .tscl (ft 11 26 10 77))].all reads = true := by decide +kernel

theorem decode_Memory :
    [(0xB44D5A1F#32, .ldb (fm 19 43 33 3 (u := true) (z := true))),
     (0xB609F08B#32, .ldh (fm 2 62 8 2 (u := true) (z := true))),
     (0xB964E57B#32, .ldw (fm 89 28 87 2 (u := true) (z := true))),
     (0xBAF1E3C7#32, .ldd (fm 60 60 60 1 (u := true) (z := true))),
     (0xBDF85F8B#32, .ldq (fm 126 11 120 2 (u := true) (z := true))),
     (0xBEEC569F#32, .stb (fm 59 10 105 3 (u := true) (z := true))),
     (0xC0C8DF67#32, .sth (fm 50 27 118 1 (u := true) (z := true))),
     (0xC24F044B#32, .stw (fm 19 96 68 2 (u := true) (z := true))),
     (0xC53B4D1F#32, .std (fm 78 105 81 3 (u := true) (z := true))),
     (0xC76D79EB#32, .stq (fm 91 47 30 2 (u := true) (z := true))),
     (0xC810AA05#32, .ldxLdsc (fx 4 21 (u := true) (z := true)) 1#2),
     (0xC8D13E8D#32, .ldxLsib (fx 52 39 (u := true) (z := true)) 3#2 2#3),
     (0xC8C54BD5#32, .ldxLdnc (fx 49 41 (u := true) (z := true)) 1#2 7#3),
     (0xC801501D#32, .ldxPref (fx 0 42 (u := true) (z := true))),
     (0xCA43CF77#32, .lds (fm 16 121 119 1 (u := true) (z := true))),
     (0xCC85809B#32, .sts (fm 33 48 9 2 (u := true) (z := true))),
     (0xCE000030#32, .memxFence (fx 0 0) 6#4),
     (0xCE000080#32, .memxFenceva (fx 0 0)),
     (0xCE03B938#32, .memxWaitc (fx 0 119) 7#4),
     (0xCF8401AA#32, .memxCntq (fx 97 0 (n := true)) 5#4),
     (0xCE012200#32, .memxCinv (fx 0 36)),
     (0xCE380282#32, .memxSplitq (fx 14 0 (n := true)))].all reads = true := by decide +kernel

theorem decode_Dray :
    [(0xD1AEAC00#32, .drayCopy (fx 107 85) 1#1),
     (0xD14BC408#32, .drayCopy2d (fx 82 120) 1#1),
     (0xD083EC10#32, .drayGather (fx 32 125) 1#1),
     (0xD0E21418#32, .drayScatter (fx 56 66) 1#1),
     (0xD0671C20#32, .draySpill (fx 25 99) 1#1),
     (0xD197DC28#32, .drayGcopy (fx 101 123) 1#1),
     (0xD1C82430#32, .drayPut (fx 114 4) 1#1),
     (0xD1D78C38#32, .drayGet (fx 117 113) 1#1),
     (0xD1745C40#32, .drayFill (fx 93 11) 1#1),
     (0xD1E2F448#32, .drayPoolfill (fx 120 94) 1#1),
     (0xD0EA7C50#32, .drayPoolcmp (fx 58 79) 1#1),
     (0xD14F8458#32, .drayPoolred (fx 83 112) 1#1),
     (0xD0FC3C60#32, .drayPub (fx 63 7) 1#1),
     (0xD059E868#32, .drayStat (fx 22 61)),
     (0xD201B000#32, .dwaitOne (fx 0 54)),
     (0xD2000008#32, .dwaitAll (fx 0 0))].all reads = true := by decide +kernel

theorem decode_Synchronisation1 :
    [(0xD8016000#32, .barInit (fx 0 44)),
     (0xD8012880#32, .barArr (fx 0 37)),
     (0xD8013900#32, .barArrn (fx 0 39)),
     (0xD8010980#32, .barExpb (fx 0 33)),
     (0xD802FA08#32, .barWait (fx 0 95) 1#1),
     (0xD8D2A288#32, .barTry (fx 52 84) 1#1),
     (0xD89DF300#32, .barQry (fx 39 62)),
     (0xDB22B332#32, .atarithAdd (fat 72 86 51 (ar := true))),
     (0xDA5A9956#32, .atarithFadd (fat 22 83 21 (ar := true))),
     (0xDA6E0F4A#32, .atarithDecp (fat 27 65 116 (ar := true))),
     (0xDB1CEBAE#32, .atarithIncw (fat 71 29 58 (ar := true))),
     (0xDD89D372#32, .atminmaxMin (fat 98 58 55 (ar := true))),
     (0xDD1CCA06#32, .atminmaxMax (fat 71 25 32 (ar := true))),
     (0xDC5D648A#32, .atminmaxMinu (fat 23 44 72 (ar := true))),
     (0xDCA4FB0E#32, .atminmaxMaxu (fat 41 31 48 (ar := true))),
     (0xDFA249A2#32, .atlogicAnd (fat 104 73 26 (ar := true))),
     (0xDF838356#32, .atlogicOr (fat 96 112 53 (ar := true))),
     (0xDED7044A#32, .atlogicXor (fat 53 96 68 (ar := true))),
     (0xDEC51ACE#32, .atlogicSwap (fat 49 35 44 (ar := true))),
     (0xE10124A2#32, .atcasCas32 (fat 64 36 74 (ar := true))),
     (0xE046C416#32, .atcasCas64 (fat 17 88 65 (ar := true))),
     (0xE0311F3A#32, .atcasAdd64 (fat 12 35 115 (ar := true))),
     (0xE2019342#32, .redAdd (fat 0 50 52 (ar := true))),
     (0xE201C7B6#32, .redFadd (fat 0 56 123 (ar := true))),
     (0xE2036E9A#32, .redMin (fat 0 109 105 (ar := true))),
     (0xE200885E#32, .redMax (fat 0 17 5 (ar := true))),
     (0xE56F1732#32, .waita (fat 91 98 115 (ar := true))),
     (0xE5F263F6#32, .waitaTo (fat 124 76 63 (ar := true))),
     (0xE6005002#32, .wakeOne (fat 0 10 0 (ar := true))),
     (0xE603C006#32, .wakeAll (fat 0 120 0 (ar := true)))].all reads = true := by decide +kernel

theorem decode_Synchronisation2 :
    [(0xE9F5D202#32, .rcn (fat 125 58 32 (ar := true))),
     (0xE874A146#32, .rcnD (fat 29 20 20 (ar := true))),
     (0xEA03C9A8#32, .send (fx 0 121) 53#6),
     (0xED740168#32, .recv (fx 93 0) 45#6),
     (0xEF4C01B8#32, .chq (fx 83 0) 55#6)].all reads = true := by decide +kernel

theorem decode_System :
    [(0xF0031000#32, .syscall (fx 0 98)),
     (0xF1CDD808#32, .eret (fx 115 59)),
     (0xF0000010#32, .wfi (fx 0 0)),
     (0xF0000018#32, .halt (fx 0 0)),
     (0xF22E34C0#32, .csrr (fl 11 36144)),
     (0xF5902880#32, .csrw (fl 100 2592)),
     (0xF6072800#32, .rlySend (fx 1 101)),
     (0xF644F008#32, .rlyRecv (fx 17 30)),
     (0xF7240010#32, .rlyPoll (fx 73 0)),
     (0xF9D82800#32, .xlatInvr (fx 118 5)),
     (0xF94EE008#32, .xlatBlock (fx 83 92)),
     (0xF89FE010#32, .xlatPurge (fx 39 124)),
     (0xF8468818#32, .xlatProbe (fx 17 81)),
     (0xF8010820#32, .xlatScrub (fx 0 33)),
     (0xF9129028#32, .xlatPin (fx 68 82)),
     (0xFAE00030#32, .pwrIslq (fx 56 0) 6#3),
     (0xFB880080#32, .pwrDorm (fx 98 0)),
     (0xFA3C0100#32, .pwrWakeq (fx 15 0))].all reads = true := by decide +kernel


/-! ## Every word issues somewhere: one legal word of each constructor, with the placed group at the level it needs (the hypotheses of Issues; 05 R123, 06 R128) -/

/-- bra to iunaryClz. -/
theorem issues_1 :
    [0x0200000C#32, 0x0440000C#32, 0x0600000C#32, 0x08000000#32, 0x0A001000#32, 0x0A001008#32, 0x0C048009#32, 0x0E00000C#32, 0x10000000#32, 0x12000014#32, 0x14000000#32, 0x16000000#32,
     0x16000008#32, 0x18101000#32, 0x18101008#32, 0x18101010#32, 0x18101018#32, 0x18101020#32, 0x18101028#32, 0x1A000014#32, 0x1C001000#32, 0x1C001400#32, 0x1E100000#32, 0x1F870808#32,
     0x1F870810#32, 0x20101030#32, 0x22101030#32, 0x24101030#32, 0x26101030#32, 0x28101030#32, 0x2A101030#32, 0x2C101030#32, 0x2E101030#32, 0x30101030#32, 0x32101030#32, 0x34101000#32,
     0x34101008#32, 0x34101010#32, 0x34101018#32, 0x34101020#32].all wordIssues = true := by decide +kernel

/-- iunaryCtz to gredFadd. -/
theorem issues_2 :
    [0x34101028#32, 0x34101030#32, 0x34101038#32, 0x34101040#32, 0x34101048#32, 0x36101030#32, 0x38101030#32, 0x3A101030#32, 0x3C101030#32, 0x3E101030#32, 0x40101030#32, 0x42101030#32,
     0x44101030#32, 0x46101030#32, 0x48101030#32, 0x4A401030#32, 0x4C401030#32, 0x4E101030#32, 0x50040014#32, 0x52040014#32, 0x54101000#32, 0x56101620#32, 0x58101030#32, 0x5A401620#32,
     0x5C101030#32, 0x5E101030#32, 0x60101000#32, 0x60101200#32, 0x60101400#32, 0x62101030#32, 0x64101620#32, 0x67841000#32, 0x67841008#32, 0x67841010#32, 0x67841018#32, 0x67841020#32,
     0x67841028#32, 0x67841030#32, 0x67841038#32, 0x67841040#32].all wordIssues = true := by decide +kernel

/-- gredFmin to funaryRndne. -/
theorem issues_3 :
    [0x67841048#32, 0x67841050#32, 0x68101000#32, 0x68101008#32, 0x68101010#32, 0x6A100000#32, 0x6A100008#32, 0x6A100010#32, 0x6A100018#32, 0x6A100020#32, 0x6A100028#32, 0x6A100030#32,
     0x6A100038#32, 0x6A100040#32, 0x6A100048#32, 0x6A100050#32, 0x6A100058#32, 0x6A100060#32, 0x6C101030#32, 0x6E100000#32, 0x70101030#32, 0x72101030#32, 0x74101030#32, 0x76101030#32,
     0x78101030#32, 0x7A101030#32, 0x7C401030#32, 0x7E101000#32, 0x7E101008#32, 0x7E101010#32, 0x7E101018#32, 0x7E101020#32, 0x7E101028#32, 0x7E101030#32, 0x7E101038#32, 0x7E101040#32,
     0x7E101048#32, 0x7E101050#32, 0x7E101058#32, 0x7E101060#32].all wordIssues = true := by decide +kernel

/-- funaryFract to sts. -/
theorem issues_4 :
    [0x7E101068#32, 0x80101030#32, 0x82101030#32, 0x84101030#32, 0x86101030#32, 0x88101030#32, 0x8A101030#32, 0x8C101030#32, 0x8E101000#32, 0x90080B08#32, 0x92101030#32, 0x94101030#32,
     0x96001000#32, 0x98101000#32, 0xA0204161#32, 0xA2204161#32, 0xA4204161#32, 0xA6200000#32, 0xA8200161#32, 0xAA200161#32, 0xAC200061#32, 0xAE030800#32, 0xB0380061#32, 0xB2204161#32,
     0xB4101000#32, 0xB6101000#32, 0xB8101000#32, 0xBA101000#32, 0xBC101000#32, 0xBE101000#32, 0xC0101000#32, 0xC2101000#32, 0xC4101000#32, 0xC6101000#32, 0xC8101000#32, 0xC8101008#32,
     0xC8101010#32, 0xC8001018#32, 0xCA101000#32, 0xCC101000#32].all wordIssues = true := by decide +kernel

/-- memxFence to atlogicXor. -/
theorem issues_5 :
    [0xCE000000#32, 0xCE000080#32, 0xCE030900#32, 0xCE100180#32, 0xCE030A00#32, 0xCF840280#32, 0xD1870800#32, 0xD1870808#32, 0xD1870810#32, 0xD1870818#32, 0xD1870820#32, 0xD1870828#32,
     0xD1870830#32, 0xD1870838#32, 0xD1870840#32, 0xD1870848#32, 0xD1870850#32, 0xD1870858#32, 0xD1870860#32, 0xD1870868#32, 0xD2030800#32, 0xD2000008#32, 0xD8030800#32, 0xD8030880#32,
     0xD8030900#32, 0xD8030980#32, 0xD8030A00#32, 0xD9870A80#32, 0xD9870B00#32, 0xDA101030#32, 0xDA101034#32, 0xDA101038#32, 0xDA10103C#32, 0xDC101030#32, 0xDC101034#32, 0xDC101038#32,
     0xDC10103C#32, 0xDE101030#32, 0xDE101034#32, 0xDE101038#32].all wordIssues = true := by decide +kernel

/-- atlogicSwap to pwrWakeq. -/
theorem issues_6 :
    [0xDE10103C#32, 0xE0101620#32, 0xE0101624#32, 0xE0101628#32, 0xE2001030#32, 0xE2001034#32, 0xE2001038#32, 0xE200103C#32, 0xE4101030#32, 0xE4101624#32, 0xE6001000#32, 0xE6001004#32,
     0xE8101030#32, 0xE8101624#32, 0xEA001000#32, 0xEC100000#32, 0xEF840000#32, 0xF0030800#32, 0xF1870808#32, 0xF0000010#32, 0xF0000018#32, 0xF384000C#32, 0xF584000C#32, 0xF7870800#32,
     0xF7870808#32, 0xF7840010#32, 0xF9870800#32, 0xF9870808#32, 0xF9870810#32, 0xF9870818#32, 0xF8030820#32, 0xF9870828#32, 0xFB840000#32, 0xFB840080#32, 0xFB840100#32].all wordIssues = true := by decide +kernel

/-! ## Single steps, with results worked out by hand from the manual's text -/

/-- The state a placed word leads to; a register of lane l after it. -/
def after (i : Instr) (s : State) : State := match exec i s with
  | .next t => t
  | _ => s
def leads (i : Instr) (s : State) (p : State → Bool) : Bool := match exec i s with
  | .next t => p t
  | _ => false

/-- Register 4 of lane 3, the only active one, after a word whose registers 1, 2 and 4 held these values. -/
def gives (a b d : Word) (i : Instr) (x : Word) : Bool :=
  let set := fun (m : Mask) (g : Group) => vset (vset (vset g 1 m (fun _ => a)) 2 m (fun _ => b)) 4 m (fun _ => d)
  leads i (frags (fun f => { f with mask := 8#32 }) (withGroup (boot i) (set 8#32))) (fun t => vget (grp t) 4 3 == x)

/-- 07 R163, R166: wrap; the high halves; IMAD adds d. -/
theorem test_integer_arithmetic :
    [gives 0xFFFFFFFF#32 1#32 9#32 (.iadd (fa 4 1 2)) 0#32, gives 5#32 0#32 9#32 (.iadd (fa 4 1 0x7F (x := true))) 4#32, gives 0#32 1#32 9#32 (.isub (fa 4 1 2)) 0xFFFFFFFF#32,
     gives 0x10001#32 0x10001#32 9#32 (.imul (fa 4 1 2)) 0x20001#32, gives 0x80000000#32 0x80000000#32 9#32 (.imulh (fa 4 1 2)) 0x40000000#32,
     gives 0xFFFFFFFF#32 0xFFFFFFFF#32 9#32 (.imulh (fa 4 1 2)) 0#32, gives 0xFFFFFFFF#32 0xFFFFFFFF#32 9#32 (.imulhu (fa 4 1 2)) 0xFFFFFFFE#32,
     gives 3#32 4#32 9#32 (.imad (fa 4 1 2)) 21#32, gives 0x80000000#32 1#32 9#32 (.imin (fa 4 1 2)) 0x80000000#32, gives 0x80000000#32 1#32 9#32 (.iminu (fa 4 1 2)) 1#32,
     gives 0x80000000#32 1#32 9#32 (.imax (fa 4 1 2)) 1#32, gives 0x80000000#32 1#32 9#32 (.imaxu (fa 4 1 2)) 0x80000000#32].all id = true := by decide +kernel

/-- 07 R164: a register amount of 32 or more; R165: position 4, width 8 of B = 0x804. -/
theorem test_shifts_and_fields :
    [gives 1#32 31#32 9#32 (.shl (fa 4 1 2)) 0x80000000#32, gives 1#32 32#32 9#32 (.shl (fa 4 1 2)) 0#32, gives 0x80000000#32 31#32 9#32 (.shr (fa 4 1 2)) 1#32,
     gives 0x80000000#32 33#32 9#32 (.shr (fa 4 1 2)) 0#32, gives 0x80000000#32 200#32 9#32 (.shra (fa 4 1 2)) 0xFFFFFFFF#32, gives 0x80000001#32 33#32 9#32 (.rotl (fa 4 1 2)) 3#32,
     gives 0x12345678#32 0x804#32 9#32 (.bfx (fa 4 1 2)) 0x67#32, gives 0x12345F80#32 0x804#32 9#32 (.bfx (fa 4 1 2 (x := true))) 0xFFFFFFF8#32,
     gives 0xAB#32 0x804#32 0xFFFFFFFF#32 (.bfi (fa 4 1 2)) 0xFFFFFABF#32].all id = true := by decide +kernel

/-- 07 R167. -/
theorem test_one_source_words :
    [gives 0x80000000#32 0#32 9#32 (.iunaryNeg (fx 4 1)) 0x80000000#32, gives 0xFFFFFFFB#32 0#32 9#32 (.iunaryAbs (fx 4 1)) 5#32, gives 0xF0F#32 0#32 9#32 (.iunaryNot (fx 4 1)) 0xFFFFF0F0#32,
     gives 0xF0F#32 0#32 9#32 (.iunaryPopc (fx 4 1)) 8#32, gives 0#32 0#32 9#32 (.iunaryClz (fx 4 1)) 32#32, gives 0x10000#32 0#32 9#32 (.iunaryCtz (fx 4 1)) 16#32,
     gives 1#32 0#32 9#32 (.iunaryBrev (fx 4 1)) 0x80000000#32, gives 0x01020304#32 0#32 9#32 (.iunaryBswap (fx 4 1)) 0x04030201#32,
     gives 0x17F#32 0#32 9#32 (.iunarySextb (fx 4 1)) 0x7F#32, gives 0x18000#32 0#32 9#32 (.iunarySexth (fx 4 1)) 0xFFFF8000#32].all id = true := by decide +kernel

/-- 07 R168: the pair of words that the manual prints; R169: v9 of the leader goes to a uniform register, zero-extended. -/
theorem test_constants_and_moves :
    [gives 0#32 0#32 9#32 (.movi (fl 4 0x4925)) 0x4925#32, gives 0#32 0#32 9#32 (.movi (fl 4 0x8000)) 0xFFFF8000#32, gives 0#32 0#32 0x4925#32 (.movhi (fl 4 0x2492)) 0x24924925#32,
     leads (.mov (fa 102 9 0)) (regs [(6, 0xFFFFFFFFFFFFFFFF#64)] (vecs [(9, fun l => BitVec.ofNat 32 (0x80000000 + l))] (boot (.mov (fa 102 9 0))))) (fun t => sget (grp t) 6 == 0x80000000#64),
     leads (.lea (fa 4 97 9 (x := true))) (regs [(1, 0x1000#64)] (vecs [(9, fun _ => 0xFFFFFFFF#32)] (boot (.lea (fa 4 97 9 (x := true)))))) (fun t => vget (grp t) 4 0 == 0xFFC#32 && vget (grp t) 5 0 == 0#32),
     leads (.iadd64 (fa 4 6 8)) (vecs [(6, fun _ => 0xFFFFFFFF#32), (7, fun _ => 1#32), (8, fun _ => 1#32)] (boot (.iadd64 (fa 4 6 8)))) (fun t => vget (grp t) 4 0 == 0#32 && vget (grp t) 5 0 == 2#32)].all id =
      true := by decide +kernel

/-- 07 R161, R171, R173, R175-R177: lanes below 3 compare less; data moves to higher lanes and zero enters, or the lane's own value; sums of the active lanes; a lane outside the mask keeps its
value. -/
theorem test_lanes :
    let lanes := fun (i : Instr) => vecs [(6, fun l => BitVec.ofNat 32 l), (4, fun _ => 9#32)] (boot i)
    let some16 := fun (i : Instr) => frags (fun f => { f with mask := 0xFFFF#32 }) (lanes i)
    [leads (.icmp (fp 1 2 6 9)) (lanes (.icmp (fp 1 2 6 9))) (fun t => pget (grp t) 1 == 0#32), leads (.icmp (fp 1 2 6 3 (x := true))) (lanes (.icmp (fp 1 2 6 3 (x := true)))) (fun t => pget (grp t) 1 == 7#32),
     leads (.laneShup (fx 4 6) 0#1 1#5) (lanes (.laneShup (fx 4 6) 0#1 1#5)) (fun t => vget (grp t) 4 0 == 0#32 && vget (grp t) 4 31 == 30#32),
     leads (.laneShdn (fx 4 6) 1#1 1#5) (some16 (.laneShdn (fx 4 6) 1#1 1#5)) (fun t => vget (grp t) 4 15 == 15#32 && vget (grp t) 4 14 == 15#32 && vget (grp t) 4 16 == 9#32),
     leads (.gredAdd (fx 98 6)) (some16 (.gredAdd (fx 98 6))) (fun t => sget (grp t) 2 == 120#64),
     leads (.gscanAdd (fx 4 6) 1#1) (lanes (.gscanAdd (fx 4 6) 1#1)) (fun t => vget (grp t) 4 0 == 0#32 && vget (grp t) 4 4 == 6#32),
     leads (.getidLane (fx 4 0)) (some16 (.getidLane (fx 4 0))) (fun t => vget (grp t) 4 15 == 15#32 && vget (grp t) 4 16 == 9#32)].all id = true := by decide +kernel

/-- 08 R182, R183, R189, R190, R193: 1 + 2^-24 ties to even, and so does the next number up; 3 x 2 - 6; twice the largest number is infinite; the lesser of 3 and -1; -2.5 rounded down and to
nearest. -/
theorem test_float :
    [gives 0x3F800000#32 0x33800000#32 9#32 (.fadd (fa 4 1 2)) 0x3F800000#32, gives 0x3F800001#32 0x33800000#32 9#32 (.fadd (fa 4 1 2)) 0x3F800002#32,
     gives 0x40400000#32 0x40000000#32 0xC0C00000#32 (.ffma (fa 4 1 2)) 0#32, gives 0x7F7FFFFF#32 0x40000000#32 9#32 (.fmul (fa 4 1 2)) 0x7F800000#32,
     gives 0x40400000#32 0xBF800000#32 9#32 (.fmin (fa 4 1 2)) 0xBF800000#32, gives 0xC0200000#32 0#32 9#32 (.funaryFloor (fx 4 1)) 0xC0400000#32,
     gives 0xC0200000#32 0#32 9#32 (.funaryRndne (fx 4 1)) 0xC0000000#32, gives 0xC0200000#32 0#32 9#32 (.funaryNeg (fx 4 1)) 0x40200000#32].all id = true := by decide +kernel

/-- 06 R144, R145, R151, R152, R155: an offset counts words from the word itself; a call saves the address after it; the last lanes' EXIT ends the group; a TRAP stops it at its own address. -/
theorem test_control :
    [leads (.bra (fc 0x7FFFE)) (boot (.bra (fc 0x7FFFE))) (fun t => (frag t 0).pc == BitVec.ofNat 64 (bootPc - 8)),
     leads (.call (fc 4)) (boot (.call (fc 4))) (fun t => (frag t 0).pc == pcAt 4 && sget (grp t) 23 == pcAt 1),
     leads (.nop (fx 0 0)) (boot (.nop (fx 0 0))) (fun t => (frag t 0).pc == pcAt 1 && t.cur.isNone),
     leads (.exit (fx 0 0)) (boot (.exit (fx 0 0))) (fun t => (findGroup t 0).all (fun g => g.status != .running)),
     leads (.trap (fx 0 97) 5#7) (regs [(1, 77#64)] (boot (.trap (fx 0 97) 5#7))) (fun t => (grp t).status == .stopping .trap && (grp t).trappc == pcAt 0)].all id = true := by decide +kernel

/-! ## What the statements assume can be met

One theorem for each statement with hypotheses: every line meets those of one clause, through meets (see met) where the word issues. -/

/-- The state with the word x placed instead of an instruction. -/
def bootWord (x : Word) : State := State.reset.withFetchWord 32 x.toNat

/-- The same state with a block at every entry slice of die 0 (12 R298). -/
def blocked (s : State) : State :=
  { s with blocks := (List.range 64).map (fun k => { op := 0, vd := 0, die := 0, slice := k, stage2 := false, asid := none, base := 0, len := 2 ^ 64, wonly := false }) }
def undecodable (x : Word) : Bool := match decodeWord x with
  | .error _ => true
  | .ok _ => false
def fetched (s : State) (x : Word) : Bool := match fetchWord s (grp s) (frag s 0).pc with
  | .ok y => x == y
  | .error _ => false
def fetchFaults (s : State) : Bool := match fetchWord s (grp s) (frag s 0).pc with
  | .ok _ => false
  | .error _ => true
def stalls (s : State) : Bool := fetchStalls s (grp s) (frag s 0).pc
/-- The fragment at an address that nothing maps. -/
def lost (s : State) : State := frags (fun f => { f with pc := BitVec.ofNat 64 (2 ^ 40) }) s

theorem witness_AStepRunsTheDecodedInstruction :
    let i := Instr.iadd (fa 4 1 2)
    let bad := bootWord 0xFFFFFFFF#32
    let again := withGroup (boot (.nop (fx 0 0))) (fun g => { g with replay := [{ pc := pcAt 0, word := encode (.ldw (fm 4 2 0)), mask := 1#32, wb := 0#16, frag := 0 }] })
    [chosenB 0 i (boot i) && fetched (boot i) (encode i) && !stalls (boot i), undecodable 0xFFFFFFFF#32 && chosenB 0 i bad && fetched bad 0xFFFFFFFF#32 && !stalls bad,
     chosenB 0 i (lost (boot i)) && fetchFaults (lost (boot i)) && !stalls (lost (boot i)), chosenB 0 i (blocked (boot i)) && stalls (blocked (boot i)),
     again.cur.isSome && (grp again).status == .running && (grp again).replay.length == 1 && (grp again).frags.length == 1 && !undecodable (encode (.ldw (fm 4 2 0))),
     (frags (fun f => { f with wait := .trapDue { cause := 0x11#8, val := 3#64 } }) (boot i)).cur.isSome && dueTrap (frag (frags (fun f => { f with wait := .trapDue { cause := 0x11#8, val := 3#64 } }) (boot i)) 0) ==
       some { cause := 0x11#8, val := 3#64 },
     ({ State.reset with agenda := [Instr.packageReset] } : State).cur.isNone].all id = true := by decide +kernel

/-- The hypotheses of LegalHere, evaluated. -/
def legalHereB (i : Instr) (s : State) : Bool :=
  i.isWord && chosenB 0 i s && !startHeld s (grp s) (ctx i s).f i && legal i && (isCluster (grp s).site || !(shape i).notCore) && (!(shape i).b || (ctx i s).f.run != 0) &&
  (match i with
   | .switch w => (match switchData s (grp s) (frag s 0).pc w with | .ok b => b | .error _ => false)
   | _ => true)

theorem witness_WordsTrapInTheirOrder :
    let has := fun (i : Instr) (s : State) => legalHereB i s && (grp s).level.has (shape i).priv
    let reg := fun (i : Instr) (s : State) => ((shape i).opds.flatMap (Opd.regs (grp s))).find? (fun r => decide ((grp s).vregs ≤ r))
    [chosenB 0 (.iadd (fa 97 1 2)) (boot (.iadd (fa 97 1 2))) && !startHeld (boot (.iadd (fa 97 1 2))) (grp (boot (.iadd (fa 97 1 2)))) (ctx (.iadd (fa 97 1 2)) (boot (.iadd (fa 97 1 2)))).f (.iadd (fa 97 1 2)) &&
       !legal (.iadd (fa 97 1 2)),
     -- DRAY on a core
     let s := withGroup (boot (.dwaitAll (fx 0 0))) (fun g => { g with site := .core 0 0, level := .k })
     chosenB 0 (.dwaitAll (fx 0 0)) s && (shape (.dwaitAll (fx 0 0))).notCore && !isCluster (grp s).site,
     -- PRIV: an ERET at U
     let s := withGroup (boot (.eret (fx 97 97))) (fun g => { g with site := .cluster 0 0, level := .u })
     legalHereB (.eret (fx 97 97)) s && !(grp s).level.has (shape (.eret (fx 97 97))).priv,
     -- REGBUD: v7 is the last register of eight, v8 is not there; the same for a SWITCH
     let s := withGroup (boot (.iadd (fa 8 1 7))) (fun g => { g with vregs := 8 })
     has (.iadd (fa 8 1 7)) s && reg (.iadd (fa 8 1 7)) s == some 8,
     let s := withGroup (boot (.switch (fs 9 1 9))) (fun g => { g with vregs := 8 })
     has (.switch (fs 9 1 9)) s && reg (.switch (fs 9 1 9)) s == some 9,
     -- TILE: the first of tiles that the group does not have
     let s := withGroup (boot (.tzero (ft 4 0 0 0))) (fun g => { g with tiles := 4 })
     has (.tzero (ft 4 0 0 0)) s && reg (.tzero (ft 4 0 0 0)) s == none && (shape (.tzero (ft 4 0 0 0))).tiles.find? (fun k => decide (4 ≤ k)) == some 4,
     -- LATCH: no word has run before this one
     let i := Instr.iadd (fa 8 120 7)
     has i (boot i) && reg i (boot i) == none && (shape i).tiles == [] &&
       ((shape i).opds.filter (fun o => !o.dst && decide (120 ≤ o.fld.toNat))).find? (fun o => latchOf (frag (boot i) 0) (o.fld.toNat - 120) == .invalid) == some (Opd.src 120)].all id = true := by
  decide +kernel

theorem witness_WordsThatDoNotDecodeTrap :
    let i := Instr.nop (fx 0 0)
    let s := bootWord 0xFFFFFFFE#32
    [chosenB 0 i s && fetched s 0xFFFFFFFE#32 && !(0xFFFFFFFE#32 : Word).getLsbD 0 && undecodable 0xFFFFFFFE#32 && !runHeld (grp s) && !stalls s,
     chosenB 0 i (lost s) && fetchFaults (lost s) && !runHeld (grp (lost s)) && !stalls (lost s)].all id = true := by decide +kernel

/-- Codes of each format: a NaN, a signalling one, the infinities, a number, the zeros; what an infinity times zero and times a number is (08 Table 8.1). That every word issues somewhere,
issues_1 to issues_6 say. -/
theorem witness_FloatArithmeticRoundsTheExactResult :
    [(8, 23, 0x7FC00001, 0x7F800001, 0x7F800000, 0x3F800000), (5, 10, 0x7E01, 0x7C01, 0x7C00, 0x3C00), (8, 7, 0x7FC1, 0x7F81, 0x7F80, 0x3F80)].all (fun (e, f, nan, sig, inf, one) =>
      let neg := fun (k : Nat) => 2 ^ (e + f) + k
      codeNan e f nan && !codeSig e f nan && codeSig e f sig && codeInf e f inf && codeInf e f (neg inf) && codeNeg e f (neg inf) && !codeNeg e f inf && codeVal e f one == some 1 &&
      codeVal e f (neg one) == some (-1) && codeVal e f 0 == some 0 && codeVal e f (neg 0) == some 0 && infByZero e f inf 0 && infByZero e f (neg 0) inf && infProduct e f inf one &&
      infProduct e f inf (neg inf)) = true := by decide +kernel

/-- A sum that overflows in each direction, one that does not; a tiny product, and one that is not; a tie (08 R182-R184). -/
theorem witness_FloatArithmetic_ranges :
    Overflows 8 23 0#2 (2 ^ 128) ∧ Overflows 8 23 1#2 (2 ^ 128) ∧ Overflows 8 23 2#2 (2 ^ 128) ∧ Overflows 8 23 3#2 (2 ^ 128) ∧ ¬ Overflows 8 23 0#2 1 ∧ ¬ Overflows 8 23 3#2 1 ∧
    Tiny 8 23 0#2 (1 / 2 ^ 127) ∧ Tiny 8 23 2#2 (1 / 2 ^ 127) ∧ ¬ Tiny 8 23 0#2 1 ∧ codeVal 8 23 0x33800000 = some (1 / 2 ^ 24) := by
  refine ⟨?_, ?_, ?_, ?_, ?_, ?_, ?_, ?_, ?_, by decide +kernel⟩ <;> norm_num [Overflows, Tiny]

/-- Operands of the words of O16 and O17: unordered and ordered; an integer, a half, a number between; a negative one; a code that CVTN and QSCALE round (08 R190-R194; 09 R213, R215). -/
theorem witness_FloatOrderResults : codeNan 8 23 0x7FC00000 = true ∧ codeSig 8 23 0xFF800001 = true ∧ codeVal 8 23 0x40200000 = some (5 / 2) ∧ codeVal 8 23 0xC0200000 = some (-5 / 2) := by decide +kernel
theorem witness_FloatToIntegerAndSignResults :
    [(0#3, 1#3, 0#2), (1#3, 0#3, 0#2), (2#3, 0#3, 0#2), (0#3, 3#3, 0#2), (0#3, 4#3, 0#2), (0#3, 5#3, 0#2), (0#3, 6#3, 0#2), (3#3, 0#3, 1#2), (4#3, 0#3, 2#2), (5#3, 0#3, 3#2), (6#3, 0#3, 0#2)].all (fun (t, s, m) =>
      legal (.cvt (fx 4 2) t s m)) = true ∧
    ((5 / 2 : Rat).floor = 2 ∧ (5 / 2 : Rat).ceil = 3 ∧ (-5 / 2 : Rat).floor = -3 ∧ (-5 / 2 : Rat).ceil = -2) ∧ (|(2 : Rat) - 5 / 2| = 1 / 2 ∧ |(3 : Rat) - 5 / 2| = 1 / 2) ∧
    ((2 : Rat) ^ (1 : Int) ≤ |5 / 2| ∧ |(5 : Rat) / 2| < (2 : Rat) ^ ((1 : Int) + 1)) ∧ (((2 : Rat) ^ (-2 : Int)) ^ 2 * (5 / 2) ≤ 1 ∧ 1 < ((2 : Rat) ^ ((-1 : Int) + 1)) ^ 2 * (5 / 2)) := by
  refine ⟨by decide +kernel, by decide +kernel, ⟨?_, ?_⟩, ⟨?_, ?_⟩, ?_, ?_⟩ <;> norm_num [abs_of_neg, abs_of_pos]

theorem witness_IdentityAndQueryResults :
    [meets (.getidTeamx (fx 4 0)) (boot (.getidTeamx (fx 4 0))) (fun c => (findTeam (boot (.getidTeamx (fx 4 0))) c.g.team).isSome),
     meets (.memxSplitq (fx 97 0)) (boot (.memxSplitq (fx 97 0))) (fun c => (findTeam (boot (.memxSplitq (fx 97 0))) c.g.team).isSome),
     meets (.getidNvdie (fx 4 0)) (boot (.getidNvdie (fx 4 0))) (fun c => (findVd (boot (.getidNvdie (fx 4 0))) c.g.vd).isSome),
     -- two operands that name a die, and one that does not
     meets (.vdhop (fa 4 1 2)) (vecs [(1, fun _ => 0#32), (2, fun l => BitVec.ofNat 32 l)] (boot (.vdhop (fa 4 1 2)))) (fun c =>
       match findVd (boot (.vdhop (fa 4 1 2))) c.g.vd with
       | some v => (v.inst (op32 c 1 0).toNat).isSome && (v.inst (op32 c 2 0).toNat).isSome && (v.inst (op32 c 2 1).toNat).isNone
       | none => false),
     meets (.vdhop (fa 4 1 2)) (boot (.vdhop (fa 4 1 2))) (fun c => (findVd (boot (.vdhop (fa 4 1 2))) c.g.vd).any (fun v => v.insts.all (fun i => decide (i.pdie < 8)))),
     meets (.pwrIslq (fx 97 0) 7) (boot (.pwrIslq (fx 97 0) 7)) (fun _ => ((boot (.pwrIslq (fx 97 0) 7)).fields[7]?).isSome),
     meets (.pwrWakeq (fx 97 0)) (boot (.pwrWakeq (fx 97 0))) (fun c => (findVd (boot (.pwrWakeq (fx 97 0))) c.g.vd).isSome)].all id = true := by decide +kernel

theorem witness_JumpsMoveTheFragment :
    [meets (.bra (fc 0x40000)) (boot (.bra (fc 0x40000))) (fun _ => true), meets (.call (fc 0x3FFFF)) (boot (.call (fc 0x3FFFF))) (fun _ => true),
     meets (.ret (fx 0 0)) (regs [(23, pcAt 1)] (boot (.ret (fx 0 0)))) (fun c => (sget c.g 23).toNat % 4 == 0),
     meets (.ret (fx 0 0)) (regs [(23, pcAt 1 + 1#64)] (boot (.ret (fx 0 0)))) (fun c => (sget c.g 23).toNat % 4 != 0),
     meets (.yield (fx 0 0)) (boot (.yield (fx 0 0))) (fun _ => true),
     meets (.winb (fl 0 31)) (boot (.winb (fl 0 31))) (fun c => decide (16 * 31 < c.g.vregs)),
     meets (.winb (fl 0 31)) (withGroup (boot (.winb (fl 0 31))) (fun g => { g with vregs := 496 })) (fun c => decide (c.g.vregs ≤ 16 * 31))].all id = true := by decide +kernel

/-- An entry with a reconvergence point. -/
def entry (rpc : DWord) (rmask arr : Mask) : StackEntry :=
  { rpc := some rpc, ppc := 0#64, pmode := .none, origin := pcAt 0, kind := .recon, rmask := rmask, arr := arr, pmask := 0#32, pboard := noBoard, pwait := .no, aboard := noBoard }
def stack (l : List StackEntry) (s : State) : State := withGroup s (fun g => { g with stack := l })
def mask (m : Mask) (s : State) : State := frags (fun f => { f with mask := m }) s
/-- Registers 2 and 3: the even lanes at word 2 of the code, the odd ones at word 3. -/
def addrs2 (s : State) : State := vecs [(2, fun l => BitVec.ofNat 32 (bootPc + 8 + 4 * (l % 2))), (3, fun _ => 0#32)] s

def fullStack (s : State) : State := stack (List.replicate 16 (entry (pcAt 9) 0xFFFFFFFF#32 1#32)) s
/-- An entry whose unarrived lanes are those of the whole fragment. -/
def top (s : State) : State := stack (List.replicate 16 (entry (pcAt 9) 0xFFFFFFFF#32 0#32)) s
def noRoom (c : Ctx) : Bool := decide (16 ≤ c.g.stack.length) && (c.g.stack.head?).any (fun e => c.f.mask != e.rmask &&& ~~~e.arr)
/-- Lane 31 alone takes predicate 1. -/
def half (s : State) : State := withGroup s (fun g => pset g 1 0xFFFFFFFF#32 0x80000000#32)

theorem witness_BranchesSendEveryLaneToItsTarget :
    let brc := Instr.brc (fc 5 1)
    let all := Instr.brc (fc 5 1 false true)
    let strict := fun (s : State) => withGroup s (fun g => { g with gcfg := 4#64 })
    let two := fun (i : Instr) => addrs2 (code 2 (.land (fl 0 0)) (code 3 (.land (fl 0 0)) (boot i)))
    let lands := fun (c : Ctx) => c.f.mask != 0#32 && (List.range 32).all (fun l => !c.f.mask.getLsbD l || landsAt c (op64 c 2 l) && !fetchStalls c.s c.g (op64 c 2 l))
    let bad := fun (i : Instr) => addrs2 (code 2 (.land (fl 0 0)) (boot i))
    let badOdd := fun (c : Ctx) => (List.range 32).all (fun l => (0xAAAAAAAA#32 : Mask).getLsbD l == (c.f.mask.getLsbD l && !landsAt c (op64 c 2 l)) && !fetchStalls c.s c.g (op64 c 2 l))
    let sw := Instr.switch (fs 1 1 9)
    let words := fun (c : Ctx) => (List.range 5).all (fun i => (match fetchWord c.s c.g (c.f.pc + BitVec.ofNat 64 (4 * (i + 1))) with | .ok _ => true | .error _ => false) &&
      !fetchStalls c.s c.g (c.f.pc + BitVec.ofNat 64 (4 * (i + 1))))
    let again := fun (s : State) => withGroup s (fun g => { g with stack := List.replicate 16 { entry (pcAt 9) 0xFFFFFFFF#32 0#32 with kind := .switch, origin := (frag s 0).pc } })
    -- lanes that agree; a top entry that is theirs; room; none of these
    [meets brc (fullStack (boot brc)) (fun c => pget c.g 1 == 0#32), meets brc (top (half (boot brc))) (fun c => c.g.stack.head?.any (fun e => c.f.mask == e.rmask &&& ~~~e.arr)),
     meets brc (half (boot brc)) (fun c => decide (c.g.stack.length < 16)), meets brc (fullStack (half (boot brc))) noRoom,
     meets all (boot all) (fun c => pget c.g 1 == 0#32), meets all (half (boot all)) (fun c => !c.g.gcfg.getLsbD 2),
     meets all (strict (half (boot all))) (fun c => c.g.gcfg.getLsbD 2 && pget c.g 1 == 0x80000000#32 && c.f.mask == 0xFFFFFFFF#32),
     meets (.jmpi (fj 0 2 0)) (two (.jmpi (fj 0 2 0))) lands, meets (.calli (fj 0 2 0)) (two (.calli (fj 0 2 0))) lands,
     meets (.jmpi (fj 0 2 0)) (fullStack (two (.jmpi (fj 0 2 0)))) (fun c => lands c && noRoom c), meets (.calli (fj 0 2 0)) (fullStack (two (.calli (fj 0 2 0)))) (fun c => lands c && noRoom c),
     meets (.jmpi (fj 0 2 0)) (bad (.jmpi (fj 0 2 0))) badOdd, meets (.calli (fj 0 2 0)) (bad (.calli (fj 0 2 0))) badOdd,
     meets sw (again (boot sw)) (fun c => c.f.mask != 0#32 && words c && c.g.stack.head?.any (fun e => e.kind == .switch && e.origin == c.f.pc && c.f.mask == e.rmask &&& ~~~e.arr)),
     meets sw (boot sw) (fun c => c.f.mask != 0#32 && words c && c.g.stack.isEmpty),
     meets sw (top (boot sw)) (fun c => words c && decide (16 ≤ c.g.stack.length) && c.g.stack.head?.any (fun e => e.kind != .switch))].all id = true := by decide +kernel

theorem witness_DivergenceOpensAndCloses :
    let j := boot (.join (fx 0 0))
    let x := boot (.exit (fx 0 0))
    let r := boot (.recon (fc 9))
    let beside := fun (s : State) => withGroup (mask 1#32 s) (fun g => { g with frags := g.frags ++ [{ newFrag (pcAt 5) 2#32 0 with age := 0 }] })
    let spilled := fun (s : State) => withGroup s (fun g => { g with spilled := 1 })
    let parked := fun (e : StackEntry) => { e with ppc := pcAt 5, pmask := 2#32, pmode := .arm }
    let last := fun (c : Ctx) => c.g.stack.head?.any (fun e => e.rpc == some c.f.pc && e.arr ||| c.f.mask == e.rmask && e.kind != .implicit && e.rmask != 0#32)
    let more := fun (c : Ctx) => c.g.stack.head?.any (fun e => e.rpc == some c.f.pc && e.arr ||| c.f.mask != e.rmask)
    [meets (.recon (fc 9)) (stack (List.replicate 15 (entry (pcAt 9) 1#32 0#32)) r) (fun c => decide (c.g.stack.length < 16) && c.g.frags.length == 1),
     meets (.recon (fc 9)) (stack [entry (pcAt 9) 3#32 0#32] (beside r)) (fun c => c.g.frags.length == 2 && (c.g.frags[1 - c.fi]?).isSome),
     meets (.recon (fc 9)) (fullStack r) (fun c => decide (16 ≤ c.g.stack.length)),
     meets (.join (fx 0 0)) j (fun c => c.g.stack.isEmpty), meets (.join (fx 0 0)) (stack [entry (pcAt 9) 3#32 0#32] j) (fun c => c.g.stack.head?.any (fun e => e.rpc != some c.f.pc)),
     meets (.join (fx 0 0)) (spilled (stack [entry (pcAt 0) 0xFFFFFFFF#32 0#32] j)) (fun c => last c && c.g.stack.length == 1 && c.g.spilled != 0),
     -- the last lanes arrive: below them nothing, an entry with nobody to run next, an entry whose arm runs beside them
     meets (.join (fx 0 0)) (mask 0xFFFF0000#32 (stack [entry (pcAt 0) 0xFFFFFFFF#32 0xFFFF#32] j)) (fun c => last c && c.g.stack.length == 1 && c.g.spilled == 0),
     meets (.join (fx 0 0)) (spilled (stack [entry (pcAt 0) 0xFFFFFFFF#32 0#32, entry (pcAt 9) 0xFFFFFFFF#32 0#32] j)) (fun c => last c && (c.g.stack[1]?).any (fun u => u.pmode != .arm)),
     meets (.join (fx 0 0)) (mask 1#32 (stack [entry (pcAt 0) 1#32 0#32, parked (entry (pcAt 9) 3#32 0#32)] j)) (fun c => last c && (c.g.stack[1]?).any (fun u => u.pmode == .arm)),
     -- lane 0 arrives, lane 1 runs on in the other fragment, or parked in the entry
     meets (.join (fx 0 0)) (stack [entry (pcAt 0) 3#32 0#32] (beside j)) (fun c => c.g.frags.length == 2 && (c.g.frags[1 - c.fi]?).isSome && more c),
     meets (.join (fx 0 0)) (mask 1#32 (stack [parked (entry (pcAt 0) 3#32 0#32)] j)) (fun c => c.g.frags.length == 1 && more c && c.g.stack.head?.any (fun e => e.pmode != .none)),
     meets (.exit (fx 0 0)) (withGroup (mask 1#32 x) (fun g => { g with exited := 0xFFFFFFFE#32 })) (fun c => c.g.exited ||| c.f.mask == 0xFFFFFFFF#32),
     meets (.exit (fx 0 0)) (mask 1#32 x) (fun c => c.g.exited ||| c.f.mask != 0xFFFFFFFF#32 && c.g.stack.isEmpty),
     meets (.exit (fx 0 0)) (spilled (stack [entry (pcAt 9) 3#32 0#32] (mask 1#32 x))) (fun c => c.g.exited ||| c.f.mask != 0xFFFFFFFF#32 &&
       c.g.stack.head?.any (fun e => e.arr &&& ~~~c.f.mask != e.rmask &&& ~~~c.f.mask)),
     meets (.exit (fx 0 0)) (spilled (stack [entry (pcAt 9) 3#32 2#32] (mask 1#32 x))) (fun c => c.g.exited ||| c.f.mask != 0xFFFFFFFF#32 && c.g.spilled != 0 && c.g.stack.length == 1 &&
       c.g.stack.head?.any (fun e => e.arr &&& ~~~c.f.mask == e.rmask &&& ~~~c.f.mask))].all id = true := by decide +kernel

theorem witness_TileRowsMoveAsTold :
    [meets (.tzero (ft 15 0 0 0)) (boot (.tzero (ft 15 0 0 0))) (fun _ => true), meets (.twm (ft 15 0 0 97)) (boot (.twm (ft 15 0 0 97))) (fun _ => true),
     -- the last row alone, and all rows
     meets (.trd (ft 1 0 3 97)) (regs [(1, 31#64)] (boot (.trd (ft 1 0 3 97)))) (fun c => match rowCheck (.trd (ft 1 0 3 97)) (ft 1 0 3 97) c with
       | .ok x => rowFirst x == 31 && rowCount x == 1 && !regsHeld c true [regOf c.g 3] && !(rowsOf x).any (pendingRow c.f.board c.cycle 1)
       | .error _ => false),
     meets (.twr (ft 1 0 4 97)) (regs [(1, 0x40#64)] (boot (.twr (ft 1 0 4 97)))) (fun c => match rowCheck (.twr (ft 1 0 4 97)) (ft 1 0 4 97) c with
       | .ok x => rowFirst x == 0 && rowCount x == 4 && !regsHeld c false ((List.range 4).map (fun i => regOf c.g 4 + i))
       | .error _ => false)].all id = true := by decide +kernel

theorem witness_MatrixWordsRewriteTheActiveRows :
    let mm := fun (i : Instr) (w : FmtT) => meets i (boot i) (fun c => match mmaCheck i w false c with
      | .ok x => !operandsHeld c w x false && arrayReady (arrayOf c.s c.g.site c.g.bay) c.cycle
      | .error _ => false)
    [mm (.mma (ft 1 8 16 97)) (ft 1 8 16 97), mm (.mmaz (ft 1 97 16 97)) (ft 1 97 16 97),
     meets (.tcvt (ft 1 97 0 97)) (boot (.tcvt (ft 1 97 0 97))) (fun c => match voted c 97 with
       | .ok x => decide (x.toNat < 32) && x.toNat % 4 != 3 && decide (x.toNat / 8 < 2) && !(lanesOf c.f.mask).any (pendingRow c.f.board c.cycle 1)
       | .error _ => false),
     meets (.tcvt (ft 1 97 0 97)) (regs [(1, 0x1E#64)] (boot (.tcvt (ft 1 97 0 97)))) (fun c => match voted c 97 with
       | .ok x => decide (x.toNat < 32) && x.toNat % 4 == 2
       | .error _ => false),
     meets (.tscl (ft 1 2 3 97)) (regs [(1, 15#64)] (boot (.tscl (ft 1 2 3 97)))) (fun c => match voted c 97 with
       | .ok x => decide (x.toNat < 16)
       | .error _ => false)].all id = true := by decide +kernel

/-- Four groups of one team, a bay each, that wait at one MMAF with the specification of groups 0 to 3; without waiting, group 0 is about to. -/
def fhSpec : DWord := 0x83020100#64
def fhGroups (waiting : Bool) : State :=
  let s := boot (.mmaf (ft 1 8 16 97))
  { s with
    teams := s.teams.map (fun t => { t with fourhand := true, roles := [{ entry := 0, vregs := 512, tiles := 16, groups := 4 }] })
    groups := (List.range 4).map (fun q => { bootGroup (10 * q) 1 (.cluster 0 0) .u 0 with
      num := q, bay := q, fhspec := fhSpec
      frags := [{ newFrag (pcAt 0) 0xFFFFFFFF#32 0 with wait := if waiting || q == 3 then .rendezvous q else .no }] }) }

theorem witness_FourInHandAndCodebookComplete :
    let team := fun (x : DWord) => withTeam (regs [(1, x)] (boot (.fhset (fx 0 97)))) (fun t => { t with fourhand := true, roles := [{ entry := 0, vregs := 512, tiles := 16, groups := 4 }] })
    let idle := fun (c : Ctx) => c.g.frags.all (fun f => !atRendezvous f) && (findTeam c.s c.g.team).isSome
    let good := fun (s : State) (c : Ctx) =>
      let x := op64 c 97 (leader c.f.mask)
      let member := fun q => (x.extractLsb' (8 * q) 5).toNat
      x.getLsbD 31 && x &&& 0xFFFFFFFF60E0E0E0#64 == 0#64 && (findTeam s c.g.team).any (fun t => t.fourhand && (List.range 4).all (fun q =>
        decide (member q < (t.roles.map (·.groups)).foldl (· + ·) 0) && member q % 4 == q)) && (List.range 4).any (fun q => member q == c.g.num)
    let mm := fun (c : Ctx) => match mmaCheck (.mmaf (ft 1 8 16 97)) (ft 1 8 16 97) true c with
      | .ok x => (fhClash c).isEmpty && !operandsHeld c (ft 1 8 16 97) x true
      | .error _ => false
    let cb := fun (a : DWord) => regs [(2, a)] (boot (.cbld (fx 0 98) 15))
    let from_ := fun (c : Ctx) => (op32 c 98 (leader c.f.mask)).toNat
    [meets (.fhset (fx 0 97)) (boot (.fhset (fx 0 97))) (fun c => op64 c 97 (leader c.f.mask) == 0#64 && idle c && !c.g.fhspec.getLsbD 31),
     meets (.fhset (fx 0 97)) (team fhSpec) (fun c => good (team fhSpec) c && idle c && !c.g.fhspec.getLsbD 31),
     -- no member of the right bay
     meets (.fhset (fx 0 97)) (team 0x83020001#64) (fun c => !good (team 0x83020001#64) c && op64 c 97 (leader c.f.mask) != 0#64),
     meets (.mmaf (ft 1 8 16 97)) (fhGroups false) (fun c => c.g.fhspec.getLsbD 31 && mm c && !fhLeft c),
     -- member 3 has left
     let s := fhGroups false
     let left := { s with groups := s.groups.take 3 }
     meets (.mmaf (ft 1 8 16 97)) left (fun c => c.g.fhspec.getLsbD 31 && mm c && fhLeft c),
     meets (.mmaf (ft 1 8 16 97)) (boot (.mmaf (ft 1 8 16 97))) (fun c => !c.g.fhspec.getLsbD 31),
     (match membersOf (fhGroups true) 1 2 with
      | some ms => ms.all (fun m => (match m.x with | .ok x => x == 0#32 | .error _ => false) && memberReady (fhGroups true) m &&
          arrayReady (arrayOf (fhGroups true) m.g.site m.g.bay) (cycleOf (fhGroups true) (siteDie m.g.site)) && findGroup (fhGroups true) m.g.gid == some m.g) && ms.map (fun m => m.g.gid) == [0, 10, 20, 30]
      | none => false),
     -- the last block of 64 bytes of the scratchpad, one off it, one beyond it
     meets (.cbld (fx 0 98) 15) (cb 0x3FFC0#64) (fun c => from_ c % 64 == 0 && (findTeam (cb 0x3FFC0#64) c.g.team).any (fun t => decide (from_ c + 64 ≤ t.scratch) && (findVd (cb 0x3FFC0#64) t.vd).isSome)),
     meets (.cbld (fx 0 98) 15) (cb 1#64) (fun c => from_ c % 64 != 0 && (findTeam (cb 1#64) c.g.team).isSome),
     meets (.cbld (fx 0 98) 15) (cb 0x40000#64) (fun c => from_ c % 64 == 0 && (findTeam (cb 0x40000#64) c.g.team).any (fun t => decide (t.scratch < from_ c + 64)))].all id = true := by
  decide +kernel

/-- A word of group 0 in flight that will write a register. -/
def flight (id dst : Nat) : Flight :=
  { id := id, word := 0#32, args := [], pc := pcAt 0, frag := 0, mask := 0xFFFFFFFF#32, wb := 0#16, runId := 0, head := pcAt 0, pos := 0, left := 0xFFFFFFFF#32, unacc := 0#32, srcs := [], usrcs := [],
    dst := [dst], udst := [], pdst := false, acquire := .none, vec := [], mem := true, held := false, faulted := [], order := id }
def flying (x : Flight) (s : State) : State :=
  withGroup s (fun g => { g with flights := g.flights ++ [x], frags := g.frags.map (fun f => { f with board := { f.board with flights := x.id :: f.board.flights } }) })

theorem witness_WordsThatAreNotReadyWait :
    let i := Instr.iadd (fa 4 1 2)
    let s := flying (flight 77 1) (boot i)
    -- an access of the run before it that has not been translated
    let r := flying { flight 77 1 with runId := 5, unacc := 1#32 } (boot i)
    let w := Instr.switch (fs 1 1 9)
    [chosenB 0 i s && firstTrap s (grp s) (ctx i s).f i == none && notReady s (grp s) 0 (ctx i s).f (ctx i s).cycle i, chosenB 0 i r && startHeld r (grp r) (ctx i r).f i,
     chosenB 0 w (blocked (boot w)) && startHeld (blocked (boot w)) (grp (blocked (boot w))) (ctx w (blocked (boot w))).f w].all id = true := by decide +kernel

/-- Addresses lane by lane in a pair of vector registers; counters with n words. -/
def addrs (r : Nat) (f : Nat → Nat) (s : State) : State :=
  vecs [(r, fun l => BitVec.ofNat 32 (f l)), (r + 1, fun l => BitVec.ofNat 32 (f l / 2 ^ 32))] s
def counters (n : Nat) (s : State) : State :=
  let q := List.replicate n (900, false)
  withGroup s (fun g => { g with cg := q, cs := q, cf := q, cw := q })
def releases (s : State) (c : Ctx) : Bool := c.g.cw.isEmpty && c.g.cf.isEmpty && c.g.refuse.isNone && s.remote.isEmpty
def lanes (c : Ctx) (p : Nat → Bool) : Bool := (List.range 32).all (fun l => !c.f.mask.getLsbD l || p l)

theorem witness_LoadsAreSentLaneByLane :
    -- the even lanes in the global half, the odd ones in the far half, 62 words counted
    let at_ := fun (i : Instr) => counters 62 (addrs 2 (fun l => 64 * l + l % 2 * 2 ^ 56) (boot i))
    let ok := fun (n : Nat) (c : Ctx) => lanes c (fun l => (op64 c 2 l).toNat % n == 0) && c.g.count .g == 62 && c.g.count .f == 62
    [meets (.ldb (fm 4 2 0)) (at_ (.ldb (fm 4 2 0))) (ok 1), meets (.ldh (fm 4 2 0)) (at_ (.ldh (fm 4 2 0))) (ok 2), meets (.ldw (fm 4 2 0)) (at_ (.ldw (fm 4 2 0))) (ok 4),
     meets (.ldd (fm 4 2 0)) (at_ (.ldd (fm 4 2 0))) (ok 8), meets (.ldq (fm 4 2 0)) (at_ (.ldq (fm 4 2 0))) (ok 16),
     -- the largest offset of each sign
     meets (.ldq (fm 4 2 0x40)) (at_ (.ldq (fm 4 2 0x40))) (fun c => lanes c (fun l => (op64 c 2 l + BitVec.ofInt 64 (-64 * 16)).toNat % 16 == 0)),
     meets (.ldxLdsc (fx 4 2) 0) (at_ (.ldxLdsc (fx 4 2) 0)) (ok 4), meets (.ldxLsib (fx 4 2) 0 7) (at_ (.ldxLsib (fx 4 2) 0 7)) (ok 8),
     meets (.ldxLdnc (fx 4 2) 0 4) (at_ (.ldxLdnc (fx 4 2) 0 4)) (ok 16), meets (.ldxPref (fx 0 2)) (boot (.ldxPref (fx 0 2))) (fun _ => true)].all id = true := by decide +kernel

theorem witness_StoresAreSentLaneByLane :
    let at_ := fun (i : Instr) => addrs 2 (fun l => 64 * l + l % 2 * 2 ^ 56) (boot i)
    let ok := fun (i : Instr) (n : Nat) (c : Ctx) => lanes c (fun l => (op64 c 2 l).toNat % n == 0) && c.g.count .w == 0 && releases (at_ i) c
    [meets (.stb (fm 4 2 0)) (at_ (.stb (fm 4 2 0))) (ok (.stb (fm 4 2 0)) 1), meets (.sth (fm 4 2 0 1)) (at_ (.sth (fm 4 2 0 1))) (ok (.sth (fm 4 2 0 1)) 2),
     meets (.stw (fm 4 2 0 2)) (at_ (.stw (fm 4 2 0 2))) (ok (.stw (fm 4 2 0 2)) 4), meets (.std (fm 4 2 0 3)) (at_ (.std (fm 4 2 0 3))) (ok (.std (fm 4 2 0 3)) 8),
     meets (.stq (fm 98 2 0)) (at_ (.stq (fm 98 2 0))) (ok (.stq (fm 98 2 0)) 16),
     -- without order, 62 words counted
     meets (.stw (fm 4 2 0)) (counters 62 (at_ (.stw (fm 4 2 0)))) (fun c => c.g.count .w == 62)].all id = true := by decide +kernel

theorem witness_AddressChecksOfMemoryWords :
    -- lane 1 alone is off by one; the last lane alone is in the far half
    let odd := fun (i : Instr) => addrs 2 (fun l => 64 * l + (if l = 1 then 1 else 0)) (boot i)
    let far := fun (i : Instr) => addrs 2 (fun l => 64 * l + (if l = 31 then 2 ^ 56 else 0)) (boot i)
    let bad := fun (n : Nat) (c : Ctx) => (List.range 32).all (fun l => (2#32 : Mask).getLsbD l == (c.f.mask.getLsbD l && (op64 c 2 l).toNat % n != 0))
    let isFar := fun (c : Ctx) => (List.range 32).all (fun l => (0x80000000#32 : Mask).getLsbD l == (c.f.mask.getLsbD l && (op64 c 2 l).getLsbD 56)) && lanes c (fun l => (op64 c 2 l).toNat % 8 == 0)
    let lead := fun (i : Instr) (n : Nat) => addrs 2 (fun _ => n) (boot i)
    let uni := Instr.ldh (fm 100 98 1 (u := true))
    [meets uni (regs [(2, 1#64)] (boot uni)) (fun c => (op64 c 98 (leader c.f.mask) + 2#64).toNat % 2 == 1 && c.f.mask == 0xFFFFFFFF#32), meets (.ldh (fm 4 2 0)) (odd (.ldh (fm 4 2 0))) (bad 2), meets (.stq (fm 4 2 0)) (odd (.stq (fm 4 2 0))) (bad 16), meets (.ldxLsib (fx 4 2) 0 0) (odd (.ldxLsib (fx 4 2) 0 0)) (bad 8),
     meets (.ldxLdnc (fx 4 2) 0 1) (odd (.ldxLdnc (fx 4 2) 0 1)) (bad 2), meets (.atarithAdd (fat 4 2 6)) (odd (.atarithAdd (fat 4 2 6))) (bad 4),
     meets (.rcnD (fat 4 2 6)) (odd (.rcnD (fat 4 2 6))) (bad 8), meets (.atcasCas64 (fat 4 2 8)) (far (.atcasCas64 (fat 4 2 8))) isFar, meets (.redAdd (fat 0 2 6)) (far (.redAdd (fat 0 2 6))) isFar,
     meets (.waita (fat 4 2 6)) (lead (.waita (fat 4 2 6)) 2) (fun c => (op64 c 2 (leader c.f.mask)).toNat % 4 == 2),
     meets (.wakeAll (fat 0 2 0)) (lead (.wakeAll (fat 0 2 0)) (2 ^ 56)) (fun c => (op64 c 2 (leader c.f.mask)).toNat % 4 == 0 && (op64 c 2 (leader c.f.mask)).getLsbD 56)].all id = true := by
  decide +kernel

theorem witness_AtomicsAreSentLaneByLane :
    let at_ := fun (i : Instr) => addrs 2 (fun l => 8 * l) (boot i)
    let ok := fun (i : Instr) (c : Ctx) => lanes c (fun l => (op64 c 2 l).toNat % 8 == 0 && !(op64 c 2 l).getLsbD 56) && decide (c.g.count .w < 63) && releases (at_ i) c
    let is := [Instr.atarithAdd (fat 4 2 6 true), .atarithFadd (fat 4 2 6), .atarithDecp (fat 4 2 6), .atarithIncw (fat 4 2 6), .atminmaxMin (fat 4 2 6), .atminmaxMax (fat 4 2 6),
      .atminmaxMinu (fat 4 2 6), .atminmaxMaxu (fat 4 2 6), .atlogicAnd (fat 4 2 6), .atlogicOr (fat 4 2 6), .atlogicXor (fat 4 2 6), .atlogicSwap (fat 4 2 6), .atcasCas32 (fat 4 2 6),
      .atcasCas64 (fat 4 2 8), .atcasAdd64 (fat 4 2 6), .redAdd (fat 0 2 6 true), .redFadd (fat 0 2 6), .redMin (fat 0 2 6), .redMax (fat 0 2 6), .rcn (fat 4 2 6), .rcnD (fat 4 2 6),
      .wakeOne (fat 0 2 0), .wakeAll (fat 0 2 0), .waita (fat 4 2 6), .waitaTo (fat 4 2 6)]
    (is.all (fun i => meets i (at_ i) (ok i)) && meets (.atlogicXor (fat 4 2 6)) (counters 62 (at_ (.atlogicXor (fat 4 2 6)))) (fun c => c.g.count .w == 62)) = true := by decide +kernel

theorem witness_ScratchpadWordsAccessTheirBytes :
    -- the team's 256 KiB: the last 32 doublewords, the first bytes after its one barrier object
    let ld := Instr.lds (fm 4 2 0 3)
    let st := Instr.sts (fm 4 2 0 2)
    let at_ := fun (i : Instr) (f : Nat → Nat) => counters 62 (vecs [(2, fun l => BitVec.ofNat 32 (f l))] (boot i))
    let off := fun (c : Ctx) (l : Nat) => (op32 c 2 l).toNat
    let is := fun (m : Mask) (c : Ctx) (p : Nat → Bool) => (List.range 32).all (fun l => m.getLsbD l == p (off c l))
    [meets ld (at_ ld (fun l => 0x3FF00 + 8 * l)) (fun c => (findTeam (boot ld) c.g.team).isSome && lanes c (fun l => off c l % 8 == 0 && decide (off c l + 8 ≤ 0x40000)) && c.g.count .s == 62),
     meets st (at_ st (fun l => 16 + 4 * l)) (fun c => lanes c (fun l => off c l % 4 == 0 && decide (16 ≤ off c l)) && c.g.count .s == 62),
     meets ld (at_ ld (fun l => if l = 3 then 4 else 8)) (fun c => is 8#32 c (fun x => x % 8 != 0)),
     meets ld (at_ ld (fun l => if l = 3 then 0x40000 else 8)) (fun c => is 8#32 c (fun x => decide (0x40000 < x + 8)) && lanes c (fun l => off c l % 8 == 0)),
     meets st (at_ st (fun l => if l = 3 then 12 else 16)) (fun c => is 8#32 c (fun x => decide (x < 16)) && lanes c (fun l => off c l % 4 == 0 && decide (off c l + 4 ≤ 0x40000)))].all id = true := by
  decide +kernel

theorem witness_FencesAndWaitsComplete :
    let w := Instr.memxWaitc (fx 0 97)
    [meets (.memxFence (fx 0 0) 0) (boot (.memxFence (fx 0 0) 0)) (fun c => c.g.refuse.isNone && c.g.count .g == 0 && c.g.count .w == 0),
     meets (.memxFence (fx 0 0) 4) (boot (.memxFence (fx 0 0) 4)) (fun c => c.g.refuse.isNone && (boot (.memxFence (fx 0 0) 4)).remote.isEmpty),
     meets (.memxFence (fx 0 0) 2) (counters 1 (boot (.memxFence (fx 0 0) 2))) (fun c => c.g.refuse.isNone && c.g.count .f == 1),
     meets (.memxFenceva (fx 0 0)) (boot (.memxFenceva (fx 0 0))) (fun c => c.g.count .w == 0),
     meets (w 3) (counters 5 (regs [(1, 5#64)] (boot (w 3)))) (fun c => c.g.count .w == 5 && (argOf c 97 0).toNat == 5),
     -- one that waits; one that waited, whose register has changed since
     meets (w 3) (counters 5 (regs [(1, 4#64)] (boot (w 3)))) (fun c => c.g.count .w == 5 && (argOf c 97 0).toNat == 4 && c.f.wait == .no),
     meets (w 3) (frags (fun f => { f with wait := .waitc .w 5 }) (counters 5 (regs [(1, 4#64)] (boot (w 3))))) (fun c => c.g.count .w == 5 && c.f.wait == .waitc .w 5),
     meets (w 0) (boot (w 0)) (fun c => c.g.count .g == 0), meets (w 1) (boot (w 1)) (fun c => c.g.count .s == 0), meets (w 2) (boot (w 2)) (fun c => c.g.count .f == 0),
     meets (.memxCinv (fx 0 97)) (regs [(2, 0x200000#64)] (boot (.memxCinv (fx 0 97)))) (fun _ => true)].all id = true := by decide +kernel

/-- The one barrier object of the placed team. -/
def object (o : BarObj) (s : State) : State :=
  let k := clusterOf s (.cluster 0 0)
  setCluster s { k with sram := writeBar k.sram 0 o }
def obj (rarr earr : Nat) (rbytes : Int := 0) (err : Bool := false) : BarObj := { rbytes := rbytes, ebytes := 0, rarr := rarr, earr := earr, phase := 0, err := err, par := false }
def objOf (s : State) : BarObj := readBar (clusterOf s (.cluster 0 0)).sram 0

theorem witness_BarrierWordsActOnTheirObject :
    let team := fun (c : Ctx) => (findTeam (boot (.barInit (fx 0 97))) c.g.team).any (fun tm => tm.site == c.g.site && tm.block == 0 && decide (0 < 16 * tm.nbars))
    let two := fun (i : Instr) (a1 : DWord) (o : BarObj) => object o (regs [(2, a1)] (boot i))
    let arg := fun (c : Ctx) => (argOf c 97 1).toNat
    [meets (.barInit (fx 0 97)) (two (.barInit (fx 0 97)) 0x7FFFFFFFFFFF#64 (obj 0 0)) (fun c => team c && decide (0 < arg c % 2 ^ 16) && decide (arg c < 2 ^ 47)),
     -- the last arrival, one of several, an arrival that over-credits
     meets (.barArr (fx 0 97)) (two (.barArr (fx 0 97)) 0#64 (obj 1 1)) (fun c => team c && objOf c.s == obj 1 1 && c.g.refuse.isNone && (arrivalWaits c.g).isEmpty),
     meets (.barArr (fx 0 97)) (two (.barArr (fx 0 97)) 0#64 (obj 1 1 (-1))) (fun c => objOf c.s == obj 1 1 (-1)),
     meets (.barArrn (fx 0 97)) (two (.barArrn (fx 0 97)) 0xFFFF#64 (obj 0xFFFF 0xFFFF)) (fun c => arg c == 0xFFFF && objOf c.s == obj 0xFFFF 0xFFFF),
     meets (.barExpb (fx 0 97)) (two (.barExpb (fx 0 97)) 0x7FFFFFFF#64 (obj 1 1)) (fun c => arg c == 0x7FFFFFFF && objOf c.s == obj 1 1),
     meets (.barExpb (fx 0 97)) (two (.barExpb (fx 0 97)) 1#64 (obj 0 1 (-2))) (fun c => objOf c.s == obj 0 1 (-2)),
     meets (.barWait (fx 0 97) 1) (two (.barWait (fx 0 97) 1) 0#64 (obj 1 1)) (fun c => c.f.wait != .barrierDone && objOf c.s == obj 1 1),
     meets (.barWait (fx 0 97) 0) (two (.barWait (fx 0 97) 0) 0#64 (obj 1 1)) (fun c => c.f.wait != .barrierDone && objOf c.s == obj 1 1),
     meets (.barTry (fx 98 97) 0) (two (.barTry (fx 98 97) 0) 0#64 (obj 1 1)) (fun c => objOf c.s == obj 1 1),
     meets (.barQry (fx 98 97)) (two (.barQry (fx 98 97)) 0#64 (obj 1 1)) team].all id = true := by decide +kernel

theorem witness_BarrierWordsCheckTheirObject :
    let two := fun (i : Instr) (a0 a1 : DWord) (o : BarObj) => object o (regs [(1, a0), (2, a1)] (boot i))
    let off := fun (c : Ctx) => (argOf c 97 0).toNat % 2 ^ 32
    let x := fun (c : Ctx) => (argOf c 97 1).toNat
    [meets (.barQry (fx 98 97)) (two (.barQry (fx 98 97)) 8#64 0#64 (obj 1 1)) (fun c => off c % 16 != 0),
     meets (.barArr (fx 0 97)) (two (.barArr (fx 0 97)) 16#64 0#64 (obj 1 1)) (fun c => off c % 16 == 0 && decide (16 ≤ off c)),
     meets (.barInit (fx 0 97)) (two (.barInit (fx 0 97)) 0#64 0x10000#64 (obj 1 1)) (fun c => x c % 2 ^ 16 == 0), meets (.barInit (fx 0 97)) (two (.barInit (fx 0 97)) 0#64 0x800000000001#64 (obj 1 1)) (fun c => decide (2 ^ 47 ≤ x c)),
     meets (.barArrn (fx 0 97)) (two (.barArrn (fx 0 97)) 0#64 0#64 (obj 1 1)) (fun c => x c == 0), meets (.barArrn (fx 0 97)) (two (.barArrn (fx 0 97)) 0#64 0x10000#64 (obj 1 1)) (fun c => decide (2 ^ 16 ≤ x c)),
     meets (.barExpb (fx 0 97)) (two (.barExpb (fx 0 97)) 0#64 0x80000000#64 (obj 1 1)) (fun c => decide (2 ^ 31 ≤ x c)),
     meets (.barWait (fx 0 97) 0) (two (.barWait (fx 0 97) 0) 0#64 0#64 (obj 1 1 0 true)) (fun c => (objOf c.s).err), meets (.barExpb (fx 0 97)) (two (.barExpb (fx 0 97)) 0#64 0#64 (obj 1 1 0 true)) (fun c => (objOf c.s).err),
     meets (.barTry (fx 98 97) 0) (two (.barTry (fx 98 97) 0) 0#64 0#64 (obj 0 0)) (fun c => (objOf c.s).earr == 0 && !(objOf c.s).err),
     meets (.barArrn (fx 0 97)) (two (.barArrn (fx 0 97)) 0#64 3#64 (obj 2 4)) (fun c => decide ((objOf c.s).rarr < x c) && (objOf c.s).earr != 0),
     meets (.barExpb (fx 0 97)) (two (.barExpb (fx 0 97)) 0#64 0x7FFFFFFF#64 (obj 2 4 1)) (fun c => decide (0x7FFFFFFF < (objOf c.s).rbytes + x c))].all id = true := by decide +kernel

/-- The placed team with one ring of two slots. -/
def ring (n : Nat) (l : List Claim) (s : State) : State := withTeam s (fun t => { t with chans := [{ slots := 2, head := 1, count := n, claims := l }] })

theorem witness_ChannelWordsMoveSlots :
    let sd := Instr.send (fx 0 2)
    let rv := Instr.recv (fx 4 0) 0
    let other := fun (st : TeamStatus) (s : State) => { s with teams := s.teams ++ [{ bootTeam 9 (.cluster 0 1) false with
      chans := [{ slots := 2, head := 0, count := 0, claims := [] }], lin := 1, tx := 1, status := st }] }
    let wide := fun (s : State) => withTeam s (fun t => { t with gx := 2 })
    let aim := fun (n : Nat) (s : State) => withGroup s (fun g => { g with chteam := BitVec.ofNat 64 n })
    let tmOf := fun (c : Ctx) => (findTeam c.s c.g.team).getD (bootTeam 1 .smc false)
    let room := fun (n : Nat) (c : Ctx) => (gridTeam c.s (tmOf c) n).any (fun u => u.status == .resident && (u.chans[0]?).any (fun r => decide (r.count < r.slots)))
    -- a SEND within the cluster, and one to another that takes a token (no bucket: RREQ is 0)
    [meets (sd 0) (ring 1 [] (boot (sd 0))) (fun c => room 0 c && (gridTeam c.s (tmOf c) 0).any (fun u => u.site == (tmOf c).site)),
     meets (sd 0) (aim 1 (other .resident (wide (ring 0 [] (boot (sd 0)))))) (fun c => room 1 c && (takeTurn c.s c.g.vd (siteDie c.g.site) (.send c.g.gid c.f.pc) 1).1),
     meets rv (ring 1 [] (boot rv)) (fun c => ((tmOf c).chans[0]?).any (fun r => decide (0 < r.count) && (r.claims.filter (liveClaim c.s)).isEmpty)),
     meets rv (ring 2 [{ gid := 0, leader := 0, pc := pcAt 0, reg := 4 }] (boot rv)) (fun c => ((tmOf c).chans[0]?).any (fun r => decide (0 < r.count) && (r.claims.filter (liveClaim c.s)).head?.any (fun q => q.isOf c.g.gid (leader c.f.mask) c.f.pc))),
     meets rv (ring 0 [] (boot rv)) (fun c => ((tmOf c).chans[0]?).any (fun r => r.count == 0)),
     -- RECV waits behind the claim of a fragment that came first; a SEND at a full ring, and one behind a blocked SEND of its group, keep their places
     meets rv (withGroup (ring 1 [{ gid := 0, leader := 8, pc := pcAt 9, reg := 4 }] (boot rv)) (fun g => { g with frags := g.frags ++ [newFrag (pcAt 9) 0xFF00#32 0] })) (fun c => ((tmOf c).chans[0]?).any (fun r => (r.claims.filter (liveClaim c.s)).length == 1)),
     meets (sd 0) (ring 2 [] (boot (sd 0))) (fun c => (gridTeam c.s (tmOf c) 0).any (fun u => (u.chans[0]?).any (fun r => decide (r.slots ≤ r.count))) && c.blockedSend.isNone),
     meets (sd 0) (withGroup (ring 1 [] (boot (sd 0))) (fun g => { g with frags := g.frags ++ [newFrag (pcAt 9) 0xFF00#32 0], sends := [{ leader := 8, pc := pcAt 9, lin := 0, chan := 0, slot := [] }] })) (fun c => sendBehind c.g (c.sendOf (fx 0 2) 0)),
     meets (.chq (fx 97 0) 0) (ring 1 [] (boot (.chq (fx 97 0) 0))) (fun c => ((tmOf c).chans[0]?).isSome),
     meets (sd 1) (ring 0 [] (boot (sd 1))) (fun c => decide ((tmOf c).chans.length ≤ 1)),
     meets (sd 0) (aim 1 (ring 0 [] (boot (sd 0)))) (fun c => decide (1 ≤ c.g.chteam.toNat % 2 ^ 24) && (tmOf c).gx == 1),
     meets (sd 0) (aim 1 (other .retired (wide (ring 0 [] (boot (sd 0)))))) (fun c => (gridTeam c.s (tmOf c) 1).any (fun u => u.status == .retired))].all id = true := by decide +kernel

/-- The four argument registers s1 to s4. -/
def args (a b c d : DWord) (s : State) : State := regs [(1, a), (2, b), (3, c), (4, d)] s
def drayOf (c : Ctx) : DrayArgs := { ctl := argOf c 97 0, src := argOf c 97 1, dst := argOf c 97 2, aux := argOf c 97 3 }
def drayOk (f : DrayFn) (k : BitVec 1) (c : Ctx) : Option Trap := drayCheck f (k == 1#1) (drayOf c) { size := scratchSize c, bars := ((teamOf c).map Team.nbars).getD 0 } c.g.tiles
/-- A control word: LEN, BAR 255, the scratchpad bits and ESZ, PARAM (13 Table 13.1). -/
def ctl (len bits param : Nat) : DWord := BitVec.ofNat 64 (len * 2 ^ 32 + 255 * 2 ^ 24 + bits * 2 ^ 20 + param)

theorem witness_DrayWordsTakeASlot :
    let far := 2 ^ 56
    let go := fun (i : Instr) (f : DrayFn) (k : BitVec 1) (a : DWord) (b c d : Nat) =>
      let s := args a (BitVec.ofNat 64 b) (BitVec.ofNat 64 c) (BitVec.ofNat 64 d) (boot i)
      meets i s (fun x => drayOk f k x == none && decide (draysAt s x.g.site < 8) && !remaindersWait x.s x.g.site && decide (x.g.count .s < 63) && decide (x.g.count .f < 63) && releases s x &&
        (List.range 32).all (fun j => !pendingRow x.f.board x.cycle (drayOf x).tile j))
    let x := fx 98 97
    -- a command of each kind that passes its checks, at an edge of its ranges where it has one
    [go (.drayCopy x 0) .copy 0 (ctl 0x3FFF0 4 0) 0 16 0, go (.drayCopy x 1) .copy 1 (ctl (2 ^ 20) 0 0) 0 far 0, go (.drayCopy2d x 0) .copy2d 0 (ctl 64 4 2) 0 16 0x40,
     go (.drayGather x 0) .gather 0 (ctl 4 0x6 0) 0 16 0x3FFF0, go (.drayScatter x 0) .scatter 0 (ctl 4 0x8 0) 0 0 0x3FFF0, go (.draySpill x 0) .spill 0 (ctl 0 4 0xF1F01) 0 16 128,
     go (.drayGcopy x 0) .gcopy 0 (ctl 8 0 0) 0 8 0, go (.drayPut x 0) .put 0 (ctl 8 8 0) 0x3FFF8 far 0, go (.drayGet x 0) .get 0 (ctl 8 4 0) far 0x3FFF8 0,
     go (.drayFill x 0) .fill 0 (ctl 0x3FFF0 4 0) 0 16 0, go (.drayPoolfill x 0) .poolfill 0 (ctl 8 3 0) 0 far 0, go (.drayPoolcmp x 0) .poolcmp 0 (ctl 8 4 0) far 0x3FFF8 0,
     go (.drayPoolred x 0) .poolred 0 (ctl 4 2 1) 0 far 0, go (.drayPub x 0) .pub 0 (ctl 0 0 1) 0 0 0,
     -- and one that fails: the first byte below the barrier object's end
     meets (.drayFill x 0) (args (ctl 1 4 0) 0#64 15#64 0#64 (boot (.drayFill x 0))) (fun c => drayOk .fill 0 c == some { cause := 0x16#8, val := 3#64 })].all id = true := by decide +kernel

/-- A command of group 0 in its slot. -/
def command (id : Nat) (drayId : BitVec 16) (fn : BitVec 4) (a : List DWord) : DrayCmd :=
  { id := id, gid := 0, site := .cluster 0 0, vd := 0, die := 0, drayId := drayId, fn := fn, atom := false, args := a, pc := pcAt 0, mask := 0xFFFFFFFF#32, done := 0, rows := [], sibs := false,
    usesS := true, usesF := false, phase := .moving, pend := [], fault := none, err := none, differ := none, target := none, got := none, ahead := none, seq := 0, srcs := [], order := id }
def logged (l : List DrayLog) (s : State) : State := withGroup s (fun g => { g with dlog := l })

theorem witness_DrayWaitsAndStatus :
    let one := Instr.dwaitOne (fx 0 97)
    let all := Instr.dwaitAll (fx 0 0)
    let stat := Instr.drayStat (fx 98 97)
    let bad : DrayLog := { id := 1#16, code := 0x10#8 }
    let busy := { boot all with drays := [command 50 7 8 []] }
    let idle := fun (c : Ctx) => !drayFlying c.s c.g ((argOf c 97 0).setWidth 16)
    [meets one (regs [(1, 1#64)] (boot one)) (fun c => idle c && c.g.dlog.isEmpty),
     meets one (logged [{ id := 2#16, code := 0x11#8 }, bad] (regs [(1, 1#64)] (boot one))) (fun c => idle c && c.g.dlog.find? (fun x => x.id == 1#16) == some bad),
     meets all (boot all) (fun c => (dwaitIds c.s c.g).isEmpty && c.g.dlog.isEmpty), meets all (logged [bad] (boot all)) (fun c => (dwaitIds c.s c.g).isEmpty && c.g.dlog == [bad]),
     meets one { regs [(1, 7#64)] (boot one) with drays := [command 50 7 8 []] } (fun c => drayFlying c.s c.g ((argOf c 97 0).setWidth 16)),
     -- a command that is in flight; one issued after the DWAIT began
     meets all busy (fun c => c.f.wait == .no && dwaitIds c.s c.g == [7#16] && drayFlying c.s c.g 7#16), meets all (frags (fun f => { f with wait := .dwait [6#16] }) busy) (fun c => !drayFlying c.s c.g 6#16 && c.g.dlog.isEmpty),
     meets stat { regs [(1, 7#64)] (boot stat) with drays := [command 50 7 8 []] } (fun c => (c.s.drays.find? (fun d => d.gid == c.g.gid && d.drayId == 7#16)).isSome),
     meets stat (logged [bad] (regs [(1, 1#64)] (boot stat))) (fun c => idle c && (c.g.dlog.find? (fun x => x.id == 1#16)).isSome), meets stat (boot stat) (fun c => idle c && c.g.dlog.isEmpty)].all id =
      true := by decide +kernel

/-- The frame of handle 5 of the placed virtual device: MAGIC and the two depths; its group, stopped by a trap. -/
def unit5 : Nat := unitPa bootVd 5
def framed (magic res sp : Nat) (s : State) : State := { s with mem := wrBytes (wrBytes s.mem unit5 magic 4) (unit5 + 0x44) (res + 256 * sp) 2 }
def magic : Nat := 0x58434649
def group5 (st : GStatus) : Group := { bootGroup 20 1 (.cluster 0 0) .u 0 with handle := 5, status := st }
def withStopped (s : State) : State := { s with groups := s.groups ++ [group5 (.stopped .trap)], nextId := 30 }

theorem witness_KernelControlWordsComplete :
    let e := Instr.eret (fx 98 97)
    let at_ := fun (act : DWord) => args 5#64 act 0#64 0#64 (withStopped (boot e))
    let named := fun (c : Ctx) => c.g.cw.isEmpty && !eretBad c.g.level (argOf c 97 1) && (findVd c.s c.g.vd).any (fun v => decide ((argOf c 97 0).toNat % 2 ^ 32 < unitCount v.desc))
    let queued := fun (act : Nat) (ok : Bool) (c : Ctx) => named c && (groupByHandle c.s 0 5).any (fun g => isStopped c.s g && eretOwns c 5 (some g) && g.gid != c.g.gid) &&
      eretAct (argOf c 97 1) == act && frameOk c.s (unitPa bootVd 5) == ok
    let w := Instr.wfi (fx 0 0)
    let timer := fun (n : DWord) (s : State) => withVd s (fun v => { v with insts := v.insts.map (fun i => { i with ktimer := n }) })
    [meets e (framed magic 0 0 (at_ 0#64)) (queued 0 true), meets e (framed magic 16 48 (at_ 0x100000001#64)) (queued 1 true), meets e (framed 0 0 0 (at_ 0#64)) (queued 0 false), meets e (at_ 2#64) (queued 2 false),
     meets e { args 0x700000001#64 3#64 (pcAt 5) 0#64 (boot e) with teams := bootVd.insts.map (kernelTeam 1 0) }
       (fun c => named c && eretAct (argOf c 97 1) == 3 && eretOwns c 1 none && (groupByHandle c.s 0 1).isNone && (kernelTeamOf c.s 0 0).isSome && decide (c.g.gid < c.s.nextId)),
     meets e (args 0#64 0x100000000#64 0#64 0#64 (boot e)) (fun c => c.g.cw.isEmpty && eretBad c.g.level (argOf c 97 1)), meets e (withGroup (at_ 2#64) (fun g => { g with cw := [(50, false)] })) (fun c => !c.g.cw.isEmpty),
     meets w (timer 0#64 (withVd (boot w) (fun v => { v with insts := v.insts.map (fun i => { i with bells := [0] }) }))) (fun c => (instOf c.s c.g).any (fun i => wfiReady c.s i c.g.num) && c.g.site == .core 0 0),
     meets w (timer 1#64 (boot w)) (fun c => (instOf c.s c.g).any (fun i => !wfiReady c.s i c.g.num) && c.f.wait != .wfiDone), meets (.halt (fx 0 0)) (boot (.halt (fx 0 0))) (fun _ => true)].all id = true := by
  decide +kernel

theorem witness_CsrWordsReadAndWriteTheirRegister :
    let rd_ := fun (n : BitVec 16) => meets (.csrr (fl 97 n)) (boot (.csrr (fl 97 n))) (fun c => (findVd c.s c.g.vd).any (fun v => (v.inst c.g.vdie).isSome))
    let wr_ := fun (n : BitVec 16) => meets (.csrw (fl 97 n)) (boot (.csrw (fl 97 n))) (fun c => (findVd c.s c.g.vd).any (fun v => (v.inst c.g.vdie).isSome))
    ([0x0000#16, 0x0001, 0x0003, 0x2002, 0x2004, 0x2005, 0x2008, 0x2010, 0x2011, 0x2012, 0x2013, 0x4020, 0x4022, 0x4023, 0x4024, 0x4028, 0x6021, 0x6025, 0x6026, 0x6027].all rd_ &&
     [0x2030#16, 0x2037].all (fun n => rd_ n && (State.reset.fields[n.toNat - 0x2030]?).isSome) && [0x0000#16, 0x0001, 0x0003, 0x4020, 0x4022, 0x4023, 0x4024, 0x4028].all wr_) = true := by decide +kernel

/-- A translation of the page at 0 to the same physical addresses, held by the slice an access of the placed group goes to. -/
def page0 : Xl := { va := 0, size := 65536, gpa := 0, pa := 0, r := true, w := true, x := false, k := false, fed := false, rdup := false, publ := false, dev := false, shadow := false }
def mapped (s : State) : State := { s with stc := (List.range 64).map (fun k => { vd := 0, die := 0, slice := k, asid := 0, gen1 := 0#32, gen2 := 0#32, xl := page0 }) }
def message : RlyMsg := { seq := 3, src := 1, smc := false, ext := false, bytes := List.replicate 64 9#8 }
def inQueue (l : List RlyMsg) (s : State) : State := withVd s (fun v => { v with insts := v.insts.map (fun i => { i with queue := l }) })

theorem witness_RelayWordsMoveMessages :
    let sd := Instr.rlySend (fx 98 97)
    let rv := Instr.rlyRecv (fx 98 97)
    let ok := fun (r : Except Trap (Option (Xl × State))) => match r with
      | .ok (some _) => true
      | _ => false
    let farPage := fun (s : State) => { s with stc := s.stc.map (fun e => { e with xl := { e.xl with pa := 2 * 2 ^ 37 } }) }
    let lies := fun (c : Ctx) (die : Nat) => match rlyAccess c .write 0xFFC0#64 with
      | .ok (some p) => decide (p.1.va ≤ 0xFFC0) && p.1.at 0xFFC0#64 % 64 == 0 && paKind (p.1.at 0xFFC0#64) == .hbm && paDie (p.1.at 0xFFC0#64) == die && !p.1.fed
      | _ => false
    [meets sd (args 32#64 0#64 0#64 0#64 (boot sd)) (fun c => c.g.cw.isEmpty && (argOf c 97 0).toNat % 64 != 0), meets sd (args 0#64 2#64 0#64 0#64 (boot sd)) (fun c => decide (2 ^ 1 ≤ (argOf c 97 1).toNat)),
     meets sd (mapped (args 64#64 0x100#64 0#64 0#64 (boot sd))) (fun c => ok (rlyAccess c .read 64#64)),
     meets sd (mapped (args 64#64 1#64 0#64 0#64 (boot sd))) (fun c => ok (rlyAccess c .read 64#64) && (findVd c.s 0).any (fun v => (relayTargets v 1).all (hasRoom v) && relayTargets v 1 == [0])),
     meets rv (boot rv) (fun c => (instOf c.s c.g).any (fun i => i.queue.isEmpty)),
     meets rv (mapped (inQueue [message] (args 0xFFC0#64 0#64 0#64 0#64 (boot rv)))) (fun c => (instOf c.s c.g).any (fun i => i.queue == [message]) && ok (rlyAccess c .write 0xFFC0#64) &&
       message.bytes.length == 64 && lies c (siteDie c.g.site)),
     meets rv (farPage (mapped (inQueue [message] (args 0xFFC0#64 0#64 0#64 0#64 (boot rv))))) (fun c => (instOf c.s c.g).any (fun i => i.queue == [message]) && lies c 2 && siteDie c.g.site != 2),
     meets (.rlyPoll (fx 97 0)) (boot (.rlyPoll (fx 97 0))) (fun c => (instOf c.s c.g).isSome)].all id = true := by
  decide +kernel

/-- A stage-2 table at 0: one entry at each of its levels, down to a leaf of 2 MiB frames readable and writable. -/
def tables (s : State) : State :=
  { s with mem := wrBytes (wrBytes s.mem 0 0x100001 8) 0x100000 0x1B 8 }

theorem witness_TranslationWordsComplete :
    let ok := fun (s : State) (w : Bool) (c : Ctx) => releases s c && (xlatVd c (argOf c 97 0)).any (fun v => xArgOk v c.g.level (argOf c 97 0) w && xArgKind (argOf c 97 0) == 0 &&
      xRangeOk (argOf c 97 0) (argOf c 97 1) (argOf c 97 2))
    let go := fun (i : Instr) (w : Bool) (a : DWord) => let s := args a 0x10000#64 0x10000#64 0#64 (boot i)
      meets i s (ok s w)
    let x := fx 98 97
    -- stage 2 is the SMC's: the word placed at level M
    let smc := fun (s : State) => withGroup s (fun g => { g with site := .smc, level := .m })
    let pin := args 0x50000#64 0x10000#64 0x10000#64 0#64 (tables (boot (.xlatPin x)))
    let scrub := fun (a b : DWord) => args a b 0#64 0#64 (boot (.xlatScrub (fx 0 97)))
    let purge2 := smc (args 0x50000#64 0x10000#64 0x10000#64 0#64 (tables (boot (.xlatPurge x))))
    [go (.xlatInvr x) false 0#64, go (.xlatBlock x) true 0x20000#64, go (.xlatPurge x) false 0#64,
     meets (.xlatPurge x) purge2 (fun c => ok purge2 false c && xArgStage2 (argOf c 97 0) && (findVd c.s 0).any (fun v =>
       let ls := s2Leaves c.s v 0x10000 0x10000
       !ls.isEmpty && ls.all (fun l => !l.2.1.getLsbD 51))),
     meets (.xlatProbe x) (args 0x800#64 0x10000#64 0#64 0#64 (boot (.xlatProbe x))) (fun c => (xlatVd c (argOf c 97 0)).any (fun v => xArgOk v c.g.level (argOf c 97 0) false) && xArgKind (argOf c 97 0) == 2 &&
       !xArgAll (argOf c 97 0)),
     meets (.xlatScrub (fx 0 97)) (scrub 0xFFFFFF0000#64 0x10000#64) (fun c => (argOf c 97 0).toNat % 65536 == 0 && (argOf c 97 1).toNat % 65536 == 0 &&
       decide ((argOf c 97 0).toNat + (argOf c 97 1).toNat ≤ 2 ^ 40) && c.s.reqs.isEmpty && releases (scrub 0xFFFFFF0000#64 0x10000#64) c),
     meets (.xlatScrub (fx 0 97)) (frags (fun f => { f with wait := .scrub 0x10000 0x10000 }) (scrub 0#64 0#64)) (fun c => c.f.wait == .scrub 0x10000 0x10000 && c.s.reqs.isEmpty),
     meets (.xlatPin x) pin (fun c => ok pin true c && c.s.integrity.isEmpty && xArgStage2 (argOf c 97 0) && (findVd c.s 0).any (fun v =>
       let ls := s2Leaves c.s v 0x10000 0x10000
       (ls.map (fun l => min (l.2.2.1 + l.2.2.2) 0x20000 - max l.2.2.1 0x10000)).sum == 0x10000 && ls.all (fun l => l.2.1.getLsbD 4)))].all id = true := by decide +kernel

theorem witness_DormancyAndFrameWordsComplete :
    let sp := Instr.dstkSpill (fx 98 97)
    let fl_ := Instr.dstkFill (fx 98 97)
    let at_ := fun (i : Instr) (n : DWord) (res spl : Nat) => framed magic res spl (args 5#64 n 0#64 0#64 (withStopped (boot i)))
    let unit := fun (c : Ctx) => (findVd c.s 0).isSome && (stoppedGroup c.s 0 5).isSome && c.s.integrity.isEmpty
    let bad := fun (s : State) => { s with mem := wrBytes s.mem (unit5 + 0x21000) 0xFFFFFFFF 48 }
    let entry := fun (c : Ctx) (i : Nat) => (readStack c.s (unit5 + 0x21000 + 48 * i)).isSome
    [meets (.pwrDorm (fx 98 0)) (boot (.pwrDorm (fx 98 0))) (fun c => (findVd c.s c.g.vd).any (fun v => v.state != .idle)),
     meets (.pwrDorm (fx 98 0)) (withVd (boot (.pwrDorm (fx 98 0))) (fun v => { v with state := .idle })) (fun c => (findVd c.s c.g.vd).any (fun v => v.state == .idle && !v.resetting) && c.f.wait != .wfi),
     -- the most of each, and each bound passed by one
     meets sp (at_ sp 15#64 16 33) unit, meets sp (at_ sp 0#64 16 0) unit, meets sp (at_ sp 16#64 16 0) unit, meets sp (at_ sp 15#64 16 34) unit,
     meets fl_ (at_ fl_ 16#64 0 16) (fun c => unit c && (List.range 16).all (entry c)), meets fl_ (at_ fl_ 0#64 0 16) unit, meets fl_ (at_ fl_ 2#64 0 1) unit, meets fl_ (at_ fl_ 1#64 16 1) unit,
     meets fl_ (bad (at_ fl_ 1#64 0 1)) (fun c => unit c && !entry c 0),
     meets sp (args 6#64 1#64 0#64 0#64 (boot sp)) (fun c => (stoppedGroup c.s c.g.vd 6).isNone)].all id = true := by decide +kernel


/-! ### Events: the line of a clause also looks at what the event leaves -/

def vd0 (s : State) : Vd := (findVd s 0).getD bootVd
def inst0 (s : State) : Option Inst := (vd0 s).inst 0

/-- The placed group at rest, with no word chosen. -/
def base : State := { boot (.nop (fx 0 0)) with cur := none }

/-- A request of the placed group for the word at 0x40, for lane 5, at a stage. -/
def request (st : Stage) (op : MemOp) (data : Nat := 0) (second : Nat := 0) (size : Nat := 4) : Req :=
  { id := 40, gid := 0, flight := 77, vd := 0, die := 0, vdie := 0, site := .cluster 0 0, asid := 0, user := true, op := op, size := size, uni := false, nc := false, bypass := false,
    lanes := [{ lane := 5, va := 0x40#64, data := data, second := second }], stage := st, slice := 0, gen := 0, xl := none, results := [], fill := [], sibs := false, refused := none, vec := [], lost := false,
    order := 0, out := none, home := none, half := false, reached := false, fence := 0 }
def sent (r : Req) (s : State) : State := { flying (flight 77 9) s with reqs := [r], nextId := 100 }
def rated (rreq rburst tokens : Nat) (s : State) : State :=
  withVd s (fun v => { v with desc := { v.desc with rreq := rreq, rburst := rburst }, insts := v.insts.map (fun i => { i with tokens := tokens }) })

theorem witness_RequestsReachTheirHome :
    let entered := sent (request .entry .load) (mapped base)
    let lost := sent (request .entry .load) base
    let out := fun (r : Req) (n : Nat) => sent r (rated 1 1 n base)
    let core := { request .egress .load with site := .core 0 0 }
    let waiting := { out (request .egress .load) 1 with tickets := [{ age := 3, vd := 0, die := 0, who := .steal 0 }] }
    let g0 := fun (s : State) => (findGroup s 0).isSome && (grp s).status == .running && (grp s).frags.all (fun f => !f.bonded)
    let mine := fun (s : State) (r : Req) => r.stage == .entry && firstAtEntry s r && (findVd s r.vd).isSome && entryIn s 0 0 0x40 (sliceNew s 0 r.slice) == r.slice
    let sliceOk := fun (s : State) => (findReq s 40).any (fun r => mine s r && r.xl.isNone && !spanBusy s r && !reqBlocked s r && (flightOf s r).any (fun x => x.runId == 0))
    let changed := { sent { request .remap .load with slice := 9 } base with mapChanges := [{ die := 0, old := [], gone := 1#64, slices := [3], sites := [] }] }
    let moved := sent { request .remap .load with xl := some page0, home := some (0, 63), site := .core 0 0 } base
    [leads (.tokenRefill 0 0) (rated 7 10 5 base) (fun t => (inst0 t).any (fun i => i.tokens == 10)),
     leads (.egressRelease 0 0) (out core 0) (fun t => (findReq t 40).any (fun r => r.stage == .entry) && tokensOf t 0 0 == some 0),
     tokenReady (out (request .egress .load) 1) 0 0 && leads (.egressRelease 0 0) (out (request .egress .load) 1) (fun t => tokensOf t 0 0 == some 0 && (findReq t 40).any (fun r => r.stage == .entry)),
     !tokenReady (out (request .egress .load) 0) 0 0, tokenReady waiting 0 0 && ticketOlder waiting 0 0 40,
     sliceOk entered && g0 entered && (match translateReq entered (request .entry .load) with | .ok p => paDie (p.1.at 0x40#64) == 0 && !p.1.dev | .error _ => false) &&
       leads (.sliceRequest 40) entered (fun t => (findReq t 40).any (fun r => r.stage == .home && r.xl == some page0)),
     sliceOk lost && g0 lost && (match translateReq lost (request .entry .load) with | .ok _ => false | .error _ => true) &&
       leads (.sliceRequest 40) lost (fun t => (findReq t 40).isNone && (grp t).status == .stopping .trap && (grp t).flights.any (fun x => x.faulted.any (fun e => e.1 == 5 && e.2.2.2 == 0x40#64))),
     entryIn entered 0 0 0x40 true != 9 && leads (.sliceRequest 40) (sent { request .entry .load with slice := 9 } base) (fun t => (findReq t 40).any (fun r => r.stage == .remap)),
     -- an earlier request that the slice has sent on and that touches the word
     let busy := { entered with reqs := { request .home .store with id := 39, xl := some page0 } :: entered.reqs }
     (findReq busy 40).any (fun r => mine busy r && spanBusy busy r),
     leads (.remapResend 40) (sent { request .remap .load with slice := 9 } base) (fun t => (findReq t 100).any (fun r => r.stage == .egress && r.slice == 0) && (findReq t 40).isNone),
     sliceNew changed 0 9 && entryIn changed 0 0 0x40 (siteNew changed 0 (.cluster 0 0)) != 9 && leads (.remapResend 40) changed (fun t => (findReq t 100).any (fun r => r.slice == 1)),
     homeFor moved (request .remap .load) page0 != some (0, 63) && leads (.remapResend 40) moved (fun t => (findReq t 100).any (fun r => r.stage == .home && r.home == some (0, 0)))].all id = true := by
  decide +kernel

def old4 : Nat := 0x80000001
def atHome (op : MemOp) (data : Nat := 0) (second : Nat := 0) (size : Nat := 4) : State :=
  { sent { request .home op data second size with xl := some page0 } base with mem := wrBytes base.mem 0x40 (old4 + 2 ^ 32 * 0xFFFFFFFF) 8 }
def homeOk (s : State) : Bool := (findReq s 40).any (fun r => r.xl.any (fun x => r.stage == .home && firstAtHome s r x && carriersDone s r && !x.dev && !x.fed && !badBlock s r x && !chanHeld s (x.at 0x40#64))) &&
  paKind 0x40 == .hbm && paDie 0x40 == 0 && !s.failed.contains 0
def answers (s : State) (v : Nat) (t : State) : Bool := homeOk s && (findReq t 40).any (fun r => r.stage == .reply && r.results.map LaneResult.value == [v])

theorem witness_HomesPerformRequests :
    let at_ := fun (o : AtOp) (data second size expect : Nat) =>
      let s := atHome (.atomic o) data second size
      leads (.homePerform 40) s (fun t => answers s (rdBytes s.mem 0x40 size) t && rdBytes t.mem 0x40 size == expect)
    let dirty : RemoteWord := { gid := 0, vd := 0, die := 2, slice := 3, word := 0x44, asid := 0, va := 0x110, gpa := 0x110, data := 0xABCD#32, dirty := true, fed := false, sibs := false }
    let big := fun (op : MemOp) (half : Bool) => sent { request .home op (2 ^ 64 * 7 + 6) 0 16 with xl := some page0, half := half } { base with mem := wrBytes base.mem 0x40 (2 ^ 64 * 3 + 2) 16 }
    [leads (.homePerform 40) (atHome .load) (answers (atHome .load) old4),
     -- sixteen bytes: the low half, then the high one
     homeOk (big .load false) && leads (.homePerform 40) (big .load false) (fun t => (findReq t 40).any (fun r => r.stage == .home && r.half && r.results.map LaneResult.value == [2])),
     homeOk (big .load true) && leads (.homePerform 40) (big .load true) (fun t => (findReq t 40).any (fun r => r.stage == .reply && r.results.map LaneResult.value == [3 * 2 ^ 64])),
     homeOk (big .store false) && leads (.homePerform 40) (big .store false) (fun t => rdBytes t.mem 0x40 8 == 6 && rdBytes t.mem 0x48 8 == 3),
     homeOk (big .store true) && leads (.homePerform 40) (big .store true) (fun t => rdBytes t.mem 0x40 8 == 2 && rdBytes t.mem 0x48 8 == 7 && (findReq t 40).any (fun r => r.stage == .reply)),
     leads (.homePerform 40) (atHome .store 0x1122334455 0 2) (fun t => homeOk (atHome .store 0x1122334455 0 2) && rdBytes t.mem 0x40 2 == 0x4455 && rdBytes t.mem 0x42 2 == 0x8000),
     at_ .add 0x80000000 0 4 1, at_ .fadd 0x3F800000 0 4 0x3F800000, at_ .decp 0x80000001 0 4 0, at_ .decp 0x80000002 0 4 0x80000001, at_ .incw 0x80000001 0 4 0, at_ .incw 0x80000002 0 4 0x80000002,
     at_ .min 5 0 4 old4, at_ .max 5 0 4 5, at_ .minu 5 0 4 5, at_ .maxu 5 0 4 old4, at_ .and 0xFFFFFFF0 0 4 0x80000000, at_ .or 0xF0 0 4 0x800000F1, at_ .xor 0xFFFFFFFF 0 4 0x7FFFFFFE,
     at_ .swap 77 0 4 77, at_ .cas32 old4 9 4 9, at_ .cas32 5 9 4 old4, at_ .cas64 (old4 + 2 ^ 32 * 0xFFFFFFFF) 3 8 3, at_ .add64 0x80000000 0 8 1,
     leads (.remoteWriteback 2 0x110) { base with remote := [dirty] } (fun t => t.remote.isEmpty && memWord t 0x44 == 0xABCD#32),
     leads (.remoteWriteback 2 0x110) { base with remote := [dirty], integrity := [4] } (fun t => t.remote.isEmpty && memWord t 0x44 == memWord base 0x44 && t.integrity == [4] &&
       (inst0 t).any (fun i => i.records.map (fun r => (r.type, r.arg0)) == [(8, 0x100#64)]))].all id = true := by decide +kernel

def monitor (w : Option (Nat × Nat)) : Monitor := { id := 60, vd := 0, die := 0, slice := 0, word := 0x10, gid := 0, flight := 77, timed := true, due := 0, asid := 0, va := 0x40, gpa := 0x40, vec := [], woken := w }

theorem witness_AnswersWriteTheirRegisters :
    let reply := sent { request .reply .load with results := [{ lane := 5, value := 0x12345678, p7 := none }] } base
    let waits := fun (w : Option (Nat × Nat)) => { flying { flight 77 0 with dst := [], udst := [6] } base with monitors := [monitor w], mem := wrBytes base.mem 0x40 old4 4 }
    [leads (.replyArrives 40) reply (fun t => (findReq t 40).isNone && vget (grp t) 9 5 == 0x12345678#32 && vget (grp t) 9 4 == 0#32),
     leads (.monitorWake 60) (waits (some (1, 0xAA))) (fun t => t.monitors.isEmpty && sget (grp t) 6 == 0xAA00000001#64),
     leads (.waitaTimeout 60) (waits none) (fun t => t.monitors.isEmpty && sget (grp t) 6 == 0x8000000100000007#64)].all id = true := by decide +kernel

def shoot (purge : Bool) (pend : List (Nat × Nat)) : ShootOp :=
  { id := 70, vd := 0, gid := 0, flight := 77, seq := 5, purge := purge, stage2 := false, asid := some 0, base := 0, len := 65536, wonly := false, pend := pend, failed := 2 }

theorem witness_ShootdownsAndSweepsComplete :
    let blk := { base with shoots := [shoot false [(0, 0), (0, 1)]] }
    let prg := { mapped base with shoots := [shoot true [(0, 0)]] }
    let done := { flying { flight 77 0 with dst := [], udst := [6] } base with shoots := [shoot true []] }
    let keep : BitVec 64 := 0xFF#64
    [shootTurn blk (shoot false [(0, 0), (0, 1)]) 0 0 && leads (.blockAtSlice 70 0 0) blk (fun t => t.blocks.length == 1 && (findShoot t 70).any (fun q => q.pend == [(0, 1)])),
     shootTurn prg (shoot true [(0, 0)]) 0 0 && leads (.purgeAtSlice 70 0 0) prg (fun t => t.stc.all (fun e => e.slice != 0) && t.stc.length == 63 && (findShoot t 70).all (fun q => q.pend.isEmpty)),
     leads (.shootdownComplete 70) done (fun t => (findShoot t 70).isNone && sget (grp t) 6 == 0x500000200#64),
     keep &&& liveSlices base 0 != 0#64 && (changeOf base 0).isNone && base.vds.all (fun v => vdSlices base v 0 &&& keep != 0#64) && leads (.sliceMapChange 0 keep) base (fun t =>
       liveSlices t 0 == liveSlices base 0 && assoc t.mapGen 0 == 1 && (changeOf t 0).isSome),
     leads (.sweepPassStart 0) base (fun t => (vd0 t).sweeping && (vd0 t).snapshot == countsNow (vd0 base)),
     leads (.sweepPassEnd 0) (after (.sweepPassStart 0) base) (fun t => (vd0 t).pass == 1 && (vd0 t).sweeping)].all id = true := by decide +kernel

/-- The placed group's Dray commands. -/
def drays (l : List DrayCmd) (s : State) : State := { s with drays := l, nextId := 100 }

theorem witness_DrayCommandsProgress :
    let fill := command 50 1 8 [ctl 300 4 0, 0xA5#64, 0x4F0#64, 0#64]
    let counted := withGroup base (fun g => { g with cs := [(50, false), (51, false)] })
    let rem : Remainder := { ctl := ctl 300 4 0, src := 0xA5#64, dst := 0x4F0#64, aux := 0#64, done := 16, id := 9#16, fn := 8#8 }
    let put := { command 50 1 6 [ctl 8 8 0, 0#64, 0x100000000000000#64, 0#64] with done := 8 }
    [leads (.drayUnitDone 50) (drays [fill] base) (fun t => (t.drays.head?).any (fun d => d.done == 16) && rdBytes (clusterOf t (.cluster 0 0)).sram 0x4F0 4 == 0xA5A5A5A5 &&
       rdBytes (clusterOf t (.cluster 0 0)).sram 0x500 4 == 0),
     leads (.drayComplete 50 none) (drays [{ fill with done := 300, sibs := true }] counted) (fun t => t.drays.isEmpty && (grp t).cs.length == 1 && (grp t).gstat == 0x40#64 && (grp t).dlog.isEmpty),
     leads (.drayComplete 50 none) (drays [{ fill with err := some .index }] counted) (fun t => t.drays.isEmpty && (grp t).gstat.getLsbD 7 && (grp t).dlog == [{ id := 1#16, code := 0x11#8 }]),
     leads (.drayRemainderResume 0 0) (drays [] (withGroup base (fun g => { g with remainders := [rem] }))) (fun t => (grp t).remainders.isEmpty && (t.drays.head?).any (fun d => d.done == 16 && d.drayId == 9#16)),
     let kept := withGroup base (fun g => { g with status := .draining, remainders := [rem], kept := [{ id := 9#16, pc := pcAt 7, mask := 3#32, sibs := true, rows := [], differ := none, ahead := none, order := 0 }] })
     (grp kept).count .s == 0 && leads (.drayRemainderResume 0 0) (drays [] kept) (fun t => (t.drays.head?).any (fun d => d.pc == pcAt 7 && d.mask == 3#32 && d.sibs)),
     leads (.drayComplete 50 none) (drays [{ command 50 1 0xD [0#64, 0#64, 0#64, 0#64] with phase := .finished }] base) (fun t => t.drays.isEmpty),
     leads (.poolResponse 3 0 3) base (fun t => assoc t.pace (3 * 64) == 2), leads (.poolResponse 3 0 1) { base with pace := [(3 * 64, 1)] } (fun t => assoc t.pace (3 * 64) == 1),
     leads (.putAcknowledged 50) (drays [put] base) (fun t => t.drays.isEmpty)].all id = true := by decide +kernel


/-! ### Requests whose home is not the plain HBM of their own die, and what else a request can be -/

/-- The page at 0 lies on die 2; the words of the cell at 0x40 that slice 0 of die 0 holds, dirty or clean. -/
def farXl : Xl := { page0 with pa := 2 * 2 ^ 37 }
def farPa : Nat := 2 * 2 ^ 37 + 0x40
def copies (d : Bool) : List RemoteWord :=
  [0, 1].map (fun k => { gid := 0, vd := 0, die := 0, slice := 0, word := farPa / 4 + k, asid := 0, va := 0x40 + 4 * k, gpa := 0x40 + 4 * k, data := 0x11223344#32, dirty := d, fed := false, sibs := false })
def toFar (s : State) : State := { s with stc := s.stc.map (fun e => { e with xl := farXl }) }

theorem witness_RequestsReachTheirHome_elsewhere :
    let at_ := fun (r : Req) (l : List RemoteWord) => { sent r (toFar (mapped base)) with remote := l }
    let ok := fun (s : State) (holds : Bool) => (findReq s 40).any (fun r => r.stage == .entry && firstAtEntry s r && entryIn s 0 0 0x40 (sliceNew s 0 r.slice) == r.slice && r.xl.isNone && !spanBusy s r &&
      !reqBlocked s r && (flightOf s r).any (fun x => x.runId == 0) && (match translateReq s r with
        | .ok p => paDie (firstPa r p.1) == 2 && paKind (firstPa r p.1) == .hbm && !p.1.dev && holdsSpan s r p.1 == holds
        | .error _ => false))
    let ld := request .entry .load
    let st := request .entry .store 0xAABBCCDD
    let moved := fun (n : Nat) => sent { request .remap .load with xl := some page0, home := some (0, 63) } (rated 1 1 n base)
    let older := { moved 1 with reqs := { request .remap .load with id := 39, order := 0 } :: (moved 1).reqs.map (fun r => { r with order := 1 }) }
    let turn := fun (s : State) => (findReq s 40).any (fun r => homeFor s r page0 != r.home && !overtaken s r && (takeTurn s 0 0 (.resend 40) 1).1)
    [ok (at_ ld []) false && leads (.sliceRequest 40) (at_ ld []) (fun t => (findReq t 40).any (fun r => r.stage == .home && r.xl == some farXl)),
     ok (at_ { ld with bypass := true } (copies true)) true && leads (.sliceRequest 40) (at_ { ld with bypass := true } (copies true)) (fun t => (findReq t 40).any (fun r => r.stage == .home) &&
       t.remote.all (fun y => !y.dirty)),
     ok (at_ ld (copies false)) true && leads (.sliceRequest 40) (at_ ld (copies false)) (fun t => (findReq t 40).any (fun r => r.stage == .reply && r.results.map LaneResult.value == [0x11223344])),
     ok (at_ st (copies false)) true && leads (.sliceRequest 40) (at_ st (copies false)) (fun t => (findReq t 40).any (fun r => r.stage == .reply) && t.mem == base.mem &&
       t.remote.map (fun y => (y.data, y.dirty)) == [(0xAABBCCDD#32, true), (0x11223344#32, false)]),
     -- refused by its home: with a token, without one, and behind an older request of its group to the line
     turn (moved 1) && leads (.remapResend 40) (moved 1) (fun t => (findReq t 100).any (fun r => r.stage == .home && r.home == some (0, 0))),
     !turn (moved 0) && (findReq (moved 0) 40).any (fun r => !overtaken (moved 0) r) && leads (.remapResend 40) (moved 0) (fun t => (findReq t 40).any (fun r => r.stage == .remap)),
     (findReq older 40).any (fun r => overtaken older r && r.xl.isSome)].all id = true := by decide +kernel

/-- A request at its home for the cell at 0x40, which holds siblings. -/
def fedXl : Xl := { page0 with fed := true }
def sibling (die rcnt : Nat) (v : BitVec 64) : Sib := { die := die, rcnt := rcnt, aged := false, value := v }
def atCell (op : MemOp) (sibs : List Sib) (data : Nat := 0) (second : Nat := 0) (size : Nat := 4) : State :=
  { sent { request .home op data second size with xl := some fedXl } base with
    fed := if sibs.isEmpty then [] else [{ vd := 0, cell := 8, sibs := sibs, stamp := 3, tab := true }]
    mem := wrBytes base.mem 0x40 ((sibs.head?.map Sib.value).getD 7#64).toNat 8 }
def cellOk (s : State) : Bool := (findReq s 40).any (fun r => r.xl.any (fun x => r.stage == .home && firstAtHome s r x && carriersDone s r && x.fed && !x.dev && !badBlock s r x && !chanHeld s 0x40)) && !s.failed.contains 0
def tells (n : Nat) (t : State) : Bool := (findReq t 40).any (fun r => r.stage == .reply && r.results.map LaneResult.value == [n])

theorem witness_HomesPerformRequests_federated :
    let one := [sibling 1 5 7#64]
    let two := [sibling 1 5 7#64, sibling 2 6 8#64]
    let go := fun (s : State) (p : State → Bool) => cellOk s && leads (.homePerform 40) s p
    let full := withVd (atCell .store one 9) (fun v => { v with desc := { v.desc with sibmax := 1 } })
    let refused := fun (t : State) => (findReq t 40).any (fun r => r.refused == some 0x40#64)
    [-- the only value is aged; a sibling stays beside the new one; one too many
     go (atCell .store [] 0xAABBCCDD) (fun t => (sibsOf t 8).map (fun y => (y.die, y.value)) == [(0, 0xAABBCCDD#64)]),
     go (atCell .store one 9) (fun t => (sibsOf t 8).map (fun y => (y.die, y.value)) == [(0, 9#64), (1, 7#64)]), go full (fun t => refused t && sibsOf t 8 == one),
     go (atCell (.atomic .add) one 5) (fun t => tells 7 t && rdBytes t.mem 0x40 4 == 12 && (sibsOf t 8).length == 1),
     go (atCell (.atomic .add) two 5) (fun t => (findReq t 40).any (fun r => r.sibs && r.results.map (fun y => (y.value, y.p7)) == [(7, some false)]) && sibsOf t 8 == two),
     go (atCell (.red .add) one 5) (fun t => rdBytes t.mem 0x40 4 == 12), go (atCell (.red .add) two 5) (fun t => refused t && sibsOf t 8 == two),
     go (atCell .rcn two 5 (3 * 256 + 2)) (fun t => tells 1 t && rdBytes t.mem 0x40 4 == 5 && (sibsOf t 8).length == 1 && tokenOf t 8 == 1),
     go (atCell .rcn two 5 1) (fun t => tells (0x01000000 + 3 * 256 + 2) t && sibsOf t 8 == two), leads (.homePerform 40) (atHome .rcn 5 1) (fun t => homeOk (atHome .rcn 5 1) && tells 0x02000000 t),
     go (atCell .ldsc two) (fun t => tells (7 + (3 * 256 + 2) * 2 ^ 32) t), go (atCell (.lsib 1) two 0 0 8) (fun t => tells (8 + (2 * 2 ^ 29 + 6 * 2 ^ 8 + 32) * 2 ^ 64 + (3 * 256 + 2) * 2 ^ 96) t),
     go (atCell (.waita false) two 7) (tells (7 * 2 ^ 32 + 2))].all id = true := by decide +kernel

theorem witness_HomesPerformRequests_waits :
    let w := fun (timed : Bool) (data second : Nat) => atHome (.waita timed) data second
    let crowded := { w false old4 0 with monitors := (List.range 16).map (fun k => { monitor none with id := k }) }
    let two := fun (all : Bool) => { atHome (.wake all) with monitors := [{ monitor none with id := 1 }, { monitor none with id := 2 }] }
    let go := fun (s : State) (p : State → Bool) => homeOk s && leads (.homePerform 40) s p
    [go (w false 5 0) (tells (old4 * 2 ^ 32)), go (w true old4 0) (tells (old4 * 2 ^ 32 + 7)), decide (16 ≤ sliceMonitors crowded (homeOf crowded 0x40)) && go crowded (tells (old4 * 2 ^ 32 + 1)),
     (findGroup (w true old4 3) 0).isSome && sliceMonitors (w true old4 3) (homeOf (w true old4 3) 0x40) == 0 && go (w true old4 3) (fun t => (findReq t 40).isNone && t.monitors.map (fun m => (m.word, m.gid, m.timed)) == [(0x10, 0, true)]),
     go (two false) (fun t => t.monitors.map (fun m => m.woken) == [some (4, old4), none]), go (two true) (fun t => t.monitors.map (fun m => m.woken) == [some (4, old4), some (4, old4)])].all id = true := by
  decide +kernel

theorem witness_HomesPerformRequests_elsewhere :
    let at_ := fun (x : Xl) (op : MemOp) (bypass : Bool) (l : List RemoteWord) =>
      { sent { request .home op 0xAABBCCDD with xl := some x, bypass := bypass } base with mem := wrBytes base.mem farPa old4 4, remote := l }
    let ok := fun (s : State) (k : PaKind) (dev : Bool) => (findReq s 40).any (fun r => r.xl.any (fun x => firstAtHome s r x && carriersDone s r && paKind (firstPa r x) == k && x.dev == dev && !badBlock s r x &&
      !chanHeld s (firstPa r x) && !s.failed.contains (paDie (firstPa r x))))
    let go := fun (s : State) (k : PaKind) (p : State → Bool) => ok s k false && leads (.homePerform 40) s p
    let pool : Xl := { page0 with pa := 0x100000000000 }
    let far : Xl := { page0 with pa := 0x800000000000 }
    let dev : Xl := { page0 with dev := true, pa := 0x010000000000 }
    let alone := fun (s : State) => { s with vds := [] }
    let second := { at_ dev .load false [] with reqs := [{ request .home .load with id := 39, xl := some dev }, { request .home .load with xl := some dev, order := 1 }] }
    [-- another die's words are granted; a load past the copies; a store into them
     go (at_ farXl .load false []) .hbm (fun t => tells old4 t && t.remote.any (fun y => y.word == farPa / 4 && y.data == BitVec.ofNat 32 old4 && !y.dirty)),
     go (at_ farXl .load true (copies true)) .hbm (fun t => tells 0x11223344 t && t.remote.all (fun y => !y.dirty)),
     go (at_ farXl .store false []) .hbm (fun t => rdBytes t.mem farPa 4 == old4 && t.remote.any (fun y => y.word == farPa / 4 && y.data == 0xAABBCCDD#32 && y.dirty)),
     go (at_ pool .load false []) .pool (tells 0), go (at_ pool .store false []) .pool (fun t => rdBytes t.mem 0x100000000040 4 == 0xAABBCCDD),
     ok (at_ far .load false []) .coupler false && leads (.homePerform 40) (at_ far .load false []) (fun t => (findReq t 40).any (fun r => r.stage == .reply)),
     go (at_ far .store false []) .coupler (fun t => t.mem == (at_ far .store false []).mem),
     -- a device page: alone, and behind an older access of the group
     ok (alone (at_ dev .load false [])) .device true && (findReq (alone (at_ dev .load false [])) 40).any (fun r => deviceTurn (alone (at_ dev .load false [])) r && (feTarget (alone (at_ dev .load false [])) (firstPa r dev)).isNone),
     (findReq second 40).any (fun r => !deviceTurn second r && r.xl == some dev)].all id = true := by decide +kernel

theorem witness_AnswersWriteTheirRegisters_wide :
    let reply := fun (x : Flight) (l : List LaneResult) => { flying x base with reqs := [{ request .reply .load with results := l }], nextId := 100 }
    let q : LaneResult := { lane := 5, value := 4 * 2 ^ 96 + 3 * 2 ^ 64 + 2 * 2 ^ 32 + 1, p7 := none }
    let count := fun (s : State) => withGroup s (fun g => { g with cg := [(77, false), (78, false)] })
    let p7 := { flying { flight 77 9 with pdst := true } base with reqs := [{ request .reply (.atomic .add) with results := [{ q with p7 := some true }], sibs := true }] }
    [leads (.replyArrives 40) (reply { flight 77 9 with dst := [12, 13, 14, 15], left := 0x20#32 } [q]) (fun t => [12, 13, 14, 15].map (fun k => vget (grp t) k 5) == [1#32, 2#32, 3#32, 4#32] && (grp t).flights.isEmpty),
     leads (.replyArrives 40) (count (reply { flight 77 9 with dst := [12, 13], left := 0x20#32 } [q])) (fun t => vget (grp t) 13 5 == 2#32 && (grp t).count .g == 1),
     leads (.replyArrives 40) (count (reply { flight 77 9 with dst := [12, 13] } [q])) (fun t => (grp t).count .g == 2 && (grp t).flights.map (fun x => x.left) == [0xFFFFFFDF#32]),
     leads (.replyArrives 40) (reply { flight 77 9 with dst := [], udst := [6, 7], left := 0x20#32 } [q]) (fun t => sget (grp t) 6 == 0x200000001#64 && sget (grp t) 7 == 0x400000003#64),
     leads (.replyArrives 40) p7 (fun t => pget (grp t) 7 == 0x20#32 && (grp t).gstat == 0x40#64)].all id = true := by decide +kernel

/-- Stage-1 tables of address space 0 in the code region: the page at 2^30 lies at page 1, the next one is a publishable buffer whose two frames are pages 2 and 3. -/
def tabs : Nat := bootPc + 0x100000
def paged (s : State) : State :=
  let e := fun (m : SMap 8) (a x : Nat) => wrBytes m a x 8
  let m := e (e (e (e s.mem tabs (tabs + 0x1001)) (tabs + 0x1000) (tabs + 0x2001)) (tabs + 0x2000) (tabs + 0x3001)) (tabs + 0x3008) (tabs + 0x4001)
  let m := e (e (e m (tabs + 0x4000) (tabs + 0x5001)) (tabs + 0x5000) 0x1001B) (tabs + 0x5008) (2 ^ 49 + tabs + 0x601B)
  let r := tabs + 0x6000
  { withVd s (fun v => { v with insts := v.insts.map (fun i => { i with s1tab := BitVec.ofNat 64 tabs }) }) with
    mem := e (e (e (e (e m r 0x20000) (r + 8) 0x30000) (r + 0x10) 7) (r + 0x18) 0x40010000) (r + 0x20) 65536 }

theorem witness_PublishesProgress :
    let pub := { command 50 1 0xD [ctl 0 0 0, 0#64, 0x40010000#64, 0#64] with phase := .blocking }
    let found := fun (s : State) (d : DrayCmd) => match publishBuffer s d 0x40010000#64 with
      | .ok (some b) => b == (tabs + 0x6000, 0x40010000, 65536) && (match stage2 s (vd0 s) (b.1 + 0x10) with | .ok l => l.at (b.1 + 0x10) == tabs + 0x6010 | .error _ => false)
      | _ => false
    let waiting := drays [{ pub with pend := [(0, 0), (0, 1)] }] (paged base)
    let ready := drays [pub] (paged base)
    [found waiting pub && leads (.pubSliceBlock 50 0 1) waiting (fun t => t.blocks.any (fun b => b.slice == 1 && b.base == 0x40010000 && b.len == 65536) && (t.drays.head?).any (fun d => d.pend == [(0, 0)])),
     found ready pub && leads (.swapPoint 50) ready (fun t => rdBytes t.mem (tabs + 0x6010) 8 == 8 && (t.drays.head?).any (fun d => d.phase == .finished))].all id = true := by decide +kernel

/-- Group 5 in a state, alone in the slot it holds, its save area mapped at 0; the placed group has gone. -/
def only5 (st : GStatus) (f : Group → Group := id) : State := { withVd base (fun v => { v with saveGpa := 0 }) with groups := [f { group5 st with vregs := 8, tiles := 0, s := [(3, 0xABC#64)], v := [(70, 5#32)] }], nextId := 30 }
def lost5 (s : State) : State := { s with failed := [0] }

theorem witness_StoppedGroupsAreSavedAndRestored :
    let named := fun (s : State) => (groupByHandle s 0 5).isSome && (findGroup s 20).isSome && (findVd s 0).isSome
    let still := fun (s : State) => named s && (groupByHandle s 0 5).any (fun g => (setMates s g).isEmpty && settled s g) && s.reqs.isEmpty && s.drays.isEmpty && s.shoots.isEmpty && s.monitors.isEmpty
    let g5 := fun (t : State) => (findGroup t 20).getD (group5 .gone)
    let graced := fun (s : State) => withTeam s (fun t => { t with grace := 1, saveBlk := some 0x800000 , size := 64 })
    let scr := setCluster (graced (only5 (.saving .preempt))) { clusterOf base (.cluster 0 0) with sram := [(3, 0x77#8)] }
    let queued := only5 .queued
    [still (only5 (.stopping .trap)) && !saveFaults (only5 (.stopping .trap)) (vd0 (only5 (.stopping .trap))) (group5 (.stopping .trap)) && (only5 (.stopping .trap)).locks.isEmpty,
     named (only5 (.saving .trap)) && leads (.saveComplete 0 5) (only5 (.saving .trap)) (fun t => (g5 t).status == .stopped .trap && (inst0 t).any (fun i => i.records == [trapRecord (only5 (.saving .trap)) (g5 t)])),
     leads (.saveComplete 0 5) (only5 (.saving .collapse)) (fun t => (g5 t).status == .stopped .collapse),
     !areaFaults scr (vd0 scr) 0x800000 64 true && named scr && teamStill (setGroup scr { group5 (.stopped .preempt) with s := [] }) 1 && leads (.saveComplete 0 5) scr (fun t => t.teams.all (fun u => u.status == .saved && u.saveBlk == some 0x800000) &&
       rdBytes t.mem (2 ^ 32 + 0x800003) 1 == 0x77),
     settled (lost5 (only5 (.stopping .trap))) (group5 (.stopping .trap)) && saveFaults (lost5 (only5 (.stopping .trap))) (vd0 (only5 (.stopping .trap))) (group5 (.stopping .trap)) && leads (.saveWriteFault 0 5) (lost5 (only5 (.stopping .trap))) (fun t =>
       (g5 t).status == .held .trap && (vd0 t).savef && t.smcTold == [0]),
     (groupByHandle queued 0 5).any (fun g => (seatAll queued (.cluster 0 0) [] [g]).isSome && (setMates queued g).isEmpty) && queued.teams.all (fun t => resident t && t.grace == 0)].all id = true := by decide +kernel

/-- The instance of virtual die 0 changed. -/
def inst (f : Inst → Inst) (s : State) : State := withVd s (fun v => { v with insts := v.insts.map f })
def rec1 : Record := { emptyRecord 1 0 with handle := 5 }
def rec2 : Record := { emptyRecord 2 0 with arg0 := 9#64 }

theorem witness_RecordsQuantaAndRetirement :
    -- a ring of 64 records in page 1
    let ringAt := fun (tail : BitVec 32) (rs : List Record) => inst (fun i => { i with frbase := 0x10000#64, frset := true, frtail := tail, records := rs }) base
    let held := fun (st : VdState) (ext : Bool) => withVd (inst (fun i => { i with inbox := [{ message with ext := ext }], queue := List.replicate 63 message }) base) (fun v => { v with state := st })
    let waiting := { base with teams := base.teams ++ [{ bootTeam 8 (.cluster 0 0) false with status := .saved, saveBlk := some 0 }] }
    let late := { withTeam base (fun t => { t with grace := 1 }) with cycles := [(0, 2000000)] }
    let bell := fun (s : State) => inst (fun i => { i with bells := [0] }) s
    let kernel := fun (s : State) => withGroup s (fun g => { g with level := .k, site := .core 0 0, frags := g.frags.map (fun f => { f with wait := .wfi }) })
    [(match stage2 (ringAt 63 [rec2]) (vd0 (ringAt 63 [rec2])) (0x10000 + 64 * 63) with | .ok x => x.w && x.at (0x10000 + 64 * 63) == 0x10FC0 | .error _ => false) && (ringAt 63 [rec2]).locks.isEmpty &&
       leads (.faultRecordPost 0 0) (ringAt 63 [rec2, rec1]) (fun t => rdList t.mem (0x10FC0) 64 == recordBytes rec2 0 && (inst0 t).any (fun i => i.records == [rec1] && i.frtail == 64#32)),
     let far := inst (fun i => { i with frbase := 0xFFFFFFFFF000#64 }) (ringAt 0 [rec2])
     (match stage2 far (vd0 far) 0xFFFFFFFFF000 with | .ok _ => false | .error _ => true) && leads (.faultRecordPost 0 0) far (fun t => t.smcTold == [0] && (inst0 t).any (fun i => i.records == [rec2])),
     (inst0 (ringAt 64 [rec1, rec2])).any ringFull && leads (.faultRecordPost 0 0) (ringAt 64 [rec1, rec2]) (fun t => (inst0 t).any (fun i => i.records == [rec1] && i.frlost == 1#32 && i.frtail == 64#32)),
     (inst0 (ringAt 64 [rec1])).any ringFull && leads (.faultRecordPost 0 0) (ringAt 64 [rec1]) (fun t => (inst0 t).any (fun i => i.records == [rec1] && i.frlost == 0#32)),
     teamWaits waiting (vd0 waiting) 0 (teamPrio waiting (bootTeam 1 .smc false)) && (poolFor waiting (vd0 waiting) 0x40000).isSome && leads (.quantumExpires 1) waiting (fun t => (findTeam t 1).any (fun u => u.saveBlk.isSome && u.grace == 1) &&
       (grp t).status == .stopping .preempt),
     !teamWaits base (vd0 base) 0 (teamPrio base (bootTeam 1 .smc false)) && leads (.quantumExpires 1) base (fun t => (findTeam t 1).any (fun u => u.quantum == 1000 * cyclesPerUs base 0 && u.grace == 0) && (grp t).status == .running),
     ((teamsAt late (.cluster 0 0)).find? (fun t => t.grace != 0 && decide (t.quantum + 500 * cyclesPerUs late 0 ≤ cycleOf late 0) && late.groups.any (fun g => g.team == t.tid && unsettled g))).isSome &&
       leads (.watchdog 0 0) late (fun t => t.groups.isEmpty && (inst0 t).any (fun i => i.records.getLast? == some (watchdogRecord 0 0 0))),
     drained (only5 .draining) (group5 .draining) && (findTeam (only5 .draining) 1).any (fun t => t.grace == 0) && leads (.drainEnd 0 5) (only5 .draining) (fun t => t.groups.isEmpty && (findTeam t 1).any (fun u => u.drained == 1)),
     leads (.teamRetire 1) { base with groups := [] } (fun t => t.teams.all (fun u => u.tid != 1 || u.status == .retired)),
     (inst0 (bell (kernel base))).any (fun i => wfiReady (bell (kernel base)) i 0) && leads (.wfiWake 0 0) (bell (kernel base)) (fun t => (grp t).frags.all (fun f => f.wait == .wfiDone)),
     leads (.ktimerExpires 0 0) { inst (fun i => { i with ktimer := 5#64 }) (kernel base) with cycles := [(0, 5)] } (fun t => (grp t).frags.all (fun f => f.wait == .wfiDone)),
     relayTurn (held .active false) 0 0 message.seq && leads (.relayMessageArrives 0 0) (held .active false) (fun t => (inst0 t).any (fun i => i.queue.length == 64 && i.inbox.isEmpty)),
     leads (.relayMessageArrives 0 0) (held .dormant true) (fun t => (vd0 t).state == .waking && (vd0 t).wakeCause == 4 && (inst0 t).any (fun i => i.queue.length == 63)),
     -- a reply of the SMC wakes nothing (02 R51)
     leads (.relayMessageArrives 0 0) (held .dormant false) (fun t => (vd0 t).state == .dormant && (inst0 t).any (fun i => i.queue.length == 64))].all id =
      true := by decide +kernel


/-! ### Units of Dray commands, PUTs -/

/-- A control word that names barrier object bar. -/
def ctlBar (bar len bits param : Nat) : DWord := BitVec.ofNat 64 (len * 2 ^ 32 + bar * 2 ^ 24 + bits * 2 ^ 20 + param)
def scratch (p n v : Nat) (s : State) : State :=
  let k := clusterOf s (.cluster 0 0)
  setCluster s { k with sram := wrBytes k.sram p v n }

theorem witness_DrayCommandsProgress_units :
    let sram := fun (t : State) => (clusterOf t (.cluster 0 0)).sram
    let from_ := fun (s : State) => scratch 0x100 8 0x8877665544332211 s
    let cmd := fun (fn : BitVec 4) (c : DWord) (src dst aux : Nat) => command 50 1 fn [c, BitVec.ofNat 64 src, BitVec.ofNat 64 dst, BitVec.ofNat 64 aux]
    let ok := fun (s : State) (d : DrayCmd) => (findGroup s 0).any (fun g => g.status == .running && (findTeam s g.team).any (fun tm => tm.site == d.site)) && d.fault.isNone && d.err.isNone
    let go := fun (s : State) (d : DrayCmd) (k : Nat) (p : State → Bool) => ok s d && leads (.drayUnitDone 50) (drays [d] s) (fun t => (t.drays.head?).any (fun e => e.done == k) && p t)
    let fine := fun (s : State) (d : DrayCmd) (k : AccKind) (n va : Nat) =>
      let u := takeTurn (drays [d] s) 0 0 (.unit 50) 1
      u.1 && decide (va % 128 + n ≤ 128) && (match drayXl u.2 d k n (BitVec.ofNat 64 va) with
        | .ok (x, _) => paKind (x.at (BitVec.ofNat 64 va)) == .hbm && !x.dev && !x.fed && !s.failed.contains (paDie (x.at (BitVec.ofNat 64 va))) && x.at (BitVec.ofNat 64 va) == va &&
            !chanHeld s va && badBlocks s [(va, n)] == [] && s.remote.isEmpty
        | .error _ => false)
    let into := { mapped base with mem := wrBytes base.mem 0x40 0xABCD 2 }
    let bar := scratch 0 16 (16 + 2 ^ 64 * (1 + 2 ^ 16)) base
    [-- to the scratchpad's last bytes before a line's end; with one byte less than the line left
     go (from_ base) (cmd 0 (ctl 4 0xC 0) 0x100 0x47E 0) 2 (fun t => rdBytes (sram t) 0x47E 2 == 0x2211 && rdBytes (sram t) 0x480 2 == 0),
     -- the second row: five bytes after each row's start
     go (from_ base) { cmd 1 (ctl 4 0xC 2) 0xFC 0x400 (4 * 2 ^ 32 + 16) with done := 4 } 8 (fun t => rdBytes (sram t) 0x410 4 == 0x44332211),
     go (scratch 0x200 4 3 (from_ base)) (cmd 2 (ctl 1 0xD 0) 0x100 0x400 0x200) 1 (fun t => rdBytes (sram t) 0x400 2 == 0x8877),
     go (scratch 0x200 4 3 (from_ base)) (cmd 3 (ctl 1 0xD 0) 0x100 0x400 0x200) 1 (fun t => rdBytes (sram t) 0x406 2 == 0x2211),
     go base { cmd 4 (ctl 0 4 0x1F01) 0 0x400 0 with rows := [[0xDDCCBBAA#32]] } 1 (fun t => rdBytes (sram t) 0x400 4 == 0xDDCCBBAA),
     go base (cmd 8 (ctl 6 5 0) 0x2211 0x400 0) 6 (fun t => rdBytes (sram t) 0x400 8 == 0x221122112211),
     -- from memory, to memory
     fine into (cmd 0 (ctl 2 4 0) 0x40 0x400 0) .drayRead 2 0x40 && go into (cmd 0 (ctl 2 4 0) 0x40 0x400 0) 2 (fun t => rdBytes (sram t) 0x400 2 == 0xABCD),
     fine (from_ (mapped base)) (cmd 0 (ctl 2 8 0) 0x100 0x40 0) .drayWrite 2 0x40 && go (from_ (mapped base)) (cmd 0 (ctl 2 8 0) 0x100 0x40 0) 2 (fun t => rdBytes t.mem 0x40 2 == 0x2211 && sram t == sram (from_ base)),
     -- the object that BAR names, which expects sixteen bytes less these
     (readBar (sram bar) 0).rbytes == 16 && !(readBar (sram bar) 0).err && go bar (cmd 8 (ctlBar 0 6 5 0) 0x2211 0x400 0) 6 (fun t => (readBar (sram t) 0).rbytes == 10)].all id = true := by decide +kernel

theorem witness_DrayCommandsProgress_puts :
    let put := { command 50 1 6 [ctl 8 8 0, 0#64, 0x100000000000000#64, 0#64] with done := 8 }
    let path : SourcePath := { vd := 0, asid := 0, pkg := 1, win := 4, cntva := 0x40000008, tag := 5, gpa := 0, isOpen := true }
    let counts := { paged (drays [{ put with target := some (1, 4) }] base) with paths := [path] }
    let held := fun (s : State) => blockHits s (vd0 s) 0 (entrySlice s 0 0 path.cntva) 0 .write 0x40000008#64
    let at_ := fun (s : State) => match walk s (vd0 s) 0 0 false .write 8 0x40000008#64 with
      | .ok x => x.at 0x40000008#64
      | .error _ => 0
    let locked := { counts with locks := [{ op := 0, vd := 0, die := 0, slice := 0, stage2 := false, asid := none, base := 0, len := 0, pa := 0x10000, size := 65536 }] }
    [(vd0 counts).pdie 0 == 0 && !held counts && at_ counts == 0x10008 && !lockHeld counts 0x10008 8 && !chanHeld counts 0x10008 &&
       leads (.putAcknowledged 50) counts (fun t => t.drays.isEmpty && rdBytes t.mem 0x10008 8 == 1),
     held (blocked counts), !held locked && at_ locked == 0x10008 && lockHeld locked 0x10008 8,
     leads (.putAcknowledged 50) (drays [{ put with done := 7 }] base) (fun t => t.drays.length == 1), leads (.drayComplete 50 none) (drays [put] base) (fun t => t.drays.length == 1)].all id = true := by decide +kernel

/-! ### The host, the dispatchers, the dormancy machine, the SMC -/

/-- Virtual device 0 with nothing running; one numbered 1 in its stead; one over dies 0 and 1. -/
def quiet : State := { base with groups := [], teams := [] }
def dev1 : State := withVd quiet (fun v => { v with num := 1 })
def twoDies : State := withVd quiet (fun v =>
  { v with desc := { v.desc with dies := [{ pdie := 0, clim := 0, cbase := 0, slices := 1#64 }, { pdie := 1, clim := 0, cbase := 0, slices := 1#64 }] }
           insts := v.insts ++ v.insts.map (fun i => { i with vdie := 1, pdie := 1 }) })
def vd1 (s : State) : Vd := (findVd s 1).getD bootVd

/-- A registered graph of one node of 4 teams, whose image has these roles and this scratchpad; a launch of it, number 1; a range of it. -/
def graph1 (roles : List RoleRec) (heavy : Bool) (scratch : Nat := 0) : Graph :=
  { handle := 9, asid := 0, nodes := [{ image := 0, gx := 4, gy := 1, gz := 1, vdfirst := 0, vdcount := 0, argdisp := 0, heavy := heavy }], edges := []
    images := [{ src := 64, code := bootPc, codeSize := 64, const := 0, constSize := 0, pages := [0], argSize := 0, roles := roles, split := 0, nbars := 0, chans := [], scratch := scratch, fourhand := false }]
    live := true }
def role (vregs groups : Nat) : RoleRec := { entry := 0, vregs := vregs, tiles := 0, groups := groups }
def launch1 : Launch := { num := 1, handle := 9, argoff := 0, prio := 0, nodes := [{ released := true, order := 0, retired := 0 }] }
def range1 (lo hi : Nat) : Range := { launch := 1, node := 0, lo := lo, hi := hi, refused := [], stopped := false, probing := false, held := none }
def launched (g : Graph) (rs : Nat → List Range) (s : State) : State :=
  withVd s (fun v => { v with graphs := [g], launches := [launch1], insts := v.insts.map (fun i => { i with ranges := rs i.vdie }) })

/-- A field of the package. -/
def fieldAt (f svc : Nat) (s : State) (ilim imeas : BitVec 16 := 0#16) (recal : Bool := false) : State :=
  { s with fields := s.fields.set f { svc := svc, ilim := ilim, imeas := imeas, pll := true, stops := false, recal := recal } }

theorem witness_HostRegistersAndAperture :
    let idleG := launched (graph1 [role 16 1] false) (fun _ => []) quiet
    let state := fun (x : VdState) (s : State) => withVd s (fun v => { v with state := x })
    let asid5 := withVd quiet (fun v => { v with hwasid := 5 })
    let at40 := { mapped quiet with mem := wrBytes quiet.mem 0x3C 0x1111111111111111 8 }
    let h : HostOp := { vd := 0, asid := 0, va := 0x40#64, size := 4, isWrite := true, val := 0xABCDEF01, fe := false }
    let s1 := touchEvent { at40 with hostHeld := at40.hostHeld ++ [h] } 0 3
    [dropCauseOf (vd0 quiet) 0 8 5#64 == some 2 && leads (.launch 0 0 8 5#64) quiet (fun t => (vd0 t).dropCause == 2 && (vd0 t).dropCount == 1 && (vd0 t).felast == 5#64),
     dropCauseOf (vd0 idleG) 0 8 9#64 == none && leads (.launch 0 0 8 9#64) idleG (fun t => (vd0 t).feacc == 1#32 && (vd0 t).launches.length == 2),
     dropCauseOf (vd0 quiet) 0 8 0x80000000000#64 == none && leads (.launch 0 0 8 0x80000000000#64) quiet (fun t => (vd0 t).feacc == 0#32 && (vd0 t).dropCause == 0),
     leads (.wakeWrite 0 4) (state .dormant quiet) (fun t => (vd0 t).state == .waking && (vd0 t).wakeCause == 2),
     leads (.registerWrite 0 0x1004 4 0x04030201#64) quiet (fun t => (mboxOf t 0).req.take 9 == [0#8, 0#8, 0#8, 0#8, 1#8, 2#8, 3#8, 4#8, 0#8]),
     leads (.registerWrite 0 0x103F 1 0xAA#64) quiet (fun t => (mboxOf t 0).req.getLast? == some 0xAA#8),
     !(mboxOf quiet 0).busy && leads (.registerWrite 0 0x1080 8 1#64) quiet (fun t => (mboxOf t 0).busy),
     leads (.hwbaseWrite 0 0x1234000F0003#64) quiet (fun t => (vd0 t).hwva == 0x1234000F0000 && (vd0 t).hwasid == 3),
     leads (.functionLevelReset 0) quiet (fun t => mboxOf t 0 == freshMbox), leads (.functionLevelReset 1) dev1 (fun t => (vd1 t).resetting),
     leads (.managementPathWrite (.ilim 3 77#16)) quiet (fun t => (t.fields[3]?).any (fun f => f.ilim == 77#16)),
     leads (.managementPathWrite (.clearCfail 0)) (withVd (state .idle quiet) (fun v => { v with cfail := true })) (fun t => !(vd0 t).cfail && (vd0 t).timer), State.reset.fields.all (fun f => !f.recal),
     leads (.managementPathWrite (.clearSavef 0)) (withVd quiet (fun v => { v with savef := true })) (fun t => !(vd0 t).savef),
     leads (.hostApertureAccess 0 0x40 4 true 5) (state .dormant quiet) (fun t => t.hostHeld.length == 1 && (vd0 t).state == .waking && (vd0 t).wakeCause == 3),
     leads (.hostApertureAccess 0 0x40 4 true 5) asid5 (fun t => (vd0 t).hwerr == 1),
     leads (.hostApertureAccess 0 0x40 2 false 0) asid5 (fun t => (vd0 t).hwerr == 1 && t.hostReads == [(0, [0xFF#8, 0xFF#8])]),
     -- a read across two doublewords, piece by piece
     (match hostXl (touchEvent { at40 with hostHeld := [{ h with va := 0x3E#64, isWrite := false, val := 0 }] } 0 3) (vd0 at40) { h with va := 0x3E#64, isWrite := false, val := 0 } with
       | .ok (some (ps, s2)) => ps.length == 2 && ps.all (fun p => !p.1.dev && paKind (p.1.at (BitVec.ofNat 64 p.2.1)) == .hbm && !chanHeld s2 (p.1.at (BitVec.ofNat 64 p.2.1))) && s2.integrity.isEmpty
       | _ => false) && leads (.hostApertureAccess 0 0x3E 4 false 0) { at40 with mem := wrBytes at40.mem 0x3E 0xA1A2A3A4 4 } (fun t => t.hostHeld.isEmpty && t.hostReads == [(0, [0xA4#8, 0xA3#8, 0xA2#8, 0xA1#8])]),
     findVd s1 0 == some (vd0 at40) && (match hostXl s1 (vd0 at40) h with
       | .ok (some ([(x, va, n, val)], s2)) => !x.dev && !x.fed && x.at (BitVec.ofNat 64 va) == 0x40 && n == 4 && val == 0xABCDEF01 && s2.integrity.isEmpty && !chanHeld s2 0x40 && !lockHeld s2 0x40 4
       | _ => false) && leads (.hostApertureAccess 0 0x40 4 true 0xABCDEF01) at40 (fun t => t.hostHeld.isEmpty && rdBytes t.mem 0x40 4 == 0xABCDEF01 && rdBytes t.mem 0x3C 4 == 0x11111111)].all id =
      true := by decide +kernel

/-- A mailbox request of function fn, of little-endian numbers at byte offsets: offset, value, size. -/
def bytesOf (n : Nat) (l : List (Nat × Nat × Nat)) : List (BitVec 8) := rdList (l.foldl (fun m e => wrBytes m e.1 e.2.1 e.2.2) ([] : SMap 8)) 0 n
def mbox (fn : Nat) (l : List (Nat × Nat × Nat)) (s : State) : State := { s with mboxes := [(fn, { freshMbox with req := bytesOf 64 l })] }

/-- A graph header of one node, its node and its image, in the page at 0x40000000; x changes bytes of it. -/
def descriptor (x : List (Nat × Nat × Nat)) (s : State) : State :=
  let p := 0x10000
  let n := p + 0x10
  let i := p + 0x100
  let l := [(p, 0x31474649, 4), (p + 4, 1, 2), (n, 0x40000100, 8), (n + 8, 2, 2), (n + 0xA, 1, 2), (n + 0xC, 1, 2), (i, 0x314B4649, 4), (i + 4, 1, 2), (i + 6, 64, 2), (i + 8, 0x100, 4),
    (i + 0xC, 0x40, 4), (i + 0x10, 4, 4), (i + 0x1C, 0x80, 4), (i + 0x20, 80, 4), (i + 0x28, 0x21B13AFF, 4), (i + 0x40, 0x12000000, 4), (i + 0x80, 1, 1), (i + 0x94, 16, 2), (i + 0x97, 1, 1)]
  { s with mem := (l ++ x).foldl (fun m e => wrBytes m e.1 e.2.1 e.2.2) s.mem }

/-- What a registration meets: the read and its first failed check. -/
def regOf (s : State) : Except RegFail (Option RegFail) :=
  match readGraph (doorbell s 0) (vd0 (doorbell s 0)) ((mboxOf s 0).arg 2).toNat ((mboxOf s 0).arg 1).toNat with
  | .error f => .error f
  | .ok r => .ok (regFail (vd0 (doorbell s 0)) r)

def registering (x : List (Nat × Nat × Nat)) : State := mbox 0 [(0, 1, 1), (8, 0x40000000, 8)] (descriptor x (paged quiet))
def status (fn : Nat) (k : BitVec 64) (t : State) : Bool := (mboxOf t fn).status == k && (mboxOf t fn).ready && !(mboxOf t fn).busy

theorem witness_MailboxOperationsReply_unreadable :
    [(match regOf (registering [(0x10010, 0x50000000, 8)]) with | .error f => f.err == 1 && f.detail == 0 | _ => false) &&
       leads (.registerAGraph 0) (registering [(0x10010, 0x50000000, 8)]) (fun t => status 0 0#64 t && (mboxOf t 0).result == 0x10000#64)].all id = true := by decide +kernel

theorem witness_MailboxOperationsReply_failedCheck :
    [(match regOf (registering [(0x10100, 0, 4)]) with | .ok (some f) => f.err == 2 | _ => false) &&
       leads (.registerAGraph 0) (registering [(0x10100, 0, 4)]) (fun t => status 0 0#64 t && (mboxOf t 0).result == 0x20000#64)].all id = true := by decide +kernel

/-- The read of the graph: its image with the CRC field as zero, in pieces of 32 bytes, so that its CRC-32C can be computed piece by piece. -/
def regReadOf (s : State) : RegRead :=
  match readGraph (settleDie0 (doorbell s 0) (vd0 (doorbell s 0))) (vd0 (doorbell s 0)) 0 0x40000000 with
  | .ok r => r
  | .error _ => { va := 0, hdr := [], nodes := [], edges := [], images := [] }
def imageBytes : List (BitVec 8) := ((regReadOf (registering [])).images.head?.map (fun i => i.2.2)).getD []
def piece (k : Nat) : List (BitVec 8) := ((imageBytes.take 0x28 ++ List.replicate 4 0#8 ++ (imageBytes.drop 0x2C).take 0xD4).drop (32 * k)).take 32

theorem firstFail_of_all {e : Nat} {l : List (Nat × Bool)} (h : l.all (fun c => c.2) = true) : firstFail e l = none := by
  simp only [firstFail, Option.map_eq_none_iff, List.find?_eq_none]
  intro c hc
  simpa using List.all_eq_true.mp h c hc

theorem crc_of_pieces :
    (piece 0).foldl crcByte 0xFFFFFFFF#32 = 0x8C9230E5#32 ∧
      (piece 1).foldl crcByte 0x8C9230E5#32 = 0x1658294E#32 ∧
      (piece 2).foldl crcByte 0x1658294E#32 = 0xF5A8F85E#32 ∧
      (piece 3).foldl crcByte 0xF5A8F85E#32 = 0x325F292A#32 ∧
      (piece 4).foldl crcByte 0x325F292A#32 = 0xAF41A6D8#32 ∧
      (piece 5).foldl crcByte 0xAF41A6D8#32 = 0xA4620569#32 ∧
      (piece 6).foldl crcByte 0xA4620569#32 = 0x450971A4#32 ∧
      (piece 7).foldl crcByte 0x450971A4#32 = 0xDE4EC500#32 := by decide +kernel

theorem crc_of_image : crc32c (imageBytes.take 0x28 ++ List.replicate 4 0#8 ++ (imageBytes.drop 0x2C).take 0xD4) = 0x21B13AFF#32 := by
  have e : imageBytes.take 0x28 ++ List.replicate 4 0#8 ++ (imageBytes.drop 0x2C).take 0xD4 = piece 0 ++ (piece 1 ++ (piece 2 ++ (piece 3 ++ (piece 4 ++ (piece 5 ++ (piece 6 ++ piece 7)))))) := by
    decide +kernel
  obtain ⟨h0, h1, h2, h3, h4, h5, h6, h7⟩ := crc_of_pieces
  rw [e, crc32c]
  simp only [List.foldl_append, h0, h1, h2, h3, h4, h5, h6, h7]
  decide

/-- What is left of a registration's checks once the CRC of its image is known. -/
def readsFine (s : State) : Bool :=
  let v := vd0 (doorbell s 0)
  let r := regReadOf s
  (match readGraph (settleDie0 (doorbell s 0) v) v 0 0x40000000 with | .ok _ => true | .error _ => false) && r.images == [(0x40000100, 0, imageBytes)] &&
    [checkMagic r, checkReserved r, checkLayout r, checkEntry r, checkFit v r, checkGrid v r, checkEdge r].all (fun l => l.all (fun c => c.2)) &&
    decide ((v.graphs.filter Graph.live).length < 1024 ∧ regionPages r ≤ (freePages v).length)

theorem registers {s : State} (h : readsFine s = true) :
    readGraph (settleDie0 (doorbell s 0) (vd0 (doorbell s 0))) (vd0 (doorbell s 0)) 0 0x40000000 = .ok (regReadOf s) ∧ regFail (vd0 (doorbell s 0)) (regReadOf s) = none := by
  simp only [readsFine, Bool.and_eq_true, beq_iff_eq, decide_eq_true_eq] at h
  obtain ⟨⟨⟨h0, image⟩, other⟩, room⟩ := h
  have size : imgSize imageBytes = 0x100 ∧ fieldOf imageBytes 0x28 4 = 0x21B13AFF := by decide +kernel
  have crc : checkCrc (regReadOf s) = [(0, true)] := by
    simp only [checkCrc, image, List.map_cons, List.map_nil, size.1, size.2, show 0x100 - 0x2C = 0xD4 from rfl, crc_of_image]
    decide
  simp only [List.all_cons, List.all_nil, Bool.and_true, Bool.and_eq_true] at other
  obtain ⟨h1, h2, h3, h4, h5, h6, h7⟩ := other
  refine ⟨?_, ?_⟩
  · unfold regReadOf
    split at h0
    · rename_i r e; simp only [e]
    · cases h0
  · simp [regFail, firstFail_of_all, h1, h2, h3, h4, h5, h6, h7, crc, room.1, room.2]

/-- The same registration with a word of the page its image is to be copied to on its way there. -/
def towardsPage : State :=
  let s := registering []
  let pa := (vd0 s).codePage 1
  { s with reqs := [{ request .home .load with xl := some { page0 with va := bootPc, gpa := pa, pa := pa }, lanes := [{ lane := 5, va := BitVec.ofNat 64 bootPc, data := 0, second := 0 }] }] }

theorem witness_MailboxOperationsReply_registered :
    (∃ r, readGraph (settleDie0 (doorbell (registering []) 0) (vd0 (doorbell (registering []) 0))) (vd0 (doorbell (registering []) 0)) 0 0x40000000 = .ok r ∧
      regFail (vd0 (doorbell (registering []) 0)) r = none) ∧
    registerWaits (doorbell (registering []) 0) (vd0 (doorbell (registering []) 0)) 0 0x40000000 = false := by
  have fine := registers (s := registering []) (by decide +kernel)
  have none : (settleDie0 (doorbell (registering []) 0) (vd0 (doorbell (registering []) 0))).reqs = [] := by decide +kernel
  exact ⟨⟨_, fine⟩, by simp [registerWaits, pagesBusy, fine.1, none]⟩

theorem witness_MailboxOperationsReply_waits : registerWaits (doorbell towardsPage 0) (vd0 (doorbell towardsPage 0)) 0 0x40000000 = true := by
  have fine := registers (s := towardsPage) (by decide +kernel)
  have busy : (placeImages (vd0 (doorbell towardsPage 0)) (regReadOf towardsPage)).any (fun m => m.pages.any (fun p =>
      (settleDie0 (doorbell towardsPage 0) (vd0 (doorbell towardsPage 0))).reqs.any (towards ((vd0 (doorbell towardsPage 0)).codePage p) 65536))) = true := by decide +kernel
  simp only [registerWaits, pagesBusy, fine.1, fine.2, busy, Option.isNone_none, Bool.and_self]

theorem witness_MailboxOperationsReply :
    let unreg := mbox 0 [(0, 2, 1), (8, 9, 8)]
    let g9 := launched (graph1 [role 16 1] false) (fun _ => []) quiet
    let manages := fun (code : Nat) (s : State) => mbox 0 [(0, code, 1)] s
    let blank := fieldAt 0 3 State.reset
    let desc := [(0, 1, 1), (1, 1, 1), (3, 1, 1), (4, 10, 4), (8, 100, 2), (0x18, 65536, 8), (0x20, 2147483648, 4), (0x40, 3, 8), (0x88, 2 ^ 32, 8), (0x9A, 4, 2)]
    let setup : VdSetup := { codeVa := bootPc, codePa := bootPc, kernelPa := 2 ^ 27, saveGpa := 2 ^ 44, kernelEntry := bootPc, tables := (List.range 16).map (fun k => 2 ^ 24 + 4096 * k) }
    let makes := fun (x : List (Nat × Nat × Nat)) => bytesOf 192 (desc ++ x)
    [(vd0 (doorbell (unreg quiet) 0)).known 9 == none && leads (.unregister 0) (unreg quiet) (status 0 2#64),
     ((vd0 (doorbell (unreg g9) 0)).known 9).isSome && leads (.unregister 0) (unreg g9) (fun t => status 0 0#64 t && ((vd0 t).known 9).isNone),
     createStatus (doorbell (manages 0x10 blank) 0) (makes [(0x9A, 0, 2)]) == 5 && leads (.createAVd (some (makes [(0x9A, 0, 2)])) setup) (manages 0x10 blank) (fun t => status 0 5#64 t && t.vds.isEmpty),
     createStatus (doorbell (manages 0x10 blank) 0) (makes []) == 0 && leads (.createAVd (some (makes [])) setup) (manages 0x10 blank) (fun t => status 0 0#64 t && (mboxOf t 0).result == 1#64 &&
       (findVd t 1).any (fun v => v.state == .idle && v.desc.quantus == 2000 && v.desc.dies == [{ pdie := 0, clim := 0, cbase := 0, slices := 3#64 }])),
     (createVd (doorbell (manages 0x10 blank) 0) 1 (descOf (makes [])) { setup with tables := [] }).isNone && leads (.createAVd (some (makes [])) { setup with tables := [] }) (manages 0x10 blank) (fun t => t.vds.isEmpty),
     leads (.createAVd none setup) (manages 0x10 blank) (status 0 3#64),
     leads (.destroyAVd (some 1)) (manages 0x11 dev1) (fun t => status 0 0#64 t && t.vds.isEmpty), leads (.destroyAVd (some 5)) (manages 0x11 dev1) (status 0 0xB#64),
     leads (.resetTheVf (some 1)) (manages 0x12 dev1) (fun t => status 0 0#64 t && (vd1 t).resetting), leads (.resetTheVf (some 5)) (manages 0x12 dev1) (status 0 0xB#64),
     (findVd dev1 1).any awake && leads (.unknownOperationCode 1) (mbox 1 [(0, 7, 1)] dev1) (status 1 1#64),
     leads (.vfReset 1) { dev1 with vds := [{ vd1 dev1 with resetting := true, feacc := 3#32 }] } (fun t => (vd1 t).state == .idle && (vd1 t).feacc == 0#32 && !(vd1 t).resetting)].all id =
      true := by decide +kernel

/-- Group 0 small, at a register block, alone in its bay; a second group of its bay. -/
def small (vregs blk : Nat) : State := withGroup base (fun g => { g with vregs := vregs, regBlk := blk, tiles := 0 })
def second (vregs blk : Nat) (s : State) : State :=
  { s with groups := s.groups ++ [{ bootGroup 10 1 (.cluster 0 0) .u 0 with num := 4, slot := 1, handle := 5, vregs := vregs, regBlk := blk, tiles := 0 }], nextId := 30 }
def inst1 (s : State) : Inst := (inst0 s).getD (bootVd.insts.getD 0 (newInst bootVd.desc 0 { pdie := 0, clim := 0, cbase := 0, slices := 0#64 } false))

theorem witness_TeamsFindTheirClusters :
    let g := graph1 [role 16 1] false
    let one := fun (s : State) => launched g (fun _ => [range1 0 4]) s
    let w := Waiter.fresh (range1 0 4)
    let waits := fun (s : State) => waiters s (vd0 s) (inst1 s) == [w] && mayPlace s (vd0 s) (inst1 s) && (stuckGroups s (.cluster 0 0)).isEmpty &&
      s.teams.all (fun u => decide (u.tid < s.nextId)) && s.groups.all (fun h => decide (h.gid < s.nextId))
    let free := fun (s : State) => waits s && !heldBySteering s (vd0 s) (inst1 s) w
    let full := one (second 512 0 base)
    let big := graph1 [role 256 1, role 128 4] false
    -- blocks of 64 registers at 0 and at 256: no place of 256 until one of them has moved
    let split := launched big (fun _ => [range1 0 4]) (withTeam (second 64 256 (small 64 0)) (fun t => { t with size := 0x10000, scratch := 0x10000 }))
    let moved := modGroup split 10 (fun h => { h with regBlk := 64 })
    -- blocks of 64 KiB at 0 and at 128 KiB, one of 128 KiB above: no place of 128 KiB
    let team := fun (k blk : Nat) => { bootTeam k (.cluster 0 0) false with size := 0x10000, scratch := 0x10000, block := blk }
    let blocks := { launched (graph1 [role 16 1] false 0x20000) (fun _ => [range1 0 4]) quiet with teams := [team 1 0, team 8 0x20000, { team 9 0x40000 with size := 0x20000 }], nextId := 30 }
    let packed := setTeam blocks (team 8 0x10000)
    let moves := fun (s : State) => movesWanted s (vd0 s) (inst1 s) (.cluster 0 0)
    let hot := fun (h : Option Nat) => fieldAt 0 3 (launched (graph1 [role 16 1] true) (fun _ => [{ range1 0 4 with held := h }]) { quiet with cycles := [(0, 2000000)] }) 100#16 95#16
    let held := fun (h : Option Nat) => waiters (hot h) (vd0 (hot h)) (inst1 (hot h)) == [.fresh { range1 0 4 with held := h }] && heavyHere (hot h) (vd0 (hot h)) (inst1 (hot h)) (1, 0)
    [free (one quiet) && (placeMoving (one quiet) (vd0 (one quiet)) (inst1 (one quiet)) w).any (fun t => t.teams.all (fun u => u.lin == 0 && u.site == .cluster 0 0) && t.groups.length == 1 &&
       (inst1 t).ranges == [range1 1 4]),
     free full && (placeMoving full (vd0 full) (inst1 full) w).isNone && leads (.dispatchTeam 0 0) full (fun t => t.teams.length == 1),
     free split && (placeLowest split (vd0 split) (inst1 split) w).isNone && (placeMoving split (vd0 split) (inst1 split) w).any (fun t => t.teams.length == 2 && t.groups.length == 7),
     -- held, marked, and placed once 100 us have passed
     held none && heldBySteering (hot none) (vd0 (hot none)) (inst1 (hot none)) (.fresh (range1 0 4)) && leads (.dispatchTeam 0 0) (hot none) (fun t => (inst1 t).ranges == [{ range1 0 4 with held := some 2000000 }]),
     held (some 0) && capPassed (hot (some 0)) 0 (some 0) && (placeMoving (hot (some 0)) (vd0 (hot (some 0))) (inst1 (hot (some 0))) (.fresh { range1 0 4 with held := some 0 })).any (fun t => t.teams.length == 1 && (inst1 t).ranges == [range1 1 4]),
     held (some 1999999) && !capPassed (hot none) 0 (some 1999999),
     (ownerOf split 0 0).any (fun p => p.1.num == 0) && (split.groups.find? (fun g => g.site == .cluster 0 0 && g.level == .u && g.handle == 5)).any (fun h => findGroup split h.gid == some h && (moveRegs split h 64 0).isSome) &&
       moves split == [1] && moves moved == [0] && leads (.compactionMove 0 0 (.regs 5) 64) split (fun t => (findGroup t 10).any (fun h => h.regBlk == 64)),
     (findTeam blocks 8).any (fun t => t.site == .cluster 0 0 && (moveScratch blocks t 0x10000).isSome) && moves blocks == [1] && moves packed == [0] &&
       leads (.compactionMove 0 0 (.scratch 8) 0x10000) blocks (fun t => (findTeam t 8).any (fun u => u.block == 0x10000)),
     leads (.imeasUpdate 2 55#16) (fieldAt 2 3 quiet) (fun t => (t.fields[2]?).any (fun f => f.imeas == 55#16)), leads (.imeasUpdate 2 55#16) quiet (fun t => (t.fields[2]?).any (fun f => f.imeas == 0#16))].all id =
      true := by decide +kernel

theorem witness_StealsMoveRanges :
    let g := graph1 [role 16 1] false
    let idle := launched g (fun d => if d = 0 then [range1 0 0] else [range1 2 7]) twoDies
    let probe : Steal := { id := 2, vd := 0, launch := 1, node := 0, thief := 0, victim := 1, answer := none }
    let out := fun (lo hi : Nat) (a : Option (Nat × Nat)) => withVd (launched g (fun d => if d = 0 then [{ range1 0 0 with probing := true }] else [range1 lo hi]) twoDies)
      (fun v => { v with steals := [{ probe with answer := a }] })
    let of := fun (t : State) (d : Nat) => (((vd0 t).inst d).map Inst.ranges).getD []
    [mayPlace idle (vd0 idle) (inst1 idle) && (leastBy (fun (r : Range) => nodeRank (vd0 idle) (r.launch, r.node)) (idleNodes idle (vd0 idle) (inst1 idle))).any (fun r =>
       nextVictim (vd0 idle) (inst1 idle) r == some 1) && (inst1 idle).ranges.all (fun q => !q.probing) && (takeTurn idle 0 0 (.steal 0) 1).1 && leads (.stealRequest 0 0) idle (fun t => (vd0 t).steals == [probe]),
     !(takeTurn (rated 1 1 0 idle) 0 0 (.steal 0) 1).1 && mayPlace (rated 1 1 0 idle) (vd0 (rated 1 1 0 idle)) (inst1 (rated 1 1 0 idle)),
     findSteal (out 2 7 none) 2 == some probe && leads (.stealHandled 2) (out 2 7 none) (fun t => (vd0 t).steals == [{ probe with answer := some (5, 7) }] && of t 1 == [range1 2 5]),
     leads (.stealHandled 2) (out 2 3 none) (fun t => (vd0 t).steals == [{ probe with answer := some (0, 0) }] && of t 1 == [range1 2 3]),
     leads (.stealReply 2) (out 2 5 (some (5, 7))) (fun t => (vd0 t).steals.isEmpty && of t 0 == [range1 5 7]),
     leads (.stealReply 2) (out 2 3 (some (0, 0))) (fun t => (vd0 t).steals.isEmpty && of t 0 == [{ range1 0 0 with refused := [1], stopped := true }])].all id = true := by decide +kernel

theorem witness_DormancyFollowsItsTable :
    let state := fun (x : VdState) (s : State) => withVd s (fun v => { v with state := x })
    let timed := fun (s : State) => withVd (state .idle s) (fun v => { v with timer := true })
    let kernel := fun (st : GStatus) (s : State) => withGroup s (fun g => { g with level := .k, site := .core 0 0, status := st, frags := g.frags.map (fun f => { f with wait := .wfi }) })
    let step := fun (k : Nat) (b : Bool) => withVd (state .collapsing { mapped quiet with remote := [] }) (fun v => { v with steps := k, interrupted := b })
    let service := fieldAt 0 3 (timed quiet) 0#16 0#16 true
    let faulting := lost5 (state .collapsing (kernel (.stopping .collapse) base))
    let win : Window := { num := 7, vd := 0, asid := 0, va := 0x40000000, size := 65536, cntva := 0, pkg := 1, tag := 2, aborted := false, bad := [] }
    let put := { paged quiet with windows := [win] }
    let p : PutOp := { win := 7, off := 8, bytes := [1#8, 2#8, 3#8], part := { put := 0, last := false } }
    let s1 := { touchEvent put 0 4 with putHeld := [p] }
    [hasWork (state .idle base) (vd0 (state .idle base)) && leads (.workBegins 0) (state .idle base) (fun t => (vd0 t).state == .active),
     hasWork (state .dormant base) (vd0 (state .dormant base)) && leads (.workBegins 0) (state .dormant base) (fun t => (vd0 t).state == .waking),
     !hasWork quiet (vd0 quiet) && leads (.workEnds 0) quiet (fun t => (vd0 t).state == .idle && (vd0 t).timer),
     hasWork (timed base) (vd0 (timed base)) && leads (.timerExpires 0) (timed base) (fun t => (vd0 t).state == .active && !(vd0 t).timer),
     !hasWork (timed (kernel .running base)) (vd0 (timed base)) && !underService (timed (kernel .running base)) (vd0 (timed base)) && leads (.timerExpires 0) (timed (kernel .running base)) (fun t => (vd0 t).state == .collapsing && (grp t).status == .stopping .collapse),
     !hasWork service (vd0 service) && underService service (vd0 service) && leads (.timerExpires 0) service (fun t => (vd0 t).state == .idle && (vd0 t).due),
     instancesSaved (step 0 true) 0 && leads (.collapseStepDone 0) (step 0 true) (fun t => (vd0 t).state == .waking), leads (.collapseStepDone 0) (step 0 false) (fun t => (vd0 t).steps == 1),
     leads (.collapseStepDone 0) (step 1 false) (fun t => (vd0 t).steps == 2 && t.stc.isEmpty), leads (.collapseStepDone 0) (step 3 false) (fun t => (vd0 t).state == .dormant),
     faulting.groups.any (fun g => g.level == .k && settled faulting g && saveFaults faulting (vd0 faulting) g) &&
       leads (.saveFaultInStep1 0) faulting (fun t => (vd0 t).state == .idle && (vd0 t).cfail && (grp t).status == .running),
     leads (.wakeDone 0 40#32) (state .waking quiet) (fun t => (vd0 t).state == .idle && (vd0 t).timer && (vd0 t).wakeUs == 40#32),
     leads (.wakeDone 0 40#32) (withVd (state .waking quiet) (fun v => { v with waits := true })) (fun t => (vd0 t).state == .active),
     leads (.wakeDone 0 40#32) (state .waking base) (fun t => (vd0 t).state == .active),
     leads (.couplerPutArrives 7 8 p.bytes p.part) (state .dormant put) (fun t => t.putHeld == [p] && (vd0 t).state == .waking && (vd0 t).wakeCause == 4),
     (findVd s1 0).any awake && (match putXl s1 (vd0 s1) win p with
       | .ok (some [(x, va, n, val)]) => !x.fed && n == 3 && val == 0x30201 && !chanHeld s1 (x.at (BitVec.ofNat 64 va)) && s1.locks.isEmpty && s1.integrity.isEmpty && x.at (BitVec.ofNat 64 va) == 0x10008
       | _ => false) && leads (.couplerPutArrives 7 8 p.bytes p.part) put (fun t => t.putHeld.isEmpty && rdBytes t.mem (0x10008) 4 == 0x30201)].all id = true := by decide +kernel

theorem witness_ServiceRequestsAreAnswered :
    let req := fun (op : Nat) (l : List (Nat × Nat × Nat)) => ({ vd := 0, vdie := 0, bytes := bytesOf 64 ((0, op, 1) :: (8, 0x77, 8) :: l) } : SvcReq)
    let asked := fun (q : SvcReq) (s : State) => { s with services := [q] }
    let ok := fun (q : SvcReq) (op : Nat) => svcClean q && svcOp q == op && svcKnown q
    let replied := fun (k : Nat) (x : Nat) (t : State) => (inst0 t).any (fun i => i.inbox.getLast?.any (fun m => m.smc && m.bytes.getD 1 0#8 == BitVec.ofNat 8 k && leNat ((m.bytes.drop 8).take 8) == 0x77 &&
      leNat ((m.bytes.drop 16).take 8) == x))
    let opent := fun (va : Nat) => req 0x20 [(0x12, 5, 2), (0x14, 1, 1), (0x18, va, 8), (0x20, 65536, 8), (0x28, 0x1008, 8)]
    let opens := fun (cnt : Nat) => req 0x21 [(0x12, 5, 2), (0x14, 1, 1), (0x15, 4, 1), (0x28, cnt, 8)]
    let close := fun (pkg : Nat) => req 0x22 [(0x14, pkg, 1), (0x15, 4, 1)]
    let abort := fun (tag : Nat) => req 0x23 [(0x12, tag, 2)]
    let win : Window := { num := 4, vd := 0, asid := 0, va := 0x40000000, size := 65536, cntva := 0, pkg := 1, tag := 5, aborted := false, bad := [] }
    let path : SourcePath := { vd := 0, asid := 0, pkg := 1, win := 4, cntva := 0, tag := 5, gpa := 0, isOpen := true }
    [ok (opent 0x40000000) 0x20 && leads (.opent 0) (asked (opent 0x40000000) quiet) (fun t => t.windows.length == 1 && t.services.isEmpty),
     ok (opent 0x40000001) 0x20 && leads (.opent 0) (asked (opent 0x40000001) quiet) (fun t => t.windows.isEmpty && replied 1 0 t),
     ok (opens 0x1004) 0x21 && leads (.opens 0 .noWin) (asked (opens 0x1004) quiet) (replied 1 0), leads (.opens 0 .noWin) (asked (opens 0x1008) quiet) (replied 4 0),
     leads (.opens 0 .refused) (asked (opens 0x1008) quiet) (replied 3 0),
     leads (.opens 0 (.opened 0x123450000)) (asked (opens 0x1008) quiet) (fun t => t.paths.any (fun p => p.gpa == 0x100000000 && p.win == 4 && p.cntva == 0x1008) && replied 0 0x100000000 t),
     ok (close 128) 0x22 && leads (.close 0) (asked (close 128) { quiet with windows := [win] }) (replied 1 0),
     ok (abort 0) 0x23 && leads (.abort 0) (asked (abort 0) quiet) (replied 1 0),
     ok (abort 5) 0x23 && leads (.abort 0) (asked (abort 5) { quiet with windows := [win], paths := [path] }) (fun t => t.windows.all (fun w => w.aborted) && t.paths.all (fun p => !p.isOpen) && replied 0 0 t),
     leads (.peerAbort 5#16) { quiet with windows := [win], paths := [path] } (fun t => t.windows.all (fun w => w.aborted) && t.paths.all (fun p => !p.isOpen)),
     -- every package number is some request's, whichever of them is this package's
     (List.range 128).all (fun k => ok (close k) 0x22 && svcField (close k) 0x14 1 == k && svcField (close k) 0x15 1 == 4),
     awake (vd0 quiet) && !quiet.failover && !quiet.smcHalted].all id = true := by decide +kernel

theorem witness_BringUpServiceAndFailures :
    let up := after .packageReset State.reset
    let first := after (.fieldInService 0) up
    let both := after (.fieldInService 7) first
    let asks (n : Nat) (s : State) : State :=
      let k := clusterOf s (.cluster 0 0)
      { setCluster s { k with arrays := k.arrays.map (fun a => { a with asking := true }), asked := 3 } with surges := s.surges.set 0 { window := 0, grants := n, last := 0 } }
    let far := { quiet with remote := [{ gid := 0, vd := 0, die := 2, slice := 3, word := 0x44, asid := 0, va := 0x110, gpa := 0x110, data := 0xABCD#32, dirty := true, fed := false, sibs := false }] }
    let part : PutPart := { put := 6, last := false }
    let last : PutPart := { put := 6, last := true }
    let puts := fun (k : PutPart) (bad : List Nat) (off : Nat) =>
      { paged quiet with
        windows := [{ num := 7, vd := 0, asid := 0, va := 0x40000000, size := 65536, cntva := 0x40000100, pkg := 1, tag := 2, aborted := false, bad := bad }]
        putHeld := [{ win := 7, off := off, bytes := [1#8, 2#8, 3#8], part := k }] }
    let putOk := fun (s : State) => awake (vd0 s) && s.blocks.isEmpty && s.locks.isEmpty && s.chanService.isEmpty && s.integrity.isEmpty && (match s.windows, s.putHeld with
      | [w], [p] => (match putXl s (vd0 s) w p with
        | .ok (some [(x, va, n, val)]) => !x.fed && n == 3 && val == 0x30201 && x.at (BitVec.ofNat 64 va) == 0x10008
        | _ => false)
      | _, _ => false)
    let counter := fun (s : State) => match walk s (vd0 s) 0 0 false .write 8 0x40000100#64 with
      | .ok y => !y.fed && y.at 0x40000100#64 == 0x10100
      | .error _ => false
    [nextField up == some 0 && leads (.fieldInService 0) up (fun t => (t.fields[0]?).any (fun x => x.svc == 2 && x.pll) && t.early),
     nextField first == some 7 && leads (.fieldInService 7) first (fun t => (t.fields[7]?).any (fun x => x.svc == 3) && t.standby),
     leads (.fieldInService 3) up (fun t => t == { up with cur := none }),
     both.early && leads .earlyServiceEnd both (fun t => (t.fields[0]?).any (fun x => x.svc == 3) && !t.early),
     leads (.fieldRecalibration 7) both (fun t => (t.fields[7]?).any (fun x => x.recal)), leads (.recalibrationEnd 7) (after (.fieldRecalibration 7) both) (fun t => (t.fields[7]?).any (fun x => !x.recal)),
     leads (.hbmChannelService 0 5) quiet (fun t => t.chanService == [(0, 5)]), leads (.hbmChannelService 0 5) { quiet with chanService := [(0, 5)] } (fun t => t.chanService.isEmpty),
     leads (.couplerPortService 3) quiet (fun t => t.putHeld.isEmpty),
     -- a held put: its virtual device asleep; bytes in the middle of a put; the last ones, which count; those of a put that lost bytes
     leads (.couplerPortService 3) (withVd (puts part [] 8) (fun v => { v with state := .dormant })) (fun t => t.putHeld.length == 1),
     putOk (puts part [] 8) && leads (.couplerPortService 31) (puts part [] 8) (fun t => t.putHeld.isEmpty && rdBytes t.mem 0x10008 4 == 0x30201 && rdBytes t.mem 0x10100 8 == 0),
     putOk (puts last [] 8) && counter (puts last [] 8) && leads (.couplerPortService 3) (puts last [] 8) (fun t => t.putHeld.isEmpty && rdBytes t.mem 0x10008 4 == 0x30201 && rdBytes t.mem 0x10100 8 == 1),
     putOk (puts last [6] 8) && leads (.couplerPortService 3) (puts last [6] 8) (fun t => t.putHeld.isEmpty && rdBytes t.mem 0x10100 8 == 0),
     !quiet.failover && !quiet.standby && leads .smcFailover quiet (fun t => !t.failover && !t.smcHalted), both.standby && leads .smcFailover both (fun t => t.failover && t.smcHalted && !t.standby),
     leads .smcFailover (after .smcFailover both) (fun t => !t.failover && !t.smcHalted), leads (.computeDieRetirement 5) quiet (fun t => t.retired == [5]),
     leads (.surgeGrant 0) (asks 7 quiet) (fun t => (t.surges[0]?).any (fun a => a.grants == 8) && (clusterOf t (.cluster 0 0)).arrays.all (fun a => a.granted && !a.asking)),
     leads (.surgeGrant 0) (asks 8 quiet) (fun t => t == asks 8 quiet),
     leads (.dieFailure 2) far (fun t => t.failed == [2] && t.remote.isEmpty), leads (.integrity 999 0x1234) quiet (fun t => t.integrity == [0x48]),
     leads .packageReset { quiet with retired := [5] } (fun t => t.vds.isEmpty && t.mem.isEmpty && t.retired == [5]),
     base.cur.isNone && base.tried.isEmpty && (bayGroups base (.cluster 0 0) 0).length == 1 && (bayGroups base (.cluster 0 0) 0).all (fun g => g.replay.isEmpty && g.frags.length == 1 && g.frags.all (fun f => mayTry (cycleOf base 0) f && !f.bonded) &&
       !stopDue base g) && leads (.issueChoice (.cluster 0 0) 0) base (fun t => t.cur == some { gid := 0, fi := 0 })].all id = true := by decide +kernel

/-! ### Clauses of statements above that their own witnesses do not reach -/

theorem witness_WordsTrapInTheirOrder_switch :
    -- three cases at most; a case byte above cnt that is not zero; the code's last words, behind which nothing is mapped
    let i := Instr.switch (fs 9 1 9)
    let fields := fun (s : State) => chosenB 0 i s && !startHeld s (grp s) (ctx i s).f i && legal i && isCluster (grp s).site && !(shape i).b
    let data := fun (s : State) (n : Nat) => fetchWord s (grp s) ((frag s 0).pc + BitVec.ofNat 64 (4 * n))
    let ok := fun (s : State) (n : Nat) => match data s n with | .ok _ => true | .error _ => false
    let filled := { boot i with mem := wrBytes (boot i).mem (bootPc + 8) 0x100 4 }
    let at_ := fun (k : Nat) => frags (fun f => { f with pc := BitVec.ofNat 64 (bootPc + 0x10000 - 4 * k) }) (boot i)
    [fields filled && (match data filled 1, data filled 2 with | .ok x, .ok y => x == 0#32 && y == 0x100#32 | _, _ => false),
     fields (at_ 1) && !ok (at_ 1) 1, fields (at_ 2) && ok (at_ 2) 1 && !ok (at_ 2) 2,
     issuesB 0 i (at_ 3) && ok (at_ 3) 2 && !ok (at_ 3) 3 && [3, 4, 5].all (fun k => !fetchStalls (at_ 3) (grp (at_ 3)) ((frag (at_ 3) 0).pc + BitVec.ofNat 64 (4 * k)))].all id = true := by decide +kernel

theorem witness_WordsThatDoNotDecodeTrap_inRuns :
    let i := Instr.nop (fx 0 0)
    let s := bootWord 0xFFFFFFFF#32
    -- a member of a run of one word, the words of which have been translated; the same word with no run before it
    let run := frags (fun f => { f with run := 1, chain := true, head := pcAt 9 }) s
    let good := fun (s : State) => chosenB 0 i s && fetched s 0xFFFFFFFF#32 && undecodable 0xFFFFFFFF#32 && badWordB 0xFFFFFFFF#32 && !stalls s && (dueTrap (frag s 0)).isNone
    [good run && memberOk (frag run 0), good s && !memberOk (frag s 0) && !runHeld (grp s)].all id = true := by decide +kernel

theorem witness_DivergenceOpensAndCloses_spilled :
    let j := boot (.join (fx 0 0))
    let x := mask 1#32 (boot (.exit (fx 0 0)))
    let spilled := fun (l : List StackEntry) (s : State) => withGroup (stack l s) (fun g => { g with spilled := 1 })
    let all := 0xFFFFFFFF#32
    let implicit := { entry (pcAt 0) all 0#32 with kind := .implicit }
    -- the lanes that leave an implicit entry arrive at the last one, or do not; a full top entry above an entry that has more lanes, or no more
    [meets (.join (fx 0 0)) (spilled [implicit, entry (pcAt 9) all 0#32] j) (fun c => c.g.spilled != 0 && implicit.arr ||| c.f.mask == implicit.rmask && implicit.rpc == some c.f.pc),
     meets (.join (fx 0 0)) (spilled [implicit, entry (pcAt 9) all 0#32, entry (pcAt 9) all 0#32] j) (fun c => c.g.spilled != 0 && implicit.rpc == some c.f.pc && c.g.stack.length == 3),
     meets (.exit (fx 0 0)) (spilled [entry (pcAt 9) 1#32 0#32, entry (pcAt 9) 3#32 0#32] x) (fun c => c.g.exited ||| c.f.mask != all && c.g.spilled != 0 && c.g.stack.length == 2 && c.f.mask == 1#32),
     meets (.exit (fx 0 0)) (spilled [entry (pcAt 9) 1#32 0#32, entry (pcAt 9) 1#32 0#32] x) (fun c => c.g.exited ||| c.f.mask != all && c.g.spilled != 0 && c.g.stack.length == 2 && c.f.mask == 1#32)].all id = true := by
  decide +kernel

theorem witness_BarrierWordsActOnTheirObject_ended :
    -- the phase has ended while the WAIT waited; the register names no object of the team any more, or names one whose phase goes on
    let wait := Instr.barWait (fx 0 97) 0
    let ended := fun (a0 : DWord) => frags (fun f => { f with wait := .barrierDone }) (object (obj 1 1) (regs [(1, a0)] (boot wait)))
    let team := fun (c : Ctx) => (findTeam c.s c.g.team).any (fun tm => tm.site == c.g.site && tm.block == 0)
    [meets wait (ended 0#64) (fun c => c.f.wait == .barrierDone && team c && (argOf c 97 0).toNat == 0 && objOf c.s == obj 1 1) && leads wait (ended 0#64) (fun t => (frag t 0).pc == pcAt 1),
     leads wait (ended 8#64) (fun t => (frag t 0).pc == pcAt 1)].all id = true := by decide +kernel

theorem witness_DrayWaitsAndStatus_latched :
    -- the identifier that the DWAIT began with, whatever its register holds now: in flight, at rest, with an error
    let one := Instr.dwaitOne (fx 0 97)
    let s := frags (fun f => { f with wait := .dwait [7#16] }) (boot one)
    let fly := { regs [(1, 6#64)] s with drays := [command 50 7 8 []] }
    let still := { regs [(1, 6#64)] s with drays := [command 50 6 8 []] }
    let bad : DrayLog := { id := 7#16, code := 0x10#8 }
    [meets one fly (fun c => c.f.wait == .dwait [7#16] && drayFlying c.s c.g 7#16 && !drayFlying c.s c.g ((argOf c 97 0).setWidth 16)) && leads one fly (fun t => (frag t 0).wait == .dwait [7#16]),
     meets one still (fun c => c.f.wait == .dwait [7#16] && !drayFlying c.s c.g 7#16 && c.g.dlog.isEmpty && drayFlying c.s c.g ((argOf c 97 0).setWidth 16)) &&
       leads one still (fun t => (frag t 0).pc == pcAt 1),
     meets one (logged [bad] still) (fun c => c.f.wait == .dwait [7#16] && !drayFlying c.s c.g 7#16 && c.g.dlog.find? (fun x => x.id == 7#16) == some bad) &&
       leads one (logged [bad] still) (fun t => (grp t).trapc == 0x16#64)].all id = true := by decide +kernel

theorem witness_DrayCommandsProgress_pieces :
    let sram := fun (t : State) => (clusterOf t (.cluster 0 0)).sram
    let from_ := fun (s : State) => scratch 0x100 8 0x8877665544332211 s
    let cmd := fun (fn : BitVec 4) (c : DWord) (src dst : Nat) => command 50 1 fn [c, BitVec.ofNat 64 src, BitVec.ofNat 64 dst, 0#64]
    let go := fun (s : State) (d : DrayCmd) (k : Nat) (p : State → Bool) => (findGroup s 0).any (fun g => g.status == .running && (findTeam s g.team).any (fun tm => tm.site == d.site)) &&
      leads (.drayUnitDone 50) (drays [d] s) (fun t => (t.drays.head?).any (fun e => e.done == k) && p t)
    let seen := fun (k : Nat) (d : DrayCmd) => { d with ahead := some (BitVec.ofNat 64 k, [0xA1#8, 0xA2#8, 0xA3#8]) }
    let into := { mapped base with mem := wrBytes base.mem 0x40 0xABCDABCD 4 }
    let xl := fun (d : DrayCmd) => match drayXl (takeTurn (drays [d] into) 0 0 (.unit 50) 1).2 d .drayRead 1 0x43#64 with
      | .ok (x, _) => x.at 0x43#64 == 0x43 && !x.dev && into.integrity.isEmpty && into.remote.isEmpty
      | .error _ => false
    -- a buffer whose record lies in a block with a mismatched check, or is locked
    let pub := { command 50 1 0xD [ctl 0 0 0, 0#64, 0x40010000#64, 0#64] with phase := .blocking }
    let lock := fun (pa : Nat) (s : State) => { s with locks := [{ op := 0, vd := 0, die := 0, slice := 0, stage2 := false, asid := none, base := 0, len := 0, pa := pa, size := 65536 }] }
    let put := { command 50 1 6 [ctl 8 8 0, 0#64, 0x100000000000000#64, 0#64] with done := 8, target := some (1, 4) }
    let counts := { paged (drays [put] base) with paths := [{ vd := 0, asid := 0, pkg := 1, win := 4, cntva := 0x40000008, tag := 5, gpa := 0, isOpen := true }], integrity := [0x10000 / 64] }
    let kept := withGroup base (fun g => { g with
      remainders := [{ ctl := ctl 300 4 0, src := 0xA5#64, dst := 0x4F0#64, aux := 0#64, done := 16, id := 9#16, fn := 8#8 }],
      kept := [{ id := 9#16, pc := pcAt 7, mask := 3#32, sibs := true, rows := [], differ := none, ahead := some (5#64, [1#8]), order := 4 }] })
    [-- bytes of the source read with a unit before: at this one's first byte, in the scratchpad and in memory; at another one's
     go (from_ base) (seen 0x100 (cmd 0 (ctl 4 0xC 0) 0x100 0x400)) 4 (fun t => rdBytes (sram t) 0x400 4 == 0x44A3A2A1),
     xl (seen 0x40 (cmd 0 (ctl 4 4 0) 0x40 0x400)) && go into (seen 0x40 (cmd 0 (ctl 4 4 0) 0x40 0x400)) 4 (fun t => rdBytes (sram t) 0x400 4 == 0xABA3A2A1),
     go (from_ base) (seen 0x101 (cmd 0 (ctl 4 0xC 0) 0x100 0x400)) 4 (fun t => rdBytes (sram t) 0x400 4 == 0x44332211),
     lockHeld (lock (tabs / 65536 * 65536) base) (tabs + 0x6010) 8 && leads (.swapPoint 50) (lock (tabs / 65536 * 65536) (drays [pub] (paged base))) (fun t => (t.drays.head?).any (fun d => d.phase == .blocking)),
     !lockHeld counts 0x10008 8 && !chanHeld counts 0x10008 && badBlocks counts [(0x10008, 8)] != [] && leads (.putAcknowledged 50) counts (fun t => t.drays.isEmpty && rdBytes t.mem 0x10008 8 == 0),
     decide (draysAt kept (.cluster 0 0) < 8) && leads (.drayRemainderResume 0 0) (drays [] kept) (fun t => (t.drays.head?).any (fun d => d.ahead == some (5#64, [1#8]) && d.order == 4))].all id = true := by
  decide +kernel

theorem witness_StoppedGroupsAreSavedAndRestored_bytes :
    let g5 := fun (t : State) => (findGroup t 20).getD (group5 .gone)
    let saved := withTeam (only5 (.saving .preempt)) (fun t => { t with grace := 1, saveBlk := some 0x800000, size := 64 })
    -- a frame: MAGIC, a fragment of the lower lanes, an exited lane, one stack entry with a parked arm, GSTAT, TRAPV, s3, v1 of lane 5
    let p := unitPa (vd0 base) 5
    let e := p + 0x200
    let bytes := [(p, magic, 4), (p + 0x20, bootPc + 12, 8), (p + 0x28, 0xFFFF, 4), (p + 0x2C, 1, 4), (p + 0x40, 0x80000000, 4), (p + 0x44, 1, 1), (p + 0x50, 0x42, 8), (p + 0x80, 7, 8),
      (p + 0x118, 0xABC, 8), (p + 0x1094, 9, 4), (e, bootPc + 36, 8), (e + 8, bootPc + 20 + 1, 8), (e + 0x18, 0x7FFFFFFF, 4), (e + 0x20, 0x7FFF0000, 4)]
    let queued := { only5 .queued with mem := bytes.foldl (fun m x => wrBytes m x.1 x.2.1 x.2.2) base.mem }
    let back := g5 (after (.groupRestore 0 5) queued)
    [saved.integrity.isEmpty && (vd0 saved).desc.saveBase + 0x800000 == 2 ^ 32 + 0x800000 && decide (unitPa (vd0 saved) 5 + 0x18 ≤ 2 ^ 32 + 0x800000 ∨ 2 ^ 32 + 0x800000 + 64 ≤ unitPa (vd0 saved) 5 + 0x14) &&
       !areaFaults saved (vd0 saved) 0x800000 64 true,
     queued.teams.all (fun t => resident t && t.grace == 0) && (setMates queued (g5 queued)).isEmpty && (seatAll queued (.cluster 0 0) [] [g5 queued]).isSome,
     back.status == .running && back.frags.map (fun f => (f.pc, f.mask)) == [(pcAt 3, 0x0000FFFF#32)] && sget back 3 == 0xABC#64 && vget back 1 5 == 9#32 && back.gstat == 0x42#64 && back.trapv == 7#64 &&
       back.exited == 0x80000000#32 && back.stack.map (fun e => (e.rpc, e.rmask, e.pmask)) == [(some (pcAt 9), 0x7FFFFFFF#32, 0x7FFF0000#32)]].all id = true := by
  decide +kernel

theorem witness_RecordsQuantaAndRetirement_marked :
    let ring := inst (fun i => { i with frbase := 0x10000#64, frset := true, frtail := 63, records := [rec2] }) base
    let bad := { ring with integrity := [0x10FC0 / 64, 3] }
    [(match stage2 bad (vd0 bad) (0x10000 + 64 * 63) with | .ok x => x.at (0x10000 + 64 * 63) % 64 == 0 | .error _ => false) &&
       leads (.faultRecordPost 0 0) bad (fun t => rdList t.mem 0x10FC0 64 == recordBytes rec2 0 && t.integrity == [3])].all id = true := by decide +kernel

theorem witness_MailboxOperationsReply_whileAway :
    let dormant := withVd dev1 (fun v => { v with state := .collapsing })
    [leads (.vfReset 1) { dormant with vds := [{ vd1 dormant with resetting := true }] } (fun t => (vd1 t).resetting && (vd1 t).state != .idle),
     leads (.resetTheVf (some 1)) (mbox 0 [(0, 0x12, 1)] dormant) (fun t => status 0 0#64 t && (vd1 t).resetting),
     leads (.destroyAVd (some 1)) (mbox 0 [(0, 0x11, 1)] dormant) (fun t => (vd1 t).resetting && t.vds.length == dormant.vds.length)].all id = true := by decide +kernel

theorem witness_DormancyFollowsItsTable_whileResetting :
    let s := withVd quiet (fun v => { v with state := .idle, timer := true, resetting := true })
    [leads (.timerExpires 0) s (fun t => (vd0 t).state == .idle && (vd0 t).timer)].all id = true := by decide +kernel

theorem witness_ServiceRequestsAreAnswered_paths :
    let req := fun (op : Nat) (l : List (Nat × Nat × Nat)) => ({ vd := 0, vdie := 0, bytes := bytesOf 64 ((0, op, 1) :: (8, 0x77, 8) :: l) } : SvcReq)
    let opens := { quiet with services := [req 0x21 [(0x12, 5, 2), (0x14, 1, 1), (0x15, 4, 1), (0x28, 0x1008, 8)]] }
    let path : SourcePath := { vd := 0, asid := 0, pkg := 1, win := 4, cntva := 0x40000008, tag := 5, gpa := 0x100000000, isOpen := true }
    let abort := fun (p : SourcePath) => { paged quiet with services := [req 0x23 [(0x12, 5, 2)]], paths := [p] }
    let status := fun (k : Nat) (t : State) => (inst0 t).any (fun i => i.inbox.getLast?.any (fun m => m.smc && !m.ext && m.bytes.getD 1 0#8 == BitVec.ofNat 8 k))
    [-- an address that needs a table when no frame is left for one; the counter of an open path and that of a closed one, which has no tag any more
     (mapFor opens 0 0x800000000000 (couplerPa 1 4 0) (2 ^ 32) (leafFlags true false false)).isNone && leads (.opens 0 (.opened 0x800000000000)) opens (fun t => t.paths.isEmpty && status 2 t),
     (mapFor opens 0 0x100000000 (couplerPa 1 4 0) (2 ^ 32) (leafFlags true false false)).isSome && leads (.opens 0 (.opened 0x100000000)) opens (fun t => t.paths.length == 1 && status 0 t),
     leads (.abort 0) (abort path) (fun t => rdBytes t.mem 0x10008 8 == 2 ^ 63 && status 0 t),
     leads (.abort 0) (abort { path with isOpen := false, tag := 0 }) (fun t => rdBytes t.mem 0x10008 8 == 0 && status 0 t)].all id = true := by decide +kernel

/-! ### Statements over all instructions and all states -/

theorem witness_DecodeOfEncodeIsTheWord : Instr.isWord (.iadd (fa 3 1 2)) = true ∧ Instr.isWord .packageReset = false := by decide

theorem witness_EveryDecodedWordIsAnEncoding : reads (0x200C0820#32, .iadd (fa 3 1 2)) = true := by decide +kernel

/-- The group at its word issues it in a state whose memory is in its form and whose surge windows are empty; an event that is no word comes from the agenda. -/
theorem witness_EveryStep :
    let s := boot (.iadd (fa 3 1 2))
    [Memory.wf s.mem, s.surges.all (fun a => decide (a.grants ≤ 8)), (match step s with | .next t => Memory.wf t.mem && t.cur.isNone && t.surges == s.surges | _ => false),
     ([Instr.packageReset].head?).all (fun i => !i.isWord), (match step { State.reset with agenda := [.packageReset] } with | .next t => t.agenda.isEmpty && (t.fields[0]?).any (fun f => f.svc == 1) | _ => false)].all id =
      true := by decide +kernel

/-! ### Words that compute in their group: the clauses have no hypothesis but Issues, met for every constructor by the lists above; here are two operands at which a clause of a result turns -/

theorem witness_Results :
    [meets (.shl (fa 4 1 32)) (vecs [(32, fun _ => 32#32)] (boot (.shl (fa 4 1 32)))) (fun c => op32 c 32 0 == 32#32), meets (.shl (fa 4 1 31 (x := true))) (boot (.shl (fa 4 1 31 (x := true)))) (fun c => srcB32 c true 31 0 == 31#32),
     meets (.iadd (fa 0 1 2 (n := true))) (boot (.iadd (fa 0 1 2 (n := true)))) (fun _ => true), meets (.iadd (fa 99 100 101 (u := true))) (boot (.iadd (fa 99 100 101 (u := true)))) (fun _ => true),
     meets (.sel (fq 4 1 2 1 (n := true))) (boot (.sel (fq 4 1 2 1 (n := true)))) (fun _ => true)].all id = true := by decide +kernel

end Sys2Proof.Tests
end

section
/-! What every step keeps (log 8; 02 R45): memory in its canonical form, and the limit of the surge windows.

Memory changes only where a range of bytes is written (`wrBytes`, `wrList`), frames are scrubbed or frames are mapped, and each of these keeps the form; a surge window changes only where a grant
goes out. `Keeps z s` says that s has what z had of the two. For a function f of the model, the rule `Keeps.f` (`CtxKeeps.f` of a word that has issued) says that z keeps to what f gives
if it keeps to what f is given; the rules stand in the order of the calls, and the last of them is that of `step`. -/

namespace Sys2Proof.Machine

/-- What a step hands on: t's memory is in its form if s's is (log 8), and no surge window of t has more than 8 grants if none of s has (02 R45). The two go together because the same case analysis
gives both: all but a few operations change neither part of the state. -/
def Keeps (s t : State) : Prop :=
  (Memory.wf s.mem = true → Memory.wf t.mem = true) ∧ ((∀ a ∈ s.surges, a.grants ≤ 8) → ∀ a ∈ t.surges, a.grants ≤ 8)

/-- The state that a computation may end in, if it ends in one, is one that z keeps to: of an outcome, of an attempt, of a choice. -/
def OutKeeps (z : State) : Host.Outcome State Fault Refusal → Prop
  | .next t => Keeps z t
  | _ => True

def TryKeeps {α ε : Type} (z : State) (st : α → State) : Except ε α → Prop
  | .ok a => Keeps z (st a)
  | .error _ => True

def OptKeeps {α : Type} (z : State) (st : α → State) : Option α → Prop
  | some a => Keeps z (st a)
  | none => True

/-- Both states of a context: the one its word has issued in, and the one in which it has not. -/
def CtxKeeps (z : State) (c : Ctx) : Prop := Keeps z c.s ∧ Keeps z c.held

variable {z s t : State} {c : Ctx} {α β ε : Type}

/-! ### Combining -/

protected theorem Keeps.refl (s : State) : Keeps s s := ⟨id, id⟩

protected theorem Keeps.foldl {l : List α} {f : State → α → State} (h : Keeps z s) (hf : ∀ {t} a, Keeps z t → Keeps z (f t a)) : Keeps z (l.foldl f s) :=
  l.foldlRecOn f h (fun _ k a _ => hf a k)

/-- A loop that carries more than the state. -/
theorem keeps_foldl_of {st : β → State} {l : List α} {f : β → α → β} {b : β} (h : Keeps z (st b)) (hf : ∀ {b} a, Keeps z (st b) → Keeps z (st (f b a))) :
    Keeps z (st (l.foldl f b)) :=
  l.foldlRecOn (motive := fun b => Keeps z (st b)) f h (fun _ k a _ => hf a k)

theorem OutKeeps.keeps {o : Host.Outcome State Fault Refusal} (h : OutKeeps z o) (ho : o = .next t) : Keeps z t := by
  subst ho; exact h

theorem TryKeeps.keeps {st : α → State} {e : Except ε α} {a : α} (h : TryKeeps z st e) (he : e = .ok a) : Keeps z (st a) := by
  subst he; exact h

theorem OptKeeps.keeps {st : α → State} {o : Option α} {a : α} (h : OptKeeps z st o) (ho : o = some a) : Keeps z (st a) := by
  subst ho; exact h

theorem OptKeeps.getD {o : Option State} (h : OptKeeps z (fun s => s) o) (hs : Keeps z s) : Keeps z (o.getD s) := by
  cases o with
  | none => exact hs
  | some t => exact h

theorem OptKeeps.map {st : α → State} {st' : β → State} {o : Option α} {f : α → β} (h : OptKeeps z st o) (hf : ∀ {a}, Keeps z (st a) → Keeps z (st' (f a))) :
    OptKeeps z st' (o.map f) := by
  cases o with
  | none => trivial
  | some a => exact hf h

theorem OptKeeps.bind {st : α → State} {st' : β → State} {o : Option α} {f : α → Option β} (h : OptKeeps z st o) (hf : ∀ {a}, Keeps z (st a) → OptKeeps z st' (f a)) :
    OptKeeps z st' (o.bind f) := by
  cases o with
  | none => trivial
  | some a => exact hf h

/-- What the chosen element gives, whichever it is. -/
theorem optKeeps_bind {st : β → State} {o : Option α} {f : α → Option β} (hf : ∀ a, OptKeeps z st (f a)) : OptKeeps z st (o.bind f) := by
  cases o with
  | none => trivial
  | some a => exact hf a

theorem OptKeeps.or {st : α → State} {o p : Option α} (h : OptKeeps z st o) (k : OptKeeps z st p) : OptKeeps z st (o.or p) := by
  cases o with
  | none => exact k
  | some a => exact h

theorem optKeeps_findSome? {st : β → State} {f : α → Option β} (hf : ∀ a, OptKeeps z st (f a)) (l : List α) : OptKeeps z st (l.findSome? f) := by
  cases hl : l.findSome? f with
  | none => trivial
  | some b =>
    obtain ⟨a, -, ha⟩ := List.exists_of_findSome?_eq_some hl
    exact (hf a).keeps ha

/-- A loop that may stop short. -/
theorem optKeeps_foldlM {f : State → α → Option State} (hf : ∀ {t} a, Keeps z t → OptKeeps z (fun s => s) (f t a)) (l : List α) :
    ∀ {s}, Keeps z s → OptKeeps z (fun s => s) (l.foldlM f s) := by
  induction l with
  | nil => exact id
  | cons a l ih =>
    intro s h
    rw [List.foldlM_cons]
    exact (hf a h).bind ih

/-! ### The parts of the state that are neither memory nor surge windows -/

protected theorem Keeps.setCluster (h : Keeps z s) {k} : Keeps z (setCluster s k) := by
  unfold setCluster
  split <;> exact h

protected theorem Keeps.setGroup (h : Keeps z s) {g} : Keeps z (setGroup s g) := h

protected theorem Keeps.modGroup (h : Keeps z s) {n f} : Keeps z (modGroup s n f) := h

protected theorem Keeps.setTeam (h : Keeps z s) {t} : Keeps z (setTeam s t) := h

protected theorem Keeps.setVd (h : Keeps z s) {v} : Keeps z (setVd s v) := h

protected theorem Keeps.modVd (h : Keeps z s) {n f} : Keeps z (modVd s n f) := h

protected theorem Keeps.modFields (h : Keeps z s) {p f} : Keeps z (modFields s p f) := h

protected theorem Keeps.mergeH (h : Keeps z s) {die k v} : Keeps z (mergeH s die k v) := h

protected theorem Keeps.afterFed (h : Keeps z s) {c m} : Keeps z (afterFed s c m) := h

protected theorem Keeps.afterWrite (h : Keeps z s) {c m} : Keeps z (afterWrite s c m) := h

protected theorem Keeps.freshChecks (h : Keeps z s) {ps} : Keeps z (freshChecks s ps) := h

protected theorem Keeps.postRecord (h : Keeps z s) {vd vdie r} : Keeps z (postRecord s vd vdie r) := h

protected theorem Keeps.dropReq (h : Keeps z s) {id} : Keeps z (dropReq s id) := h

protected theorem Keeps.putReq (h : Keeps z s) {r} : Keeps z (putReq s r) := h

protected theorem Keeps.moveReq (h : Keeps z s) {r} : Keeps z (moveReq s r) := h

/-! ### Memory -/

protected theorem Keeps.of_homeOnly (h : Keeps z s) (hr : HomeOnly s t) (hw : Memory.wf s.mem = true → Memory.wf t.mem = true) : Keeps z t := by
  rw [hr]; exact ⟨hw ∘ h.1, h.2⟩

protected theorem Keeps.of_maps (h : Keeps z s) (hm : Maps s t) : Keeps z t := by
  rw [hm.rest]; exact ⟨hm.form ∘ h.1, h.2⟩

/-- A range of bytes written, or cleared, keeps the form. -/
protected theorem Keeps.wrBytes (h : Keeps z s) {a v n : Nat} : Keeps z { s with mem := wrBytes s.mem a v n } := ⟨fun w => Laws.wf_wrBytes (h.1 w) _ _ _, h.2⟩

protected theorem Keeps.wrList (h : Keeps z s) {a : Nat} {l : List (BitVec 8)} : Keeps z { s with mem := wrList s.mem a l } := ⟨fun w => Laws.wf_wrList (h.1 w) _ _, h.2⟩

protected theorem Keeps.scrub (h : Keeps z s) {base len : Nat} : Keeps z (scrub s base len) := ⟨fun w => wf_scrub (h.1 w) _ _, h.2⟩

protected theorem Keeps.putCell (h : Keeps z s) {c x} : Keeps z (putCell s c x) := h.wrBytes

protected theorem Keeps.putSibs (h : Keeps z s) {vd c l n} : Keeps z (putSibs s vd c l n) := h.putCell (c := c)

protected theorem Keeps.takeEntry (h : Keeps z s) {c} (ht : takeEntry s c = some t) : Keeps z t := by
  rw [takeEntry_some ht]; exact h

protected theorem Keeps.writeCell (h : Keeps z s) {w c m x} : Keeps z (writeCell s w c m x).2 := h.of_homeOnly (writeCell_rest ..) (wf_writeCell · ..)

protected theorem Keeps.writeHome (h : Keeps z s) {w pa n x} : Keeps z (writeHome s w pa n x).2 := h.writeCell

protected theorem Keeps.deviceWrite (h : Keeps z s) {pa l} : Keeps z (deviceWrite s pa l) := h.of_homeOnly (deviceWrite_rest ..) (wf_deviceWrite _ · _)

protected theorem Keeps.postIntegrity (h : Keeps z s) {vd pa} : Keeps z (postIntegrity s vd pa) := by
  unfold postIntegrity
  split <;> exact h

protected theorem Keeps.bumpCount (h : Keeps z s) {vd die} : Keeps z (bumpCount s vd die) := by
  unfold bumpCount
  dsimp only
  repeat' split
  all_goals exact h

protected theorem Keeps.writeBackCell (h : Keeps z s) {ws} : Keeps z (writeBackCell s ws) := by
  unfold writeBackCell
  split
  · exact h
  · dsimp only
    split <;> exact h.writeCell

protected theorem Keeps.writeBack (h : Keeps z s) {p} : Keeps z (writeBack s p) :=
  Keeps.foldl (Keeps.foldl h fun _ k => k.writeBackCell) fun _ k => k.postIntegrity

protected theorem Keeps.recallWords (h : Keeps z s) {die p} : Keeps z (recallWords s die p) := h.writeBack

protected theorem Keeps.recallSpan (h : Keeps z s) {die p ws} : Keeps z (recallSpan s die p ws) := h.writeBack

protected theorem Keeps.releasePkg (h : Keeps z s) {vd die} : Keeps z (releasePkg s vd die) := h.writeBack.bumpCount

protected theorem Keeps.acquirePkg (h : Keeps z s) {vd die ws} : Keeps z (acquirePkg s vd die ws) := by
  unfold acquirePkg
  dsimp only
  refine Keeps.foldl ?_ fun _ k => k
  split <;> exact h.writeBack

protected theorem Keeps.mapFor (h : Keeps z s) {vd gpa pa len flags} : OptKeeps z (fun s => s) (mapFor s vd gpa pa len flags) := by
  cases hm : mapFor s vd gpa pa len flags with
  | none => trivial
  | some t => exact h.of_maps (maps_mapFor hm)

protected theorem Keeps.mapSaveArea (h : Keeps z s) {vd d gpa} : OptKeeps z (fun s => s) (mapSaveArea s vd d gpa) :=
  h.mapFor.bind fun h => h.mapFor.bind fun h => h.mapFor

protected theorem Keeps.translate (h : Keeps z s) {v die vdie slice asid user kind size va} :
    TryKeeps z Prod.snd (translate s v die vdie slice asid user kind size va) := by
  unfold translate
  split
  · exact h
  · split
    · trivial
    · exact h

protected theorem Keeps.translateReq (h : Keeps z s) {r} : TryKeeps z Prod.snd (translateReq s r) := by
  unfold translateReq
  dsimp only
  split
  · trivial
  · rename_i p hp
    split
    · trivial
    · split at hp
      · cases hp; exact h
      · exact h.translate.keeps hp

/-! ### Issue -/

protected theorem CtxKeeps.writeDst (h : CtxKeeps z c) {n d k f} : CtxKeeps z (writeDst c n d k f) := by
  unfold writeDst
  split
  · exact h
  · split <;> exact h

protected theorem CtxKeeps.putResult (h : CtxKeeps z c) {u n d k f} : CtxKeeps z (putResult c u n d k f) := by
  unfold putResult
  dsimp only
  split <;> exact h.writeDst

protected theorem CtxKeeps.setG (h : CtxKeeps z c) {g : Group} : CtxKeeps z { c with g := g } := h

protected theorem CtxKeeps.setS (h : CtxKeeps z c) (hs : Keeps z s) : CtxKeeps z { c with s := s } := ⟨hs, h.2⟩

protected theorem CtxKeeps.setReqs (h : CtxKeeps z c) {rs : List Req} : CtxKeeps z { c with s := { c.s with reqs := rs } } := h

protected theorem CtxKeeps.push (h : CtxKeeps z c) {k} : CtxKeeps z (c.push k) := h

protected theorem CtxKeeps.putPred (h : CtxKeeps z c) {u pd f} : CtxKeeps z (putPred c u pd f) := h.setG

protected theorem CtxKeeps.putF32 (h : CtxKeeps z c) {u n d f} : CtxKeeps z (putF32 c u n d f) := h.setG.putResult

protected theorem CtxKeeps.putUni (h : CtxKeeps z c) {n d k x} : CtxKeeps z (putUni c n d k x) := h.writeDst

protected theorem CtxKeeps.finish (h : CtxKeeps z c) : Keeps z c.finish := h.1

protected theorem CtxKeeps.commit (h : CtxKeeps z c) : Keeps z c.commit := h.1

protected theorem CtxKeeps.hold (h : CtxKeeps z c) : Keeps z c.hold := h.2

protected theorem CtxKeeps.raiseTrap (h : CtxKeeps z c) {x : Trap} : Keeps z (raiseTrap c x) := h.1

theorem keeps_finishIssue {body : Ctx → Except Trap State} (h : CtxKeeps z c) (hb : TryKeeps z (fun s => s) (body c)) : Keeps z (finishIssue c body) := by
  unfold finishIssue
  split
  next hs => exact hb.keeps hs
  · exact h.raiseTrap

/-- A word's body that keeps, in whatever context, keeps when it is issued. -/
protected theorem Keeps.issue {i : Instr} {body : Ctx → Except Trap State} (h : Keeps z s) (hb : ∀ {c}, CtxKeeps z c → TryKeeps z (fun s => s) (body c)) : OutKeeps z (issue i s body) := by
  unfold issue
  split
  · trivial
  split
  · trivial
  extract_lets cycle g fi p held
  split
  · trivial
  split
  · trivial
  extract_lets f1 bond f base c t
  have hc : CtxKeeps z c := ⟨h, h⟩
  have ht : Keeps z t := by
    unfold t
    split
    · exact h
    · split
      · exact hc.raiseTrap
      · split
        · exact h
        · exact keeps_finishIssue hc (hb hc)
  split
  · exact ht
  · change Keeps z (ite ..)
    split <;> exact ht

protected theorem Keeps.plain {i : Instr} {op : Ctx → Ctx} (h : Keeps z s) (hop : ∀ {c}, CtxKeeps z c → CtxKeeps z (op c)) : OutKeeps z (plain i s op) :=
  h.issue fun hc => (hop hc).finish

protected theorem Keeps.issueBad (h : Keeps z s) {x} : OutKeeps z (issueBad x s) := by
  unfold issueBad
  split
  · trivial
  split
  · trivial
  extract_lets g fi
  split
  · trivial
  split
  · trivial
  extract_lets f
  split
  · exact h
  · split <;> exact h

protected theorem Keeps.issueFetchFault (h : Keeps z s) {x} : OutKeeps z (issueFetchFault x s) := by
  unfold issueFetchFault
  split
  · trivial
  split
  · trivial
  split
  · trivial
  split
  · trivial
  split <;> exact h

protected theorem Keeps.issueDue (h : Keeps z s) {x} : OutKeeps z (issueDue x s) := by
  unfold issueDue
  split
  · trivial
  split
  · trivial
  split
  · trivial
  split <;> exact h

/-! ### Control -/

protected theorem CtxKeeps.jumpTo (h : CtxKeeps z c) {pc} : Keeps z (jumpTo c pc) := h.1

protected theorem CtxKeeps.putGroup (h : CtxKeeps z c) {g} : Keeps z (putGroup c g) := h.1

protected theorem CtxKeeps.spread (h : CtxKeeps z c) {t : Nat → DWord} : TryKeeps z (fun s => s) (spread c t) := by
  unfold spread
  split
  · exact h.jumpTo
  · exact h.jumpTo
  · split
    · exact h.putGroup
    · trivial

protected theorem CtxKeeps.indirect (h : CtxKeeps z c) {a link} : TryKeeps z (fun s => s) (indirect c a link) := by
  unfold indirect
  extract_lets t bad
  split
  · exact h.hold
  split
  · trivial
  · refine CtxKeeps.spread ?_
    split <;> exact h

protected theorem CtxKeeps.openEntry {c' : Ctx} (h : CtxKeeps z c) {e} (ho : openEntry c e = .ok c') : CtxKeeps z c' := by
  unfold openEntry at ho
  split at ho <;> cases ho
  exact h

/-! ### Memory words -/

protected theorem CtxKeeps.siblimTrap (h : CtxKeeps z c) {x} : Keeps z (siblimTrap c x) := h.1

/-- What comes of a release: a state that z keeps to, whichever way it goes. -/
def RelKeeps (z : State) : Rel → Prop
  | .go c => CtxKeeps z c
  | .wait s => Keeps z s
  | .trap _ => True

protected theorem CtxKeeps.release (h : CtxKeeps z c) {o} : RelKeeps z (release c o) := by
  unfold release
  split
  · exact h
  split
  · exact h.2
  split
  · trivial
  split
  · exact h
  extract_lets die r
  split
  · exact h.2.writeBack
  · exact ⟨h.1.releasePkg, h.2⟩

protected theorem CtxKeeps.withRelease (h : CtxKeeps z c) {o} {k : Ctx → Except Trap State} (hk : ∀ {c}, CtxKeeps z c → TryKeeps z (fun s => s) (k c)) : TryKeeps z (fun s => s) (withRelease c o k) := by
  have hr := h.release (o := o)
  unfold withRelease
  generalize release c o = r at hr
  cases r with
  | go c' => exact hk hr
  | wait s => exact hr
  | trap t => exact h.siblimTrap

protected theorem CtxKeeps.quietRelease (h : CtxKeeps z c) {o} {k : Ctx → Except Trap State} (hk : ∀ {c}, CtxKeeps z c → TryKeeps z (fun s => s) (k c)) : TryKeeps z (fun s => s) (quietRelease c o k) := by
  unfold quietRelease
  split
  · exact hk h
  split
  · exact h.hold
  split
  · exact hk h
  · exact hk ⟨h.1.releasePkg, h.2⟩

protected theorem CtxKeeps.launchFlight (h : CtxKeeps z c) {x} : CtxKeeps z (c.launchFlight x) := h

protected theorem CtxKeeps.sendLines (h : CtxKeeps z c) {x op n uni nc bypass as} : CtxKeeps z (sendLines c x op n uni nc bypass as) := h

protected theorem CtxKeeps.countSram (h : CtxKeeps z c) {i x} : CtxKeeps z (countSram c i x) := h

protected theorem CtxKeeps.block (h : CtxKeeps z c) {w} : Keeps z (c.block w) := h.1

protected theorem CtxKeeps.loadBody (h : CtxKeeps z c) {i d a u nc o op n k un ea} : TryKeeps z (fun s => s) (loadBody i c d a u nc o op n k un ea) := by
  unfold loadBody
  split
  · trivial
  extract_lets ls ks x bypass c1
  split
  · exact h.hold
  · exact h.sendLines.finish

protected theorem Keeps.load (h : Keeps z s) {i w k} : OutKeeps z (load i w k s) := h.issue fun hc => hc.loadBody

protected theorem Keeps.store (h : Keeps z s) {i w k} : OutKeeps z (store i w k s) := by
  refine h.issue fun {c} hc => ?_
  extract_lets n ea ls ks
  split
  · trivial
  · refine hc.withRelease fun {c} hc => ?_
    split
    · exact hc.hold
    extract_lets as y x ws asid c1 c2
    have h2 : CtxKeeps z c2 := CtxKeeps.sendLines (c := c1) hc
    exact h2.setG.finish

protected theorem Keeps.fenceDone (h : Keeps z s) {vd die scope} : Keeps z (fenceDone s vd die scope) := by
  unfold fenceDone
  split
  · exact h.releasePkg.acquirePkg
  · exact h

/-! ### Atomics -/

protected theorem Keeps.atWord (h : Keeps z s) {i w op n nb lead acc fl pushes acquires} : OutKeeps z (atWord i w op n nb lead acc fl pushes acquires s) := by
  refine h.issue fun {c} hc => ?_
  extract_lets ea
  split
  · trivial
  · refine hc.withRelease fun {c} hc => ?_
    split
    · exact hc.hold
    extract_lets ls x c1 c2
    have h2 : CtxKeeps z c2 := hc.sendLines.setG
    refine CtxKeeps.finish ?_
    split <;> exact h2

protected theorem Keeps.waita (h : Keeps z s) {i w timed} : OutKeeps z (waita i w timed s) := by
  refine h.issue fun {c} hc => ?_
  extract_lets l ea
  split
  · trivial
  · exact hc.withRelease fun hc => hc.sendLines.finish

/-! ### Barriers -/

protected theorem Keeps.barOp (h : Keeps z s) {team off f} : Keeps z (barOp s team off f) := by
  unfold barOp
  split
  · exact h
  extract_lets k o o' s'
  have hs : Keeps z s' := h.setCluster
  split
  · exact hs
  split <;> exact hs

protected theorem CtxKeeps.barChecked {a} {k : Nat → BarObj → Except Trap State} (hk : ∀ off o, TryKeeps z (fun s => s) (k off o)) : TryKeeps z (fun s => s) (barChecked c a k) := by
  unfold barChecked
  split
  · trivial
  · exact hk _ _

protected theorem Keeps.bar (h : Keeps z s) {i a} {k : Ctx → Nat → BarObj → Except Trap State} (hk : ∀ {c}, CtxKeeps z c → ∀ off o, TryKeeps z (fun s => s) (k c off o)) :
    OutKeeps z (bar i a s k) :=
  h.issue fun hc => CtxKeeps.barChecked (hk hc)

protected theorem Keeps.arrive (h : Keeps z s) {i a n bad} : OutKeeps z (arrive i a n bad s) := by
  refine h.bar fun {c} hc off o => ?_
  split
  · trivial
  split
  · trivial
  split
  · trivial
  split
  · trivial
  split
  · exact hc.siblimTrap
  extract_lets ws x
  split
  · exact hc.finish.barOp
  · exact hc.launchFlight.finish

protected theorem Keeps.lateArrival (h : Keeps z s) {team off n} : Keeps z (lateArrival s team off n) := by
  unfold lateArrival
  split
  · exact h
  extract_lets o
  split
  · exact h
  · exact h.barOp

protected theorem Keeps.performArrivals (h : Keeps z s) {gid} : Keeps z (performArrivals s gid) := by
  unfold performArrivals
  split
  · exact h
  · exact Keeps.foldl h fun _ k => k.lateArrival

/-! ### Launches -/

protected theorem Keeps.expire (h : Keeps z s) {v} : Keeps z (expire s v) := by
  unfold expire
  split
  · exact h
  split
  · exact h
  split <;> exact h

protected theorem Keeps.expireDue (h : Keeps z s) : Keeps z (expireDue s) := by
  refine Keeps.foldl h fun _ k => ?_
  split
  · exact k
  · exact k.expire

protected theorem Keeps.abortRecal (h : Keeps z s) {vd} : Keeps z (abortRecal s vd) := by
  unfold abortRecal
  split
  · exact h
  split
  · exact h.modFields.expireDue
  · exact h

protected theorem Keeps.wakeEvent (h : Keeps z s) {vd f} : Keeps z (wakeEvent s vd f) := h.modVd.abortRecal

protected theorem Keeps.touchEvent (h : Keeps z s) {vd cause} : Keeps z (touchEvent s vd cause) := h.abortRecal

protected theorem Keeps.completeLaunch (h : Keeps z s) {vd num} : Keeps z (completeLaunch s vd num) := by
  unfold completeLaunch
  split
  · exact h
  split
  · exact h
  split
  · exact h
  split
  · exact h.writeBack
  · exact h

protected theorem Keeps.advance (h : Keeps z s) {vd num} : Keeps z (advance s vd num) := by
  unfold advance
  split
  · exact h
  split
  · exact h
  split
  · exact h
  · exact h.setVd.completeLaunch

protected theorem Keeps.countRetired (h : Keeps z s) {vd num node n} : Keeps z (countRetired s vd num node n) := h.modVd.advance

protected theorem Keeps.processLaunch (h : Keeps z s) {vd num} : Keeps z (processLaunch s vd num) := by
  unfold processLaunch
  split
  · exact h
  · exact h.advance

protected theorem Keeps.launchWrite (h : Keeps z s) {vd off size w} : Keeps z (launchWrite s vd off size w) := by
  unfold launchWrite
  split
  · exact h
  split
  · exact h
  split
  · exact h.wakeEvent
  · exact h.wakeEvent.processLaunch

protected theorem Keeps.wakeWrite (h : Keeps z s) {vd size} : Keeps z (wakeWrite s vd size) := by
  unfold wakeWrite
  split
  · exact h.wakeEvent
  · exact h

protected theorem Keeps.feWrite (h : Keeps z s) {vd off size w} : Keeps z (feWrite s vd off size w) := by
  unfold feWrite
  split
  · exact h.launchWrite
  split
  · exact h.wakeWrite
  · exact h

/-! ### Requests at their homes -/

protected theorem Keeps.storeHome (h : Keeps z s) {w pa n v} : Keeps z (storeHome s w pa n v).2 := by
  unfold storeHome
  split
  · exact h.writeHome
  · exact h.writeHome.writeHome

protected theorem Keeps.setHome (h : Keeps z s) {r x pa n v} : Keeps z (setHome s r x pa n v) := by
  unfold setHome
  split
  · exact h.mergeH.putSibs.afterFed
  · exact h.writeHome

protected theorem Keeps.grantWords (h : Keeps z s) {r x} : Keeps z (grantWords s r x) := by
  unfold grantWords
  extract_lets ws s1 short stale old s2 s3
  have h1 : Keeps z s1 := h.recallSpan
  have h2 : Keeps z s2 := by
    unfold s2
    split <;> exact h1
  refine Keeps.foldl (s := s3) h2 fun _ k => ?_
  split <;> exact k

protected theorem Keeps.writeCopy (h : Keeps z s) {r x a} : Keeps z (writeCopy s r x a) := h

protected theorem Keeps.performAtomic {r x o a} {p : State × Req} (h : Keeps z p.1) : Keeps z (performAtomic r x o p a).1 := by
  unfold performAtomic
  extract_lets s pa old
  split
  · exact h
  · exact Keeps.setHome h

protected theorem Keeps.mergeRed (h : Keeps z s) {req} : Keeps z (mergeRed req s) := by
  unfold mergeRed
  split
  · exact h
  split
  · split
    · exact h
    extract_lets ps f k
    split <;> exact h
  · exact h

protected theorem Keeps.performRed {r x o a} {p : State × Req} (h : Keeps z p.1) : Keeps z (performRed r x o p a).1 := by
  unfold performRed
  extract_lets s pa no refuse all tell
  have hall : Keeps z (all s) := Keeps.setHome h
  split
  · exact h
  · split
    · exact h
    split
    · exact h
    · exact hall
  · split
    · exact h
    · exact hall

protected theorem Keeps.performRcn {r x a} {p : State × Req} (h : Keeps z p.1) : Keeps z (performRcn r x p a).1 := by
  unfold performRcn
  extract_lets s pa status
  change Keeps z (ite ..)
  split
  · exact Keeps.setHome h
  · exact h

protected theorem Keeps.performStore {r x a} {p : State × Req} (h : Keeps z p.1) : Keeps z (performStore r x p a).1 := h.storeHome

protected theorem Keeps.performWaita (h : Keeps z s) {r x timed a} : Keeps z (performWaita s r x timed a) := by
  unfold performWaita
  extract_lets pa hm v done limit
  repeat' split
  all_goals exact h

protected theorem Keeps.performWake (h : Keeps z s) {all pa} : Keeps z (performWake s all pa) := by
  unfold performWake
  extract_lets on
  split <;> exact h

protected theorem Keeps.meetAtomic (h : Keeps z s) {r x hm} : Keeps z (meetAtomic s r x hm) := by
  unfold meetAtomic
  split
  · extract_lets s'
    split
    · exact h
    · exact Keeps.foldl h fun _ k => k
  · exact h

protected theorem Keeps.performAt (h : Keeps z s) {r x} : Keeps z (performAt s r x) := by
  unfold performAt
  extract_lets hm remote answer start span mine words clean drop
  have hclean : Keeps z (clean s) := by
    change Keeps z (ite ..)
    split
    · exact h.writeBack
    · exact h
  have hdrop : Keeps z (drop s) := by
    refine Keeps.meetAtomic ?_
    split
    · exact h.recallSpan
    · exact h
  have hloop : ∀ {f : State × Req → Access → State × Req}, (∀ {p} a, Keeps z p.1 → Keeps z (f p a).1) → Keeps z (r.lanes.foldl f (drop s, start)).1 :=
    fun hf => keeps_foldl_of (st := Prod.fst) hdrop hf
  split
  case h_1 | h_2 =>
    split
    · exact h.grantWords
    · exact hclean
  · exact hclean
  · exact hclean
  · split
    · exact Keeps.foldl (f := fun s a => writeCopy s r x a) h.grantWords fun _ k => k.writeCopy
    · exact hloop fun _ k => k.performStore
  · exact hloop fun _ k => k.performAtomic
  · exact hloop fun _ k => k.performRed
  · exact hloop fun _ k => k.performRcn
  · split
    · exact hdrop.performWaita
    · exact h
  · exact hdrop.performWake
  · exact h

protected theorem Keeps.performDevice {r x n a} {p : State × Req} (h : Keeps z p.1) : Keeps z (performDevice r x n p a).1 := by
  unfold performDevice
  extract_lets s pa
  split
  · exact Keeps.feWrite h
  all_goals exact h

protected theorem Keeps.performDevices (h : Keeps z s) {r x} : Keeps z (performDevices s r x) :=
  keeps_foldl_of (st := Prod.fst) (f := performDevice r x s.freeCtr) (b := (_, _)) h fun _ k => k.performDevice

protected theorem Keeps.performFar {r x n a} {p : State × Req} (h : Keeps z p.1) : Keeps z (performFar r x n p a).1 := by
  unfold performFar
  extract_lets s pa give
  split
  · split
    · exact Keeps.wrBytes h
    all_goals exact h
  · split <;> exact h

protected theorem Keeps.performFars (h : Keeps z s) {r x} : Keeps z (performFars s r x).1 := by
  unfold performFars
  extract_lets far
  refine keeps_foldl_of (st := Prod.fst) ?_ fun _ k => k.performFar
  change Keeps z (ite ..)
  split <;> exact h

protected theorem Keeps.clearBlocks (h : Keeps z s) {r x} : Keeps z (clearBlocks s r x) := by
  unfold clearBlocks
  split <;> exact h

protected theorem Keeps.performOnce (h : Keeps z s) {r x} : Keeps z (performOnce s r x) := by
  unfold performOnce
  split
  · exact h.performAt
  · exact h.performFars

protected theorem Keeps.performReq (h : Keeps z s) {r x} : Keeps z (performReq s r x) := by
  unfold performReq
  split
  · extract_lets s'
    have hs : Keeps z s' := by
      refine Keeps.performOnce ?_
      split
      · exact h.clearBlocks
      · exact h
    split
    · exact hs
    · exact hs
  · exact h.clearBlocks.performOnce

/-! ### Slices -/

protected theorem Keeps.keepPlace (h : Keeps z s) {vd die who} : Keeps z (keepPlace s vd die who) := by
  unfold keepPlace
  split <;> exact h

protected theorem Keeps.takeTurn (h : Keeps z s) {vd die who k} : Keeps z (takeTurn s vd die who k).2 := by
  unfold takeTurn
  split
  · exact h
  extract_lets need mine age
  split
  · exact h
  split
  · exact h
  · exact h.keepPlace

protected theorem Keeps.dropTicket (h : Keeps z s) {vd die who} : Keeps z (dropTicket s vd die who) := h

protected theorem Keeps.endFlight (h : Keeps z s) {gid x} : Keeps z (endFlight s gid x) := by
  unfold endFlight
  split
  · exact h
  extract_lets s1 s2
  have h2 : Keeps z s2 := by
    unfold s2
    split
    · exact Keeps.acquirePkg (s := s1) h
    · exact h
  split
  · exact h2.performArrivals
  · exact h2

protected theorem Keeps.dropRun (h : Keeps z s) {gid runId head} : Keeps z (dropRun s gid runId head) := h

protected theorem Keeps.abandonRuns (h : Keeps z s) {g runId} : Keeps z (abandonRuns s g runId) := Keeps.foldl h fun _ k => k.dropRun

protected theorem Keeps.takeBack (h : Keeps z s) {ws} : Keeps z (takeBack s ws) := by
  refine Keeps.foldl h fun _ k => ?_
  split
  · split <;> exact k
  · exact k

protected theorem Keeps.faultReq (h : Keeps z s) {r cause detail} : Keeps z (faultReq s r cause detail) := by
  unfold faultReq
  split
  · extract_lets s1 y s2
    have h1 : Keeps z s1 := h.abandonRuns
    split
    · split
      · split <;> exact h1
      · exact h1
    · exact (h1.dropReq.modGroup.modGroup).takeBack
  · exact h

protected theorem Keeps.forward (h : Keeps z s) {r x} : Keeps z (forward s r x) := by
  unfold forward
  extract_lets r' s1 pa home here mine
  have h1 : Keeps z s1 := h
  split
  · exact h1
  split
  · refine Keeps.moveReq ?_
    split
    · exact h1.recallSpan
    · exact h1.writeBack
  split
  · split
    · exact (Keeps.foldl (f := fun s a => writeCopy s r' x a) h1 fun _ k => k.writeCopy).moveReq
    · exact h1
  · exact h1

protected theorem Keeps.atEntry (h : Keeps z s) {r} : Keeps z (atEntry s r) := by
  unfold atEntry
  extract_lets run free
  split
  · split
    · exact h.forward
    · exact h
  split
  · split
    · exact h
    split
    · exact h
    · exact h.faultReq
  next p hp =>
    have hp : Keeps z p.2 := h.translateReq.keeps hp
    split
    · exact hp
    split
    · exact hp.forward
    · exact hp

protected theorem Keeps.holdBack (h : Keeps z s) {r} : Keeps z (holdBack s r) := h.takeBack

protected theorem Keeps.l1Evict (h : Keeps z s) {site} : Keeps z (l1Evict s site) := by
  unfold l1Evict
  extract_lets f k
  have hf : Keeps z f.2 := h
  split
  · exact hf.setCluster
  · exact h

protected theorem Keeps.l1Fit {n : Nat} (h : Keeps z s) {site} : Keeps z (l1Fit n s site) := by
  induction n generalizing s with
  | zero => exact h
  | succ n ih =>
    unfold l1Fit
    extract_lets k
    split
    · exact h
    · exact ih h.l1Evict

protected theorem Keeps.fillL1 (h : Keeps z s) {r} : Keeps z (fillL1 s r) := by
  unfold fillL1
  split
  · exact h
  · exact h.setCluster.l1Fit

protected theorem Keeps.arriveReply (h : Keeps z s) {r x} : Keeps z (arriveReply s r x) := by
  unfold arriveReply
  extract_lets y s1
  have h1 : Keeps z s1 := h.dropReq.fillL1.modGroup
  split
  · exact h1.endFlight
  · exact h1

protected theorem Keeps.wakeWaiter (h : Keeps z s) {m reason value vec} : Keeps z (wakeWaiter s m reason value vec) := by
  unfold wakeWaiter
  extract_lets s1
  have h1 : Keeps z s1 := h
  split
  · exact h1
  · exact h1.modGroup.endFlight

/-! ### The Dray -/

protected theorem Keeps.dray (h : Keeps z s) {i w k f} : OutKeeps z (dray i w k f s) := by
  refine h.issue fun {c} hc => ?_
  extract_lets atom a r busy go
  split
  · trivial
  have hgo : ∀ {c}, CtxKeeps z c → TryKeeps z (fun s => s) (go c) := by
    intro c hc
    unfold go
    split
    · exact hc.hold
    · exact hc.1
  split
  · exact hc.hold
  split
  · exact hc.withRelease hgo
  · exact hc.quietRelease hgo

protected theorem Keeps.drayXl (h : Keeps z s) {d kind n va} : TryKeeps z Prod.snd (drayXl s d kind n va) := by
  unfold drayXl
  split
  · extract_lets slice
    split
    · trivial
    split
    · trivial
    next hp => exact h.translate.keeps hp
  · trivial

protected theorem Keeps.readPiece (h : Keeps z s) {d want va n} : TryKeeps z (fun r => r.2.2) (readPiece s d want va n) := by
  unfold readPiece
  split
  · trivial
  next x s1 hx =>
    have h1 : Keeps z s1 := h.drayXl.keeps hx
    extract_lets pa
    split
    · trivial
    split
    · split <;> exact h1
    split
    · exact h1
    split
    · trivial
    · exact h1.writeBack

protected theorem Keeps.readRange {f : Nat} (h : Keeps z s) {d want va n} : TryKeeps z (fun r => r.2.2) (readRange d want f s va n) := by
  induction f generalizing s va n with
  | zero => exact h
  | succ f ih =>
    unfold readRange
    split
    · exact h
    extract_lets k
    split
    · trivial
    next hp =>
      split
      · trivial
      next s2 hr =>
        have h2 : Keeps z s2 := (ih (h.readPiece.keeps hp)).keeps hr
        exact h2

protected theorem Keeps.writeCells {f : Nat} (h : Keeps z s) {d x va pa bs} : Keeps z (writeCells d x va f s pa bs) := by
  induction f generalizing s va pa bs with
  | zero => exact h
  | succ f ih =>
    unfold writeCells
    split
    · exact h
    extract_lets k o
    refine ih ?_
    split
    · exact h.writeCell
    · exact h.writeCell.modGroup

protected theorem Keeps.writePiece (h : Keeps z s) {d want va bs} : TryKeeps z (fun s => s) (writePiece s d want va bs) := by
  unfold writePiece
  extract_lets n
  split
  · trivial
  next x s1 hx =>
    have h1 : Keeps z s1 := h.drayXl.keeps hx
    extract_lets pa s2
    split
    · trivial
    split
    · split
      · exact h1.feWrite
      · exact h1
    split
    · exact h1
    split
    · trivial
    split
    · exact h1.freshChecks.wrList
    · exact h1.freshChecks.writeCells

protected theorem Keeps.writeRange {f : Nat} (h : Keeps z s) {d want va bs} : TryKeeps z (fun s => s) (writeRange d want f s va bs) := by
  induction f generalizing s va bs with
  | zero => exact h
  | succ f ih =>
    unfold writeRange
    split
    · exact h
    extract_lets k
    split
    · trivial
    next hw => exact ih (h.writePiece.keeps hw)

protected theorem Keeps.readPlace (h : Keeps z s) {d want p n} : TryKeeps z (fun r => r.2.2) (readPlace s d want p n) := by
  unfold readPlace
  split
  · exact h.readRange
  · exact h

protected theorem Keeps.readSource (h : Keeps z s) {d want p n} : TryKeeps z (fun r => r.2.2.1) (readSource s d want p n) := by
  unfold readSource
  extract_lets have_ front
  split
  · trivial
  next hr => exact h.readPlace.keeps hr

protected theorem Keeps.creditBar (h : Keeps z s) {team b n} : Keeps z (creditBar s team b n) := h.barOp

protected theorem Keeps.writePlace (h : Keeps z s) {d want p bs} : TryKeeps z (fun s => s) (writePlace s d want p bs) := by
  unfold writePlace
  split
  · exact h.writeRange
  split
  · exact h
  · extract_lets k s1 b
    change Keeps z (ite ..)
    split
    · exact h.setCluster
    · exact h.setCluster.creditBar

protected theorem Keeps.gcopyCell (h : Keeps z s) {d src dst} : TryKeeps z (fun s => s) (gcopyCell s d src dst) := by
  unfold gcopyCell
  split
  · trivial
  next hx =>
    split
    · trivial
    next y s2 hy =>
      have h2 : Keeps z s2 := (h.drayXl.keeps hx).drayXl.keeps hy
      extract_lets p q s3 hm merged
      have h3 : Keeps z s3 := h2.writeBack
      split
      · trivial
      split
      · trivial
      · trivial
      split
      · trivial
      split
      · trivial
      split
      · exact Keeps.afterWrite (Keeps.putCell (s := unfed (merged s3) _) h3)
      · split
        next t ht =>
          have h4 : Keeps z t := by
            split at ht
            · exact h3.takeEntry ht
            · cases ht; exact h3
          exact h4.mergeH.putSibs.afterWrite
        · exact h3

protected theorem Keeps.gcopyCells {n : Nat} (h : Keeps z s) {d a b} : TryKeeps z (fun s => s) (gcopyCells d n s a b) := by
  induction n generalizing s a b with
  | zero => exact h
  | succ n ih =>
    unfold gcopyCells
    split
    · trivial
    next hc => exact ih (h.gcopyCell.keeps hc)

protected theorem Keeps.doUnit (h : Keeps z s) {d f a m} : TryKeeps z UnitDone.s (doUnit s d f a m) := by
  unfold doUnit
  extract_lets copy put
  have hcopy : ∀ rw ww, TryKeeps z UnitDone.s (copy rw ww) := by
    intro rw ww
    unfold copy
    split
    · trivial
    next hr =>
      split
      · trivial
      next hw => exact (h.readSource.keeps hr).writePlace.keeps hw
  have hput : ∀ w bs, TryKeeps z UnitDone.s (put w bs) := by
    intro w bs
    unfold put
    split
    · trivial
    next hw => exact h.writePlace.keeps hw
  split
  case h_1 | h_2 | h_3 | h_4 =>
    split
    · trivial
    · exact hcopy _ _
  · split
    · trivial
    · exact hcopy _ _
  · split
    · trivial
    · exact hcopy _ _
  · exact hput _ _
  · exact hput _ _
  · exact hput _ _
  · split
    · split
      · trivial
      next hg => exact h.gcopyCells.keeps hg
    · trivial
  · split
    · trivial
    next hx =>
      split
      · trivial
      next hy =>
        have h2 := (h.readSource.keeps hx).readPlace.keeps hy
        extract_lets found
        split
        · exact h2
        split
        · trivial
        next hw => exact h2.writeRange.keeps hw
  · split
    · trivial
    next hx =>
      split
      · trivial
      next hy =>
        split
        · trivial
        next hw => exact ((h.readSource.keeps hx).readPlace.keeps hy).writePlace.keeps hw
  · trivial

protected theorem Keeps.emulated (h : Keeps z s) {d a m} : TryKeeps z (fun r => r.1.s) (emulated s d a m) := by
  unfold emulated
  split
  · split
    · trivial
    next hw => exact h.writePlace.keeps hw
  · split
    · trivial
    next hx =>
      split
      · trivial
      next hy => exact (h.readSource.keeps hx).readPlace.keeps hy

protected theorem Keeps.putDray (h : Keeps z s) {d} : Keeps z (putDray s d) := h

protected theorem Keeps.drayFault (h : Keeps z s) {d x e va} : Keeps z (drayFault s d x e va) := by
  unfold drayFault
  split
  · exact h
  split
  · exact h
  · exact h.abandonRuns

protected theorem Keeps.stopUnit (h : Keeps z s) {d} : ∀ {e}, Keeps z (stopUnit s d e)
  | .stall => h
  | .fault .. => h.drayFault
  | .err _ => h
  | .lost _ => h.postIntegrity.putDray

protected theorem Keeps.startPub (h : Keeps z s) {d a} : Keeps z (startPub s d a) := by
  unfold startPub
  extract_lets waits pkg s1
  split
  · exact h
  split
  · exact h
  · exact h.stopUnit
  · exact h
  · split
    · refine Keeps.putDray ?_
      unfold s1
      split
      · exact h.releasePkg
      · exact h
    split <;> exact h

protected theorem Keeps.purgeRange (h : Keeps z s) {v die slice stage2 asid base len} : Keeps z (purgeRange s v die slice stage2 asid base len) := h.recallWords

protected theorem Keeps.stopPub (h : Keeps z s) {d e} : Keeps z (stopPub s d e) := by
  unfold stopPub
  extract_lets waits
  split
  · exact h
  · refine Keeps.stopUnit ?_
    exact h

protected theorem Keeps.endDray (h : Keeps z s) {d err} : Keeps z (endDray s d err) := h

protected theorem Keeps.counterWrite (h : Keeps z s) {vd asid va f} : OptKeeps z (fun s => s) (counterWrite s vd asid va f) := by
  unfold counterWrite
  split
  · exact h
  extract_lets at_
  split
  · trivial
  split
  · exact h
  split
  · trivial
  split
  · exact h.postIntegrity
  · exact h.writeHome

protected theorem Keeps.bumpCounter (h : Keeps z s) {vd asid va} : OptKeeps z (fun s => s) (bumpCounter s vd asid va) := h.counterWrite

/-! ### Frames, stops and saves -/

protected theorem Keeps.writeFrame (h : Keeps z s) {v g why scrblk} : Keeps z (writeFrame s v g why scrblk) := h.deviceWrite

protected theorem Keeps.spillEntries (h : Keeps z s) {pa n} : OptKeeps z Prod.fst (spillEntries s pa n) := by
  unfold spillEntries
  extract_lets res sp moved rest
  split
  · trivial
  · exact h.deviceWrite.deviceWrite.deviceWrite

protected theorem Keeps.fillEntries (h : Keeps z s) {pa n} : OptKeeps z Prod.fst (fillEntries s pa n) := by
  unfold fillEntries
  extract_lets res sp exited es
  split
  · trivial
  split
  · trivial
  · exact h.deviceWrite.deviceWrite

protected theorem Keeps.dstkEdit (h : Keeps z s) {i w} {edit : State → Nat → Nat → Option (State × DWord)} (he : ∀ {s pa n}, Keeps z s → OptKeeps z Prod.fst (edit s pa n)) :
    OutKeeps z (dstkEdit i w edit s) := by
  refine h.issue fun {c} hc => ?_
  extract_lets u n done
  have hdone : OptKeeps z Prod.fst done := by
    unfold done
    split
    · exact he hc.1
    · trivial
  cases hd : done with
  | none => exact hc.putUni.finish
  | some r =>
    have hr : CtxKeeps z { c with s := r.1 } := ⟨hdone.keeps hd, hc.2⟩
    exact hr.putUni.finish

protected theorem Keeps.startQuantum (h : Keeps z s) {tid} : Keeps z (startQuantum s tid) := by
  unfold startQuantum
  split
  · exact h
  extract_lets die
  split <;> exact h

protected theorem Keeps.withdraw (h : Keeps z s) {g} : Keeps z (withdraw s g) := h.takeBack

protected theorem Keeps.freeWaits (h : Keeps z s) {gid} : Keeps z (freeWaits s gid) := by
  refine Keeps.foldl h fun _ k => ?_
  split <;> exact k.wakeWaiter

protected theorem Keeps.addOverrun (h : Keeps z s) {t} : Keeps z (addOverrun s t) := by
  unfold addOverrun
  extract_lets die mine
  split <;> exact h

protected theorem Keeps.saveGroup (h : Keeps z s) {v g why} : Keeps z (saveGroup s v g why) := by
  unfold saveGroup
  extract_lets f g' s0 s1 s2
  have h2 : Keeps z s2 := Keeps.writeFrame (s := s1) h
  split
  · exact h2.addOverrun
  · exact h2

protected theorem Keeps.postTrap (h : Keeps z s) {g} : Keeps z (postTrap s g) := by
  unfold postTrap
  extract_lets r s1
  have h1 : Keeps z s1 := by
    unfold s1
    split <;> exact h
  split <;> exact h1

protected theorem Keeps.forwardTrap (h : Keeps z s) {n} : Keeps z (forwardTrap n s) := by
  unfold forwardTrap
  split
  · exact h
  split <;> exact h

protected theorem Keeps.tellSmc (h : Keeps z s) {g} : Keeps z (tellSmc s g) := by
  unfold tellSmc
  split <;> exact h

protected theorem Keeps.saveTeam (h : Keeps z s) {v t} : Keeps z (saveTeam s v t) := by
  unfold saveTeam
  split
  · exact h
  extract_lets k s1 s2
  have h2 : Keeps z s2 := by
    unfold s2
    split
    · exact h.deviceWrite.deviceWrite
    · exact h.deviceWrite
  exact h2.setTeam

protected theorem Keeps.askKernel (h : Keeps z s) {g} : Keeps z (askKernel s g) := by
  unfold askKernel
  split <;> exact h

protected theorem Keeps.abandonPreempt (h : Keeps z s) {t} : Keeps z (abandonPreempt s t) := by
  unfold abandonPreempt
  extract_lets saved s1
  exact Keeps.startQuantum (s := setTeam s1 _) h

protected theorem Keeps.tellSavef (h : Keeps z s) {vd} : Keeps z (tellSavef s vd) := h

protected theorem Keeps.leaveIfStill (h : Keeps z s) {v tid} : Keeps z (leaveIfStill s v tid) := by
  unfold leaveIfStill
  split
  · split
    · split
      · exact h.tellSavef.abandonPreempt
      · exact h.saveTeam
    · exact h
  · exact h

protected theorem Keeps.clearSavef (h : Keeps z s) {g} : Keeps z (clearSavef s g) := by
  unfold clearSavef
  split <;> exact h

protected theorem Keeps.killGroup (h : Keeps z s) {g} : Keeps z (killGroup s g) := h

protected theorem Keeps.retireTeam (h : Keeps z s) {t} : Keeps z (retireTeam s t) := by
  have hc := (h.setTeam (t := { t with status := .retired, chans := t.chans.map (fun c => { c with count := 0, claims := [] }), saveBlk := none, grace := 0, held := none })).countRetired
    (vd := t.vd) (num := t.launch) (node := t.node) (n := 1)
  exact hc

protected theorem Keeps.advanceCycle (h : Keeps z s) {die} : Keeps z (advanceCycle s die) := by
  unfold advanceCycle
  split <;> exact h

protected theorem Keeps.bayCycle (h : Keeps z s) {site bay} : Keeps z (bayCycle s site bay) := by
  unfold bayCycle
  extract_lets die
  split
  · exact h.advanceCycle
  · exact h

/-! ### Tiles -/

protected theorem Keeps.askGrant (h : Keeps z s) {site bay cycle} : Keeps z (askGrant s site bay cycle) := by
  unfold askGrant
  extract_lets k
  split
  · split
    · exact h.setCluster
    · exact h
  · exact h

protected theorem CtxKeeps.finalise (h : CtxKeeps z c) {td rows lat} : CtxKeeps z (finalise c td rows lat) := h

protected theorem Keeps.occupy (h : Keeps z s) {site bay cycle n} : Keeps z (occupy s site bay cycle n) := h.setCluster

protected theorem CtxKeeps.mma (h : CtxKeeps z c) {i w zero} : TryKeeps z (fun s => s) (mma i w zero c) := by
  unfold mma
  split
  · trivial
  split
  · exact h.hold
  split
  · exact Keeps.askGrant h.hold
  · exact h.1.occupy

/-! ### Kernels -/

protected theorem Keeps.startKernel (h : Keeps z s) {t k pc s1} : Keeps z (startKernel s t k pc s1) := h

protected theorem Keeps.queueGroup (h : Keeps z s) {g} : Keeps z (queueGroup s g) := h

protected theorem Keeps.killLanes (h : Keeps z s) {v g m} : Keeps z (killLanes s v g m) := by
  unfold killLanes
  extract_lets pa g' k k' f kept s1
  have h1 : Keeps z s1 := h.setGroup.deviceWrite
  clear_value s1 k'
  split <;> exact h1

protected theorem Keeps.killStopped (h : Keeps z s) {g} : Keeps z (killStopped s g) := by
  unfold killStopped
  extract_lets s1
  split <;> exact h

protected theorem Keeps.eretStart (h : Keeps z s) {v hd own pc s1} : Keeps z (eretStart s v hd own pc s1).2 := by
  unfold eretStart
  split
  · exact h
  split
  · exact h
  split
  · exact h
  split <;> exact h

protected theorem Keeps.eretOn (h : Keeps z s) {v hd act pc s1} : Keeps z (eretOn c s v hd act pc s1).2 := by
  unfold eretOn
  extract_lets g own
  clear_value g own
  split
  · exact h
  split
  · exact h.eretStart
  split
  · exact h
  split
  · exact h
  split
  · exact h
  split
  · exact h.killStopped
  · split
    · exact h.killLanes.queueGroup
    · exact h
  · split <;> exact h

protected theorem Keeps.acquireRing (h : Keeps z s) {g} : Keeps z (acquireRing s g) := by
  unfold acquireRing
  split
  · exact h.acquirePkg
  · exact h

protected theorem Keeps.pinLeaves (h : Keeps z s) {on ls} : Keeps z (pinLeaves s on ls) := Keeps.foldl h fun _ k => k.deviceWrite

protected theorem Keeps.writeFrbase (h : Keeps z s) {g x} : Keeps z (writeFrbase s g x) := by
  unfold writeFrbase
  extract_lets y s1
  split
  · exact h
  · split
    · exact h
    · exact Keeps.pinLeaves (s := s1) h

protected theorem CtxKeeps.rlyAccess {p : Xl × State} (h : CtxKeeps z c) {kind va} (hp : rlyAccess c kind va = .ok (some p)) : Keeps z p.2 := by
  unfold rlyAccess at hp
  extract_lets trap die slice asid at hp
  split at hp
  · cases hp
  split at hp
  · cases hp
  split at hp
  · cases hp
  next q hq =>
    have hs : Keeps z q.2 := h.1.translate.keeps hq
    extract_lets pa at hp
    clear_value pa
    obtain rfl : p = q := by grind
    exact hs

protected theorem Keeps.seenBytes (h : Keeps z s) {vd die pa} : Keeps z (seenBytes s vd die pa).2 := by
  unfold seenBytes
  split <;> exact h

protected theorem Keeps.relaySend (h : Keeps z s) {ext vd src targets bytes} : Keeps z (relaySend s ext vd src targets bytes) := h

protected theorem Keeps.storeNow (h : Keeps z s) {x va bytes} : Keeps z (storeNow c s x va bytes) := by
  unfold storeNow
  extract_lets r ws s1 s2 refused s3
  have h1 : Keeps z s1 := h
  have h2 : Keeps z s2 := by
    unfold s2
    split
    · exact h1.clearBlocks.performAt
    · exact h1.performFars
  cases refused <;> exact h2

protected theorem Keeps.peerSends (h : Keeps z s) {vd} : Keeps z (peerSends vd s) := by
  unfold peerSends
  split
  · exact h
  extract_lets mask ts
  split <;> exact h

/-! ### Shootdowns and slice-map changes -/

protected theorem CtxKeeps.xlatAnswer (h : CtxKeeps z c) {d x} : CtxKeeps z (xlatAnswer c d x) := h.writeDst

protected theorem Keeps.xlatRelay (h : Keeps z s) {i w purge} : OutKeeps z (xlatRelay i w purge s) := by
  refine h.issue fun {c} hc => ?_
  extract_lets x base len
  refine hc.withRelease fun {c} hc => ?_
  split
  · exact hc.xlatAnswer.finish
  split
  · exact hc.xlatAnswer.finish
  split
  · exact hc.xlatAnswer.finish
  · exact hc.1

protected theorem Keeps.addBlock (h : Keeps z s) {o die slice} : Keeps z (addBlock s o die slice) := by
  unfold addBlock
  split <;> exact h

protected theorem Keeps.setLocks (h : Keeps z s) {v o die slice} : Keeps z (setLocks s v o die slice) := by
  unfold setLocks
  split <;> exact h

protected theorem Keeps.evict (h : Keeps z s) {fed reason p} : Keeps z (wakeMonitors { s with fed := fed } reason p) := h

protected theorem Keeps.setStc (h : Keeps z s) {stc} : Keeps z { s with stc := stc } := h

protected theorem Keeps.modChange (h : Keeps z s) {die f} : Keeps z (modChange s die f) := h

protected theorem Keeps.ackSlice (h : Keeps z s) {die slice} : Keeps z (ackSlice die slice s) := by
  unfold ackSlice
  split
  · exact h
  split
  · exact h
  next m _ _ =>
    extract_lets moves hv s1 s2 s3 s4
    have h1 : Keeps z s1 := Keeps.foldl h fun _ k => k.mergeH
    have h3 : Keeps z s3 := h1.evict.writeBack.recallWords
    have h4 : Keeps z s4 := by
      unfold s4
      split
      · exact h3.setStc
      · exact h3
    exact h4.modChange

protected theorem Keeps.endChange (h : Keeps z s) {die} : Keeps z (endChange die s) := by
  unfold endChange
  split
  · exact h
  extract_lets gone busy
  split
  · exact h
  · refine Keeps.expireDue ?_
    exact h

/-! ### The host -/

protected theorem Keeps.doorbell (h : Keeps z s) {fn} : Keeps z (doorbell s fn) := by
  unfold doorbell
  extract_lets m
  split
  · exact h
  · refine Keeps.touchEvent ?_
    exact h

protected theorem Keeps.reply (h : Keeps z s) {fn status result} : Keeps z (reply s fn status result) := h

protected theorem Keeps.answerHost (h : Keeps z s) {op bs} : Keeps z (answerHost s op bs) := by
  unfold answerHost
  split <;> exact h

protected theorem Keeps.abortHost (h : Keeps z s) {op} : Keeps z (abortHost s op) := h.modVd.answerHost

/-- The state of an access that goes ahead; for one that is held, z itself. -/
def aheadState (z : State) : Option (α × State) → State
  | some p => p.2
  | none => z

protected theorem Keeps.hostXl (h : Keeps z s) {v op} : TryKeeps z (aheadState z) (hostXl s v op) := by
  unfold hostXl
  extract_lets die kind
  clear_value die kind
  refine List.foldlRecOn (motive := TryKeeps z (aheadState z)) _ _ h fun a ha p _ => ?_
  split
  · trivial
  · exact Keeps.refl z
  · extract_lets va slice
    split
    · exact Keeps.refl z
    split
    · trivial
    next hr => exact (Keeps.translate ha).keeps hr

protected theorem Keeps.hostBytes (h : Keeps z s) {ps} : Keeps z (hostBytes s ps).2 := keeps_foldl_of (st := Prod.snd) (b := (_, _)) h fun _ k => k

protected theorem Keeps.hostWrite (h : Keeps z s) {vd fed pa n x} : Keeps z (hostWrite s vd fed pa n x) := h.writeHome

protected theorem Keeps.hostAccess (h : Keeps z s) {op} : Keeps z (hostAccess s op).2 := by
  unfold hostAccess
  split
  · exact h
  split
  · exact h.advance
  split
  · exact h
  split
  · exact h.abortHost
  split
  · exact h.abortHost
  · exact h
  next ps s1 hx =>
    have h1 : Keeps z s1 := h.hostXl.keeps hx
    extract_lets cover
    split
    · exact h1
    split
    · split
      · exact h1.abortHost
      · refine Keeps.foldl h1.freshChecks fun p k => ?_
        extract_lets pa
        split
        · split
          · exact k.feWrite
          · exact k
        · exact k.hostWrite
    split
    · exact h1.postIntegrity.abortHost
    · exact h1.hostBytes.answerHost

protected theorem Keeps.retryHost {n : Nat} (h : Keeps z s) {vd} : Keeps z (retryHost n s vd) := by
  induction n generalizing s with
  | zero => exact h
  | succ n ih =>
    unfold retryHost
    split
    · exact h
    extract_lets r
    have hr : Keeps z r.2 := h.hostAccess
    split
    · exact ih hr
    · exact h

/-! ### Registration and the mailbox -/

protected theorem Keeps.copyPages (h : Keeps z s) {v ps b} : Keeps z (copyPages s v ps b) := by
  induction ps generalizing s b with
  | nil => exact h
  | cons p ps ih => exact ih (Keeps.deviceWrite (s := forget s _ _) h)

protected theorem Keeps.copyImages (h : Keeps z s) {v r ims} : Keeps z (copyImages s v r ims) := Keeps.foldl h fun _ k => k.copyPages.copyPages

protected theorem Keeps.registerSettled (h : Keeps z s) {v asid va} : Keeps z (registerSettled s v asid va).2 := by
  unfold registerSettled
  split
  · exact h
  split
  · exact h
  · extract_lets n ims g
    exact Keeps.copyImages (s := { s with freeCtr := s.freeCtr + 1 }) h

protected theorem Keeps.registerGraph (h : Keeps z s) {v asid va} : Keeps z (registerGraph s v asid va).2 := h.writeBack.registerSettled

protected theorem Keeps.serveSyscall (h : Keeps z s) {gid} : Keeps z (serveSyscall gid s) := by
  unfold serveSyscall
  split
  · exact h
  split
  · exact h
  split
  · exact h
  · extract_lets r
    have hr : Keeps z r.2 := h.registerGraph
    refine Keeps.deviceWrite ?_
    exact hr

protected theorem Keeps.mailboxOp (h : Keeps z s) {fn code} {k : State → Vd → Mbox → State} (hk : ∀ {s v m}, Keeps z s → Keeps z (k s v m)) : Keeps z (mailboxOp s fn code k) := by
  unfold mailboxOp
  split
  · exact h
  split
  · exact h
  extract_lets s1
  have h1 : Keeps z s1 := h.doorbell
  split
  · split
    · exact hk h1
    · exact h1
  · exact h1

protected theorem Keeps.setAbort (h : Keeps z s) {vd asid va} : OptKeeps z (fun s => s) (setAbort s vd asid va) := h.counterWrite

protected theorem Keeps.abortTag (h : Keeps z s) {tag} : OptKeeps z (fun s => s) (abortTag s tag) := by
  unfold abortTag
  split
  · exact h
  · exact (optKeeps_foldlM (fun _ k => k.setAbort) _ h).map fun k => k

protected theorem Keeps.execHomePerform (h : Keeps z s) {req} : OutKeeps z (execHomePerform req s) := by
  unfold execHomePerform
  split
  · exact h
  split
  · exact h
  extract_lets pa run home s1
  split
  · exact h
  split
  · split
    · exact h.performDevices
    · exact h
  split
  · change Keeps z (ite ..)
    split
    · exact h
    · split <;> exact h
  split
  · change Keeps z (ite ..)
    split
    · exact h
    · exact h.faultReq
  split
  · change Keeps z (ite ..)
    split
    · exact h
    · exact h.faultReq
  · exact h.performReq

protected theorem Keeps.setService (h : Keeps z s) {cs} : Keeps z { s with chanService := cs } := h

protected theorem Keeps.finishAccepted (h : Keeps z s) {vd} : Keeps z (finishAccepted s vd) := by
  unfold finishAccepted
  extract_lets ids
  refine Keeps.setService (Keeps.foldl h.setService fun i k => ?_)
  split
  next hn => exact k.execHomePerform.keeps hn
  · exact k

protected theorem Keeps.clearVd (h : Keeps z s) {vd} : Keeps z (clearVd s vd) := h

protected theorem Keeps.flushVd (h : Keeps z s) {v} : Keeps z (flushVd s v) := h.writeBack

protected theorem Keeps.startInstances (h : Keeps z s) {v} : Keeps z (startInstances s v) := by
  refine Keeps.foldl h fun i k => ?_
  extract_lets t s1
  have h1 : Keeps z s1 := by
    refine Keeps.setCluster ?_
    exact k
  exact h1.startKernel

protected theorem Keeps.resetVd (h : Keeps z s) {v} : OptKeeps z (fun s => s) (resetVd s v) := by
  unfold resetVd
  extract_lets vd s1 tags
  have h1 : Keeps z s1 := h.finishAccepted.clearVd
  refine (optKeeps_foldlM (fun _ k => k.abortTag) _ h1).map fun {t} k => ?_
  extract_lets s2
  have h2 : Keeps z s2 := Keeps.modVd (Keeps.flushVd k)
  split
  · exact h2.startInstances.retryHost
  · exact h2

protected theorem Keeps.manage (h : Keeps z s) {code arg} {k : State → Vd → State} (hk : ∀ {s v}, Keeps z s → Keeps z (k s v)) : Keeps z (manage s code arg k) := by
  unfold manage
  split
  · exact h
  extract_lets s1
  have h1 : Keeps z s1 := h.doorbell
  split
  · exact h1
  split
  · exact h1
  split
  · exact h1
  · exact hk h1

protected theorem Keeps.mapSlices (h : Keeps z s) {d} : Keeps z (mapSlices s d) := Keeps.foldl h fun _ k => k

protected theorem Keeps.mapOwn (h : Keeps z s) {v} : OptKeeps z (fun s => s) (mapOwn s v) := h.mapSaveArea.bind fun h => h.mapFor.bind fun h => h.mapFor

protected theorem Keeps.createVd (h : Keeps z s) {num d u} : OptKeeps z (fun s => s) (createVd s num d u) := by
  unfold createVd
  extract_lets v s1 own s0 s2
  have h1 : Keeps z s1 := h.mapSlices.modFields
  have h2 : Keeps z s2 := h1
  split
  · refine h2.mapOwn.map fun k => ?_
    exact k.startInstances
  · trivial

protected theorem Keeps.resetAwake (h : Keeps z s) {v} : OptKeeps z (fun s => s) ((if awake v then some v else none).bind (resetVd s)) :=
  optKeeps_bind fun _ => h.resetVd

protected theorem Keeps.destroyVd (h : Keeps z s) {v} : OptKeeps z (fun s => s) (destroyVd s v) := by
  refine h.resetAwake.map fun {t} k => ?_
  have hs : ∀ frames : List (Nat × Nat), Keeps z (frames.foldl (fun s f => scrub s f.1 f.2) (clearPace (clearVd t v.num) v.num)) :=
    fun _ => Keeps.foldl k fun _ k => k.scrub
  exact hs _

/-! ### Placement -/

/-- A team and its groups take their places. -/
protected theorem Keeps.seat (h : Keeps z s) {ts gs n} : Keeps z { s with teams := ts, groups := gs, nextId := n } := h

protected theorem Keeps.placeFresh (h : Keeps z s) {v i r site} : OptKeeps z (fun s => s) (placeFresh s v i r site) := by
  unfold placeFresh
  split
  · trivial
  split
  · trivial
  split
  · trivial
  split
  · trivial
  extract_lets tm k s1 s2
  have h2 : Keeps z s2 := h.setCluster.deviceWrite
  split
  · trivial
  · exact h2.seat.modVd.startQuantum

protected theorem Keeps.placeSaved (h : Keeps z s) {v t site} : OptKeeps z (fun s => s) (placeSaved s v t site) := by
  unfold placeSaved
  split
  · trivial
  split
  · extract_lets k old s1 s2 s3
    have h1 : Keeps z s1 := h.setCluster
    have h3 : Keeps z s3 := h1
    exact Keeps.startQuantum (Keeps.foldl h3 fun _ k => k.setGroup)
  · trivial

protected theorem Keeps.placeAt (h : Keeps z s) {v i w site} : OptKeeps z (fun s => s) (placeAt s v i w site) := by
  unfold placeAt
  split
  · exact h.placeFresh
  · exact h.placeSaved

protected theorem Keeps.placeLowest (h : Keeps z s) {v i w} : OptKeeps z (fun s => s) (placeLowest s v i w) := optKeeps_findSome? (fun _ => h.placeAt) _

theorem optKeeps_tryRanked {v i} {place : Waiter → Option State} (hp : ∀ w, OptKeeps z (fun s => s) (place w)) : OptKeeps z (fun s => s) (tryRanked s v i place) := by
  unfold tryRanked
  extract_lets ws
  split
  · trivial
  extract_lets fits
  cases hf : fits[(Config.freeValue s.freeCtr).toNat % fits.length]? with
  | none => trivial
  | some t =>
    obtain ⟨w, -, hw⟩ := List.mem_filterMap.mp (List.mem_of_getElem? hf)
    have ht : Keeps z t := (hp w).keeps hw
    exact ht

protected theorem Keeps.moveRegs (h : Keeps z s) {g reg tile} : OptKeeps z (fun s => s) (moveRegs s g reg tile) := by
  unfold moveRegs
  extract_lets hs ok
  split
  · exact h
  · trivial

protected theorem Keeps.moveScratch (h : Keeps z s) {t dst} : OptKeeps z (fun s => s) (moveScratch s t dst) := by
  unfold moveScratch
  extract_lets k ts inTop ok
  split
  · exact h.setCluster.setTeam
  · trivial

protected theorem Keeps.moveBlock (h : Keeps z s) {site blk dst} : OptKeeps z (fun s => s) (moveBlock s site blk dst) := by
  unfold moveBlock
  split
  · exact optKeeps_bind fun _ => h.moveRegs
  · refine optKeeps_bind fun _ => ?_
    split
    · exact h.moveScratch
    · trivial

/-- Every layout that moves reach from layouts that z keeps to is one that z keeps to. -/
theorem keeps_nextLayouts {site : Site} {seen : List State} (h : ∀ s ∈ seen, Keeps z s) : ∀ s ∈ nextLayouts site seen, Keeps z s := by
  refine List.foldlRecOn (motive := fun more : List State => ∀ s ∈ more, Keeps z s) _ _ (by simp) fun more hm t ht => ?_
  have hk : Keeps z t := by
    obtain ⟨s, hs, ht⟩ := List.mem_flatMap.mp ht
    obtain ⟨m, -, hm⟩ := List.mem_filterMap.mp ht
    exact (h s hs).moveBlock.keeps hm
  split
  · exact hm
  · intro s hs
    rcases List.mem_append.mp hs with hs | hs
    · exact hm s hs
    · rw [List.mem_singleton.mp hs]; exact hk

theorem optKeeps_findSome?_of {st : β → State} {seen : List State} (h : ∀ s ∈ seen, Keeps z s) {f : State → Option β} (hf : ∀ {s}, Keeps z s → OptKeeps z st (f s)) :
    OptKeeps z st (seen.findSome? f) := by
  cases hl : seen.findSome? f with
  | none => trivial
  | some b =>
    obtain ⟨a, ha, hb⟩ := List.exists_of_findSome?_eq_some hl
    exact (hf (h a ha)).keeps hb

theorem keeps_afterMoves {st : α → State} {site : Site} {f : State → Option α} (hf : ∀ {s}, Keeps z s → OptKeeps z st (f s)) {n k : Nat} {seen : List State}
    (h : ∀ s ∈ seen, Keeps z s) : OptKeeps z (fun p => st p.2) (afterMoves site f n k seen) := by
  induction n generalizing k seen with
  | zero => exact (optKeeps_findSome?_of h hf).map id
  | succ n ih =>
    unfold afterMoves
    split
    next hs => exact (optKeeps_findSome?_of h hf).keeps hs
    · split
      · trivial
      · refine ih fun s hs => ?_
        rcases List.mem_append.mp hs with hs | hs
        · exact h s hs
        · exact keeps_nextLayouts h s hs

protected theorem Keeps.placeWithMoves (h : Keeps z s) {v i w site} : OptKeeps z Prod.snd (placeWithMoves s v i w site) := by
  unfold placeWithMoves
  split
  · exact keeps_afterMoves (st := fun s => s) (fun k => k.placeAt) (by simpa using h)
  · trivial

protected theorem Keeps.placeMoving (h : Keeps z s) {v i w} : OptKeeps z (fun s => s) (placeMoving s v i w) := by
  refine h.placeLowest.or (optKeeps_findSome? (fun _ => ?_) _)
  exact h.placeWithMoves.map id

protected theorem Keeps.roomWithMoves (h : Keeps z s) {site g} : OptKeeps z Prod.snd (roomWithMoves s site g) := by
  unfold roomWithMoves
  extract_lets set
  split
  · trivial
  split
  · refine keeps_afterMoves (st := fun s => s) (fun k => ?_) (by simpa using h)
    split
    · exact k
    · trivial
  · trivial

protected theorem Keeps.noteHeld (h : Keeps z s) {v i} : Keeps z (noteHeld s v i) := by
  refine Keeps.foldl h fun w k => ?_
  split <;> exact k

protected theorem Keeps.dispatchTry (h : Keeps z s) {vd vdie} : Keeps z (dispatchTry s vd vdie) := by
  unfold dispatchTry
  split
  · exact h
  split
  · exact h
  extract_lets s1
  have h1 : Keeps z s1 := h.noteHeld
  split
  · exact (optKeeps_tryRanked fun _ => h1.placeMoving).getD h1
  · exact h1

protected theorem Keeps.loseTeams (h : Keeps z s) {vd d launch node k} : Keeps z (loseTeams s vd d launch node k) := h.modVd.countRetired

protected theorem Keeps.passRange (h : Keeps z s) {vd d launch node lo hi} : Keeps z (passRange s vd d launch node lo hi) := by
  unfold passRange
  split
  · exact h
  split
  · exact h
  · exact h.loseTeams

/-! ### Dormancy and the package -/

protected theorem Keeps.switchOff (h : Keeps z s) {v} : Keeps z (switchOff s v) := by
  unfold switchOff
  split <;> exact h

protected theorem Keeps.collapseStep (h : Keeps z s) {v} : Keeps z (collapseStep s v) := by
  unfold collapseStep
  split
  · exact h.flushVd
  · exact h

protected theorem Keeps.restoreInstances (h : Keeps z s) {v} : Keeps z (restoreInstances s v) := h

protected theorem Keeps.putEnds (h : Keeps z s) {w p} : OptKeeps z (fun s => s) (putEnds s w p) := by
  unfold putEnds
  split
  · exact h
  · exact h.bumpCounter

protected theorem Keeps.putAccess (h : Keeps z s) {p} : Keeps z (putAccess s p).2 := by
  unfold putAccess
  split
  · exact h
  split
  · exact h
  split
  · exact h
  split
  · exact h
  split
  · exact h
  · exact h
  next ps _ =>
    extract_lets cover t
    have ht : Keeps z t := Keeps.foldl h.freshChecks fun _ k => k.hostWrite
    split
    · exact h
    split
    · exact h
    split
    · split
      next hu => exact ht.putEnds.keeps hu
      · exact h
    · exact ht

protected theorem Keeps.retryPuts {n : Nat} (h : Keeps z s) : Keeps z (retryPuts n s) := by
  induction n generalizing s with
  | zero => exact h
  | succ n ih =>
    unfold retryPuts
    split
    · exact h
    extract_lets q
    have hq : Keeps z q.2 := h.putAccess
    split
    · exact ih hq
    · exact h

protected theorem Keeps.loseWork (h : Keeps z s) {vd d} : Keeps z (loseWork s vd d) := by
  unfold loseWork
  extract_lets gs s1 ts s2
  have h1 : Keeps z s1 := Keeps.foldl h fun _ k => k.killGroup
  have h2 : Keeps z s2 := h1
  split
  · exact h2
  extract_lets held v1 heirs orphans s3 lost
  have h3 : Keeps z s3 := Keeps.foldl h2.setVd fun _ k => k.passRange
  exact Keeps.foldl h3 fun _ k => k.loseTeams

protected theorem Keeps.failFor (h : Keeps z s) {die v} : Keeps z (failFor die s v) := by
  unfold failFor
  split
  · exact h
  split
  · exact h
  · exact h.setVd.loseWork

protected theorem Keeps.loseMemory (h : Keeps z s) {die} : Keeps z (loseMemory s die) := h

protected theorem Keeps.svcReply (h : Keeps z s) {q status result} : Keeps z (svcReply s q status result) := h

protected theorem Keeps.serve (h : Keeps z s) {vd op} {k : State → Vd → SvcReq → State} (hk : ∀ {s v q}, Keeps z s → Keeps z (k s v q)) : Keeps z (serve s vd op k) := by
  unfold serve
  split
  · exact h
  extract_lets pickReq
  split
  · extract_lets s1
    have h1 : Keeps z s1 := h
    split
    · exact hk h1
    · exact h1
  · exact h

protected theorem Keeps.comingUp (h : Keeps z s) : Keeps z (comingUp s) := by
  unfold comingUp
  split <;> exact h

protected theorem Keeps.preemptForService (h : Keeps z s) {tid} : Keeps z (preemptForService s tid) := by
  unfold preemptForService
  split
  · exact h
  split
  · exact h
  split <;> exact h

/-! ### Channels and parked fragments -/

protected theorem Keeps.putChan (h : Keeps z s) {t ch k} : Keeps z (putChan s t ch k) := h

protected theorem Keeps.pushSlot (h : Keeps z s) {t ch k slot} : Keeps z (pushSlot s t ch k slot) := h.setCluster.putChan

protected theorem Keeps.blockSend (h : Keeps z s) {w} : Keeps z (c.blockSend w s) := by
  unfold Ctx.blockSend
  split <;> exact h

protected theorem Keeps.trySend (h : Keeps z s) {g t u w} : Keeps z (trySend s g t u w).2 := by
  unfold trySend
  extract_lets die who p
  split
  · split
    · exact h
    split
    · change Keeps z (ite ..)
      split
      · exact h
      · exact h.keepPlace
    have hp : Keeps z p.2 := by
      unfold p
      split
      · exact h
      · exact h.takeTurn
    split
    · exact hp.pushSlot
    · exact hp
  · exact h

protected theorem Keeps.passParked (h : Keeps z s) {gid i} : Keeps z (passParked s gid i) := h

protected theorem Keeps.parkedRecv (h : Keeps z s) {g i e} : Keeps z (parkedRecv s g i e) := by
  unfold parkedRecv
  split
  · exact h
  split
  · exact h
  split
  · exact h
  extract_lets live
  split <;> exact h

protected theorem Keeps.parkedSend (h : Keeps z s) {g i e} : Keeps z (parkedSend s g i e) := by
  unfold parkedSend
  split
  · split
    · split
      · exact h
      extract_lets p
      have hp : Keeps z p.2 := h.trySend
      split <;> exact hp
    · exact h
  · exact h

protected theorem Keeps.completeParked (h : Keeps z s) {g i e} : Keeps z (completeParked s g i e) := by
  unfold completeParked
  split
  · split
    · exact h.passParked.fenceDone
    · exact h
  · split <;> exact h
  · split <;> exact h
  · split
    · exact h
    · exact h.passParked.scrub
  · exact h.parkedRecv.parkedSend
  · exact h

protected theorem Keeps.parkedWork (h : Keeps z s) {gid i} : Keeps z (parkedWork gid i s) := by
  unfold parkedWork
  split
  · exact h
  split
  · split
    · exact h.completeParked
    · exact h
  · exact h

/-! ## The words -/

/-! ### Control words -/

protected theorem Keeps.execBrc (h : Keeps z s) {w} : OutKeeps z (execBrc w s) := by
  refine h.issue fun {c} hc => ?_
  extract_lets bit dest lead dissent g
  split
  · split
    · trivial
    · exact hc.setG.jumpTo
  · exact hc.spread

protected theorem Keeps.execRet (h : Keeps z s) {w} : OutKeeps z (execRet w s) := by
  refine h.issue fun {c} hc => ?_
  extract_lets t
  split
  · trivial
  · exact hc.jumpTo

protected theorem Keeps.execRecon (h : Keeps z s) {w} : OutKeeps z (execRecon w s) := by
  refine h.issue fun {c} hc => ?_
  split
  next ho => exact (hc.openEntry ho).jumpTo
  · trivial

protected theorem Keeps.execSwitch (h : Keeps z s) {w} : OutKeeps z (execSwitch w s) := by
  refine h.issue fun {c} hc => ?_
  extract_lets again opened
  split
  · exact hc.hold
  split
  · trivial
  cases ho : opened with
  | error t => trivial
  | ok c' =>
    have hc' : CtxKeeps z c' := by
      unfold opened at ho
      split at ho
      · cases ho; exact hc
      · exact hc.openEntry ho
    exact hc'.spread

protected theorem Keeps.execJoin (h : Keeps z s) {w} : OutKeeps z (execJoin w s) := by
  refine h.issue fun {c} hc => ?_
  split
  · trivial
  split
  · trivial
  extract_lets g k
  split
  · trivial
  · exact hc.putGroup

protected theorem Keeps.breakSets (h : Keeps z s) {tid num spec} : Keeps z (breakSets s tid num spec) := h

protected theorem Keeps.execExit (h : Keeps z s) {w} : OutKeeps z (execExit w s) := by
  refine h.issue fun {c} hc => ?_
  extract_lets g k
  split
  · exact hc.putGroup.breakSets
  split
  · trivial
  · exact hc.putGroup

protected theorem Keeps.execWinb (h : Keeps z s) {w} : OutKeeps z (execWinb w s) := by
  refine h.issue fun {c} hc => ?_
  extract_lets base
  split
  · trivial
  · exact hc.setG.finish

protected theorem Keeps.execMov (h : Keeps z s) {w} : OutKeeps z (execMov w s) := by
  refine h.plain fun {c} hc => ?_
  split <;> exact hc.putResult

/-! ### Atomics -/

protected theorem Keeps.atomic (h : Keeps z s) {i w o} : OutKeeps z (atomic i w o s) := by
  unfold atomic
  exact h.atWord

protected theorem Keeps.red (h : Keeps z s) {i w o} : OutKeeps z (red i w o s) := by
  unfold red
  exact h.atWord

protected theorem Keeps.wake (h : Keeps z s) {i w all} : OutKeeps z (wake i w all s) := by
  unfold wake
  exact h.atWord

protected theorem Keeps.rcn (h : Keeps z s) {i w n} : OutKeeps z (rcn i w n s) := by
  unfold rcn
  exact h.atWord

/-! ### Scratchpad words, fences and counters -/

protected theorem Keeps.execCbld (h : Keeps z s) {w k} : OutKeeps z (execCbld w k s) := by
  refine h.issue fun {c} hc => ?_
  extract_lets a k0 s1 bytes s2
  split
  · trivial
  split
  · trivial
  · have h1 : Keeps z s1 := hc.1.setCluster
    have h2 : Keeps z s2 := by
      unfold s2
      split
      · refine OptKeeps.getD ?_ h1.setTeam
        cases imagePa _ _ with
        | none => trivial
        | some p => exact h1.setTeam.deviceWrite
      · exact h1
    exact (hc.setS h2).finish

protected theorem Keeps.execLds (h : Keeps z s) {w} : OutKeeps z (execLds w s) := by
  refine h.issue fun {c} hc => ?_
  extract_lets n sram val x c1
  split
  · trivial
  split
  · exact hc.hold
  · have h1 : CtxKeeps z c1 := hc.countSram
    exact h1.setReqs.push.finish

protected theorem Keeps.execSts (h : Keeps z s) {w} : OutKeeps z (execSts w s) := by
  refine h.issue fun {c} hc => ?_
  extract_lets n k sram f
  split
  · trivial
  split
  · exact hc.hold
  · exact (hc.setS hc.1.setCluster).countSram.finish

protected theorem Keeps.execMemxFence (h : Keeps z s) {w sc} : OutKeeps z (execMemxFence w sc s) := by
  refine h.issue fun {c} hc => ?_
  split
  · exact hc.siblimTrap
  split
  · exact hc.block
  · extract_lets f c1 s2
    have h1 : CtxKeeps z c1 := hc
    have h2 : Keeps z s2 := h1.commit.fenceDone
    split
    · exact (h1.setS h2).setG.finish
    · exact h2

protected theorem Keeps.execMemxFenceva (h : Keeps z s) {w} : OutKeeps z (execMemxFenceva w s) := by
  refine h.issue fun {c} hc => ?_
  split
  · exact hc.block
  · exact hc.1

protected theorem Keeps.execMemxWaitc (h : Keeps z s) {w k} : OutKeeps z (execMemxWaitc w k s) := by
  refine h.issue fun {c} hc => ?_
  split
  · exact hc.block
  · exact hc.1

protected theorem Keeps.execMemxCinv (h : Keeps z s) {w} : OutKeeps z (execMemxCinv w s) := h.issue fun hc => hc.1.setCluster

protected theorem Keeps.execLdxPref (h : Keeps z s) {w} : OutKeeps z (execLdxPref w s) := h.issue fun hc => hc.1

/-! ### Barrier words -/

protected theorem Keeps.execBarInit (h : Keeps z s) {w} : OutKeeps z (execBarInit w s) := by
  refine h.bar fun {c} hc off o => ?_
  extract_lets x n b o' k s1
  split
  · trivial
  · have h1 : Keeps z s1 := (hc.setS hc.1.setCluster).finish
    exact h1

protected theorem Keeps.execBarExpb (h : Keeps z s) {w} : OutKeeps z (execBarExpb w s) := by
  refine h.bar fun {c} hc off o => ?_
  extract_lets x
  split
  · trivial
  split
  · trivial
  split
  · trivial
  · exact hc.finish.barOp

protected theorem Keeps.execBarWait (h : Keeps z s) {w p} : OutKeeps z (execBarWait w p s) := by
  refine h.issue fun {c} hc => ?_
  extract_lets f done
  have hd : Keeps z done := hc.1
  split
  · exact hd
  · refine CtxKeeps.barChecked fun off o => ?_
    split
    · trivial
    split
    · trivial
    split
    · exact hd
    · exact hc.block

protected theorem Keeps.execBarTry (h : Keeps z s) {w p} : OutKeeps z (execBarTry w p s) := by
  refine h.bar fun {c} hc off o => ?_
  split
  · trivial
  split
  · trivial
  · exact hc.putUni.finish

/-! ### Waits for the Dray -/

protected theorem CtxKeeps.raiseLogged (h : CtxKeeps z c) {e} : Keeps z (raiseLogged c e) := h.setG.raiseTrap

protected theorem Keeps.execDwaitOne (h : Keeps z s) {w} : OutKeeps z (execDwaitOne w s) := by
  refine h.issue fun {c} hc => ?_
  extract_lets id f c1
  have h1 : CtxKeeps z c1 := hc
  split
  · exact hc.block
  split
  · exact h1.raiseLogged
  · exact h1.finish

protected theorem Keeps.execDwaitAll (h : Keeps z s) {w} : OutKeeps z (execDwaitAll w s) := by
  refine h.issue fun {c} hc => ?_
  extract_lets ids f c1
  have h1 : CtxKeeps z c1 := hc
  split
  · exact hc.block
  split
  · exact h1.raiseLogged
  · exact h1.finish

/-! ### Tile words -/

protected theorem CtxKeeps.trapClash (h : CtxKeeps z c) : CtxKeeps z { c with s := trapClash c } := h

protected theorem Keeps.execMmaf (h : Keeps z s) {w} : OutKeeps z (execMmaf w s) := by
  refine h.issue fun {c} hc => ?_
  split
  · exact hc.trapClash.raiseTrap
  split
  · trivial
  split
  · exact hc.trapClash.raiseTrap
  split
  · trivial
  split
  · exact hc.hold
  · exact hc.1

protected theorem Keeps.execFhset (h : Keeps z s) {w} : OutKeeps z (execFhset w s) := by
  refine h.issue fun {c} hc => ?_
  extract_lets x n four bad old g0 s1 s2
  have h1 : Keeps z s1 := hc.setG.finish
  split
  · trivial
  · change Keeps z (ite ..)
    split
    · exact h1
    · have h2 : Keeps z s2 := by
        unfold s2
        split
        · exact h1
        · exact h1.breakSets
      exact h2

protected theorem Keeps.execTrd (h : Keeps z s) {w} : OutKeeps z (execTrd w s) := by
  refine h.issue fun {c} hc => ?_
  split
  · trivial
  extract_lets r0 g regs
  split
  · exact hc.hold
  · exact hc.1

protected theorem Keeps.execTwr (h : Keeps z s) {w} : OutKeeps z (execTwr w s) := by
  refine h.issue fun {c} hc => ?_
  split
  · trivial
  extract_lets r0 g
  split
  · exact hc.hold
  · exact hc.setG.finalise.push.finish

protected theorem Keeps.execTcvt (h : Keeps z s) {w} : OutKeeps z (execTcvt w s) := by
  refine h.issue fun {c} hc => ?_
  split
  · trivial
  extract_lets type q td g
  split
  · trivial
  split
  · exact hc.hold
  · exact hc.setG.finalise.push.finish

protected theorem Keeps.execTscl (h : Keeps z s) {w} : OutKeeps z (execTscl w s) := by
  refine h.issue fun {c} hc => ?_
  split
  · trivial
  split
  · trivial
  · exact hc.setG.finalise.push.finish

/-! ### System words -/

protected theorem Keeps.execEret (h : Keeps z s) {w} : OutKeeps z (execEret w s) := by
  refine h.issue fun {c} hc => ?_
  extract_lets act u v r
  have hr : Keeps z r.2 := by
    clear_value v
    unfold r
    split
    · exact hc.1
    split
    · exact hc.1
    · exact hc.1.eretOn
  split
  · exact hc.hold
  · exact (hc.setS hr).putUni.finish

protected theorem Keeps.execWfi (h : Keeps z s) {w} : OutKeeps z (execWfi w s) := by
  refine h.issue fun {c} hc => ?_
  split
  · exact hc.1
  · exact hc.block

protected theorem Keeps.execCsrr (h : Keeps z s) {w} : OutKeeps z (execCsrr w s) := by
  refine h.issue fun {c} hc => ?_
  extract_lets s1
  have h1 : Keeps z s1 := hc.putUni.finish
  change Keeps z (ite ..)
  split
  · exact h1.acquireRing
  · exact h1

protected theorem Keeps.execCsrw (h : Keeps z s) {w} : OutKeeps z (execCsrw w s) := by
  refine h.issue fun {c} hc => ?_
  extract_lets x inst
  have hi : ∀ f, Keeps z (inst f) := fun _ => hc.finish.modVd
  split
  · exact hc.setG.finish
  · exact hc.setG.finish
  · exact hc.setG.finish
  · exact hi _
  · exact hi _
  · exact hc.finish.writeFrbase
  · exact hi _
  · exact hi _

protected theorem Keeps.execRlySend (h : Keeps z s) {w} : OutKeeps z (execRlySend w s) := by
  refine h.issue fun {c} hc => ?_
  extract_lets va a code
  have hcode : ∀ {s x}, Keeps z s → Keeps z (code s x) := fun k => (hc.setS k).putUni.finish
  split
  · exact hc.hold
  split
  · exact hcode hc.1
  split
  · exact hcode hc.1
  split
  · trivial
  · exact hc.hold
  next p hp =>
    extract_lets m ts
    have hm : Keeps z m.2 := (hc.rlyAccess hp).seenBytes
    split
    · exact hcode (s := { m.2 with services := _ }) hm
    split
    · exact hcode hm.relaySend
    · exact hc.hold

protected theorem Keeps.execRlyRecv (h : Keeps z s) {w} : OutKeeps z (execRlyRecv w s) := by
  refine h.issue fun {c} hc => ?_
  extract_lets va
  split
  · exact hc.putUni.finish
  split
  · trivial
  split
  · trivial
  · exact hc.hold
  next p hp =>
    extract_lets s1 s2
    have h1 : Keeps z s1 := (hc.setS (hc.rlyAccess hp)).putUni.finish
    have h2 : Keeps z s2 := h1.storeNow
    exact h2.modVd

protected theorem Keeps.bumpGen (h : Keeps z s) {vd die stage2} : Keeps z (bumpGen s vd die stage2) := h

protected theorem Keeps.execXlatInvr (h : Keeps z s) {w} : OutKeeps z (execXlatInvr w s) := by
  refine h.issue fun {c} hc => ?_
  extract_lets x base len
  refine hc.withRelease fun {c} hc => ?_
  split
  · exact hc.xlatAnswer.finish
  split
  · exact hc.xlatAnswer.finish
  · extract_lets die s1
    have h1 : Keeps z s1 := Keeps.foldl hc.1 fun _ k => k
    exact (hc.setS h1.bumpGen).xlatAnswer.finish

protected theorem Keeps.execXlatProbe (h : Keeps z s) {w} : OutKeeps z (execXlatProbe w s) := by
  refine h.issue fun {c} hc => ?_
  extract_lets x va bad
  split
  · exact hc.xlatAnswer.finish
  split <;> exact hc.xlatAnswer.finish

protected theorem Keeps.execXlatScrub (h : Keeps z s) {w} : OutKeeps z (execXlatScrub w s) := by
  refine h.issue fun {c} hc => ?_
  extract_lets base len body
  have hb : ∀ {b n c}, CtxKeeps z c → TryKeeps z (fun s => s) (body b n c) := by
    intro b n c hc
    unfold body
    split
    · exact hc.block
    · exact hc.1.scrub
  split
  · exact hb hc
  · refine hc.withRelease fun {c} hc => ?_
    split
    · trivial
    · exact hb hc

protected theorem Keeps.execXlatPin (h : Keeps z s) {w} : OutKeeps z (execXlatPin w s) := by
  refine h.issue fun {c} hc => ?_
  extract_lets x base len part
  refine hc.withRelease fun {c} hc => ?_
  split
  · exact hc.xlatAnswer.finish
  split
  · exact hc.xlatAnswer.finish
  extract_lets ls
  clear_value ls part len
  split
  · exact hc.xlatAnswer.finish
  · exact (hc.setS hc.1.pinLeaves).xlatAnswer.finish

protected theorem Keeps.execPwrDorm (h : Keeps z s) {w} : OutKeeps z (execPwrDorm w s) := by
  refine h.issue fun {c} hc => ?_
  extract_lets t
  have ht : Keeps z t := hc.putUni.finish
  change Keeps z _
  split
  · split
    · exact ht.expire
    · exact ht
  · exact ht

/-! ### Channel words -/

protected theorem Keeps.execSend (h : Keeps z s) {w k} : OutKeeps z (execSend w k s) := by
  refine h.issue fun {c} hc => ?_
  split
  · trivial
  extract_lets x
  split
  · trivial
  split
  · trivial
  split
  · exact hc.hold.blockSend
  split
  · trivial
  split
  · exact (hc.setS hc.1.trySend).setG.finish
  · exact hc.hold.trySend.blockSend

protected theorem Keeps.execRecv (h : Keeps z s) {w k} : OutKeeps z (execRecv w k s) := by
  refine h.issue fun {c} hc => ?_
  split
  · trivial
  split
  · trivial
  extract_lets mine live reg c1
  split
  · exact hc.hold.putChan
  · have h1 : CtxKeeps z c1 := hc.setS hc.1.putChan
    exact h1.setG.push.finish

protected theorem Keeps.execChq (h : Keeps z s) {w k} : OutKeeps z (execChq w k s) := by
  refine h.issue fun {c} hc => ?_
  split
  · trivial
  · exact hc.putUni.finish

/-! ## The events -/

/-! ### Requests -/

protected theorem Keeps.execTokenRefill (h : Keeps z s) {vd die} : OutKeeps z (execTokenRefill vd die s) := h.modVd

protected theorem Keeps.execEgressRelease (h : Keeps z s) {vd die} : OutKeeps z (execEgressRelease vd die s) := by
  unfold execEgressRelease
  extract_lets waits
  split
  · exact h.moveReq
  split
  · exact h
  · split <;> exact h

protected theorem Keeps.execSliceRequest (h : Keeps z s) {req} : OutKeeps z (execSliceRequest req s) := by
  unfold execSliceRequest
  split
  · exact h
  extract_lets va held
  split
  · exact h
  split
  · exact h.moveReq
  split
  · exact h.putReq
  · change Keeps z (ite ..)
    split
    · exact h.holdBack
    · exact h.atEntry

protected theorem Keeps.execRemapResend (h : Keeps z s) {req} : OutKeeps z (execRemapResend req s) := by
  unfold execRemapResend
  split
  · exact h
  split
  · exact h
  extract_lets q0 q t u v0 v va new
  have hq : Keeps z q := h
  have hu : Keeps z u := by
    unfold u t
    split
    · exact h.takeTurn
    · exact h
  have hv : Keeps z v := hu
  split
  · split
    · exact h
    split
    · exact hu
    · exact hv
  · split
    · exact h
    · exact hq

protected theorem Keeps.execRemoteWriteback (h : Keeps z s) {die pa} : OutKeeps z (execRemoteWriteback die pa s) := h.recallWords

protected theorem Keeps.execReplyArrives (h : Keeps z s) {req} : OutKeeps z (execReplyArrives req s) := by
  unfold execReplyArrives
  split
  · exact h
  split
  · exact h
  split
  · change Keeps z (ite ..)
    split
    · exact h.dropReq
    · exact h.dropReq.fillL1
  · change Keeps z (ite ..)
    split
    · exact h
    split
    · split
      · exact h
      · exact h.faultReq
    · exact h.arriveReply

protected theorem Keeps.execMonitorWake (h : Keeps z s) {mon} : OutKeeps z (execMonitorWake mon s) := by
  unfold execMonitorWake
  split
  · exact h
  split
  · exact h
  · exact h.wakeWaiter

protected theorem Keeps.execWaitaTimeout (h : Keeps z s) {mon} : OutKeeps z (execWaitaTimeout mon s) := by
  unfold execWaitaTimeout
  split
  · exact h
  split
  · exact h.wakeWaiter
  · exact h

/-! ### The Dray -/

protected theorem Keeps.execPubSliceBlock (h : Keeps z s) {cmd die slice} : OutKeeps z (execPubSliceBlock cmd die slice s) := by
  unfold execPubSliceBlock
  split
  · exact h
  split
  · exact h
  split
  · extract_lets s1
    have h1 : Keeps z s1 := by
      unfold s1
      split <;> exact h
    split
    · exact h1
    · exact h1.purgeRange.putDray
  · exact h.stopPub
  · exact h.stopPub
  · exact h

protected theorem Keeps.dropBlocks (h : Keeps z s) {ks} : Keeps z { s with blocks := ks } := h

protected theorem Keeps.execSwapPoint (h : Keeps z s) {cmd} : OutKeeps z (execSwapPoint cmd s) := by
  unfold execSwapPoint
  split
  · exact h
  extract_lets left
  split
  · exact h
  split
  · split
    · extract_lets pa st new s1
      have h1 : Keeps z s1 := h.deviceWrite
      split
      · exact h
      split
      · exact h.stopPub
      · exact h1.dropBlocks.putDray
    · exact h.stopPub
  · exact h.stopPub
  · exact h.stopPub
  · exact h

protected theorem Keeps.lowerS (h : Keeps z s) {d} : Keeps z (lowerS s d) := h.modGroup

/-- A unit has been moved: the command goes on, and its scratchpad part may be done. -/
protected theorem Keeps.unitDone (h : Keeps z s) {p : Prop} [Decidable p] {d} : Keeps z (if p then lowerS (putDray s d) d else putDray s d) := by
  split
  · exact h.putDray.lowerS
  · exact h.putDray

protected theorem Keeps.execDrayUnitDone (h : Keeps z s) {cmd} : OutKeeps z (execDrayUnitDone cmd s) := by
  unfold execDrayUnitDone
  split
  · exact h
  extract_lets f a m k turn drop
  have ht : Keeps z turn.2 := h.takeTurn
  have hdrop : Keeps z (drop s) := h.dropTicket
  clear_value turn
  split
  · change Keeps z (ite ..)
    split
    · exact h.startPub
    · exact h
  split
  · exact h
  split
  · exact ht
  split
  · split
    · exact hdrop.stopUnit
    next u got hu =>
      have h2 : Keeps z u.s := ht.emulated.keeps hu
      exact h2.unitDone
  · split
    · exact hdrop.stopUnit
    next u hu =>
      have h2 : Keeps z u.s := ht.doUnit.keeps hu
      exact h2.unitDone

protected theorem Keeps.execDrayComplete (h : Keeps z s) {cmd err} : OutKeeps z (execDrayComplete cmd err s) := by
  unfold execDrayComplete
  split
  · exact h
  extract_lets f a done
  split
  · exact h.endDray
  split
  · exact h
  split
  · change Keeps z (ite ..)
    split
    · exact h.endDray
    · exact h
  · change Keeps z (ite ..)
    split
    · exact h.endDray
    · exact h
  · exact h
  · exact h
  · change Keeps z (ite ..)
    clear_value done
    split
    · exact h.endDray
    · exact h

protected theorem Keeps.execPutAcknowledged (h : Keeps z s) {cmd} : OutKeeps z (execPutAcknowledged cmd s) := by
  unfold execPutAcknowledged
  split
  · exact h
  split
  · exact h
  split
  · exact h.endDray
  · change Keeps z _
    split
    next ht => exact (h.bumpCounter.keeps ht).endDray
    · exact h

protected theorem Keeps.execDrayRemainderResume (h : Keeps z s) {handle vd} : OutKeeps z (execDrayRemainderResume handle vd s) := by
  unfold execDrayRemainderResume
  split
  · exact h
  split
  · exact h
  · extract_lets d ks
    split <;> exact h

protected theorem Keeps.execPoolResponse (h : Keeps z s) {port vd devLoad} : OutKeeps z (execPoolResponse port vd devLoad s) := h

/-! ### Stops, saves and records -/

protected theorem Keeps.stopSet (h : Keeps z s) {g why} : Keeps z (stopSet s g why) := h

protected theorem Keeps.execGroupStop (h : Keeps z s) {vd handle} : OutKeeps z (execGroupStop vd handle s) := by
  unfold execGroupStop
  split
  · split
    · exact h
    extract_lets g s1
    have h1 : Keeps z s1 := h.setGroup.withdraw.stopSet
    split
    · exact h1
    · extract_lets s2
      have h2 : Keeps z s2 := h1.freeWaits
      split
      · exact h1
      split
      · exact h2.saveGroup
      · exact h2
  · exact h

protected theorem Keeps.execSaveComplete (h : Keeps z s) {vd handle} : OutKeeps z (execSaveComplete vd handle s) := by
  unfold execSaveComplete
  split
  · split
    · extract_lets alone s1 s2
      have h1 : Keeps z s1 := h.clearSavef.setGroup
      have h2 : Keeps z s2 := by
        unfold s2
        split
        · exact h1.postTrap.tellSmc.askKernel
        · exact h1
      change Keeps z (ite ..)
      split
      · exact h2
      · exact h2.leaveIfStill
    · exact h
  · exact h

protected theorem Keeps.execSaveWriteFault (h : Keeps z s) {vd handle} : OutKeeps z (execSaveWriteFault vd handle s) := by
  unfold execSaveWriteFault
  split
  · split
    · extract_lets s1 held
      have h1 : Keeps z s1 := h.tellSavef
      have hh : Keeps z held := h1.setGroup
      split
      · exact h
      split
      · change Keeps z (ite ..)
        split
        · exact h1.abandonPreempt
        · exact hh
      · exact hh
    · exact h
  · exact h

protected theorem Keeps.tellOnce (h : Keeps z s) {vd} : Keeps z (tellOnce s vd) := h

protected theorem Keeps.execFaultRecordPost (h : Keeps z s) {vd vdie} : OutKeeps z (execFaultRecordPost vd vdie s) := by
  unfold execFaultRecordPost
  split
  · exact h
  extract_lets put gpa
  have hp : ∀ f, Keeps z (put f) := fun _ => h.modVd
  split
  · split
    · exact hp _
    · exact h
  split
  · exact h
  split
  · exact h.tellOnce
  split
  · exact h.tellOnce
  split
  · exact h
  · exact h.deviceWrite.modVd

protected theorem Keeps.placesTaken (h : Keeps z s) : Keeps z (placesTaken s) := h

protected theorem Keeps.execGroupRestore (h : Keeps z s) {vd handle} : OutKeeps z (execGroupRestore vd handle s) := by
  unfold execGroupRestore
  split
  · split
    · split
      · exact h
      split
      · exact h
      · extract_lets s1
        have h1 : Keeps z s1 := by
          unfold s1
          split
          · exact h.setCluster
          · exact h
        exact Keeps.foldl h1.placesTaken fun _ k => k.setGroup
    · exact h
  · exact h

protected theorem Keeps.execQuantumExpires (h : Keeps z s) {team} : OutKeeps z (execQuantumExpires team s) := by
  unfold execQuantumExpires
  split
  · exact h
  extract_lets now
  split
  · exact h
  split
  · exact h
  split
  · split
    · exact h
    · exact h.startQuantum
  · exact h.startQuantum

protected theorem Keeps.execWatchdog (h : Keeps z s) {die cluster} : OutKeeps z (execWatchdog die cluster s) := by
  unfold execWatchdog
  extract_lets site
  split
  · exact h
  · extract_lets ts gs s1
    have h1 : Keeps z s1 := Keeps.foldl (Keeps.foldl h fun _ k => k.killGroup) fun _ k => k.retireTeam
    exact h1.postRecord

protected theorem Keeps.execDrainEnd (h : Keeps z s) {vd handle} : OutKeeps z (execDrainEnd vd handle s) := by
  unfold execDrainEnd
  split
  · exact h
  split
  · exact h
  extract_lets s1 s2 s3
  have h1 : Keeps z s1 := Keeps.foldl h fun _ k => k.postRecord
  have h2 : Keeps z s2 := h1
  have h3 : Keeps z s3 := h2.tellSmc
  split
  · exact h3.setTeam.addOverrun.leaveIfStill
  · exact h3

protected theorem Keeps.execTeamRetire (h : Keeps z s) {team} : OutKeeps z (execTeamRetire team s) := by
  unfold execTeamRetire
  split
  · exact h
  split
  · exact h
  · exact h.retireTeam

/-! ### Issue -/

protected theorem Keeps.setTried (h : Keeps z s) {us} : Keeps z { s with tried := us } := h

protected theorem Keeps.setCur (h : Keeps z s) {u} : Keeps z { s with cur := u } := h

protected theorem Keeps.execIssueChoice (h : Keeps z s) {site bay} : OutKeeps z (execIssueChoice site bay s) := by
  unfold execIssueChoice
  split
  · exact h
  extract_lets gs s1 k ptr owner cs s2
  have h1 : Keeps z s1 := h.bayCycle
  have h2 : Keeps z s2 := by
    unfold s2
    split
    · exact h1
    · exact h1.setCluster
  split
  · exact h1.setCluster.setCur
  · exact h2.setTried.advanceCycle

protected theorem Keeps.execMmafRendezvous (h : Keeps z s) {tid num} : OutKeeps z (execMmafRendezvous tid num s) := by
  unfold execMmafRendezvous
  split
  · exact h
  extract_lets x0 wrong
  split
  · exact Keeps.foldl h fun _ k => k.setGroup
  split
  · exact Keeps.foldl h fun _ k => k.setGroup
  split
  · exact h
  split
  · refine Keeps.foldl h fun m k => ?_
    extract_lets c v
    have hv : Keeps z v := by
      refine Keeps.occupy ?_
      exact k
    exact hv
  · exact Keeps.foldl h fun _ k => k.askGrant

protected theorem Keeps.execWfiWake (h : Keeps z s) {vd handle} : OutKeeps z (execWfiWake vd handle s) := by
  unfold execWfiWake
  split
  · exact h
  · split <;> exact h

protected theorem Keeps.execKtimerExpires (h : Keeps z s) {vd vdie} : OutKeeps z (execKtimerExpires vd vdie s) := by
  unfold execKtimerExpires
  split
  · exact h
  · split <;> exact h

protected theorem Keeps.execRelayMessageArrives (h : Keeps z s) {vd vdie} : OutKeeps z (execRelayMessageArrives vd vdie s) := by
  unfold execRelayMessageArrives
  split
  · exact h
  split
  · exact h
  split
  · exact h.touchEvent
  split
  · exact h
  · refine Keeps.modVd ?_
    split
    · exact h.touchEvent
    · exact h

/-! ### Shootdowns and slice-map changes -/

protected theorem Keeps.ackShoot (h : Keeps z s) {o die slice} : Keeps z (ackShoot s o die slice) := h

protected theorem Keeps.retranslate (h : Keeps z s) {p} : Keeps z (retranslate s p) := h

protected theorem Keeps.execBlockAtSlice (h : Keeps z s) {op die slice} : OutKeeps z (execBlockAtSlice op die slice s) := by
  unfold execBlockAtSlice
  split
  · split
    · exact h
    extract_lets s1 s2 at_ dirty s3
    have h1 : Keeps z s1 := h.addBlock
    have h3 : Keeps z s3 := h1.setLocks.writeBack.retranslate
    split
    · exact h1.ackShoot
    split
    · exact h3
    · exact h3.ackShoot
  · exact h

protected theorem Keeps.liftLocks (h : Keeps z s) {o die slice} : Keeps z (liftLocks s o die slice) := h

protected theorem Keeps.liftBlocks (h : Keeps z s) {o die slice} : Keeps z (liftBlocks s o die slice) := h

protected theorem Keeps.evictMoved (h : Keeps z s) {o die slice ls} : Keeps z (evictMoved s o die slice ls) := h

protected theorem Keeps.execPurgeAtSlice (h : Keeps z s) {op die slice} : OutKeeps z (execPurgeAtSlice op die slice s) := by
  unfold execPurgeAtSlice
  split
  · split
    · exact h
    extract_lets s1 mine locked s2 s3
    have h1 : Keeps z s1 := h.addBlock
    have h2 : Keeps z s2 := h1.purgeRange.liftBlocks.liftLocks.evictMoved
    have h3 : Keeps z s3 := by
      unfold s3
      split
      · exact h2
      · exact h2.bumpGen
    split
    · exact h1
    · exact h3.ackShoot
  · exact h

protected theorem Keeps.execShootdownComplete (h : Keeps z s) {op} : OutKeeps z (execShootdownComplete op s) := by
  unfold execShootdownComplete
  split
  · exact h
  extract_lets waits missed s1
  have h1 : Keeps z s1 := h
  split
  · exact h
  split
  · exact h1.modGroup.endFlight
  · exact h1

protected theorem Keeps.execSliceMapChange (h : Keeps z s) {die keep} : OutKeeps z (execSliceMapChange die keep s) := by
  unfold execSliceMapChange
  extract_lets live keep' ws
  split <;> exact h

protected theorem Keeps.ackSite (h : Keeps z s) {die site} : Keeps z (ackSite die site s) := h.modChange

/-! ### The sweep -/

protected theorem Keeps.ageCells (h : Keeps z s) {vd snap p} : Keeps z (ageCells s vd snap p) := h

protected theorem Keeps.startPass (h : Keeps z s) {v} : Keeps z (startPass s v) := h

protected theorem Keeps.execSweepPassStart (h : Keeps z s) {vd} : OutKeeps z (execSweepPassStart vd s) := by
  unfold execSweepPassStart
  split
  · exact h
  split
  · exact h
  · exact h.startPass

protected theorem Keeps.execSweepPassEnd (h : Keeps z s) {vd} : OutKeeps z (execSweepPassEnd vd s) := by
  unfold execSweepPassEnd
  split
  · exact h
  split
  · exact h
  extract_lets dies s1 s2 s3
  have h2 : Keeps z s2 := by
    refine Keeps.foldl h.ageCells fun p k => ?_
    extract_lets hv
    split <;> exact k
  have h3 : Keeps z s3 := h2.modVd
  split
  · exact h3.startPass
  · exact h3

/-! ### The host -/

protected theorem Keeps.setMbox (h : Keeps z s) {fn m} : Keeps z (setMbox s fn m) := h

protected theorem Keeps.execLaunch (h : Keeps z s) {vd off size val} : OutKeeps z (execLaunch vd off size val s) := h.launchWrite

protected theorem Keeps.execWakeWrite (h : Keeps z s) {vd size} : OutKeeps z (execWakeWrite vd size s) := h.wakeWrite

protected theorem Keeps.execRegisterWrite (h : Keeps z s) {vd off size val} : OutKeeps z (execRegisterWrite vd off size val s) := by
  unfold execRegisterWrite
  split
  · exact h
  split
  · exact h.setMbox
  split
  · exact h.doorbell
  · exact h

protected theorem Keeps.execFunctionLevelReset (h : Keeps z s) {fn} : OutKeeps z (execFunctionLevelReset fn s) := by
  unfold execFunctionLevelReset
  split
  · exact h.setMbox
  · exact h.modVd

protected theorem Keeps.execHwbaseWrite (h : Keeps z s) {vd val} : OutKeeps z (execHwbaseWrite vd val s) := h.modVd

protected theorem Keeps.execHostApertureAccess (h : Keeps z s) {vd off size isWrite val} : OutKeeps z (execHostApertureAccess vd off size isWrite val s) := by
  unfold execHostApertureAccess
  split
  · exact h
  · extract_lets va op s1
    have h1 : Keeps z s1 := by
      refine Keeps.touchEvent ?_
      exact h
    exact h1.retryHost

protected theorem Keeps.execRegisterAGraph (h : Keeps z s) {vd} : OutKeeps z (execRegisterAGraph vd s) := by
  refine h.mailboxOp fun {s v m} k => ?_
  split
  · exact k
  · exact k.registerGraph.reply

protected theorem Keeps.execUnregister (h : Keeps z s) {vd} : OutKeeps z (execUnregister vd s) := by
  refine h.mailboxOp fun {s v m} k => ?_
  extract_lets hd
  split
  · exact k.reply
  · exact k.modVd.reply

protected theorem Keeps.execUnknownOperationCode (h : Keeps z s) {vd} : OutKeeps z (execUnknownOperationCode vd s) := by
  unfold execUnknownOperationCode
  extract_lets code known s1
  have h1 : Keeps z s1 := h.doorbell
  clear_value known
  split
  · exact h
  split
  · change Keeps z (ite ..)
    split
    · split
      · exact h1.reply
      · exact h1
    · split
      · exact h1.reply
      · exact h1
  · change Keeps z (ite ..)
    split
    · exact h1
    · exact h1.reply

protected theorem Keeps.execVfReset (h : Keeps z s) {vd} : OutKeeps z (execVfReset vd s) := by
  unfold execVfReset
  split
  · exact h
  · exact h.resetAwake.getD h.setVd

protected theorem Keeps.execResetTheVf (h : Keeps z s) {num} : OutKeeps z (execResetTheVf num s) := h.manage fun k => k.setVd.reply

protected theorem Keeps.execCreateAVd (h : Keeps z s) {desc setup} : OutKeeps z (execCreateAVd desc setup s) := by
  unfold execCreateAVd
  split
  · exact h
  extract_lets u
  have hu : Keeps z u := h.doorbell
  split
  · exact hu
  split
  · exact hu.reply
  extract_lets st
  split
  · exact hu.reply
  split
  next hc => exact (hu.createVd.keeps hc).reply
  · exact h

protected theorem Keeps.execDestroyAVd (h : Keeps z s) {num} : OutKeeps z (execDestroyAVd num s) := h.manage fun k => (k.destroyVd.map fun k => k.reply).getD k.setVd

/-! ### Placement -/

protected theorem Keeps.execCompactionMove (h : Keeps z s) {die cluster blk dst} : OutKeeps z (execCompactionMove die cluster blk dst s) := by
  unfold execCompactionMove
  extract_lets site
  split
  next hm =>
    change Keeps z (ite ..)
    split
    · exact h.moveBlock.keeps hm
    · exact h
  · exact h

protected theorem Keeps.execDispatchTeam (h : Keeps z s) {vd vdie} : OutKeeps z (execDispatchTeam vd vdie s) := h.dispatchTry

protected theorem Keeps.execCompactorRetry (h : Keeps z s) {vd vdie} : OutKeeps z (execCompactorRetry vd vdie s) := by
  unfold execCompactorRetry
  split
  · exact h
  split
  next hf =>
    refine OptKeeps.keeps (st := fun s => s) (optKeeps_findSome? (fun _ => ?_) _) hf
    exact optKeeps_bind fun _ => h.roomWithMoves.map id
  · exact h.dispatchTry

protected theorem Keeps.execSteeringCap (h : Keeps z s) {vd vdie} : OutKeeps z (execSteeringCap vd vdie s) := by
  unfold execSteeringCap
  split
  · exact h
  · change Keeps z (ite ..)
    split
    · exact h.dispatchTry
    · exact h

protected theorem Keeps.execImeasUpdate (h : Keeps z s) {field val} : OutKeeps z (execImeasUpdate field val s) := h.modFields

protected theorem Keeps.modRanges (h : Keeps z s) {vd vdie n f} : Keeps z (modRanges s vd vdie n f) := h.modVd

protected theorem Keeps.answerSteal (h : Keeps z s) {x a} : Keeps z (answerSteal s x a) := h.modVd

protected theorem Keeps.execStealRequest (h : Keeps z s) {vd vdie} : OutKeeps z (execStealRequest vd vdie s) := by
  unfold execStealRequest
  split
  · exact h
  extract_lets quit turn
  have hq : Keeps z quit := h.dropTicket
  have ht : Keeps z turn.2 := h.takeTurn
  split
  · exact hq
  split
  · exact hq
  extract_lets n s1
  have h1 : Keeps z s1 := ht.modRanges
  split
  · exact hq.modRanges
  · split
    · exact ht
    · exact h1

protected theorem Keeps.execStealHandled (h : Keeps z s) {id} : OutKeeps z (execStealHandled id s) := by
  unfold execStealHandled
  split
  · exact h
  split
  · exact h
  extract_lets i held
  split
  · exact h.answerSteal
  · exact h.modRanges.answerSteal

protected theorem Keeps.execStealReply (h : Keeps z s) {id} : OutKeeps z (execStealReply id s) := by
  unfold execStealReply
  split
  · exact h
  split
  · exact h
  extract_lets s1 n s2 s3
  have h1 : Keeps z s1 := h.modVd
  have h2 : Keeps z s2 := h1.modVd
  have h3 : Keeps z s3 := h1.modRanges
  split
  · exact h1
  split
  · split
    · exact h1.passRange
    · exact h2.modRanges
  · change Keeps z _
    split
    · split
      · exact h3.modRanges
      · exact h3
    · exact h3

/-! ### Dormancy -/

protected theorem Keeps.execWorkBegins (h : Keeps z s) {vd} : OutKeeps z (execWorkBegins vd s) := by
  unfold execWorkBegins
  split
  · exact h
  split
  · exact h
  · exact h.setVd

protected theorem Keeps.execWorkEnds (h : Keeps z s) {vd} : OutKeeps z (execWorkEnds vd s) := by
  unfold execWorkEnds
  split
  · exact h
  · change Keeps z (ite ..)
    split
    · exact h.setVd
    · exact h

protected theorem Keeps.execTimerExpires (h : Keeps z s) {vd} : OutKeeps z (execTimerExpires vd s) := by
  unfold execTimerExpires
  split
  · exact h
  · exact h.expire

protected theorem Keeps.execCollapseStepDone (h : Keeps z s) {vd} : OutKeeps z (execCollapseStepDone vd s) := by
  unfold execCollapseStepDone
  split
  · exact h
  split
  · exact h
  extract_lets s1
  have h1 : Keeps z s1 := h.collapseStep.modVd
  split
  · exact h1.modVd
  split
  · exact h1
  · exact h1.modVd.switchOff

protected theorem Keeps.execSaveFaultInStep1 (h : Keeps z s) {vd} : OutKeeps z (execSaveFaultInStep1 vd s) := by
  unfold execSaveFaultInStep1
  split
  · exact h
  extract_lets faulted s1
  have h1 : Keeps z s1 := h.setVd.restoreInstances
  split
  · exact h
  · exact h1

protected theorem Keeps.execCouplerPutArrives (h : Keeps z s) {win off bytes part} : OutKeeps z (execCouplerPutArrives win off bytes part s) := by
  unfold execCouplerPutArrives
  split
  · exact h
  extract_lets s1 s2
  have h1 : Keeps z s1 := h.touchEvent
  have h2 : Keeps z s2 := h1
  split
  · exact h
  · exact h2.retryPuts

protected theorem Keeps.freshClusters (h : Keeps z s) {v} : Keeps z (freshClusters s v) := h

protected theorem Keeps.powerUp (h : Keeps z s) {v} : Keeps z (powerUp s v) := h.modFields

protected theorem Keeps.execWakeDone (h : Keeps z s) {vd us} : OutKeeps z (execWakeDone vd us s) := by
  unfold execWakeDone
  split
  · exact h
  split
  · exact h
  extract_lets s1 s2 busy s3
  have h1 : Keeps z s1 := h.abortRecal.flushVd.freshClusters.restoreInstances
  have h3 : Keeps z s3 := h1.powerUp.modVd
  exact h3.retryHost.retryPuts

/-! ### The package -/

/-- A surge window with fewer than 8 grants may have one more (02 R45). -/
protected theorem Keeps.grant (h : Keeps z s) (ht : Keeps z t) {field : Nat} {a : Surge} (ha : a.grants < 8) {last} :
    Keeps z { t with surges := s.surges.set field { a with grants := a.grants + 1, last := last } } := by
  refine ⟨ht.1, fun hz b hb => ?_⟩
  rcases List.mem_or_eq_of_mem_set hb with hb | rfl
  · exact h.2 hz b hb
  · exact ha

protected theorem Keeps.execSurgeGrant (h : Keeps z s) {field} : OutKeeps z (execSurgeGrant field s) := by
  unfold execSurgeGrant
  split
  · exact h
  extract_lets cycle a waiting
  split
  · exact h
  next hg =>
    split
    · exact h
    split
    · exact h
    · exact h.grant h.setCluster (Nat.lt_of_not_le hg)

protected theorem Keeps.execDieFailure (h : Keeps z s) {die} : OutKeeps z (execDieFailure die s) := by
  unfold execDieFailure
  split
  · exact h
  · refine Keeps.loseMemory (Keeps.foldl ?_ fun _ k => k.failFor)
    exact h

protected theorem Keeps.execOpent (h : Keeps z s) {vd} : OutKeeps z (execOpent vd s) := by
  refine h.serve fun {s v q} k => ?_
  extract_lets va size ok free n w
  clear_value ok free
  split
  · exact k.svcReply
  split
  · exact k.svcReply
  · exact k

protected theorem Keeps.execOpens (h : Keeps z s) {vd peer} : OutKeeps z (execOpens vd peer s) := by
  refine h.serve fun {s v q} k => ?_
  split
  · exact k.svcReply
  split
  · exact k.svcReply
  · exact k.svcReply
  extract_lets gpa p
  split
  next hm =>
    have h1 := k.mapFor.keeps hm
    exact h1
  · exact k.svcReply

protected theorem Keeps.execClose (h : Keeps z s) {vd} : OutKeeps z (execClose vd s) := by
  refine h.serve fun {s v q} k => ?_
  extract_lets pkg win
  split
  · exact k.svcReply
  split
  · split <;> exact k
  · split <;> exact k

protected theorem Keeps.execAbort (h : Keeps z s) {vd} : OutKeeps z (execAbort vd s) := by
  refine h.serve fun {s v q} k => ?_
  extract_lets tag mine
  clear_value mine
  split
  · exact k.svcReply
  split
  · exact (k.abortTag.map fun k => k.svcReply).getD k
  · exact k.svcReply

protected theorem Keeps.execPeerAbort (h : Keeps z s) {tag} : OutKeeps z (execPeerAbort tag s) := h.abortTag.getD h

protected theorem Keeps.execIntegrity (h : Keeps z s) {req pa} : OutKeeps z (execIntegrity req pa s) := by
  unfold execIntegrity
  extract_lets s1
  have h1 : Keeps z s1 := h
  split
  · change Keeps z (ite ..)
    split
    · exact h1
    split
    · exact h1
    · exact h1.faultReq
  split
  · exact h1.postIntegrity
  · exact h1

protected theorem Keeps.execFieldInService (h : Keeps z s) {field} : OutKeeps z (execFieldInService field s) := by
  unfold execFieldInService
  split
  · exact h
  · extract_lets s1
    refine Keeps.comingUp ?_
    exact h

protected theorem Keeps.execEarlyServiceEnd (h : Keeps z s) : OutKeeps z (execEarlyServiceEnd s) := by
  unfold execEarlyServiceEnd
  split <;> exact h

protected theorem Keeps.execFieldRecalibration (h : Keeps z s) {field} : OutKeeps z (execFieldRecalibration field s) := by
  unfold execFieldRecalibration
  split
  · extract_lets s1 s2
    have h2 : Keeps z s2 := h
    exact Keeps.foldl h2 fun _ k => k.preemptForService
  · exact h

protected theorem Keeps.execRecalibrationEnd (h : Keeps z s) {field} : OutKeeps z (execRecalibrationEnd field s) := h.modFields.expireDue

protected theorem Keeps.execHbmChannelService (h : Keeps z s) {die chan} : OutKeeps z (execHbmChannelService die chan s) := by
  unfold execHbmChannelService
  split
  · refine Keeps.expireDue ?_
    exact h
  · exact h

protected theorem Keeps.execCouplerPortService (h : Keeps z s) {port} : OutKeeps z (execCouplerPortService port s) := by
  change Keeps z (ite ..)
  split
  · exact h.retryPuts
  · exact h

protected theorem Keeps.execSmcFailover (h : Keeps z s) : OutKeeps z (execSmcFailover s) := by
  unfold execSmcFailover
  split
  · refine Keeps.expireDue ?_
    exact h
  · split <;> exact h

/-- A reset leaves no memory and no grant. -/
theorem keeps_reset {rs n is} : Keeps z { State.reset with retired := rs, freeCtr := n, agenda := is } :=
  ⟨fun _ => rfl, fun _ _ ha => (List.eq_of_mem_replicate ha) ▸ Nat.zero_le 8⟩

protected theorem Keeps.execPackageReset : OutKeeps z (execPackageReset s) := keeps_reset.comingUp

protected theorem Keeps.execManagementPathWrite (h : Keeps z s) {what} : OutKeeps z (execManagementPathWrite what s) := by
  unfold execManagementPathWrite
  split
  · exact h.modFields
  · exact h.modVd
  · exact h.modVd

protected theorem Keeps.execComputeDieRetirement (h : Keeps z s) {die} : OutKeeps z (execComputeDieRetirement die s) := by
  unfold execComputeDieRetirement
  split <;> exact h

/-! ## Every step -/

/-- Every word and every event keeps. -/
protected theorem Keeps.exec (h : Keeps z s) : ∀ i, OutKeeps z (exec i s)
  | .bra _ => h.issue fun hc => hc.jumpTo
  | .brc _ => h.execBrc
  | .call _ => h.issue fun hc => hc.setG.jumpTo
  | .ret _ => h.execRet
  | .jmpi _ => h.issue fun hc => hc.indirect
  | .calli _ => h.issue fun hc => hc.indirect
  | .switch _ => h.execSwitch
  | .recon _ => h.execRecon
  | .join _ => h.execJoin
  | .land _ => h.plain fun hc => hc
  | .exit _ => h.execExit
  | .nop _ => h.plain fun hc => hc
  | .yield _ => h.issue fun hc => hc.1
  | .voteAny _ => h.plain fun hc => hc.putUni
  | .voteAll _ => h.plain fun hc => hc.putUni
  | .voteBallot _ => h.plain fun hc => hc.putUni
  | .voteCount _ => h.plain fun hc => hc.putUni
  | .voteFirst _ => h.plain fun hc => hc.putUni
  | .voteUniq _ => h.plain fun hc => hc.putUni
  | .winb _ => h.execWinb
  | .trap _ _ => h.issue fun _ => trivial
  | .bkpt _ _ => h.issue fun _ => trivial
  | .dstkDepth _ => h.plain fun hc => hc.putUni
  | .dstkSpill _ => h.dstkEdit fun k => k.spillEntries
  | .dstkFill _ => h.dstkEdit fun k => k.fillEntries
  | .iadd _ => h.plain fun hc => hc.putResult
  | .isub _ => h.plain fun hc => hc.putResult
  | .imul _ => h.plain fun hc => hc.putResult
  | .imulh _ => h.plain fun hc => hc.putResult
  | .imulhu _ => h.plain fun hc => hc.putResult
  | .imad _ => h.plain fun hc => hc.putResult
  | .imin _ => h.plain fun hc => hc.putResult
  | .imax _ => h.plain fun hc => hc.putResult
  | .iminu _ => h.plain fun hc => hc.putResult
  | .imaxu _ => h.plain fun hc => hc.putResult
  | .iunaryNeg _ => h.plain fun hc => hc.putResult
  | .iunaryAbs _ => h.plain fun hc => hc.putResult
  | .iunaryNot _ => h.plain fun hc => hc.putResult
  | .iunaryPopc _ => h.plain fun hc => hc.putResult
  | .iunaryClz _ => h.plain fun hc => hc.putResult
  | .iunaryCtz _ => h.plain fun hc => hc.putResult
  | .iunaryBrev _ => h.plain fun hc => hc.putResult
  | .iunaryBswap _ => h.plain fun hc => hc.putResult
  | .iunarySextb _ => h.plain fun hc => hc.putResult
  | .iunarySexth _ => h.plain fun hc => hc.putResult
  | .shl _ => h.plain fun hc => hc.putResult
  | .shr _ => h.plain fun hc => hc.putResult
  | .shra _ => h.plain fun hc => hc.putResult
  | .rotl _ => h.plain fun hc => hc.putResult
  | .and _ => h.plain fun hc => hc.putResult
  | .or _ => h.plain fun hc => hc.putResult
  | .xor _ => h.plain fun hc => hc.putResult
  | .andn _ => h.plain fun hc => hc.putResult
  | .bfx _ => h.plain fun hc => hc.putResult
  | .bfi _ => h.plain fun hc => hc.putResult
  | .icmp _ => h.plain fun hc => hc.putPred
  | .icmpu _ => h.plain fun hc => hc.putPred
  | .sel _ => h.plain fun hc => hc.putResult
  | .movi _ => h.plain fun hc => hc.putResult
  | .movhi _ => h.plain fun hc => hc.putResult
  | .mov _ => h.execMov
  | .iadd64 _ => h.plain fun hc => hc.putResult
  | .lea _ => h.plain fun hc => hc.putResult
  | .icmp64 _ => h.plain fun hc => hc.putPred
  | .dp4 _ => h.plain fun hc => hc.putResult
  | .vaddmin _ => h.plain fun hc => hc.putResult
  | .laneShup _ _ _ => h.plain fun hc => hc.putResult
  | .laneShdn _ _ _ => h.plain fun hc => hc.putResult
  | .laneXor _ _ => h.plain fun hc => hc.putResult
  | .laneidx _ => h.plain fun hc => hc.putResult
  | .bcast _ => h.plain fun hc => hc.putResult
  | .gredAdd _ => h.plain fun hc => hc.putUni
  | .gredMin _ => h.plain fun hc => hc.putUni
  | .gredMax _ => h.plain fun hc => hc.putUni
  | .gredMinu _ => h.plain fun hc => hc.putUni
  | .gredMaxu _ => h.plain fun hc => hc.putUni
  | .gredAnd _ => h.plain fun hc => hc.putUni
  | .gredOr _ => h.plain fun hc => hc.putUni
  | .gredXor _ => h.plain fun hc => hc.putUni
  | .gredFadd _ => h.plain fun hc => hc.setG.putUni
  | .gredFmin _ => h.plain fun hc => hc.setG.putUni
  | .gredFmax _ => h.plain fun hc => hc.setG.putUni
  | .gscanAdd _ _ => h.plain fun hc => hc.putResult
  | .gscanMin _ _ => h.plain fun hc => hc.putResult
  | .gscanMax _ _ => h.plain fun hc => hc.putResult
  | .getidLane _ => h.plain fun hc => hc.putResult
  | .getidGroup _ => h.plain fun hc => hc.putResult
  | .getidTeamx _ => h.plain fun hc => hc.putResult
  | .getidTeamy _ => h.plain fun hc => hc.putResult
  | .getidTeamz _ => h.plain fun hc => hc.putResult
  | .getidRole _ => h.plain fun hc => hc.putResult
  | .getidVdie _ => h.plain fun hc => hc.putResult
  | .getidNvdie _ => h.plain fun hc => hc.putResult
  | .getidCluster _ => h.plain fun hc => hc.putResult
  | .getidBay _ => h.plain fun hc => hc.putResult
  | .getidGridx _ => h.plain fun hc => hc.putResult
  | .getidGridy _ => h.plain fun hc => hc.putResult
  | .getidGridz _ => h.plain fun hc => hc.putResult
  | .vdhop _ => h.plain fun hc => hc.putResult
  | .cycle _ => h.plain fun hc => hc.putResult
  | .fadd _ => h.plain fun hc => hc.putF32
  | .fsub _ => h.plain fun hc => hc.putF32
  | .fmul _ => h.plain fun hc => hc.putF32
  | .ffma _ => h.plain fun hc => hc.putF32
  | .fmin _ => h.plain fun hc => hc.putF32
  | .fmax _ => h.plain fun hc => hc.putF32
  | .fcmp _ => h.plain fun hc => hc.setG.putPred
  | .funaryNeg _ => h.plain fun hc => hc.putF32
  | .funaryAbs _ => h.plain fun hc => hc.putF32
  | .funaryRcp _ => h.plain fun hc => hc.putF32
  | .funaryRsq _ => h.plain fun hc => hc.putF32
  | .funarySqrt _ => h.plain fun hc => hc.putF32
  | .funaryExp2 _ => h.plain fun hc => hc.putF32
  | .funaryLog2 _ => h.plain fun hc => hc.putF32
  | .funarySinpi _ => h.plain fun hc => hc.putF32
  | .funaryCospi _ => h.plain fun hc => hc.putF32
  | .funaryFloor _ => h.plain fun hc => hc.putF32
  | .funaryCeil _ => h.plain fun hc => hc.putF32
  | .funaryTrunc _ => h.plain fun hc => hc.putF32
  | .funaryRndne _ => h.plain fun hc => hc.putF32
  | .funaryFract _ => h.plain fun hc => hc.putF32
  | .fscale _ => h.plain fun hc => hc.putF32
  | .hadd2 _ => h.plain fun hc => hc.putF32
  | .hmul2 _ => h.plain fun hc => hc.putF32
  | .hfma2 _ => h.plain fun hc => hc.putF32
  | .badd2 _ => h.plain fun hc => hc.putF32
  | .bmul2 _ => h.plain fun hc => hc.putF32
  | .bfma2 _ => h.plain fun hc => hc.putF32
  | .famax _ => h.plain fun hc => hc.putF32
  | .cvt _ _ _ _ => h.plain fun hc => hc.setG.putResult
  | .cvtn _ => h.plain fun hc => hc.putF32
  | .qscale _ => h.plain fun hc => hc.putF32
  | .cbld _ _ => h.execCbld
  | .cbdec _ => h.plain fun hc => hc.putResult
  | .mma _ => h.issue fun hc => hc.mma
  | .mmaf _ => h.execMmaf
  | .mmaz _ => h.issue fun hc => hc.mma
  | .tzero _ => h.issue fun hc => hc.setG.finalise.push.finish
  | .trd _ => h.execTrd
  | .twr _ => h.execTwr
  | .twm _ => h.issue fun hc => hc.setG.push.finish
  | .fhset _ => h.execFhset
  | .tcvt _ => h.execTcvt
  | .tscl _ => h.execTscl
  | .ldb _ => h.load
  | .ldh _ => h.load
  | .ldw _ => h.load
  | .ldd _ => h.load
  | .ldq _ => h.load
  | .stb _ => h.store
  | .sth _ => h.store
  | .stw _ => h.store
  | .std _ => h.store
  | .stq _ => h.store
  | .ldxLdsc _ _ => h.issue fun hc => hc.loadBody
  | .ldxLsib _ _ _ => h.issue fun hc => hc.loadBody
  | .ldxLdnc _ _ _ => h.issue fun hc => hc.loadBody
  | .ldxPref _ => h.execLdxPref
  | .lds _ => h.execLds
  | .sts _ => h.execSts
  | .memxFence _ _ => h.execMemxFence
  | .memxFenceva _ => h.execMemxFenceva
  | .memxWaitc _ _ => h.execMemxWaitc
  | .memxCntq _ _ => h.plain fun hc => hc.putUni
  | .memxCinv _ => h.execMemxCinv
  | .memxSplitq _ => h.plain fun hc => hc.putUni
  | .drayCopy _ _ => h.dray
  | .drayCopy2d _ _ => h.dray
  | .drayGather _ _ => h.dray
  | .drayScatter _ _ => h.dray
  | .draySpill _ _ => h.dray
  | .drayGcopy _ _ => h.dray
  | .drayPut _ _ => h.dray
  | .drayGet _ _ => h.dray
  | .drayFill _ _ => h.dray
  | .drayPoolfill _ _ => h.dray
  | .drayPoolcmp _ _ => h.dray
  | .drayPoolred _ _ => h.dray
  | .drayPub _ _ => h.dray
  | .drayStat _ => h.issue fun hc => hc.setG.push.finish
  | .dwaitOne _ => h.execDwaitOne
  | .dwaitAll _ => h.execDwaitAll
  | .barInit _ => h.execBarInit
  | .barArr _ => h.arrive
  | .barArrn _ => h.arrive
  | .barExpb _ => h.execBarExpb
  | .barWait _ _ => h.execBarWait
  | .barTry _ _ => h.execBarTry
  | .barQry _ => h.bar fun hc _ _ => hc.putUni.finish
  | .atarithAdd _ => h.atomic
  | .atarithFadd _ => h.atomic
  | .atarithDecp _ => h.atomic
  | .atarithIncw _ => h.atomic
  | .atminmaxMin _ => h.atomic
  | .atminmaxMax _ => h.atomic
  | .atminmaxMinu _ => h.atomic
  | .atminmaxMaxu _ => h.atomic
  | .atlogicAnd _ => h.atomic
  | .atlogicOr _ => h.atomic
  | .atlogicXor _ => h.atomic
  | .atlogicSwap _ => h.atomic
  | .atcasCas32 _ => h.atomic
  | .atcasCas64 _ => h.atomic
  | .atcasAdd64 _ => h.atomic
  | .redAdd _ => h.red
  | .redFadd _ => h.red
  | .redMin _ => h.red
  | .redMax _ => h.red
  | .waita _ => h.waita
  | .waitaTo _ => h.waita
  | .wakeOne _ => h.wake
  | .wakeAll _ => h.wake
  | .rcn _ => h.rcn
  | .rcnD _ => h.rcn
  | .send _ _ => h.execSend
  | .recv _ _ => h.execRecv
  | .chq _ _ => h.execChq
  | .syscall _ => h.issue fun _ => trivial
  | .eret _ => h.execEret
  | .wfi _ => h.execWfi
  | .halt _ => h.issue fun hc => hc.1
  | .csrr _ => h.execCsrr
  | .csrw _ => h.execCsrw
  | .rlySend _ => h.execRlySend
  | .rlyRecv _ => h.execRlyRecv
  | .rlyPoll _ => h.plain fun hc => hc.putUni
  | .xlatInvr _ => h.execXlatInvr
  | .xlatBlock _ => h.xlatRelay
  | .xlatPurge _ => h.xlatRelay
  | .xlatProbe _ => h.execXlatProbe
  | .xlatScrub _ => h.execXlatScrub
  | .xlatPin _ => h.execXlatPin
  | .pwrIslq _ _ => h.plain fun hc => hc.putUni
  | .pwrDorm _ => h.execPwrDorm
  | .pwrWakeq _ => h.plain fun hc => hc.putUni
  | .launch _ _ _ _ => h.execLaunch
  | .wakeWrite _ _ => h.execWakeWrite
  | .registerWrite _ _ _ _ => h.execRegisterWrite
  | .hwbaseWrite _ _ => h.execHwbaseWrite
  | .hostApertureAccess _ _ _ _ _ => h.execHostApertureAccess
  | .functionLevelReset _ => h.execFunctionLevelReset
  | .registerAGraph _ => h.execRegisterAGraph
  | .unregister _ => h.execUnregister
  | .createAVd _ _ => h.execCreateAVd
  | .destroyAVd _ => h.execDestroyAVd
  | .resetTheVf _ => h.execResetTheVf
  | .unknownOperationCode _ => h.execUnknownOperationCode
  | .vfReset _ => h.execVfReset
  | .dispatchTeam _ _ => h.execDispatchTeam
  | .stealRequest _ _ => h.execStealRequest
  | .stealHandled _ => h.execStealHandled
  | .stealReply _ => h.execStealReply
  | .compactionMove _ _ _ _ => h.execCompactionMove
  | .compactorRetry _ _ => h.execCompactorRetry
  | .steeringCap _ _ => h.execSteeringCap
  | .imeasUpdate _ _ => h.execImeasUpdate
  | .tokenRefill _ _ => h.execTokenRefill
  | .egressRelease _ _ => h.execEgressRelease
  | .surgeGrant _ => h.execSurgeGrant
  | .dieFailure _ => h.execDieFailure
  | .workBegins _ => h.execWorkBegins
  | .workEnds _ => h.execWorkEnds
  | .timerExpires _ => h.execTimerExpires
  | .collapseStepDone _ => h.execCollapseStepDone
  | .saveFaultInStep1 _ => h.execSaveFaultInStep1
  | .wakeDone _ _ => h.execWakeDone
  | .issueChoice _ _ => h.execIssueChoice
  | .sliceRequest _ => h.execSliceRequest
  | .homePerform _ => h.execHomePerform
  | .remoteWriteback _ _ => h.execRemoteWriteback
  | .replyArrives _ => h.execReplyArrives
  | .remapResend _ => h.execRemapResend
  | .blockAtSlice _ _ _ => h.execBlockAtSlice
  | .purgeAtSlice _ _ _ => h.execPurgeAtSlice
  | .shootdownComplete _ => h.execShootdownComplete
  | .pubSliceBlock _ _ _ => h.execPubSliceBlock
  | .swapPoint _ => h.execSwapPoint
  | .sliceMapChange _ _ => h.execSliceMapChange
  | .sweepPassStart _ => h.execSweepPassStart
  | .sweepPassEnd _ => h.execSweepPassEnd
  | .drayUnitDone _ => h.execDrayUnitDone
  | .drayComplete _ _ => h.execDrayComplete
  | .drayRemainderResume _ _ => h.execDrayRemainderResume
  | .poolResponse _ _ _ => h.execPoolResponse
  | .monitorWake _ => h.execMonitorWake
  | .waitaTimeout _ => h.execWaitaTimeout
  | .mmafRendezvous _ _ => h.execMmafRendezvous
  | .wfiWake _ _ => h.execWfiWake
  | .ktimerExpires _ _ => h.execKtimerExpires
  | .groupStop _ _ => h.execGroupStop
  | .saveComplete _ _ => h.execSaveComplete
  | .faultRecordPost _ _ => h.execFaultRecordPost
  | .saveWriteFault _ _ => h.execSaveWriteFault
  | .groupRestore _ _ => h.execGroupRestore
  | .quantumExpires _ => h.execQuantumExpires
  | .watchdog _ _ => h.execWatchdog
  | .drainEnd _ _ => h.execDrainEnd
  | .teamRetire _ => h.execTeamRetire
  | .relayMessageArrives _ _ => h.execRelayMessageArrives
  | .opent _ => h.execOpent
  | .opens _ _ => h.execOpens
  | .close _ => h.execClose
  | .abort _ => h.execAbort
  | .couplerPutArrives _ _ _ _ => h.execCouplerPutArrives
  | .putAcknowledged _ => h.execPutAcknowledged
  | .integrity _ _ => h.execIntegrity
  | .fieldInService _ => h.execFieldInService
  | .earlyServiceEnd => h.execEarlyServiceEnd
  | .fieldRecalibration _ => h.execFieldRecalibration
  | .hbmChannelService _ _ => h.execHbmChannelService
  | .couplerPortService _ => h.execCouplerPortService
  | .smcFailover => h.execSmcFailover
  | .packageReset => Keeps.execPackageReset
  | .managementPathWrite _ => h.execManagementPathWrite
  | .peerAbort _ => h.execPeerAbort
  | .recalibrationEnd _ => h.execRecalibrationEnd
  | .computeDieRetirement _ => h.execComputeDieRetirement

/-! ### The events that the package's agents bring about -/

/-- Every event of a list keeps, in whatever state it comes about. -/
def ActsKeep (as : List Act) : Prop := ∀ a ∈ as, ∀ {z s}, Keeps z s → OutKeeps z (a s)

namespace ActsKeep

theorem nil : ActsKeep [] := fun _ ha => absurd ha List.not_mem_nil

theorem cons {a : Act} {as : List Act} (h : ∀ {z s}, Keeps z s → OutKeeps z (a s)) (has : ActsKeep as) : ActsKeep (a :: as) := List.forall_mem_cons.2 ⟨h, has⟩

theorem append {as bs : List Act} (ha : ActsKeep as) (hb : ActsKeep bs) : ActsKeep (as ++ bs) := List.forall_mem_append.2 ⟨ha, hb⟩

theorem flatMap {l : List α} {f : α → List Act} (h : ∀ a, ActsKeep (f a)) : ActsKeep (l.flatMap f) := fun _ hb => by
  obtain ⟨a, -, hb⟩ := List.mem_flatMap.mp hb
  exact h a _ hb

theorem map {l : List α} {f : α → Act} (h : ∀ a, ∀ {z s}, Keeps z s → OutKeeps z (f a s)) : ActsKeep (l.map f) := List.forall_mem_map.2 fun a _ => h a

theorem ite {p : Prop} [Decidable p] {as : List Act} (h : ActsKeep as) : ActsKeep (if p then as else []) := by
  split
  · exact h
  · exact nil

/-- Changes of the state by themselves. -/
theorem updates {fs : List (State → State)} (h : ∀ f ∈ fs, ∀ {z s}, Keeps z s → Keeps z (f s)) : ActsKeep (fs.map fun f s => .next (f s)) := List.forall_mem_map.2 h

end ActsKeep

open ActsKeep

theorem actsKeep_requestActs : ActsKeep (requestActs s) := by
  refine append (append (flatMap fun _ => ?_) (map fun _ _ _ h => h.execRemoteWriteback)) (map fun _ _ _ h => h.l1Evict)
  exact cons (·.execEgressRelease) <| cons (·.execSliceRequest) <| cons (·.execHomePerform) <| cons (·.execReplyArrives) <| cons (·.execRemapResend) <|
    cons (·.mergeRed) nil

theorem keeps_of_mem_changeActs {f : State → State} (hf : f ∈ changeActs s) {u} (h : Keeps z u) : Keeps z (f u) := by
  obtain ⟨m, -, hf⟩ := List.mem_flatMap.mp hf
  rcases List.mem_append.mp hf with hf | hf
  · rcases List.mem_append.mp hf with hf | hf
    · obtain ⟨n, -, rfl⟩ := List.mem_map.mp hf
      exact h.ackSlice
    · obtain ⟨n, -, rfl⟩ := List.mem_map.mp hf
      exact h.ackSite
  · rw [List.mem_singleton.mp hf]
    exact h.endChange

theorem actsKeep_engineActs : ActsKeep (engineActs s) := by
  refine append (append (append (flatMap fun o => append (flatMap fun p => ?shoot) ?done) (flatMap fun d => append (map fun p _ _ h => h.execPubSliceBlock) ?dray))
    (flatMap fun m => ?monitor)) (updates fun f hf => keeps_of_mem_changeActs hf)
  case shoot => exact cons (·.execBlockAtSlice) <| cons (·.execPurgeAtSlice) nil
  case done => exact cons (·.execShootdownComplete) nil
  case dray => exact cons (·.execSwapPoint) <| cons (·.execDrayUnitDone) <| cons (·.execDrayComplete) nil
  case monitor => exact cons (·.execMonitorWake) <| cons (·.execWaitaTimeout) nil

theorem keeps_of_mem_parkedActs {f : State → State} (hf : f ∈ parkedActs s) {u} (h : Keeps z u) : Keeps z (f u) := by
  obtain ⟨g, -, hf⟩ := List.mem_flatMap.mp hf
  obtain ⟨i, -, rfl⟩ := List.mem_map.mp hf
  exact h.parkedWork

theorem actsKeep_groupActs : ActsKeep (groupActs s) := by
  refine append (append (append (append (flatMap fun g => ?group) (flatMap fun t => append ?team ?watchdog)) (updates fun f hf => keeps_of_mem_parkedActs hf))
    (map fun g _ _ h => h.serveSyscall)) (map fun n _ _ h => h.forwardTrap)
  case group =>
    exact cons (·.execMmafRendezvous) <| cons (·.execWfiWake) <| cons (·.execGroupStop) <| cons (·.execSaveComplete) <| cons (·.execSaveWriteFault) <|
      cons (·.execGroupRestore) <| cons (·.execDrayRemainderResume) <| cons (·.execDrainEnd) nil
  case team => exact cons (·.execQuantumExpires) <| cons (·.execTeamRetire) nil
  case watchdog =>
    cases t.site with
    | cluster d n => exact cons (·.execWatchdog) nil
    | _ => exact nil

protected theorem Keeps.compactionAct (h : Keeps z s) {site m} : OutKeeps z (compactionAct site m s) := by
  unfold compactionAct
  split
  · exact h.execCompactionMove
  · exact h

theorem actsKeep_vdActs : ActsKeep (vdActs s) := by
  refine flatMap fun v => append (append (append (append (append (append (append (flatMap fun i => append ?inst (flatMap fun k => map fun m _ _ h => h.compactionAct))
    (map fun l _ _ h => h.completeLaunch)) (ite ?mailbox)) (flatMap fun x => ?steal)) ?dormancy) ?service) (ite ?reset)) ?held
  case inst =>
    exact cons (·.execDispatchTeam) <| cons (·.execStealRequest) <| cons (·.execCompactorRetry) <| cons (·.execSteeringCap) <| cons (·.execTokenRefill) <|
      cons (·.execKtimerExpires) <| cons (·.execFaultRecordPost) <| cons (·.execRelayMessageArrives) nil
  case mailbox => exact cons (·.execRegisterAGraph) <| cons (·.execUnregister) <| cons (·.execUnknownOperationCode) nil
  case steal => exact cons (·.execStealHandled) <| cons (·.execStealReply) nil
  case dormancy =>
    exact cons (·.execWorkBegins) <| cons (·.execWorkEnds) <| cons (·.execTimerExpires) <| cons (·.execCollapseStepDone) <| cons (·.execSaveFaultInStep1) <|
      cons (·.execWakeDone) <| cons (·.execSweepPassStart) <| cons (·.execSweepPassEnd) nil
  case service => exact cons (·.execOpent) <| cons (·.execClose) <| cons (·.execAbort) nil
  case reset => exact cons (·.execVfReset) nil
  case held => exact cons (·.retryHost) <| cons (·.peerSends) nil

theorem actsKeep_fieldActs : ActsKeep (fieldActs s) :=
  append (append (append (map fun _ _ _ h => h.execSurgeGrant) (cons (·.retryPuts) nil)) (map fun _ _ _ h => h.advanceCycle)) (map fun _ _ _ h => h.execIssueChoice)

theorem actsKeep_actsOf : ActsKeep (actsOf s) := append (append (append (append actsKeep_requestActs actsKeep_engineActs) actsKeep_groupActs) actsKeep_vdActs) actsKeep_fieldActs

/-! ### The step -/

protected theorem Keeps.idle (h : Keeps z s) : OutKeeps z (idle s) := by
  unfold idle
  extract_lets acts
  split
  next a ha => exact actsKeep_actsOf a (List.mem_of_getElem? ha) h
  · exact h

protected theorem Keeps.stepWord (h : Keeps z s) {u} : OutKeeps z (stepWord s u) := by
  unfold stepWord
  split
  · exact h.issueDue
  split
  · exact h
  split
  · exact h
  split
  · exact h.issueFetchFault
  split
  · exact h.exec _
  · exact h.issueBad

theorem keeps_step (hs : step s = .next t) : Keeps s t := by
  refine OutKeeps.keeps ?_ hs
  have h : Keeps s s := Keeps.refl s
  unfold step
  split
  · exact h.stepWord
  split
  · refine Keeps.exec ?_ _
    exact h
  · exact h.idle

/-- Settles O57: every operation of a step that changes memory writes a range of bytes, or maps frames, which keeps the form; the others leave memory as it is. -/
theorem everyStepKeepsTheFormOfMemory : Obligations.EveryStepKeepsTheFormOfMemory := by
  unfold Obligations.EveryStepKeepsTheFormOfMemory
  intro s t hw hs
  exact (keeps_step hs).1 hw

end Sys2Proof.Machine
end

section
/-! The mailbox operations (01 R27-R32; 02 R33, R34, R54; 16 R411; 17 R433).

Each of them rings the doorbell, acts and replies. What ringing leaves alone is said once (`Wakes`), what the bookkeeping of a reset and of a creation leaves alone once more (`Tidies`), and each
operation has an equation for each way it can go; the statement is put together from these. -/

namespace Sys2Proof.Machine

/-! ### Replies -/

@[simp] theorem mboxOf_setMbox_same (s : State) (fn : Nat) (m : Mbox) : mboxOf (setMbox s fn m) fn = m := by
  simp [mboxOf, setMbox]

@[simp] theorem mboxOf_reply_same (s : State) (fn status : Nat) (result : BitVec 64) :
    mboxOf (reply s fn status result) fn =
      { mboxOf s fn with status := BitVec.ofNat 64 status, result := if status = 0 then result else 0#64, ready := true, busy := false } :=
  mboxOf_setMbox_same _ _ _

@[simp] theorem reply_mem (s : State) (fn status : Nat) (result : BitVec 64) : (reply s fn status result).mem = s.mem := rfl
@[simp] theorem reply_vds (s : State) (fn status : Nat) (result : BitVec 64) : (reply s fn status result).vds = s.vds := rfl
@[simp] theorem reply_groups (s : State) (fn status : Nat) (result : BitVec 64) : (reply s fn status result).groups = s.groups := rfl
@[simp] theorem findVd_reply (s : State) (fn status : Nat) (result : BitVec 64) (n : Nat) : findVd (reply s fn status result) n = findVd s n := rfl

/-! ### Ringing -/

/-- What a wake event may do: it writes the records of virtual devices, none of which comes, goes or is renumbered, stops groups, ends recalibrations of fields, and marks its mailbox. -/
structure Wakes (s t : State) : Prop where
  rest : t = { s with vds := t.vds, groups := t.groups, fields := t.fields, mboxes := t.mboxes }
  nums : t.vds.map Vd.num = s.vds.map Vd.num

theorem Wakes.refl (s : State) : Wakes s s := ⟨rfl, rfl⟩

theorem Wakes.trans {s t u : State} (h : Wakes s t) (k : Wakes t u) : Wakes s u := ⟨by rw [k.rest, h.rest], k.nums.trans h.nums⟩

theorem wakes_modVd (s : State) (n : Nat) {f : Vd → Vd} (hf : ∀ v, (f v).num = v.num) : Wakes s (modVd s n f) := by
  refine ⟨rfl, ?_⟩
  simp only [modVd, List.map_map]
  refine List.map_congr_left fun u _ => ?_
  dsimp only [Function.comp]
  split
  · exact hf u
  · rfl

theorem wakes_setVd (s : State) (v : Vd) : Wakes s (setVd s v) := by
  refine ⟨rfl, ?_⟩
  simp only [setVd, List.map_map]
  refine List.map_congr_left fun u _ => ?_
  dsimp only [Function.comp]
  split
  · next h => exact (beq_iff_eq.mp h).symm
  · rfl

theorem startWake_num (v : Vd) (cause : Nat) : (startWake v cause).num = v.num := by
  unfold startWake
  split
  · split <;> rfl
  · rfl
  · rfl

@[simp] theorem beginReset_num (v : Vd) : (beginReset v).num = v.num := startWake_num v _

theorem wakes_beginCollapse (s : State) (v : Vd) : Wakes s (beginCollapse s v) := (wakes_setVd s _).trans ⟨rfl, rfl⟩

theorem wakes_expire (s : State) (v : Vd) : Wakes s (expire s v) := by
  unfold expire
  split
  · exact .refl s
  split
  · exact wakes_setVd s _
  split
  · exact wakes_setVd s _
  · exact wakes_beginCollapse s v

theorem wakes_expireDue (s : State) : Wakes s (expireDue s) := by
  refine List.foldlRecOn (motive := Wakes s) _ _ (.refl s) fun t h v _ => ?_
  split
  · exact h
  · exact h.trans (wakes_expire t v)

theorem wakes_abortRecal (s : State) (vd : Nat) : Wakes s (abortRecal s vd) := by
  unfold abortRecal
  split
  · exact .refl s
  split
  · refine Wakes.trans ?_ (wakes_expireDue _)
    exact ⟨rfl, rfl⟩
  · exact .refl s

theorem wakes_touchEvent (s : State) (vd cause : Nat) : Wakes s (touchEvent s vd cause) :=
  (wakes_abortRecal s vd).trans (wakes_modVd _ vd fun v => startWake_num v cause)

theorem wakes_doorbell (s : State) (fn : Nat) : Wakes s (doorbell s fn) := by
  unfold doorbell
  extract_lets m
  split
  · exact .refl s
  · have marked : Wakes s (setMbox s fn { m with busy := true, ready := false }) := ⟨rfl, rfl⟩
    have rung := marked.trans (wakes_modVd _ fn (f := fun v => v.modInst 0 ringInst) fun _ => rfl)
    exact rung.trans (wakes_touchEvent _ fn 3)

@[simp] theorem doorbell_mem (s : State) (fn : Nat) : (doorbell s fn).mem = s.mem := by rw [(wakes_doorbell s fn).rest]
@[simp] theorem doorbell_reqs (s : State) (fn : Nat) : (doorbell s fn).reqs = s.reqs := by rw [(wakes_doorbell s fn).rest]
@[simp] theorem doorbell_blocks (s : State) (fn : Nat) : (doorbell s fn).blocks = s.blocks := by rw [(wakes_doorbell s fn).rest]
@[simp] theorem doorbell_locks (s : State) (fn : Nat) : (doorbell s fn).locks = s.locks := by rw [(wakes_doorbell s fn).rest]
@[simp] theorem doorbell_chanService (s : State) (fn : Nat) : (doorbell s fn).chanService = s.chanService := by rw [(wakes_doorbell s fn).rest]
@[simp] theorem doorbell_windows (s : State) (fn : Nat) : (doorbell s fn).windows = s.windows := by rw [(wakes_doorbell s fn).rest]
@[simp] theorem doorbell_paths (s : State) (fn : Nat) : (doorbell s fn).paths = s.paths := by rw [(wakes_doorbell s fn).rest]

@[simp] theorem smcAway_doorbell (s : State) (fn : Nat) : smcAway (doorbell s fn) = smcAway s := by
  rw [(wakes_doorbell s fn).rest]; rfl

theorem findVd_isSome_iff (s : State) (n : Nat) : (findVd s n).isSome = true ↔ n ∈ s.vds.map Vd.num := by
  simp [findVd]

theorem findVd_doorbell_isSome (s : State) (fn n : Nat) : (findVd (doorbell s fn) n).isSome = (findVd s n).isSome := by
  rw [Bool.eq_iff_iff, findVd_isSome_iff, findVd_isSome_iff, (wakes_doorbell s fn).nums]

/-! ### What the device's own bookkeeping leaves of virtual devices and groups -/

/-- A virtual device whose instances and set-aside frames alone may have changed. -/
def VdKept (v w : Vd) : Prop := w = { v with insts := w.insts, tables := w.tables }

/-- Every virtual device is still there, and of each only instances and set-aside frames may have changed. -/
def VdsKept (s t : State) : Prop := ∀ n v, findVd s n = some v → ∃ w, findVd t n = some w ∧ VdKept v w

theorem VdKept.refl (v : Vd) : VdKept v v := rfl

theorem VdKept.trans {u v w : Vd} (h : VdKept u v) (k : VdKept v w) : VdKept u w := by
  unfold VdKept at *
  rw [k, h]

theorem VdKept.num {v w : Vd} (h : VdKept v w) : w.num = v.num := by
  unfold VdKept at h; rw [h]

theorem VdsKept.of_eq {s t : State} (h : t.vds = s.vds) : VdsKept s t := fun _ v hv => ⟨v, by rw [findVd, h]; exact hv, .refl v⟩

theorem VdsKept.trans {s t u : State} (h : VdsKept s t) (k : VdsKept t u) : VdsKept s u := by
  intro n v hv
  obtain ⟨w, hw, first⟩ := h n v hv
  obtain ⟨x, hx, second⟩ := k n w hw
  exact ⟨x, hx, first.trans second⟩

/-- What is found under a number after a record has been changed, whichever of the two records it is. -/
theorem findVd_modVd (s : State) (k : Nat) {f : Vd → Vd} (hf : ∀ v, (f v).num = v.num) (n : Nat) :
    findVd (modVd s k f) n = (findVd s n).map (fun v => if v.num == k then f v else v) := by
  unfold findVd modVd
  rw [List.find?_map]
  congr 2
  funext v
  dsimp only [Function.comp]
  split
  · rw [hf]
  · rfl

theorem vdsKept_modVd (s : State) (k : Nat) {f : Vd → Vd} (hf : ∀ v, VdKept v (f v)) : VdsKept s (modVd s k f) := by
  intro n v hv
  refine ⟨_, by rw [findVd_modVd s k (fun v => (hf v).num), hv]; rfl, ?_⟩
  dsimp only
  split
  · exact hf v
  · exact .refl v

/-- A virtual device has no group but the first kernel group of each of its dies. -/
def OnlyFirstKernels (s : State) (n : Nat) : Prop := ∀ g, g ∈ s.groups → g.vd = n → g.level = .k ∧ g.num = 0

/-- What writes to memory, write-backs, aborts of collectives and starts of instances leave alone: what holds accesses, the host accesses that wait, the virtual devices' own registers, graphs and
launches; and they start no group but the first kernel group of a die. -/
structure Tidies (s t : State) : Prop where
  blocks : t.blocks = s.blocks
  locks : t.locks = s.locks
  chanService : t.chanService = s.chanService
  hostHeld : t.hostHeld = s.hostHeld
  vds : VdsKept s t
  kernels : ∀ n, OnlyFirstKernels s n → OnlyFirstKernels t n

theorem Tidies.refl (s : State) : Tidies s s := ⟨rfl, rfl, rfl, rfl, .of_eq rfl, fun _ => id⟩

theorem Tidies.trans {s t u : State} (h : Tidies s t) (k : Tidies t u) : Tidies s u :=
  ⟨k.blocks.trans h.blocks, k.locks.trans h.locks, k.chanService.trans h.chanService, k.hostHeld.trans h.hostHeld, h.vds.trans k.vds, fun n => k.kernels n ∘ h.kernels n⟩

theorem Tidies.foldl {α : Type} {f : State → α → State} (hf : ∀ s a, Tidies s (f s a)) (l : List α) (s : State) : Tidies s (l.foldl f s) :=
  List.foldlRecOn (motive := Tidies s) l f (.refl s) fun t h a _ => h.trans (hf t a)

theorem HomeOnly.tidies {s t : State} (h : HomeOnly s t) : Tidies s t := by
  unfold HomeOnly at h
  rw [h]
  exact ⟨rfl, rfl, rfl, rfl, .of_eq rfl, fun _ => id⟩

theorem tidies_modVd (s : State) (n : Nat) {f : Vd → Vd} (hf : ∀ v, VdKept v (f v)) : Tidies s (modVd s n f) :=
  ⟨rfl, rfl, rfl, rfl, vdsKept_modVd s n hf, fun _ => id⟩

theorem tidies_noteRefusal (s : State) (gid : Nat) (va : DWord) : Tidies s (noteRefusal s gid va) := by
  refine ⟨rfl, rfl, rfl, rfl, .of_eq rfl, fun n h g hg => ?_⟩
  obtain ⟨g', hg', rfl⟩ := List.mem_map.mp hg
  have same := h g' hg'
  by_cases mine : g'.gid == gid
  · by_cases first : g'.refuse = none <;> simpa [mine, first] using same
  · simpa [mine] using same

theorem tidies_postIntegrity (s : State) (vd pa : Nat) : Tidies s (postIntegrity s vd pa) := by
  unfold postIntegrity
  split
  · exact .refl s
  · exact tidies_modVd s _ fun _ => rfl

theorem tidies_writeBackCell (s : State) (ws : List RemoteWord) : Tidies s (writeBackCell s ws) := by
  unfold writeBackCell
  split
  · exact .refl s
  · extract_lets c mask val o
    have written : Tidies s o.2 := (writeCell_rest _ _ _ _ _).tidies
    split
    · exact written
    · exact written.trans (tidies_noteRefusal _ _ _)

theorem tidies_writeBack (s : State) (p : RemoteWord → Bool) : Tidies s (writeBack s p) := by
  unfold writeBack
  extract_lets ds ps bad good s1 s2
  have h1 : Tidies s s1 := (homeOnly_freshChecks s ps).tidies.trans (.foldl tidies_writeBackCell _ _)
  have h2 : Tidies s s2 := h1.trans (.foldl (fun s _ => tidies_postIntegrity s _ _) _ _)
  exact h2.trans ⟨rfl, rfl, rfl, rfl, .of_eq rfl, fun _ => id⟩

/-! ### Registration -/

theorem copyPages_vds (v : Vd) (ps : List Nat) (s : State) (b : List (BitVec 8)) : (copyPages s v ps b).vds = s.vds := by
  induction ps generalizing s b with
  | nil => rfl
  | cons p ps ih =>
    obtain ⟨-, -, written, -⟩ := (deviceWrite_rest (b.take 65536) (forget s (v.codePage p) 65536) (v.codePage p)).keeps
    rw [copyPages, ih, written, forget_vds]

theorem copyImages_vds (s : State) (v : Vd) (r : RegRead) (ims : List Image) : (copyImages s v r ims).vds = s.vds := by
  refine List.foldlRecOn (motive := fun t : State => t.vds = s.vds) _ _ rfl fun t h k _ => ?_
  rw [copyPages_vds, copyPages_vds, h]

/-! ### A mailbox operation that is served -/

section
variable {s : State} {v : Vd}

theorem mailboxOp_served {fn code : Nat} {k : State → Vd → Mbox → State} (code_eq : (mboxOf s fn).byte 0 = code) (known : (findVd s fn).isSome = true)
    (found : findVd (doorbell s fn) fn = some v) (serving : serves v = true) (present : smcAway (doorbell s fn) = false) :
    mailboxOp s fn code k = k (doorbell s fn) v (mboxOf (doorbell s fn) fn) := by
  obtain ⟨v0, hv0⟩ := Option.isSome_iff_exists.mp known
  simp [mailboxOp, hv0, code_eq, found, serving, present]

theorem manage_served {code n : Nat} {k : State → Vd → State} (code_eq : (mboxOf s 0).byte 0 = code) (present : smcAway s = false) (found : findVd (doorbell s 0) n = some v) :
    manage s code (some n) k = k (doorbell s 0) v := by
  simp [manage, code_eq, present, found]

theorem manage_noVd {code n : Nat} {k : State → Vd → State} (code_eq : (mboxOf s 0).byte 0 = code) (present : smcAway s = false) (none : findVd (doorbell s 0) n = none) :
    manage s code (some n) k = reply (doorbell s 0) 0 0x0B 0#64 := by
  simp [manage, code_eq, present, none]

end

/-! ### The reply word of a registration -/

theorem registerSettled_unread {s : State} {v : Vd} {asid va : Nat} {f : RegFail} (h : readGraph s v asid va = .error f) :
    registerSettled s v asid va = (f.err * 2 ^ 16 + f.detail * 2 ^ 24, s) := by
  simp [registerSettled, h]

theorem registerSettled_failed {s : State} {v : Vd} {asid va : Nat} {r : RegRead} {f : RegFail} (h : readGraph s v asid va = .ok r) (hf : regFail v r = some f) :
    registerSettled s v asid va = (f.err * 2 ^ 16 + f.detail * 2 ^ 24, s) := by
  simp [registerSettled, h, hf]

/-- The graph that a registration makes of what it has read. -/
def newGraph (s : State) (v : Vd) (asid : Nat) (r : RegRead) : Graph :=
  { handle := pickHandle v (Config.freeValue s.freeCtr), asid := asid, nodes := r.nodes.map (nodeOf r), edges := r.edges.map edgeOf, images := placeImages v r, live := true }

/-- A registration that passes every check adds its graph and answers its handle. -/
theorem registerSettled_passed {s : State} {v : Vd} {asid va : Nat} {r : RegRead} (h : readGraph s v asid va = .ok r) (hf : regFail v r = none) :
    registerSettled s v asid va =
      ((newGraph s v asid r).handle, modVd (copyImages { s with freeCtr := s.freeCtr + 1 } v r (placeImages v r)) v.num
        (fun w => { w with graphs := w.graphs ++ [newGraph s v asid r], codeNext := w.codeNext + 65536 * regionPages r })) := by
  simp only [registerSettled, h, hf, newGraph]

/-- After it the front end knows the graph. -/
theorem registerSettled_adds {s : State} {v w : Vd} {asid va : Nat} {r : RegRead} (h : readGraph s v asid va = .ok r) (hf : regFail v r = none) (found : findVd s v.num = some w) :
    ∃ w', findVd (registerSettled s v asid va).2 v.num = some w' ∧ newGraph s v asid r ∈ w'.graphs := by
  have copied : findVd (copyImages { s with freeCtr := s.freeCtr + 1 } v r (placeImages v r)) v.num = some w := by
    rw [findVd, copyImages_vds]; exact found
  rw [registerSettled_passed h hf]
  exact ⟨_, findVd_modVd_same (fun _ h => h) copied, List.mem_append_right _ (List.mem_singleton_self _)⟩

theorem registerWaits_of_unread {s : State} {v : Vd} {asid va : Nat} {f : RegFail} (h : readGraph (settleDie0 s v) v asid va = .error f) : registerWaits s v asid va = false := by
  simp [registerWaits, pagesBusy, h]

theorem registerWaits_of_failed {s : State} {v : Vd} {asid va : Nat} {r : RegRead} {f : RegFail} (h : readGraph (settleDie0 s v) v asid va = .ok r) (hf : regFail v r = some f) :
    registerWaits s v asid va = false := by
  simp [registerWaits, pagesBusy, h, hf]

/-! ### Unregistering -/

/-- What UNREGISTER makes of a virtual device's record. -/
def unregistered (h : Nat) (v : Vd) : Vd := dropGraphs { v with graphs := v.graphs.map (fun g => if g.handle == h then { g with live := false } else g) }

theorem known_unregistered (h : Nat) (v : Vd) : (unregistered h v).known h = none := by
  unfold Vd.known
  split
  · rfl
  · rw [List.find?_eq_none]
    intro g hg
    obtain ⟨g', -, rfl⟩ := List.mem_map.mp (List.mem_filter.mp hg).1
    split
    · simp
    · next other => simp_all

/-! ### Aborting the collectives of a virtual device that is reset -/

/-- Nothing holds an access: no block, no lock, no channel in service. -/
def NothingHeld (s : State) : Prop := s.blocks = [] ∧ s.locks = [] ∧ s.chanService = []

theorem Tidies.nothingHeld {s t : State} (h : Tidies s t) : NothingHeld s → NothingHeld t :=
  fun ⟨noBlock, noLock, inService⟩ => ⟨h.blocks.trans noBlock, h.locks.trans noLock, h.chanService.trans inService⟩

/-- A step that something held could stop is made, and is bookkeeping. -/
def Made (s : State) (o : Option State) : Prop := ∃ t, o = some t ∧ Tidies s t

theorem made_foldlM {α : Type} {f : State → α → Option State} (hf : ∀ {s} a, NothingHeld s → Made s (f s a)) (l : List α) : ∀ {s}, NothingHeld s → Made s (l.foldlM f s) := by
  induction l with
  | nil => exact fun _ => ⟨_, rfl, .refl _⟩
  | cons a l ih =>
    intro s free
    obtain ⟨t, ht, first⟩ := hf a free
    obtain ⟨u, hu, others⟩ := ih (first.nothingHeld free)
    exact ⟨u, by rw [List.foldlM_cons, ht]; exact hu, first.trans others⟩

theorem made_counterWrite {s : State} (free : NothingHeld s) (vd asid va : Nat) (f : BitVec 64 → BitVec 64) : Made s (counterWrite s vd asid va f) := by
  obtain ⟨noBlock, noLock, inService⟩ := free
  unfold counterWrite
  split
  · exact ⟨s, rfl, .refl s⟩
  extract_lets at_
  rw [if_neg (by simp [blockHits, noBlock])]
  split
  · exact ⟨s, rfl, .refl s⟩
  rw [if_neg (by simp [lockHeld, chanHeld, noLock, inService])]
  split
  · exact ⟨_, rfl, tidies_postIntegrity s _ _⟩
  · exact ⟨_, rfl, (writeHome_rest _ _ _ _ _).tidies⟩

theorem made_abortTag {s : State} (tag : Nat) (free : NothingHeld s) : Made s (abortTag s tag) := by
  unfold abortTag
  split
  · exact ⟨s, rfl, .refl s⟩
  extract_lets cs
  obtain ⟨t, ht, counters⟩ := made_foldlM (f := fun s (c : Nat × Nat × Nat) => setAbort s c.1 c.2.1 c.2.2) (fun c free => made_counterWrite free _ _ _ _) cs free
  rw [ht]
  exact ⟨_, rfl, counters.trans ⟨rfl, rfl, rfl, rfl, .of_eq rfl, fun _ => id⟩⟩

/-- The tags of the collectives that a virtual device takes part in. -/
def tagsOf (s : State) (n : Nat) : List Nat := (s.windows.filter (fun w => w.vd == n)).map Window.tag ++ (s.paths.filter (fun p => p.vd == n)).map SourcePath.tag

/-- A reset of a virtual device need not wait: it takes part in no collective, or nothing holds a counter (12 R308; 17 R436). -/
def Unheld (n : Nat) (s : State) : Prop := ((∀ w, w ∈ s.windows → w.vd ≠ n) ∧ ∀ p, p ∈ s.paths → p.vd ≠ n) ∨ NothingHeld s

theorem unheld_doorbell {n : Nat} {s : State} (h : Unheld n s) (fn : Nat) : Unheld n (doorbell s fn) := by
  simpa [Unheld, NothingHeld] using h

theorem tagsOf_eq_nil {s : State} {n : Nat} (hw : ∀ w, w ∈ s.windows → w.vd ≠ n) (hp : ∀ p, p ∈ s.paths → p.vd ≠ n) : tagsOf s n = [] := by
  simpa [tagsOf] using And.intro hw hp

theorem made_abortTags {s : State} {n : Nat} (h : Unheld n s) : Made (clearVd s n) ((tagsOf (clearVd s n) n).foldlM abortTag (clearVd s n)) := by
  rcases h with ⟨hw, hp⟩ | ⟨noBlock, noLock, inService⟩
  · rw [tagsOf_eq_nil (s := clearVd s n) hw hp]
    exact ⟨_, rfl, .refl _⟩
  · exact made_foldlM made_abortTag _ ⟨by simp [clearVd, noBlock], by simp [clearVd, noLock], inService⟩

/-! ### VF reset -/

/-- No request of a virtual device has been accepted at a home and not performed. -/
def NoneAtHome (n : Nat) (s : State) : Prop := ∀ r, r ∈ s.reqs → r.vd = n → r.stage ≠ .home

theorem finishAccepted_of_noneAtHome {s : State} {n : Nat} (h : NoneAtHome n s) : finishAccepted s n = s := by
  have none : s.reqs.filter (fun r => r.vd == n && r.stage == .home) = [] := by
    rw [List.filter_eq_nil_iff]
    intro r hr
    simpa using h r hr
  rw [finishAccepted, none]
  rfl

/-- What VF reset makes of a virtual device's record (16 R411 step 6; 02 Table 2.8). -/
def resetRecord (w : Vd) : Vd :=
  { w with
    insts := w.insts.map (fun i => { resetInst w i with records := if i.failed then [] else [emptyRecord 10 i.vdie] })
    graphs := [], launches := [], steals := [], state := .idle, timer := true, due := false, steps := 0, interrupted := false, waits := false, resetting := false,
    dropCause := 0, dropCount := 0, felast := 0#64, feacc := 0#32, fecmp := 0#32 }

/-- The end of a VF reset, after the aborts: the record as it is reset, the instances started, the host accesses that waited made. -/
def restart (v : Vd) (s : State) : State :=
  let s := modVd (flushVd s v) v.num resetRecord
  match findVd s v.num with
  | some w => retryHost (startInstances s w).hostHeld.length (startInstances s w) v.num
  | none => s

theorem resetVd_eq {s : State} {v : Vd} (h : NoneAtHome v.num s) :
    resetVd s v = ((tagsOf (clearVd s v.num) v.num).foldlM abortTag (clearVd s v.num)).map (restart v) := by
  rw [resetVd, finishAccepted_of_noneAtHome h]
  rfl

theorem tidies_flushVd (s : State) (v : Vd) : Tidies s (flushVd s v) :=
  (tidies_writeBack s _).trans ⟨rfl, rfl, rfl, rfl, .of_eq rfl, fun _ => id⟩

theorem tidies_setCluster (s : State) (k : Cluster) : Tidies s (setCluster s k) := ⟨by simp, by simp, by simp, by simp, .of_eq (by simp), fun _ h => by simpa [OnlyFirstKernels] using h⟩

theorem tidies_startKernel (s : State) (t : Team) (pc s1 : DWord) : Tidies s (startKernel s t 0 pc s1) := by
  refine Tidies.trans (t := { s with groups := s.groups ++ [kernelGroup s t 0 pc s1], nextId := s.nextId + 1 }) ?_ (tidies_modVd _ _ fun _ => rfl)
  refine ⟨rfl, rfl, rfl, rfl, .of_eq rfl, fun n h g hg hn => ?_⟩
  rcases List.mem_append.mp hg with old | new
  · exact h g old hn
  · rw [List.mem_singleton.mp new]
    exact ⟨rfl, rfl⟩

theorem tidies_startInstances (s : State) (v : Vd) : Tidies s (startInstances s v) := by
  refine .foldl (fun s i => ?_) _ s
  exact Tidies.trans (t := { s with teams := s.teams ++ [kernelTeam s.nextId v.num i], nextId := s.nextId + 1 }) ⟨rfl, rfl, rfl, rfl, .of_eq rfl, fun _ => id⟩
    ((tidies_setCluster _ _).trans (tidies_startKernel _ _ _ _))

theorem retryHost_of_none {s : State} {n : Nat} (h : ∀ x, x ∈ s.hostHeld → x.vd ≠ n) (k : Nat) : retryHost k s n = s := by
  cases k with
  | zero => rfl
  | succ k =>
    have : s.hostHeld.find? (fun x => x.vd == n) = none := by simpa using h
    rw [retryHost, this]

/-- A virtual device that has been restarted: its record is as VF reset leaves it, with its instances started, and it has no group but their first. -/
theorem restart_spec {s : State} {v u : Vd} (found : findVd s v.num = some u) (noHost : ∀ x, x ∈ s.hostHeld → x.vd ≠ v.num) (cleared : OnlyFirstKernels s v.num) :
    ∃ u' w, findVd (restart v s) v.num = some w ∧ VdKept (resetRecord u') w ∧ OnlyFirstKernels (restart v s) v.num := by
  have flushed := tidies_flushVd s v
  obtain ⟨u', hu', -⟩ := flushed.vds _ _ found
  have record := findVd_modVd_same (f := resetRecord) (fun _ h => h) hu'
  have started := tidies_startInstances (modVd (flushVd s v) v.num resetRecord) (resetRecord u')
  obtain ⟨w, hw, kept⟩ := started.vds _ _ record
  have held := started.hostHeld.trans flushed.hostHeld
  have eq : restart v s = startInstances (modVd (flushVd s v) v.num resetRecord) (resetRecord u') := by
    rw [restart, record]
    exact retryHost_of_none (held ▸ noHost) _
  exact ⟨u', w, eq ▸ hw, kept, eq ▸ started.kernels _ (flushed.kernels _ cleared)⟩

theorem clearVd_groups_vd {s : State} {n : Nat} {g : Group} (h : g ∈ (clearVd s n).groups) : g.vd ≠ n := by
  simpa using (List.mem_filter.mp h).2

theorem resetVd_spec {s : State} {v : Vd} (found : findVd s v.num = some v) (noneHome : NoneAtHome v.num s) (noHost : ∀ x, x ∈ s.hostHeld → x.vd ≠ v.num)
    (unheld : Unheld v.num s) :
    ∃ t u w, resetVd s v = some t ∧ findVd t v.num = some w ∧ VdKept (resetRecord u) w ∧ OnlyFirstKernels t v.num := by
  obtain ⟨t, ht, aborted⟩ := made_abortTags unheld
  obtain ⟨u, hu, -⟩ := aborted.vds _ _ found
  have cleared := aborted.kernels v.num fun g hg hn => absurd hn (clearVd_groups_vd hg)
  obtain ⟨u', w, spec⟩ := restart_spec hu (aborted.hostHeld ▸ noHost) cleared
  exact ⟨restart v t, u', w, by rw [resetVd_eq noneHome, ht]; rfl, spec⟩

/-! ### Destroying -/

theorem foldl_scrub_groups (l : List (Nat × Nat)) (s : State) : (l.foldl (fun s f => scrub s f.1 f.2) s).groups = s.groups :=
  List.foldlRecOn (motive := fun t : State => t.groups = s.groups) l _ rfl fun _ h _ _ => h

theorem destroyVd_spec {s : State} {v : Vd} (up : awake v = true) (noneHome : NoneAtHome v.num s) (unheld : Unheld v.num s) :
    ∃ t, destroyVd s v = some t ∧ findVd t v.num = none ∧ ∀ g, g ∈ t.groups → g.vd ≠ v.num := by
  obtain ⟨a, ha, -⟩ := made_abortTags unheld
  have reset : resetVd s v = some (restart v a) := by rw [resetVd_eq noneHome, ha]; rfl
  unfold destroyVd
  simp only [up, if_true, Option.bind_some, reset, Option.map_some]
  refine ⟨_, rfl, ?_, fun g hg => ?_⟩
  · simp [findVd]
  · rw [foldl_scrub_groups] at hg
    exact clearVd_groups_vd (s := restart v a) hg

theorem destroyVd_asleep {s : State} {v : Vd} (h : awake v = false) : destroyVd s v = none := by
  simp [destroyVd, h]

/-! ### Creating -/

theorem vdsKept_takeFrame {s t : State} {vd f : Nat} (h : takeFrame s vd = some (f, t)) : VdsKept s t := by
  unfold takeFrame at h
  split at h
  · cases h
  · cases h
    exact VdsKept.trans (t := { s with mem := _ }) (.of_eq rfl) (vdsKept_modVd _ _ fun _ => rfl)

theorem vdsKept_tableFor (vd gpa target : Nat) : ∀ (n : Nat) {s t : State} (table lvl : Nat) {r : Nat}, tableFor vd gpa target n s table lvl = some (r, t) → VdsKept s t
  | 0, s, t, table, lvl, r, h => by
    unfold tableFor at h
    split at h <;> cases h
    exact .of_eq rfl
  | n + 1, s, t, table, lvl, r, h => by
    unfold tableFor at h
    extract_lets at_ e at h
    split at h
    · cases h; exact .of_eq rfl
    split at h
    · split at h
      · cases h
      · exact vdsKept_tableFor vd gpa target n _ _ h
    · split at h
      · cases h
      · next f u hu => exact (vdsKept_takeFrame hu).trans (VdsKept.trans (t := { u with mem := wrRun u.mem at_ (leBytes (f + 1) 8) }) (.of_eq rfl) (vdsKept_tableFor vd gpa target n _ _ h))

theorem vdsKept_mapRun {s t : State} {vd root lvl gpa pa n flags : Nat} (h : mapRun s vd root lvl gpa pa n flags = some t) : VdsKept s t := by
  unfold mapRun at h
  split at h
  · cases h
  · next hu =>
    cases h
    exact (vdsKept_tableFor _ _ _ _ _ _ hu).trans (.of_eq rfl)

theorem vdsKept_mapRange (vd root flags : Nat) : ∀ (n : Nat) {s t : State} (gpa pa len : Nat), mapRange vd root flags n s gpa pa len = some t → VdsKept s t
  | 0, s, t, _, _, len, h => by
    unfold mapRange at h
    split at h <;> cases h
    exact .of_eq rfl
  | n + 1, s, t, gpa, pa, len, h => by
    unfold mapRange at h
    extract_lets r at h
    split at h
    · cases h; exact .of_eq rfl
    split at h
    · cases h
    · next hu => exact (vdsKept_mapRun hu).trans (vdsKept_mapRange vd root flags n _ _ _ h)

theorem vdsKept_mapFor {s t : State} {vd gpa pa len flags : Nat} (h : mapFor s vd gpa pa len flags = some t) : VdsKept s t := by
  obtain ⟨v, -, hr⟩ := Option.bind_eq_some_iff.mp h
  exact vdsKept_mapRange _ _ _ _ _ _ _ hr

theorem vdsKept_mapOwn {s t : State} {v : Vd} (h : mapOwn s v = some t) : VdsKept s t := by
  obtain ⟨area, hArea, h⟩ := Option.bind_eq_some_iff.mp h
  obtain ⟨image, hImage, hCode⟩ := Option.bind_eq_some_iff.mp h
  obtain ⟨first, hFirst, h⟩ := Option.bind_eq_some_iff.mp hArea
  obtain ⟨units, hUnits, hPool⟩ := Option.bind_eq_some_iff.mp h
  exact ((((vdsKept_mapFor hFirst).trans (vdsKept_mapFor hUnits)).trans (vdsKept_mapFor hPool)).trans (vdsKept_mapFor hImage)).trans (vdsKept_mapFor hCode)

theorem mapSlices_vds (s : State) (d : Desc) : (mapSlices s d).vds = s.vds :=
  List.foldlRecOn (motive := fun t : State => t.vds = s.vds) d.dies _ rfl fun _ h _ _ => h

theorem findVd_of_createStatus {s : State} {b : List (BitVec 8)} (h : createStatus s b = 0) : findVd s (fieldOf b 0 1) = none := by
  cases hv : findVd s (fieldOf b 0 1) with
  | none => rfl
  | some v =>
    unfold createStatus at h
    simp only [hv, Option.isSome_some, if_true] at h
    repeat' split at h
    all_goals cases h

/-- A virtual device that has been created is known by its number, as its descriptor describes it but for what starting its instances and mapping its memory took. -/
theorem createVd_spec {s t : State} {num : Nat} {d : Desc} {u : VdSetup} (fresh : findVd s num = none) (h : createVd s num d u = some t) :
    ∃ v, findVd t num = some v ∧ VdKept (newVd s num d u) v := by
  unfold createVd at h
  extract_lets v s1 own s2 s3 at h
  split at h
  · obtain ⟨m, hm, rfl⟩ := Option.map_eq_some_iff.mp h
    have added : findVd s3 num = some v := by
      have vds : s1.vds = s.vds := mapSlices_vds s d
      unfold findVd at fresh ⊢
      simp [s3, vds, fresh, v, newVd]
    exact ((vdsKept_mapOwn hm).trans (tidies_startInstances m v).vds) _ _ added
  · cases h

/-! ### The operations -/

section
variable {s : State} {v : Vd} {vd n : Nat}

theorem exec_registerAGraph (code : (mboxOf s vd).byte 0 = 1) (known : (findVd s vd).isSome = true) (found : findVd (doorbell s vd) vd = some v) (serving : serves v = true)
    (present : smcAway (doorbell s vd) = false) :
    let m := mboxOf (doorbell s vd) vd
    let r := registerSettled (settleDie0 (doorbell s vd) v) v (m.arg 2).toNat (m.arg 1).toNat
    exec (.registerAGraph vd) s = .next (if registerWaits (doorbell s vd) v (m.arg 2).toNat (m.arg 1).toNat then doorbell s vd else reply r.2 vd 0 (BitVec.ofNat 64 r.1)) :=
  congrArg _ (mailboxOp_served code known found serving present)

theorem exec_unregister_unknown (code : (mboxOf s vd).byte 0 = 2) (known : (findVd s vd).isSome = true) (found : findVd (doorbell s vd) vd = some v) (serving : serves v = true)
    (present : smcAway (doorbell s vd) = false) (handle : v.known ((mboxOf (doorbell s vd) vd).arg 1).toNat = none) :
    exec (.unregister vd) s = .next (reply (doorbell s vd) vd 2 0#64) := by
  refine congrArg _ ((mailboxOp_served code known found serving present).trans ?_)
  simp only [handle]

theorem exec_unregister_known (code : (mboxOf s vd).byte 0 = 2) (known : (findVd s vd).isSome = true) (found : findVd (doorbell s vd) vd = some v) (serving : serves v = true)
    (present : smcAway (doorbell s vd) = false) (handle : v.known ((mboxOf (doorbell s vd) vd).arg 1).toNat ≠ none) :
    exec (.unregister vd) s = .next (reply (modVd (doorbell s vd) vd (unregistered ((mboxOf (doorbell s vd) vd).arg 1).toNat)) vd 0 0#64) := by
  obtain ⟨g, hg⟩ := Option.ne_none_iff_exists'.mp handle
  refine congrArg _ ((mailboxOp_served code known found serving present).trans ?_)
  simp only [hg]
  rfl

theorem exec_createAVd_refused (code : (mboxOf s 0).byte 0 = 0x10) (present : smcAway s = false) {b : List (BitVec 8)} (setup : VdSetup) (refused : createStatus (doorbell s 0) b ≠ 0) :
    exec (.createAVd (some b) setup) s = .next (reply (doorbell s 0) 0 (createStatus (doorbell s 0) b) 0#64) := by
  change execCreateAVd (some b) setup s = _
  simp [execCreateAVd, code, present, refused]

theorem exec_createAVd_accepted (code : (mboxOf s 0).byte 0 = 0x10) (present : smcAway s = false) {b : List (BitVec 8)} {setup : VdSetup} (accepted : createStatus (doorbell s 0) b = 0) :
    exec (.createAVd (some b) setup) s =
      .next (((createVd (doorbell s 0) (fieldOf b 0 1) (descOf b) setup).map (fun t => reply t 0 0 (BitVec.ofNat 64 (fieldOf b 0 1)))).getD s) := by
  change execCreateAVd (some b) setup s = _
  simp only [execCreateAVd, code, smcAway_doorbell, present, accepted]
  cases createVd (doorbell s 0) (fieldOf b 0 1) (descOf b) setup <;> rfl

theorem exec_createAVd_unread (code : (mboxOf s 0).byte 0 = 0x10) (present : smcAway s = false) (setup : VdSetup) :
    exec (.createAVd none setup) s = .next (reply (doorbell s 0) 0 3 0#64) := by
  change execCreateAVd none setup s = _
  simp [execCreateAVd, code, present]

theorem exec_destroyAVd (code : (mboxOf s 0).byte 0 = 0x11) (present : smcAway s = false) (found : findVd (doorbell s 0) n = some v) :
    exec (.destroyAVd (some n)) s = .next (((destroyVd (doorbell s 0) v).map (fun t => reply t 0 0 0#64)).getD (setVd (doorbell s 0) (beginReset v))) :=
  congrArg _ (manage_served code present found)

theorem exec_resetTheVf (code : (mboxOf s 0).byte 0 = 0x12) (present : smcAway s = false) (found : findVd (doorbell s 0) n = some v) :
    exec (.resetTheVf (some n)) s = .next (reply (setVd (doorbell s 0) (beginReset v)) 0 0 0#64) :=
  congrArg _ (manage_served code present found)

theorem exec_destroyAVd_noVd (code : (mboxOf s 0).byte 0 = 0x11) (present : smcAway s = false) (none : findVd (doorbell s 0) n = none) :
    exec (.destroyAVd (some n)) s = .next (reply (doorbell s 0) 0 0x0B 0#64) :=
  congrArg _ (manage_noVd code present none)

theorem exec_resetTheVf_noVd (code : (mboxOf s 0).byte 0 = 0x12) (present : smcAway s = false) (none : findVd (doorbell s 0) n = none) :
    exec (.resetTheVf (some n)) s = .next (reply (doorbell s 0) 0 0x0B 0#64) :=
  congrArg _ (manage_noVd code present none)

/-- A virtual function's mailbox knows codes 1 and 2 only (17 R433). -/
theorem exec_unknownOperationCode (found : findVd (doorbell s vd) vd = some v) (virtual : vd ≠ 0) (code1 : (mboxOf s vd).byte 0 ≠ 1) (code2 : (mboxOf s vd).byte 0 ≠ 2)
    (present : smcAway s = false) (serving : serves v = true) :
    exec (.unknownOperationCode vd) s = .next (reply (doorbell s vd) vd 1 0#64) := by
  have known : (findVd s vd).isSome = true := by rw [← findVd_doorbell_isSome s vd, found]; rfl
  obtain ⟨v0, hv0⟩ := Option.isSome_iff_exists.mp known
  change execUnknownOperationCode vd s = _
  simp [execUnknownOperationCode, hv0, virtual, code1, code2, found, present, serving]

theorem exec_vfReset (found : findVd s vd = some v) :
    exec (.vfReset vd) s = .next (((if awake v then some v else none).bind (resetVd s)).getD (setVd s (beginReset v))) := by
  change execVfReset vd s = _
  simp only [execVfReset, found]

theorem findVd_setVd_beginReset (found : findVd s n = some v) : findVd (setVd s (beginReset v)) n = some (beginReset v) := by
  have num : (beginReset v).num = n := (beginReset_num v).trans (findVd_num found)
  have put := findVd_setVd_same (v' := beginReset v) (num.symm ▸ found)
  rwa [num] at put

end

/-- Settles O51: each way an operation can go has its equation above, and what it is to leave follows from `Wakes`, `Tidies` and the specifications of reset, destruction and creation. -/
theorem mailboxOperationsReply : Obligations.MailboxOperationsReply := by
  unfold Obligations.MailboxOperationsReply
  refine ⟨fun vd s v code known found serving present => ?registration, fun vd s v code known found serving present => ?unregistration, fun b setup s code present => ?creation,
    fun setup s code present => ?unreadDescriptor, fun n s v code present found up noneHome unheld => ?destruction, fun n s v code present found down => ?destructionAsleep,
    fun n s v code present found => ?reset, fun n s present none => ?noVd, fun vd s v found virtual code1 code2 present serving => ?unknownCode, fun vd s v found down => ?vfResetAsleep,
    fun vd s v found up noneHome noHost unheld => ?vfReset⟩
  case registration =>
    have run := exec_registerAGraph code known found serving present
    dsimp only at run
    obtain rfl := findVd_num found
    refine ⟨fun f unread => ?_, fun r f read failed => ?_, fun waits => ?_, fun r read passed goes => ?_⟩
    · rw [registerWaits_of_unread unread, registerSettled_unread unread] at run
      exact ⟨_, run, by simp⟩
    · rw [registerWaits_of_failed read failed, registerSettled_failed read failed] at run
      exact ⟨_, run, by simp⟩
    · rwa [if_pos waits] at run
    · obtain ⟨w, settled, -⟩ := (tidies_writeBack (doorbell s v.num) (remoteOf v.num (v.pdie 0))).vds _ _ found
      obtain ⟨v', known', added⟩ := registerSettled_adds read passed settled
      rw [goes] at run
      exact ⟨_, v', _, run, known', added, rfl, rfl, rfl, rfl, by simp, by simp [registerSettled_passed read passed]⟩
  case unregistration =>
    refine ⟨fun unknown => ⟨_, exec_unregister_unknown code known found serving present unknown, by simp⟩, fun handle => ?_⟩
    exact ⟨_, _, exec_unregister_known code known found serving present handle, by simp, findVd_modVd_same (fun _ h => h) found, known_unregistered _ _, by simp⟩
  case creation =>
    refine ⟨fun refused => ⟨_, exec_createAVd_refused code present setup refused, by simp⟩, fun u accepted made => ?_, fun accepted none => ?_⟩
    · obtain ⟨v, here, kept⟩ := createVd_spec (findVd_of_createStatus accepted) made
      have run := exec_createAVd_accepted code present (setup := setup) accepted
      rw [made] at run
      unfold VdKept at kept
      refine ⟨_, v, run, here, ?_⟩
      rw [kept]
      simp [newVd]
    · rw [Stays, exec_createAVd_accepted code present accepted, none]
      rfl
  case unreadDescriptor => exact ⟨_, exec_createAVd_unread code present setup, by simp⟩
  case destruction =>
    obtain rfl := findVd_num found
    obtain ⟨t, gone, noVd, noGroup⟩ := destroyVd_spec (s := doorbell s 0) up (by simpa [NoneAtHome] using noneHome) (unheld_doorbell unheld 0)
    have run := exec_destroyAVd code present found
    rw [gone] at run
    exact ⟨_, run, noVd, noGroup, by simp⟩
  case destructionAsleep =>
    have run := exec_destroyAVd code present found
    rw [destroyVd_asleep down] at run
    exact ⟨_, run, rfl, doorbell_mem s 0, findVd_setVd_beginReset found⟩
  case reset => exact ⟨_, exec_resetTheVf code present found, rfl, doorbell_mem s 0, findVd_setVd_beginReset found, by simp⟩
  case noVd =>
    exact ⟨fun code => ⟨_, exec_destroyAVd_noVd code present none, by simp⟩, fun code => ⟨_, exec_resetTheVf_noVd code present none, by simp⟩⟩
  case unknownCode => exact ⟨_, exec_unknownOperationCode found virtual code1 code2 present serving, by simp⟩
  case vfResetAsleep =>
    refine ⟨_, exec_vfReset found, ?_⟩
    rw [down]
    exact ⟨rfl, rfl, findVd_setVd_beginReset found⟩
  case vfReset =>
    obtain rfl := findVd_num found
    obtain ⟨t, u, w, reset, here, kept, kernels⟩ := resetVd_spec found noneHome noHost unheld
    have run := exec_vfReset found
    rw [up, if_pos rfl, Option.bind_some, reset] at run
    unfold VdKept at kept
    refine ⟨t, w, run, here, ?_⟩
    rw [kept]
    exact ⟨rfl, rfl, rfl, rfl, rfl, rfl, rfl, kernels⟩

end Sys2Proof.Machine
end

section
/-! The limit of the surge windows (02 R45), from what every step keeps. -/

namespace Sys2Proof.Machine

/-- Settles O58: a surge window changes only where a grant goes out, which the arbiter does not allow a window that has had 8. -/
theorem everyStepKeepsTheSurgeLimit : Obligations.EveryStepKeepsTheSurgeLimit := by
  unfold Obligations.EveryStepKeepsTheSurgeLimit
  intro s t limit run
  exact (keeps_step run).2 limit

end Sys2Proof.Machine
end

section
/-! Two records under one number: the states that refute `HostRegistersAndAperture` and `DormancyFollowsItsTable`.

Both statements speak of every state, and of the record that `findVd` finds under a number. Neither asks that a number have one record. In a state where it has two, a wake event for the first record
ends the recalibration that it aborts, the idle timer of the second one, which was due, takes effect (17 R428), and the collapse that begins is put under the number, over both records: the virtual
device that was found dormant then collapses, where the statements have it waking. No creation gives a number twice (02 R34), so this says nothing against the package; it says that the statements
lack the hypothesis. -/

namespace Sys2Proof.Machine

/-- A virtual device of no dies, as it is created. -/
def bareVd : Vd :=
  newVd State.reset 0
    { wclass := 0, sibmax := 4, idlems := 0, monlim := 0, quantus := 0, priomax := 0, splits := 0, arena := 0, arenasz := 0, dies := [], rreq := 0, rburst := 0, saveBase := 0, s2root := 0,
      asidBase := 0, asidCnt := 1 }
    { codeVa := 0, codePa := 0, kernelPa := 0, saveGpa := 0, kernelEntry := 0, tables := [] }

/-- The record found under number 0: it is dormant. -/
def sleeper : Vd := { bareVd with state := .dormant }

/-- The other record under number 0: idle, with a timer that expired during service. -/
def overdue : Vd := { bareVd with due := true }

/-- A window of virtual device 0. -/
def bareWindow : Window := { num := 0, vd := 0, asid := 0, va := 0, size := 0, cntva := 0, pkg := 0, tag := 0, aborted := false, bad := [] }

/-- A package with both records, while a field is being recalibrated. -/
def twins : State := { State.reset with vds := [sleeper, overdue], fields := [{ FieldSt.reset with recal := true }], windows := [bareWindow] }

theorem findVd_twins : findVd twins 0 = some sleeper := rfl

/-- The STATE found under a number after a step. -/
def stateAfter (o : Host.Outcome State Fault Refusal) (n : Nat) : Option VdState :=
  match o with
  | .next t => (findVd t n).map Vd.state
  | _ => none

theorem stateAfter_of_next {o : Host.Outcome State Fault Refusal} {t : State} {n : Nat} {v : Vd} (run : o = .next t) (found : findVd t n = some v) : stateAfter o n = some v.state := by
  simp [stateAfter, run, found]

/-- A host access to the dormant record leaves a collapsing one. -/
theorem twins_collapse_at_host_access : stateAfter (exec (.hostApertureAccess 0 0 8 false 0) twins) 0 = some .collapsing := by decide

/-- So does a Coupler put. -/
theorem twins_collapse_at_put : stateAfter (exec (.couplerPutArrives 0 0 [] { put := 0, last := false }) twins) 0 = some .collapsing := by decide

/-- Refutes O50: a host access to a virtual device that is found dormant leaves it collapsing when a second record with its number has a due timer (`twins`); the statement has it waking. -/
theorem not_hostRegistersAndAperture : ¬ Obligations.HostRegistersAndAperture := by
  unfold Obligations.HostRegistersAndAperture
  rintro ⟨-, -, -, -, -, -, -, -, -, aperture⟩
  obtain ⟨dormant, -⟩ := aperture 0 0 8 false 0 twins sleeper findVd_twins
  obtain ⟨t, v, run, -, -, -, found, waking, -⟩ := dormant rfl (by simp [twins, State.reset])
  have collapses := twins_collapse_at_host_access
  rw [stateAfter_of_next run found, waking] at collapses
  cases collapses

/-- Refutes O54: a Coupler put to a virtual device that is found dormant leaves it collapsing when a second record with its number has a due timer (`twins`); the statement has it waking. -/
theorem not_dormancyFollowsItsTable : ¬ Obligations.DormancyFollowsItsTable := by
  unfold Obligations.DormancyFollowsItsTable
  rintro ⟨-, -, -, -, -, -, puts⟩
  obtain ⟨dormant, -⟩ := puts 0 0 [] { put := 0, last := false } twins bareWindow sleeper rfl rfl findVd_twins rfl
  obtain ⟨t, v, run, -, -, -, found, waking, -⟩ := dormant rfl
  change findVd t 0 = some v at found
  have collapses := twins_collapse_at_put
  rw [stateAfter_of_next run found, waking] at collapses
  cases collapses

end Sys2Proof.Machine
end

section
/-! Bytes of a plain write at a home: a page that is not federated, no vector (11 R250; 14 R358). The host's, the Coupler's and the counters' writes are of this kind. -/

namespace Sys2Proof.Machine

/-! ### Bytes of words -/

/-- Byte i of a word. -/
theorem ofNat_div_eq_extract {w : Nat} (x : BitVec w) (i : Nat) : BitVec.ofNat 8 (x.toNat / 256 ^ i) = x.extractLsb' (8 * i) 8 := by
  rw [BitVec.extractLsb', Nat.shiftRight_eq_div_pow, Nat.pow_mul]

/-- What every index reads as after a number has been written byte by byte. -/
theorem rd_wrBytes (m : SMap 8) (a v n k : Nat) : rd (wrBytes m a v n) k = if a ≤ k ∧ k < a + n then BitVec.ofNat 8 (v / 256 ^ (k - a)) else rd m k := by
  induction n generalizing m a v with
  | zero => rw [wrBytes, if_neg (by omega)]
  | succ n ih =>
    rw [wrBytes, ih, Laws.rd_wr]
    by_cases first : k = a
    · simp [first]
    · by_cases later : a + 1 ≤ k ∧ k < a + 1 + n
      · rw [if_pos later, if_pos (by omega), Nat.div_div_eq_div_mul, ← Nat.pow_succ', show (k - (a + 1)).succ = k - a by omega]
      · rw [if_neg later, if_neg first, if_neg (by omega)]

theorem rdBytes_lt (m : SMap 8) (a n : Nat) : rdBytes m a n < 256 ^ n := by
  induction n generalizing a with
  | zero => simp [rdBytes]
  | succ n ih =>
    have low : (rd m a).toNat < 256 := (rd m a).isLt
    have high := ih (a + 1)
    rw [rdBytes, Nat.pow_succ']
    omega

/-- Byte i of a number read byte by byte. -/
theorem rdBytes_div (m : SMap 8) (a : Nat) {n i : Nat} (h : i < n) : rdBytes m a n / 256 ^ i % 256 = (rd m (a + i)).toNat := by
  induction n generalizing a i with
  | zero => omega
  | succ n ih =>
    have low : (rd m a).toNat < 256 := (rd m a).isLt
    cases i with
    | zero => simp only [rdBytes, Nat.pow_zero, Nat.div_one, Nat.add_zero]; omega
    | succ i =>
      rw [rdBytes, Nat.pow_succ', ← Nat.div_div_eq_div_mul, Nat.add_mul_div_left _ _ (by decide), Nat.div_eq_of_lt low, Nat.zero_add, ih (a + 1) (by omega)]
      congr 2
      omega

theorem extract_memCell (s : State) (c : Nat) {i : Nat} (h : i < 8) : (memCell s c).extractLsb' (8 * i) 8 = rd s.mem (8 * c + i) := by
  have small : rdBytes s.mem (8 * c) 8 < 2 ^ 64 := rdBytes_lt _ _ 8
  refine BitVec.eq_of_toNat_eq ?_
  rw [← rdBytes_div s.mem (8 * c) h, ← ofNat_div_eq_extract, memCell, BitVec.toNat_ofNat, BitVec.toNat_ofNat, Nat.mod_eq_of_lt small]

/-! ### Masked bytes -/

theorem getLsbD_mask (i k : Nat) (h : k < 64) : (0xFF#64 <<< (8 * i)).getLsbD k = decide (k / 8 = i) := by
  have ones : ∀ j, (0xFF#64).getLsbD j = decide (j < 8) := fun j => by
    rw [show (0xFF#64) = BitVec.ofNat 64 (2 ^ 8 - 1) from rfl, BitVec.getLsbD_ofNat, Nat.testBit_two_pow_sub_one]
    grind
  rw [BitVec.getLsbD_shiftLeft, ones]
  grind

theorem getLsbD_foldl_merge (old x : BitVec 64) (mask : BitVec 8) (l : List Nat) {k : Nat} (h : k < 64) :
    (l.foldl (fun r i => if mask.getLsbD i then (r &&& ~~~(0xFF#64 <<< (8 * i))) ||| (x &&& (0xFF#64 <<< (8 * i))) else r) old).getLsbD k =
      if k / 8 ∈ l ∧ mask.getLsbD (k / 8) = true then x.getLsbD k else old.getLsbD k := by
  induction l generalizing old with
  | nil => simp
  | cons i l ih =>
    rw [List.foldl_cons, ih]
    by_cases set : mask.getLsbD i = true
    · simp only [set, if_true, BitVec.getLsbD_or, BitVec.getLsbD_and, BitVec.getLsbD_not, h, getLsbD_mask]
      by_cases here : k / 8 = i
      · simp [here, set]
      · simp [here]
    · have other : k / 8 = i → mask.getLsbD (k / 8) = false := fun h => by simpa [h] using set
      by_cases here : k / 8 = i
      · simp [set, here]
      · simp [set, here]

/-- Byte i of a merge: the new one's where the mask says so. -/
theorem extract_mergeBytes (old x : BitVec 64) (mask : BitVec 8) {i : Nat} (h : i < 8) :
    (mergeBytes old x mask).extractLsb' (8 * i) 8 = if mask.getLsbD i then x.extractLsb' (8 * i) 8 else old.extractLsb' (8 * i) 8 := by
  refine BitVec.eq_of_getLsbD_eq fun j hj => ?_
  have byte : (8 * i + j) / 8 = i := by omega
  rw [BitVec.getLsbD_extractLsb', mergeBytes, getLsbD_foldl_merge _ _ _ _ (by omega), byte]
  split <;> simp_all

/-- The bytes of a cell that an access of n bytes touches. -/
theorem getLsbD_byteMask (pa n : Nat) {i : Nat} (h : i < 8) : (byteMask pa n).getLsbD i = decide (pa % 8 ≤ i ∧ i < pa % 8 + n) := by
  rw [byteMask, BitVec.getLsbD_ofNat, Nat.testBit_mul_two_pow, Nat.testBit_two_pow_sub_one]
  grind

/-- Byte i of a value that has been shifted to its place in the cell. -/
theorem extract_shifted (x m : Nat) {i : Nat} (above : m ≤ i) (h : i < 8) :
    (BitVec.ofNat 64 (x * 2 ^ (8 * m))).extractLsb' (8 * i) 8 = BitVec.ofNat 8 (x / 2 ^ (8 * (i - m))) := by
  refine BitVec.eq_of_getLsbD_eq fun j hj => ?_
  rw [BitVec.getLsbD_extractLsb', BitVec.getLsbD_ofNat, BitVec.getLsbD_ofNat, Nat.testBit_mul_two_pow, Nat.testBit_div_two_pow]
  have below : 8 * i + j < 64 := by omega
  have bit : 8 * i + j - 8 * m = 8 * (i - m) + j := by omega
  have place : 8 * m ≤ 8 * i + j := by omega
  simp only [hj, below, bit, place, decide_true, Bool.true_and]
  rw [Nat.add_comm]

/-! ### The write -/

/-- Memory has changed, and what follows a write of it: federated cells, L1 words, those on their way included, and monitors. -/
def WritesOnly (s t : State) : Prop := t = { s with mem := t.mem, fed := t.fed, clusters := t.clusters, reqs := t.reqs, monitors := t.monitors }

section
variable {s : State} {w : Writer} {pa n x : Nat}

theorem rd_putCell (s : State) (c : Nat) (x : BitVec 64) (k : Nat) : rd (putCell s c x).mem k = if k / 8 = c then x.extractLsb' (8 * (k % 8)) 8 else rd s.mem k := by
  rw [putCell, rd_wrBytes, ofNat_div_eq_extract]
  by_cases here : k / 8 = c
  · rw [if_pos (by omega), if_pos here, show k - 8 * c = k % 8 by omega]
  · rw [if_neg (by omega), if_neg here]

/-- A plain write is never refused, and its bytes alone change. -/
theorem writeHome_plain (fed : w.fed = false) (vec : w.vec = none) :
    (writeHome s w pa n x).2 = afterWrite (putCell (unfed s (pa / 8)) (pa / 8)
      (mergeBytes (memCell s (pa / 8)) (BitVec.ofNat 64 (x * 2 ^ (8 * (pa % 8)))) (byteMask pa n))) (pa / 8) (byteMask pa n) := by
  simp [writeHome, writeCell, mergeAtHome, fed, vec]

theorem rd_writeHome_plain (fed : w.fed = false) (vec : w.vec = none) (inCell : pa % 8 + n ≤ 8) (k : Nat) :
    rd (writeHome s w pa n x).2.mem k = if pa ≤ k ∧ k < pa + n then BitVec.ofNat 8 (x / 2 ^ (8 * (k - pa))) else rd s.mem k := by
  rw [writeHome_plain fed vec, afterWrite_mem, rd_putCell]
  have low : k % 8 < 8 := Nat.mod_lt _ (by decide)
  have same : rd (unfed s (pa / 8)).mem k = rd s.mem k := rfl
  by_cases cell : k / 8 = pa / 8
  · rw [if_pos cell, extract_mergeBytes _ _ _ low, getLsbD_byteMask pa n low, extract_memCell _ _ low]
    by_cases written : pa ≤ k ∧ k < pa + n
    · rw [if_pos written, if_pos (by simp only [decide_eq_true_eq]; omega), extract_shifted _ _ (by omega) low, show k % 8 - pa % 8 = k - pa by omega]
    · rw [if_neg written, if_neg (by simp only [decide_eq_true_eq]; omega), show 8 * (pa / 8) + k % 8 = k by omega]
  · rw [if_neg cell, same, if_neg (by omega)]

/-- What a plain write leaves alone: all but memory and what follows a write at its home. -/
theorem writeHome_plain_rest (fed : w.fed = false) (vec : w.vec = none) : WritesOnly s (writeHome s w pa n x).2 := by
  rw [writeHome_plain fed vec]
  rfl

end

theorem rd_hostWrite {pa n : Nat} (inCell : pa % 8 + n ≤ 8) (s : State) (vd x k : Nat) :
    rd (hostWrite s vd false pa n x).mem k = if pa ≤ k ∧ k < pa + n then BitVec.ofNat 8 (x / 2 ^ (8 * (k - pa))) else rd s.mem k :=
  rd_writeHome_plain rfl rfl inCell k

end Sys2Proof.Machine
end

section
/-! Bring-up, recalibration, channel service, failover, the surge arbiter and the issue choice (02 R45; 03 R56; 06 R128; 17 R431, R440): what each event gives. -/

namespace Sys2Proof.Machine

variable {s : State} {f : Nat}

/-! ### Fields -/

theorem filterMap_range_eq_mapIdx {α : Type} (l : List α) (g : Nat → α → α) : (List.range l.length).filterMap (fun k => (l[k]?).map (g k)) = l.mapIdx g := by
  induction l using List.reverseRecOn with
  | nil => rfl
  | append_singleton l a ih =>
    have before : ∀ k, k ∈ List.range l.length → ((l ++ [a])[k]?).map (g k) = (l[k]?).map (g k) := fun k hk => by
      rw [List.getElem?_append_left (List.mem_range.mp hk)]
    rw [List.length_append, List.length_singleton, List.range_succ, List.filterMap_append, List.filterMap_congr before, ih, List.mapIdx_concat]
    simp

/-- What a field is after a change of those that p names. -/
@[simp] theorem getElem?_modFields (s : State) (p : Nat → Bool) (g : FieldSt → FieldSt) (k : Nat) :
    (modFields s p g).fields[k]? = (s.fields[k]?).map (fun x => if p k then g x else x) := by
  rw [modFields, filterMap_range_eq_mapIdx s.fields (fun k x => if p k then g x else x), List.getElem?_mapIdx]

/-- The field that comes up next is not in service yet. -/
theorem not_nextField_of_up {x : FieldSt} (here : s.fields[f]? = some x) (up : 2 ≤ x.svc) : nextField s ≠ some f := by
  intro next
  have waits := List.find?_some next
  simp only [here, Option.any_some, Bool.and_eq_true, decide_eq_true_eq] at waits
  omega

/-- Showing the next field as coming up leaves everything but the fields. -/
theorem comingUp_rest (s : State) : comingUp s = { s with fields := (comingUp s).fields } := by
  unfold comingUp
  split <;> rfl

/-- It leaves a field that is up. -/
theorem getElem?_comingUp {x : FieldSt} (here : s.fields[f]? = some x) (up : 2 ≤ x.svc) : (comingUp s).fields[f]? = some x := by
  unfold comingUp
  split
  next g next =>
    have other : f ≠ g := fun h => not_nextField_of_up here up (h ▸ next)
    simp [here, other]
  next => exact here

theorem exec_fieldInService {x : FieldSt} (next : nextField s = some f) (here : s.fields[f]? = some x) :
    ∃ t, exec (.fieldInService f) s = .next t ∧ t = { s with fields := t.fields, early := s.early || f == 0, standby := s.standby || f == 7 } ∧
      t.fields[f]? = some { x with svc := if f = 0 then 2 else 3, pll := true } := by
  change ∃ t, execFieldInService f s = .next t ∧ _
  unfold execFieldInService
  rw [if_neg (not_not_intro next)]
  refine ⟨_, rfl, ?_, getElem?_comingUp ?_ ?_⟩
  · rw [comingUp_rest]
    rfl
  · simp [here]
  · dsimp only
    split <;> decide

theorem exec_fieldInService_early (next : nextField s ≠ some f) : Stays (.fieldInService f) s := by
  change execFieldInService f s = _
  rw [execFieldInService, if_pos next]

/-! ### Timers that are due -/

/-- When no timer is due, the end of a service makes none take effect. -/
theorem expireDue_of_none (h : ∀ v, v ∈ s.vds → v.due = false) : expireDue s = s := by
  rw [expireDue, List.filter_eq_nil_iff.mpr (fun v hv => by simp [h v hv])]
  rfl

/-! ### Recalibration -/

/-- Groups and teams alone have changed. -/
def StopsOnly (s t : State) : Prop := t = { s with groups := t.groups, teams := t.teams }

theorem stopsOnly_preemptForService (s : State) (tid : Nat) : StopsOnly s (preemptForService s tid) := by
  unfold preemptForService
  split
  · rfl
  split
  · rfl
  split <;> rfl

theorem stopsOnly_preempts (l : List Team) (s : State) : StopsOnly s (l.foldl (fun s t => preemptForService s t.tid) s) :=
  List.foldlRecOn (motive := StopsOnly s) l _ rfl fun t h u _ => by
    have := stopsOnly_preemptForService t u.tid
    unfold StopsOnly at *
    rw [this, h]

theorem exec_fieldRecalibration {x : FieldSt} (here : s.fields[f]? = some x) (up : x.svc = 3) (idle : x.recal = false) :
    ∃ t b, exec (.fieldRecalibration f) s = .next t ∧ t.fields[f]? = some { x with recal := true, stops := b } ∧ t.mem = s.mem := by
  change ∃ t b, execFieldRecalibration f s = .next t ∧ _
  unfold execFieldRecalibration
  rw [if_pos (by simp [here, up, idle])]
  refine ⟨_, (Config.freeValue s.freeCtr).getLsbD 0, rfl, ?_, ?_⟩
  · rw [stopsOnly_preempts]
    simp [here]
  · rw [stopsOnly_preempts]
    rfl

theorem exec_recalibrationEnd {x : FieldSt} (here : s.fields[f]? = some x) (noneDue : ∀ v, v ∈ s.vds → v.due = false) :
    ∃ t, exec (.recalibrationEnd f) s = .next t ∧ t = { s with fields := t.fields } ∧ t.fields[f]? = some { x with recal := false } := by
  exact ⟨_, congrArg Host.Outcome.next (expireDue_of_none noneDue), rfl, by simp [here]⟩

theorem exec_earlyServiceEnd {x y : FieldSt} (early : s.early = true) (seven : s.fields[7]? = some x) (up : x.svc = 3) (zero : s.fields[0]? = some y) :
    ∃ t, exec .earlyServiceEnd s = .next t ∧ t.early = false ∧ t.fields[0]? = some { y with svc := 3 } ∧ t.groups = s.groups ∧ t.mem = s.mem := by
  change ∃ t, execEarlyServiceEnd s = .next t ∧ _
  rw [execEarlyServiceEnd, if_pos (by simp [early, seven, up])]
  exact ⟨_, rfl, rfl, by simp [zero], rfl, rfl⟩

/-! ### Channel service and failover -/

theorem exec_hbmChannelService_begins {die ch : Nat} (idle : (die, ch) ∉ s.chanService) :
    exec (.hbmChannelService die ch) s = .next { s with chanService := s.chanService ++ [(die, ch)] } := by
  change execHbmChannelService die ch s = _
  rw [execHbmChannelService, if_neg (by simpa using idle)]

theorem exec_hbmChannelService_ends {die ch : Nat} (serviced : (die, ch) ∈ s.chanService) (noneDue : ∀ v, v ∈ s.vds → v.due = false) :
    exec (.hbmChannelService die ch) s = .next { s with chanService := s.chanService.filter (fun c => c != (die, ch)) } := by
  change execHbmChannelService die ch s = _
  rw [execHbmChannelService, if_pos (by simpa using serviced)]
  exact congrArg _ (expireDue_of_none noneDue)

theorem exec_smcFailover_none (stays : s.failover = false) (alone : s.standby = false) : Stays .smcFailover s := by
  change execSmcFailover s = _
  simp [execSmcFailover, stays, alone]

theorem exec_smcFailover_begins (stays : s.failover = false) (ready : s.standby = true) : exec .smcFailover s = .next { s with failover := true, smcHalted := true, standby := false } := by
  change execSmcFailover s = _
  simp [execSmcFailover, stays, ready]

theorem exec_smcFailover_ends (under : s.failover = true) (noneDue : ∀ v, v ∈ s.vds → v.due = false) :
    ∃ t, exec .smcFailover s = .next t ∧ t.failover = false ∧ t.smcHalted = false ∧ t.mem = s.mem ∧ t.vds = s.vds ∧ ∀ g, g ∈ t.groups ↔ g ∈ s.groups ∧ g.site ≠ .smc := by
  change ∃ t, execSmcFailover s = .next t ∧ _
  rw [execSmcFailover, if_pos under]
  exact ⟨_, congrArg _ (expireDue_of_none noneDue), rfl, rfl, rfl, rfl, fun g => by simp⟩

/-! ### Retirement and reset -/

theorem exec_computeDieRetirement {die : Nat} (compute : die < 8) (live : die ∉ s.retired) (unnamed : ∀ v d, v ∈ s.vds → d ∈ v.desc.dies → d.pdie ≠ die) :
    exec (.computeDieRetirement die) s = .next { s with retired := s.retired ++ [die] } := by
  change execComputeDieRetirement die s = _
  have unused : s.vds.any (fun v => v.desc.dies.any (fun d => d.pdie == die)) = false := by simpa using fun v hv d hd => unnamed v d hv hd
  rw [execComputeDieRetirement, if_neg (by simpa [unused, live] using compute)]

theorem exec_packageReset (s : State) :
    ∃ t, exec .packageReset s = .next t ∧ t.vds = [] ∧ t.groups = [] ∧ t.teams = [] ∧ t.mem = [] ∧ t.reqs = [] ∧ t.windows = [] ∧ t.retired = s.retired := by
  refine ⟨_, rfl, ?_⟩
  rw [comingUp_rest]
  exact ⟨rfl, rfl, rfl, rfl, rfl, rfl, rfl⟩

/-! ### The surge arbiter -/

/-- The window of a field's arbiter in the current cycle: the one at hand, or a new one without grants. -/
def windowNow (a : Surge) (cycle : Nat) : Surge := if a.window = cycle / 64 then a else { a with window := cycle / 64, grants := 0 }

theorem windowNow_window (a : Surge) (cycle : Nat) : (windowNow a cycle).window = cycle / 64 := by
  unfold windowNow
  split
  next h => exact h
  next => rfl

theorem exec_surgeGrant {a : Surge} {v : Vd} {k : Cluster} (arbiter : s.surges[f]? = some a) (room : (windowNow a (cycleOf s f)).grants < 8)
    (turn : leastBy (fun (v : Vd) => (v.num + 31 - (windowNow a (cycleOf s f)).last) % 32) (s.vds.filter (fun v => !(askingClusters s v f).isEmpty)) = some v)
    (oldest : leastBy Cluster.asked (askingClusters s v f) = some k) :
    exec (.surgeGrant f) s = .next { setCluster s (grantCluster k (cycleOf s f)) with
      surges := s.surges.set f { windowNow a (cycleOf s f) with grants := (windowNow a (cycleOf s f)).grants + 1, last := v.num } } := by
  change execSurgeGrant f s = _
  unfold windowNow at *
  unfold execSurgeGrant
  simp only [arbiter, turn, oldest]
  rw [if_neg (by omega)]

theorem exec_surgeGrant_full {a : Surge} (arbiter : s.surges[f]? = some a) (now : a.window = cycleOf s f / 64) (full : 8 ≤ a.grants) : Stays (.surgeGrant f) s := by
  change execSurgeGrant f s = _
  simp [execSurgeGrant, arbiter, now, full]

end Sys2Proof.Machine
end

section
/-! The issue choice of a bay with one fragment (06 R128). -/

namespace Sys2Proof.Machine

variable {s : State} {site : Site} {bay : Nat} {g : Group} {f : Frag}

/-! ### The clock -/

/-- Clocks alone have moved on, which draws a free value. -/
def ClockOnly (s t : State) : Prop := t = { s with cycles := t.cycles, freeCtr := t.freeCtr }

theorem clockOnly_advanceCycle (s : State) (die : Nat) : ClockOnly s (advanceCycle s die) := by
  unfold advanceCycle
  split <;> rfl

theorem cycleOf_le_advanceCycle (s : State) (die : Nat) : cycleOf s die ≤ cycleOf (advanceCycle s die) die := by
  unfold advanceCycle
  split
  · simp only [cycleOf, assoc, assocSet, List.find?_cons, beq_self_eq_true, Option.map_some, Option.getD_some]
    omega
  · exact Nat.le_refl _

theorem bayCycle_eq_or (s : State) (site : Site) (bay : Nat) : bayCycle s site bay = advanceCycle s (siteDie site) ∨ bayCycle s site bay = s := ite_eq_or_eq _ _ _

theorem clockOnly_bayCycle (s : State) (site : Site) (bay : Nat) : ClockOnly s (bayCycle s site bay) := by
  rcases bayCycle_eq_or s site bay with h | h <;> rw [h]
  · exact clockOnly_advanceCycle s _
  · rfl

theorem cycleOf_le_bayCycle (s : State) (site : Site) (bay : Nat) : cycleOf s (siteDie site) ≤ cycleOf (bayCycle s site bay) (siteDie site) := by
  rcases bayCycle_eq_or s site bay with h | h <;> rw [h]
  exact cycleOf_le_advanceCycle s _

/-- What may be tried in a cycle may be tried in a later one. -/
theorem mayTry_mono {c d : Nat} (le : c ≤ d) (may : mayTry c f = true) : mayTry d f = true := by
  unfold mayTry at *
  split at may <;> simp_all
  omega

/-! ### The candidates -/

/-- The candidate that a group with one fragment has. -/
def soleCand (g : Group) (f : Frag) : Cand := { cur := { gid := g.gid, fi := 0 }, cls := classOf g, age := f.age, slot := g.slot, last := 0 == g.lastFrag, bonded := f.bonded }

theorem groupCands_sole (untried : s.tried = []) (noReplay : g.replay = []) (frag : g.frags = [f]) (may : mayTry (cycleOf s (siteDie g.site)) f = true) (stays : stopDue s g = false) :
    groupCands s g = [soleCand g f] := by
  simp [groupCands, untried, noReplay, frag, may, stays, soleCand]

/-- A single candidate is picked, whatever it is compared by. -/
theorem pick_singleton (ptr : Nat) (c : Cand) : pick ptr [c] = some c := by
  simp [pick, groupAge, minKey, leastBy]

/-- The group that has a bay for itself is at the bay's site. -/
theorem site_of_bayGroups (only : bayGroups s site bay = [g]) : g.site = site := by
  have here : g ∈ bayGroups s site bay := only ▸ List.mem_singleton_self g
  unfold bayGroups at here
  split at here
  · cases here
  · have := (List.mem_filter.mp here).2
    simp only [Bool.and_eq_true, beq_iff_eq] at this
    exact this.1.1

/-! ### The event -/

theorem exec_issueChoice_sole (free : s.cur = none) (untried : s.tried = []) (only : bayGroups s site bay = [g]) (noReplay : g.replay = []) (frag : g.frags = [f])
    (may : mayTry (cycleOf s (siteDie site)) f = true) (alone : f.bonded = false) (stays : stopDue s g = false) :
    ∃ t, exec (.issueChoice site bay) s = .next t ∧ t.cur = some { gid := g.gid, fi := 0 } ∧ t.groups = s.groups ∧ t.mem = s.mem ∧ t.vds = s.vds := by
  have clock := clockOnly_bayCycle s site bay
  have untried' : (bayCycle s site bay).tried = [] := by rw [clock]; exact untried
  have stays' : stopDue (bayCycle s site bay) g = false := by rw [clock]; exact stays
  have may' : mayTry (cycleOf (bayCycle s site bay) (siteDie g.site)) f = true := by
    rw [site_of_bayGroups only]
    exact mayTry_mono (cycleOf_le_bayCycle s site bay) may
  have cands := groupCands_sole untried' noReplay frag may' stays'
  change ∃ t, execIssueChoice site bay s = .next t ∧ _
  unfold execIssueChoice
  simp only [free, Option.isSome_none, Bool.false_eq_true, if_false, only, List.find?_cons, List.find?_nil, noReplay, frag, alone, List.any_cons, List.any_nil, Bool.or_false, Bool.and_false,
    List.flatMap_cons, List.flatMap_nil, List.append_nil, cands, pick_singleton]
  refine ⟨_, rfl, rfl, ?_, ?_, ?_⟩ <;> simp only [setCluster_groups, setCluster_mem, setCluster_vds] <;> rw [clock]

end Sys2Proof.Machine
end

section
/-! The puts that a Coupler port's service performs, and the counter that counts each once (17 R435, R440). -/

namespace Sys2Proof.Machine

variable {s : State} {p : PutOp} {w : Window} {v : Vd} {x y : Xl} {va n val : Nat}

/-! ### Counters -/

theorem eq_of_extract_eq {a b : BitVec 64} (h : ∀ i, i < 8 → a.extractLsb' (8 * i) 8 = b.extractLsb' (8 * i) 8) : a = b := by
  refine BitVec.eq_of_getLsbD_eq fun k hk => ?_
  have byte := congrArg (fun z : BitVec 8 => z.getLsbD (k % 8)) (h (k / 8) (by omega))
  simp only [BitVec.getLsbD_extractLsb', Nat.mod_lt k (by decide : 0 < 8), decide_true, Bool.true_and] at byte
  rwa [Nat.div_add_mod] at byte

/-- What a write of a whole cell from outside leaves there. -/
theorem tableEntry_outsideWrite (s : State) (vd : Nat) {c : Nat} (aligned : c % 8 = 0) (z : BitVec 64) : tableEntry (outsideWrite s vd c false z.toNat) c = z := by
  have cell : tableEntry (outsideWrite s vd c false z.toNat) c = memCell (outsideWrite s vd c false z.toNat) (c / 8) := by
    rw [tableEntry, memCell, show 8 * (c / 8) = c by omega]
  rw [cell]
  refine eq_of_extract_eq fun i hi => ?_
  rw [extract_memCell _ _ hi, ← ofNat_div_eq_extract, outsideWrite, rd_writeHome_plain rfl rfl (by omega), if_pos (by omega), show 8 * (c / 8) + i - c = i by omega, Nat.pow_mul]

theorem rd_outsideWrite_other (s : State) (vd : Nat) {c : Nat} (aligned : c % 8 = 0) (z : Nat) {a : Nat} (other : a < c ∨ c + 8 ≤ a) : rd (outsideWrite s vd c false z).mem a = rd s.mem a := by
  rw [outsideWrite, rd_writeHome_plain rfl rfl (by omega), if_neg (by omega)]

/-- A counter that nothing holds is changed at its home. -/
theorem counterWrite_performs (found : findVd s w.vd = some v) (free : NothingHeld s) (checks : s.integrity = []) (reached : walk s v 0 w.asid false .write 8 (BitVec.ofNat 64 w.cntva) = .ok y)
    (f : BitVec 64 → BitVec 64) :
    counterWrite s w.vd w.asid w.cntva f = some (outsideWrite s w.vd (y.at (BitVec.ofNat 64 w.cntva)) y.fed (f (tableEntry s (y.at (BitVec.ofNat 64 w.cntva)))).toNat) := by
  obtain ⟨noBlock, noLock, inService⟩ := free
  simp [counterWrite, found, blockHits, noBlock, reached, lockHeld, noLock, chanHeld, inService, badBlocks, checks]

/-! ### One put -/

/-- A put waits for its virtual device. -/
theorem putAccess_asleep (window : s.windows.find? (fun w => w.num == p.win) = some w) (live : w.aborted = false) (found : findVd s w.vd = some v) (asleep : awake v = false) :
    putAccess s p = (false, s) := by
  simp [putAccess, window, live, found, asleep]

/-- The write of a put's only piece. -/
def putWrite (s : State) (w : Window) (x : Xl) (va n val : Nat) : State := hostWrite s w.vd false (x.at (BitVec.ofNat 64 va)) n val

/-- A put of one piece that nothing holds is performed, if the counter of a put that ends can be changed. -/
theorem putAccess_performs {u : State} (window : s.windows.find? (fun w => w.num == p.win) = some w) (live : w.aborted = false) (found : findVd s w.vd = some v) (up : awake v = true)
    (inside : p.off + p.bytes.length ≤ w.size) (reached : putXl s v w p = .ok (some [(x, va, n, val)])) (plain : x.fed = false) (free : NothingHeld s) (checks : s.integrity = [])
    (ends : (if p.part.last then putEnds (putWrite s w x va n val) w p else some (putWrite s w x va n val)) = some u) : putAccess s p = (true, u) := by
  obtain ⟨-, noLock, inService⟩ := free
  have fresh : ∀ cover, freshChecks s cover = s := fun cover => by
    rw [freshChecks, checks, List.filter_nil, ← checks]
  unfold putWrite at ends
  simp only [putAccess, window, live, found, up, if_neg (Nat.not_lt.mpr inside), reached, plain, Bool.false_eq_true, if_false, Bool.not_true, List.map_cons, List.map_nil, fresh, List.foldl_cons,
    List.foldl_nil]
  cases last : p.part.last <;> simp_all [chanHeld, lockHeld, keptBlocks, badBlocks]

/-- What the write leaves to the counter: everything that could hold it, and its virtual device. -/
theorem putWrite_rest (s : State) (w : Window) (x : Xl) (va n val : Nat) : WritesOnly s (putWrite s w x va n val) := writeHome_plain_rest rfl rfl

/-- The last bytes of a put that lost none are counted. -/
theorem putEnds_counts (found : findVd s w.vd = some v) (free : NothingHeld s) (checks : s.integrity = []) (whole : w.bad.contains p.part.put = false)
    (reached : walk s v 0 w.asid false .write 8 (BitVec.ofNat 64 w.cntva) = .ok y) (plain : y.fed = false) :
    let c := y.at (BitVec.ofNat 64 w.cntva)
    putEnds s w p = some (outsideWrite s w.vd c false ((tableEntry s c &&& 0x8000000000000000#64) ||| ((tableEntry s c + 1#64) &&& 0x7FFFFFFFFFFFFFFF#64)).toNat) := by
  rw [putEnds, whole, if_neg (by decide), bumpCounter, counterWrite_performs found free checks reached, plain]

/-! ### The service of a port -/

theorem exec_couplerPortService_none (port : Nat) (none : s.putHeld = []) : Stays (.couplerPortService port) s := by
  change Host.Outcome.next (ite _ (retryPuts s.putHeld.length s) _) = _
  rw [none]
  exact congrArg _ (ite_self s)

theorem exec_couplerPortService_held {r : List PutOp} (port : Nat) (queue : s.putHeld = p :: r) (held : putAccess s p = (false, s)) : Stays (.couplerPortService port) s := by
  change Host.Outcome.next (ite _ (retryPuts s.putHeld.length s) _) = _
  have stays : retryPuts s.putHeld.length s = s := by simp [queue, retryPuts, held]
  rw [stays, ite_self]

theorem exec_couplerPortService_performs {port : Nat} {u : State} (isPort : port < 32) (queue : s.putHeld = [p]) (performed : putAccess s p = (true, u)) :
    exec (.couplerPortService port) s = .next { u with putHeld := [] } := by
  change Host.Outcome.next (ite _ (retryPuts s.putHeld.length s) _) = _
  rw [if_pos isPort]
  simp [queue, retryPuts, performed]

end Sys2Proof.Machine
end

section
/-! The failure of a die (03 R63; 12 R315): in every virtual device it is marked, whatever becomes of the work there. -/

namespace Sys2Proof.Machine

variable {s t u : State} {v w : Vd}

/-! ### Which instances have failed -/

/-- The die of an instance, and whether it has failed. -/
def lifeOf (i : Inst) : Nat × Bool := (i.pdie, i.failed)

/-- A virtual device of the same number, whose instances stand on the same dies, failed or not as before. -/
structure Alike (v w : Vd) : Prop where
  num : w.num = v.num
  lives : w.insts.map lifeOf = v.insts.map lifeOf

theorem Alike.refl (v : Vd) : Alike v v := ⟨rfl, rfl⟩

theorem Alike.trans {x : Vd} (h : Alike v w) (k : Alike w x) : Alike v x := ⟨k.num.trans h.num, k.lives.trans h.lives⟩

theorem alike_modInst (v : Vd) (d : Nat) {f : Inst → Inst} (hf : ∀ i, lifeOf (f i) = lifeOf i) : Alike v (v.modInst d f) := by
  refine ⟨rfl, ?_⟩
  rw [Vd.modInst, List.map_map]
  refine List.map_congr_left fun i _ => ?_
  dsimp only [Function.comp]
  split
  · exact hf i
  · rfl

theorem alike_foldl {α : Type} {f : Vd → α → Vd} (hf : ∀ v a, Alike v (f v a)) (l : List α) (v : Vd) : Alike v (l.foldl f v) :=
  List.foldlRecOn (motive := Alike v) l f (.refl v) fun w h a _ => h.trans (hf w a)

theorem alike_postTeamLost (v : Vd) (d launch node : Nat) : Alike v (postTeamLost v d launch node) := by
  unfold postTeamLost
  split
  · exact alike_modInst v _ fun _ => rfl
  · exact .refl v

theorem alike_lostRecords (v : Vd) (d : Nat) (rs : List (Nat × Nat)) : Alike v (lostRecords v d rs) := by
  unfold lostRecords
  split
  · exact .refl v
  · exact alike_modInst v _ fun _ => rfl

theorem alike_releaseNode (v : Vd) (g : Graph) (num i : Nat) : Alike v (releaseNode v g num i) := by
  unfold releaseNode
  split
  · exact .refl v
  extract_lets ds k t launch r
  have released : Alike v r := ⟨rfl, rfl⟩
  split
  · exact released.trans (alike_postTeamLost _ _ _ _)
  · refine released.trans (alike_foldl (fun v j => ?_) _ _)
    exact alike_modInst v _ fun _ => rfl

theorem alike_releaseAll (n : Nat) (v : Vd) (g : Graph) (num : Nat) : Alike v (releaseAll n v g num) := by
  induction n generalizing v with
  | zero => exact .refl v
  | succ n ih =>
    unfold releaseAll
    split
    · exact .refl v
    split
    · exact .refl v
    · exact (alike_releaseNode v g num _).trans (ih _)

/-! ### What the package's bookkeeping leaves of that -/

/-- The same dies have failed, and whoever is a virtual device now was one like it before. -/
structure Stands (s t : State) : Prop where
  failed : t.failed = s.failed
  vds : ∀ n w, findVd t n = some w → ∃ v, findVd s n = some v ∧ Alike v w

theorem Stands.of_eq (failed : t.failed = s.failed) (vds : t.vds = s.vds) : Stands s t := ⟨failed, fun n w h => ⟨w, by rwa [findVd, ← vds], .refl w⟩⟩

theorem Stands.refl (s : State) : Stands s s := .of_eq rfl rfl

theorem Stands.trans (h : Stands s t) (k : Stands t u) : Stands s u := by
  refine ⟨k.failed.trans h.failed, fun n w hw => ?_⟩
  obtain ⟨v, hv, second⟩ := k.vds n w hw
  obtain ⟨x, hx, first⟩ := h.vds n v hv
  exact ⟨x, hx, first.trans second⟩

theorem stands_foldl {α : Type} {f : State → α → State} (hf : ∀ s a, Stands s (f s a)) (l : List α) (s : State) : Stands s (l.foldl f s) :=
  List.foldlRecOn (motive := Stands s) l f (.refl s) fun t h a _ => h.trans (hf t a)

theorem HomeOnly.stands (h : HomeOnly s t) : Stands s t := by
  unfold HomeOnly at h
  rw [h]
  exact .of_eq rfl rfl

theorem stands_modVd (s : State) (n : Nat) {f : Vd → Vd} (hf : ∀ v, Alike v (f v)) : Stands s (modVd s n f) := by
  refine ⟨rfl, fun k w hw => ?_⟩
  rw [findVd_modVd s n (fun v => (hf v).num)] at hw
  obtain ⟨v, hv, rfl⟩ := Option.map_eq_some_iff.mp hw
  refine ⟨v, hv, ?_⟩
  split
  · exact hf v
  · exact .refl v

/-- What is found under the other numbers after a record has been put back. -/
theorem findVd_setVd_other {n : Nat} (other : n ≠ w.num) : findVd (setVd s w) n = findVd s n := by
  have untouched : ∀ u : Vd, u.num = n → (if u.num == w.num then w else u) = u := fun u hu => if_neg (by simpa [hu] using other)
  have same : ((fun v : Vd => v.num == n) ∘ fun u => if u.num == w.num then w else u) = fun v => v.num == n := by
    funext u
    by_cases put : u.num = w.num
    · simp [put]
    · simp [put]
  rw [findVd, setVd, List.find?_map, same]
  cases found : s.vds.find? (fun v => v.num == n) with
  | none => rw [findVd, found]; rfl
  | some u => rw [findVd, found, Option.map_some, untouched u (findVd_num (s := s) found)]

theorem stands_setVd (found : findVd s v.num = some v) (like : Alike v w) : Stands s (setVd s w) := by
  refine ⟨rfl, fun n x hx => ?_⟩
  by_cases mine : n = w.num
  · subst mine
    rw [like.num] at hx ⊢
    have put := findVd_setVd_same (v' := w) (like.num.symm ▸ found)
    rw [like.num, hx] at put
    cases put
    exact ⟨v, found, like⟩
  · rw [findVd_setVd_other mine] at hx
    exact ⟨x, hx, .refl x⟩

theorem stands_postIntegrity (s : State) (vd pa : Nat) : Stands s (postIntegrity s vd pa) := by
  unfold postIntegrity
  split
  · exact .refl s
  · exact stands_modVd s _ fun v => alike_modInst v _ fun _ => rfl

theorem stands_writeBackCell (s : State) (ws : List RemoteWord) : Stands s (writeBackCell s ws) := by
  unfold writeBackCell
  split
  · exact .refl s
  · extract_lets c mask val o
    have written : Stands s o.2 := (writeCell_rest _ _ _ _ _).stands
    split
    · exact written
    · exact written.trans (.of_eq rfl rfl)

theorem stands_writeBack (s : State) (p : RemoteWord → Bool) : Stands s (writeBack s p) := by
  unfold writeBack
  extract_lets ds ps bad good s1 s2
  have h1 : Stands s s1 := (homeOnly_freshChecks s ps).stands.trans (stands_foldl stands_writeBackCell _ _)
  have h2 : Stands s s2 := h1.trans (stands_foldl (fun s _ => stands_postIntegrity s _ _) _ _)
  exact h2.trans (.of_eq rfl rfl)

theorem stands_completeLaunch (s : State) (vd num : Nat) : Stands s (completeLaunch s vd num) := by
  unfold completeLaunch
  split
  · exact .refl s
  split
  · exact .refl s
  split
  · exact .refl s
  split
  · refine (stands_writeBack s _).trans (stands_modVd _ _ fun v => ⟨rfl, ?_⟩)
    simp [dropGraphs, lifeOf, Function.comp_def]
  · exact .refl s

theorem stands_advance (s : State) (vd num : Nat) : Stands s (advance s vd num) := by
  unfold advance
  split
  · exact .refl s
  next v found =>
    obtain rfl := findVd_num found
    split
    · exact .refl s
    split
    · exact .refl s
    · exact (stands_setVd found (alike_releaseAll _ _ _ _)).trans (stands_completeLaunch _ _ _)

theorem stands_loseTeams (s : State) (vd d launch node k : Nat) : Stands s (loseTeams s vd d launch node k) := by
  have posted : Stands s (modVd s vd (fun v => postTeamLost v d launch node)) := stands_modVd s vd fun v => alike_postTeamLost v d launch node
  refine posted.trans (Stands.trans (stands_modVd _ vd fun v => ?_) (stands_advance _ _ _))
  exact ⟨rfl, rfl⟩

theorem stands_passRange (s : State) (vd d launch node lo hi : Nat) : Stands s (passRange s vd d launch node lo hi) := by
  unfold passRange
  split
  · exact .refl s
  split
  · exact stands_modVd s vd fun v => alike_modInst v _ fun _ => rfl
  · exact stands_loseTeams _ _ _ _ _ _

theorem stands_killGroup (s : State) (g : Group) : Stands s (killGroup s g) := .of_eq rfl rfl

theorem stands_loseWork (s : State) (vd d : Nat) : Stands s (loseWork s vd d) := by
  unfold loseWork
  extract_lets gs s1 ts s2
  have killed : Stands s s1 := stands_foldl stands_killGroup gs s
  have teams : Stands s s2 := killed.trans (.of_eq rfl rfl)
  split
  · exact teams
  next v found =>
    obtain rfl := findVd_num found
    extract_lets held v1 heirs orphans s3 lost
    have emptied : Stands s2 (setVd s2 v1) := stands_setVd found (alike_modInst v _ fun _ => rfl)
    have passed : Stands (setVd s2 v1) s3 := stands_foldl (fun s r => stands_passRange s _ _ _ _ _ _) _ _
    exact ((teams.trans emptied).trans passed).trans (stands_foldl (fun s e => stands_loseTeams s _ _ _ _ _) _ _)

/-! ### The mark -/

/-- Every instance of a virtual device on a die has failed. -/
def Marked (die n : Nat) (s : State) : Prop := ∀ v, findVd s n = some v → ∀ i, i ∈ v.insts → i.pdie = die → i.failed = true

theorem Stands.marked {die n : Nat} (h : Stands s t) (marked : Marked die n s) : Marked die n t := by
  intro w hw i hi on
  obtain ⟨v, hv, like⟩ := h.vds n w hw
  have life : lifeOf i ∈ v.insts.map lifeOf := like.lives ▸ List.mem_map_of_mem hi
  obtain ⟨j, hj, same⟩ := List.mem_map.mp life
  obtain ⟨die_eq, failed_eq⟩ := Prod.mk.inj same
  rw [← failed_eq]
  exact marked v hv j hj (die_eq.trans on)

/-- The record in which the instances on a die are marked. -/
def markDie (die : Nat) (v : Vd) : Vd := { v with insts := v.insts.map (fun j => if j.pdie == die then { j with failed := true } else j) }

/-- What becomes of a state when a virtual device learns of the failure: nothing if it has no instance there, else the mark is put, and work is lost. -/
theorem failFor_cases (die : Nat) (s : State) (v0 : Vd) :
    (failFor die s v0 = s ∧ Marked die v0.num s) ∨ ∃ v w, findVd s v0.num = some v ∧ Alike (markDie die v) w ∧ Stands (setVd s w) (failFor die s v0) := by
  unfold failFor
  split
  next none => exact .inl ⟨rfl, fun v hv => absurd (none.symm.trans hv) (by simp)⟩
  next v found =>
    split
    next none =>
      refine .inl ⟨rfl, fun u hu i hi on => ?_⟩
      cases found.symm.trans hu
      have away := List.find?_eq_none.mp none i hi
      simp [on] at away
    next => exact .inr ⟨v, _, found, alike_lostRecords (markDie die v) _ _, stands_loseWork _ _ _⟩

theorem marked_markDie {die : Nat} (found : findVd s v.num = some v) (like : Alike (markDie die v) w) : Marked die v.num (setVd s w) := by
  have num : w.num = v.num := like.num
  intro x hx i hi on
  have put := findVd_setVd_same (v' := w) (num.symm ▸ found)
  rw [num, hx] at put
  cases put
  have life : lifeOf i ∈ (markDie die v).insts.map lifeOf := like.lives ▸ List.mem_map_of_mem hi
  obtain ⟨j, hj, same⟩ := List.mem_map.mp life
  obtain ⟨k, -, rfl⟩ := List.mem_map.mp hj
  obtain ⟨die_eq, failed_eq⟩ := Prod.mk.inj same
  by_cases there : k.pdie = die
  · simpa [there] using failed_eq.symm
  · simp [there, on] at die_eq

theorem failFor_marks (die : Nat) (s : State) (v0 : Vd) : Marked die v0.num (failFor die s v0) := by
  rcases failFor_cases die s v0 with ⟨same, marked⟩ | ⟨v, w, found, like, lost⟩
  · rw [same]; exact marked
  · have num : v.num = v0.num := findVd_num found
    rw [← num] at found ⊢
    exact lost.marked (marked_markDie found like)

theorem failFor_keeps_mark {die n : Nat} (v0 : Vd) (marked : Marked die n s) : Marked die n (failFor die s v0) := by
  rcases failFor_cases die s v0 with ⟨same, -⟩ | ⟨v, w, found, like, lost⟩
  · rw [same]; exact marked
  · refine lost.marked ?_
    have num : v.num = v0.num := findVd_num found
    rw [← num] at found
    by_cases mine : n = v.num
    · rw [mine]; exact marked_markDie found like
    · intro x hx
      rw [findVd_setVd_other (like.num ▸ mine)] at hx
      exact marked x hx

theorem failFor_failed (die : Nat) (s : State) (v0 : Vd) : (failFor die s v0).failed = s.failed := by
  rcases failFor_cases die s v0 with ⟨same, -⟩ | ⟨v, w, -, -, lost⟩
  · rw [same]
  · exact lost.failed

/-- No virtual device comes. -/
theorem failFor_found {die n : Nat} {v0 x : Vd} (hx : findVd (failFor die s v0) n = some x) : (findVd s n).isSome = true := by
  rcases failFor_cases die s v0 with ⟨same, -⟩ | ⟨v, w, found, like, lost⟩
  · rw [← same, hx]; rfl
  · obtain ⟨y, hy, -⟩ := lost.vds n x hx
    by_cases mine : n = v.num
    · rw [mine, findVd_num found, found]; rfl
    · rw [findVd_setVd_other (like.num ▸ mine)] at hy
      rw [hy]; rfl

/-! ### Every virtual device learns of it -/

theorem foldl_failFor_failed (die : Nat) (l : List Vd) (s : State) : (l.foldl (failFor die) s).failed = s.failed :=
  List.foldlRecOn (motive := fun t : State => t.failed = s.failed) l _ rfl fun t h v _ => (failFor_failed die t v).trans h

theorem foldl_failFor_found {die n : Nat} {x : Vd} (l : List Vd) (hx : findVd (l.foldl (failFor die) s) n = some x) : (findVd s n).isSome = true :=
  List.foldlRecOn (motive := fun t : State => ∀ x, findVd t n = some x → (findVd s n).isSome = true) l _ (fun x h => by rw [h]; rfl)
    (fun t h v _ x hx => by
      obtain ⟨y, hy⟩ := Option.isSome_iff_exists.mp (failFor_found hx)
      exact h y hy) x hx

theorem foldl_failFor_keeps_mark {die n : Nat} (l : List Vd) (marked : Marked die n s) : Marked die n (l.foldl (failFor die) s) :=
  List.foldlRecOn (motive := Marked die n) l _ marked fun _ h v _ => failFor_keeps_mark v h

theorem foldl_failFor_marks {die : Nat} {v0 : Vd} {l : List Vd} (mem : v0 ∈ l) (s : State) : Marked die v0.num (l.foldl (failFor die) s) := by
  obtain ⟨a, b, rfl⟩ := List.append_of_mem mem
  rw [List.foldl_append, List.foldl_cons]
  exact foldl_failFor_keeps_mark b (failFor_marks die _ v0)

theorem exec_dieFailure {die : Nat} (isDie : die < 8) (lives : die ∉ s.failed) :
    ∃ t, exec (.dieFailure die) s = .next t ∧ t.failed = s.failed ++ [die] ∧ (∀ n v i, findVd t n = some v → i ∈ v.insts → i.pdie = die → i.failed = true) ∧ ∀ r, r ∈ t.remote → r.die ≠ die := by
  change ∃ t, execDieFailure die s = .next t ∧ _
  rw [execDieFailure, if_neg (by simpa [lives] using isDie)]
  refine ⟨_, rfl, foldl_failFor_failed die s.vds { s with failed := s.failed ++ [die] }, fun n v i found hi on => ?_, fun r hr => ?_⟩
  · change findVd (s.vds.foldl (failFor die) { s with failed := s.failed ++ [die] }) n = some v at found
    obtain ⟨v0, hv0⟩ := Option.isSome_iff_exists.mp (foldl_failFor_found s.vds found)
    rw [← findVd_num hv0] at found
    exact foldl_failFor_marks (List.mem_of_find?_eq_some hv0) _ v found i hi on
  · have away := (List.mem_filter.mp hr).2
    simp only [Bool.and_eq_true, bne_iff_ne] at away
    exact away.1

end Sys2Proof.Machine
end

section
/-! What the fault of a request leaves alone (16 R399; 17 R439), and a mismatched check. -/

namespace Sys2Proof.Machine

variable {s t u : State}

/-- Groups and requests alone have changed. -/
def TrafficOnly (s t : State) : Prop := t = { s with groups := t.groups, reqs := t.reqs }

theorem TrafficOnly.trans (h : TrafficOnly s t) (k : TrafficOnly t u) : TrafficOnly s u := by
  unfold TrafficOnly at *
  rw [k, h]

theorem trafficOnly_foldl {α : Type} {f : State → α → State} (hf : ∀ s a, TrafficOnly s (f s a)) (l : List α) (s : State) : TrafficOnly s (l.foldl f s) :=
  List.foldlRecOn (motive := TrafficOnly s) l f rfl fun t h a _ => h.trans (hf t a)

theorem trafficOnly_dropRun (s : State) (gid runId : Nat) (head : DWord) : TrafficOnly s (dropRun s gid runId head) := rfl

theorem trafficOnly_abandonRuns (s : State) (g : Group) (runId : Nat) : TrafficOnly s (abandonRuns s g runId) :=
  trafficOnly_foldl (fun _ _ => trafficOnly_dropRun _ _ _ _) _ s

theorem trafficOnly_takeBack (s : State) (ws : List Req) : TrafficOnly s (takeBack s ws) := by
  refine trafficOnly_foldl (fun s r => ?_) _ s
  split
  · split
    · rfl
    · exact trafficOnly_dropRun s _ _ _
  · rfl

theorem trafficOnly_faultReq (s : State) (r : Req) (cause detail : BitVec 8) : TrafficOnly s (faultReq s r cause detail) := by
  unfold faultReq
  split
  · next g x _ _ =>
    extract_lets s1 y s2 s3 s4
    have abandoned : TrafficOnly s s1 := trafficOnly_abandonRuns s g x.runId
    split
    · split
      · split <;> exact abandoned.trans rfl
      · exact abandoned.trans rfl
    · exact (abandoned.trans (u := s4) rfl).trans (trafficOnly_takeBack _ _)
  · rfl

/-- The block of an address is marked. -/
def markCheck (s : State) (pa : Nat) : State := { s with integrity := if s.integrity.contains (pa / 64) then s.integrity else pa / 64 :: s.integrity }

theorem mem_markCheck (s : State) (pa : Nat) : pa / 64 ∈ (markCheck s pa).integrity := by
  unfold markCheck
  split
  next there => simpa using there
  next => exact List.mem_cons_self

theorem postIntegrity_integrity (s : State) (vd pa : Nat) : (postIntegrity s vd pa).integrity = s.integrity := by
  unfold postIntegrity
  split <;> rfl

theorem exec_integrity (req pa : Nat) (s : State) : ∃ t, exec (.integrity req pa) s = .next t ∧ pa / 64 ∈ t.integrity ∧ t.mem = s.mem := by
  suffices ∃ t, execIntegrity req pa s = .next t ∧ t.integrity = (markCheck s pa).integrity ∧ t.mem = (markCheck s pa).mem by
    obtain ⟨t, run, marks, mem⟩ := this
    exact ⟨t, run, marks ▸ mem_markCheck s pa, mem⟩
  unfold execIntegrity
  extract_lets marked
  split
  · refine ⟨_, rfl, ?_⟩
    split
    · exact ⟨rfl, rfl⟩
    split
    · exact ⟨rfl, rfl⟩
    · rw [trafficOnly_faultReq]
      exact ⟨rfl, rfl⟩
  · split
    · exact ⟨_, rfl, postIntegrity_integrity _ _ _, postIntegrity_mem _ _ _⟩
    · exact ⟨_, rfl, rfl, rfl⟩

end Sys2Proof.Machine
end

section
/-! Bring-up, service and failures, put together (02 R45; 03 R56, R63; 06 R128; 12 R315; 17 R431, R435, R439, R440). -/

namespace Sys2Proof.Machine

/-- Settles O56: each event has its equation above; what a port's service leaves in memory follows from the bytes of a plain write, and that every virtual device learns of a failed die from
`failFor_marks`. -/
theorem bringUpServiceAndFailures : Obligations.BringUpServiceAndFailures := by
  unfold Obligations.BringUpServiceAndFailures
  refine ⟨fun f s x next here => ?inService, fun f s => exec_fieldInService_early, fun s x y => exec_earlyServiceEnd, fun f s x => exec_fieldRecalibration, fun f s x => exec_recalibrationEnd,
    fun die ch s => exec_hbmChannelService_begins, fun die ch s => exec_hbmChannelService_ends, fun port s => exec_couplerPortService_none port, fun port s p r w v queue window live found => ?port,
    fun s => exec_smcFailover_none, fun s => exec_smcFailover_begins, fun s => exec_smcFailover_ends, fun die s => exec_computeDieRetirement, fun field s a v k arbiter => ?grant,
    fun field s a => exec_surgeGrant_full, fun die s => exec_dieFailure, exec_integrity, exec_packageReset, fun site bay s g f => exec_issueChoice_sole⟩
  case inService =>
    obtain ⟨t, run, rest, up⟩ := exec_fieldInService next here
    refine ⟨t, _, run, ?_, ?_, up, rfl, rfl, fun zero => ?_, fun seven => ?_⟩ <;> rw [rest]
    · simp [zero]
    · simp [seven]
  case grant =>
    intro cycle now room turn oldest
    refine ⟨_, exec_surgeGrant arbiter room turn oldest, clusterOf_setCluster_same s (grantCluster k cycle), ?_, setCluster_groups _ _, setCluster_mem _ _⟩
    have inside : field < s.surges.length := (List.getElem?_eq_some_iff.mp arbiter).1
    rw [List.getElem?_set_self inside]
    exact congrArg (fun n => some (Surge.mk n _ _)) (windowNow_window a cycle)
  case port =>
    refine ⟨fun asleep => exec_couplerPortService_held port queue (putAccess_asleep window live found asleep), ?_⟩
    rintro x va n val y isPort up rfl inside reached plain ⟨noBlock, noLock, inService⟩ checks pa u c inCell
    have free : NothingHeld s := ⟨noBlock, noLock, inService⟩
    have rest : WritesOnly s u := putWrite_rest s w x va n val
    have performs := fun {t} => putAccess_performs (u := t) window live found up inside reached plain free checks
    refine ⟨fun j hj => ?_, fun a other => ?_, fun more => ?_, fun ends whole reachedCounter plainCounter aligned => ?_, fun ends lost => ?_⟩
    · rw [rd_hostWrite inCell, if_pos (by omega), Nat.add_sub_cancel_left]
    · rw [rd_hostWrite inCell, if_neg (by omega)]
    · have performed : putAccess s p = (true, u) := performs (if_neg (ne_true_of_eq_false more))
      exact ⟨_, exec_couplerPortService_performs isPort queue performed, rfl, rfl⟩
    · have freeAfter : NothingHeld u := by rw [rest]; exact free
      have checksAfter : u.integrity = [] := by rw [rest]; exact checks
      have foundAfter : findVd u w.vd = some v := by rw [rest]; exact found
      have counted := putEnds_counts foundAfter freeAfter checksAfter whole reachedCounter plainCounter
      have performed := performs ((if_pos ends).trans counted)
      exact ⟨_, exec_couplerPortService_performs isPort queue performed, rfl, tableEntry_outsideWrite u w.vd aligned _,
        fun a other => rd_outsideWrite_other u w.vd aligned _ other⟩
    · have dropped : putEnds u w p = some (putLost u w p) := if_pos lost
      have performed := performs ((if_pos ends).trans dropped)
      exact ⟨_, exec_couplerPortService_performs isPort queue performed, rfl, rfl⟩

end Sys2Proof.Machine
end

section
/-! Requests on their way to an entry slice: tokens, the egress queue, and the way of a refused request (02 R43; 12 R312; 15 R368). -/

namespace Sys2Proof.Machine

variable {s : State} {r : Req} {vd die req : Nat}

/-! ### The request list -/

theorem findReq_id {id : Nat} (found : findReq s id = some r) : r.id = id := by
  simpa using List.find?_some found

theorem mem_of_findReq {id : Nat} (found : findReq s id = some r) : r ∈ s.reqs := List.mem_of_find?_eq_some found

theorem mem_moveReq (s : State) (r : Req) : r ∈ (moveReq s r).reqs := List.mem_append_right _ (List.mem_singleton_self r)

/-- A request changed in its place is there. -/
theorem mem_putReq {q : Req} (found : findReq s r.id = some q) : r ∈ (putReq s r).reqs :=
  List.mem_map.mpr ⟨q, mem_of_findReq found, if_pos (by simpa using findReq_id found)⟩

/-! ### Tokens -/

/-- A bucket is refilled. -/
def refilled (v : Vd) (i : Inst) : Inst := { i with tokens := min (i.tokens + v.desc.rreq) v.desc.rburst }

theorem exec_tokenRefill {v : Vd} {i : Inst} (found : findVd s vd = some v) (has : i ∈ v.insts) (there : i.pdie = die) :
    ∃ t v', exec (.tokenRefill vd die) s = .next t ∧ t.groups = s.groups ∧ t.mem = s.mem ∧ findVd t vd = some v' ∧ refilled v i ∈ v'.insts :=
  ⟨_, _, rfl, rfl, rfl, findVd_modVd_same (fun _ h => h) found, List.mem_map.mpr ⟨i, has, if_pos (by simpa using there)⟩⟩

/-- What is found on a die after the instances there have been changed. -/
theorem instAt_map (v : Vd) (die : Nat) {f : Inst → Inst} (hf : ∀ i, (f i).pdie = i.pdie) :
    ({ v with insts := v.insts.map (fun i => if i.pdie == die then f i else i) } : Vd).instAt die = (v.instAt die).map f := by
  have same : ((fun i : Inst => i.pdie == die) ∘ fun i => if i.pdie == die then f i else i) = fun i => i.pdie == die := by
    funext i
    by_cases there : i.pdie = die
    · simp [there, hf]
    · simp [there]
  unfold Vd.instAt
  rw [List.find?_map, same]
  cases found : v.insts.find? (fun i => i.pdie == die) with
  | none => rfl
  | some i => rw [Option.map_some, if_pos (by simpa using List.find?_some found), Option.map_some]

/-- A token taken is one less in the bucket. -/
theorem tokensOf_takeToken (s : State) (vd die : Nat) : tokensOf (takeToken s vd die) vd die = (tokensOf s vd die).map (fun n => n - 1) := by
  unfold tokensOf takeToken modInstAt
  rw [findVd_modVd]
  · cases found : findVd s vd with
    | none => rfl
    | some v =>
      have num : (v.num == vd) = true := by simpa using findVd_num found
      simp only [Option.map_some, Option.bind_some, num, if_true]
      split
      · rfl
      · rw [instAt_map]
        · simp [Function.comp_def]
        · exact fun _ => rfl
  · exact fun _ => rfl

/-! ### The egress queue -/

/-- The requests of a virtual device on a die that wait for their egress. -/
def waitsAt (vd die : Nat) (r : Req) : Bool := r.vd == vd && r.die == die && r.stage == .egress

theorem exec_egressRelease_core (core : s.reqs.find? (fun r => waitsAt vd die r && !isCluster r.site) = some r) :
    exec (.egressRelease vd die) s = .next (moveReq s { r with stage := .entry }) := by
  change execEgressRelease vd die s = _
  unfold waitsAt at core
  simp only [execEgressRelease, core]

theorem exec_egressRelease_cluster (noCore : s.reqs.find? (fun r => waitsAt vd die r && !isCluster r.site) = none) (oldest : leastBy Req.id (s.reqs.filter (waitsAt vd die)) = some r) :
    exec (.egressRelease vd die) s =
      .next (if tokenReady s vd die && !ticketOlder s vd die r.id then moveReq (takeToken s vd die) { r with stage := .entry } else s) := by
  change execEgressRelease vd die s = _
  have oldest' : leastBy Req.id (s.reqs.filter (fun r => r.vd == vd && r.die == die && r.stage == .egress)) = some r := oldest
  unfold waitsAt at noCore
  simp only [execEgressRelease, noCore, oldest']
  split <;> rfl

/-! ### A refused request -/

/-- What a turn takes: tokens and places in the queues. -/
theorem takeTurn_rest (s : State) (vd die : Nat) (who : Taker) (k : Nat) :
    (takeTurn s vd die who k).2 = { s with vds := (takeTurn s vd die who k).2.vds, tickets := (takeTurn s vd die who k).2.tickets, nextId := (takeTurn s vd die who k).2.nextId } := by
  unfold takeTurn
  split
  · rfl
  extract_lets need mine age
  split
  · rfl
  split
  · rfl
  · unfold keepPlace
    split <;> rfl

/-- Only a place that is kept takes a number. -/
theorem takeTurn_nextId {who : Taker} {k : Nat} (taken : (takeTurn s vd die who k).1 = true) : (takeTurn s vd die who k).2.nextId = s.nextId := by
  unfold takeTurn at *
  cases tokens : tokensOf s vd die with
  | none => rfl
  | some n =>
    simp only [tokens] at taken ⊢
    split at taken
    next nothing => rw [if_pos nothing]
    next needed =>
      rw [if_neg needed]
      split at taken
      next enough => rw [if_pos enough]; rfl
      next => cases taken

theorem exec_remapResend_core {new : Bool} (found : findReq s req = some r) (stage : r.stage = .remap) (unsent : r.xl = none) (map : new = siteNew s r.die r.site)
    (moved : (findVd s r.vd).isSome = false ∨ entryIn s r.vd r.die ((r.lanes.head?.map Access.va).getD 0#64).toNat new ≠ r.slice ∨ sliceNew s r.die r.slice = true) :
    ∃ t q, exec (.remapResend req) s = .next t ∧ q ∈ t.reqs ∧ t.mem = s.mem ∧ t.groups = s.groups ∧
      q = { r with id := s.nextId, stage := .egress, slice := entryIn s r.vd r.die ((r.lanes.head?.map Access.va).getD 0#64).toNat new, gen := genUnder s r.die new, xl := none, reached := false } := by
  subst map
  change ∃ t q, execRemapResend req s = .next t ∧ _
  unfold execRemapResend
  simp only [found, stage, unsent]
  rw [if_neg (by decide), if_neg (by rcases moved with h | h | h <;> simp [h])]
  exact ⟨_, _, rfl, List.mem_append_right _ (List.mem_singleton_self _), rfl, rfl, rfl⟩

/-- The turn of a request that its home has refused: its entry slice takes a token for a cluster's. -/
def resendTurn (s : State) (req : Nat) (r : Req) : Bool × State := if isCluster r.site then takeTurn s r.vd r.die (.resend req) 1 else (true, s)

theorem exec_remapResend_home {x : Xl} (found : findReq s req = some r) (stage : r.stage = .remap) (sent : r.xl = some x) (moved : homeFor s r x ≠ r.home) (first : overtaken s r = false) :
    exec (.remapResend req) s = .next (if (resendTurn s req r).1 then
      { dropReq (resendTurn s req r).2 req with
        nextId := (resendTurn s req r).2.nextId + 1
        reqs := (dropReq (resendTurn s req r).2 req).reqs ++
          [{ r with id := (resendTurn s req r).2.nextId, stage := .home, home := homeFor s r x, out := some (vecOf s r.vd r.die), gen := homeGen s r x }] }
      else (resendTurn s req r).2) := by
  change execRemapResend req s = _
  unfold execRemapResend
  simp only [found, stage, sent]
  rw [if_neg (by decide), if_neg (by simp [moved, first])]
  unfold resendTurn
  generalize (if isCluster r.site then takeTurn s r.vd r.die (.resend req) 1 else (true, s)) = turn
  obtain ⟨taken, u⟩ := turn
  cases taken <;> rfl

theorem exec_remapResend_overtaken {x : Xl} (found : findReq s req = some r) (stage : r.stage = .remap) (sent : r.xl = some x) (behind : overtaken s r = true) :
    exec (.remapResend req) s = .next s := by
  change execRemapResend req s = _
  simp [execRemapResend, found, stage, sent, behind]

end Sys2Proof.Machine
end

section
/-! A request at its entry slice: refused, held, or translated and sent on, past the copies or served from them (11 R256-R258, R269; 12 R285, R291-R294, R312; 15 R380). -/

namespace Sys2Proof.Machine

variable {s t : State} {r : Req} {g : Group} {f : Flight} {x : Xl} {req : Nat}

/-! ### Arrival -/

/-- A request of a known virtual device stands at its entry slice, first of its cluster's. -/
structure AtEntry (s : State) (req : Nat) (r : Req) : Prop where
  found : findReq s req = some r
  stage : r.stage = .entry
  first : firstAtEntry s r = true
  known : (findVd s r.vd).isSome = true

/-- The entry slice of a request under the map that its slice uses. -/
def properSlice (s : State) (r : Req) : Nat := entryIn s r.vd r.die ((r.lanes.head?.map Access.va).getD 0#64).toNat (sliceNew s r.die r.slice)

theorem exec_sliceRequest_refused (here : AtEntry s req r) (wrong : properSlice s r ≠ r.slice) :
    exec (.sliceRequest req) s = .next (moveReq s { r with stage := .remap, xl := none, reached := false }) := by
  obtain ⟨found, stage, first, known⟩ := here
  change execSliceRequest req s = _
  unfold execSliceRequest properSlice at *
  simp [found, stage, first, known, wrong]

theorem exec_sliceRequest_waits (here : AtEntry s req r) (right : properSlice s r = r.slice) (busy : spanBusy s r = true) :
    exec (.sliceRequest req) s = .next (putReq s { r with reached := true }) := by
  obtain ⟨found, stage, first, known⟩ := here
  change execSliceRequest req s = _
  unfold execSliceRequest properSlice at *
  simp [found, stage, first, known, right, busy]

/-- Nothing at its slice holds an untranslated request of a word outside bonded runs, whose group runs. -/
structure Enters (s : State) (req : Nat) (r : Req) (g : Group) (f : Flight) : Prop extends AtEntry s req r where
  right : properSlice s r = r.slice
  free : spanBusy s r = false
  untranslated : r.xl = none
  unblocked : reqBlocked s r = false
  group : findGroup s r.gid = some g
  running : g.status = .running
  flight : flightOf s r = some f
  unbonded : f.runId = 0
  access : r.op ≠ .pref

theorem exec_sliceRequest_enters (h : Enters s req r g f) : exec (.sliceRequest req) s = .next (atEntry s r) := by
  obtain ⟨⟨found, stage, first, known⟩, right, free, untranslated, unblocked, group, running, -, -, -⟩ := h
  change execSliceRequest req s = _
  unfold execSliceRequest properSlice at *
  simp [found, stage, first, known, right, free, unblocked, group, running]

theorem atEntry_ok {p : Xl × State} (h : Enters s req r g f) (translated : translateReq s r = .ok p) : atEntry s r = forward p.2 r p.1 := by
  obtain ⟨-, -, -, untranslated, -, group, -, flight, unbonded, access⟩ := h
  simp [atEntry, untranslated, translated, group, flight, unbonded, access]

/-- Translating may fill the slice's translation cache, and no more (12 R294). -/
theorem translateReq_rest {p : Xl × State} (translated : translateReq s r = .ok p) : p.2 = { s with stc := p.2.stc } := by
  unfold translateReq at translated
  extract_lets va found at translated
  have fills : ∀ q, found = .ok q → q.2 = { s with stc := q.2.stc } := by
    intro q hq
    unfold found at hq
    split at hq
    · cases hq; rfl
    · unfold translate at hq
      split at hq
      · cases hq; rfl
      split at hq
      · cases hq
      · cases hq; rfl
  clear_value found
  split at translated
  · cases translated
  next q =>
    split at translated
    · cases translated
    · cases translated; exact fills _ rfl

/-! ### The ways on -/

/-- An accepted request, with its translation, the vector it carries and the home it names. -/
def enRoute (s : State) (r : Req) (x : Xl) : Req := { r with xl := some x, out := some (vecOf s r.vd r.die), home := homeFor s r x, gen := homeGen s r x }

/-- What a slice sends to a request's home. -/
def sentHome (s : State) (r : Req) (x : Xl) : Req := { enRoute s r x with stage := .home }

/-- A copied word of a request's slice and virtual device. -/
def ofSlice (r : Req) (q : RemoteWord) : Bool := q.vd == r.vd && q.slice == r.slice

/-- One that lies in a cell of its span, on its die. -/
def ofSpan (r : Req) (x : Xl) (q : RemoteWord) : Bool := ofSlice r q && q.die == r.die && (spanWords r x).any (fun w => w.2 / 2 == q.word / 2)

/-- Past the copies: the dirty words of the span go home first. -/
def goesPast (s : State) (r : Req) (x : Xl) : State :=
  moveReq (if atomicClass r.op then recallSpan (acceptLanes s r) r.die (ofSlice r) ((spanWords r x).map Prod.snd) else writeBack (acceptLanes s r) (ofSpan r x)) (sentHome s r x)

/-- A word of a request's slice as a load of its copies sees it. -/
def copiedWord (s : State) (r : Req) (w : Nat) : Word := ((remoteWord s r w).map RemoteWord.data).getD 0#32

/-- Served from the copies. -/
def isServed (s : State) (r : Req) (x : Xl) : State :=
  if r.op = .store then moveReq (r.lanes.foldl (fun t a => writeCopy t (enRoute s r x) x a) (acceptLanes s r)) { enRoute s r x with stage := .reply }
  else moveReq (acceptLanes s r) (answerLoad (enRoute s r x) x true (copiedWord s r) (fun w => ((remoteWord s r w).map RemoteWord.sibs).getD false))

/-- The slice of a request keeps copies of the words it names: they lie in another die's HBM. -/
def copiesOf (r : Req) (x : Xl) : Bool := !(x.dev || paKind (firstPa r x) != .hbm || paDie (firstPa r x) == r.die)

theorem copiesOf_iff : copiesOf r x = true ↔ ¬ (paDie (firstPa r x) = r.die ∨ paKind (firstPa r x) ≠ .hbm ∨ x.dev = true) := by
  simp only [copiesOf, Bool.not_eq_true', Bool.or_eq_false_iff, bne_eq_false_iff_eq, beq_eq_false_iff_ne]
  cases x.dev
  · simp; tauto
  · simp

theorem copiesOf_eq_false_iff : copiesOf r x = false ↔ paDie (firstPa r x) = r.die ∨ paKind (firstPa r x) ≠ .hbm ∨ x.dev = true := by
  rw [Bool.eq_false_iff, ne_eq, copiesOf_iff, not_not]

/-- An accepted request goes home, past the copies or straight, or is served from them. -/
theorem forward_eq (s : State) (r : Req) (x : Xl) : forward s r x =
    if copiesOf r x then (if r.bypass then goesPast s r x else if r.size != 16 && holdsSpan s r x then isServed s r x else moveReq (acceptLanes s r) (sentHome s r x))
    else moveReq (acceptLanes s r) (sentHome s r x) := by
  have ways : forward s r x = if (x.dev || paKind (firstPa r x) != .hbm || paDie (firstPa r x) == r.die) = true then moveReq (acceptLanes s r) (sentHome s r x)
    else (if r.bypass then goesPast s r x else if r.size != 16 && holdsSpan s r x then isServed s r x else moveReq (acceptLanes s r) (sentHome s r x)) := by
    unfold forward
    refine ite_congr rfl (fun _ => rfl) (fun _ => ite_congr rfl (fun _ => rfl) (fun _ => ite_congr rfl (fun _ => ?_) (fun _ => rfl)))
    split
    next store => exact (if_pos store).symm
    next other => exact (if_neg other).symm
  rw [ways, copiesOf]
  cases (x.dev || paKind (firstPa r x) != .hbm || paDie (firstPa r x) == r.die) <;> rfl

/-- A request without copies goes straight home, as does one of whose words the slice holds some not, and one of 16 bytes. -/
theorem forward_home (straight : copiesOf r x = false ∨ (r.bypass = false ∧ (holdsSpan s r x = false ∨ r.size = 16))) : forward s r x = moveReq (acceptLanes s r) (sentHome s r x) := by
  rw [forward_eq]
  rcases straight with none | ⟨direct, away | wide⟩
  · simp [none]
  · simp [direct, away]
  · simp [direct, wide]

/-- One that bypasses the copies goes past them. -/
theorem forward_past (s : State) (copied : copiesOf r x = true) (bypass : r.bypass = true) : forward s r x = goesPast s r x := by
  rw [forward_eq, if_pos copied, if_pos bypass]

/-- One whose words the slice holds is served from the copies. -/
theorem forward_served (copied : copiesOf r x = true) (direct : r.bypass = false) (held : holdsSpan s r x = true) (narrow : r.size ≠ 16) : forward s r x = isServed s r x := by
  rw [forward_eq, if_pos copied, if_neg (by simp [direct]), if_pos (by simp [held, narrow])]

/-! ### Past the copies -/

theorem foldl_remote {α : Type} {step : State → α → State} (hf : ∀ s a, (step s a).remote = s.remote) (l : List α) (s : State) : (l.foldl step s).remote = s.remote :=
  List.foldlRecOn (motive := fun t : State => t.remote = s.remote) l step rfl fun t h a _ => (hf t a).trans h

theorem postIntegrity_remote (s : State) (vd pa : Nat) : (postIntegrity s vd pa).remote = s.remote := by
  unfold postIntegrity
  split <;> rfl

theorem writeBackCell_remote (s : State) (ws : List RemoteWord) : (writeBackCell s ws).remote = s.remote := by
  unfold writeBackCell
  split
  · rfl
  · extract_lets c mask val o
    have rest : HomeOnly s o.2 := writeCell_rest _ _ _ _ _
    have written : o.2.remote = s.remote := by
      unfold HomeOnly at rest
      rw [rest]
    split <;> exact written

/-- A write-back leaves the copies, clean. -/
theorem writeBack_remote (s : State) (p : RemoteWord → Bool) : (writeBack s p).remote = s.remote.map (fun q => if p q then { q with dirty := false } else q) := by
  unfold writeBack
  extract_lets ds ps bad good s1 s2
  have same : s2.remote = s.remote := (foldl_remote (fun s _ => postIntegrity_remote s _ _) _ _).trans (foldl_remote writeBackCell_remote _ _)
  rw [same]

/-- What a write-back has taken home is clean. -/
theorem clean_of_writeBack {p : RemoteWord → Bool} {y : RemoteWord} (mem : y ∈ (writeBack s p).remote) (taken : p y = true) : y.dirty = false := by
  rw [writeBack_remote] at mem
  obtain ⟨q, -, rfl⟩ := List.mem_map.mp mem
  by_cases here : p q = true
  · simp [here]
  · simp only [here] at taken
    exact absurd taken here

/-- So is what a recall leaves of its cells. -/
theorem clean_of_recallSpan {die : Nat} {p : RemoteWord → Bool} {words : List Nat} {y : RemoteWord} (mem : y ∈ (recallSpan s die p words).remote)
    (taken : (y.die == die && p y && words.any (fun w => w / 2 == y.word / 2)) = true) : y.dirty = false :=
  clean_of_writeBack (List.mem_filter.mp mem).1 taken

/-- A request that goes past the copies leaves none of its span dirty there. -/
theorem goesPast_clean {y : RemoteWord} (mem : y ∈ (goesPast s r x).remote) (vd : y.vd = r.vd) (die : y.die = r.die) (slice : y.slice = r.slice)
    (span : ∃ w, w ∈ spanWords r x ∧ w.2 / 2 = y.word / 2) : y.dirty = false := by
  obtain ⟨w, hw, cell⟩ := span
  change y ∈ (ite _ (recallSpan _ _ _ _) (writeBack _ _)).remote at mem
  split at mem
  · refine clean_of_recallSpan mem ?_
    simp only [ofSlice, vd, die, slice, beq_self_eq_true, Bool.true_and, List.any_map, List.any_eq_true]
    exact ⟨w, hw, by simpa using cell⟩
  · refine clean_of_writeBack mem ?_
    simp only [ofSpan, ofSlice, vd, die, slice, beq_self_eq_true, Bool.true_and, List.any_eq_true]
    exact ⟨w, hw, by simpa using cell⟩

end Sys2Proof.Machine
end

section
/-! What a request finds and leaves in the copies of its slice (11 R255, R258). -/

namespace Sys2Proof.Machine

variable {s : State} {r : Req} {x : Xl} {a : Access}

/-! ### Bytes of a list -/

theorem leNat_div (l : List (BitVec 8)) {i : Nat} (h : i < l.length) : leNat l / 256 ^ i % 256 = l[i].toNat := by
  induction l generalizing i with
  | nil => simp at h
  | cons b l ih =>
    have low : b.toNat < 256 := b.isLt
    cases i with
    | zero => simp only [leNat, Nat.pow_zero, Nat.div_one, List.getElem_cons_zero]; omega
    | succ i =>
      rw [leNat, Nat.pow_succ', ← Nat.div_div_eq_div_mul, Nat.add_mul_div_left _ _ (by decide), Nat.div_eq_of_lt low, Nat.zero_add, ih (by simpa using h)]
      rfl

theorem leNat_lt (l : List (BitVec 8)) : leNat l < 256 ^ l.length := by
  induction l with
  | nil => simp [leNat]
  | cons b l ih =>
    have low : b.toNat < 256 := b.isLt
    rw [leNat, List.length_cons, Nat.pow_succ']
    omega

/-- Byte i of the word that four bytes make. -/
theorem extract_leNat {l : List (BitVec 8)} (four : l.length = 4) {i : Nat} (h : i < 4) : (BitVec.ofNat 32 (leNat l)).extractLsb' (8 * i) 8 = l[i] := by
  have small : leNat l < 2 ^ 32 := by simpa [four] using leNat_lt l
  refine BitVec.eq_of_toNat_eq ?_
  rw [← leNat_div l (by omega), ← ofNat_div_eq_extract, BitVec.toNat_ofNat, BitVec.toNat_ofNat, Nat.mod_eq_of_lt small]

/-! ### A store to the copies -/

/-- A copied word of a request's slice that a store's bytes meet. -/
def storeMeets (r : Req) (x : Xl) (a : Access) (q : RemoteWord) : Bool :=
  remoteOf r.vd r.die q && q.slice == r.slice && decide (x.at a.va < 4 * q.word + 4) && decide (4 * q.word < x.at a.va + r.size)

/-- Byte i of a copied word after a store. -/
def storedByte (r : Req) (x : Xl) (a : Access) (q : RemoteWord) (i : Nat) : BitVec 8 :=
  if x.at a.va ≤ 4 * q.word + i ∧ 4 * q.word + i < x.at a.va + r.size then BitVec.ofNat 8 (a.data / 2 ^ (8 * (4 * q.word + i - x.at a.va))) else q.data.extractLsb' (8 * i) 8

/-- A copied word after a store. -/
def storedWord (r : Req) (x : Xl) (a : Access) (q : RemoteWord) : RemoteWord :=
  if storeMeets r x a q then
    { q with data := BitVec.ofNat 32 (leNat ((List.range 4).map (storedByte r x a q))), dirty := true, gid := r.gid, asid := r.asid
             va := 4 * (a.va.toNat / 4) + 4 * (q.word - x.at a.va / 4), gpa := x.gpaOf q.word, fed := x.fed, sibs := false }
  else q

theorem writeCopy_remote (s : State) (r : Req) (x : Xl) (a : Access) : (writeCopy s r x a).remote = s.remote.map (storedWord r x a) := rfl

/-- A store leaves every copied word where it was. -/
theorem storedWord_place (r : Req) (x : Xl) (a : Access) (q : RemoteWord) :
    (storedWord r x a q).vd = q.vd ∧ (storedWord r x a q).die = q.die ∧ (storedWord r x a q).slice = q.slice ∧ (storedWord r x a q).word = q.word := by
  unfold storedWord
  split <;> exact ⟨rfl, rfl, rfl, rfl⟩

theorem remoteWord_writeCopy (s : State) (r : Req) (x : Xl) (a : Access) (w : Nat) : remoteWord (writeCopy s r x a) r w = (remoteWord s r w).map (storedWord r x a) := by
  rw [remoteWord, writeCopy_remote, List.find?_map, remoteWord]
  congr 2
  funext q
  obtain ⟨vd, die, slice, word⟩ := storedWord_place r x a q
  simp only [Function.comp, vd, die, slice, word]

/-- The word that holds a byte meets a store that writes the byte. -/
theorem storeMeets_of_byte {k : Nat} {q : RemoteWord} (found : remoteWord s r (k / 4) = some q) (written : x.at a.va ≤ k ∧ k < x.at a.va + r.size) : storeMeets r x a q = true := by
  have place := List.find?_some found
  simp only [Bool.and_eq_true, beq_iff_eq] at place
  obtain ⟨⟨⟨vd, die⟩, slice⟩, word⟩ := place
  simp only [storeMeets, remoteOf, vd, die, slice, word, beq_self_eq_true, Bool.true_and, Bool.and_eq_true, decide_eq_true_eq]
  omega

theorem storedWord_byte {k : Nat} {q : RemoteWord} (found : remoteWord s r (k / 4) = some q) :
    (storedWord r x a q).data.extractLsb' (8 * (k % 4)) 8 =
      if x.at a.va ≤ k ∧ k < x.at a.va + r.size then BitVec.ofNat 8 (a.data / 2 ^ (8 * (k - x.at a.va))) else q.data.extractLsb' (8 * (k % 4)) 8 := by
  have place := List.find?_some found
  simp only [Bool.and_eq_true, beq_iff_eq] at place
  have byte : 4 * q.word + k % 4 = k := by omega
  have low : k % 4 < 4 := Nat.mod_lt _ (by decide)
  unfold storedWord
  split
  · rw [extract_leNat (by simp) low]
    simp only [List.getElem_map, List.getElem_range, storedByte, byte]
  next apart => exact (if_neg fun written => apart (storeMeets_of_byte found written)).symm

/-! ### What a served request leaves -/

/-- A load answers with the bytes of the copies. -/
theorem isServed_load (load : r.op = .load) : ∃ q, q ∈ (isServed s r x).reqs ∧ q.id = r.id ∧ q.stage = .reply ∧ (isServed s r x).mem = s.mem ∧
    q.results = r.lanes.map (fun a => { lane := a.lane, p7 := none, value := bytesFrom (copiedWord s r) (x.at a.va) r.size }) := by
  rw [isServed, if_neg (by simp [load])]
  exact ⟨_, mem_moveReq _ _, rfl, rfl, rfl, rfl⟩

/-- A store of one lane is answered, its bytes are dirty in the copies, and no other byte there changes. -/
theorem isServed_store (store : r.op = .store) (lane : r.lanes = [a]) : ∃ q, q ∈ (isServed s r x).reqs ∧ q.id = r.id ∧ q.stage = .reply ∧ (isServed s r x).mem = s.mem ∧
    ∀ k y, remoteWord s r (k / 4) = some y → ∃ z, remoteWord (isServed s r x) r (k / 4) = some z ∧
      (x.at a.va ≤ k → k < x.at a.va + r.size → z.dirty = true ∧ z.data.extractLsb' (8 * (k % 4)) 8 = BitVec.ofNat 8 (a.data / 2 ^ (8 * (k - x.at a.va)))) ∧
      (k < x.at a.va ∨ x.at a.va + r.size ≤ k → z.data.extractLsb' (8 * (k % 4)) 8 = y.data.extractLsb' (8 * (k % 4)) 8) := by
  rw [isServed, if_pos store, lane, List.foldl_cons, List.foldl_nil]
  refine ⟨_, mem_moveReq _ _, rfl, rfl, rfl, fun k y found => ?_⟩
  have byte := storedWord_byte (x := x) (a := a) found
  refine ⟨storedWord r x a y, ?_, fun above below => ⟨?_, ?_⟩, fun other => ?_⟩
  · exact (remoteWord_writeCopy (acceptLanes s r) (enRoute s r x) x a (k / 4)).trans (congrArg (Option.map _) found)
  · rw [storedWord, if_pos (storeMeets_of_byte found ⟨above, below⟩)]
  · rw [byte, if_pos ⟨above, below⟩]
  · rw [byte, if_neg (by omega)]

end Sys2Proof.Machine
end

section
/-! A request that faults at its entry slice stops its group, which keeps its registers and the word in flight with what is to be reported (16 R399); what goes back with the request takes nothing of
that away (04 R93; 15 R368, R393). -/

namespace Sys2Proof.Machine

variable {s t : State} {g h : Group} {x y : Flight} {r : Req} {gid : Nat}

/-! ### Groups after a change of one -/

theorem findGroup_gid {n : Nat} (found : findGroup s n = some g) : g.gid = n := by
  simpa using List.find?_some found

theorem findGroup_modGroup (s : State) (k : Nat) {f : Group → Group} (hf : ∀ g, (f g).gid = g.gid) (n : Nat) :
    findGroup (modGroup s k f) n = (findGroup s n).map (fun g => if g.gid == k then f g else g) := by
  unfold findGroup modGroup
  rw [List.find?_map]
  congr 2
  funext g
  dsimp only [Function.comp]
  split
  · rw [hf]
  · rfl

theorem findGroup_modGroup_same {f : Group → Group} (hf : ∀ g, (f g).gid = g.gid) (found : findGroup s gid = some g) : findGroup (modGroup s gid f) gid = some (f g) := by
  rw [findGroup_modGroup s gid hf, found, Option.map_some, if_pos (by simpa using findGroup_gid found)]

/-! ### A stopped group with a faulted word in flight -/

/-- A group that stops with a trap as g stood, with a word y in flight that belongs to no bonded run and shares its number with no other. -/
structure Struck (g : Group) (y : Flight) (h : Group) : Prop where
  status : h.status = .stopping .trap
  v : h.v = g.v
  s : h.s = g.s
  flying : y ∈ h.flights
  distinct : (h.flights.map Flight.id).Nodup
  unbonded : y.runId = 0

theorem dropFlights_flights (ids : List Nat) (g : Group) : (ids.foldl Group.dropFlight g).flights = g.flights.filter (fun x => !ids.contains x.id) := by
  induction ids generalizing g with
  | nil => simp
  | cons i ids ih =>
    rw [List.foldl_cons, ih, Group.dropFlight, List.filter_filter]
    refine List.filter_congr fun x _ => ?_
    rw [List.contains_cons, Bool.not_or, Bool.and_comm]
    rfl

theorem dropFlights_rest (ids : List Nat) (g : Group) : (ids.foldl Group.dropFlight g).gid = g.gid ∧ (ids.foldl Group.dropFlight g).status = g.status ∧
    (ids.foldl Group.dropFlight g).v = g.v ∧ (ids.foldl Group.dropFlight g).s = g.s :=
  List.foldlRecOn (motive := fun h : Group => h.gid = g.gid ∧ h.status = g.status ∧ h.v = g.v ∧ h.s = g.s) ids _ ⟨rfl, rfl, rfl, rfl⟩ fun _ h _ _ => h

/-- What a discarded run leaves of its group. -/
def withoutRun (runId : Nat) (head : DWord) (g : Group) : Group :=
  let g1 := ((g.flights.filter (fun y => y.runId == runId)).map Flight.id).foldl Group.dropFlight g
  { g1 with frags := g1.frags.map (fun f => if f.runId == runId then { f with pc := head, run := 0, runId := 0, chain := false, bonded := false, latches := noLatches, wait := .no } else f) }

/-- A word of no run stays in flight when a run is discarded. -/
theorem Struck.withoutRun {runId : Nat} (struck : Struck g y h) (bonded : runId ≠ 0) (head : DWord) : Struck g y (withoutRun runId head h) := by
  obtain ⟨status, lanes, scalars, flying, distinct, unbonded⟩ := struck
  obtain ⟨-, status', lanes', scalars'⟩ := dropFlights_rest ((h.flights.filter (fun y => y.runId == runId)).map Flight.id) h
  have flights : (Machine.withoutRun runId head h).flights = h.flights.filter (fun x => !((h.flights.filter (fun y => y.runId == runId)).map Flight.id).contains x.id) := dropFlights_flights _ h
  refine ⟨status'.trans status, lanes'.trans lanes, scalars'.trans scalars, ?_, ?_, unbonded⟩
  · rw [flights]
    refine List.mem_filter.mpr ⟨flying, ?_⟩
    rw [Bool.not_eq_true', Bool.eq_false_iff]
    intro dropped
    obtain ⟨z, taken, same⟩ := List.mem_map.mp (List.contains_iff_mem.mp dropped)
    obtain ⟨hz, run⟩ := List.mem_filter.mp taken
    rw [List.inj_on_of_nodup_map distinct hz flying same, unbonded] at run
    exact bonded (beq_iff_eq.mp run).symm
  · rw [flights]
    exact distinct.sublist (List.filter_sublist.map _)

/-- A state in which the group of a number is struck. -/
def StruckAt (g : Group) (y : Flight) (t : State) : Prop := ∃ h, findGroup t g.gid = some h ∧ Struck g y h

theorem StruckAt.dropRun {runId : Nat} (struck : StruckAt g y t) (gid : Nat) (bonded : runId ≠ 0) (head : DWord) : StruckAt g y (dropRun t gid runId head) := by
  obtain ⟨h, found, stands⟩ := struck
  have kept : ∀ g, (withoutRun runId head g).gid = g.gid := fun g => (dropFlights_rest _ g).1
  refine ⟨if h.gid == gid then withoutRun runId head h else h, ?_, ?_⟩
  · refine (findGroup_modGroup { t with reqs := t.reqs.filter (fun q => !inRun t gid runId q) } gid kept g.gid).trans ?_
    exact congrArg (Option.map _) found
  · split
    · exact stands.withoutRun bonded head
    · exact stands

/-- One request taken back, alone or with its run. -/
def takeOne (s : State) (r : Req) : State :=
  match flightOf s r with
  | some x => if x.runId = 0 then dropReq s r.id else dropRun s r.gid x.runId x.head
  | none => dropReq s r.id

theorem takeBack_eq (s : State) (ws : List Req) : takeBack s ws = (followers s s.reqs.length ws).foldl takeOne s := rfl

theorem StruckAt.takeOne (struck : StruckAt g y t) (r : Req) : StruckAt g y (takeOne t r) := by
  unfold Machine.takeOne
  split
  · split
    · exact struck
    next bonded => exact struck.dropRun _ bonded _
  · exact struck

theorem takeOne_reqs (s : State) (r : Req) : ∀ q, q ∈ (takeOne s r).reqs → q ∈ s.reqs := by
  unfold takeOne
  intro q hq
  split at hq
  · split at hq <;> exact (List.mem_filter.mp hq).1
  · exact (List.mem_filter.mp hq).1

theorem StruckAt.takeBack (struck : StruckAt g y t) (ws : List Req) : StruckAt g y (takeBack t ws) := by
  rw [takeBack_eq]
  exact List.foldlRecOn (motive := StruckAt g y) _ _ struck fun _ h r _ => h.takeOne r

theorem takeBack_reqs (s : State) (ws : List Req) : ∀ q, q ∈ (takeBack s ws).reqs → q ∈ s.reqs := by
  rw [takeBack_eq]
  exact List.foldlRecOn (motive := fun t : State => ∀ q, q ∈ t.reqs → q ∈ s.reqs) _ _ (fun _ => id) fun t h r _ q hq => h q (takeOne_reqs t r q hq)

/-! ### The fault -/

/-- A word in flight with the lanes of a request that has faulted. -/
def withFault (r : Req) (cause detail : BitVec 8) (y : Flight) : Flight :=
  { y with unacc := y.unacc ||| r.mask, faulted := y.faulted ++ r.lanes.map (fun a => (a.lane, cause, detail, a.va)) }

/-- The group of such a request. -/
def withFaulted (r : Req) (id : Nat) (cause detail : BitVec 8) (g : Group) : Group := { g with flights := g.flights.map (fun x => if x.id == id then withFault r cause detail x else x) }

theorem bondedFrags_of_none (none : ∀ f, f ∈ g.frags → f.bonded = false) : bondedFrags g = [] := by
  unfold bondedFrags
  rw [List.filterMap_eq_nil_iff]
  intro i _
  cases here : g.frags[i]? with
  | none => rfl
  | some f => simp [none f (List.mem_of_getElem? here)]

theorem mem_of_flightOf (group : findGroup s r.gid = some g) (flight : flightOf s r = some x) : x ∈ g.flights := by
  rw [flightOf, group] at flight
  exact List.mem_of_find?_eq_some flight

/-- A fault of a word outside bonded runs, in a group none of whose fragments issues one. -/
theorem faultReq_unbonded (group : findGroup s r.gid = some g) (flight : flightOf s r = some x) (alone : x.runId = 0) (none : ∀ f, f ∈ g.frags → f.bonded = false) (cause detail : BitVec 8) :
    ∃ ws, faultReq s r cause detail = takeBack (modGroup (modGroup (dropReq s r.id) r.gid (withFaulted r x.id cause detail)) r.gid faultStop) ws := by
  have quiet : abandonRuns s g x.runId = s := by rw [abandonRuns, bondedFrags_of_none none]; rfl
  unfold faultReq
  simp only [group, flight]
  rw [if_neg (not_not_intro alone), quiet]
  exact ⟨_, rfl⟩

theorem faultStop_gid (g : Group) : (faultStop g).gid = g.gid := by
  unfold faultStop
  split <;> rfl

/-- The group stops, and its word is to be reported. -/
theorem struckAt_faultReq (group : findGroup s r.gid = some g) (running : g.status = .running) (flight : flightOf s r = some x) (alone : x.runId = 0)
    (none : ∀ f, f ∈ g.frags → f.bonded = false) (distinct : (g.flights.map Flight.id).Nodup) (cause detail : BitVec 8) :
    StruckAt g (withFault r cause detail x) (faultReq s r cause detail) := by
  obtain ⟨ws, faulted⟩ := faultReq_unbonded group flight alone none cause detail
  rw [faulted]
  refine StruckAt.takeBack ⟨faultStop (withFaulted r x.id cause detail g), ?_, ?_⟩ ws
  · rw [findGroup_gid group]
    exact findGroup_modGroup_same faultStop_gid (findGroup_modGroup_same (s := dropReq s r.id) (fun _ => rfl) group)
  · have stops : faultStop (withFaulted r x.id cause detail g) = { withFaulted r x.id cause detail g with status := .stopping .trap, trapc := 0#64 } := by
      simp [faultStop, withFaulted, running]
    rw [stops]
    refine ⟨rfl, rfl, rfl, List.mem_map.mpr ⟨x, mem_of_flightOf group flight, by simp⟩, ?_, alone⟩
    have ids : (withFaulted r x.id cause detail g).flights.map Flight.id = g.flights.map Flight.id := by
      simp only [withFaulted, List.map_map]
      refine List.map_congr_left fun z _ => ?_
      dsimp only [Function.comp]
      split <;> rfl
    exact ids.symm ▸ distinct

/-- The request is gone. -/
theorem findReq_faultReq (group : findGroup s r.gid = some g) (flight : flightOf s r = some x) (alone : x.runId = 0) (none : ∀ f, f ∈ g.frags → f.bonded = false) (cause detail : BitVec 8) :
    findReq (faultReq s r cause detail) r.id = Option.none := by
  obtain ⟨ws, faulted⟩ := faultReq_unbonded group flight alone none cause detail
  rw [faulted, findReq, List.find?_eq_none]
  intro q hq
  have stays := (List.mem_filter.mp (takeBack_reqs _ ws q hq)).2
  simpa using stays

/-- A fault at the entry slice waits for no run when none issues. -/
theorem atEntry_error {req : Nat} {f : XFault} (enters : Enters s req r g x) (none : ∀ f, f ∈ g.frags → f.bonded = false) (fault : translateReq s r = .error f) :
    atEntry s r = faultReq s r f.cause f.detail := by
  obtain ⟨-, -, -, untranslated, -, group, -, flight, unbonded, access⟩ := enters
  have noWait : faultWaits s r.gid 0 = false := by simp [faultWaits, group, bondedFrags_of_none none]
  simp [atEntry, untranslated, fault, flight, unbonded, access, noWait]

end Sys2Proof.Machine
end

section
/-! Requests on their way home, put together (02 R43; 11 R256-R258, R269; 12 R285, R291-R295, R312; 15 R368; 16 R399). -/

namespace Sys2Proof.Machine

variable {s : State} {r : Req} {g : Group} {y : Flight} {x : Xl} {req : Nat}

/-- An accepted request whose way on is known takes it. -/
theorem exec_sliceRequest_translated {u : State} (h : Enters s req r g y) (translated : translateReq s r = .ok (x, u)) :
    exec (.sliceRequest req) s = .next (forward u r x) ∧ u = { s with stc := u.stc } := by
  rw [exec_sliceRequest_enters h, atEntry_ok h translated]
  exact ⟨rfl, translateReq_rest translated⟩

/-- The faulted request is gone, and its group stops with what is to be reported, as it stood. -/
theorem exec_sliceRequest_faults {f : XFault} (h : Enters s req r g y) (none : ∀ k, k ∈ g.frags → k.bonded = false) (distinct : (g.flights.map Flight.id).Nodup) (fault : translateReq s r = .error f) :
    ∃ t k, exec (.sliceRequest req) s = .next t ∧ findReq t req = Option.none ∧ findGroup t r.gid = some k ∧ k.status = .stopping .trap ∧ k.v = g.v ∧ k.s = g.s ∧ t.mem = s.mem ∧
      ∃ z, z ∈ k.flights ∧ z.id = y.id ∧ ∀ a, a ∈ r.lanes → (a.lane, f.cause, f.detail, a.va) ∈ z.faulted := by
  obtain ⟨k, stopped, status, v, regs, flying, -, -⟩ := struckAt_faultReq h.group h.running h.flight h.unbonded none distinct f.cause f.detail
  have gone := findReq_faultReq h.group h.flight h.unbonded none f.cause f.detail
  have mem : (faultReq s r f.cause f.detail).mem = s.mem := by rw [trafficOnly_faultReq s r f.cause f.detail]
  refine ⟨_, k, exec_sliceRequest_enters h, ?_⟩
  rw [atEntry_error h none fault]
  rw [findReq_id h.found] at gone
  rw [findGroup_gid h.group] at stopped
  exact ⟨gone, stopped, status, v, regs, mem, _, flying, rfl, fun a ha => List.mem_append_right _ (List.mem_map.mpr ⟨a, ha, rfl⟩)⟩

/-- What a turn changes is neither a group, nor a request, nor memory. -/
theorem resendTurn_rest (s : State) (req : Nat) (r : Req) :
    (resendTurn s req r).2.reqs = s.reqs ∧ (resendTurn s req r).2.groups = s.groups ∧ (resendTurn s req r).2.mem = s.mem := by
  unfold resendTurn
  split
  · rw [takeTurn_rest]
    exact ⟨rfl, rfl, rfl⟩
  · exact ⟨rfl, rfl, rfl⟩

/-- A turn that comes takes no number. -/
theorem resendTurn_comes (turn : isCluster r.site = false ∨ (takeTurn s r.vd r.die (.resend req) 1).1 = true) : (resendTurn s req r).1 = true ∧ (resendTurn s req r).2.nextId = s.nextId := by
  unfold resendTurn
  cases cluster : isCluster r.site with
  | false => exact ⟨rfl, rfl⟩
  | true =>
    have taken := turn.resolve_left (by simp [cluster])
    exact ⟨taken, takeTurn_nextId taken⟩

/-- Settles O43: each stage of a request's way has its equation above; what its slice's copies keep and what a fault leaves are lemmas of their own. -/
theorem requestsReachTheirHome : Obligations.RequestsReachTheirHome := by
  unfold Obligations.RequestsReachTheirHome
  refine ⟨fun vd die s v i => exec_tokenRefill, fun vd die s r core => ⟨_, exec_egressRelease_core core, mem_moveReq _ _, rfl⟩, fun vd die s r noCore oldest => ?cluster,
    fun req s r found stage first known => ⟨fun wrong => ?refused, fun right busy => ?held, fun g x right free untranslated unblocked group running flight unbonded access => ?entered⟩,
    fun req s r found stage => ⟨fun new => exec_remapResend_core found stage, fun x sent moved firstInTurn => ?resent, fun x => exec_remapResend_overtaken found stage⟩⟩
  case cluster =>
    have released := exec_egressRelease_cluster noCore oldest
    refine ⟨fun ready youngest => ?_, fun waits => ?_⟩
    · rw [if_pos (by simp [ready, youngest])] at released
      exact ⟨_, released, mem_moveReq _ _, tokensOf_takeToken s vd die, rfl, rfl⟩
    · rwa [if_neg (by rcases waits with empty | older <;> simp [*])] at released
  case refused => exact ⟨_, exec_sliceRequest_refused ⟨found, stage, first, known⟩ wrong, mem_moveReq _ _, rfl⟩
  case held => exact ⟨_, exec_sliceRequest_waits ⟨found, stage, first, known⟩ right busy, mem_putReq (findReq_id found ▸ found), rfl⟩
  case entered =>
    have enters : Enters s req r g x := ⟨⟨found, stage, first, known⟩, right, free, untranslated, unblocked, group, running, flight, unbonded, access⟩
    refine ⟨?accepted, fun f => exec_sliceRequest_faults enters⟩
    rintro ⟨xl, u⟩ translated
    obtain ⟨run, rest⟩ := exec_sliceRequest_translated enters translated
    generalize u.stc = cache at rest
    subst rest
    refine ⟨fun straight => ?_, fun far bypass => ?_, fun far direct held load narrow => ?_, fun a far direct held store narrow lane => ?_⟩
    · have sent := forward_home (s := { s with stc := cache }) (straight.imp_left copiesOf_eq_false_iff.mpr)
      exact ⟨_, run.trans (congrArg _ sent), mem_moveReq _ _, rfl⟩
    · have past := forward_past { s with stc := cache } (copiesOf_iff.mpr far) bypass
      exact ⟨_, run.trans (congrArg _ past), mem_moveReq _ _, fun q copy vd die slice span => goesPast_clean copy vd die slice span⟩
    · obtain ⟨q, mem, id, stage, kept, results⟩ := isServed_load (s := { s with stc := cache }) (x := xl) load
      exact ⟨_, q, run.trans (congrArg _ (forward_served (copiesOf_iff.mpr far) direct held narrow)), mem, id, stage, kept, results⟩
    · obtain ⟨q, mem, id, stage, kept, words⟩ := isServed_store (s := { s with stc := cache }) (x := xl) store lane
      exact ⟨_, q, run.trans (congrArg _ (forward_served (copiesOf_iff.mpr far) direct held narrow)), mem, id, stage, kept, words⟩
  case resent =>
    obtain ⟨reqs, groups, mem⟩ := resendTurn_rest s req r
    have run := exec_remapResend_home found stage sent moved firstInTurn
    refine ⟨fun turn => ?_, fun cluster late => ?_⟩
    · obtain ⟨comes, number⟩ := resendTurn_comes turn
      rw [if_pos comes] at run
      exact ⟨_, _, run, List.mem_append_right _ (List.mem_singleton_self _), mem, groups, by rw [number]⟩
    · have waits : (resendTurn s req r).1 = false := by rw [resendTurn, if_pos cluster, late]
      rw [if_neg (by simp [waits])] at run
      exact ⟨_, run, reqs, groups, mem⟩

end Sys2Proof.Machine
end

section
/-! What package reset leaves (00 R6; 14 R359; 17 R431). -/

namespace Sys2Proof.Machine

/-- Settles O60: every clause reads a list of the reset state. -/
theorem resetHoldsTheInvariants : Obligations.ResetHoldsTheInvariants := by
  have off : ∀ (f : Nat) (x : FieldSt), State.reset.fields[f]? = some x → x.svc = 0 ∧ x.imeas = 0#16 ∧ x.recal = false := by
    intro f x here
    obtain ⟨-, rfl⟩ := List.mem_replicate.mp (List.mem_of_getElem? here)
    exact ⟨rfl, rfl, rfl⟩
  have noGrants : ∀ a, a ∈ State.reset.surges → a.grants ≤ 8 := by
    intro a here
    obtain ⟨-, rfl⟩ := List.mem_replicate.mp here
    exact Nat.zero_le 8
  exact ⟨rfl, noGrants, rfl, rfl, rfl, off, rfl, fun _ _ => rfl⟩

end Sys2Proof.Machine
end

section
/-! Work stealing: the probe of an idle dispatcher, the answer of the victim, what the thief makes of it (03 R64-R66). -/

namespace Sys2Proof.Machine

variable {s : State} {v : Vd} {i : Inst} {r : Range} {x : Steal} {vd vdie d id lo hi : Nat} {n : Nat × Nat}

/-! ### Instances and their ranges -/

theorem inst_vdie (found : v.inst d = some i) : i.vdie = d := by
  simpa using List.find?_some found

/-- What is found on a virtual die after instances have been changed. -/
theorem inst_map {g : Inst → Inst} (hg : ∀ i, (g i).vdie = i.vdie) (d : Nat) : ({ v with insts := v.insts.map g } : Vd).inst d = (v.inst d).map g := by
  have same : ((fun i : Inst => i.vdie == d) ∘ g) = fun i => i.vdie == d := funext fun i => by rw [Function.comp_apply, hg]
  unfold Vd.inst
  rw [List.find?_map, same]

/-- Changing the instance on a virtual die changes what is found there. -/
theorem inst_modInst_same {f : Inst → Inst} (hf : ∀ i, (f i).vdie = i.vdie) (found : v.inst d = some i) : (v.modInst d f).inst d = some (f i) := by
  have changed := inst_map (v := v) (g := fun i => if i.vdie == d then f i else i) (fun i => by split <;> simp [hf]) d
  rwa [found, Option.map_some, if_pos (by simpa using inst_vdie found)] at changed

/-- An instance whose ranges of a node have been changed. -/
def Inst.modNode (i : Inst) (n : Nat × Nat) (f : Range → Range) : Inst :=
  { i with ranges := i.ranges.map (fun r => if r.launch == n.1 && r.node == n.2 then f r else r) }

theorem findVd_modRanges {f : Range → Range} (found : findVd s vd = some v) : findVd (modRanges s vd d n f) vd = some (v.modInst d (fun i => i.modNode n f)) :=
  findVd_modVd_same (fun _ h => h) found

theorem inst_modNode {f : Range → Range} (found : v.inst d = some i) : (v.modInst d (fun i => i.modNode n f)).inst d = some (i.modNode n f) :=
  inst_modInst_same (fun _ => rfl) found

theorem mem_rangesOf : r ∈ rangesOf i n ↔ r ∈ i.ranges ∧ r.launch = n.1 ∧ r.node = n.2 := by
  simp [rangesOf]

/-- A range of the node is changed. -/
theorem mem_modNode {f : Range → Range} (held : r ∈ rangesOf i n) : f r ∈ (i.modNode n f).ranges := by
  obtain ⟨mem, launch, node⟩ := mem_rangesOf.mp held
  exact List.mem_map.mpr ⟨r, mem, if_pos (by simp [launch, node])⟩

/-- Each range of the node has been changed from one of the node. -/
theorem exists_of_mem_modNode {f : Range → Range} {q : Range} (held : q ∈ rangesOf (i.modNode n f) n) : ∃ r, r ∈ rangesOf i n ∧ q = f r := by
  obtain ⟨mem, launch, node⟩ := mem_rangesOf.mp held
  obtain ⟨r, had, rfl⟩ := List.mem_map.mp mem
  by_cases here : r.launch = n.1 ∧ r.node = n.2
  · exact ⟨r, mem_rangesOf.mpr ⟨had, here⟩, if_pos (by simp [here])⟩
  · have other : ¬ (r.launch == n.1 && r.node == n.2) = true := by simpa using here
    rw [if_neg other] at launch node
    exact absurd ⟨launch, node⟩ here

/-! ### The probe -/

/-- A turn takes tokens of a virtual device; its steals stay. -/
theorem takeTurn_steals {die k : Nat} {who : Taker} (found : findVd s vd = some v) : ∃ w, findVd (takeTurn s vd die who k).2 vd = some w ∧ w.steals = v.steals := by
  unfold takeTurn
  split
  · exact ⟨v, found, rfl⟩
  extract_lets need mine age
  split
  · exact ⟨v, found, rfl⟩
  split
  · exact ⟨_, findVd_modVd_same (fun _ h => h) found, rfl⟩
  · unfold keepPlace
    split <;> exact ⟨v, found, rfl⟩

theorem takeTurn_frame (s : State) (vd die : Nat) (who : Taker) (k : Nat) : (takeTurn s vd die who k).2.groups = s.groups ∧ (takeTurn s vd die who k).2.mem = s.mem := by
  rw [takeTurn_rest]
  exact ⟨rfl, rfl⟩

/-- The probe that an idle dispatcher sends for the node of a range. -/
def probeOf (s : State) (vd vdie d : Nat) (r : Range) : Steal :=
  { id := s.nextId, vd := vd, launch := r.launch, node := r.node, thief := vdie, victim := d, answer := none }

/-- The state after a dispatcher has sent its probe: its ranges of the node wait for the answer. -/
def sendProbe (s : State) (vd vdie d : Nat) (r : Range) : State :=
  { modVd (modRanges s vd vdie (r.launch, r.node) (fun q => { q with probing := true })) vd (fun v => { v with steals := v.steals ++ [probeOf s vd vdie d r] }) with
    nextId := s.nextId + 1 }

theorem exec_stealRequest (found : findVd s vd = some v) (inst : v.inst vdie = some i) (may : mayPlace s v i = true) (noProbe : ∀ q, q ∈ i.ranges → q.probing = false)
    (first : leastBy (fun (r : Range) => nodeRank v (r.launch, r.node)) (idleNodes s v i) = some r) (victim : nextVictim v i r = some d) :
    exec (.stealRequest vd vdie) s = .next (if (takeTurn s vd i.pdie (.steal vdie) 1).1 then sendProbe (takeTurn s vd i.pdie (.steal vdie) 1).2 vd vdie d r
      else (takeTurn s vd i.pdie (.steal vdie) 1).2) := by
  change execStealRequest vd vdie s = _
  have quiet : i.ranges.any (fun r => r.probing) = false := by simpa using noProbe
  unfold execStealRequest
  simp only [found, inst, may, quiet, first, victim, Option.bind_some, Option.map_some]
  cases (takeTurn s vd i.pdie (.steal vdie) 1).1 <;> rfl

theorem findVd_sendProbe (found : findVd s vd = some v) : ∃ w, findVd (sendProbe s vd vdie d r) vd = some w ∧ w.steals = v.steals ++ [probeOf s vd vdie d r] :=
  ⟨_, findVd_modVd_same (fun _ h => h) (findVd_modRanges found), rfl⟩

/-! ### The victim -/

/-- The lower part of a range that a victim keeps when it gives its highest half away; a range of another start stays as it is (R65). -/
def keepLower (r q : Range) : Range := if q.lo == r.lo then { q with hi := q.hi - (r.hi - r.lo) / 2 } else q

theorem keepLower_self (r : Range) : keepLower r r = { r with hi := r.hi - (r.hi - r.lo) / 2 } := if_pos (beq_self_eq_true r.lo)

theorem exec_stealHandled_gives (out : findSteal s id = some x) (new : x.answer = none) (found : findVd s x.vd = some v) (inst : v.inst x.victim = some i) (live : i.failed = false)
    (only : rangesOf i (x.launch, x.node) = [r]) (two : 2 ≤ r.hi - r.lo) :
    exec (.stealHandled id) s = .next (answerSteal (modRanges s x.vd x.victim (x.launch, x.node) (keepLower r)) x (r.hi - (r.hi - r.lo) / 2, r.hi)) := by
  change execStealHandled id s = _
  have enough : (if i.failed then [] else rangesOf i (x.launch, x.node)).filter (fun r => decide (2 ≤ r.hi - r.lo)) = [r] := by simp [live, only, two]
  unfold execStealHandled
  simp only [out, new, found, inst, enough, Option.bind_some, Option.map_some, Option.getD_some]
  rfl

theorem exec_stealHandled_refuses (out : findSteal s id = some x) (new : x.answer = none) (found : findVd s x.vd = some v) (inst : v.inst x.victim = some i)
    (few : i.failed = true ∨ ∀ r, r ∈ i.ranges → r.launch = x.launch → r.node = x.node → r.hi - r.lo < 2) : exec (.stealHandled id) s = .next (answerSteal s x (0, 0)) := by
  change execStealHandled id s = _
  have noneToGive : (if i.failed then [] else rangesOf i (x.launch, x.node)).filter (fun r => decide (2 ≤ r.hi - r.lo)) = [] := by
    split
    · rfl
    next live =>
      have small := few.resolve_left live
      refine List.filter_eq_nil_iff.mpr fun r held => ?_
      obtain ⟨mem, launch, node⟩ := mem_rangesOf.mp held
      have := small r mem launch node
      simpa using this
  unfold execStealHandled
  simp only [out, new, found, inst, Option.bind_some, Option.map_some, Option.getD_some, noneToGive]
  rfl

/-- The answer is put in the steal. -/
theorem findVd_answerSteal {a : Nat × Nat} (found : findVd s x.vd = some v) (sent : x ∈ v.steals) :
    ∃ w, findVd (answerSteal s x a) x.vd = some w ∧ { x with answer := some a } ∈ w.steals ∧ w.insts = v.insts :=
  ⟨_, findVd_modVd_same (fun _ h => h) found, List.mem_map.mpr ⟨x, sent, if_pos (by simp)⟩, rfl⟩

/-! ### The thief -/

/-- A virtual device without a steal. -/
def Vd.dropSteal (v : Vd) (id : Nat) : Vd := { v with steals := v.steals.filter (fun y => y.id != id) }

/-- The state without a steal that has been answered. -/
def endSteal (s : State) (x : Steal) (id : Nat) : State := modVd s x.vd (fun v => v.dropSteal id)

theorem findVd_endSteal (found : findVd s x.vd = some v) : findVd (endSteal s x id) x.vd = some (v.dropSteal id) := findVd_modVd_same (fun _ h => h) found

theorem not_mem_dropSteal {y : Steal} (kept : y ∈ (v.dropSteal id).steals) : y.id ≠ id := by
  simpa using (List.mem_filter.mp kept).2

/-- The state after the thief has taken a range: it is its own, and it may probe anew. -/
def takeRange (s : State) (x : Steal) (lo hi : Nat) : State :=
  modRanges (modVd s x.vd (fun v => v.modInst x.thief (fun i => giveRange i x.launch x.node lo hi))) x.vd x.thief (x.launch, x.node) (fun q => { q with refused := [], probing := false })

/-- The state after the thief has marked the victim as having refused. -/
def markRefused (s : State) (x : Steal) : State :=
  modRanges s x.vd x.thief (x.launch, x.node) (fun q => { q with probing := false, refused := q.refused ++ [x.victim] })

/-- The state after a dispatcher has given up stealing for a node. -/
def stopStealing (s : State) (x : Steal) : State := modRanges s x.vd x.thief (x.launch, x.node) (fun q => { q with stopped := true })

theorem exec_stealReply_taken (out : findSteal s id = some x) (answer : x.answer = some (lo, hi)) (found : findVd s x.vd = some v) (inst : v.inst x.thief = some i) (given : lo < hi)
    (live : i.failed = false) : exec (.stealReply id) s = .next (takeRange (endSteal s x id) x lo hi) := by
  change execStealReply id s = _
  have there : (v.dropSteal id).inst x.thief = some i := inst
  have now : findVd (modVd s x.vd (fun v => { v with steals := v.steals.filter (fun y => y.id != id) })) x.vd = some (v.dropSteal id) := findVd_endSteal found
  unfold execStealReply
  simp only [out, answer, now, there, live, Option.bind_some, Option.map_some, if_pos given]
  rfl

theorem exec_stealReply_refused (out : findSteal s id = some x) (answer : x.answer = some (lo, hi)) (found : findVd s x.vd = some v) (inst : v.inst x.thief = some i) (nothing : hi ≤ lo) :
    exec (.stealReply id) s = .next (markRefused (endSteal s x id) x) ∨ exec (.stealReply id) s = .next (stopStealing (markRefused (endSteal s x id) x) x) := by
  change execStealReply id s = _ ∨ execStealReply id s = _
  have there : (v.dropSteal id).inst x.thief = some i := inst
  have now : findVd (modVd s x.vd (fun v => { v with steals := v.steals.filter (fun y => y.id != id) })) x.vd = some (v.dropSteal id) := findVd_endSteal found
  unfold execStealReply
  simp only [out, answer, now, there, Option.bind_some, Option.map_some, if_neg (Nat.not_lt.mpr nothing)]
  split
  · split
    · exact .inr rfl
    · exact .inl rfl
  · exact .inl rfl

/-- The thief's range is the one that it was given, and it may probe anew. -/
theorem takeRange_spec (found : findVd s x.vd = some v) (inst : v.inst x.thief = some i) :
    ∃ w j, findVd (takeRange s x lo hi) x.vd = some w ∧ w.steals = v.steals ∧ w.inst x.thief = some j ∧
      ∃ q, q ∈ j.ranges ∧ q = { launch := x.launch, node := x.node, lo := lo, hi := hi, refused := [], stopped := q.stopped, probing := false, held := none } := by
  have given : findVd (modVd s x.vd (fun v => v.modInst x.thief (fun i => giveRange i x.launch x.node lo hi))) x.vd = some (v.modInst x.thief (fun i => giveRange i x.launch x.node lo hi)) :=
    findVd_modVd_same (fun _ h => h) found
  refine ⟨_, _, findVd_modRanges given, rfl, inst_modNode (inst_modInst_same (fun _ => rfl) inst), ?_⟩
  refine ⟨_, mem_modNode (mem_rangesOf.mpr ⟨List.mem_append_right _ (List.mem_singleton_self _), rfl, rfl⟩), rfl⟩

/-- A range whose dispatcher has no probe out and knows that a victim has refused. -/
def KnowsRefusal (x : Steal) (q : Range) : Prop := q.probing = false ∧ x.victim ∈ q.refused

/-- The thief has marked the victim, and whether it stops or not it holds the mark. -/
theorem markRefused_spec (found : findVd s x.vd = some v) (inst : v.inst x.thief = some i) :
    ∃ w j, findVd (markRefused s x) x.vd = some w ∧ w.steals = v.steals ∧ w.inst x.thief = some j ∧ ∀ q, q ∈ rangesOf j (x.launch, x.node) → KnowsRefusal x q := by
  refine ⟨_, _, findVd_modRanges found, rfl, inst_modNode inst, fun q held => ?_⟩
  obtain ⟨r, -, rfl⟩ := exists_of_mem_modNode held
  exact ⟨rfl, List.mem_append_right _ (List.mem_singleton_self _)⟩

theorem stopStealing_spec (found : findVd s x.vd = some v) (inst : v.inst x.thief = some i) (knows : ∀ q, q ∈ rangesOf i (x.launch, x.node) → KnowsRefusal x q) :
    ∃ w j, findVd (stopStealing s x) x.vd = some w ∧ w.steals = v.steals ∧ w.inst x.thief = some j ∧ ∀ q, q ∈ rangesOf j (x.launch, x.node) → KnowsRefusal x q := by
  refine ⟨_, _, findVd_modRanges found, rfl, inst_modNode inst, fun q held => ?_⟩
  obtain ⟨r, had, rfl⟩ := exists_of_mem_modNode held
  exact knows r had

/-- Settles O53: each of the three events has its equation above, and each state that one leaves says what became of the ranges and the steal. -/
theorem stealsMoveRanges : Obligations.StealsMoveRanges := by
  unfold Obligations.StealsMoveRanges
  refine ⟨fun vd vdie s v i r d found inst may noProbe first victim => ?request, fun id s x v i out new found sent inst => ⟨fun r live only two => ?gives, fun few => ?refuses⟩,
    fun id s x v i lo hi out answer found inst => ⟨fun given live => ?taken, fun nothing => ?refused⟩⟩
  case request =>
    have run := exec_stealRequest found inst may noProbe first victim
    refine ⟨fun waits => by rw [run, waits]; rfl, fun taken => ?_⟩
    rw [if_pos taken] at run
    obtain ⟨u, there, steals⟩ := takeTurn_steals (die := i.pdie) (k := 1) (who := .steal vdie) found
    obtain ⟨w, probed, out⟩ := findVd_sendProbe (vdie := vdie) (d := d) (r := r) there
    have number := takeTurn_nextId taken
    obtain ⟨groups, mem⟩ := takeTurn_frame s vd i.pdie (.steal vdie) 1
    exact ⟨_, w, run, groups, mem, congrArg (· + 1) number, probed, by rw [out, steals, probeOf, number]⟩
  case gives =>
    have halved := findVd_modRanges (d := x.victim) (n := (x.launch, x.node)) (f := keepLower r) found
    obtain ⟨w, there, answered, insts⟩ := findVd_answerSteal (a := (r.hi - (r.hi - r.lo) / 2, r.hi)) halved sent
    refine ⟨_, w, _, exec_stealHandled_gives out new found inst live only two, rfl, rfl, there, answered, (congrArg (List.find? _) insts).trans (inst_modNode inst), ?_⟩
    exact keepLower_self r ▸ mem_modNode (only ▸ List.mem_singleton_self r)
  case refuses =>
    obtain ⟨w, there, answered, insts⟩ := findVd_answerSteal (a := (0, 0)) found sent
    exact ⟨_, w, exec_stealHandled_refuses out new found inst few, rfl, rfl, there, answered, insts⟩
  case taken =>
    obtain ⟨w, j, there, steals, held, range⟩ := takeRange_spec (lo := lo) (hi := hi) (findVd_endSteal (id := id) found) inst
    exact ⟨_, w, j, exec_stealReply_taken out answer found inst given live, rfl, rfl, there, fun y kept => not_mem_dropSteal (steals ▸ kept), held, range⟩
  case refused =>
    obtain ⟨w, j, there, steals, held, knows⟩ := markRefused_spec (findVd_endSteal (id := id) found) inst
    rcases exec_stealReply_refused out answer found inst nothing with run | run
    · exact ⟨_, w, j, run, rfl, rfl, there, fun y kept => not_mem_dropSteal (steals ▸ kept), held, fun q mem launch node => knows q (mem_rangesOf.mpr ⟨mem, launch, node⟩)⟩
    · obtain ⟨w', j', there', steals', held', knows'⟩ := stopStealing_spec there held knows
      exact ⟨_, w', j', run, rfl, rfl, there', fun y kept => not_mem_dropSteal (steals ▸ steals' ▸ kept), held', fun q mem launch node => knows' q (mem_rangesOf.mpr ⟨mem, launch, node⟩)⟩

end Sys2Proof.Machine
end

section
/-! Placement: what compaction leaves, what a team's placement on a cluster leaves, steering's mark, what a move leaves (03 R58-R62, R67-R74). -/

namespace Sys2Proof.Machine

variable {s t u : State} {v : Vd} {i : Inst} {r : Range} {w : Waiter} {g : Group} {tm : Team} {site : Site} {vd vdie : Nat}

/-! ### What moves of blocks leave -/

/-- What moves of blocks leave: the virtual devices, the next number, and the numbers of the teams and groups. -/
structure MovesOnly (s t : State) : Prop where
  vds : t.vds = s.vds
  nextId : t.nextId = s.nextId
  tids : t.teams.map Team.tid = s.teams.map Team.tid
  gids : t.groups.map Group.gid = s.groups.map Group.gid

theorem MovesOnly.refl (s : State) : MovesOnly s s := ⟨rfl, rfl, rfl, rfl⟩

theorem MovesOnly.trans (h : MovesOnly s t) (k : MovesOnly t u) : MovesOnly s u :=
  ⟨k.vds.trans h.vds, k.nextId.trans h.nextId, k.tids.trans h.tids, k.gids.trans h.gids⟩

theorem gids_setGroup (s : State) (g : Group) : (setGroup s g).groups.map Group.gid = s.groups.map Group.gid := by
  simp only [setGroup, List.map_map]
  refine List.map_congr_left fun h _ => ?_
  by_cases same : h.gid = g.gid <;> simp [same]

theorem tids_setTeam (s : State) (tm : Team) : (setTeam s tm).teams.map Team.tid = s.teams.map Team.tid := by
  simp only [setTeam, List.map_map]
  refine List.map_congr_left fun u _ => ?_
  by_cases same : u.tid = tm.tid <;> simp [same]

/-- A register block that can move moves. -/
theorem moveRegs_eq {reg tile : Nat} (moves : moveRegs s g reg tile = some u) : u = setGroup s { g with regBlk := reg, tileBlk := if g.tiles = 0 then g.tileBlk else tile } := by
  unfold moveRegs at moves
  extract_lets hs ok at moves
  split at moves
  · exact (Option.some.inj moves).symm
  · cases moves

/-- A cluster whose scratchpad bytes from a block on have moved. -/
def shifted (k : Cluster) (tm : Team) (dst : Nat) : Cluster := { k with sram := shiftBytes k.sram tm.block tm.size dst }

/-- A scratchpad block that can move moves, its bytes with it. -/
theorem moveScratch_eq {dst : Nat} (moves : moveScratch s tm dst = some u) : u = setTeam (setCluster s (shifted (clusterOf s tm.site) tm dst)) { tm with block := dst } := by
  unfold moveScratch at moves
  extract_lets k ts inTop ok at moves
  split at moves
  · exact (Option.some.inj moves).symm
  · cases moves

theorem movesOnly_moveBlock {b : Block} {dst : Nat} (moves : moveBlock s site b dst = some u) : MovesOnly s u := by
  unfold moveBlock at moves
  cases b with
  | regs h =>
    obtain ⟨g, -, moved⟩ := Option.bind_eq_some_iff.mp moves
    rw [moveRegs_eq moved]
    exact ⟨rfl, rfl, rfl, gids_setGroup _ _⟩
  | scratch n =>
    obtain ⟨tm, -, moved⟩ := Option.bind_eq_some_iff.mp moves
    split at moved
    · rw [moveScratch_eq moved]
      exact ⟨by simp, by simp, by rw [tids_setTeam]; simp, by simp⟩
    · cases moved

/-- Whatever every move keeps holds of the layouts that one more move leads to. -/
theorem nextLayouts_keeps {P : State → Prop} (keeps : ∀ {s u b dst}, P s → moveBlock s site b dst = some u → P u) {seen : List State} (start : ∀ s, s ∈ seen → P s) :
    ∀ u, u ∈ nextLayouts site seen → P u := by
  refine List.foldlRecOn (motive := fun more : List State => ∀ u, u ∈ more → P u) _ _ (by simp) fun more kept t there => ?_
  obtain ⟨s, known, there⟩ := List.mem_flatMap.mp there
  obtain ⟨m, -, moved⟩ := List.mem_filterMap.mp there
  split
  · exact kept
  · simpa [or_imp, forall_and] using ⟨kept, keeps (start s known) moved⟩

/-- What the search over moves answers is the condition's result for a state that moves lead to. -/
theorem afterMoves_reached {α : Type} {P : State → Prop} (keeps : ∀ {s u b dst}, P s → moveBlock s site b dst = some u → P u) {f : State → Option α} {n k : Nat} {seen : List State}
    {found : Nat × α} (start : ∀ s, s ∈ seen → P s) (answers : afterMoves site f n k seen = some found) : ∃ u, P u ∧ f u = some found.2 := by
  induction n generalizing k seen with
  | zero =>
    obtain ⟨a, first, rfl⟩ := Option.map_eq_some_iff.mp answers
    obtain ⟨u, known, result⟩ := List.exists_of_findSome?_eq_some first
    exact ⟨u, start u known, result⟩
  | succ n ih =>
    unfold afterMoves at answers
    split at answers
    next first =>
      cases answers
      obtain ⟨u, known, result⟩ := List.exists_of_findSome?_eq_some first
      exact ⟨u, start u known, result⟩
    next =>
      split at answers
      · cases answers
      · refine ih (fun u known => ?_) answers
        rcases List.mem_append.mp known with known | new
        · exact start u known
        · exact nextLayouts_keeps keeps start u new

/-- Where a waiting team has been placed, on a cluster of its die, as things stood or after moves. -/
theorem placeMoving_placeAt (placed : placeMoving s v i w = some t) : ∃ u site, MovesOnly s u ∧ site ∈ sitesOf v i ∧ placeAt u v i w site = some t := by
  unfold placeMoving at placed
  rcases Option.or_eq_some_iff.mp placed with lowest | ⟨-, moving⟩
  · obtain ⟨site, own, here⟩ := List.exists_of_findSome?_eq_some lowest
    exact ⟨s, site, .refl s, own, here⟩
  · obtain ⟨site, own, here⟩ := List.exists_of_findSome?_eq_some moving
    obtain ⟨found, search, rfl⟩ := Option.map_eq_some_iff.mp here
    unfold placeWithMoves at search
    split at search
    · obtain ⟨u, moved, fits⟩ := afterMoves_reached (P := MovesOnly s) (fun h moved => h.trans (movesOnly_moveBlock moved)) (by simpa using MovesOnly.refl s) search
      exact ⟨u, site, moved, own, fits⟩
    · cases search

/-! ### What a team's placement leaves -/

/-- The groups that have been seated are those that were to be, each in a seat of the site. -/
theorem mem_seatAll {done l gs : List Group} (seated : seatAll s site done l = some gs) (mem : g ∈ gs) : g ∈ done ∨ ∃ h x, h ∈ l ∧ g = h.sit site x := by
  induction l generalizing done with
  | nil =>
    cases seated
    exact .inl (List.mem_reverse.mp mem)
  | cons h l ih =>
    unfold seatAll at seated
    extract_lets bay hs at seated
    split at seated
    next x _ =>
      rcases ih seated with before | ⟨h', x', there, rfl⟩
      · rcases List.mem_cons.mp before with rfl | before
        · exact .inr ⟨h, x, List.mem_cons_self, rfl⟩
        · exact .inl before
      · exact .inr ⟨h', x', List.mem_cons_of_mem _ there, rfl⟩
    next => cases seated

/-- A new group runs, and is its team's. -/
theorem mem_freshGroups {l : Launch} {n : GNode} {m : Image} (mem : g ∈ freshGroups s v l n m tm) : g.team = tm.tid ∧ g.status = .running := by
  obtain ⟨k, -, rfl⟩ := List.mem_map.mp mem
  simp [freshGroup]

/-- The instance has dispatched the lowest index of a range. -/
def takeIndex (r : Range) (i : Inst) : Inst :=
  { i with ranges := i.ranges.map (fun q => if q.launch == r.launch && q.node == r.node && q.lo == r.lo then { q with lo := q.lo + 1, held := none } else q) }

theorem mem_takeIndex (mem : r ∈ i.ranges) : { r with lo := r.lo + 1, held := none } ∈ (takeIndex r i).ranges :=
  List.mem_map.mpr ⟨r, mem, if_pos (by simp)⟩

/-- The team of the lowest index of a range, as the next number of a state, on a cluster. -/
structure Newcomer (s : State) (v : Vd) (i : Inst) (r : Range) (site : Site) (tm : Team) : Prop where
  tid : tm.tid = s.nextId
  vd : tm.vd = v.num
  vdie : tm.vdie = i.vdie
  launch : tm.launch = r.launch
  node : tm.node = r.node
  lin : tm.lin = r.lo
  status : tm.status = .resident
  site : tm.site = site

/-- The state with a new team and its groups, whose index the range no longer holds. -/
def enrol (s : State) (v : Vd) (i : Inst) (r : Range) (tm : Team) (gs : List Group) (n : Nat) : State :=
  modVd { s with teams := s.teams ++ [tm], groups := s.groups ++ gs, nextId := n } v.num (fun v => v.modInst i.vdie (takeIndex r))

/-- A placement enrols a new team, whose groups run on its cluster, and begins its quantum. -/
theorem placeFresh_enrols (placed : placeFresh s v i r site = some t) : ∃ u tm gs n, t = startQuantum (enrol u v i r tm gs n) s.nextId ∧
    (u.groups = s.groups ∧ u.teams = s.teams ∧ u.vds = s.vds) ∧ Newcomer s v i r site tm ∧ ∀ g, g ∈ gs → g.team = s.nextId ∧ g.status = .running ∧ g.site = site := by
  unfold placeFresh at placed
  split at placed
  · cases placed
  split at placed
  · cases placed
  split at placed
  · cases placed
  split at placed
  · cases placed
  extract_lets tm k s1 s2 at placed
  split at placed
  · cases placed
  next gs seated =>
    obtain ⟨groups, teams, vds, -⟩ := (deviceWrite_rest (List.replicate 1024 0#8) s1 (unitPa v tm.unit0 + imageOffset)).keeps
    refine ⟨s2, tm, gs, s2.nextId + 1 + gs.length, (Option.some.inj placed).symm, ⟨groups.trans (by simp [s1]), teams.trans (by simp [s1]), vds.trans (by simp [s1])⟩,
      ⟨rfl, rfl, rfl, rfl, rfl, rfl, rfl, rfl⟩, fun g mem => ?_⟩
    rcases mem_seatAll seated mem with before | ⟨h, x, fresh, rfl⟩
    · cases before
    · obtain ⟨team, running⟩ := mem_freshGroups fresh
      exact ⟨team, running, rfl⟩

/-- An instance that has less debt. -/
def payDebt (d : Nat) (i : Inst) : Inst := { i with debt := i.debt - d }

/-- What the beginning of a quantum can do: nothing, or it sets the team's quantum and lowers a debt. -/
theorem startQuantum_cases (s : State) (tid : Nat) : startQuantum s tid = s ∨
    ∃ tm q d, findTeam s tid = some tm ∧ startQuantum s tid = modInstAt (setTeam s { tm with quantum := q, grace := 0 }) tm.vd (siteDie tm.site) (payDebt d) := by
  unfold startQuantum
  split
  · exact .inl rfl
  next tm found =>
    extract_lets die
    split
    · exact .inl rfl
    · exact .inr ⟨tm, _, _, found, rfl⟩

theorem startQuantum_groups (s : State) (tid : Nat) : (startQuantum s tid).groups = s.groups := by
  rcases startQuantum_cases s tid with same | ⟨tm, q, d, -, begun⟩
  · rw [same]
  · rw [begun]; rfl

/-- The beginning of a quantum leaves the team but for its quantum. -/
theorem findTeam_startQuantum {tid : Nat} (found : findTeam s tid = some tm) : ∃ q k, findTeam (startQuantum s tid) tid = some { tm with quantum := q, grace := k } := by
  rcases startQuantum_cases s tid with same | ⟨tm', q, d, found', begun⟩
  · exact ⟨tm.quantum, tm.grace, by rw [same, found]⟩
  · obtain rfl : tm = tm' := Option.some.inj (found.symm.trans found')
    obtain rfl : tm.tid = tid := by simpa using List.find?_some found
    exact ⟨q, 0, by rw [begun]; exact findTeam_setTeam_same (t' := { tm with quantum := q, grace := 0 }) found⟩

/-- What is found on a virtual die after the instances on a physical die have been changed. -/
theorem inst_modInstAt {f : Inst → Inst} (hf : ∀ i, (f i).vdie = i.vdie) {n m die d : Nat} (found : findVd s n = some v) (inst : v.inst d = some i) :
    ∃ w j, findVd (modInstAt s m die f) n = some w ∧ w.inst d = some j ∧ (j = i ∨ j = f i) := by
  have now := findVd_modVd s m (f := fun v => { v with insts := v.insts.map (fun i => if i.pdie == die then f i else i) }) (fun _ => rfl) n
  rw [found, Option.map_some] at now
  by_cases mine : v.num = m
  · rw [if_pos (by simpa using mine)] at now
    refine ⟨_, _, now, (inst_map (fun j => ?_) d).trans (congrArg _ inst), ?_⟩
    · split
      · exact hf j
      · rfl
    · dsimp only
      split
      · exact .inr rfl
      · exact .inl rfl
  · rw [if_neg (by simpa using mine)] at now
    exact ⟨v, i, now, inst, .inl rfl⟩

/-- The beginning of a quantum leaves the ranges of every instance. -/
theorem inst_startQuantum {tid n d : Nat} (found : findVd s n = some v) (inst : v.inst d = some i) :
    ∃ w j, findVd (startQuantum s tid) n = some w ∧ w.inst d = some j ∧ j.ranges = i.ranges := by
  rcases startQuantum_cases s tid with same | ⟨tm, q, k, -, begun⟩
  · exact ⟨v, i, by rw [same, found], inst, rfl⟩
  · obtain ⟨w, j, vd, die, unchanged | paid⟩ := inst_modInstAt (s := setTeam s { tm with quantum := q, grace := 0 }) (f := payDebt k) (m := tm.vd) (die := siteDie tm.site) (fun _ => rfl) found inst
    · exact ⟨w, j, begun ▸ vd, die, by rw [unchanged]⟩
    · exact ⟨w, j, begun ▸ vd, die, by rw [paid]; rfl⟩

theorem findTeam_append_new (new : ∀ x, x ∈ s.teams → x.tid ≠ tm.tid) (eq : t.teams = s.teams ++ [tm]) : findTeam t tm.tid = some tm := by
  have noneBefore : s.teams.find? (fun x => x.tid == tm.tid) = none := List.find?_eq_none.mpr fun x mem => by simpa using new x mem
  rw [findTeam, eq, List.find?_append, noneBefore]
  simp

/-- A waiting team that has been placed is resident on its cluster. -/
theorem placeFresh_placed (found : findVd s v.num = some v) (inst : v.inst i.vdie = some i) (held : r ∈ i.ranges) (own : site ∈ sitesOf v i) (newTid : ∀ x, x ∈ s.teams → x.tid < s.nextId)
    (newGid : ∀ g, g ∈ s.groups → g.gid < s.nextId) (placed : placeFresh s v i r site = some t) : Placed s t v i r := by
  obtain ⟨u, tm, gs, n, rfl, ⟨groups, teams, vds⟩, ⟨tid, ofVd, ofDie, ofLaunch, ofNode, lin, status, on⟩, seated⟩ := placeFresh_enrols placed
  have there : findTeam (enrol u v i r tm gs n) s.nextId = some tm :=
    tid ▸ findTeam_append_new (s := s) (fun x mem => tid ▸ (newTid x mem).ne) (congrArg (· ++ [tm]) teams)
  obtain ⟨q, k, team⟩ := findTeam_startQuantum there
  have known : findVd u v.num = some v := by rw [findVd, vds]; exact found
  have now : findVd (enrol u v i r tm gs n) v.num = some (v.modInst i.vdie (takeIndex r)) := findVd_modVd_same (s := { u with teams := _, groups := _, nextId := n }) (fun _ h => h) known
  obtain ⟨w, j, vd, die, ranges⟩ := inst_startQuantum (tid := s.nextId) now (inst_modInst_same (fun _ => rfl) inst)
  refine ⟨_, w, j, team, ofVd, ofDie, ofLaunch, ofNode, lin, status, on ▸ own, fun g mem later => ?_, vd, die, ranges ▸ mem_takeIndex held⟩
  rw [startQuantum_groups] at mem
  rcases List.mem_append.mp mem with old | new
  · exact absurd (newGid g (groups ▸ old)) later.asymm
  · obtain ⟨ofTeam, running, site⟩ := seated g new
    exact ⟨ofTeam, running, site.trans on.symm⟩

/-- Moves leave numbers, so a placement after moves is one into the state before them. -/
theorem placed_of_moves (moved : MovesOnly s u) (placed : Placed u t v i r) : Placed s t v i r := by
  unfold Placed at *
  rwa [moved.nextId] at placed

theorem lt_of_map_eq {α : Type} {f : α → Nat} {l m : List α} {n : Nat} (same : m.map f = l.map f) (below : ∀ x, x ∈ l → f x < n) : ∀ x, x ∈ m → f x < n := by
  intro x mem
  obtain ⟨y, there, eq⟩ := List.mem_map.mp (same ▸ List.mem_map_of_mem (f := f) mem)
  exact eq ▸ below y there

theorem placeMoving_placed (found : findVd s v.num = some v) (inst : v.inst i.vdie = some i) (held : r ∈ i.ranges) (newTid : ∀ x, x ∈ s.teams → x.tid < s.nextId)
    (newGid : ∀ g, g ∈ s.groups → g.gid < s.nextId) (placed : placeMoving s v i (.fresh r) = some t) : Placed s t v i r := by
  obtain ⟨u, site, moved, own, here⟩ := placeMoving_placeAt placed
  have known : findVd u v.num = some v := by rw [findVd, moved.vds]; exact found
  exact placed_of_moves moved (placeFresh_placed known inst held own (moved.nextId ▸ lt_of_map_eq moved.tids newTid) (moved.nextId ▸ lt_of_map_eq moved.gids newGid) here)

/-! ### The dispatcher -/

/-- Of a single waiter that steering does not hold, the try is its placement. -/
theorem tryRanked_single {place : Waiter → Option State} (only : waiters s v i = [w]) (free : heldBySteering s v i w = false) :
    tryRanked s v i place = (place w).map (fun t => { t with freeCtr := t.freeCtr + 1 }) := by
  cases fits : place w <;> simp [tryRanked, only, free, leastBy, fits, Nat.mod_one]

theorem tryRanked_held {place : Waiter → Option State} (only : waiters s v i = [w]) (held : heldBySteering s v i w = true) : tryRanked s v i place = none := by
  simp [tryRanked, only, held, leastBy]

theorem noteHeld_free (only : waiters s v i = [w]) (free : heldBySteering s v i w = false) : noteHeld s v i = s := by
  simp [noteHeld, only, free]

theorem dispatchTry_eq {x : Vd} {j : Inst} (found : findVd s vd = some v) (inst : v.inst vdie = some i) (may : mayPlace s v i = true) (now : findVd (noteHeld s v i) vd = some x)
    (there : x.inst vdie = some j) : dispatchTry s vd vdie = (tryRanked (noteHeld s v i) x j (placeMoving (noteHeld s v i) x j)).getD (noteHeld s v i) := by
  simp [dispatchTry, found, inst, may, now, there]

/-- The try of a dispatcher with a single waiter, which steering does not hold. -/
theorem dispatchTry_free (found : findVd s vd = some v) (inst : v.inst vdie = some i) (may : mayPlace s v i = true) (only : waiters s v i = [w]) (free : heldBySteering s v i w = false) :
    dispatchTry s vd vdie = ((placeMoving s v i w).map (fun t => { t with freeCtr := t.freeCtr + 1 })).getD s := by
  have unmarked := noteHeld_free only free
  have now : findVd (noteHeld s v i) vd = some v := by rw [unmarked, found]
  rw [dispatchTry_eq found inst may now inst, unmarked, tryRanked_single only free]

/-- Both events have the dispatcher try; the compactor serves a resumed group without room first. -/
theorem exec_tries {e : Instr} (found : findVd s vd = some v) (inst : v.inst vdie = some i)
    (event : e = .dispatchTeam vd vdie ∨ (e = .compactorRetry vd vdie ∧ ∀ site, stuckGroups s site = [])) : exec e s = .next (dispatchTry s vd vdie) := by
  rcases event with rfl | ⟨rfl, unstuck⟩
  · rfl
  · change execCompactorRetry vd vdie s = _
    have nobody : (sitesOf v i).findSome? (fun site => (stuckGroups s site).head?.bind (fun g => (roomWithMoves s site g).map Prod.snd)) = none :=
      List.findSome?_eq_none_iff.mpr fun site _ => by rw [unstuck]; rfl
    unfold execCompactorRetry
    simp only [found, inst, Option.bind_some, Option.map_some, nobody]

/-! ### Steering's mark -/

/-- A range marked with the cycle, if it is the one that is held. -/
def markRange (r : Range) (now : Nat) (q : Range) : Range := if q == r then { q with held := some now } else q

/-- The instance with that range marked. -/
def markInst (r : Range) (now : Nat) (i : Inst) : Inst := { i with ranges := i.ranges.map (markRange r now) }

@[simp] theorem markRange_launch (r q : Range) (now : Nat) : (markRange r now q).launch = q.launch := by unfold markRange; split <;> rfl
@[simp] theorem markRange_node (r q : Range) (now : Nat) : (markRange r now q).node = q.node := by unfold markRange; split <;> rfl
@[simp] theorem markRange_lo (r q : Range) (now : Nat) : (markRange r now q).lo = q.lo := by unfold markRange; split <;> rfl
@[simp] theorem markRange_hi (r q : Range) (now : Nat) : (markRange r now q).hi = q.hi := by unfold markRange; split <;> rfl
@[simp] theorem markRange_self (r : Range) (now : Nat) : markRange r now r = { r with held := some now } := if_pos (beq_self_eq_true r)

/-- Whether the lowest index of a range is what its dispatcher has next of the node. -/
def isFront (i : Inst) (r : Range) : Bool :=
  decide (r.lo < r.hi) && !i.ranges.any (fun q => q.launch == r.launch && q.node == r.node && decide (q.lo < q.hi) && decide (q.lo < r.lo))

/-- The saved teams that wait at a dispatcher. -/
def savedAt (s : State) (v : Vd) (i : Inst) : List Team := s.teams.filter (fun t => t.vd == v.num && t.vdie == i.vdie && t.status == .saved && !t.kernel)

theorem waiters_eq (s : State) (v : Vd) (i : Inst) : waiters s v i = (i.ranges.filter (isFront i)).map .fresh ++ (savedAt s v i).map .saved := rfl

/-- One range alone waits: no other has a next index, and no saved team waits. -/
theorem waiters_eq_fresh_iff : waiters s v i = [.fresh r] ↔ i.ranges.filter (isFront i) = [r] ∧ savedAt s v i = [] := by
  rw [waiters_eq]
  cases i.ranges.filter (isFront i) with
  | nil => simp [List.map_eq_singleton_iff]
  | cons q qs => simp [and_assoc]

theorem isFront_markInst (i : Inst) (r q : Range) (now : Nat) : isFront (markInst r now i) (markRange r now q) = isFront i q := by
  simp [isFront, markInst, Function.comp_def]

/-- A mark changes no more of the waiters than the mark of the range that waits. -/
theorem waiters_markInst {now : Nat} (only : waiters s v i = [.fresh r]) (vds : List Vd) :
    waiters { s with vds := vds } (v.modInst i.vdie (markInst r now)) (markInst r now i) = [.fresh { r with held := some now }] := by
  have front : (markInst r now i).ranges.filter (isFront (markInst r now i)) = (i.ranges.filter (isFront i)).map (markRange r now) := by
    rw [markInst, List.filter_map]
    exact congrArg _ (List.filter_congr fun q _ => isFront_markInst i r q now)
  obtain ⟨fronts, noTeam⟩ := waiters_eq_fresh_iff.mp only
  exact waiters_eq_fresh_iff.mpr ⟨by rw [front, fronts, List.map_singleton, markRange_self], noTeam⟩

theorem mem_of_waits (only : waiters s v i = [.fresh r]) : r ∈ i.ranges :=
  (List.mem_filter.mp ((waiters_eq_fresh_iff.mp only).1 ▸ List.mem_singleton_self r)).1

theorem cyclesPerUs_pos (s : State) (die : Nat) : 0 < cyclesPerUs s die := by
  unfold cyclesPerUs
  split <;> decide

/-- The cap has not passed in the cycle of the mark. -/
theorem not_capPassed_now (s : State) (die : Nat) : capPassed s die (some (cycleOf s die)) = false := by
  have := cyclesPerUs_pos s die
  simp only [capPassed, Option.any_some, decide_eq_false_iff_not]
  omega

/-- The state with the range marked that waits at a dispatcher. -/
def markHeld (s : State) (v : Vd) (i : Inst) (r : Range) : State := modVd s v.num (fun v => v.modInst i.vdie (markInst r (cycleOf s i.pdie)))

theorem noteHeld_marks (only : waiters s v i = [.fresh r]) (held : heldBySteering s v i (.fresh r) = true) (fits : (placeMoving s v i (.fresh r)).isSome = true) (unmarked : r.held = none) :
    noteHeld s v i = markHeld s v i r := by
  have chosen : [Waiter.fresh r].filter (fun w => heldBySteering s v i w && w.heldAt.isNone && (placeMoving s v i w).isSome) = [.fresh r] := by
    simp [held, fits, Waiter.heldAt, unmarked]
  unfold noteHeld
  simp only [only, chosen]
  rfl

theorem heldBySteering_markInst {vds : List Vd} (held : heldBySteering s v i (.fresh r) = true) :
    heldBySteering { s with vds := vds } (v.modInst i.vdie (markInst r (cycleOf s i.pdie))) (markInst r (cycleOf s i.pdie) i) (.fresh { r with held := some (cycleOf s i.pdie) }) = true := by
  obtain ⟨heavy, -⟩ := Bool.and_eq_true_iff.mp held
  exact Bool.and_eq_true_iff.mpr ⟨heavy, congrArg (!·) (not_capPassed_now s i.pdie)⟩

/-- A dispatcher whose one waiter is held, and fits, marks it and places nothing. -/
theorem dispatchTry_held (found : findVd s v.num = some v) (inst : v.inst i.vdie = some i) (may : mayPlace s v i = true) (only : waiters s v i = [.fresh r])
    (held : heldBySteering s v i (.fresh r) = true) (fits : (placeMoving s v i (.fresh r)).isSome = true) (unmarked : r.held = none) :
    dispatchTry s v.num i.vdie = markHeld s v i r := by
  have marks := noteHeld_marks only held fits unmarked
  have now : findVd (noteHeld s v i) v.num = some (v.modInst i.vdie (markInst r (cycleOf s i.pdie))) := marks ▸ findVd_modVd_same (fun _ h => h) found
  rw [dispatchTry_eq found inst may now (inst_modInst_same (fun _ => rfl) inst), marks]
  exact congrArg (Option.getD · _) (tryRanked_held (waiters_markInst only _) (heldBySteering_markInst held))

/-! ### Moves -/

theorem exec_compactionMove {die cluster dst k : Nat} {b : Block} (owner : ownerOf s die cluster = some (v, i)) (moved : moveBlock s (.cluster die cluster) b dst = some u)
    (before : k + 1 ∈ movesWanted s v i (.cluster die cluster)) (after : k ∈ movesWanted u v i (.cluster die cluster)) : exec (.compactionMove die cluster b dst) s = .next u := by
  change execCompactionMove die cluster b dst s = _
  have nearer : (movesWanted s v i (.cluster die cluster)).any (fun k => decide (0 < k) && (movesWanted u v i (.cluster die cluster)).contains (k - 1)) = true :=
    List.any_eq_true.mpr ⟨k + 1, before, by simpa using after⟩
  unfold execCompactionMove
  simp only [owner, moved, nearer, if_true]

theorem rdList_congr {m m' : SMap 8} {a b n : Nat} (same : ∀ k, k < n → rd m (a + k) = rd m' (b + k)) : rdList m a n = rdList m' b n := by
  induction n generalizing a b with
  | zero => rfl
  | succ n ih =>
    refine congrArg₂ List.cons (same 0 (Nat.succ_pos n)) (ih fun k below => ?_)
    simpa [Nat.add_assoc, Nat.add_comm 1] using same (k + 1) (Nat.succ_lt_succ below)

/-- Bytes that have moved read as they did. -/
theorem rdList_shiftBytes (m : SMap 8) (a n b : Nat) : rdList (shiftBytes m a n b) b n = rdList m a n :=
  rdList_congr fun k below => by rw [Laws.rd_shiftBytes, if_pos (by omega), Nat.add_sub_cancel_left]

theorem clusterOf_site (s : State) (site : Site) : (clusterOf s site).site = site := by
  unfold clusterOf
  cases found : s.clusters.find? (fun k => k.site == site) with
  | none => rfl
  | some k => simpa using List.find?_some found

theorem clusterOf_shifted (s : State) (tm : Team) (dst : Nat) :
    clusterOf (setTeam (setCluster s (shifted (clusterOf s tm.site) tm dst)) { tm with block := dst }) tm.site = shifted (clusterOf s tm.site) tm dst := by
  have put := clusterOf_setCluster_same s (shifted (clusterOf s tm.site) tm dst)
  rwa [show (shifted (clusterOf s tm.site) tm dst).site = tm.site from clusterOf_site s tm.site] at put

theorem exec_steeringCap (found : findVd s vd = some v) (inst : v.inst vdie = some i) :
    exec (.steeringCap vd vdie) s = .next (if (waiters s v i).any (fun w => heavyHere s v i w.node && capPassed s i.pdie w.heldAt) then dispatchTry s vd vdie else s) := by
  change execSteeringCap vd vdie s = _
  simp only [execSteeringCap, found, inst, Option.bind_some, Option.map_some]

/-- Settles O52: a single waiter is placed, passed over or marked by the dispatcher's try; a block that can move does; the cap has the dispatcher try; a field takes its IMEAS. -/
theorem teamsFindTheirClusters : Obligations.TeamsFindTheirClusters := by
  unfold Obligations.TeamsFindTheirClusters
  refine ⟨fun vd vdie s v i r e found inst may only newTid newGid event => ?dispatch, fun die cluster handle dst s v i g owner first group movable => ?regs,
    fun die cluster tid dst s v i tm owner team on movable => ?scratch, fun vd vdie s v i found inst => ?cap, fun f val x s here => ?imeas⟩
  case dispatch =>
    have run := exec_tries found inst event
    obtain rfl := findVd_num found
    obtain rfl := inst_vdie inst
    refine ⟨fun free fits => ?placed, fun free full => ?waits, fun held fits unmarked => ?marked⟩
    case placed =>
      obtain ⟨t, placed⟩ := Option.isSome_iff_exists.mp fits
      rw [dispatchTry_free found inst may only free, placed] at run
      have there := placeMoving_placed found inst (mem_of_waits only) newTid newGid placed
      exact ⟨_, run, there⟩
    case waits => rwa [dispatchTry_free found inst may only free, full] at run
    case marked =>
      rw [dispatchTry_held found inst may only held fits unmarked] at run
      refine ⟨_, _, _, run, rfl, rfl, rfl, findVd_modVd_same (fun _ h => h) found, inst_modInst_same (fun _ => rfl) inst, ?_⟩
      exact markRange_self r _ ▸ List.mem_map_of_mem (mem_of_waits only)
  case regs =>
    obtain ⟨u, moves⟩ := Option.isSome_iff_exists.mp movable
    have moved : moveBlock s (.cluster die cluster) (.regs handle) dst = some u := by rw [moveBlock, first]; exact moves
    refine ⟨u, ?_, ?_, ?_, fun k before after => exec_compactionMove owner moved before after⟩ <;> rw [moveRegs_eq moves]
    · rfl
    · exact Laws.findGroup_setGroup_at (g' := { g with regBlk := _, tileBlk := _ }) rfl group
    · exact fun h other => Laws.findGroup_setGroup_other other
  case scratch =>
    obtain ⟨u, moves⟩ := Option.isSome_iff_exists.mp movable
    have moved : moveBlock s (.cluster die cluster) (.scratch tid) dst = some u := by simpa [moveBlock, team, on] using moves
    obtain rfl : tm.tid = tid := by simpa using List.find?_some team
    have there : findTeam (setCluster s (shifted (clusterOf s tm.site) tm dst)) tm.tid = some tm := by rw [findTeam, setCluster_teams]; exact team
    refine ⟨u, ?_, ?_, ?_, ?_, fun k before after => exec_compactionMove owner moved before after⟩ <;> rw [moveScratch_eq moves]
    · simp
    · simp
    · exact findTeam_setTeam_same (t' := { tm with block := dst }) there
    · rw [clusterOf_shifted]
      exact rdList_shiftBytes _ _ _ _
  case cap =>
    have run := exec_steeringCap found inst
    refine ⟨fun passed => ?_, fun waits => ?_⟩
    · rw [if_pos (by simpa using passed)] at run
      exact run
    · rwa [if_neg (by simpa [imp_iff_not_or] using waits)] at run
  case imeas =>
    refine ⟨_, rfl, rfl, ?_, fun k other => ?_⟩
    · rw [getElem?_modFields, here, Option.map_some, if_pos (beq_self_eq_true f)]
      split <;> rfl
    · simp [other]

end Sys2Proof.Machine
end

section
/-! The round trip of a word through its layout: the encoder's word, and its four bytes in memory order, decode to the instruction (04 R95-R105; 05 R116-R121). -/

namespace Sys2Proof.Laws

/-- Each constructor's law, for the constructor that the word has; a step of the package has no word. -/
theorem decodeWord_encode {i : Instr} (word : i.isWord = true) : decodeWord (encode i) = .ok i := by
  cases i with
  | bra => exact EncodeDecode.bra _ word
  | brc => exact EncodeDecode.brc _ word
  | call => exact EncodeDecode.call _ word
  | ret => exact EncodeDecode.ret _ word
  | jmpi => exact EncodeDecode.jmpi _ word
  | calli => exact EncodeDecode.calli _ word
  | switch => exact EncodeDecode.switch _ word
  | recon => exact EncodeDecode.recon _ word
  | join => exact EncodeDecode.join _ word
  | land => exact EncodeDecode.land _ word
  | exit => exact EncodeDecode.exit _ word
  | nop => exact EncodeDecode.nop _ word
  | yield => exact EncodeDecode.yield _ word
  | voteAny => exact EncodeDecode.voteAny _ word
  | voteAll => exact EncodeDecode.voteAll _ word
  | voteBallot => exact EncodeDecode.voteBallot _ word
  | voteCount => exact EncodeDecode.voteCount _ word
  | voteFirst => exact EncodeDecode.voteFirst _ word
  | voteUniq => exact EncodeDecode.voteUniq _ word
  | winb => exact EncodeDecode.winb _ word
  | trap => exact EncodeDecode.trap _ _ word
  | bkpt => exact EncodeDecode.bkpt _ _ word
  | dstkDepth => exact EncodeDecode.dstkDepth _ word
  | dstkSpill => exact EncodeDecode.dstkSpill _ word
  | dstkFill => exact EncodeDecode.dstkFill _ word
  | iadd => exact EncodeDecode.iadd _ word
  | isub => exact EncodeDecode.isub _ word
  | imul => exact EncodeDecode.imul _ word
  | imulh => exact EncodeDecode.imulh _ word
  | imulhu => exact EncodeDecode.imulhu _ word
  | imad => exact EncodeDecode.imad _ word
  | imin => exact EncodeDecode.imin _ word
  | imax => exact EncodeDecode.imax _ word
  | iminu => exact EncodeDecode.iminu _ word
  | imaxu => exact EncodeDecode.imaxu _ word
  | iunaryNeg => exact EncodeDecode.iunaryNeg _ word
  | iunaryAbs => exact EncodeDecode.iunaryAbs _ word
  | iunaryNot => exact EncodeDecode.iunaryNot _ word
  | iunaryPopc => exact EncodeDecode.iunaryPopc _ word
  | iunaryClz => exact EncodeDecode.iunaryClz _ word
  | iunaryCtz => exact EncodeDecode.iunaryCtz _ word
  | iunaryBrev => exact EncodeDecode.iunaryBrev _ word
  | iunaryBswap => exact EncodeDecode.iunaryBswap _ word
  | iunarySextb => exact EncodeDecode.iunarySextb _ word
  | iunarySexth => exact EncodeDecode.iunarySexth _ word
  | shl => exact EncodeDecode.shl _ word
  | shr => exact EncodeDecode.shr _ word
  | shra => exact EncodeDecode.shra _ word
  | rotl => exact EncodeDecode.rotl _ word
  | and => exact EncodeDecode.and _ word
  | or => exact EncodeDecode.or _ word
  | xor => exact EncodeDecode.xor _ word
  | andn => exact EncodeDecode.andn _ word
  | bfx => exact EncodeDecode.bfx _ word
  | bfi => exact EncodeDecode.bfi _ word
  | icmp => exact EncodeDecode.icmp _ word
  | icmpu => exact EncodeDecode.icmpu _ word
  | sel => exact EncodeDecode.sel _ word
  | movi => exact EncodeDecode.movi _ word
  | movhi => exact EncodeDecode.movhi _ word
  | mov => exact EncodeDecode.mov _ word
  | iadd64 => exact EncodeDecode.iadd64 _ word
  | lea => exact EncodeDecode.lea _ word
  | icmp64 => exact EncodeDecode.icmp64 _ word
  | dp4 => exact EncodeDecode.dp4 _ word
  | vaddmin => exact EncodeDecode.vaddmin _ word
  | laneShup => exact EncodeDecode.laneShup _ _ _ word
  | laneShdn => exact EncodeDecode.laneShdn _ _ _ word
  | laneXor => exact EncodeDecode.laneXor _ _ word
  | laneidx => exact EncodeDecode.laneidx _ word
  | bcast => exact EncodeDecode.bcast _ word
  | gredAdd => exact EncodeDecode.gredAdd _ word
  | gredMin => exact EncodeDecode.gredMin _ word
  | gredMax => exact EncodeDecode.gredMax _ word
  | gredMinu => exact EncodeDecode.gredMinu _ word
  | gredMaxu => exact EncodeDecode.gredMaxu _ word
  | gredAnd => exact EncodeDecode.gredAnd _ word
  | gredOr => exact EncodeDecode.gredOr _ word
  | gredXor => exact EncodeDecode.gredXor _ word
  | gredFadd => exact EncodeDecode.gredFadd _ word
  | gredFmin => exact EncodeDecode.gredFmin _ word
  | gredFmax => exact EncodeDecode.gredFmax _ word
  | gscanAdd => exact EncodeDecode.gscanAdd _ _ word
  | gscanMin => exact EncodeDecode.gscanMin _ _ word
  | gscanMax => exact EncodeDecode.gscanMax _ _ word
  | getidLane => exact EncodeDecode.getidLane _ word
  | getidGroup => exact EncodeDecode.getidGroup _ word
  | getidTeamx => exact EncodeDecode.getidTeamx _ word
  | getidTeamy => exact EncodeDecode.getidTeamy _ word
  | getidTeamz => exact EncodeDecode.getidTeamz _ word
  | getidRole => exact EncodeDecode.getidRole _ word
  | getidVdie => exact EncodeDecode.getidVdie _ word
  | getidNvdie => exact EncodeDecode.getidNvdie _ word
  | getidCluster => exact EncodeDecode.getidCluster _ word
  | getidBay => exact EncodeDecode.getidBay _ word
  | getidGridx => exact EncodeDecode.getidGridx _ word
  | getidGridy => exact EncodeDecode.getidGridy _ word
  | getidGridz => exact EncodeDecode.getidGridz _ word
  | vdhop => exact EncodeDecode.vdhop _ word
  | cycle => exact EncodeDecode.cycle _ word
  | fadd => exact EncodeDecode.fadd _ word
  | fsub => exact EncodeDecode.fsub _ word
  | fmul => exact EncodeDecode.fmul _ word
  | ffma => exact EncodeDecode.ffma _ word
  | fmin => exact EncodeDecode.fmin _ word
  | fmax => exact EncodeDecode.fmax _ word
  | fcmp => exact EncodeDecode.fcmp _ word
  | funaryNeg => exact EncodeDecode.funaryNeg _ word
  | funaryAbs => exact EncodeDecode.funaryAbs _ word
  | funaryRcp => exact EncodeDecode.funaryRcp _ word
  | funaryRsq => exact EncodeDecode.funaryRsq _ word
  | funarySqrt => exact EncodeDecode.funarySqrt _ word
  | funaryExp2 => exact EncodeDecode.funaryExp2 _ word
  | funaryLog2 => exact EncodeDecode.funaryLog2 _ word
  | funarySinpi => exact EncodeDecode.funarySinpi _ word
  | funaryCospi => exact EncodeDecode.funaryCospi _ word
  | funaryFloor => exact EncodeDecode.funaryFloor _ word
  | funaryCeil => exact EncodeDecode.funaryCeil _ word
  | funaryTrunc => exact EncodeDecode.funaryTrunc _ word
  | funaryRndne => exact EncodeDecode.funaryRndne _ word
  | funaryFract => exact EncodeDecode.funaryFract _ word
  | fscale => exact EncodeDecode.fscale _ word
  | hadd2 => exact EncodeDecode.hadd2 _ word
  | hmul2 => exact EncodeDecode.hmul2 _ word
  | hfma2 => exact EncodeDecode.hfma2 _ word
  | badd2 => exact EncodeDecode.badd2 _ word
  | bmul2 => exact EncodeDecode.bmul2 _ word
  | bfma2 => exact EncodeDecode.bfma2 _ word
  | famax => exact EncodeDecode.famax _ word
  | cvt => exact EncodeDecode.cvt _ _ _ _ word
  | cvtn => exact EncodeDecode.cvtn _ word
  | qscale => exact EncodeDecode.qscale _ word
  | cbld => exact EncodeDecode.cbld _ _ word
  | cbdec => exact EncodeDecode.cbdec _ word
  | mma => exact EncodeDecode.mma _ word
  | mmaf => exact EncodeDecode.mmaf _ word
  | mmaz => exact EncodeDecode.mmaz _ word
  | tzero => exact EncodeDecode.tzero _ word
  | trd => exact EncodeDecode.trd _ word
  | twr => exact EncodeDecode.twr _ word
  | twm => exact EncodeDecode.twm _ word
  | fhset => exact EncodeDecode.fhset _ word
  | tcvt => exact EncodeDecode.tcvt _ word
  | tscl => exact EncodeDecode.tscl _ word
  | ldb => exact EncodeDecode.ldb _ word
  | ldh => exact EncodeDecode.ldh _ word
  | ldw => exact EncodeDecode.ldw _ word
  | ldd => exact EncodeDecode.ldd _ word
  | ldq => exact EncodeDecode.ldq _ word
  | stb => exact EncodeDecode.stb _ word
  | sth => exact EncodeDecode.sth _ word
  | stw => exact EncodeDecode.stw _ word
  | std => exact EncodeDecode.std _ word
  | stq => exact EncodeDecode.stq _ word
  | ldxLdsc => exact EncodeDecode.ldxLdsc _ _ word
  | ldxLsib => exact EncodeDecode.ldxLsib _ _ _ word
  | ldxLdnc => exact EncodeDecode.ldxLdnc _ _ _ word
  | ldxPref => exact EncodeDecode.ldxPref _ word
  | lds => exact EncodeDecode.lds _ word
  | sts => exact EncodeDecode.sts _ word
  | memxFence => exact EncodeDecode.memxFence _ _ word
  | memxFenceva => exact EncodeDecode.memxFenceva _ word
  | memxWaitc => exact EncodeDecode.memxWaitc _ _ word
  | memxCntq => exact EncodeDecode.memxCntq _ _ word
  | memxCinv => exact EncodeDecode.memxCinv _ word
  | memxSplitq => exact EncodeDecode.memxSplitq _ word
  | drayCopy => exact EncodeDecode.drayCopy _ _ word
  | drayCopy2d => exact EncodeDecode.drayCopy2d _ _ word
  | drayGather => exact EncodeDecode.drayGather _ _ word
  | drayScatter => exact EncodeDecode.drayScatter _ _ word
  | draySpill => exact EncodeDecode.draySpill _ _ word
  | drayGcopy => exact EncodeDecode.drayGcopy _ _ word
  | drayPut => exact EncodeDecode.drayPut _ _ word
  | drayGet => exact EncodeDecode.drayGet _ _ word
  | drayFill => exact EncodeDecode.drayFill _ _ word
  | drayPoolfill => exact EncodeDecode.drayPoolfill _ _ word
  | drayPoolcmp => exact EncodeDecode.drayPoolcmp _ _ word
  | drayPoolred => exact EncodeDecode.drayPoolred _ _ word
  | drayPub => exact EncodeDecode.drayPub _ _ word
  | drayStat => exact EncodeDecode.drayStat _ word
  | dwaitOne => exact EncodeDecode.dwaitOne _ word
  | dwaitAll => exact EncodeDecode.dwaitAll _ word
  | barInit => exact EncodeDecode.barInit _ word
  | barArr => exact EncodeDecode.barArr _ word
  | barArrn => exact EncodeDecode.barArrn _ word
  | barExpb => exact EncodeDecode.barExpb _ word
  | barWait => exact EncodeDecode.barWait _ _ word
  | barTry => exact EncodeDecode.barTry _ _ word
  | barQry => exact EncodeDecode.barQry _ word
  | atarithAdd => exact EncodeDecode.atarithAdd _ word
  | atarithFadd => exact EncodeDecode.atarithFadd _ word
  | atarithDecp => exact EncodeDecode.atarithDecp _ word
  | atarithIncw => exact EncodeDecode.atarithIncw _ word
  | atminmaxMin => exact EncodeDecode.atminmaxMin _ word
  | atminmaxMax => exact EncodeDecode.atminmaxMax _ word
  | atminmaxMinu => exact EncodeDecode.atminmaxMinu _ word
  | atminmaxMaxu => exact EncodeDecode.atminmaxMaxu _ word
  | atlogicAnd => exact EncodeDecode.atlogicAnd _ word
  | atlogicOr => exact EncodeDecode.atlogicOr _ word
  | atlogicXor => exact EncodeDecode.atlogicXor _ word
  | atlogicSwap => exact EncodeDecode.atlogicSwap _ word
  | atcasCas32 => exact EncodeDecode.atcasCas32 _ word
  | atcasCas64 => exact EncodeDecode.atcasCas64 _ word
  | atcasAdd64 => exact EncodeDecode.atcasAdd64 _ word
  | redAdd => exact EncodeDecode.redAdd _ word
  | redFadd => exact EncodeDecode.redFadd _ word
  | redMin => exact EncodeDecode.redMin _ word
  | redMax => exact EncodeDecode.redMax _ word
  | waita => exact EncodeDecode.waita _ word
  | waitaTo => exact EncodeDecode.waitaTo _ word
  | wakeOne => exact EncodeDecode.wakeOne _ word
  | wakeAll => exact EncodeDecode.wakeAll _ word
  | rcn => exact EncodeDecode.rcn _ word
  | rcnD => exact EncodeDecode.rcnD _ word
  | send => exact EncodeDecode.send _ _ word
  | recv => exact EncodeDecode.recv _ _ word
  | chq => exact EncodeDecode.chq _ _ word
  | syscall => exact EncodeDecode.syscall _ word
  | eret => exact EncodeDecode.eret _ word
  | wfi => exact EncodeDecode.wfi _ word
  | halt => exact EncodeDecode.halt _ word
  | csrr => exact EncodeDecode.csrr _ word
  | csrw => exact EncodeDecode.csrw _ word
  | rlySend => exact EncodeDecode.rlySend _ word
  | rlyRecv => exact EncodeDecode.rlyRecv _ word
  | rlyPoll => exact EncodeDecode.rlyPoll _ word
  | xlatInvr => exact EncodeDecode.xlatInvr _ word
  | xlatBlock => exact EncodeDecode.xlatBlock _ word
  | xlatPurge => exact EncodeDecode.xlatPurge _ word
  | xlatProbe => exact EncodeDecode.xlatProbe _ word
  | xlatScrub => exact EncodeDecode.xlatScrub _ word
  | xlatPin => exact EncodeDecode.xlatPin _ word
  | pwrIslq => exact EncodeDecode.pwrIslq _ _ word
  | pwrDorm => exact EncodeDecode.pwrDorm _ word
  | pwrWakeq => exact EncodeDecode.pwrWakeq _ word
  | _ => cases word

theorem toNat_byteOfNat (n k : Nat) : (byteOfNat n k).toNat = n / 2 ^ (8 * k) % 256 := by
  rw [byteOfNat, BitVec.toNat_ofNat, Nat.shiftRight_eq_div_pow]

/-- The four bytes of a word, the lowest first, make the word again (00 R6). -/
theorem wordOfBytes_byteOfNat (w : Word) : wordOfBytes (byteOfNat w.toNat 0) (byteOfNat w.toNat 1) (byteOfNat w.toNat 2) (byteOfNat w.toNat 3) = w := by
  apply BitVec.eq_of_toNat_eq
  simp only [wordOfBytes, toNat_app, toNat_byteOfNat]
  have := w.isLt
  omega

theorem decodeTableWord_toNat (w : Word) : decodeTableWord 32 w.toNat = (decodeWord w).toOption := by
  rw [decodeTableWord, Nat.mod_eq_of_lt w.isLt, tableBytes, decodeBytes, wordOfBytes_byteOfNat]
  cases decodeWord w <;> rfl

/-- Settles O1: the laws of the constructors put together, and the word put together from its bytes. -/
theorem decodeOfEncodeIsTheWord : Obligations.DecodeOfEncodeIsTheWord := by
  unfold Obligations.DecodeOfEncodeIsTheWord
  intro i word
  have read := decodeWord_encode word
  refine ⟨read, ?_, (encode i).isLt⟩
  rw [decodeTableWord_toNat, read]
  rfl

end Sys2Proof.Laws
end

section
/-! The traps that every word is subject to, in their order, and those of a SWITCH's data words (04 R77, R88-R90, R105, R106; 05 R123, R124; 06 R140, R148; 16 R394, R414, R417). -/

namespace Sys2Proof.Machine

variable {i : Instr} {s : State} {c : Ctx} {g : Group} {w : FmtS}

/-! ### Taking a trap -/

theorem findGroup_chosen (h : Chosen i s c) : findGroup c.s c.g.gid = some c.g := by
  obtain ⟨n, state⟩ := Laws.state_of_chosen h
  rw [state]
  exact Laws.findGroup_setGroup_same (g := c.g) h.found

/-- Putting back the group of the chosen fragment changes its record alone. -/
theorem onlyGroup_setGroup (h : Chosen i s c) (same : g.gid = c.g.gid) : OnlyGroup s (setGroup c.s g) c.g.gid := by
  obtain ⟨n, state⟩ := Laws.state_of_chosen h
  rw [state]
  refine ⟨rfl, fun _ => Laws.untry_sub, fun k other => ?_, fun _ => rfl⟩
  rw [Laws.findGroup_setGroup_other (same ▸ other), Laws.findGroup_setGroup_other other]
  rfl

/-- RUNIX, bits 10 to 8 of GSTAT, after a trap at place k of a run; the other bits are kept (16 R395). -/
theorem runix_of_place (x : BitVec 64) {k : Nat} (place : k < 8) :
    (((x &&& ~~~0x700#64) ||| (BitVec.ofNat 64 k <<< 8)).extractLsb' 8 3).toNat = k ∧
    ((x &&& ~~~0x700#64) ||| (BitVec.ofNat 64 k <<< 8)) &&& ~~~0x700#64 = x &&& ~~~0x700#64 := by
  have field : (BitVec.ofNat 64 k <<< 8) &&& ~~~0x700#64 = 0#64 ∧ (BitVec.ofNat 64 k <<< 8).extractLsb' 8 3 = BitVec.ofNat 3 k := by
    revert k; decide
  have clear : (x &&& ~~~0x700#64).extractLsb' 8 3 = 0#3 := by
    rw [BitVec.extractLsb'_and, show (~~~0x700#64).extractLsb' 8 3 = 0#3 by decide, BitVec.and_zero]
  constructor
  · rw [BitVec.extractLsb'_or, clear, field.2, BitVec.zero_or, BitVec.toNat_ofNat, Nat.mod_eq_of_lt place]
  · rw [BitVec.and_or_distrib_right, field.1, BitVec.or_zero, BitVec.and_assoc, BitVec.and_self]

/-- A trap that the chosen fragment raises is taken by its group, and changes nothing else (16 R394, R395). -/
theorem trapped_raiseTrap (h : Chosen i s c) (t : Trap) :
    Trapped s c (raiseTrap c t) (trapGroup c.g c.fi c.f t) t.cause t.val (t.mask.getD c.f.mask) t.past := by
  obtain ⟨f, here, -⟩ := Laws.frag_of_chosen h
  obtain ⟨inside, -⟩ := List.getElem?_eq_some_iff.mp here
  have head : (runPos c.f).1 = if c.f.run = 0 then c.f.pc else c.f.head := by rw [runPos]; split <;> rfl
  have place : (runPos c.f).2 % 8 = if c.f.run = 0 then 0 else c.f.run % 8 := by rw [runPos]; split <;> rfl
  obtain ⟨runix, others⟩ := runix_of_place c.g.gstat (Nat.mod_lt (runPos c.f).2 (by decide : 8 > 0))
  exact {
    cause := rfl, val := rfl, mask := rfl, stops := rfl, rest := rfl
    pc := head
    runix := ⟨place ▸ runix, others⟩
    frag := ⟨_, List.getElem?_set_self inside, by rw [← head], rfl⟩
    frags := fun j other => List.getElem?_set_ne (Ne.symm other)
    only := onlyGroup_setGroup h rfl }

theorem takesTrap_of_raiseTrap (h : Chosen i s c) {t : Trap} (run : exec i s = .next (raiseTrap c t)) : TakesTrap i s c t.cause t.val (t.mask.getD c.f.mask) t.past :=
  ⟨_, _, run, Laws.findGroup_setGroup_at (g' := trapGroup c.g c.fi c.f t) rfl (findGroup_chosen h), trapped_raiseTrap h t⟩

/-- Every word meets the same conditions before its own effect; the steps of the package, which have no word, are no case of it. -/
theorem exec_eq_issue (word : i.isWord = true) : ∃ body, ∀ s, exec i s = issue i s body := by
  cases i <;> cases word <;> exact ⟨_, fun _ => rfl⟩

/-- A word for which a trap cause holds takes the first (04 R106). -/
theorem takesTrap_of_firstTrap (word : i.isWord = true) (h : Chosen i s c) (starts : startHeld s c.g c.f i = false) {t : Trap} (first : firstTrap s c.g c.f i = some t) :
    TakesTrap i s c t.cause t.val (t.mask.getD c.f.mask) t.past := by
  obtain ⟨body, runs⟩ := exec_eq_issue word
  exact takesTrap_of_raiseTrap h ((runs s).trans (Laws.issue_of_trap h starts first body))

/-! ### Fetching -/

/-- A fetch that faults reports the address of the word, for all lanes (06 R140). -/
theorem fetchWord_error {va : DWord} {e : Trap} (fault : fetchWord s g va = .error e) : e.val = va ∧ e.mask = none ∧ e.past = 0#64 := by
  unfold fetchWord fetchHeld at fault
  repeat' split at fault
  all_goals cases fault
  all_goals exact ⟨rfl, rfl, rfl⟩

theorem takesTrap_of_fetchFault {va : DWord} {e : Trap} (fault : fetchWord s g va = .error e) (taken : TakesTrap i s c e.cause e.val (e.mask.getD c.f.mask) e.past) :
    TakesTrap i s c e.cause va c.f.mask 0#64 := by
  obtain ⟨val, mask, past⟩ := fetchWord_error fault
  rwa [val, mask, past] at taken

/-- What looks neither at the groups nor at the bookkeeping of issuing sees the same in the context of the chosen word as before it. -/
theorem reads_chosen {α : Type} (h : Chosen i s c) (read : State → α)
    (blind : ∀ us n g, read (setGroup { s with cur := none, tried := us, nextId := n } g) = read s := by intros; rfl) : read c.s = read s := by
  obtain ⟨n, state⟩ := Laws.state_of_chosen h
  rw [state]
  exact blind _ n c.g

theorem fetchStalls_chosen (h : Chosen i s c) (va : DWord) : fetchStalls c.s g va = fetchStalls s g va := reads_chosen h (fetchStalls · g va)

/-- Translating answers the same there, but for the states that it leaves. -/
theorem translate_chosen (h : Chosen i s c) (v : Vd) (die vdie slice asid : Nat) (user : Bool) (kind : AccKind) (size : Nat) (va : DWord) :
    (∃ f, translate c.s v die vdie slice asid user kind size va = .error f ∧ translate s v die vdie slice asid user kind size va = .error f) ∨
    ∃ x t u, translate c.s v die vdie slice asid user kind size va = .ok (x, t) ∧ translate s v die vdie slice asid user kind size va = .ok (x, u) := by
  unfold translate
  rw [reads_chosen h (walk · v vdie asid user kind size va), reads_chosen h State.stc]
  split
  · exact .inr ⟨_, _, _, rfl, rfl⟩
  · split
    · exact .inl ⟨_, rfl, rfl⟩
    · exact .inr ⟨_, _, _, rfl, rfl⟩

theorem fetchWord_chosen (h : Chosen i s c) (va : DWord) : fetchWord c.s g va = fetchWord s g va := by
  unfold fetchWord
  rw [reads_chosen h State.integrity, reads_chosen h State.mem, reads_chosen h (findVd · g.vd), reads_chosen h (asidOf · g), reads_chosen h (entrySlice · g.vd (siteDie g.site) va.toNat)]
  split
  case h_1 => rfl
  case h_2 =>
    split
    case h_1 => rfl
    case h_2 v _ =>
      obtain ⟨f, left, right⟩ | ⟨x, t, u, left, right⟩ := translate_chosen h v (siteDie g.site) g.vdie (entrySlice s g.vd (siteDie g.site) va.toNat) (asidOf s g) (g.level == .u) .fetch 4 va
      · rw [left, right]
      · rw [left, right]
        exact reads_chosen h (fetchHeld · _ _ _ _)

/-! ### The data words of a SWITCH -/

theorem findSome?_range_of_first {α : Type} {f : Nat → Option α} {n k : Nat} {b : α} (inside : k < n) (before : ∀ j, j < k → f j = none) (here : f k = some b) :
    (List.range n).findSome? f = some b := by
  obtain ⟨m, rfl⟩ := Nat.exists_eq_add_of_lt inside
  rw [Nat.add_assoc, List.range_add, List.findSome?_append, List.findSome?_eq_none_iff.mpr (fun j mem => before j (List.mem_range.mp mem)), Option.none_or, List.range_succ_eq_map]
  simp [here]

/-- The case words: the fault of the first that cannot be fetched (06 R148). -/
theorem switchData_error {pc : DWord} {n : Nat} {e : Trap} (at_ : n = 1 ∨ (n = 2 ∧ ∃ x, fetchWord s g (pc + BitVec.ofNat 64 (4 * 1)) = .ok x))
    (fault : fetchWord s g (pc + BitVec.ofNat 64 (4 * n)) = .error e) : switchData s g pc w = .error e := by
  have first : ((List.range 2).map fun i => fetchWord s g (pc + BitVec.ofNat 64 (4 * (i + 1)))).findSome? errOf = some e := by
    rw [List.findSome?_map]
    obtain rfl | ⟨rfl, x, fetched⟩ := at_
    · exact findSome?_range_of_first (k := 0) (by decide) (fun j lt => absurd lt j.not_lt_zero) (by simp [errOf, fault])
    · refine findSome?_range_of_first (k := 1) (by decide) (fun j lt => ?_) (by simp [errOf, fault])
      obtain rfl : j = 0 := by omega
      simp [errOf, fetched]
  rw [switchData, first]

/-- A case byte above cnt that is not zero (04 R105). -/
theorem switchData_illegal {pc : DWord} {x y : Word} {k : Nat} (first : fetchWord s g (pc + BitVec.ofNat 64 (4 * 1)) = .ok x) (second : fetchWord s g (pc + BitVec.ofNat 64 (4 * 2)) = .ok y)
    (above : w.cnt.toNat < k) (inside : k < 8) (nonzero : (if k < 4 then x else y).toNat / 2 ^ (8 * (k % 4)) % 256 ≠ 0) : switchData s g pc w = .ok false := by
  have words : ((List.range 2).map fun i => fetchWord s g (pc + BitVec.ofNat 64 (4 * (i + 1)))) = [.ok x, .ok y] := by simp [List.range_succ, first, second]
  have byte : byteOfNat (if k < 4 then x else y).toNat (k % 4) ≠ 0#8 := fun zero => nonzero (by rw [← Laws.toNat_byteOfNat, zero]; rfl)
  have word : [(.ok x : Except Trap Word), .ok y][k / 4]? = some (.ok (if k < 4 then x else y)) := by
    split
    · rw [Nat.div_eq_of_lt ‹k < 4›]; rfl
    · rw [show k / 4 = 1 by omega]; rfl
  rw [switchData, words]
  refine congrArg Except.ok (List.all_eq_false.mpr ⟨k, List.mem_range.mpr inside, ?_⟩)
  simp [word, byte, above]

/-- The slot words: no block holds their fetches (12 R298). -/
theorem switchStalls_of_free (h : Chosen i s c) (free : ∀ k, 3 ≤ k → k ≤ w.cnt.toNat + 4 → fetchStalls s c.g (c.f.pc + BitVec.ofNat 64 (4 * k)) = false) : switchStalls c w = false := by
  refine List.any_eq_false.mpr fun k mem => ?_
  have inside := List.mem_range.mp mem
  rw [fetchStalls_chosen h, free (k + 3) (by omega) (by omega)]
  decide

/-- The slot words: the fault of the first that cannot be fetched, of those up to the last that cnt counts (06 R148). -/
theorem switchFault_of_first {n : Nat} {e : Trap} (h : Chosen i s c) (lo : 3 ≤ n) (hi : n ≤ w.cnt.toNat + 4)
    (before : ∀ k, 3 ≤ k → k < n → ∃ x, fetchWord s c.g (c.f.pc + BitVec.ofNat 64 (4 * k)) = .ok x) (fault : fetchWord s c.g (c.f.pc + BitVec.ofNat 64 (4 * n)) = .error e) :
    switchFault c w = some e := by
  obtain ⟨k, rfl⟩ := Nat.exists_eq_add_of_le' lo
  refine findSome?_range_of_first (k := k) (by omega) (fun j lt => ?_) (by rw [fetchWord_chosen h, fault]; rfl)
  obtain ⟨x, fetched⟩ := before (j + 3) (by omega) (by omega)
  rw [fetchWord_chosen h, fetched]
  rfl

theorem exec_switch_of_switchFault {t : Trap} (h : Issues (.switch w) s c) (free : switchStalls c w = false) (fault : switchFault c w = some t) :
    exec (.switch w) s = .next (raiseTrap c t) := by
  change execSwitch w s = _
  rw [execSwitch, Laws.issue_of_issues h, finishIssue, free, fault]
  rfl

/-! ### The order of the causes -/

/-- Fields that are not legal, a major that a core does not have, a B bit where no run can go on (04 R90; 05 R123; 16 R414). -/
theorem firstTrap_illegal {f : Frag} (h : legal i = false ∨ ((shape i).notCore = true ∧ isCluster g.site = false) ∨ ((shape i).b = true ∧ f.run = 0)) :
    firstTrap s g f i = some (wordTrap causeIllegal (encode i)) := by
  refine if_pos ?_
  obtain illegal | ⟨absent, core⟩ | ⟨member, head⟩ := h
  · simp [illegal]
  · simp [absent, core]
  · simp [member, head]

theorem passes_of_legalFields (h : LegalFields i s c) : ¬ (!legal i || ((shape i).notCore && !isCluster c.g.site) || ((shape i).b && c.f.run == 0)) = true := by
  obtain ⟨-, -, -, fields, site, run⟩ := h
  have here : ((shape i).notCore && !isCluster c.g.site) = false := by obtain on | has := site <;> simp [*]
  have follows : ((shape i).b && c.f.run == 0) = false := by obtain alone | behind := run <;> simp [*]
  simp [fields, here, follows]

/-- The case words of a SWITCH with legal fields come next. -/
theorem firstTrap_switch_illegal (h : LegalFields (.switch w) s c) (data : switchData s c.g c.f.pc w = .ok false) :
    firstTrap s c.g c.f (.switch w) = some (wordTrap causeIllegal (encode (.switch w))) := by
  refine (if_neg (passes_of_legalFields h)).trans ?_
  dsimp only
  rw [data]

theorem firstTrap_switch_error {t : Trap} (h : LegalFields (.switch w) s c) (data : switchData s c.g c.f.pc w = .error t) : firstTrap s c.g c.f (.switch w) = some t := by
  refine (if_neg (passes_of_legalFields h)).trans ?_
  dsimp only
  rw [data]

/-- The registers, tiles and latches that a word names, in this order (04 R77, R88, R89; 16 R394). -/
def nameTrap (g : Group) (f : Frag) (p : Shape) : Option Trap :=
  (((p.opds.flatMap (Opd.regs g)).find? (fun r => decide (g.vregs ≤ r))).map fun r => { cause := causeRegbud, val := BitVec.ofNat 64 r }).or
    (((p.tiles.find? (fun k => decide (g.tiles ≤ k))).map fun k => { cause := causeTile, val := BitVec.ofNat 64 k }).or
      (((p.opds.filter (fun o => !o.dst && decide (120 ≤ o.fld.toNat))).find? (fun o => latchOf f (o.fld.toNat - 120) == .invalid)).map fun o =>
        { cause := causeLatch, val := BitVec.ofNat 64 (o.fld.toNat - 120) }))

theorem takesTrap_of_legalHere {t : Trap} (h : LegalHere i s c) (first : firstTrap s c.g c.f i = some t) : TakesTrap i s c t.cause t.val (t.mask.getD c.f.mask) t.past := by
  obtain ⟨⟨word, chosen, starts, -⟩, -⟩ := h
  exact takesTrap_of_firstTrap word chosen starts first

/-- Its level comes next, then what it names. -/
theorem firstTrap_legalHere (h : LegalHere i s c) :
    firstTrap s c.g c.f i = if c.g.level.has (shape i).priv then nameTrap c.g c.f (shape i) else some (wordTrap causePriv (encode i)) := by
  obtain ⟨fields, data⟩ := h
  refine (if_neg (passes_of_legalFields fields)).trans ?_
  split
  case h_3 =>
    cases c.g.level.has (shape i).priv
    · rfl
    · simp only [Bool.not_true, Bool.false_eq_true, if_false, if_true, nameTrap]
      split
      · simp [*]
      · split
        · simp [*]
        · split <;> simp [*]
  -- a fault or an illegal byte among the case words: LegalHere excludes it for a SWITCH, and no other word has any
  all_goals
    next said =>
      cases i with
      | switch w => exact absurd ((data w rfl).symm.trans said) (by simp)
      | _ => cases said

/-- Settles O5: the first cause that holds is the one taken, and each clause names what is first in it; the slot words are the SWITCH's own. -/
theorem wordsTrapInTheirOrder : Obligations.WordsTrapInTheirOrder := by
  unfold Obligations.WordsTrapInTheirOrder
  refine ⟨fun i s c word chosen starts bad => ?fields, fun w s c h => ?switch, fun i s c h low => ?level, fun i s c h high => ?names⟩
  case fields => exact takesTrap_of_firstTrap word chosen starts (firstTrap_illegal bad)
  case switch =>
    obtain ⟨word, chosen, starts, -⟩ := id h
    refine ⟨fun x y first second ⟨k, above, inside, nonzero⟩ => ?bytes, fun n e at_ fault => ?cases, fun n e issues free lo hi before fault => ?slots⟩
    case bytes => exact takesTrap_of_firstTrap word chosen starts (firstTrap_switch_illegal h (switchData_illegal first second above inside nonzero))
    case cases => exact takesTrap_of_fetchFault fault (takesTrap_of_firstTrap word chosen starts (firstTrap_switch_error h (switchData_error at_ fault)))
    case slots =>
      have fetches := switchFault_of_first chosen lo hi before fault
      exact takesTrap_of_fetchFault fault (takesTrap_of_raiseTrap chosen (exec_switch_of_switchFault issues (switchStalls_of_free chosen free) fetches))
  case level => exact takesTrap_of_legalHere h ((firstTrap_legalHere h).trans (if_neg (by simp [low])))
  case names =>
    have named : firstTrap s c.g c.f i = nameTrap c.g c.f (shape i) := (firstTrap_legalHere h).trans (if_pos high)
    intro regs latches
    have noRegs (below : ∀ r, r ∈ regs → r < c.g.vregs) : regs.find? (fun r => decide (c.g.vregs ≤ r)) = none := by simpa using below
    refine ⟨fun r found => ?reg, fun k below found => ?tile, fun o below within found => ?latch⟩
    case reg => exact takesTrap_of_legalHere (t := { cause := causeRegbud, val := BitVec.ofNat 64 r }) h (by rw [named, nameTrap, found]; rfl)
    case tile => exact takesTrap_of_legalHere (t := { cause := causeTile, val := BitVec.ofNat 64 k }) h (by rw [named, nameTrap, noRegs below, found]; rfl)
    case latch =>
      have noTiles : (shape i).tiles.find? (fun k => decide (c.g.tiles ≤ k)) = none := by simpa using within
      exact takesTrap_of_legalHere (t := { cause := causeLatch, val := BitVec.ofNat 64 (o.fld.toNat - 120) }) h (by rw [named, nameTrap, noRegs below, noTiles, found]; rfl)

end Sys2Proof.Machine
end

section
/-! A word that decodes is laid out again as it was (04 R96-R105; 05 R116-R122): the fields of each format, put together, make the word, and what Tables 5.3 and 5.4 list for a value of fn or sub
lays out that value. -/

namespace Sys2Proof.Laws

variable {w : Word} {op : BitVec 7} {i : Instr}

/-! ### The formats -/

theorem bit1_bitAt (w : Word) (i : Nat) : bit1 (bitAt w i) = w.extractLsb' i 1 := by
  apply BitVec.eq_of_toNat_eq
  rw [toNat_bit1, bitAt_eq, toNat_extract]
  by_cases set : w.toNat / 2 ^ i % 2 = 1
  · simp [set]
  · simp [set]; omega

/-- A reserved bit that is clear, as the encoder writes it. -/
theorem zero_eq_extract {n : Nat} (clear : bitAt w n = false) : 0#1 = w.extractLsb' n 1 := by
  rw [← bit1_bitAt, clear]; rfl

theorem packA_fieldsA (major : w.extractLsb' 25 7 = op) : packA op (fieldsA w) = w := by
  subst major
  simp (disch := rfl) only [packA, fieldsA, bit1_bitAt, BitVec.extractLsb'_append_extractLsb'_eq_extractLsb']
  exact BitVec.extractLsb'_eq_self

theorem packJ_fieldsJ (major : w.extractLsb' 25 7 = op) : packJ op (bitAt w 3) (fieldsJ w) = w := by
  subst major
  simp (disch := rfl) only [packJ, fieldsJ, bit1_bitAt, BitVec.extractLsb'_append_extractLsb'_eq_extractLsb']
  exact BitVec.extractLsb'_eq_self

theorem packP_fieldsP (major : w.extractLsb' 25 7 = op) (clear : bitAt w 1 = false) : packP op (fieldsP w) = w := by
  subst major
  simp (disch := rfl) only [packP, fieldsP, bit1_bitAt, zero_eq_extract clear, BitVec.extractLsb'_append_extractLsb'_eq_extractLsb']
  exact BitVec.extractLsb'_eq_self

theorem packQ_fieldsQ (major : w.extractLsb' 25 7 = op) : packQ op (fieldsQ w) = w := by
  subst major
  simp (disch := rfl) only [packQ, fieldsQ, bit1_bitAt, BitVec.extractLsb'_append_extractLsb'_eq_extractLsb']
  exact BitVec.extractLsb'_eq_self

theorem packL_fieldsL (major : w.extractLsb' 25 7 = op) : packL op (fieldsL w) = w := by
  subst major
  simp (disch := rfl) only [packL, fieldsL, bit1_bitAt, BitVec.extractLsb'_append_extractLsb'_eq_extractLsb']
  exact BitVec.extractLsb'_eq_self

theorem packM_fieldsM (major : w.extractLsb' 25 7 = op) : packM op (fieldsM w) = w := by
  subst major
  simp (disch := rfl) only [packM, fieldsM, bit1_bitAt, BitVec.extractLsb'_append_extractLsb'_eq_extractLsb']
  exact BitVec.extractLsb'_eq_self

theorem packAT_fieldsAT (major : w.extractLsb' 25 7 = op) (clear : bitAt w 0 = false) : packAT op (w.extractLsb' 2 2) (fieldsAT w) = w := by
  subst major
  simp (disch := rfl) only [packAT, fieldsAT, bit1_bitAt, zero_eq_extract clear, BitVec.extractLsb'_append_extractLsb'_eq_extractLsb']
  exact BitVec.extractLsb'_eq_self

theorem packC_fieldsC (major : w.extractLsb' 25 7 = op) (clear : bitAt w 0 = false) : packC op (fieldsC w) = w := by
  subst major
  simp (disch := rfl) only [packC, fieldsC, bit1_bitAt, zero_eq_extract clear, BitVec.extractLsb'_append_extractLsb'_eq_extractLsb']
  exact BitVec.extractLsb'_eq_self

theorem packT_fieldsT (major : w.extractLsb' 25 7 = op) : packT op (fieldsT w) = w := by
  subst major
  simp (disch := rfl) only [packT, fieldsT, BitVec.extractLsb'_append_extractLsb'_eq_extractLsb']
  exact BitVec.extractLsb'_eq_self

theorem packX_fieldsX (major : w.extractLsb' 25 7 = op) : packX op (w.extractLsb' 3 8) (fieldsX w) = w := by
  subst major
  simp (disch := rfl) only [packX, fieldsX, bit1_bitAt, BitVec.extractLsb'_append_extractLsb'_eq_extractLsb']
  exact BitVec.extractLsb'_eq_self

theorem packS_fieldsS (major : w.extractLsb' 25 7 = op) : packS op (fieldsS w) = w := by
  subst major
  simp (disch := rfl) only [packS, fieldsS, BitVec.extractLsb'_append_extractLsb'_eq_extractLsb']
  exact BitVec.extractLsb'_eq_self

/-! ### Words read by their format

What the decoder answers for a major is an instruction of its format. That the encoder has the format for it is true by the encoder's definition, and the major is what the decoder has matched. -/

/-- What is read of a word, if it is an instruction, has the word for its encoding. -/
def Encodes (w : Word) : Except DecodeError Instr → Prop
  | .ok i => i.isWord = true ∧ encode i = w
  | .error _ => True

namespace Encodes

theorem formatA (lays : encode i = packA op (fieldsA w) := by rfl) (word : i.isWord = true := by rfl) (major : w.extractLsb' 25 7 = op := by assumption) : Encodes w (.ok i) :=
  ⟨word, lays.trans (packA_fieldsA major)⟩

theorem formatQ (lays : encode i = packQ op (fieldsQ w) := by rfl) (word : i.isWord = true := by rfl) (major : w.extractLsb' 25 7 = op := by assumption) : Encodes w (.ok i) :=
  ⟨word, lays.trans (packQ_fieldsQ major)⟩

theorem formatL (lays : encode i = packL op (fieldsL w) := by rfl) (word : i.isWord = true := by rfl) (major : w.extractLsb' 25 7 = op := by assumption) : Encodes w (.ok i) :=
  ⟨word, lays.trans (packL_fieldsL major)⟩

theorem formatM (lays : encode i = packM op (fieldsM w) := by rfl) (word : i.isWord = true := by rfl) (major : w.extractLsb' 25 7 = op := by assumption) : Encodes w (.ok i) :=
  ⟨word, lays.trans (packM_fieldsM major)⟩

theorem formatT (lays : encode i = packT op (fieldsT w) := by rfl) (word : i.isWord = true := by rfl) (major : w.extractLsb' 25 7 = op := by assumption) : Encodes w (.ok i) :=
  ⟨word, lays.trans (packT_fieldsT major)⟩

theorem formatS (lays : encode i = packS op (fieldsS w) := by rfl) (word : i.isWord = true := by rfl) (major : w.extractLsb' 25 7 = op := by assumption) : Encodes w (.ok i) :=
  ⟨word, lays.trans (packS_fieldsS major)⟩

/-- The two words of major 0x05, which bit 3 tells apart (06 R146). -/
theorem formatJ (major : w.extractLsb' 25 7 = 0x05#7 := by assumption) : Encodes w (.ok (if bitAt w 3 then .calli (fieldsJ w) else .jmpi (fieldsJ w))) := by
  have laid := packJ_fieldsJ major
  cases set : bitAt w 3 <;> rw [set] at laid <;> exact ⟨rfl, laid⟩

theorem formatP (lays : encode i = packP op (fieldsP w) := by rfl) (word : i.isWord = true := by rfl) (major : w.extractLsb' 25 7 = op := by assumption) : Encodes w (wordP w i) := by
  unfold wordP
  split
  · trivial
  · exact ⟨word, lays.trans (packP_fieldsP major (Bool.eq_false_iff.mpr ‹_›))⟩

theorem formatC (lays : encode i = packC op (fieldsC w) := by rfl) (word : i.isWord = true := by rfl) (major : w.extractLsb' 25 7 = op := by assumption) : Encodes w (wordEven w i) := by
  unfold wordEven
  split
  · trivial
  · exact ⟨word, lays.trans (packC_fieldsC major (Bool.eq_false_iff.mpr ‹_›))⟩

theorem formatX {row : FmtX → BitVec 8 → Except DecodeError Instr} (reads : ∀ x fn, Encodes (packX op fn x) (row x fn)) (major : w.extractLsb' 25 7 = op := by assumption) :
    Encodes w (row (fieldsX w) (w.extractLsb' 3 8)) := by
  have read := reads (fieldsX w) (w.extractLsb' 3 8)
  rwa [packX_fieldsX major] at read

theorem formatAT {row : FmtAT → BitVec 2 → Except DecodeError Instr} (reads : ∀ t sub, Encodes (packAT op sub t) (row t sub)) (major : w.extractLsb' 25 7 = op := by assumption) :
    Encodes w (if bitAt w 0 then .error .reservedBit else row (fieldsAT w) (w.extractLsb' 2 2)) := by
  split
  · trivial
  · have read := reads (fieldsAT w) (w.extractLsb' 2 2)
    rwa [packAT_fieldsAT major (Bool.eq_false_iff.mpr ‹_›)] at read

/-- A row of Table 5.3 that fixes some bits of fn and takes the others for its operands: what the encoder puts in the place of fn is fn. -/
theorem row {c : Prop} [Decidable c] {f g : BitVec 8} {x : FmtX} {rest : Except DecodeError Instr} (same : c → f = g) (others : Encodes (packX op g x) rest)
    (lays : encode i = packX op f x := by rfl) (word : i.isWord = true := by rfl) : Encodes (packX op g x) (if c then .ok i else rest) := by
  split
  · exact ⟨word, same ‹c› ▸ lays⟩
  · exact others

end Encodes

/-! ### Table 5.4

Each operation is laid out with the value of sub that it is listed for; every other value is an error. -/

section
variable (t : FmtAT) (sub : BitVec 2)

theorem encodes_subOf6D : Encodes (packAT 0x6D#7 sub t) (subOf6D t sub) := by unfold subOf6D; split <;> trivial
theorem encodes_subOf6E : Encodes (packAT 0x6E#7 sub t) (subOf6E t sub) := by unfold subOf6E; split <;> trivial
theorem encodes_subOf6F : Encodes (packAT 0x6F#7 sub t) (subOf6F t sub) := by unfold subOf6F; split <;> trivial
theorem encodes_subOf70 : Encodes (packAT 0x70#7 sub t) (subOf70 t sub) := by unfold subOf70; split <;> trivial
theorem encodes_subOf71 : Encodes (packAT 0x71#7 sub t) (subOf71 t sub) := by unfold subOf71; split <;> trivial
theorem encodes_subOf72 : Encodes (packAT 0x72#7 sub t) (subOf72 t sub) := by unfold subOf72; split <;> trivial
theorem encodes_subOf73 : Encodes (packAT 0x73#7 sub t) (subOf73 t sub) := by unfold subOf73; split <;> trivial
theorem encodes_subOf74 : Encodes (packAT 0x74#7 sub t) (subOf74 t sub) := by unfold subOf74; split <;> trivial

end

/-! ### Table 5.3 -/

theorem eq_of_extract_whole {n : Nat} {f c : BitVec n} (fixed : f.extractLsb' 0 n = c) : c = f := fixed.symm.trans BitVec.extractLsb'_eq_self

theorem append_of_high {n m : Nat} {f : BitVec (n + m)} {c : BitVec n} (fixed : f.extractLsb' m n = c) : c ++ f.extractLsb' 0 m = f := by
  rw [← fixed, BitVec.extractLsb'_append_extractLsb'_eq_extractLsb' m.zero_add.symm, BitVec.extractLsb'_eq_self]

theorem append_of_low {n m : Nat} {f : BitVec (n + m)} {c : BitVec m} (fixed : f.extractLsb' 0 m = c) : f.extractLsb' m n ++ c = f := by
  rw [← fixed, BitVec.extractLsb'_append_extractLsb'_eq_extractLsb' m.zero_add.symm, BitVec.extractLsb'_eq_self]

theorem append_extract_three {n m k : Nat} (f : BitVec (n + m + k)) : f.extractLsb' (k + m) n ++ f.extractLsb' k m ++ f.extractLsb' 0 k = f := by
  rw [BitVec.extractLsb'_append_extractLsb'_eq_extractLsb' rfl, BitVec.extractLsb'_append_extractLsb'_eq_extractLsb' k.zero_add.symm, BitVec.extractLsb'_eq_self]

theorem append_three_of_high {n m k : Nat} {f : BitVec (n + m + k)} {c : BitVec n} (fixed : f.extractLsb' (k + m) n = c) : c ++ f.extractLsb' k m ++ f.extractLsb' 0 k = f := by
  rw [← fixed, append_extract_three]

theorem append_three_of_low {n m k : Nat} {f : BitVec (n + m + k)} {c : BitVec k} (fixed : f.extractLsb' 0 k = c) : f.extractLsb' (k + m) n ++ f.extractLsb' k m ++ c = f := by
  rw [← fixed, append_extract_three]

section
variable (x : FmtX) (fn : BitVec 8)

/-! #### Rows that are one value of fn each

Each instruction is laid out with the value of fn that it is listed for; every other value is an error. -/

theorem encodes_fnOf04 : Encodes (packX 0x04#7 fn x) (fnOf04 x fn) := by unfold fnOf04; split <;> trivial
theorem encodes_fnOf08 : Encodes (packX 0x08#7 fn x) (fnOf08 x fn) := by unfold fnOf08; split <;> trivial
theorem encodes_fnOf0A : Encodes (packX 0x0A#7 fn x) (fnOf0A x fn) := by unfold fnOf0A; split <;> trivial
theorem encodes_fnOf0B : Encodes (packX 0x0B#7 fn x) (fnOf0B x fn) := by unfold fnOf0B; split <;> trivial
theorem encodes_fnOf0C : Encodes (packX 0x0C#7 fn x) (fnOf0C x fn) := by unfold fnOf0C; split <;> trivial
theorem encodes_fnOf0F : Encodes (packX 0x0F#7 fn x) (fnOf0F x fn) := by unfold fnOf0F; split <;> trivial
theorem encodes_fnOf1A : Encodes (packX 0x1A#7 fn x) (fnOf1A x fn) := by unfold fnOf1A; split <;> trivial
theorem encodes_fnOf33 : Encodes (packX 0x33#7 fn x) (fnOf33 x fn) := by unfold fnOf33; split <;> trivial
theorem encodes_fnOf35 : Encodes (packX 0x35#7 fn x) (fnOf35 x fn) := by unfold fnOf35; split <;> trivial
theorem encodes_fnOf37 : Encodes (packX 0x37#7 fn x) (fnOf37 x fn) := by unfold fnOf37; split <;> trivial
theorem encodes_fnOf3F : Encodes (packX 0x3F#7 fn x) (fnOf3F x fn) := by unfold fnOf3F; split <;> trivial
theorem encodes_fnOf57 : Encodes (packX 0x57#7 fn x) (fnOf57 x fn) := by unfold fnOf57; split <;> trivial
theorem encodes_fnOf69 : Encodes (packX 0x69#7 fn x) (fnOf69 x fn) := by unfold fnOf69; split <;> trivial
theorem encodes_fnOf78 : Encodes (packX 0x78#7 fn x) (fnOf78 x fn) := by unfold fnOf78; split <;> trivial
theorem encodes_fnOf7B : Encodes (packX 0x7B#7 fn x) (fnOf7B x fn) := by unfold fnOf7B; split <;> trivial
theorem encodes_fnOf7C : Encodes (packX 0x7C#7 fn x) (fnOf7C x fn) := by unfold fnOf7C; split <;> trivial

/-! #### Rows whose operands are part of fn -/

theorem encodes_fnOf48 : Encodes (packX 0x48#7 fn x) (fnOf48 x fn) := ⟨rfl, congrArg (packX 0x48#7 · x) (append_extract_three (n := 3) (m := 3) (k := 2) fn)⟩

theorem encodes_fnOf0E : Encodes (packX 0x0E#7 fn x) (fnOf0E x fn) := .row append_of_high <| .row append_of_high trivial

theorem encodes_fnOf30 : Encodes (packX 0x30#7 fn x) (fnOf30 x fn) := .row (append_three_of_high (m := 1)) <| .row (append_three_of_high (m := 1)) <| .row append_of_high trivial

theorem encodes_fnOf34 : Encodes (packX 0x34#7 fn x) (fnOf34 x fn) := .row append_of_low <| .row append_of_low <| .row append_of_low trivial

theorem encodes_fnOf4B : Encodes (packX 0x4B#7 fn x) (fnOf4B x fn) := .row append_of_high trivial

theorem encodes_fnOf64 : Encodes (packX 0x64#7 fn x) (fnOf64 x fn) :=
  .row append_of_low <| .row (append_three_of_low (m := 3)) <| .row (append_three_of_low (m := 3)) <| .row eq_of_extract_whole trivial

theorem encodes_fnOf67 : Encodes (packX 0x67#7 fn x) (fnOf67 x fn) :=
  .row append_of_high <| .row eq_of_extract_whole <| .row append_of_high <| .row append_of_high <| .row eq_of_extract_whole <| .row eq_of_extract_whole trivial

theorem encodes_fnOf68 : Encodes (packX 0x68#7 fn x) (fnOf68 x fn) := by
  iterate 13 refine .row append_of_low ?_
  exact .row eq_of_extract_whole trivial

theorem encodes_fnOf6C : Encodes (packX 0x6C#7 fn x) (fnOf6C x fn) :=
  .row eq_of_extract_whole <| .row eq_of_extract_whole <| .row eq_of_extract_whole <| .row eq_of_extract_whole <| .row append_of_high <| .row append_of_high <| .row eq_of_extract_whole trivial

theorem encodes_fnOf75 : Encodes (packX 0x75#7 fn x) (fnOf75 x fn) := .row append_of_high trivial

theorem encodes_fnOf76 : Encodes (packX 0x76#7 fn x) (fnOf76 x fn) := .row append_of_high trivial

theorem encodes_fnOf77 : Encodes (packX 0x77#7 fn x) (fnOf77 x fn) := .row append_of_high trivial

theorem encodes_fnOf7D : Encodes (packX 0x7D#7 fn x) (fnOf7D x fn) := .row append_of_high <| .row eq_of_extract_whole <| .row eq_of_extract_whole trivial

end

/-! ### The word -/

/-- The format of each major, eight to a line (05 Tables 5.1, 5.2). -/
theorem encodes_decodeWord (w : Word) : Encodes w (decodeWord w) := by
  unfold decodeWord
  split
  exacts [
    /- 0x00 -/ .formatC, .formatC, .formatC, .formatX encodes_fnOf04, .formatJ, .formatS, .formatC,
    /- 0x08 -/ .formatX encodes_fnOf08, .formatL, .formatX encodes_fnOf0A, .formatX encodes_fnOf0B, .formatX encodes_fnOf0C, .formatL, .formatX encodes_fnOf0E, .formatX encodes_fnOf0F,
    /- 0x10 -/ .formatA, .formatA, .formatA, .formatA, .formatA, .formatA, .formatA, .formatA,
    /- 0x18 -/ .formatA, .formatA, .formatX encodes_fnOf1A, .formatA, .formatA, .formatA, .formatA, .formatA,
    /- 0x20 -/ .formatA, .formatA, .formatA, .formatA, .formatA, .formatP, .formatP, .formatQ,
    /- 0x28 -/ .formatL, .formatL, .formatA, .formatA, .formatA, .formatP, .formatA, .formatA,
    /- 0x30 -/ .formatX encodes_fnOf30, .formatA, .formatA, .formatX encodes_fnOf33, .formatX encodes_fnOf34, .formatX encodes_fnOf35, .formatA, .formatX encodes_fnOf37,
    /- 0x38 -/ .formatA, .formatA, .formatA, .formatA, .formatA, .formatA, .formatP, .formatX encodes_fnOf3F,
    /- 0x40 -/ .formatA, .formatA, .formatA, .formatA, .formatA, .formatA, .formatA, .formatA,
    /- 0x48 -/ .formatX encodes_fnOf48, .formatA, .formatA, .formatX encodes_fnOf4B, .formatA,
    /- 0x50 -/ .formatT, .formatT, .formatT, .formatT, .formatT, .formatT, .formatT, .formatX encodes_fnOf57,
    /- 0x58 -/ .formatT, .formatT, .formatM, .formatM, .formatM, .formatM, .formatM, .formatM,
    /- 0x60 -/ .formatM, .formatM, .formatM, .formatM, .formatX encodes_fnOf64, .formatM, .formatM, .formatX encodes_fnOf67,
    /- 0x68 -/ .formatX encodes_fnOf68, .formatX encodes_fnOf69, .formatX encodes_fnOf6C, .formatAT encodes_subOf6D, .formatAT encodes_subOf6E, .formatAT encodes_subOf6F,
    /- 0x70 -/ .formatAT encodes_subOf70, .formatAT encodes_subOf71, .formatAT encodes_subOf72, .formatAT encodes_subOf73, .formatAT encodes_subOf74,
      .formatX encodes_fnOf75, .formatX encodes_fnOf76, .formatX encodes_fnOf77,
    /- 0x78 -/ .formatX encodes_fnOf78, .formatL, .formatL, .formatX encodes_fnOf7B, .formatX encodes_fnOf7C, .formatX encodes_fnOf7D,
    /- none -/ trivial]

/-- Settles O2: every major's answer lays out the word it was read from, by its format. -/
theorem everyDecodedWordIsAnEncoding : Obligations.EveryDecodedWordIsAnEncoding := by
  unfold Obligations.EveryDecodedWordIsAnEncoding
  intro w i read
  have encodes := encodes_decodeWord w
  rwa [read] at encodes

end Sys2Proof.Laws
end

section
/-! A word that is no instruction and a fetch that faults, at the PC of the chosen fragment: what the step does with them, and the trap that its group takes (04 R90, R92, R93; 05 R123, R124;
06 R140; 16 R394). -/

namespace Sys2Proof.Machine

variable {s : State} {g : Group} {fi : Nat} {f f' : Frag} {x : Word} {t : Trap}

/-! ### The step -/

/-- The chosen fragment stands at its PC, where no block holds the fetch: its group runs with nothing to replay, and no trap of an earlier wait is due. -/
structure AtPc (s : State) (g : Group) (fi : Nat) (f : Frag) : Prop where
  cur : s.cur = some { gid := g.gid, fi := fi }
  found : findGroup s g.gid = some g
  running : g.status = .running
  fresh : g.replay = []
  here : g.frags[fi]? = some f
  due : dueTrap f = none
  free : fetchStalls s g f.pc = false

theorem AtPc.headDue_eq (h : AtPc s g fi f) : headDue s { gid := g.gid, fi := fi } = none := by
  simp [headDue, h.found, h.here, h.due]

theorem AtPc.headWord_eq (h : AtPc s g fi f) : headWord s { gid := g.gid, fi := fi } = some (fetchWord s g f.pc) := by
  simp [headWord, h.found, h.running, h.fresh, h.here]

theorem AtPc.headStalls_eq (h : AtPc s g fi f) : headStalls s { gid := g.gid, fi := fi } = false := by
  simp [headStalls, h.found, h.here, h.free]

theorem AtPc.step_eq_of_error (h : AtPc s g fi f) (fault : fetchWord s g f.pc = .error t) : step s = issueFetchFault t s := by
  simp [step, h.cur, stepWord, h.headDue_eq, h.headWord_eq, h.headStalls_eq, fault]

theorem AtPc.step_eq_of_undecodable (h : AtPc s g fi f) {e : DecodeError} (fetched : fetchWord s g f.pc = .ok x) (bad : decodeWord x = .error e) : step s = issueBad x s := by
  simp [step, h.cur, stepWord, h.headDue_eq, h.headWord_eq, h.headStalls_eq, fetched, bad]

/-- The context in which a fragment that executes no word takes its trap. -/
def trapCtx (s : State) (g : Group) (fi : Nat) (f : Frag) : Ctx :=
  { s := { s with cur := none, tried := untry s g }, g := g, fi := fi, f := f, bond := false, chain := false }

theorem AtPc.step_of_fetchFault (h : AtPc s g fi f) (held : runHeld g = false) (fault : fetchWord s g f.pc = .error t) :
    step s = .next (raiseTrap (trapCtx s g fi { f with run := 0, bonded := false }) t) := by
  simp [h.step_eq_of_error fault, issueFetchFault, h.cur, h.found, h.here, h.running, held, trapCtx]

theorem AtPc.step_of_badWord (h : AtPc s g fi f) {e : DecodeError} (fetched : fetchWord s g f.pc = .ok x) (bad : decodeWord x = .error e)
    (prep : prepared f (badWordB x && memberOk f) false 0 = f') (starts : runHeld g = false ∨ f'.run ≠ 0) :
    step s = .next (raiseTrap (trapCtx s g fi f') (wordTrap causeIllegal x)) := by
  have go : (f'.run == 0 && runHeld g) = false := by
    obtain held | member := starts
    · simp [held]
    · simp [member]
  simp [h.step_eq_of_undecodable fetched bad, issueBad, h.cur, h.found, h.fresh, h.here, h.running, prep, go, trapCtx]

/-! ### The fragment -/

theorem prepared_member {b : Bool} (member : (b && memberOk f) = true) (bond : Bool) (n : Nat) :
    prepared f b bond n = { f with wait := f.wait.passed, runId := if f.runId = 0 then n else f.runId } := if_pos member

theorem prepared_head {b : Bool} (head : (b && memberOk f) = false) (bond : Bool) (n : Nat) :
    prepared f b bond n = { f with wait := f.wait.passed, run := 0, head := f.pc, latches := noLatches, runId := if bond then n else 0, bonded := false } :=
  if_neg (Bool.eq_false_iff.mp head)

/-! ### The trap -/

/-- A step takes a trap in the group of fragment fi: its cause, value and lanes, the address that it resumes at and the place of the word in its run stand in the trap CSRs and GSTAT, the group
stops, and its registers and stack, every other group and memory are as they were (16 R394, R395). -/
def StepTraps (s : State) (g : Group) (fi : Nat) (f : Frag) (cause v pc : DWord) (place : Nat) : Prop :=
  ∃ t h, step s = .next t ∧ findGroup t g.gid = some h ∧ h.trapc = cause ∧ h.trapv = v ∧ h.trapm = f.mask.setWidth 64 ∧ h.trappc = pc ∧
    h.gstat = (g.gstat &&& ~~~0x700#64) ||| BitVec.ofNat 64 (256 * place) ∧ (∃ k, h.frags[fi]? = some k ∧ k.pc = pc ∧ k.mask = f.mask) ∧
    h.status = .stopping .trap ∧ h.v = g.v ∧ h.s = g.s ∧ h.p = g.p ∧ h.stack = g.stack ∧ Elsewhere s t g.gid

/-- RUNIX at place k of a run, as GSTAT holds it (16 R395). -/
theorem runix_eq {k : Nat} (inRun : k < 8) : BitVec.ofNat 64 (k % 8) <<< 8 = BitVec.ofNat 64 (256 * k) := by
  revert k; decide

theorem AtPc.stepTraps (h : AtPc s g fi f) {pc : DWord} {place : Nat} (run : step s = .next (raiseTrap (trapCtx s g fi f') t)) (at_ : runPos f' = (pc, place)) (inRun : place < 8)
    (mask : f'.mask = f.mask) (all : t.mask = none) (past : t.past = 0#64) : StepTraps s g fi f (t.cause.setWidth 64) t.val pc place := by
  obtain ⟨inside, -⟩ := List.getElem?_eq_some_iff.mp h.here
  have found : findGroup (trapCtx s g fi f').s g.gid = some g := h.found
  refine ⟨_, trapGroup g fi f' t, run, Laws.findGroup_setGroup_at rfl found, rfl, rfl, ?lanes, ?head, ?stat, ⟨_, List.getElem?_set_self inside, ?resume, mask⟩, rfl, rfl, rfl, rfl, rfl,
    fun a => rfl, fun k other => Laws.findGroup_setGroup_other other⟩
  case lanes => rw [← mask]; simp [trapGroup, all]
  case head => simp [trapGroup, at_]
  case stat => simp [trapGroup, at_, runix_eq inRun]
  case resume => simp [at_, past]

/-- Settles O6: the step raises the trap at the word, or at the head of the run whose member it is. -/
theorem wordsThatDoNotDecodeTrap : Obligations.WordsThatDoNotDecodeTrap := by
  unfold Obligations.WordsThatDoNotDecodeTrap
  intro s g fi f cur found running fresh here due free trapped
  have h : AtPc s g fi f := ⟨cur, found, running, fresh, here, due, free⟩
  refine ⟨fun x e fetched bad => ⟨fun held alone => ?head, fun b chain lo hi => ?member⟩, fun x clear => ?clear, fun e held fault => ?fetch⟩
  case head =>
    have noRun : (badWordB x && memberOk f) = false := by obtain clear | out := alone <;> simp [*]
    exact h.stepTraps (h.step_of_badWord fetched bad (prepared_head (by simp [noRun]) false 0) (.inl held)) rfl (by decide) rfl rfl rfl
  case member =>
    have inRun : (badWordB x && memberOk f) = true := by simp [b, memberOk, chain, lo, hi]
    have place : f.run ≠ 0 := Nat.one_le_iff_ne_zero.mp lo
    exact h.stepTraps (h.step_of_badWord fetched bad (prepared_member (by simpa using inRun) false 0) (.inr place)) (if_neg place) hi rfl rfl rfl
  case clear => rw [badWordB, clear, Bool.false_and]
  case fetch =>
    obtain ⟨val, all, past⟩ := fetchWord_error fault
    have taken := h.stepTraps (h.step_of_fetchFault held fault) rfl (by decide) rfl all past
    rwa [val] at taken

end Sys2Proof.Machine
end

section
/-! No instruction is refused, and a step answers a next state (05 R123-R125; logs 2, 49).

The only other outcome is the fault of a word that no fragment is issuing. A step runs words for a fragment that it has found in a running group; every other step of the package answers a state
whatever state it meets. -/

namespace Sys2Proof.Machine

variable {s : State} {u : Cur} {g : Group}

/-- An outcome that is a next state. -/
def HasNext (o : Host.Outcome State Fault Refusal) : Prop := ∃ t, o = .next t

/-! ### The events of the package -/

/-- An event whose guards do not hold answers the state as it was, and each way that one can go answers the state it leaves. -/
theorem hasNext_event (i : Instr) (event : i.isWord = false := by rfl) (s : State) : HasNext (exec i s) := by
  cases i with
  -- these act whatever they meet
  | launch | wakeWrite | hwbaseWrite | registerAGraph | unregister | destroyAVd | resetTheVf | dispatchTeam | imeasUpdate | tokenRefill | remoteWriteback | opent | opens | close
    | abort | couplerPortService | packageReset | peerAbort | recalibrationEnd => exact ⟨_, rfl⟩
  -- the others are guarded, or go one of several ways
  | registerWrite | hostApertureAccess | functionLevelReset | createAVd | unknownOperationCode | vfReset | stealRequest | stealHandled | stealReply | compactionMove | compactorRetry
    | steeringCap | egressRelease | surgeGrant | dieFailure | workBegins | workEnds | timerExpires | collapseStepDone | saveFaultInStep1 | wakeDone | issueChoice | sliceRequest
    | homePerform | replyArrives | remapResend | blockAtSlice | purgeAtSlice | shootdownComplete | pubSliceBlock | swapPoint | sliceMapChange | sweepPassStart | sweepPassEnd
    | drayUnitDone | drayComplete | drayRemainderResume | poolResponse | monitorWake | waitaTimeout | mmafRendezvous | wfiWake | ktimerExpires | groupStop | saveComplete
    | faultRecordPost | saveWriteFault | groupRestore | quantumExpires | watchdog | drainEnd | teamRetire | relayMessageArrives | couplerPutArrives | putAcknowledged | integrity
    | fieldInService | earlyServiceEnd | fieldRecalibration | hbmChannelService | smcFailover | managementPathWrite | computeDieRetirement =>
    simp only [exec,
      execRegisterWrite, execHostApertureAccess, execFunctionLevelReset, execCreateAVd, execUnknownOperationCode, execVfReset, execStealRequest, execStealHandled, execStealReply,
      execCompactionMove, execCompactorRetry, execSteeringCap, execEgressRelease, execSurgeGrant, execDieFailure, execWorkBegins, execWorkEnds, execTimerExpires,
      execCollapseStepDone, execSaveFaultInStep1, execWakeDone, execIssueChoice, execSliceRequest, execHomePerform, execReplyArrives, execRemapResend, execBlockAtSlice,
      execPurgeAtSlice, execShootdownComplete, execPubSliceBlock, execSwapPoint, execSliceMapChange, execSweepPassStart, execSweepPassEnd, execDrayUnitDone, execDrayComplete,
      execDrayRemainderResume, execPoolResponse, execMonitorWake, execWaitaTimeout, execMmafRendezvous, execWfiWake, execKtimerExpires, execGroupStop, execSaveComplete,
      execFaultRecordPost, execSaveWriteFault, execGroupRestore, execQuantumExpires, execWatchdog, execDrainEnd, execTeamRetire, execRelayMessageArrives, execCouplerPutArrives,
      execPutAcknowledged, execIntegrity, execFieldInService, execEarlyServiceEnd, execFieldRecalibration, execHbmChannelService, execSmcFailover, execManagementPathWrite,
      execComputeDieRetirement]
    repeat' split
    all_goals exact ⟨_, rfl⟩
  | _ => cases event

/-! ### What the package does of itself -/

/-- Each of the package's own acts answers a state. -/
def ActsGo (as : List Act) : Prop := ∀ a ∈ as, ∀ s, HasNext (a s)

/-- An act that is a change of the state by itself. -/
theorem hasNext_change (f : State → State) (s : State) : HasNext (.next (f s)) := ⟨_, rfl⟩

theorem actsGo_requestActs (s : State) : ActsGo (requestActs s) := by
  simp only [ActsGo, requestActs, List.forall_mem_append, List.forall_mem_flatMap, List.forall_mem_map, List.forall_mem_cons]
  refine ⟨⟨fun r _ => ?request, fun r _ => hasNext_event (.remoteWriteback ..)⟩, fun k _ => hasNext_change _⟩
  exact ⟨hasNext_event (.egressRelease ..), hasNext_event (.sliceRequest ..), hasNext_event (.homePerform ..), hasNext_event (.replyArrives ..), hasNext_event (.remapResend ..),
    hasNext_change _, nofun⟩

theorem actsGo_engineActs (s : State) : ActsGo (engineActs s) := by
  simp only [ActsGo, engineActs, List.forall_mem_append, List.forall_mem_flatMap, List.forall_mem_map, List.forall_mem_cons]
  refine ⟨⟨⟨fun o _ => ⟨fun p _ => ?slice, ?done⟩, fun d _ => ⟨fun p _ => hasNext_event (.pubSliceBlock ..), ?dray⟩⟩, fun m _ => ?monitor⟩, fun f _ => hasNext_change f⟩
  case slice => exact ⟨hasNext_event (.blockAtSlice ..), hasNext_event (.purgeAtSlice ..), nofun⟩
  case done => exact ⟨hasNext_event (.shootdownComplete ..), nofun⟩
  case dray => exact ⟨hasNext_event (.swapPoint ..), hasNext_event (.drayUnitDone ..), hasNext_event (.drayComplete _ none), nofun⟩
  case monitor => exact ⟨hasNext_event (.monitorWake ..), hasNext_event (.waitaTimeout ..), nofun⟩

theorem actsGo_groupActs (s : State) : ActsGo (groupActs s) := by
  simp only [ActsGo, groupActs, List.forall_mem_append, List.forall_mem_flatMap, List.forall_mem_map, List.forall_mem_cons]
  refine ⟨⟨⟨⟨fun g _ => ?group, fun t _ => ⟨?team, ?watchdog⟩⟩, fun f _ => hasNext_change f⟩, fun g _ => hasNext_change _⟩, fun n _ => hasNext_change _⟩
  case group =>
    exact ⟨hasNext_event (.mmafRendezvous ..), hasNext_event (.wfiWake ..), hasNext_event (.groupStop ..), hasNext_event (.saveComplete ..), hasNext_event (.saveWriteFault ..),
      hasNext_event (.groupRestore ..), hasNext_event (.drayRemainderResume ..), hasNext_event (.drainEnd ..), nofun⟩
  case team => exact ⟨hasNext_event (.quantumExpires ..), hasNext_event (.teamRetire ..), nofun⟩
  case watchdog =>
    split
    · exact List.forall_mem_singleton.mpr (hasNext_event (.watchdog ..))
    · nofun

theorem hasNext_compactionAct (site : Site) (m : Block × Nat) (s : State) : HasNext (compactionAct site m s) := by
  cases site with
  | cluster => exact hasNext_event (.compactionMove ..) rfl s
  | _ => exact ⟨s, rfl⟩

theorem actsGo_ite {c : Prop} [Decidable c] {as : List Act} (go : ActsGo as) : ActsGo (if c then as else []) := by
  split
  · exact go
  · nofun

theorem actsGo_vdActs (s : State) : ActsGo (vdActs s) := by
  simp only [ActsGo, vdActs, List.forall_mem_append, List.forall_mem_flatMap, List.forall_mem_map, List.forall_mem_cons]
  refine fun v _ => ⟨⟨⟨⟨⟨⟨⟨fun i _ => ⟨?inst, fun site _ m _ => hasNext_compactionAct site m⟩, fun l _ => hasNext_change _⟩, actsGo_ite ?mailbox⟩, fun x _ => ?steal⟩, ?dormancy⟩, ?service⟩,
    actsGo_ite ?reset⟩, ?held⟩
  case inst =>
    exact ⟨hasNext_event (.dispatchTeam ..), hasNext_event (.stealRequest ..), hasNext_event (.compactorRetry ..), hasNext_event (.steeringCap ..), hasNext_event (.tokenRefill ..),
      hasNext_event (.ktimerExpires ..), hasNext_event (.faultRecordPost ..), hasNext_event (.relayMessageArrives ..), nofun⟩
  case mailbox =>
    simp only [ActsGo, List.forall_mem_cons]
    exact ⟨hasNext_event (.registerAGraph ..), hasNext_event (.unregister ..), hasNext_event (.unknownOperationCode ..), nofun⟩
  case steal => exact ⟨hasNext_event (.stealHandled ..), hasNext_event (.stealReply ..), nofun⟩
  case dormancy =>
    exact ⟨hasNext_event (.workBegins ..), hasNext_event (.workEnds ..), hasNext_event (.timerExpires ..), hasNext_event (.collapseStepDone ..), hasNext_event (.saveFaultInStep1 ..),
      hasNext_event (.wakeDone ..), hasNext_event (.sweepPassStart ..), hasNext_event (.sweepPassEnd ..), nofun⟩
  case service => exact ⟨hasNext_event (.opent ..), hasNext_event (.close ..), hasNext_event (.abort ..), nofun⟩
  case reset => exact List.forall_mem_singleton.mpr (hasNext_event (.vfReset ..))
  case held => exact ⟨hasNext_change _, hasNext_change _, nofun⟩

theorem actsGo_fieldActs (s : State) : ActsGo (fieldActs s) := by
  simp only [ActsGo, fieldActs, List.forall_mem_append, List.forall_mem_map, List.forall_mem_singleton]
  exact ⟨⟨⟨fun f _ => hasNext_event (.surgeGrant ..), hasNext_change _⟩, fun d _ => hasNext_change _⟩, fun g _ => hasNext_event (.issueChoice ..)⟩

theorem actsGo_actsOf (s : State) : ActsGo (actsOf s) := by
  simp only [ActsGo, actsOf, List.forall_mem_append]
  exact ⟨⟨⟨⟨actsGo_requestActs s, actsGo_engineActs s⟩, actsGo_groupActs s⟩, actsGo_vdActs s⟩, actsGo_fieldActs s⟩

theorem hasNext_idle (s : State) : HasNext (idle s) := by
  unfold idle
  extract_lets acts
  split
  · next a chosen => exact actsGo_actsOf s a (List.mem_of_getElem? chosen) _
  · exact ⟨s, rfl⟩

/-! ### Words -/

/-- The meaning of a word is no refusal: where no fragment is issuing it is the fault that says so, else a next state (log 49). -/
theorem issue_ne_refused (i : Instr) (s : State) (body : Ctx → Except Trap State) (r : Refusal) : issue i s body ≠ .refused r := by
  unfold issue
  split
  · nofun
  split
  · nofun
  extract_lets cycle g fi
  split
  · nofun
  split
  · nofun
  · extract_lets
    split <;> nofun

/-- The fragment that is issuing has been found: its group runs, and holds the fragment unless it has a replay entry to issue (16 R400). -/
structure Issuer (s : State) (u : Cur) (g : Group) : Prop where
  cur : s.cur = some u
  found : findGroup s u.gid = some g
  running : g.status = .running
  here : g.replay = [] → ∃ f, g.frags[u.fi]? = some f

theorem Issuer.hasNext_issue (h : Issuer s u g) (i : Instr) (body : Ctx → Except Trap State) : HasNext (issue i s body) := by
  obtain ⟨cur, found, running, here⟩ := h
  cases replay : g.replay with
  | nil =>
    obtain ⟨f, here⟩ := here replay
    simp [issue, HasNext, cur, found, replay, here, running]
  | cons r l => simp [issue, HasNext, cur, found, replay, replayGroup, running]

theorem Issuer.hasNext_issueBad (h : Issuer s u g) (x : Word) : HasNext (issueBad x s) := by
  obtain ⟨cur, found, running, here⟩ := h
  cases replay : g.replay with
  | nil =>
    obtain ⟨f, here⟩ := here replay
    simp only [issueBad, cur, found, replay, List.isEmpty_nil, if_true, here, running, bne_self_eq_false, Bool.false_eq_true, if_false]
    split <;> exact ⟨_, rfl⟩
  | cons r l =>
    simp only [issueBad, cur, found, replay, replayGroup, List.isEmpty_cons, Bool.false_eq_true, if_false, List.getElem?_cons_zero, running, bne_self_eq_false]
    split <;> exact ⟨_, rfl⟩

theorem Issuer.hasNext_issueFetchFault (h : Issuer s u g) (noReplay : g.replay = []) (t : Trap) : HasNext (issueFetchFault t s) := by
  obtain ⟨f, here⟩ := h.here noReplay
  simp only [issueFetchFault, h.cur, h.found, here, h.running, bne_self_eq_false, Bool.false_eq_true, if_false]
  split <;> exact ⟨_, rfl⟩

theorem Issuer.hasNext_issueDue (h : Issuer s u g) (noReplay : g.replay = []) (t : Trap) : HasNext (issueDue t s) := by
  obtain ⟨f, here⟩ := h.here noReplay
  simp only [issueDue, h.cur, h.found, here]
  split <;> exact ⟨_, rfl⟩

theorem issuer_of_headWord {w : Except Trap Word} (cur : s.cur = some u) (head : headWord s u = some w) : ∃ g, Issuer s u g ∧ (g.replay = [] ∨ ∃ x, w = .ok x) := by
  unfold headWord at head
  split at head
  · cases head
  next g found =>
  split at head
  · cases head
  next running =>
  have running : g.status = .running := by simpa using running
  split at head
  next r l _ replay =>
    exact ⟨g, ⟨cur, found, running, fun none => absurd (none.symm.trans replay) nofun⟩, .inr ⟨_, (Option.some.inj head).symm⟩⟩
  next f replay here => exact ⟨g, ⟨cur, found, running, fun _ => ⟨f, here⟩⟩, .inl replay⟩
  · cases head

theorem issuer_of_headDue {t : Trap} (cur : s.cur = some u) (due : headDue s u = some t) : ∃ g, Issuer s u g ∧ g.replay = [] := by
  obtain ⟨g, found, due⟩ := Option.bind_eq_some_iff.mp due
  split at due
  next both =>
    obtain ⟨running, replay⟩ := Bool.and_eq_true_iff.mp both
    obtain ⟨f, here, -⟩ := Option.bind_eq_some_iff.mp due
    exact ⟨g, ⟨cur, found, eq_of_beq running, fun _ => ⟨f, here⟩⟩, List.isEmpty_iff.mp replay⟩
  · cases due

/-! ### The step -/

theorem hasNext_stepWord (cur : s.cur = some u) : HasNext (stepWord s u) := by
  unfold stepWord
  split
  next t due =>
    obtain ⟨g, issuer, noReplay⟩ := issuer_of_headDue cur due
    exact issuer.hasNext_issueDue noReplay t
  split
  · exact ⟨_, rfl⟩
  next w head =>
  obtain ⟨g, issuer, fetches⟩ := issuer_of_headWord cur head
  split
  · exact ⟨_, rfl⟩
  split
  next t =>
    obtain noReplay | ⟨x, fetched⟩ := fetches
    · exact issuer.hasNext_issueFetchFault noReplay t
    · cases fetched
  next x =>
    have read := Laws.encodes_decodeWord x
    split
    next i decoded =>
      rw [decoded] at read
      obtain ⟨body, runs⟩ := exec_eq_issue read.1
      rw [runs]
      exact issuer.hasNext_issue i body
    · exact issuer.hasNext_issueBad x

/-- Settles O59: an event always answers a state; a word, which the decoder gives only for instructions, does so for the fragment that the step has found. -/
theorem everyStepAnswersAState : Obligations.EveryStepAnswersAState := by
  unfold Obligations.EveryStepAnswersAState
  refine ⟨fun i s r => ?refused, fun s asked => ?step⟩
  case refused =>
    cases word : i.isWord with
    | true =>
      obtain ⟨body, runs⟩ := exec_eq_issue word
      rw [runs]
      exact issue_ne_refused i s body r
    | false =>
      obtain ⟨t, next⟩ := hasNext_event i word s
      rw [next]
      nofun
  case step =>
    show HasNext (step s)
    unfold step
    split
    next u cur => exact hasNext_stepWord cur
    split
    next i l agenda => exact hasNext_event i (asked i (by rw [agenda]; rfl)) _
    · exact hasNext_idle s

end Sys2Proof.Machine
end

section
/-! Words that wait, words that trap, and what a step makes of the word it fetches (04 R91, R93; 05 R123-R125; 06 R127, R140, R141, R155; 12 R298; 16 R400, R418). -/

namespace Sys2Proof.Machine

variable {i : Instr} {s : State} {c : Ctx} {g : Group} {f : Frag} {u : Cur} {body : Ctx → Except Trap State}

/-! ### The step -/

/-- A fragment has been chosen and its group runs. -/
structure Chose (s : State) (u : Cur) (g : Group) (f : Frag) : Prop where
  cur : s.cur = some u
  found : findGroup s u.gid = some g
  running : g.status = .running
  here : g.frags[u.fi]? = some f

theorem Chose.step_eq (h : Chose s u g f) : step s = stepWord s u := by rw [step, h.cur]

theorem Chose.headDue_eq (h : Chose s u g f) (fresh : g.replay = []) : headDue s u = dueTrap f := by
  simp [headDue, h.found, h.running, h.here, fresh]

theorem Chose.headWord_eq (h : Chose s u g f) (fresh : g.replay = []) : headWord s u = some (fetchWord s g f.pc) := by
  simp [headWord, h.found, h.running, h.here, fresh]

theorem Chose.headStalls_eq (h : Chose s u g f) (fresh : g.replay = []) : headStalls s u = fetchStalls s g f.pc := by
  simp [headStalls, h.found, h.here, fresh]

/-- With nothing to replay and no trap due, the fetch at the PC decides, once no block holds it (06 R140; 12 R298). -/
theorem Chose.step_of_stall (h : Chose s u g f) (fresh : g.replay = []) (due : dueTrap f = none) (held : fetchStalls s g f.pc = true) :
    step s = .next { s with cur := none, tried := u :: s.tried } := by
  simp [h.step_eq, stepWord, h.headDue_eq fresh, due, h.headWord_eq fresh, h.headStalls_eq fresh, held]

theorem Chose.step_of_fault (h : Chose s u g f) (fresh : g.replay = []) (due : dueTrap f = none) (free : fetchStalls s g f.pc = false) {t : Trap} (fault : fetchWord s g f.pc = .error t) :
    step s = issueFetchFault t s := by
  simp [h.step_eq, stepWord, h.headDue_eq fresh, due, h.headWord_eq fresh, h.headStalls_eq fresh, free, fault]

theorem Chose.step_of_fetch (h : Chose s u g f) (fresh : g.replay = []) (due : dueTrap f = none) (free : fetchStalls s g f.pc = false) {x : Word} (fetched : fetchWord s g f.pc = .ok x) :
    (∀ i, decodeWord x = .ok i → step s = exec i s) ∧ ∀ e, decodeWord x = .error e → step s = issueBad x s := by
  constructor
  · intro i word
    simp [h.step_eq, stepWord, h.headDue_eq fresh, due, h.headWord_eq fresh, h.headStalls_eq fresh, free, fetched, word]
  · intro e bad
    simp [h.step_eq, stepWord, h.headDue_eq fresh, due, h.headWord_eq fresh, h.headStalls_eq fresh, free, fetched, bad]

/-- A replay entry goes before the word at the PC, and its word is not fetched again (16 R400). -/
theorem Chose.step_of_replay (h : Chose s u g f) {r : Replay} {l : List Replay} (replay : g.replay = r :: l) (word : decodeWord r.word = .ok i) : step s = exec i s := by
  have due : headDue s u = none := by simp [headDue, h.found, replay]
  have next : headWord s u = some (.ok r.word) := by simp [headWord, h.found, h.running, replay]
  have free : headStalls s u = false := by simp [headStalls, h.found, replay]
  simp [h.step_eq, stepWord, due, next, free, word]

/-- Settles O4: with nothing to replay the fetch decides what the step does, and a replay entry or a trap that is due goes before it. -/
theorem aStepRunsTheDecodedInstruction : Obligations.AStepRunsTheDecodedInstruction := by
  unfold Obligations.AStepRunsTheDecodedInstruction
  refine ⟨fun s u g f cur found running fresh here due => ?fetch, fun s u g f e cur found running fresh here due => ?due, fun s u g r l f i cur found running replay here word => ?replay,
    fun s i l none asked => ?event⟩
  case fetch =>
    have h : Chose s u g f := ⟨cur, found, running, here⟩
    exact ⟨fun free => ⟨fun x i fetched => (h.step_of_fetch fresh due free fetched).1 i, fun x e fetched => (h.step_of_fetch fresh due free fetched).2 e,
      fun t => h.step_of_fault fresh due free⟩, h.step_of_stall fresh due⟩
  case due =>
    have h : Chose s u g f := ⟨cur, found, running, here⟩
    rw [h.step_eq, stepWord, h.headDue_eq fresh, due]
  case replay => exact Chose.step_of_replay ⟨cur, found, running, here⟩ replay word
  case event => rw [step, none, asked]

/-! ### Waiting -/

/-- A word that cannot be considered, or that no trap takes but that is not ready, leaves the state in which its fragment counts as tried (04 R93; 06 R127, R141). -/
theorem issue_of_waits (h : Chosen i s c) (waits : startHeld s c.g c.f i = true ∨ (firstTrap s c.g c.f i = none ∧ notReady s c.g c.fi c.f c.cycle i = true)) :
    issue i s body = .next { s with cur := none, tried := { gid := c.g.gid, fi := c.fi } :: s.tried } := by
  obtain ⟨cur, found, running, fresh, f, here, ctx⟩ := h
  have frag : c.f = issuing i s c.g f := by rw [ctx]; rfl
  have cycle : c.cycle = cycleOf s (siteDie c.g.site) := by rw [ctx]; rfl
  rw [frag, cycle] at waits
  simp only [issuing, bonds] at waits
  unfold issue
  simp only [cur, found, fresh, here, running, List.isEmpty_nil, if_true, Bool.true_and, bne_self_eq_false, Bool.false_eq_true, if_false]
  obtain held | ⟨passes, unready⟩ := waits
  · rw [held]; rfl
  · rw [passes, unready]; simp

/-- Settles O26: every word meets the same conditions before its own effect, and each of the two holds leaves the same state. -/
theorem wordsThatAreNotReadyWait : Obligations.WordsThatAreNotReadyWait := by
  unfold Obligations.WordsThatAreNotReadyWait
  intro i s c word chosen waits
  obtain ⟨body, runs⟩ := exec_eq_issue word
  rw [runs, issue_of_waits chosen waits]

/-! ### The word's own effect -/

/-- A word that issues answers the state of its body. -/
theorem next_of_body (h : Issues i s c) (run : exec i s = issue i s body) {t : State} (ok : body c = .ok t) : exec i s = .next t := by
  rw [run, Laws.issue_of_issues h, finishIssue, ok]

/-- A word that issues takes the trap of its body. -/
theorem takesTrap_of_body (h : Issues i s c) (run : exec i s = issue i s body) {t : Trap} (error : body c = .error t) :
    TakesTrap i s c t.cause t.val (t.mask.getD c.f.mask) t.past :=
  takesTrap_of_raiseTrap h.toChosen (by rw [run, Laws.issue_of_issues h, finishIssue, error])

/-- A word above a value of 8 bits, in 64 (06 R155). -/
theorem append_setWidth_eq_ofNat (a : Word) (k : BitVec 8) : a ++ k.setWidth 32 = BitVec.ofNat 64 (a.toNat * 2 ^ 32 + k.toNat) := by
  have low : (k.setWidth 32).toNat = k.toNat := BitVec.toNat_setWidth_of_le (by decide)
  apply BitVec.eq_of_toNat_eq
  rw [BitVec.toNat_append, low, ← Nat.shiftLeft_add_eq_or_of_lt (by omega), Nat.shiftLeft_eq, BitVec.toNat_ofNat, Nat.mod_eq_of_lt (by omega)]

/-- The codes of TRAP, below 128, and of BKPT, from 128 on (06 R155). -/
theorem toNat_trapCode (k : BitVec 7) : (0#1 ++ k).toNat = k.toNat ∧ (1#1 ++ k).toNat = 128 + k.toNat := by
  revert k; decide

theorem trapi_val (a : BitVec 7) (k : BitVec 8) : (trapi c k a).val = BitVec.ofNat 64 ((op32 c a (leader c.f.mask)).toNat * 2 ^ 32 + k.toNat) := append_setWidth_eq_ofNat _ k

/-- Settles O22: the words do nothing but raise the trap, whose value is laid out as R155 and R418 say. -/
theorem trapWordsTakeTheirTraps : Obligations.TrapWordsTakeTheirTraps := by
  unfold Obligations.TrapWordsTakeTheirTraps
  refine ⟨fun w k s c h => ?trap, fun w k s c h => ?bkpt, fun w s c h => ?syscall⟩
  case trap =>
    have taken := takesTrap_of_body (i := .trap w k) h rfl rfl
    rwa [trapi_val, (toNat_trapCode k).1] at taken
  case bkpt =>
    have taken := takesTrap_of_body (i := .bkpt w k) h rfl rfl
    rwa [trapi_val, (toNat_trapCode k).2, ← Nat.add_assoc] at taken
  case syscall => exact takesTrap_of_body (i := .syscall w) h rfl rfl

/-! ### Printed words -/

theorem decodeWord_of_encode {x : Word} (laid : encode i = x) (word : i.isWord = true) : decodeWord x = .ok i :=
  laid ▸ Laws.decodeWord_encode word

/-- Settles O3: each printed word is what the encoder lays out for its assembly, which reads back. -/
theorem printedWordsDecode : Obligations.PrintedWordsDecode := by
  unfold Obligations.PrintedWordsDecode
  and_intros <;> exact decodeWord_of_encode rfl rfl

end Sys2Proof.Machine
end

section
/-! The lanes of a mask, and masks of lanes (00 R11; 04 R80). -/

namespace Sys2Proof.Machine

variable {m : Mask} {p : Nat → Bool} {l : Nat}

theorem mem_lanesOf : l ∈ lanesOf m ↔ l < 32 ∧ m.getLsbD l = true := by simp [lanesOf]

/-- The leader is the first of the lanes. -/
theorem leader_eq_headD (m : Mask) : leader m = (lanesOf m).headD 0 := by
  rw [leader, lanesOf, List.headD_eq_head?_getD, List.head?_filter]

theorem lanesOf_eq_nil : lanesOf m = [] ↔ m = 0#32 := by
  refine ⟨fun none => BitVec.eq_of_getLsbD_eq fun l inside => ?_, fun zero => by simp [zero, lanesOf]⟩
  have out : l ∉ lanesOf m := by simp [none]
  simpa [mem_lanesOf, inside] using out

/-- The mask of the lanes below n of which p holds, as a number: the sum of their bits. -/
theorem toNat_mask_range (p : Nat → Bool) {n : Nat} (inside : n ≤ 32) :
    let x := (List.range n).foldl (fun m l => if p l then m ||| BitVec.twoPow 32 l else m) 0#32
    x.toNat = ((List.range n).filter p).foldl (fun k l => k + 2 ^ l) 0 ∧ x.toNat < 2 ^ n := by
  induction n with
  | zero => simp
  | succ n ih =>
    obtain ⟨sum, below⟩ := ih (by omega)
    simp only [List.range_succ, List.foldl_append, List.filter_append, List.foldl_cons, List.foldl_nil]
    generalize (List.range n).foldl (fun m l => if p l then m ||| BitVec.twoPow 32 l else m) 0#32 = x at sum below
    rw [← sum, Nat.pow_succ]
    cases on : p n with
    | false => simp [on]; omega
    | true =>
      have bit : (BitVec.twoPow 32 n).toNat = 2 ^ n := by
        rw [BitVec.toNat_twoPow, Nat.mod_eq_of_lt (Nat.pow_lt_pow_right (by decide) (by omega))]
      have added : (x ||| BitVec.twoPow 32 n).toNat = x.toNat + 2 ^ n := by
        rw [BitVec.toNat_or, bit, Nat.or_comm, Nat.add_comm]
        simpa using (Nat.two_pow_add_eq_or_of_lt below 1).symm
      simp [on, added]; omega

theorem toNat_maskOf (p : Nat → Bool) : (maskOf p).toNat = ((List.range 32).filter p).foldl (fun k l => k + 2 ^ l) 0 := (toNat_mask_range p (Nat.le_refl 32)).1

theorem getLsbD_maskOf (p : Nat → Bool) (l : Nat) : (maskOf p).getLsbD l = (decide (l < 32) && p l) := by
  have lanes : ∀ (ls : List Nat) (x : Mask), (ls.foldl (fun m l => if p l then m ||| BitVec.twoPow 32 l else m) x).getLsbD l = (x.getLsbD l || (decide (l < 32) && decide (l ∈ ls) && p l)) := by
    intro ls
    induction ls with
    | nil => simp
    | cons k ks ih =>
      intro x
      rw [List.foldl_cons, ih]
      by_cases here : l = k
      · subst here; cases p l <;> simp +contextual
      · have : k ≠ l := Ne.symm here
        cases p k <;> simp [here, this]
  rw [maskOf, lanes]
  by_cases inside : l < 32 <;> simp [inside]

theorem getLsbD_activeOf (m : Mask) (p : Nat → Bool) (l : Nat) : (activeOf m p).getLsbD l = (m.getLsbD l && p l) := by
  rw [activeOf, getLsbD_maskOf]
  by_cases inside : l < 32
  · simp [inside]
  · simp [inside, BitVec.getLsbD_of_ge m l (Nat.le_of_not_lt inside)]

theorem lanesOf_activeOf (m : Mask) (p : Nat → Bool) : lanesOf (activeOf m p) = (lanesOf m).filter p := by
  simp only [lanesOf, getLsbD_activeOf, List.filter_filter, Bool.and_comm]

theorem activeOf_eq_zero : activeOf m p = 0#32 ↔ ∀ l ∈ lanesOf m, p l = false := by
  rw [← lanesOf_eq_nil, lanesOf_activeOf]
  simp

/-- A mask as a number: the sum of the bits of its lanes. -/
theorem setWidth_activeOf (m : Mask) (p : Nat → Bool) : (activeOf m p).setWidth 64 = BitVec.ofNat 64 (((lanesOf m).filter p).foldl (fun k l => k + 2 ^ l) 0) := by
  have sum := toNat_maskOf (fun l => m.getLsbD l && p l)
  rw [lanesOf, List.filter_filter, ← BitVec.ofNat_toNat, activeOf, sum]
  simp only [Bool.and_comm]

end Sys2Proof.Machine
end

section
/-! What a word that delivers a result and falls through leaves in its destination and in its newest latch (04 R78-R81, R87, R88). -/

namespace Sys2Proof.Machine

variable {i : Instr} {s : State} {c : Ctx} {n uni : Bool} {d : BitVec 7} {k l : Nat} {f : Nat → DWord}

theorem writeDst_eq (c : Ctx) (n : Bool) (d : BitVec 7) (k : Nat) (f : Nat → DWord) :
    writeDst c n d k f = { c with g := { c.g with v := (writeDst c n d k f).g.v, s := (writeDst c n d k f).g.s } } := by
  unfold writeDst sset vset
  repeat' split
  all_goals rfl

/-- A vector destination in an active lane. -/
theorem vget_writeDst (write : n = false) (vec : d.toNat < 96) (inside : l < 32) (on : c.f.mask.getLsbD l = true) :
    vget (writeDst c n d k f).g (regOf c.g d) l = (f l).setWidth 32 ∧ (k = 2 → vget (writeDst c n d k f).g (regOf c.g d + 1) l = (f l).extractLsb' 32 32) := by
  simp only [writeDst, write, vec, Bool.false_eq_true, if_false, if_true]
  constructor
  · split <;> simp [Laws.vget_vset, inside, on]
  · intro pair
    simp [pair, Laws.vget_vset, inside, on]

/-- A uniform destination but s0. -/
theorem sget_writeDst (write : n = false) (unif : 96 < d.toNat) : sget (writeDst c n d k f).g (d.toNat - 96) = f (leader c.f.mask) := by
  have scalar : ¬ d.toNat < 96 := by omega
  have nonzero : d.toNat - 96 ≠ 0 := by omega
  simp [writeDst, write, scalar, Laws.sget_sset, nonzero]

/-- A word that writes its destination, pushes a latch and falls through delivers its result, when the latch holds it. -/
theorem delivers_finish (h : Issues i s c) {k' : Latch}
    (holds : if uni || (!n && decide (96 ≤ d.toNat)) then k' = .uni (f (leader c.f.mask)) else ∀ l, l < 32 → c.f.mask.getLsbD l = true → k'.at l = f l) :
    ∃ h, findGroup ((writeDst c n d k f).push k').finish c.g.gid = some h ∧ Delivers c h uni n d k f := by
  obtain ⟨f0, here, -⟩ := Laws.frag_of_chosen h.toChosen
  obtain ⟨inside, -⟩ := List.getElem?_eq_some_iff.mp here
  have ctx := writeDst_eq c n d k f
  have found : findGroup (writeDst c n d k f).s c.g.gid = some c.g := by rw [ctx]; exact findGroup_chosen h.toChosen
  have gid : (writeDst c n d k f).g.gid = c.g.gid := by rw [ctx]
  have frags : (writeDst c n d k f).g.frags = c.g.frags := by rw [ctx]
  have fi : (writeDst c n d k f).fi = c.fi := by rw [ctx]
  have frag : (writeDst c n d k f).f = c.f := by rw [ctx]
  refine ⟨_, Laws.findGroup_setGroup_at gid found, ?_⟩
  exact {
    vec := fun write vec l inside on => vget_writeDst write vec inside on
    unif := fun write unif => sget_writeDst write unif
    zero := rfl
    silent := fun write => by subst write; exact ⟨rfl, rfl⟩
    latch := by
      refine ⟨_, by simp only [Ctx.group, Ctx.push, setAt, frags, fi]; exact List.getElem?_set_self inside, by simp [frag], ?_⟩
      simpa [latchOf, Ctx.push] using holds }

/-- A word whose effect is one value delivers it. -/
theorem givesOne_of_putUni {x : Ctx → DWord} (run : ∀ s, exec i s = plain i s (fun c => putUni c n d 1 (x c))) : GivesOne i n d x := by
  intro s c h
  obtain ⟨g, found, delivers⟩ := delivers_finish (uni := true) (n := n) (d := d) (k := 1) (f := fun _ => x c) (k' := .uni (x c)) h (by simp)
  exact ⟨_, g, by rw [run, Laws.plain_of_issues h]; rfl, found, delivers⟩

/-- The same where the value is stated for a fragment with an active lane alone. -/
theorem givesActive_of_putUni {x y : Ctx → DWord} (run : ∀ s, exec i s = plain i s (fun c => putUni c n d 1 (x c))) (value : ∀ c, c.f.mask ≠ 0#32 → x c = y c) : GivesActive i n d y := by
  intro s c active h
  rw [← value c active]
  exact givesOne_of_putUni run s c h

end Sys2Proof.Machine
end

section
/-! Votes, and the integer reductions: the fixed tree over the active lanes gives what combining them one after the other gives (06 R153, Table 6.6; 07 R175, Table 7.6). -/

namespace Sys2Proof.Machine

variable {m : Mask} {a : Nat → Word} {w : FmtX}

/-! ### Votes -/

theorem lanesOf_ballot (m : Mask) (a : Nat → Word) : lanesOf (ballot m a) = (lanesOf m).filter (fun l => decide (a l ≠ 0#32)) := by
  rw [ballot, lanesOf_activeOf]
  simp only [bne, beq_eq_decide, ne_eq, decide_not]

theorem length_lanesOf_le (m : Mask) : (lanesOf m).length ≤ 32 := by
  simpa [lanesOf] using List.length_filter_le (fun l => m.getLsbD l) (List.range 32)

theorem voteAny_eq (m : Mask) (a : Nat → Word) :
    (if ballot m a = 0#32 then 0#32 else 1#32).setWidth 64 = if ((lanesOf m).filter (fun l => decide (a l ≠ 0#32))).isEmpty then 0#64 else 1#64 := by
  rw [← lanesOf_ballot]
  by_cases none : ballot m a = 0#32
  · simp [none, lanesOf_eq_nil.mpr]
  · simp [none, lanesOf_eq_nil]

/-- Every active lane votes when the ballot is the whole mask. -/
theorem ballot_eq_self : ballot m a = m ↔ ∀ l ∈ lanesOf m, a l ≠ 0#32 := by
  constructor
  · intro whole l on
    rw [← whole, lanesOf_ballot] at on
    simpa using (List.mem_filter.mp on).2
  · intro all
    refine BitVec.eq_of_getLsbD_eq fun l inside => ?_
    rw [ballot, getLsbD_activeOf]
    cases on : m.getLsbD l with
    | false => rfl
    | true => simpa using all l (mem_lanesOf.mpr ⟨inside, on⟩)

theorem voteAll_eq (m : Mask) (a : Nat → Word) : (if ballot m a = m then 1#32 else 0#32).setWidth 64 = if (lanesOf m).all (fun l => decide (a l ≠ 0#32)) then 1#64 else 0#64 := by
  by_cases all : ballot m a = m
  · simpa [all] using ballot_eq_self.mp all
  · rw [if_neg all, if_neg (fun every => all (ballot_eq_self.mpr (by simpa using every)))]
    rfl

theorem voteBallot_eq (m : Mask) (a : Nat → Word) :
    (ballot m a).setWidth 64 = BitVec.ofNat 64 (((lanesOf m).filter (fun l => decide (a l ≠ 0#32))).foldl (fun k l => k + 2 ^ l) 0) := by
  rw [ballot, setWidth_activeOf]
  simp only [bne, beq_eq_decide, ne_eq, decide_not]

theorem voteCount_eq (m : Mask) (a : Nat → Word) : (popcOp (ballot m a)).setWidth 64 = BitVec.ofNat 64 ((lanesOf m).filter (fun l => decide (a l ≠ 0#32))).length := by
  rw [← lanesOf_ballot]
  exact BitVec.setWidth_ofNat_of_le_of_lt (by decide) (Nat.lt_of_le_of_lt (length_lanesOf_le _) (by decide))

theorem voteFirst_eq (m : Mask) (a : Nat → Word) : (ctzOp (ballot m a)).setWidth 64 = BitVec.ofNat 64 (((lanesOf m).filter (fun l => decide (a l ≠ 0#32))).headD 32) := by
  have first : ctzOp (ballot m a) = BitVec.ofNat 32 ((lanesOf (ballot m a)).headD 32) := by rw [ctzOp, lanesOf, List.headD_eq_head?_getD, List.head?_filter]
  rw [first, ← lanesOf_ballot]
  refine BitVec.setWidth_ofNat_of_le_of_lt (by decide) (Nat.lt_of_le_of_lt (m := 32) ?_ (by decide))
  cases lanes : lanesOf (ballot m a) with
  | nil => simp
  | cons l ls => exact Nat.le_of_lt (mem_lanesOf.mp (by rw [lanes]; exact List.mem_cons_self)).1

theorem voteUniq_eq (m : Mask) (a : Nat → Word) :
    (activeOf m (fun l => (lanesOf m).all (fun j => decide (l ≤ j) || a j != a l))).setWidth 64 =
      BitVec.ofNat 64 (((lanesOf m).filter (fun l => (lanesOf m).all (fun j => decide (l ≤ j ∨ a j ≠ a l)))).foldl (fun k l => k + 2 ^ l) 0) := by
  rw [setWidth_activeOf]
  simp only [bne, beq_eq_decide, ne_eq, Bool.decide_or, decide_not]

/-- A vote delivers what its function makes of the active lanes. -/
theorem givesOne_vote {i : Instr} {f : Mask → (Nat → Word) → Word} {y : Ctx → DWord} (run : ∀ s, exec i s = plain i s (vote w f))
    (value : ∀ c : Ctx, (f c.f.mask (op32 c w.a)).setWidth 64 = y c) : GivesOne i w.n w.d y := by
  rw [← funext value]
  exact givesOne_of_putUni run

/-! ### The tree -/

section tree

variable {α : Type} {f : α → α → α}

/-- What lanes l to l + n - 1 hold, combined one after the other; nothing where none of them holds a value. -/
def combined (f : α → α → α) (x : Nat → Option α) (l n : Nat) : Option α := ((List.range' l n).map x).foldl (Option.merge f) none

theorem combined_one (x : Nat → Option α) (l : Nat) : combined f x l 1 = x l := by
  cases h : x l <;> simp [combined, h]

theorem combined_add [Std.Associative f] (x : Nat → Option α) (l n k : Nat) : combined f x l (n + k) = Option.merge f (combined f x l n) (combined f x (l + n) k) := by
  rw [combined, ← List.range'_append_1, List.map_append, List.foldl_append]
  change List.foldl _ (combined f x l n) _ = _
  conv_lhs => rw [← Option.merge_none_right (f := f) (a := combined f x l n)]
  exact List.foldl_assoc

/-- A step of the tree joins neighbouring blocks of w lanes (07 R175). -/
theorem getD_treeStep [Std.Associative f] {x : Nat → Option α} {b : Nat} {xs : List (Option α)} (positive : 0 < b)
    (blocks : ∀ l, l + b ≤ 32 → l % b = 0 → xs.getD l none = combined f x l b) (l : Nat) (inside : l + 2 * b ≤ 32) (start : l % (2 * b) = 0) :
    (treeStep f b xs).getD l none = combined f x l (2 * b) := by
  have left : l % b = 0 := Nat.mod_eq_zero_of_dvd ((Nat.dvd_mul_left b 2).trans (Nat.dvd_of_mod_eq_zero start))
  have right : (l + b) % b = 0 := by rw [Nat.add_mod_right, left]
  have joined : (treeStep f b xs).getD l none = Option.merge f (xs.getD l none) (xs.getD (l + b) none) := by
    simp only [treeStep, List.getD_eq_getElem?_getD, List.getElem?_map, List.getElem?_range (show l < 32 by omega), Option.map_some, Option.getD_some, start, if_true]
    split <;> simp [*]
  rw [joined, blocks l (by omega) left, blocks (l + b) (by omega) right, Nat.two_mul, combined_add]

theorem treeReduce_eq_combined [Std.Associative f] (m : Mask) (a : Nat → α) : treeReduce f m a = combined f (fun l => if m.getLsbD l then some (a l) else none) 0 32 := by
  have leaves : ∀ l, l + 1 ≤ 32 → l % 1 = 0 →
      ((List.range 32).map (fun l => if m.getLsbD l then some (a l) else none)).getD l none = combined f (fun l => if m.getLsbD l then some (a l) else none) l 1 := by
    intro l inside _
    rw [combined_one, List.getD_eq_getElem?_getD, List.getElem?_map, List.getElem?_range inside]
    rfl
  have pairs := getD_treeStep (by decide) leaves
  have fours := getD_treeStep (by decide) pairs
  have eights := getD_treeStep (by decide) fours
  have halves := getD_treeStep (by decide) eights
  exact getD_treeStep (by decide) halves 0 (by decide) rfl

/-- Lanes that hold nothing do not count. -/
theorem foldl_merge_filter (m : Mask) (a : Nat → α) (ls : List Nat) (y : Option α) :
    (ls.map (fun l => if m.getLsbD l then some (a l) else none)).foldl (Option.merge f) y = ((ls.filter (fun l => m.getLsbD l)).map (fun l => some (a l))).foldl (Option.merge f) y := by
  induction ls generalizing y with
  | nil => rfl
  | cons l ls ih =>
    cases on : m.getLsbD l with
    | true => simpa [on] using ih _
    | false => simpa [on] using ih _

/-- The tree over the active lanes, when there are any, gives what combining their values in order gives, from a start that a value absorbs. -/
theorem treeReduce_eq_foldl [Std.Associative f] {z : α} (start : ∀ v, f z v = v) (active : m ≠ 0#32) (a : Nat → α) : treeReduce f m a = some (((lanesOf m).map a).foldl f z) := by
  rw [treeReduce_eq_combined, combined, foldl_merge_filter, ← List.range_eq_range']
  change ((lanesOf m).map _).foldl _ _ = _
  cases lanes : lanesOf m with
  | nil => exact absurd (lanesOf_eq_nil.mp lanes) active
  | cons l ls =>
    rw [List.map_cons, List.foldl_cons, List.map_cons, List.foldl_cons, start, List.foldl_map, List.foldl_map]
    exact List.foldl_hom some fun _ _ => rfl

end tree

/-! ### Reductions -/

/-- The value of a reduction, seen through a map under which its operation is one whose order does not matter. -/
theorem treeReduce_through {β : Type} {into : Word → β} {op : Word → Word → Word} {op' : β → β → β} [assoc : Std.Associative op'] (inj : ∀ p q, into p = into q → p = q)
    (hom : ∀ p q, into (op p q) = op' (into p) (into q)) {z : Word} (start : ∀ v, op' (into z) (into v) = into v) (active : m ≠ 0#32) (a : Nat → Word) :
    into ((treeReduce op m a).getD 0#32) = ((lanesOf m).map (fun l => into (a l))).foldl op' (into z) := by
  have same : Std.Associative op := ⟨fun p q r => inj _ _ (by rw [hom, hom, hom, hom, assoc.assoc])⟩
  rw [treeReduce_eq_foldl (fun v => inj _ _ (by rw [hom, start])) active, Option.getD_some, List.foldl_map, List.foldl_map]
  exact (List.foldl_hom into fun _ _ => (hom _ _).symm).symm

theorem toInt_iminOp (p q : Word) : (iminOp p q).toInt = min p.toInt q.toInt := by
  unfold iminOp
  split
  · exact (min_eq_left (BitVec.sle_iff_toInt_le.mp ‹_›)).symm
  · exact (min_eq_right (Int.le_of_lt (by simpa [BitVec.sle_iff_toInt_le] using ‹¬ p.sle q = true›))).symm

theorem toInt_imaxOp (p q : Word) : (imaxOp p q).toInt = max p.toInt q.toInt := by
  unfold imaxOp
  split
  · exact (max_eq_right (BitVec.sle_iff_toInt_le.mp ‹_›)).symm
  · exact (max_eq_left (Int.le_of_lt (by simpa [BitVec.sle_iff_toInt_le] using ‹¬ p.sle q = true›))).symm

theorem toNat_iminuOp (p q : Word) : (iminuOp p q).toNat = min p.toNat q.toNat := by
  unfold iminuOp
  split
  · exact (min_eq_left (BitVec.ule_iff_toNat_le.mp ‹_›)).symm
  · exact (min_eq_right (Nat.le_of_lt (by simpa [BitVec.ule_iff_toNat_le] using ‹¬ p.ule q = true›))).symm

theorem toNat_imaxuOp (p q : Word) : (imaxuOp p q).toNat = max p.toNat q.toNat := by
  unfold imaxuOp
  split
  · exact (max_eq_right (BitVec.ule_iff_toNat_le.mp ‹_›)).symm
  · exact (max_eq_left (Nat.le_of_lt (by simpa [BitVec.ule_iff_toNat_le] using ‹¬ p.ule q = true›))).symm

/-- A bitwise or modular operation, on the words themselves. -/
theorem gred_word {op : Word → Word → Word} [assoc : Std.Associative op] {z : Word} (start : ∀ v, op z v = v) (active : m ≠ 0#32) (a : Nat → Word) :
    ((treeReduce op m a).getD 0#32).setWidth 64 = (((lanesOf m).map a).foldl op z).setWidth 64 := by
  rw [treeReduce_eq_foldl start active]
  rfl

/-- A signed order, on the integers. -/
theorem gred_signed {op : Word → Word → Word} {op' : Int → Int → Int} [Std.Associative op'] (hom : ∀ p q, (op p q).toInt = op' p.toInt q.toInt) {z : Word}
    (start : ∀ v : Word, op' z.toInt v.toInt = v.toInt) (active : m ≠ 0#32) (a : Nat → Word) :
    ((treeReduce op m a).getD 0#32).setWidth 64 = (BitVec.ofInt 32 (((lanesOf m).map (fun l => (a l).toInt)).foldl op' z.toInt)).setWidth 64 := by
  rw [← treeReduce_through (fun _ _ => BitVec.toInt_inj.mp) hom start active, BitVec.ofInt_toInt]

/-- An unsigned order, on the numbers. -/
theorem gred_unsigned {op : Word → Word → Word} {op' : Nat → Nat → Nat} [Std.Associative op'] (hom : ∀ p q, (op p q).toNat = op' p.toNat q.toNat) {z : Word}
    (start : ∀ v : Word, op' z.toNat v.toNat = v.toNat) (active : m ≠ 0#32) (a : Nat → Word) :
    ((treeReduce op m a).getD 0#32).setWidth 64 = BitVec.ofNat 64 (((lanesOf m).map (fun l => (a l).toNat)).foldl op' z.toNat) := by
  rw [← treeReduce_through (fun _ _ => BitVec.eq_of_toNat_eq) hom start active, BitVec.ofNat_toNat]

/-- A reduction delivers what its tree gives. -/
theorem givesActive_gred {i : Instr} {op : Word → Word → Word} {y : Ctx → DWord} (run : ∀ s, exec i s = plain i s (gredInt w op))
    (value : ∀ c : Ctx, c.f.mask ≠ 0#32 → ((treeReduce op c.f.mask (op32 c w.a)).getD 0#32).setWidth 64 = y c) : GivesActive i w.n w.d y :=
  givesActive_of_putUni run value

/-- Settles O14: each word delivers one value, which for a vote is a fact about the ballot, and for a reduction is the tree's, equal to a fold over the active lanes. -/
theorem voteAndReductionResults : Obligations.VoteAndReductionResults := by
  unfold Obligations.VoteAndReductionResults
  intro w on set sum
  refine ⟨?any, ?all, ?ballot, ?count, ?first, ?uniq, ?add, ?and, ?or, ?xor, ?min, ?max, ?minu, ?maxu⟩
  case any => exact givesOne_vote (fun _ => rfl) fun c => voteAny_eq ..
  case all => exact givesOne_vote (fun _ => rfl) fun c => voteAll_eq ..
  case ballot => exact givesOne_vote (fun _ => rfl) fun c => voteBallot_eq ..
  case count => exact givesOne_vote (fun _ => rfl) fun c => voteCount_eq ..
  case first => exact givesOne_vote (fun _ => rfl) fun c => voteFirst_eq ..
  case uniq => exact givesOne_vote (fun _ => rfl) fun c => voteUniq_eq ..
  case add => exact givesActive_gred (fun _ => rfl) fun c active => gred_word BitVec.zero_add active _
  case and => exact givesActive_gred (fun _ => rfl) fun c active => gred_word (fun v => BitVec.allOnes_and) active _
  case or => exact givesActive_gred (fun _ => rfl) fun c active => gred_word (fun v => BitVec.zero_or) active _
  case xor => exact givesActive_gred (fun _ => rfl) fun c active => gred_word (fun v => BitVec.zero_xor) active _
  case min => exact givesActive_gred (fun _ => rfl) fun c active => gred_signed toInt_iminOp (z := 0x7FFFFFFF#32) (fun v => min_eq_right (Int.le_sub_one_of_lt v.toInt_lt)) active _
  case max => exact givesActive_gred (fun _ => rfl) fun c active => gred_signed toInt_imaxOp (z := 0x80000000#32) (fun v => max_eq_right v.le_toInt) active _
  case minu => exact givesActive_gred (fun _ => rfl) fun c active => gred_unsigned toNat_iminuOp (z := 0xFFFFFFFF#32) (fun v => min_eq_right (Nat.le_sub_one_of_lt v.isLt)) active _
  case maxu => exact givesActive_gred (fun _ => rfl) fun c active => gred_unsigned toNat_imaxuOp (z := 0#32) (fun v => max_eq_right (Nat.zero_le _)) active _

end Sys2Proof.Machine
end

section
/-! Control words that move their fragment as a whole, or the register window (06 R144, R145, R150, R152, R154). -/

namespace Sys2Proof.Machine

variable {i : Instr} {s : State} {c : Ctx} {g h : Group} {body : Ctx → Except Trap State}

/-! ### Addresses -/

/-- An offset in words, sign-extended and scaled. -/
theorem signExtend_shiftLeft_two {n : Nat} (x : BitVec n) : x.signExtend 64 <<< 2 = BitVec.ofInt 64 (4 * x.toInt) := by
  rw [BitVec.shiftLeft_eq_mul_twoPow, BitVec.ofInt_mul, BitVec.mul_comm]
  rfl

theorem targetC_eq (c : Ctx) (w : FmtC) : targetC c w = c.f.pc + BitVec.ofInt 64 (4 * w.off.toInt) := by rw [targetC, signExtend_shiftLeft_two]

theorem extractLsb'_two_eq_zero (x : DWord) : x.extractLsb' 0 2 = 0#2 ↔ x.toNat % 4 = 0 := by
  rw [← BitVec.toNat_inj, BitVec.extractLsb'_toNat, Nat.shiftRight_zero]
  rfl

/-! ### Groups put back -/

theorem inside_of_chosen (h : Chosen i s c) : c.fi < c.g.frags.length := by
  obtain ⟨f, here, -⟩ := Laws.frag_of_chosen h
  exact (List.getElem?_eq_some_iff.mp here).1

/-- A word whose effect is another record of its group leaves memory and every other group alone. -/
theorem puts_of_body (issues : Issues i s c) (run : exec i s = issue i s body) (ok : body c = .ok (setGroup c.s h)) (same : h.gid = c.g.gid) :
    ∃ t, exec i s = .next t ∧ findGroup t c.g.gid = some h ∧ Elsewhere s t c.g.gid := by
  have only := onlyGroup_setGroup issues.toChosen same
  exact ⟨_, next_of_body issues run ok, Laws.findGroup_setGroup_at same (findGroup_chosen issues.toChosen), only.memory, only.others⟩

/-- Of group g, h has other fragments, another divergence stack, or both. -/
def Redirects (g h : Group) : Prop := h = { g with frags := h.frags, stack := h.stack, lastFrag := h.lastFrag }

theorem Redirects.gid (r : Redirects g h) : h.gid = g.gid := by rw [r]

theorem Redirects.sameRegs (r : Redirects c.g h) : SameRegs c h := by
  rw [r]
  exact ⟨rfl, rfl, rfl, rfl, rfl, rfl, rfl, rfl, rfl, rfl, rfl⟩

/-- The group whose issuing fragment has moved as a whole. -/
def movedTo (c : Ctx) (pc : DWord) : Group :=
  { c.g with lastFrag := c.fi, frags := setAt c.g.frags c.fi { c.f with pc := pc, chain := false, bonded := false, run := 0, age := c.cycle } }

theorem jumpTo_eq (c : Ctx) (pc : DWord) : jumpTo c pc = setGroup c.s (movedTo c pc) := rfl

theorem redirects_movedTo (c : Ctx) (pc : DWord) : Redirects c.g (movedTo c pc) := rfl

theorem frag_movedTo (inside : c.fi < c.g.frags.length) (pc : DWord) : ∃ f, (movedTo c pc).frags[c.fi]? = some f ∧ f.pc = pc ∧ f.mask = c.f.mask :=
  ⟨_, List.getElem?_set_self inside, rfl, rfl⟩

/-- A jump of the whole fragment changes no register. -/
theorem jumps_of_body (issues : Issues i s c) {pc : DWord} (run : exec i s = issue i s body) (ok : body c = .ok (jumpTo c pc)) :
    ∃ t h, exec i s = .next t ∧ findGroup t c.g.gid = some h ∧ SameRegs c h ∧ Elsewhere s t c.g.gid ∧ ∃ f, h.frags[c.fi]? = some f ∧ f.pc = pc ∧ f.mask = c.f.mask := by
  obtain ⟨t, next, found, elsewhere⟩ := puts_of_body issues run (ok.trans (by rw [jumpTo_eq])) (redirects_movedTo c pc).gid
  exact ⟨t, _, next, found, (redirects_movedTo c pc).sameRegs, elsewhere, frag_movedTo (inside_of_chosen issues.toChosen) pc⟩

/-- Settles O19: each word puts back its group with the fragment at its target, and RET and WINB raise their traps before that. -/
theorem jumpsMoveTheFragment : Obligations.JumpsMoveTheFragment := by
  unfold Obligations.JumpsMoveTheFragment
  refine ⟨fun w s c h => ?bra, fun w s c h => ?call, fun w s c h aligned => ?ret, fun w s c h odd => ?retOdd, fun w s c h => ?yield, fun w s c h below => ?winb, fun w s c h above => ?winbOver⟩
  case bra =>
    rw [← targetC_eq]
    exact jumps_of_body h rfl rfl
  case call =>
    have inside : c.fi < (sset c.g 23 (nextPc c)).frags.length := by rw [sset_frags]; exact inside_of_chosen h.toChosen
    obtain ⟨t, next, found, elsewhere⟩ := puts_of_body h (h := movedTo { c with g := sset c.g 23 (nextPc c) } (targetC c w)) rfl rfl (sset_gid _ _ _)
    refine ⟨t, _, next, found, Laws.sget_sset _ _ _ _, fun k other => ?_, Laws.sset_v _ _ _, Laws.sset_p _ _ _, sset_gstat _ _ _, elsewhere, ?_⟩
    · exact (Laws.sget_sset _ _ _ _).trans (if_neg fun same => other same.1)
    · rw [← targetC_eq]
      exact frag_movedTo (c := { c with g := sset c.g 23 (nextPc c) }) inside _
  case ret => exact jumps_of_body h rfl (if_neg (by simpa [extractLsb'_two_eq_zero] using aligned))
  case retOdd => exact takesTrap_of_body h rfl (if_pos (by simpa [extractLsb'_two_eq_zero] using odd))
  case yield =>
    have inside := inside_of_chosen h.toChosen
    obtain ⟨t, next, found, elsewhere⟩ := puts_of_body h rfl rfl rfl
    exact ⟨t, _, next, found, Redirects.sameRegs rfl, ⟨_, List.getElem?_set_self inside, rfl, rfl⟩, elsewhere, _, List.getElem?_set_self inside, rfl⟩
  case winb =>
    have inside := inside_of_chosen h.toChosen
    obtain ⟨t, next, found, elsewhere⟩ := puts_of_body h rfl (if_neg (Nat.not_le.mpr below)) rfl
    exact ⟨t, _, next, found, ⟨rfl, rfl, rfl, rfl, rfl, rfl, rfl, rfl, rfl, rfl, rfl⟩, ⟨_, List.getElem?_set_self inside, rfl, rfl⟩, elsewhere, rfl⟩
  case winbOver => exact takesTrap_of_body h rfl (if_pos above)

end Sys2Proof.Machine
end

section
/-! Lanes that part: the parts of a fragment by target, and the groups that they leave (06 R134, R135, R141). -/

namespace Sys2Proof.Machine

variable {m : Mask} {t : Nat → DWord} {g : Group} {fi cycle : Nat} {f : Frag} {c : Ctx} {e : StackEntry} {st : List StackEntry}

/-! ### Parts -/

/-- The parts of the lanes m by their targets t: none, one where all go the leader's way, two, or the leader's and at least two others. -/
inductive Split (m : Mask) (t : Nat → DWord) : List (Mask × DWord) → Prop
  | none : lanesOf m = [] → Split m t []
  | agree (a : Mask) : (∀ l ∈ lanesOf m, t l = t (leader m)) → Split m t [(a, t (leader m))]
  | two (a b : Mask) (u : DWord) : u ≠ t (leader m) → (∃ l ∈ lanesOf m, t l = u) → (∀ l ∈ lanesOf m, (t l = t (leader m) ∧ a.getLsbD l = true) ∨ (t l = u ∧ b.getLsbD l = true)) →
      Split m t [(a, t (leader m)), (b, u)]
  | more (a : Mask) (p q : Mask × DWord) (ps : List (Mask × DWord)) : (∀ l ∈ lanesOf m, a.getLsbD l = decide (t l = t (leader m))) →
      (∃ j ∈ lanesOf m, ∃ k ∈ lanesOf m, t j ≠ t (leader m) ∧ t k ≠ t (leader m) ∧ t k ≠ t j) → Split m t ((a, t (leader m)) :: p :: q :: ps)

theorem getLsbD_part {ls : List Nat} {u : DWord} {l : Nat} (lanes : ∀ j ∈ ls, j < 32) (on : l ∈ ls) : (maskOf (fun j => ls.contains j && t j == u)).getLsbD l = decide (t l = u) := by
  rw [getLsbD_maskOf, decide_eq_true (lanes l on), List.contains_iff_mem.mpr on, beq_eq_decide]
  rfl

/-- What is left for the parts behind that of lane l. -/
theorem mem_filter_apart {ls : List Nat} {l j : Nat} : j ∈ ls.filter (fun j => t j != t l) ↔ j ∈ l :: ls ∧ t j ≠ t l := by
  rw [List.mem_filter, bne_iff_ne, List.mem_cons]
  refine and_congr_left fun apart => ?_
  exact (or_iff_right fun same => apart (by rw [same])).symm

theorem split_partsOf (m : Mask) (t : Nat → DWord) : Split m t (partsOf m t) := by
  have inside : ∀ l ∈ lanesOf m, l < 32 := fun l on => (mem_lanesOf.mp on).1
  have lead := leader_eq_headD m
  rw [partsOf]
  cases lanes : lanesOf m with
  | nil => exact .none lanes
  | cons l ls =>
    rw [lanes] at inside lead
    obtain rfl : leader m = l := lead
    have first (j) (on : j ∈ leader m :: ls) := getLsbD_part (t := t) (u := t (leader m)) inside on
    have behind (j) := mem_filter_apart (t := t) (ls := ls) (l := leader m) (j := j)
    rw [partsFrom]
    cases rest : ls.filter (fun j => t j != t (leader m)) with
    | nil =>
      refine .agree _ fun j on => by_contra fun apart => ?_
      simpa [rest] using (behind j).mpr ⟨lanes ▸ on, apart⟩
    | cons k ks =>
      rw [rest] at behind
      have kept (j) (on : j ∈ k :: ks) : j < 32 := inside j ((behind j).mp on).1
      have later (j) := mem_filter_apart (t := t) (ls := ks) (l := k) (j := j)
      obtain ⟨kOn, kApart⟩ := (behind k).mp List.mem_cons_self
      rw [partsFrom]
      cases third : ks.filter (fun j => t j != t k) with
      | nil =>
        refine .two _ _ _ kApart ⟨k, lanes ▸ kOn, rfl⟩ fun j on => ?_
        rw [lanes] at on
        by_cases same : t j = t (leader m)
        · exact .inl ⟨same, (first j on).trans (decide_eq_true same)⟩
        · have second := (behind j).mpr ⟨on, same⟩
          have goes : t j = t k := by_contra fun apart => by simpa [third] using (later j).mpr ⟨second, apart⟩
          exact .inr ⟨goes, (getLsbD_part kept second).trans (decide_eq_true goes)⟩
      | cons x xs =>
        obtain ⟨xSecond, differ⟩ := (later x).mp (third ▸ List.mem_cons_self)
        obtain ⟨xOn, xApart⟩ := (behind x).mp xSecond
        rw [partsFrom]
        exact .more _ _ _ _ (fun j on => first j (lanes ▸ on)) ⟨k, lanes ▸ kOn, x, lanes ▸ xOn, kApart, xApart, differ⟩

/-! ### Pushing an entry -/

theorem pushEntry_full (full : 16 ≤ g.stack.length) : pushEntry g fi e = none := if_pos full

/-- What stands below a new entry: the other live fragment, if any, is parked in the entry that was on top (06 R135). -/
def belowEntry (g : Group) (fi : Nat) : List StackEntry :=
  match otherFrags g fi, g.stack with
  | o :: _, u :: rest => parkIn u o .arm :: rest
  | _, st => st

theorem pushEntry_room (room : g.stack.length < 16) : pushEntry g fi e = some { g with stack := e :: belowEntry g fi } := by
  refine (if_neg (Nat.not_le.mpr room)).trans ?_
  unfold belowEntry
  cases otherFrags g fi with
  | nil => rfl
  | cons o os => cases g.stack <;> rfl

theorem length_belowEntry (g : Group) (fi : Nat) : (belowEntry g fi).length = g.stack.length := by
  unfold belowEntry
  cases otherFrags g fi with
  | nil => rfl
  | cons o os => cases g.stack <;> rfl

theorem belowEntry_alone (alone : otherFrags g fi = []) : belowEntry g fi = g.stack := by rw [belowEntry, alone]

theorem belowEntry_parks {o : Frag} {os : List Frag} {u : StackEntry} (other : otherFrags g fi = o :: os) (stack : g.stack = u :: st) : belowEntry g fi = parkIn u o .arm :: st := by
  rw [belowEntry, other, stack]

/-! ### Diverging -/

/-- The lanes m hold every unarrived lane of the top entry e, above st (06 R134). -/
def InPlace (g : Group) (m : Mask) (e : StackEntry) (st : List StackEntry) : Prop := g.stack = e :: st ∧ m = e.rmask &&& ~~~e.arr

/-- The group whose issuing fragment has become parts, with the remainder in the top entry where there are more than two (06 R134). -/
def partInto (f : Frag) (cycle : Nat) (parts : List (Mask × DWord)) (h : Group) : Group :=
  match parts with
  | [a, b] => { h with frags := [partFrag f cycle a, partFrag f cycle b], lastFrag := 0 }
  | a :: _ =>
    { h with
      frags := [partFrag f cycle a]
      lastFrag := 0
      stack := match h.stack with
        | e :: st => { e with ppc := f.pc, pmask := f.mask &&& ~~~a.1, pmode := .remainder, pboard := f.board, pwait := .no } :: st
        | [] => [] }
  | [] => h

theorem diverge_inPlace (held : InPlace g f.mask e st) (parts : List (Mask × DWord)) : diverge g fi f cycle parts = some (partInto f cycle parts g) := by
  obtain ⟨stack, same⟩ := held
  rw [diverge, stack]
  simp only [decide_eq_true same, if_true, Option.map_some]
  rcases parts with _ | ⟨a, _ | ⟨b, _ | ⟨d, ps⟩⟩⟩ <;> rfl

theorem diverge_apart (apart : ¬ ∃ e st, InPlace g f.mask e st) : ∃ e, ∀ parts, diverge g fi f cycle parts = (pushEntry g fi e).map (partInto f cycle parts) := by
  cases stack : g.stack with
  | nil => exact ⟨newEntry .implicit none 0#64 f.mask, fun parts => by
      rw [diverge, stack]
      simp only [Bool.false_eq_true, if_false]
      rcases parts with _ | ⟨a, _ | ⟨b, _ | ⟨d, ps⟩⟩⟩ <;> rfl⟩
  | cons e st =>
    refine ⟨newEntry .implicit e.rpc 0#64 f.mask, fun parts => ?_⟩
    rw [diverge, stack]
    have differs : f.mask ≠ e.rmask &&& ~~~e.arr := fun same => apart ⟨e, st, stack, same⟩
    simp only [decide_eq_false differs, Bool.false_eq_true, if_false]
    rcases parts with _ | ⟨a, _ | ⟨b, _ | ⟨d, ps⟩⟩⟩ <;> rfl

theorem diverge_full (apart : ¬ ∃ e st, InPlace g f.mask e st) (full : 16 ≤ g.stack.length) (parts : List (Mask × DWord)) : diverge g fi f cycle parts = none := by
  obtain ⟨e, pushes⟩ := diverge_apart (fi := fi) (cycle := cycle) apart
  rw [pushes, pushEntry_full full]
  rfl

/-- A fragment that holds the unarrived lanes of the top entry needs no new one, and any other diverges where there is room for one (06 R134). -/
theorem diverge_room (room : (∃ e st, InPlace g f.mask e st) ∨ g.stack.length < 16) :
    ∃ e st, (∀ e' st', InPlace g f.mask e' st' → e' = e ∧ st' = st) ∧ ∀ parts, diverge g fi f cycle parts = some (partInto f cycle parts { g with stack := e :: st }) := by
  by_cases held : ∃ e st, InPlace g f.mask e st
  · obtain ⟨e, st, held⟩ := held
    exact ⟨e, st, fun e' st' held' => List.cons.inj (held'.1.symm.trans held.1), fun parts => by rw [diverge_inPlace held, ← held.1]⟩
  · obtain ⟨e, pushes⟩ := diverge_apart (fi := fi) (cycle := cycle) held
    exact ⟨e, _, fun e' st' held' => absurd ⟨e', st', held'⟩ held, fun parts => by rw [pushes, pushEntry_room (room.resolve_left held)]; rfl⟩

/-! ### Sending the lanes to their targets -/

/-- The top entry that a fragment in place diverges in stays what it is, but for the remainder that it takes (06 R134). -/
def KeepsTop (g h : Group) (m : Mask) : Prop :=
  ∀ e st, InPlace g m e st → ∃ e', h.stack = e' :: st ∧ e'.kind = e.kind ∧ e'.origin = e.origin ∧ e'.rpc = e.rpc ∧ e'.rmask = e.rmask ∧ e'.arr = e.arr

theorem spread_full (cannot : ¬ CanGo c t) : spread c t = .error (divstack 0) := by
  obtain ⟨part, apart, full⟩ : ¬ _ ∧ ¬ _ ∧ ¬ _ := by simpa only [CanGo, not_or] using cannot
  have none (parts) : diverge c.group c.fi c.f c.cycle parts = none := diverge_full (g := c.group) apart (Nat.not_lt.mp full) parts
  have split := split_partsOf c.f.mask t
  rw [spread]
  generalize partsOf c.f.mask t = parts at split
  cases split with
  | none no => exact absurd (fun l inside on => absurd (mem_lanesOf.mpr ⟨inside, on⟩) (by simp [no])) part
  | agree a same => exact absurd (fun l inside on => same l (mem_lanesOf.mpr ⟨inside, on⟩)) part
  | two a b u => simp only [none]
  | more a p q ps => simp only [none]

/-- Lane l stands in a live fragment at its target. -/
def StandsAt (h : Group) (t : Nat → DWord) (l : Nat) : Prop := ∃ f, f ∈ h.frags ∧ f.mask.getLsbD l = true ∧ f.pc = t l

/-- Lane l is parked on top of the stack to execute its word again (06 R134). -/
def Parks (c : Ctx) (h : Group) (l : Nat) : Prop := ∃ e, h.stack.head? = some e ∧ e.pmask.getLsbD l = true ∧ e.ppc = c.f.pc ∧ e.pmode = .remainder

theorem goesTo_of_lanes (same : ∀ l ∈ lanesOf c.f.mask, t l = t (leader c.f.mask) → StandsAt g t l)
    (pair : ∀ l ∈ lanesOf c.f.mask, t l ≠ t (leader c.f.mask) → (∀ m ∈ lanesOf c.f.mask, t m = t (leader c.f.mask) ∨ t m = t l) → StandsAt g t l)
    (more : ∀ l ∈ lanesOf c.f.mask, ∀ m ∈ lanesOf c.f.mask, t l ≠ t (leader c.f.mask) → t m ≠ t (leader c.f.mask) → t m ≠ t l → Parks c g l) : GoesTo c g t := fun l lane =>
  have on := mem_lanesOf.mpr lane
  ⟨same l on, fun apart all => pair l on apart fun m onM => all m (mem_lanesOf.mp onM), fun m laneM => more l on m (mem_lanesOf.mpr laneM)⟩

theorem goesTo_of_agree (same : ∀ l ∈ lanesOf c.f.mask, t l = t (leader c.f.mask)) (here : ∃ f, f ∈ g.frags ∧ f.mask = c.f.mask ∧ f.pc = t (leader c.f.mask)) : GoesTo c g t := by
  obtain ⟨f, live, mask, pc⟩ := here
  have stand (l) (on : l ∈ lanesOf c.f.mask) : StandsAt g t l := ⟨f, live, by rw [mask]; exact (mem_lanesOf.mp on).2, by rw [pc, same l on]⟩
  exact goesTo_of_lanes (fun l on _ => stand l on) (fun l on _ _ => stand l on) fun l on _ _ apart => absurd (same l on) apart

theorem goesTo_of_two {a b : Mask} {u : DWord} (parts : ∀ l ∈ lanesOf c.f.mask, (t l = t (leader c.f.mask) ∧ a.getLsbD l = true) ∨ (t l = u ∧ b.getLsbD l = true))
    (frags : g.frags = [partFrag f cycle (a, t (leader c.f.mask)), partFrag f cycle (b, u)]) : GoesTo c g t := by
  have stand (l) (on : l ∈ lanesOf c.f.mask) : StandsAt g t l := by
    obtain ⟨goes, isIn⟩ | ⟨goes, isIn⟩ := parts l on
    · exact ⟨partFrag f cycle (a, t (leader c.f.mask)), by simp [frags], isIn, goes.symm⟩
    · exact ⟨partFrag f cycle (b, u), by simp [frags], isIn, goes.symm⟩
  have second (l) (on : l ∈ lanesOf c.f.mask) (apart : t l ≠ t (leader c.f.mask)) : t l = u := ((parts l on).resolve_left fun leads => apart leads.1).1
  exact goesTo_of_lanes (fun l on _ => stand l on) (fun l on _ _ => stand l on)
    fun l on m onM apart apartM differs => absurd ((second m onM apartM).trans (second l on apart).symm) differs

theorem goesTo_of_more {a : Mask} (first : ∀ l ∈ lanesOf c.f.mask, a.getLsbD l = decide (t l = t (leader c.f.mask)))
    (others : ∃ j ∈ lanesOf c.f.mask, ∃ k ∈ lanesOf c.f.mask, t j ≠ t (leader c.f.mask) ∧ t k ≠ t (leader c.f.mask) ∧ t k ≠ t j)
    (frags : g.frags = [partFrag f cycle (a, t (leader c.f.mask))])
    (stack : ∃ e, g.stack.head? = some e ∧ e.ppc = c.f.pc ∧ e.pmask = c.f.mask &&& ~~~a ∧ e.pmode = .remainder) : GoesTo c g t := by
  obtain ⟨j, jOn, k, kOn, jApart, kApart, differ⟩ := others
  obtain ⟨e, top, ppc, pmask, pmode⟩ := stack
  refine goesTo_of_lanes (fun l on goes => ?leads) (fun l on apart pair => ?pair) fun l on m onM apart _ _ => ?parked
  case leads => exact ⟨partFrag f cycle (a, t (leader c.f.mask)), by simp [frags], (first l on).trans (decide_eq_true goes), goes.symm⟩
  case pair =>
    have goes (m) (onM : m ∈ lanesOf c.f.mask) (away : t m ≠ t (leader c.f.mask)) : t m = t l := (pair m onM).resolve_left away
    exact absurd ((goes k kOn kApart).trans (goes j jOn jApart).symm) differ
  case parked =>
    have out : a.getLsbD l = false := (first l on).trans (decide_eq_false apart)
    obtain ⟨inside, lane⟩ := mem_lanesOf.mp on
    exact ⟨e, top, by rw [pmask, BitVec.getLsbD_and, BitVec.getLsbD_not, lane, out]; simp [inside], ppc, pmode⟩

/-- With room the lanes go to their targets; nothing else of the group changes (06 R134). -/
theorem spread_room (inside : c.fi < c.g.frags.length) (can : CanGo c t) :
    ∃ h, spread c t = .ok (setGroup c.s h) ∧ Redirects c.g h ∧ GoesTo c h t ∧ KeepsTop c.g h c.f.mask := by
  have moved (pc) (same : ∀ l ∈ lanesOf c.f.mask, t l = t (leader c.f.mask)) (goes : lanesOf c.f.mask = [] ∨ pc = t (leader c.f.mask)) :
      Redirects c.g (movedTo c pc) ∧ GoesTo c (movedTo c pc) t ∧ KeepsTop c.g (movedTo c pc) c.f.mask := by
    refine ⟨rfl, ?_, fun e st held => ⟨e, held.1, rfl, rfl, rfl, rfl, rfl⟩⟩
    obtain none | goes := goes
    · exact goesTo_of_lanes (by simp [none]) (by simp [none]) (by simp [none])
    · obtain ⟨f, here, at_, mask⟩ := frag_movedTo inside pc
      exact goesTo_of_agree same ⟨f, List.mem_of_getElem? here, mask, at_.trans goes⟩
  have split := split_partsOf c.f.mask t
  rw [spread]
  generalize partsOf c.f.mask t = parts at split
  have room (apart : ∃ l ∈ lanesOf c.f.mask, t l ≠ t (leader c.f.mask)) := diverge_room (g := c.group) (fi := c.fi) (f := c.f) (cycle := c.cycle)
    (can.resolve_left fun same => let ⟨l, on, away⟩ := apart; away (same l (mem_lanesOf.mp on).1 (mem_lanesOf.mp on).2))
  cases split with
  | none no => exact ⟨_, rfl, moved _ (by simp [no]) (.inl no)⟩
  | agree a same => exact ⟨_, rfl, moved _ same (.inr rfl)⟩
  | two a b u apart one parts =>
    obtain ⟨l, on, goes⟩ := one
    obtain ⟨e, st, top, diverges⟩ := room ⟨l, on, goes ▸ apart⟩
    refine ⟨partInto c.f c.cycle [(a, _), (b, u)] { c.group with stack := e :: st }, by simp only [diverges, putGroup], rfl, goesTo_of_two parts rfl, fun e' st' held => ?_⟩
    obtain ⟨rfl, rfl⟩ := top e' st' held
    exact ⟨_, rfl, rfl, rfl, rfl, rfl, rfl⟩
  | more a p q ps first others =>
    obtain ⟨j, jOn, -, -, jApart, -⟩ := id others
    obtain ⟨e, st, top, diverges⟩ := room ⟨j, jOn, jApart⟩
    refine ⟨partInto c.f c.cycle ((a, _) :: p :: q :: ps) { c.group with stack := e :: st }, by simp only [diverges, putGroup], rfl,
      goesTo_of_more first others rfl ⟨_, rfl, rfl, rfl, rfl⟩, fun e' st' held => ?_⟩
    obtain ⟨rfl, rfl⟩ := top e' st' held
    exact ⟨_, rfl, rfl, rfl, rfl, rfl, rfl⟩

end Sys2Proof.Machine
end

section
/-! Branches: the words that send each lane to its own target (06 R142, R144, R146, R148). -/

namespace Sys2Proof.Machine

variable {i : Instr} {s : State} {c c' : Ctx} {g h k : Group} {e : StackEntry} {st : List StackEntry} {t : Nat → DWord} {body : Ctx → Except Trap State}

theorem Redirects.trans (first : Redirects g h) (second : Redirects h k) : Redirects g k := by
  unfold Redirects at *
  rw [second, first]

theorem Redirects.sget (r : Redirects g h) (n : Nat) : Machine.sget h n = Machine.sget g n := by
  rw [r]
  rfl

/-- A word that spreads its lanes, in a context with the same state and group. -/
theorem spreads_of_body (issues : Issues i s c) (run : exec i s = issue i s body) (sends : body c = spread c' t) (can : CanGo c' t) (inside : c'.fi < c'.g.frags.length) (state : c'.s = c.s)
    (same : c'.g.gid = c.g.gid) :
    ∃ t' h, exec i s = .next t' ∧ findGroup t' c.g.gid = some h ∧ Elsewhere s t' c.g.gid ∧ Redirects c'.g h ∧ GoesTo c' h t ∧ KeepsTop c'.g h c'.f.mask := by
  obtain ⟨h, goes, redirects, sent, keeps⟩ := spread_room inside can
  obtain ⟨t', next, found, elsewhere⟩ := puts_of_body issues run (sends.trans (by rw [goes, state])) (redirects.gid.trans same)
  exact ⟨t', h, next, found, elsewhere, redirects, sent, keeps⟩

theorem takesTrap_of_spread (issues : Issues i s c) (run : exec i s = issue i s body) (sends : body c = spread c' t) (cannot : ¬ CanGo c' t) : TakesTrap i s c 0x03#8 0#64 c.f.mask 0#64 :=
  takesTrap_of_body issues run (sends.trans (spread_full cannot))

/-! ### BRC -/

section brc

variable {w : FmtC}

/-- Where the lanes of a BRC go: past it, or to its target. -/
def brcTarget (c : Ctx) (w : FmtC) (l : Nat) : DWord := if (pget c.g w.p.toNat).getLsbD l = w.n then c.f.pc + 4#64 else c.f.pc + BitVec.ofInt 64 (4 * w.off.toInt)

theorem brcTarget_eq (c : Ctx) (w : FmtC) (l : Nat) : (if (pget c.g w.p.toNat).getLsbD l != w.n then targetC c w else nextPc c) = brcTarget c w l := by
  rw [brcTarget, ← targetC_eq]
  by_cases same : (pget c.g w.p.toNat).getLsbD l = w.n <;> simp [same, nextPc]

/-- The lanes that do not go the leader's way. -/
def brcDissent (c : Ctx) (w : FmtC) : Mask := activeOf c.f.mask (fun l => (pget c.g w.p.toNat).getLsbD l != (pget c.g w.p.toNat).getLsbD (leader c.f.mask))

theorem brcDissent_eq (c : Ctx) (w : FmtC) :
    activeOf c.f.mask (fun l => ((pget c.g w.p.toNat).getLsbD l != w.n) != ((pget c.g w.p.toNat).getLsbD (leader c.f.mask) != w.n)) = brcDissent c w := by
  unfold brcDissent
  congr 1
  funext l
  cases (pget c.g w.p.toNat).getLsbD l <;> cases (pget c.g w.p.toNat).getLsbD (leader c.f.mask) <;> cases w.n <;> rfl

theorem lanesOf_brcDissent (c : Ctx) (w : FmtC) :
    lanesOf (brcDissent c w) = (lanesOf c.f.mask).filter (fun l => (pget c.g w.p.toNat).getLsbD l != (pget c.g w.p.toNat).getLsbD (leader c.f.mask)) := lanesOf_activeOf _ _

/-- The effect of a BRC: with U = 1 the leader decides for all, and a dissenting lane sets UNIV or raises UNIFORM (06 R142, R144). -/
def brcBody (w : FmtC) (c : Ctx) : Except Trap State :=
  if w.u then
    if brcDissent c w ≠ 0#32 && strictU c.g then .error { cause := causeUniform, mask := some (brcDissent c w) }
    else .ok (jumpTo { c with g := if brcDissent c w ≠ 0#32 then setStat c.g statUniv else c.g } (brcTarget c w (leader c.f.mask)))
  else spread c (brcTarget c w)

theorem exec_brc (w : FmtC) (s : State) : exec (.brc w) s = issue (.brc w) s (brcBody w) := by
  change execBrc w s = _
  rw [execBrc]
  congr 1
  funext c
  simp only [brcTarget_eq, brcDissent_eq, brcBody]

theorem brcBody_each (each : w.u = false) : brcBody w c = spread c (brcTarget c w) := by simp [brcBody, each]

theorem brcBody_strict (all : w.u = true) (dissent : brcDissent c w ≠ 0#32) (strict : c.g.gcfg.getLsbD 2 = true) :
    brcBody w c = .error { cause := causeUniform, mask := some (brcDissent c w) } := by
  simp [brcBody, all, dissent, strictU, strict]

/-- The context that a BRC with U = 1 moves on in: a dissenting lane has set UNIV (06 R142). -/
def warned (c : Ctx) (w : FmtC) : Ctx := { c with g := setStat c.g (if brcDissent c w = 0#32 then 0#64 else statUniv) }

theorem brcBody_leads (all : w.u = true) (free : brcDissent c w = 0#32 ∨ c.g.gcfg.getLsbD 2 = false) : brcBody w c = .ok (jumpTo (warned c w) (brcTarget c w (leader c.f.mask))) := by
  by_cases none : brcDissent c w = 0#32
  · simp [brcBody, all, none, warned, setStat]
  · have lax : strictU c.g = false := free.resolve_left none
    simp [brcBody, all, none, lax, warned]

end brc

/-! ### JMPI and CALLI -/

section indirect

variable {a : BitVec 7} {link : Bool}

/-- A LAND word that can be fetched, at a word's address (06 R146). -/
def IsLand (c : Ctx) (x : DWord) : Prop := x.toNat % 4 = 0 ∧ ∃ y w, fetchWord c.s c.g x = .ok y ∧ decodeWord y = .ok (.land w)

theorem landsAt_iff {x : DWord} : landsAt c x = true ↔ IsLand c x := by
  rw [IsLand, landsAt, Bool.and_eq_true, beq_iff_eq, extractLsb'_two_eq_zero]
  refine and_congr_right fun _ => ⟨fun lands => ?_, fun ⟨y, w, fetched, decoded⟩ => ?_⟩
  · by_contra no
    cases fetched : fetchWord c.s c.g x with
    | error e => rw [fetched] at lands; exact Bool.false_ne_true lands
    | ok y =>
      rw [fetched] at lands
      have only (w) : decodeWord y ≠ .ok (.land w) := fun decoded => no ⟨y, w, fetched, decoded⟩
      dsimp only at lands
      generalize decodeWord y = r at lands only
      clear no fetched
      cases r with
      | error e => exact Bool.false_ne_true lands
      | ok i =>
        cases i with
        | land w => exact only w rfl
        | _ => exact Bool.false_ne_true lands
  · rw [fetched]
    dsimp only
    rw [decoded]

/-- The lanes whose target is no LAND word. -/
def strayLanes (c : Ctx) (a : BitVec 7) : Mask := activeOf c.f.mask (fun l => !landsAt c (op64 c a l))

/-- The context that a CALLI spreads its lanes in: s23 holds the next word's address. -/
def linked (c : Ctx) (link : Bool) : Ctx := if link then { c with g := sset c.g 23 (nextPc c) } else c

theorem linked_eq (c : Ctx) (link : Bool) : linked c link = { c with g := { c.g with s := (linked c link).g.s } } := by
  unfold linked sset
  split <;> rfl

theorem sget_linked (c : Ctx) (link : Bool) (n : Nat) : sget (linked c link).g n = if link = true ∧ n = 23 then nextPc c else sget c.g n := by
  cases link with
  | false => rfl
  | true => simp [linked, Laws.sget_sset]

/-- With no fetch of a target held, the lanes that have no LAND word raise LANDING for all of them, and else all lanes go (06 R146). -/
theorem indirect_eq (free : ∀ l ∈ lanesOf c.f.mask, (op64 c a l).toNat % 4 = 0 → fetchStalls c.s c.g (op64 c a l) = false) :
    indirect c a link = if strayLanes c a ≠ 0#32 then .error { cause := causeLanding, mask := some (strayLanes c a), val := op64 c a (leader (strayLanes c a)) }
      else spread (linked c link) (op64 c a) := by
  refine if_neg ?_
  rw [List.any_eq_true]
  rintro ⟨l, on, held⟩
  obtain ⟨aligned, stalls⟩ := Bool.and_eq_true_iff.mp held
  rw [free l on (by simpa [extractLsb'_two_eq_zero] using aligned)] at stalls
  exact absurd stalls Bool.false_ne_true

end indirect

/-! ### Opening an entry -/

/-- The context that goes on alone under a new entry (06 R135, R147). -/
def opened (c : Ctx) (e : StackEntry) : Ctx := { c with g := { c.group with stack := e :: belowEntry c.group c.fi, frags := [c.f] }, fi := 0 }

theorem openEntry_full (full : 16 ≤ c.g.stack.length) : openEntry c e = .error (divstack 0) := by rw [openEntry, pushEntry_full (g := c.group) full]

theorem openEntry_room (room : c.g.stack.length < 16) : openEntry c e = .ok (opened c e) := by
  rw [openEntry, pushEntry_room (g := c.group) room]
  rfl

theorem redirects_opened (c : Ctx) (e : StackEntry) : Redirects c.g (opened c e).g := rfl

/-- A new entry for the lanes of the fragment has them all unarrived. -/
theorem inPlace_opened (all : e.rmask = c.f.mask) (fresh : e.arr = 0#32) : InPlace (opened c e).g c.f.mask e (belowEntry c.group c.fi) :=
  ⟨rfl, by rw [all, fresh, BitVec.not_zero, BitVec.and_allOnes]⟩

/-! ### SWITCH -/

section switch

variable {w : FmtS} {x : Nat → Word}

/-- The entry that a SWITCH opens (06 R148). -/
def switchEntry (c : Ctx) (w : FmtS) : StackEntry := newEntry .switch (some (c.f.pc + (w.recon.setWidth 64 <<< 2))) c.f.pc c.f.mask

/-- The fragment is the remainder of an earlier execution of its SWITCH (06 R148). -/
def Again (c : Ctx) : Prop := ∃ e st, c.g.stack = e :: st ∧ e.kind = .switch ∧ e.origin = c.f.pc ∧ c.f.mask = e.rmask &&& ~~~e.arr

theorem shiftLeft_two_eq_ofNat (x : BitVec 15) : x.setWidth 64 <<< 2 = BitVec.ofNat 64 (4 * x.toNat) := by
  rw [BitVec.shiftLeft_eq_mul_twoPow, BitVec.ofNat_mul, BitVec.mul_comm, BitVec.ofNat_toNat]
  rfl

theorem switchStalls_of_words (words : SwitchWords c w x) : switchStalls c w = false := by
  refine List.any_eq_false.mpr fun k mem => ?_
  have inside := List.mem_range.mp mem
  rw [(words (k + 3) (by omega) (by omega)).2]
  exact Bool.false_ne_true

theorem switchFault_of_words (words : SwitchWords c w x) : switchFault c w = none := by
  refine List.findSome?_eq_none_iff.mpr fun k mem => ?_
  have inside := List.mem_range.mp mem
  rw [(words (k + 3) (by omega) (by omega)).1]
  rfl

theorem switchWord_of_words (words : SwitchWords c w x) {n : Nat} (lo : 1 ≤ n) (hi : n ≤ w.cnt.toNat + 4) : switchWord c n = x n := by
  rw [switchWord, (words n lo hi).1]

/-- Case value n of the words x. -/
def caseOf (x : Nat → Word) (n : Nat) : Word := (BitVec.ofNat 8 ((x (1 + n / 4)).toNat / 2 ^ (8 * (n % 4)))).signExtend 32

/-- The slot of a selector: its first match, or the last (06 R148). -/
def caseSlot (x : Nat → Word) (w : FmtS) (y : Word) : Nat := ((List.range (w.cnt.toNat + 1)).find? (fun n => caseOf x n == y)).getD (w.cnt.toNat + 1)

theorem caseSlot_le (x : Nat → Word) (w : FmtS) (y : Word) : caseSlot x w y ≤ w.cnt.toNat + 1 := by
  unfold caseSlot
  cases found : (List.range (w.cnt.toNat + 1)).find? (fun n => caseOf x n == y) with
  | none => exact Nat.le_refl _
  | some n => exact Nat.le_of_lt (List.mem_range.mp (List.mem_of_find?_eq_some found))

theorem switchTarget_of_words (words : SwitchWords c w x) (y : Word) : switchTarget c w y = c.f.pc + BitVec.ofInt 64 (4 * (x (3 + caseSlot x w y)).toInt) := by
  have cases_ : (List.range (w.cnt.toNat + 1)).find? (fun n => (caseByte c n).signExtend 32 == y) = (List.range (w.cnt.toNat + 1)).find? (fun n => caseOf x n == y) := by
    refine List.find?_congr fun n mem => ?_
    have inside := List.mem_range.mp mem
    rw [caseByte, switchWord_of_words words (by omega) (by omega), byteOfNat, Nat.shiftRight_eq_div_pow]
    rfl
  have last := caseSlot_le x w y
  rw [switchTarget, cases_]
  change c.f.pc + (switchWord c (3 + caseSlot x w y)).signExtend 64 <<< 2 = _
  rw [switchWord_of_words words (by omega) (by omega), signExtend_shiftLeft_two]

def isAgain (c : Ctx) : Bool :=
  match c.g.stack with
  | e :: _ => e.kind == StackKind.switch && e.origin == c.f.pc && decide (c.f.mask = (e.rmask &&& ~~~e.arr))
  | [] => false

theorem isAgain_iff : isAgain c = true ↔ Again c := by
  unfold isAgain Again
  cases c.g.stack with
  | nil => simp
  | cons e st => simp [and_assoc]

/-- The effect of a SWITCH: where it does not execute again, it opens an entry first (06 R148). -/
def switchBody (w : FmtS) (c : Ctx) : Except Trap State :=
  if switchStalls c w then .ok c.hold else
  match switchFault c w with
  | some t => .error t
  | none =>
  match (if isAgain c then .ok c else openEntry c (switchEntry c w)) with
  | .ok c' => spread c' (fun l => switchTarget c w (op32 c w.a l))
  | .error t => .error t

theorem exec_switch (w : FmtS) (s : State) : exec (.switch w) s = issue (.switch w) s (switchBody w) := rfl

theorem switchBody_again (words : SwitchWords c w x) (again : Again c) : switchBody w c = spread c (fun l => switchTarget c w (op32 c w.a l)) := by
  simp only [switchBody, switchStalls_of_words words, switchFault_of_words words, isAgain_iff.mpr again, Bool.false_eq_true, if_false, if_true]

theorem switchBody_first (words : SwitchWords c w x) (first : ¬ Again c) :
    switchBody w c = (openEntry c (switchEntry c w)).bind fun c' => spread c' (fun l => switchTarget c w (op32 c w.a l)) := by
  have no : isAgain c = false := Bool.eq_false_iff.mpr fun again => first (isAgain_iff.mp again)
  simp only [switchBody, switchStalls_of_words words, switchFault_of_words words, no, Bool.false_eq_true, if_false]
  cases openEntry c (switchEntry c w) <;> rfl

end switch

/-! ### The branches -/

theorem eq_of_contains {d m : Mask} (lanes : ∀ l, l < 32 → d.getLsbD l = (lanesOf m).contains l) : d = m := by
  refine BitVec.eq_of_getLsbD_eq fun l inside => ?_
  rw [lanes l inside, Bool.eq_iff_iff, List.contains_iff_mem, mem_lanesOf]
  exact and_iff_right inside

/-- A BRC with U = 0 sends each lane on its own. -/
theorem brc_each {w : FmtC} (issues : Issues (.brc w) s c) (each : w.u = false) :
    (CanGo c (brcTarget c w) → ∃ t h, exec (.brc w) s = .next t ∧ findGroup t c.g.gid = some h ∧ SameRegs c h ∧ Elsewhere s t c.g.gid ∧ GoesTo c h (brcTarget c w)) ∧
    (¬ CanGo c (brcTarget c w) → TakesTrap (.brc w) s c 0x03#8 0#64 c.f.mask 0#64) := by
  refine ⟨fun can => ?_, takesTrap_of_spread issues (exec_brc w s) (brcBody_each each)⟩
  obtain ⟨t, h, next, found, elsewhere, redirects, goes, -⟩ := spreads_of_body issues (exec_brc w s) (brcBody_each each) can (inside_of_chosen issues.toChosen) rfl rfl
  exact ⟨t, h, next, found, redirects.sameRegs, elsewhere, goes⟩

/-- A BRC with U = 1 sends all lanes the leader's way where they may follow it. -/
theorem brc_leads {w : FmtC} (issues : Issues (.brc w) s c) (all : w.u = true) (free : brcDissent c w = 0#32 ∨ c.g.gcfg.getLsbD 2 = false) :
    ∃ t h f, exec (.brc w) s = .next t ∧ findGroup t c.g.gid = some h ∧ h.frags[c.fi]? = some f ∧ f.mask = c.f.mask ∧ f.pc = brcTarget c w (leader c.f.mask) ∧
      h.gstat = c.g.gstat ||| (if brcDissent c w = 0#32 then 0#64 else 0x20#64) ∧ h.v = c.g.v ∧ h.s = c.g.s ∧ h.p = c.g.p ∧ h.stack = c.g.stack ∧ Elsewhere s t c.g.gid := by
  obtain ⟨t, next, found, elsewhere⟩ := puts_of_body (h := movedTo (warned c w) (brcTarget c w (leader c.f.mask))) issues (exec_brc w s) (brcBody_leads all free) rfl
  have inside : c.fi < c.g.frags.length := inside_of_chosen issues.toChosen
  obtain ⟨f, here, pc, mask⟩ := frag_movedTo (c := warned c w) inside (brcTarget c w (leader c.f.mask))
  exact ⟨t, _, f, next, found, here, mask, pc, rfl, rfl, rfl, rfl, rfl, elsewhere⟩

/-- A word that moves indirectly, with or without a link. -/
theorem indirect_goes {a : BitVec 7} {link : Bool} (issues : Issues i s c) (run : exec i s = issue i s (fun c => indirect c a link))
    (free : ∀ l ∈ lanesOf c.f.mask, (op64 c a l).toNat % 4 = 0 → fetchStalls c.s c.g (op64 c a l) = false) :
    (strayLanes c a = 0#32 → CanGo c (op64 c a) → ∃ t h, exec i s = .next t ∧ findGroup t c.g.gid = some h ∧ h.v = c.g.v ∧ h.p = c.g.p ∧ h.t = c.g.t ∧ h.gstat = c.g.gstat ∧
      (∀ n, sget h n = if link = true ∧ n = 23 then nextPc c else sget c.g n) ∧ Elsewhere s t c.g.gid ∧ GoesTo c h (op64 c a)) ∧
    (strayLanes c a = 0#32 → ¬ CanGo c (op64 c a) → TakesTrap i s c 0x03#8 0#64 c.f.mask 0#64) ∧
    (strayLanes c a ≠ 0#32 → TakesTrap i s c 0x05#8 (op64 c a (leader (strayLanes c a))) (strayLanes c a) 0#64) := by
  have body := indirect_eq (link := link) free
  have ctx := linked_eq c link
  have inside := inside_of_chosen issues.toChosen
  have can : CanGo (linked c link) (op64 c a) ↔ CanGo c (op64 c a) := by rw [ctx]; rfl
  refine ⟨fun land go => ?goes, fun land full => ?full, fun stray => takesTrap_of_body issues run (body.trans (if_pos stray))⟩
  case goes =>
    obtain ⟨t, h, next, found, elsewhere, redirects, goes, -⟩ := spreads_of_body issues run (body.trans (if_neg (not_not.mpr land))) (can.mpr go)
      (by rw [ctx]; exact inside) (by rw [ctx]) (by rw [ctx])
    have sgets (n) : sget h n = if link = true ∧ n = 23 then nextPc c else sget c.g n := (redirects.sget n).trans (sget_linked c link n)
    rw [ctx] at redirects goes
    rw [redirects] at found goes sgets
    exact ⟨t, _, next, found, rfl, rfl, rfl, rfl, sgets, elsewhere, goes⟩
  case full => exact takesTrap_of_spread issues run (body.trans (if_neg (not_not.mpr land))) (fun go => full (can.mp go))

/-- A SWITCH sends each lane to its slot, under the entry that it opens or has opened. -/
theorem switch_goes {w : FmtS} {x : Nat → Word} (issues : Issues (.switch w) s c) (words : SwitchWords c w x) :
    (Again c ∨ c.g.stack.length < 16 → ∃ t h, exec (.switch w) s = .next t ∧ findGroup t c.g.gid = some h ∧ SameRegs c h ∧ Elsewhere s t c.g.gid ∧
      (Again c → h.stack.length = c.g.stack.length) ∧
      (¬ Again c → h.stack.length = c.g.stack.length + 1 ∧ ∃ e, h.stack.head? = some e ∧ e.kind = .switch ∧ e.origin = c.f.pc ∧
        e.rpc = some (c.f.pc + BitVec.ofNat 64 (4 * w.recon.toNat)) ∧ e.rmask = c.f.mask ∧ e.arr = 0#32) ∧
      GoesTo c h (fun l => switchTarget c w (op32 c w.a l))) ∧
    (¬ Again c → 16 ≤ c.g.stack.length → TakesTrap (.switch w) s c 0x03#8 0#64 c.f.mask 0#64) := by
  refine ⟨fun room => ?goes, fun first full => ?full⟩
  case full => exact takesTrap_of_body issues (exec_switch w s) ((switchBody_first words first).trans (by rw [openEntry_full full]; rfl))
  case goes =>
    by_cases again : Again c
    · obtain ⟨e, st, stack, -, -, held⟩ := id again
      obtain ⟨t, h, next, found, elsewhere, redirects, goes, keeps⟩ := spreads_of_body issues (exec_switch w s) (switchBody_again words again) (.inr (.inl ⟨e, st, stack, held⟩))
        (inside_of_chosen issues.toChosen) rfl rfl
      obtain ⟨e', stack', -⟩ := keeps e st ⟨stack, held⟩
      exact ⟨t, h, next, found, redirects.sameRegs, elsewhere, fun _ => by rw [stack', stack]; rfl, absurd again, goes⟩
    · have open_ := openEntry_room (e := switchEntry c w) (room.resolve_left again)
      have held : InPlace (opened c (switchEntry c w)).g c.f.mask (switchEntry c w) (belowEntry c.group c.fi) := inPlace_opened rfl rfl
      obtain ⟨t, h, next, found, elsewhere, redirects, goes, keeps⟩ := spreads_of_body (c' := opened c (switchEntry c w)) issues (exec_switch w s)
        ((switchBody_first words again).trans (by rw [open_]; rfl)) (.inr (.inl ⟨_, _, held⟩)) (Nat.zero_lt_one) rfl rfl
      obtain ⟨e', stack', kind, origin, rpc, rmask, arr⟩ := keeps _ _ held
      refine ⟨t, h, next, found, (redirects_opened ..).trans redirects |>.sameRegs, elsewhere, fun yes => absurd yes again,
        fun _ => ⟨by rw [stack', List.length_cons, length_belowEntry]; rfl, e', ?_⟩, goes⟩
      exact ⟨by rw [stack']; rfl, kind, origin, by rw [rpc, ← shiftLeft_two_eq_ofNat]; rfl, rmask, arr⟩

/-- Settles O20: BRC, JMPI and CALLI spread the lanes of the fragment, and SWITCH does so below the entry that it opens unless it executes again. -/
theorem branchesSendEveryLaneToItsTarget : Obligations.BranchesSendEveryLaneToItsTarget := by
  unfold Obligations.BranchesSendEveryLaneToItsTarget
  refine ⟨fun w s c h => ?brc, fun w i s c which h active free => ?indirect, fun w s c x h active words => ?switch⟩
  case brc =>
    intro t dissent
    have lanes : lanesOf (brcDissent c w) = dissent := lanesOf_brcDissent c w
    have none : dissent = [] ↔ brcDissent c w = 0#32 := by rw [← lanes, lanesOf_eq_nil]
    refine ⟨fun each => (brc_each h each).1, fun each => (brc_each h each).2, fun all free => ?leads, fun d all some strict same => ?strict⟩
    case leads =>
      rw [none] at free
      simp only [none]
      exact brc_leads h all free
    case strict =>
      obtain rfl : d = brcDissent c w := eq_of_contains (by rwa [lanes])
      exact takesTrap_of_body h (exec_brc w s) (brcBody_strict all (fun zero => some (none.mpr zero)) strict)
  case indirect =>
    have free' : ∀ l ∈ lanesOf c.f.mask, (op64 c w.a l).toNat % 4 = 0 → fetchStalls c.s c.g (op64 c w.a l) = false := fun l on => free l (mem_lanesOf.mp on).1 (mem_lanesOf.mp on).2
    have run : ∃ link, exec i s = issue i s (fun c => indirect c w.a link) ∧ (link = true ↔ i = .calli w) := by
      obtain rfl | rfl := which
      · exact ⟨false, rfl, by simp⟩
      · exact ⟨true, rfl, by simp⟩
    obtain ⟨link, run, calls⟩ := run
    obtain ⟨goes, full, stray⟩ := indirect_goes h run free'
    have all (land : ∀ l, l < 32 → c.f.mask.getLsbD l = true → IsLand c (op64 c w.a l)) : strayLanes c w.a = 0#32 := activeOf_eq_zero.mpr fun l on =>
      by rw [landsAt_iff.mpr (land l (mem_lanesOf.mp on).1 (mem_lanesOf.mp on).2)]; rfl
    refine ⟨fun land can => ?goes, fun land => full (all land), fun bad some lanes => ?stray⟩
    case goes =>
      obtain ⟨t, h, next, found, v, p, tiles, gstat, sgets, rest⟩ := goes (all land) can
      refine ⟨t, h, next, found, v, p, tiles, gstat, fun n other => (sgets n).trans (if_neg ?_), fun call => (sgets 23).trans (if_pos ⟨calls.mpr call, rfl⟩), rest⟩
      rintro ⟨yes, rfl⟩
      obtain other | rfl := other
      · exact other rfl
      · exact absurd (calls.mp yes) (by simp)
    case stray =>
      obtain rfl : bad = strayLanes c w.a := by
        refine BitVec.eq_of_getLsbD_eq fun l inside => ?_
        rw [Bool.eq_iff_iff, lanes l inside, strayLanes, getLsbD_activeOf, Bool.and_eq_true, Bool.not_eq_true', ← Bool.not_eq_true, landsAt_iff]
        rfl
      exact stray some
  case switch =>
    obtain ⟨goes, full⟩ := switch_goes h words
    simp only [switchTarget_of_words words] at goes
    exact ⟨goes, full⟩

end Sys2Proof.Machine
end

section
/-! Settle: what is left of the stack and of the live fragments once lanes have arrived or have left (06 R136-R138). -/

namespace Sys2Proof.Machine

variable {cycle n : Nat} {e u : StackEntry} {st rest : List StackEntry} {live : List Frag} {m : Mask} {g h : Group}

/-! ### One entry -/

theorem settle_nil : settle cycle n [] live = ([], live) := by cases n <;> rfl

/-- An entry with lanes to come stays; a lane parked in it goes on when nothing else is live (06 R135). -/
theorem settle_waits (lacks : e.arr ≠ e.rmask) :
    settle cycle (n + 1) (e :: rest) live = if live.isEmpty && e.pmode != .none then ((unpark e cycle).2 :: rest, [(unpark e cycle).1]) else (e :: rest, live) := if_neg lacks

/-- An entry that no lane is left in is popped. -/
theorem settle_empty (full : e.arr = e.rmask) (none : e.rmask = 0#32) : settle cycle (n + 1) (e :: rest) live = settle cycle n rest live := (if_pos full).trans (if_pos none)

/-- The lanes of a complete implicit entry arrive at the next. -/
theorem settle_implicit (full : e.arr = e.rmask) (some : e.rmask ≠ 0#32) (kind : e.kind = .implicit) :
    settle cycle (n + 1) (e :: u :: rest) live = settle cycle n ({ u with arr := u.arr ||| e.rmask, aboard := u.aboard.union e.aboard } :: rest) live :=
  (if_pos full).trans ((if_neg some).trans (if_pos kind))

theorem settle_implicit_last (full : e.arr = e.rmask) (some : e.rmask ≠ 0#32) (kind : e.kind = .implicit) : settle cycle (n + 1) [e] live = ([], live) :=
  (if_pos full).trans ((if_neg some).trans (if_pos kind))

/-- The lanes of a complete entry, together behind their JOIN. -/
def fusedFrag (e : StackEntry) (cycle : Nat) : Frag := { newFrag (e.rpc.getD 0#64 + 4#64) e.rmask cycle with board := e.aboard }

/-- They go on alone, or beside an arm that the next entry has parked. -/
theorem settle_fuses (full : e.arr = e.rmask) (some : e.rmask ≠ 0#32) (kind : e.kind ≠ .implicit) (noArm : rest.head?.map StackEntry.pmode ≠ .some .arm) :
    settle cycle (n + 1) (e :: rest) live = (rest, [fusedFrag e cycle]) := by
  refine (if_pos full).trans ((if_neg some).trans ((if_neg kind).trans ?_))
  cases rest with
  | nil => rfl
  | cons u rest => exact if_neg fun arm => noArm (by simp [arm])

theorem settle_fuses_arm (full : e.arr = e.rmask) (some : e.rmask ≠ 0#32) (kind : e.kind ≠ .implicit) (arm : u.pmode = .arm) :
    settle cycle (n + 1) (e :: u :: rest) live = ((unpark u cycle).2 :: rest, [fusedFrag e cycle, (unpark u cycle).1]) :=
  (if_pos full).trans ((if_neg some).trans ((if_neg kind).trans (if_pos arm)))

/-! ### When the stack empties -/

/-- Entry e once lanes m with board b have arrived at it. -/
def arrived (e : StackEntry) (m : Mask) (b : Board) : StackEntry := { e with arr := e.arr ||| m, aboard := b }

theorem arrived_none (e : StackEntry) : arrived e 0#32 e.aboard = e := by simp [arrived]

/-- Settle pops every entry exactly where the statements say so, given the fuel to look at each (06 R136). -/
theorem settle_arrived_eq_nil {b : Board} (fuel : rest.length < n) : (settle cycle n (arrived e m b :: rest) live).1 = [] ↔ Empties m (e :: rest) := by
  induction rest generalizing e m b n with
  | nil =>
    obtain ⟨n, rfl⟩ := Nat.exists_eq_succ_of_ne_zero (Nat.ne_of_gt fuel)
    by_cases full : e.arr ||| m = e.rmask
    · have gone : (settle cycle (n + 1) [arrived e m b] live).1 = [] := by
        by_cases none : e.rmask = 0#32
        · rw [settle_empty (e := arrived e m b) full none, settle_nil]
        by_cases kind : e.kind = .implicit
        · rw [settle_implicit_last (e := arrived e m b) full none kind]
        · rw [settle_fuses (e := arrived e m b) full none kind (by simp)]
      exact iff_of_true gone ⟨full, .inl rfl⟩
    · rw [settle_waits (e := arrived e m b) full]
      exact iff_of_false (by split <;> simp) fun empties => full empties.1
  | cons u rest ih =>
    obtain ⟨n, rfl⟩ := Nat.exists_eq_succ_of_ne_zero (Nat.ne_zero_of_lt fuel)
    have less : rest.length < n := Nat.lt_of_succ_lt_succ fuel
    by_cases full : e.arr ||| m = e.rmask
    · have next : Empties m (e :: u :: rest) ↔ (e.rmask = 0#32 ∧ Empties 0#32 (u :: rest)) ∨ (e.rmask ≠ 0#32 ∧ e.kind = .implicit ∧ Empties e.rmask (u :: rest)) := by
        rw [Empties, and_iff_right full, or_iff_right (List.cons_ne_nil u rest)]
      rw [next]
      by_cases none : e.rmask = 0#32
      · have below := ih (e := u) (m := 0#32) (b := u.aboard) less
        rw [arrived_none] at below
        rw [settle_empty (e := arrived e m b) full none, below]
        simp [none]
      by_cases kind : e.kind = .implicit
      · rw [settle_implicit (e := arrived e m b) full none kind]
        exact (ih less).trans (by simp [none, kind, arrived])
      · refine iff_of_false ?_ (by simp [none, kind])
        by_cases arm : u.pmode = .arm
        · rw [settle_fuses_arm (e := arrived e m b) full none kind arm]; simp
        · rw [settle_fuses (e := arrived e m b) full none kind (by simpa using arm)]; simp
    · rw [settle_waits (e := arrived e m b) full]
      exact iff_of_false (by split <;> simp) fun empties => full empties.1

theorem settle_eq_nil (fuel : st.length ≤ n) : (settle cycle n st live).1 = [] ↔ Empties 0#32 st := by
  cases st with
  | nil => exact iff_of_true (by rw [settle_nil]) trivial
  | cons e rest => rw [← settle_arrived_eq_nil (n := n) (b := e.aboard) fuel, arrived_none]

/-! ### Lanes that have left -/

/-- No lane of m stands in the fragment, or has a part in the entry. -/
def FragWithout (m : Mask) (f : Frag) : Prop := f.mask &&& m = 0#32
def EntryWithout (m : Mask) (e : StackEntry) : Prop := e.rmask &&& m = 0#32 ∧ e.pmask &&& m = 0#32

/-- Settle brings back no lane that is nowhere in the group. -/
theorem settle_without (entries : ∀ e ∈ st, EntryWithout m e) (frags : ∀ f ∈ live, FragWithout m f) :
    (∀ e ∈ (settle cycle n st live).1, EntryWithout m e) ∧ ∀ f ∈ (settle cycle n st live).2, FragWithout m f := by
  induction n generalizing st with
  | zero => exact ⟨entries, frags⟩
  | succ n ih =>
    cases st with
    | nil => exact ⟨entries, frags⟩
    | cons e rest =>
      obtain ⟨⟨rmask, pmask⟩, below⟩ := List.forall_mem_cons.mp entries
      have woken : EntryWithout m (unpark e cycle).2 ∧ FragWithout m (unpark e cycle).1 := ⟨⟨rmask, by simp [unpark]⟩, pmask⟩
      by_cases full : e.arr = e.rmask
      · by_cases none : e.rmask = 0#32
        · rw [settle_empty full none]
          exact ih below
        by_cases kind : e.kind = .implicit
        · cases rest with
          | nil =>
            rw [settle_implicit_last full none kind]
            exact ⟨List.forall_mem_nil _, frags⟩
          | cons u rest =>
            rw [settle_implicit full none kind]
            exact ih (by simpa [EntryWithout] using below)
        · have fused : FragWithout m (fusedFrag e cycle) := rmask
          cases rest with
          | nil =>
            rw [settle_fuses full none kind (by simp)]
            exact ⟨List.forall_mem_nil _, by simpa using fused⟩
          | cons u rest =>
            obtain ⟨⟨rmask', pmask'⟩, below'⟩ := List.forall_mem_cons.mp below
            by_cases arm : u.pmode = .arm
            · rw [settle_fuses_arm full none kind arm]
              exact ⟨List.forall_mem_cons.mpr ⟨⟨rmask', by simp [unpark]⟩, below'⟩, by simpa using ⟨fused, pmask'⟩⟩
            · rw [settle_fuses full none kind (by simpa using arm)]
              exact ⟨below, by simpa using fused⟩
      · rw [settle_waits full]
        split
        · exact ⟨List.forall_mem_cons.mpr ⟨woken.1, below⟩, by simpa using woken.2⟩
        · exact ⟨entries, frags⟩

end Sys2Proof.Machine
end

section
/-! Opening, closing and leaving a divergence: RECON, JOIN and EXIT (06 R133-R138, R147, R149, R151). -/

namespace Sys2Proof.Machine

variable {s : State} {c : Ctx} {g h : Group} {fi : Nat} {e u : StackEntry} {rest st : List StackEntry} {o : Frag}

/-! ### The other fragment -/

theorem otherFrags_group (c : Ctx) : otherFrags c.group c.fi = otherFrags c.g c.fi := List.eraseIdx_set_eq

theorem otherFrags_of_one (inside : fi < g.frags.length) (one : g.frags.length = 1) : otherFrags g fi = [] := by
  rw [otherFrags, ← List.length_eq_zero_iff, List.length_eraseIdx_of_lt inside, one]

theorem otherFrags_of_two (inside : fi < g.frags.length) (two : g.frags.length = 2) (other : g.frags[1 - fi]? = some o) : otherFrags g fi = [o] := by
  unfold otherFrags
  obtain ⟨a, b, frags⟩ := List.length_eq_two.mp two
  rw [two] at inside
  rw [frags] at other ⊢
  obtain rfl | rfl : fi = 0 ∨ fi = 1 := by omega
  · simpa using other
  · simpa using other

/-! ### RECON -/

/-- The entry that a RECON opens (06 R147). -/
def reconEntry (c : Ctx) (w : FmtC) : StackEntry := newEntry .recon (some (targetC c w)) 0#64 c.f.mask

/-- The effect of a RECON. -/
def reconBody (w : FmtC) (c : Ctx) : Except Trap State := (openEntry c (reconEntry c w)).map fun c' => jumpTo c' (nextPc c)

theorem exec_recon (w : FmtC) (s : State) : exec (.recon w) s = issue (.recon w) s (reconBody w) := by
  change execRecon w s = _
  rw [execRecon]
  congr 1
  funext c
  rw [reconBody, ← reconEntry]
  cases openEntry c (reconEntry c w) <;> rfl

/-- The group once a RECON has opened its entry. -/
def reconGroup (w : FmtC) (c : Ctx) : Group := movedTo (opened c (reconEntry c w)) (nextPc c)

theorem redirects_reconGroup (w : FmtC) (c : Ctx) : Redirects c.g (reconGroup w c) := rfl

theorem stack_reconGroup (w : FmtC) (c : Ctx) : (reconGroup w c).stack = reconEntry c w :: belowEntry c.group c.fi := rfl

theorem recon_opens {w : FmtC} (issues : Issues (.recon w) s c) (room : c.g.stack.length < 16) :
    ∃ t, exec (.recon w) s = .next t ∧ findGroup t c.g.gid = some (reconGroup w c) ∧ Elsewhere s t c.g.gid :=
  puts_of_body issues (exec_recon w s) (by rw [reconBody, openEntry_room room]; rfl) rfl

theorem recon_full {w : FmtC} (issues : Issues (.recon w) s c) (full : 16 ≤ c.g.stack.length) : TakesTrap (.recon w) s c 0x03#8 0#64 c.f.mask 0#64 :=
  takesTrap_of_body (t := divstack 0) issues (exec_recon w s) (by rw [reconBody, openEntry_full full]; rfl)

/-! ### Settling -/

/-- Settle has popped the last resident entry while others are spilled (06 R138). -/
theorem lostSpill_iff : lostSpill g h = true ↔ g.stack ≠ [] ∧ h.stack = [] ∧ h.spilled ≠ 0 := by
  simp [lostSpill, and_assoc]

/-! ### JOIN -/

/-- The group when the fragment's lanes have arrived at the top entry e, before Settle and after it (06 R149). -/
def joining (c : Ctx) (e : StackEntry) (rest : List StackEntry) : Group :=
  { c.g with frags := otherFrags c.g c.fi, stack := arrived e c.f.mask (e.aboard.union c.f.board) :: rest }
def joined (c : Ctx) (e : StackEntry) (rest : List StackEntry) : Group := settleGroup (joining c e rest) c.cycle

/-- The effect of a JOIN. -/
def joinBody (c : Ctx) : Except Trap State :=
  match c.g.stack with
  | [] => .error (divstack 1)
  | e :: rest => if e.rpc ≠ some c.f.pc then .error (divstack 2) else if lostSpill c.g (joined c e rest) then .error (divstack 3) else .ok (setGroup c.s (joined c e rest))

theorem exec_join (w : FmtX) (s : State) : exec (.join w) s = issue (.join w) s joinBody := rfl

theorem joinBody_cons (stack : c.g.stack = e :: rest) :
    joinBody c = if e.rpc ≠ some c.f.pc then .error (divstack 2) else if lostSpill c.g (joined c e rest) then .error (divstack 3) else .ok (setGroup c.s (joined c e rest)) := by
  rw [joinBody, stack]

theorem lostSpill_joined (stack : c.g.stack = e :: rest) : lostSpill c.g (joined c e rest) = true ↔ c.g.spilled ≠ 0 ∧ Empties c.f.mask c.g.stack := by
  have empties := settle_arrived_eq_nil (cycle := c.cycle) (live := otherFrags c.g c.fi) (e := e) (m := c.f.mask) (b := e.aboard.union c.f.board) (rest := rest) (n := rest.length + 1 + 2) (by omega)
  rw [lostSpill_iff, stack, ← empties, and_comm (a := c.g.spilled ≠ 0)]
  exact and_iff_right (List.cons_ne_nil e rest)

/-- What becomes of the stack and of the live fragments, by one step of Settle. -/
theorem joined_eq {r : List StackEntry × List Frag} (step : settle c.cycle (rest.length + 2 + 1) (arrived e c.f.mask (e.aboard.union c.f.board) :: rest) (otherFrags c.g c.fi) = r) :
    (joined c e rest).stack = r.1 ∧ (joined c e rest).frags = r.2 := by
  subst step
  exact ⟨rfl, rfl⟩

/-! ### EXIT -/

/-- The group when the fragment's lanes have left it (06 R137, R151). -/
def leaving (c : Ctx) : Group := removeLanes { c.g with frags := otherFrags c.g c.fi } c.f.mask c.cycle

/-- The effect of an EXIT. -/
def exitBody (c : Ctx) : Except Trap State :=
  if (leaving c).status = .draining then .ok (breakSets (setGroup c.s (leaving c)) (leaving c).team (leaving c).num none)
  else if lostSpill c.g (leaving c) then .error (divstack 3) else .ok (setGroup c.s (leaving c))

theorem exec_exit (w : FmtX) (s : State) : exec (.exit w) s = issue (.exit w) s exitBody := rfl

/-- With its last lanes out, the group drains, and its stack goes. -/
theorem leaving_last (all : c.g.exited ||| c.f.mask = 0xFFFFFFFF#32) :
    leaving c = { c.g with exited := 0xFFFFFFFF#32, frags := [], stack := [], spilled := 0, status := .draining } := by
  rw [leaving, removeLanes, all]
  rfl

/-- What stays of the entries and of the other fragment. -/
def leftEntries (c : Ctx) : List StackEntry := c.g.stack.map (entryWithout c.f.mask)
def leftFrags (c : Ctx) : List Frag := ((otherFrags c.g c.fi).map (fun f => { f with mask := f.mask &&& ~~~c.f.mask })).filter (fun f => f.mask != 0#32)

theorem leaving_some (some : c.g.exited ||| c.f.mask ≠ 0xFFFFFFFF#32) :
    leaving c = settleGroup { c.g with exited := c.g.exited ||| c.f.mask, frags := leftFrags c, stack := leftEntries c } c.cycle := if_neg some

/-- What stays of the stack empties exactly as the statement's own account of it does: that looks at no lanes parked. -/
theorem empties_leftEntries (m k : Mask) (st : List StackEntry) :
    Empties k (st.map (entryWithout m)) ↔ Empties k (st.map (fun e => { e with rmask := e.rmask &&& ~~~m, arr := e.arr &&& ~~~m })) := by
  induction st generalizing k with
  | nil => exact Iff.rfl
  | cons e st ih =>
    simp only [List.map_cons, Empties, List.map_eq_nil_iff]
    rw [ih, ih]
    rfl

theorem lostSpill_leaving (some : c.g.exited ||| c.f.mask ≠ 0xFFFFFFFF#32) : lostSpill c.g (leaving c) = true ↔ c.g.spilled ≠ 0 ∧ c.g.stack ≠ [] ∧ Empties 0#32 (leftEntries c) := by
  have empties := settle_eq_nil (cycle := c.cycle) (live := leftFrags c) (st := leftEntries c) (n := (leftEntries c).length + 2) (by omega)
  rw [lostSpill_iff, leaving_some some, ← empties]
  exact ⟨fun ⟨held, gone, spilled⟩ => ⟨spilled, held, gone⟩, fun ⟨spilled, held, gone⟩ => ⟨held, gone, spilled⟩⟩

/-- The lanes are out of every fragment and of every entry. -/
theorem leaving_without (some : c.g.exited ||| c.f.mask ≠ 0xFFFFFFFF#32) :
    (∀ e ∈ (leaving c).stack, EntryWithout c.f.mask e) ∧ ∀ f ∈ (leaving c).frags, FragWithout c.f.mask f := by
  have out (x : Mask) : x &&& ~~~c.f.mask &&& c.f.mask = 0#32 := by rw [BitVec.and_assoc, BitVec.and_comm (~~~c.f.mask), BitVec.and_not_self]; exact BitVec.and_zero
  rw [leaving_some some]
  refine settle_without (fun e mem => ?_) fun f mem => ?_
  · obtain ⟨e, -, rfl⟩ := List.mem_map.mp mem
    exact ⟨out _, out _⟩
  · obtain ⟨f, -, rfl⟩ := List.mem_map.mp (List.mem_filter.mp mem).1
    exact out _

/-! ### A group that drains -/

theorem gid_trapWaiter (code : Nat) (g : Group) : (trapWaiter code g).gid = g.gid := by
  unfold trapWaiter trapWait trapGroup
  repeat' split
  all_goals rfl

theorem trapWaiter_of_noFrags {code : Nat} (none : g.frags = []) : trapWaiter code g = g := by
  have waits : waiter g = .none := by rw [waiter, none]; rfl
  rw [trapWaiter, waits]

theorem find?_map_gid {f : Group → Group} (keeps : ∀ g, (f g).gid = g.gid) (l : List Group) (n : Nat) :
    (l.map f).find? (fun g => g.gid == n) = (l.find? (fun g => g.gid == n)).map f := by
  rw [List.find?_map]
  simp only [Function.comp_def, keeps]

theorem marks_of_ite (p : Prop) [Decidable p] (g : Group) (b : Bool) : ∃ b', (if p then { g with fhbroken := b } else g) = { g with fhbroken := b' } := by
  split
  · exact ⟨b, rfl⟩
  · exact ⟨g.fhbroken, rfl⟩

/-- Breaking sets leaves a group without fragments what it is, but for the mark that its set is broken (10 R241). -/
theorem findGroup_breakSets {tid num : Nat} {spec : Option (BitVec 64)} {n : Nat} (found : findGroup s n = some g) (none : g.frags = []) :
    ∃ b, findGroup (breakSets s tid num spec) n = some { g with fhbroken := b } := by
  unfold findGroup at found
  unfold findGroup breakSets
  rw [find?_map_gid (fun g => by simp only [apply_ite Group.gid, gid_trapWaiter, ite_self]), found, Option.map_some, trapWaiter_of_noFrags none]
  simp only [Option.some.injEq]
  exact marks_of_ite _ g _

/-- Settles O21: RECON puts back its group under a new entry; JOIN and EXIT put back what Settle leaves, or raise what it has lost. -/
theorem divergenceOpensAndCloses : Obligations.DivergenceOpensAndCloses := by
  unfold Obligations.DivergenceOpensAndCloses
  refine ⟨fun w s c h => ⟨fun room => ?recon, recon_full h⟩, fun w s c h => ⟨fun none => ?outside, fun e rest stack away => ?astray, fun e rest stack here spilled empties => ?lost,
    fun e rest stack here keeps => ?join⟩, fun w s c h => ⟨fun all => ?last, fun some keeps => ?exit, fun some spilled held empties => ?gone⟩⟩
  case recon =>
    have inside := inside_of_chosen h.toChosen
    obtain ⟨t, next, found, elsewhere⟩ := recon_opens h room
    refine ⟨t, reconGroup w c, reconEntry c w, _, next, found, (redirects_reconGroup w c).sameRegs, elsewhere, rfl, rfl, by rw [← targetC_eq]; rfl, rfl, rfl, rfl, ?_, rfl, rfl, rfl,
      fun one => ?_, fun o u st two other stack => ?_⟩
    · rw [stack_reconGroup, List.length_cons, length_belowEntry]
      rfl
    · exact belowEntry_alone ((otherFrags_group c).trans (otherFrags_of_one inside one))
    · exact ⟨parkIn u o .arm, belowEntry_parks ((otherFrags_group c).trans (otherFrags_of_two inside two other)) stack, rfl, rfl, rfl, rfl, rfl⟩
  case outside => exact takesTrap_of_body (t := divstack 1) h (exec_join w s) (by rw [joinBody, none])
  case astray => exact takesTrap_of_body (t := divstack 2) h (exec_join w s) (by rw [joinBody_cons stack, if_pos away])
  case lost =>
    have loses := (lostSpill_joined stack).mpr ⟨spilled, empties⟩
    exact takesTrap_of_body (t := divstack 3) h (exec_join w s) (by rw [joinBody_cons stack, if_neg (not_not.mpr here), if_pos loses])
  case join =>
    have inside := inside_of_chosen h.toChosen
    have safe : ¬ lostSpill c.g (joined c e rest) = true := fun loses => by
      obtain ⟨spilled, empties⟩ := (lostSpill_joined stack).mp loses
      exact keeps.elim spilled (fun some => some empties)
    obtain ⟨t, next, found, elsewhere⟩ := puts_of_body (h := joined c e rest) h (exec_join w s) (by rw [joinBody_cons stack, if_neg (not_not.mpr here), if_neg safe]) rfl
    refine ⟨t, joined c e rest, next, found, Redirects.sameRegs rfl, elsewhere, fun full some kind noArm => ?alone, fun u r full some kind below arm => ?beside, fun o two other lacks => ?leaves,
      fun one lacks parked => ?wakes⟩
    case alone =>
      obtain ⟨stack', frags⟩ := joined_eq (settle_fuses (e := arrived e c.f.mask (e.aboard.union c.f.board)) full some kind noArm)
      exact ⟨_, stack', frags, by simp [fusedFrag, arrived, newFrag, here], rfl⟩
    case beside =>
      subst below
      obtain ⟨stack', frags⟩ := joined_eq (settle_fuses_arm (e := arrived e c.f.mask (e.aboard.union c.f.board)) full some kind arm)
      exact ⟨_, _, _, frags, by simp [fusedFrag, arrived, newFrag, here], rfl, rfl, rfl, stack', rfl, rfl, rfl⟩
    case leaves =>
      have live := otherFrags_of_two inside two other
      obtain ⟨stack', frags⟩ := joined_eq ((settle_waits (e := arrived e c.f.mask (e.aboard.union c.f.board)) lacks).trans (if_neg (by simp [live])))
      exact ⟨_, stack', rfl, rfl, frags.trans live⟩
    case wakes =>
      have live := otherFrags_of_one inside one
      obtain ⟨stack', frags⟩ := joined_eq ((settle_waits (e := arrived e c.f.mask (e.aboard.union c.f.board)) lacks).trans (if_pos (by simpa [live, arrived] using parked)))
      exact ⟨_, _, frags, rfl, rfl, stack', rfl, rfl, rfl⟩
  case last =>
    have left := leaving_last all
    have found : findGroup (setGroup c.s (leaving c)) c.g.gid = some (leaving c) := Laws.findGroup_setGroup_at (by rw [left]) (findGroup_chosen h.toChosen)
    obtain ⟨b, broken⟩ := findGroup_breakSets (tid := (leaving c).team) (num := (leaving c).num) (spec := none) found (by rw [left])
    have memory : ∀ a, rd (setGroup c.s (leaving c)).mem a = rd s.mem a := (onlyGroup_setGroup h.toChosen (by rw [left])).memory
    refine ⟨_, _, next_of_body h (exec_exit w s) (if_pos (by rw [left])), broken, ?_⟩
    rw [left]
    exact ⟨⟨rfl, rfl, rfl, rfl, rfl, rfl, rfl, rfl, rfl, rfl, rfl⟩, rfl, rfl, rfl, rfl, memory⟩
  case exit =>
    have left := leaving_some some
    have runs : (leaving c).status = .running := by rw [left]; exact h.running
    have safe : ¬ lostSpill c.g (leaving c) = true := fun loses => by
      obtain ⟨spilled, held, empties⟩ := (lostSpill_leaving some).mp loses
      exact keeps.elim spilled fun more => more.elim held fun stays => stays ((empties_leftEntries _ _ _).mp empties)
    obtain ⟨t, next, found, elsewhere⟩ := puts_of_body h (exec_exit w s) ((if_neg (by simp [runs])).trans (if_neg safe)) (by rw [left]; rfl)
    obtain ⟨entries, frags⟩ := leaving_without some
    refine ⟨t, leaving c, next, found, ?_, by rw [left]; rfl, runs, frags, fun e mem => (entries e mem).1, elsewhere⟩
    rw [left]
    exact ⟨rfl, rfl, rfl, rfl, rfl, rfl, rfl, rfl, rfl, rfl, rfl⟩
  case gone =>
    have runs : (leaving c).status = .running := by rw [leaving_some some]; exact h.running
    have loses := (lostSpill_leaving some).mpr ⟨spilled, held, (empties_leftEntries _ _ _).mpr empties⟩
    exact takesTrap_of_body (t := divstack 3) h (exec_exit w s) ((if_neg (by simp [runs])).trans (if_pos loses))

end Sys2Proof.Machine
end

section
/-! Words that only write a result: what they leave alone, and what they deliver (04 R78-R81, R87, R88; 07 R159). -/

namespace Sys2Proof.Machine

variable {i : Instr} {u n uniOk vecOk reads : Bool} {d : BitVec 7} {k : Nat} {before : List Opd} {fl : BitVec 64}

/-! ### What they leave alone -/

/-- A word whose effect is a write to its own destinations changes nothing else. -/
theorem fallsThrough_of_writes {op : Ctx → Ctx} (run : ∀ s, exec i s = plain i s op)
    (writes : ∀ c, legal i = true → Laws.Writes c (op c) (destRegs i c.g) (destUnis i) (destPreds i) fl) : FallsThrough i fl := by
  intro s c h
  obtain ⟨g, found, only, falls⟩ := Laws.falls_of_writes h (writes c (Laws.legal_of_firstTrap h.noTrap))
  exact ⟨_, g, by rw [run, Laws.plain_of_issues h], found, only, falls⟩

theorem fallsThrough_of_nothing (run : ∀ s, exec i s = plain i s id) : FallsThrough i fl := fallsThrough_of_writes run fun c _ => Laws.Writes.refl c _ _ _ _

theorem fallsThrough_of_putResult {uni : Bool} {x : Ctx → Nat → DWord} (run : ∀ s, exec i s = plain i s (fun c => putResult c uni n d k (x c))) (size : k = 1 ∨ k = 2)
    (dest : n = false → ∃ o, Laws.IsDest i d k o) : FallsThrough i fl :=
  fallsThrough_of_writes run fun c legal => Laws.writes_putResult c uni n d k (x c) fl size legal dest

theorem fallsThrough_of_putUni {x : Ctx → DWord} (run : ∀ s, exec i s = plain i s (fun c => putUni c n d k (x c))) (size : k = 1 ∨ k = 2)
    (dest : n = false → ∃ o, Laws.IsDest i d k o) : FallsThrough i fl :=
  fallsThrough_of_writes run fun c legal => Laws.writes_putUni c n d k (x c) fl size legal dest

theorem fallsThrough_of_putPred {pd : BitVec 3} {x : Ctx → Nat → Bool} (run : ∀ s, exec i s = plain i s (fun c => putPred c u pd (x c))) (dest : destPreds i = [pd.toNat]) :
    FallsThrough i fl :=
  fallsThrough_of_writes run fun c _ => Laws.Writes.putPred c u pd (x c) _ _ _ fl (by simp [dest])

/-- A destination that the word has whatever its N bit. -/
theorem isDest_dest {uni even : Bool} {after : List Opd} (opds : (shape i).opds = before ++ Opd.dest d k vecOk uni even :: after) : ∃ o, Laws.IsDest i d k o := by
  refine ⟨Opd.dest d k vecOk uni even, ?_, rfl, rfl, rfl, ?_⟩
  · simp [opds]
  · cases even <;> simp [Opd.dest]

/-- The words with an N bit whose result is one register a lane. -/
theorem fallsThrough_of_put {uni : Bool} {x : Ctx → Nat → DWord} (run : ∀ s, exec i s = plain i s (fun c => putResult c uni n d 1 (x c)))
    (opds : (shape i).opds = before ++ dstOpds u n d 1 uniOk vecOk reads) : FallsThrough i fl :=
  fallsThrough_of_putResult run (.inl rfl) (Laws.isDest_dstOpds opds)

/-- Those whose result is a pair. -/
theorem fallsThrough_of_putPair {uni : Bool} {x : Ctx → Nat → DWord} (run : ∀ s, exec i s = plain i s (fun c => putResult c uni n d 2 (x c)))
    (opds : (shape i).opds = before ++ dstOpds u n d 2 uniOk vecOk reads) : FallsThrough i fl :=
  fallsThrough_of_putResult run (.inr rfl) (Laws.isDest_dstOpds opds)

/-- Those whose result is one value of the fragment. -/
theorem fallsThrough_of_putOne {x : Ctx → DWord} (run : ∀ s, exec i s = plain i s (fun c => putUni c n d 1 (x c)))
    (opds : (shape i).opds = before ++ dstOpds u n d 1 uniOk vecOk reads) : FallsThrough i fl :=
  fallsThrough_of_putUni run (.inl rfl) (Laws.isDest_dstOpds opds)

/-- MOV writes one register or a pair. -/
theorem fallsThrough_mov (w : FmtA) : FallsThrough (.mov w) fl := by
  have dest : w.n = false → ∃ o, Laws.IsDest (.mov w) w.d (if w.x then 2 else 1) o := Laws.isDest_dstOpds (before := [_]) rfl
  refine fallsThrough_of_writes (fun _ => rfl) fun c legal => ?_
  cases wide : w.x with
  | true => exact Laws.writes_putResult c w.u w.n w.d 2 _ fl (.inr rfl) legal (by simpa [wide] using dest)
  | false => exact Laws.writes_putResult c w.u w.n w.d 1 _ fl (.inl rfl) legal (by simpa [wide] using dest)

/-- Settles O7: each word's effect is a write to the destination that its shape lists. -/
theorem integerWordsChangeOnlyTheirDestinations : Obligations.IntegerWordsChangeOnlyTheirDestinations := by
  unfold Obligations.IntegerWordsChangeOnlyTheirDestinations
  simp only [List.forall_mem_cons, List.not_mem_nil, false_implies, implies_true, and_true]
  refine ⟨fun w => ?twoSources, fun w => ?oneSource, fun w => ?compare, fun w => ?constant, fun w => ?select⟩
  case twoSources =>
    refine ⟨?_, ?_, ?_, ?_, ?_, ?_, ?_, ?_, ?_, ?_, ?_, ?_, ?_, ?_, ?_, ?_, ?_, ?_, ?_, ?_, ?mov, ?iadd64, ?lea, ?_, ?_⟩
    case mov => exact fallsThrough_mov w
    case iadd64 | lea => exact fallsThrough_of_putPair (fun _ => rfl) rfl
    all_goals exact fallsThrough_of_put (fun _ => rfl) rfl
  case oneSource =>
    refine ⟨?_, ?_, ?_, ?_, ?_, ?_, ?_, ?_, ?_, ?_⟩
    all_goals exact fallsThrough_of_put (fun _ => rfl) rfl
  case compare =>
    refine ⟨?_, ?_, ?_⟩
    all_goals exact fallsThrough_of_putPred (fun _ => rfl) rfl
  case constant =>
    constructor
    all_goals exact fallsThrough_of_putResult (fun _ => rfl) (.inl rfl) fun _ => isDest_dest (before := []) rfl
  case select => exact fallsThrough_of_putResult (fun _ => rfl) (.inl rfl) fun _ => isDest_dest (before := [_, _]) rfl

theorem fallsThrough_pwrIslq (w : FmtX) (f : BitVec 3) : FallsThrough (.pwrIslq w f) 0 := fallsThrough_of_putUni (fun _ => rfl) (.inl rfl) fun _ => isDest_dest (before := []) rfl
theorem fallsThrough_pwrWakeq (w : FmtX) : FallsThrough (.pwrWakeq w) 0 := fallsThrough_of_putUni (fun _ => rfl) (.inl rfl) fun _ => isDest_dest (before := []) rfl

/-- Settles O8: the same of the lane and query words; NOP and LAND have no effect but to fall through. -/
theorem laneAndQueryWordsChangeOnlyTheirDestinations : Obligations.LaneAndQueryWordsChangeOnlyTheirDestinations := by
  unfold Obligations.LaneAndQueryWordsChangeOnlyTheirDestinations
  simp only [List.forall_mem_cons, List.not_mem_nil, false_implies, implies_true, and_true]
  refine ⟨fun w => ⟨?_, ?_, ?_, ?_, ?_, ?_, ?_, ?_, ?_, ?_, ?_, ?_, ?_, ?_, ?lane, ?group, ?teamx, ?teamy, ?teamz, ?role, ?vdie, ?nvdie, ?cluster, ?bay, ?gridx, ?gridy, ?gridz, ?cycle,
      ?_, ?nop, ?_, ?poll, ?wakeq⟩,
    fun w f k => ⟨?shup, ?shdn, ?xor⟩, fun w e => ⟨?scanAdd, ?scanMin, ?scanMax⟩, fun w k => ?_, fun w k => ?islq, fun w => ⟨?laneidx, ?bcast, ?vdhop⟩, fun w => ?land⟩
  case nop | land => exact fallsThrough_of_nothing fun _ => rfl
  case cycle => exact fallsThrough_of_putPair (fun _ => rfl) rfl
  case poll => exact fallsThrough_of_putUni (fun _ => rfl) (.inl rfl) fun _ => isDest_dest (before := []) rfl
  case islq => exact fallsThrough_pwrIslq w k
  case wakeq => exact fallsThrough_pwrWakeq w
  case lane | group | teamx | teamy | teamz | role | vdie | nvdie | cluster | bay | gridx | gridy | gridz => exact fallsThrough_of_put (fun _ => rfl) rfl
  case shup | shdn | xor | scanAdd | scanMin | scanMax | laneidx | bcast | vdhop => exact fallsThrough_of_put (fun _ => rfl) rfl
  all_goals exact fallsThrough_of_putOne (fun _ => rfl) rfl

end Sys2Proof.Machine
end

section
/-! What the words that write a result lane by lane deliver (04 R78-R81, R87, R88; 07 R159). -/

namespace Sys2Proof.Machine

variable {i : Instr} {s : State} {c : Ctx} {uni n : Bool} {d : BitVec 7} {k : Nat}

/-- The values that a per-lane result pushes. -/
theorem at_laneVals {m : Mask} {l : Nat} (x : Nat → DWord) (inside : l < 32) (on : m.getLsbD l = true) : (Latch.lanes (laneVals m x)).at l = x l := by
  simp [Latch.at, laneVals, List.getD_eq_getElem?_getD, inside, on]

theorem delivers_putResult (h : Issues i s c) (x : Nat → DWord) : ∃ g, findGroup (putResult c uni n d k x).finish c.g.gid = some g ∧ Delivers c g uni n d k x := by
  unfold putResult
  dsimp only
  split
  case isTrue one => exact delivers_finish h (by rw [if_pos one])
  case isFalse perLane => exact delivers_finish h (by rw [if_neg perLane]; exact fun l inside on => at_laneVals x inside on)

/-- A word whose effect is a result lane by lane delivers it. -/
theorem next_of_putResult (h : Issues i s c) {x : Ctx → Nat → DWord} {y : Nat → DWord} (run : exec i s = plain i s (fun c => putResult c uni n d k (x c))) (value : ∀ l, x c l = y l) :
    ∃ t g, exec i s = .next t ∧ findGroup t c.g.gid = some g ∧ Delivers c g uni n d k y := by
  rw [← funext value]
  obtain ⟨g, found, delivers⟩ := delivers_putResult h (x c)
  exact ⟨_, g, by rw [run, Laws.plain_of_issues h], found, delivers⟩

/-- So does one whose effect is one value of the fragment. -/
theorem next_of_putUni (h : Issues i s c) {x : Ctx → DWord} {y : DWord} (run : ∀ s, exec i s = plain i s (fun c => putUni c n d 1 (x c))) (value : x c = y) :
    ∃ t g, exec i s = .next t ∧ findGroup t c.g.gid = some g ∧ Delivers c g true n d 1 (fun _ => y) := by
  rw [← value]
  exact givesOne_of_putUni run s c h

theorem gives_of_putResult {x y : Ctx → Nat → DWord} (run : ∀ s, exec i s = plain i s (fun c => putResult c uni n d k (x c)))
    (value : ∀ s c, Issues i s c → ∀ l, x c l = y c l) : Gives i uni n d k y :=
  fun s c h => next_of_putResult h (run s) (value s c h)

theorem gives_of_put32 {x y : Ctx → Nat → Word} (run : ∀ s, exec i s = plain i s (fun c => put32 c uni n d (x c))) (value : ∀ c l, x c l = y c l) :
    Gives i uni n d 1 (fun c l => (y c l).setWidth 64) := gives_of_putResult run fun _ c _ l => by rw [value]

theorem givesTwo_of_two {w : FmtA} {op op' : Word → Word → Word} (value : ∀ a b, op a b = op' a b) (run : ∀ s, exec i s = plain i s (two w op) := by intros; rfl) : GivesTwo i w op' :=
  gives_of_put32 run fun _ _ => value _ _

theorem givesX_of_one {w : FmtX} {op op' : Word → Word} (run : ∀ s, exec i s = plain i s (one w op)) (value : ∀ a, op a = op' a) : GivesX i w op' :=
  gives_of_put32 run fun _ _ => value _

end Sys2Proof.Machine
end

section
/-! The two-source integer words on values: each operation is the exact one on integers, truncated (07 R163, R164, Table 7.1). -/

namespace Sys2Proof.Machine

variable (a b : Word)

/-! ### Sums, products, minima and maxima -/

theorem ofInt_sub_toInt {n : Nat} (a b : BitVec n) : BitVec.ofInt n (a.toInt - b.toInt) = a - b := by
  rw [Int.sub_eq_add_neg, BitVec.ofInt_add, BitVec.ofInt_neg, BitVec.ofInt_toInt, BitVec.ofInt_toInt, BitVec.sub_eq_add_neg]

theorem ofInt_add_toInt {n : Nat} (a b : BitVec n) : BitVec.ofInt n (a.toInt + b.toInt) = a + b := by rw [BitVec.ofInt_add, BitVec.ofInt_toInt, BitVec.ofInt_toInt]

theorem ofInt_mul_toInt {n : Nat} (a b : BitVec n) : BitVec.ofInt n (a.toInt * b.toInt) = a * b := by rw [BitVec.ofInt_mul, BitVec.ofInt_toInt, BitVec.ofInt_toInt]

/-- The high half of an integer of 64 bits. -/
theorem extractLsb'_ofInt (p : Int) : (BitVec.ofInt 64 p).extractLsb' 32 32 = BitVec.ofInt 32 (p / 2 ^ 32) := by
  refine BitVec.eq_of_toNat_eq ?_
  rw [BitVec.extractLsb'_toNat, BitVec.toNat_ofInt, BitVec.toNat_ofInt, Nat.shiftRight_eq_div_pow]
  omega

theorem imulhOp_eq : imulhOp a b = BitVec.ofInt 32 (a.toInt * b.toInt / 2 ^ 32) := by
  rw [← extractLsb'_ofInt, BitVec.ofInt_mul]
  rfl

theorem imulhuOp_eq : imulhuOp a b = BitVec.ofNat 32 (a.toNat * b.toNat / 2 ^ 32) := by
  have product : a.setWidth 64 * b.setWidth 64 = BitVec.ofInt 64 ((a.toNat * b.toNat : Nat) : Int) := by
    rw [Int.natCast_mul, BitVec.ofInt_mul, BitVec.ofInt_natCast, BitVec.ofInt_natCast, BitVec.ofNat_toNat, BitVec.ofNat_toNat]
  rw [imulhuOp, product, extractLsb'_ofInt, ← BitVec.ofInt_natCast]
  rfl

theorem iminOp_eq : iminOp a b = BitVec.ofInt 32 (min a.toInt b.toInt) := by rw [← toInt_iminOp, BitVec.ofInt_toInt]
theorem imaxOp_eq : imaxOp a b = BitVec.ofInt 32 (max a.toInt b.toInt) := by rw [← toInt_imaxOp, BitVec.ofInt_toInt]
theorem iminuOp_eq : iminuOp a b = BitVec.ofNat 32 (min a.toNat b.toNat) := by rw [← toNat_iminuOp, BitVec.ofNat_toNat, BitVec.setWidth_eq]
theorem imaxuOp_eq : imaxuOp a b = BitVec.ofNat 32 (max a.toNat b.toNat) := by rw [← toNat_imaxuOp, BitVec.ofNat_toNat, BitVec.setWidth_eq]

/-! ### Shifts and rotation -/

theorem shiftLeft_eq_ofNat (n : Nat) : a <<< n = BitVec.ofNat 32 (a.toNat * 2 ^ n) :=
  BitVec.eq_of_toNat_eq (by rw [BitVec.toNat_shiftLeft, Nat.shiftLeft_eq, BitVec.toNat_ofNat])

theorem ushiftRight_eq_ofNat (n : Nat) : a >>> n = BitVec.ofNat 32 (a.toNat / 2 ^ n) := by
  rw [← Nat.shiftRight_eq_div_pow, ← BitVec.toNat_ushiftRight, BitVec.ofNat_toNat, BitVec.setWidth_eq]

theorem shlOp_eq : shlOp a b = BitVec.ofNat 32 (a.toNat * 2 ^ b.toNat) := by
  rw [← shiftLeft_eq_ofNat, shlOp]
  split
  · rfl
  · exact (BitVec.shiftLeft_eq_zero (by omega)).symm

theorem shrOp_eq : shrOp a b = BitVec.ofNat 32 (a.toNat / 2 ^ b.toNat) := by
  rw [← ushiftRight_eq_ofNat, shrOp]
  split
  · rfl
  · exact (BitVec.ushiftRight_eq_zero (by omega)).symm

/-- Of a signed word nothing but its sign is left from 31 places on. -/
theorem toInt_div_two_pow {n : Nat} (far : 31 ≤ n) : a.toInt / 2 ^ n = a.toInt / 2 ^ 31 := by
  have low := a.le_toInt
  have high := a.toInt_lt
  have scale : (2 ^ 31 : Int) ≤ 2 ^ n := pow_le_pow_right₀ (by decide) far
  rcases Int.lt_or_le a.toInt 0 with neg | pos
  · rw [Int.ediv_eq_neg_one_of_neg_of_le neg (by omega), Int.ediv_eq_neg_one_of_neg_of_le neg (by omega)]
  · rw [Int.ediv_eq_zero_of_lt pos (by omega), Int.ediv_eq_zero_of_lt pos (by omega)]

theorem shraOp_eq : shraOp a b = BitVec.ofInt 32 (a.toInt / 2 ^ b.toNat) := by
  have places : a.toInt / 2 ^ b.toNat = a.toInt / 2 ^ min b.toNat 31 := by
    rcases Nat.le_total b.toNat 31 with near | far
    · rw [Nat.min_eq_left near]
    · rw [Nat.min_eq_right far, toInt_div_two_pow a far]
  rw [places, shraOp, ← BitVec.ofInt_toInt (x := a.sshiftRight _), BitVec.toInt_sshiftRight, Int.shiftRight_eq_div_pow]
  norm_cast

theorem rotlOp_eq : rotlOp a b = BitVec.ofNat 32 (a.toNat * 2 ^ (b.toNat % 32) + a.toNat / 2 ^ (32 - b.toNat % 32)) := by
  have low : a.toNat / 2 ^ (32 - b.toNat % 32) < 2 ^ (b.toNat % 32) := by
    rw [Nat.div_lt_iff_lt_mul (by positivity), ← Nat.pow_add, Nat.add_sub_cancel' (by omega)]
    exact a.isLt
  rw [Nat.mul_comm, Nat.two_pow_add_eq_or_of_lt low, BitVec.ofNat_or, Nat.mul_comm, ← shiftLeft_eq_ofNat, ← ushiftRight_eq_ofNat, rotlOp, BitVec.rotateLeft_def, Nat.mod_mod]

/-! ### Table 7.1, word by word -/

variable (w : FmtA)

theorem givesTwo_iadd : GivesTwo (.iadd w) w (fun a b => BitVec.ofInt 32 (a.toInt + b.toInt)) := givesTwo_of_two fun a b => (ofInt_add_toInt a b).symm
theorem givesTwo_isub : GivesTwo (.isub w) w (fun a b => BitVec.ofInt 32 (a.toInt - b.toInt)) := givesTwo_of_two fun a b => (ofInt_sub_toInt a b).symm
theorem givesTwo_imul : GivesTwo (.imul w) w (fun a b => BitVec.ofInt 32 (a.toInt * b.toInt)) := givesTwo_of_two fun a b => (ofInt_mul_toInt a b).symm
theorem givesTwo_imulh : GivesTwo (.imulh w) w (fun a b => BitVec.ofInt 32 (a.toInt * b.toInt / 2 ^ 32)) := givesTwo_of_two imulhOp_eq
theorem givesTwo_imulhu : GivesTwo (.imulhu w) w (fun a b => BitVec.ofNat 32 (a.toNat * b.toNat / 2 ^ 32)) := givesTwo_of_two imulhuOp_eq
theorem givesTwo_imin : GivesTwo (.imin w) w (fun a b => BitVec.ofInt 32 (min a.toInt b.toInt)) := givesTwo_of_two iminOp_eq
theorem givesTwo_imax : GivesTwo (.imax w) w (fun a b => BitVec.ofInt 32 (max a.toInt b.toInt)) := givesTwo_of_two imaxOp_eq
theorem givesTwo_iminu : GivesTwo (.iminu w) w (fun a b => BitVec.ofNat 32 (min a.toNat b.toNat)) := givesTwo_of_two iminuOp_eq
theorem givesTwo_imaxu : GivesTwo (.imaxu w) w (fun a b => BitVec.ofNat 32 (max a.toNat b.toNat)) := givesTwo_of_two imaxuOp_eq
theorem givesTwo_and : GivesTwo (.and w) w (fun a b => a &&& b) := givesTwo_of_two fun _ _ => rfl
theorem givesTwo_or : GivesTwo (.or w) w (fun a b => a ||| b) := givesTwo_of_two fun _ _ => rfl
theorem givesTwo_xor : GivesTwo (.xor w) w (fun a b => a ^^^ b) := givesTwo_of_two fun _ _ => rfl
theorem givesTwo_andn : GivesTwo (.andn w) w (fun a b => a &&& ~~~b) := givesTwo_of_two fun _ _ => rfl
theorem givesTwo_shl : GivesTwo (.shl w) w (fun a b => BitVec.ofNat 32 (a.toNat * 2 ^ b.toNat)) := givesTwo_of_two shlOp_eq
theorem givesTwo_shr : GivesTwo (.shr w) w (fun a b => BitVec.ofNat 32 (a.toNat / 2 ^ b.toNat)) := givesTwo_of_two shrOp_eq
theorem givesTwo_shra : GivesTwo (.shra w) w (fun a b => BitVec.ofInt 32 (a.toInt / 2 ^ b.toNat)) := givesTwo_of_two shraOp_eq
theorem givesTwo_rotl : GivesTwo (.rotl w) w (fun a b => BitVec.ofNat 32 (a.toNat * 2 ^ (b.toNat % 32) + a.toNat / 2 ^ (32 - b.toNat % 32))) := givesTwo_of_two rotlOp_eq

/-- Settles O10: each word delivers its operation on values, which is the one that Table 7.1 gives. -/
theorem twoSourceIntegerResults : Obligations.TwoSourceIntegerResults := by
  unfold Obligations.TwoSourceIntegerResults
  exact fun w => ⟨givesTwo_iadd w, givesTwo_isub w, givesTwo_imul w, givesTwo_imulh w, givesTwo_imulhu w, givesTwo_imin w, givesTwo_imax w, givesTwo_iminu w, givesTwo_imaxu w,
    givesTwo_and w, givesTwo_or w, givesTwo_xor w, givesTwo_andn w, givesTwo_shl w, givesTwo_shr w, givesTwo_shra w, givesTwo_rotl w⟩

end Sys2Proof.Machine
end

section
/-! The other integer words on values: bit fields, byte products, one-source functions, constants, addresses (07 R165-R170, Table 7.2). -/

namespace Sys2Proof.Machine

variable (a b d : Word)

/-! ### Bit fields -/

/-- The bits of a number into which the n bits of x have been put at place p. -/
theorem testBit_insert (d p n j : Nat) {x : Nat} (fits : x < 2 ^ n) :
    (d % 2 ^ p + x * 2 ^ p + d / 2 ^ (p + n) * 2 ^ (p + n)).testBit j = if p ≤ j ∧ j < p + n then x.testBit (j - p) else d.testBit j := by
  have low : d % 2 ^ p < 2 ^ p := Nat.mod_lt _ (by positivity)
  have field : 2 ^ p * x + d % 2 ^ p < 2 ^ (p + n) := by
    have := Nat.mul_le_mul_left (2 ^ p) (Nat.succ_le_of_lt fits)
    rw [Nat.mul_succ, ← Nat.pow_add] at this
    omega
  rw [Nat.add_comm (d % 2 ^ p), Nat.mul_comm x, Nat.add_comm _ (d / _ * _), Nat.mul_comm (d / _), Nat.two_pow_add_eq_or_of_lt field, Nat.two_pow_add_eq_or_of_lt low]
  simp only [Nat.testBit_or, Nat.testBit_two_pow_mul, Nat.testBit_mod_two_pow, Nat.testBit_div_two_pow]
  rcases Nat.lt_or_ge j p with below | from_
  · simp [below, Nat.not_le.mpr below, show ¬ p + n ≤ j by omega]
  · rcases Nat.lt_or_ge j (p + n) with inside | above
    · simp [from_, inside, Nat.not_le.mpr inside, Nat.not_lt.mpr from_]
    · have none : x.testBit (j - p) = false := Nat.testBit_lt_two_pow (Nat.lt_of_lt_of_le fits (Nat.pow_le_pow_right (by decide) (by omega)))
      simp [from_, above, Nat.not_lt.mpr above, Nat.not_lt.mpr from_, none, show j - (p + n) + (p + n) = j by omega]

theorem fieldPos_eq : fieldPos b = b.toNat % 32 := by simp [fieldPos, BitVec.extractLsb'_toNat]

theorem fieldWidth_eq : fieldWidth b = min (b.toNat / 256 % 64) (32 - b.toNat % 32) := by
  rw [fieldWidth, fieldPos_eq, BitVec.extractLsb'_toNat, Nat.shiftRight_eq_div_pow]

theorem toNat_lowMask {n : Nat} (fits : n ≤ 32) : (lowMask n).toNat = 2 ^ n - 1 := by
  have := Nat.pow_le_pow_right (n := 2) (by decide) fits
  have := Nat.two_pow_pos n
  rw [lowMask, BitVec.toNat_ofNat, Nat.mod_eq_of_lt (by omega)]

theorem getLsbD_lowMask {n : Nat} (fits : n ≤ 32) (j : Nat) : (lowMask n).getLsbD j = decide (j < n) := by
  rw [BitVec.getLsbD, toNat_lowMask fits, Nat.testBit_two_pow_sub_one]

theorem toNat_and_lowMask {n : Nat} (fits : n ≤ 32) : (a &&& lowMask n).toNat = a.toNat % 2 ^ n := by rw [BitVec.toNat_and, toNat_lowMask fits, Nat.and_two_pow_sub_one_eq_mod]

/-- The bits above a mask of n bits stand for -2 ^ n. -/
theorem not_lowMask (n : Nat) : ~~~lowMask n = BitVec.ofInt 32 (-(2 ^ n : Nat)) := by
  have mask : lowMask n = BitVec.ofNat 32 (2 ^ n) - 1#32 := by
    rw [lowMask, ← Nat.sub_add_cancel (Nat.two_pow_pos n), BitVec.ofNat_add]
    simp
  rw [BitVec.ofInt_neg, BitVec.ofInt_natCast, mask]
  generalize BitVec.ofNat 32 (2 ^ n) = x
  bv_omega

theorem or_not_lowMask (n : Nat) : a &&& lowMask n ||| ~~~lowMask n = BitVec.ofInt 32 ((a &&& lowMask n).toNat - 2 ^ n) := by
  have apart : a &&& lowMask n &&& ~~~lowMask n = 0#32 := by simp [BitVec.and_assoc]
  rw [← BitVec.add_eq_or_of_and_eq_zero _ _ apart, not_lowMask, Int.sub_eq_add_neg, BitVec.ofInt_add, BitVec.ofInt_natCast, BitVec.ofNat_toNat, BitVec.setWidth_eq]
  norm_cast

/-- The top bit of a field of n bits. -/
theorem testBit_top {x n : Nat} (some : n ≠ 0) (fits : x < 2 ^ n) : x.testBit (n - 1) = decide (2 ^ (n - 1) ≤ x) := by
  have width : n - 1 + 1 = n := by omega
  by_cases top : 2 ^ (n - 1) ≤ x
  · rw [Nat.testBit_of_two_pow_le_and_two_pow_add_one_gt top (by rwa [width]), decide_eq_true top]
  · rw [Nat.testBit_lt_two_pow (Nat.not_le.mp top), decide_eq_false top]

theorem bfxOp_eq (sx : Bool) : bfxOp sx a b =
    let pos := b.toNat % 32
    let ew := min (b.toNat / 256 % 64) (32 - pos)
    let x := a.toNat / 2 ^ pos % 2 ^ ew
    if sx && decide (0 < ew) && decide (2 ^ (ew - 1) ≤ x) then BitVec.ofInt 32 ((x : Int) - 2 ^ ew) else BitVec.ofNat 32 x := by
  extract_lets pos ew x
  have fits : ew ≤ 32 := by omega
  have field : (a >>> pos &&& lowMask ew).toNat = x := by rw [toNat_and_lowMask _ fits, BitVec.toNat_ushiftRight, Nat.shiftRight_eq_div_pow]
  have below : x < 2 ^ ew := Nat.mod_lt _ (Nat.two_pow_pos _)
  simp only [bfxOp, fieldPos_eq, fieldWidth_eq]
  change (if ew = 0 then 0#32 else if sx && (a >>> pos &&& lowMask ew).getLsbD (ew - 1) then a >>> pos &&& lowMask ew ||| ~~~lowMask ew else a >>> pos &&& lowMask ew) = _
  by_cases none : ew = 0
  · have zero : x = 0 := by rw [none] at below; omega
    simp [none, zero]
  · rw [if_neg none, BitVec.getLsbD, or_not_lowMask, field, testBit_top none below, decide_eq_true (Nat.pos_of_ne_zero none), Bool.and_true, ← field, BitVec.ofNat_toNat, BitVec.setWidth_eq]

theorem bfiOp_eq : bfiOp a b d =
    let pos := b.toNat % 32
    let ew := min (b.toNat / 256 % 64) (32 - pos)
    BitVec.ofNat 32 (d.toNat % 2 ^ pos + a.toNat % 2 ^ ew * 2 ^ pos + d.toNat / 2 ^ (pos + ew) * 2 ^ (pos + ew)) := by
  extract_lets pos ew
  refine BitVec.eq_of_getLsbD_eq fun j inside => ?_
  rw [BitVec.getLsbD_ofNat, testBit_insert _ _ _ _ (Nat.mod_lt _ (Nat.two_pow_pos _)), Nat.testBit_mod_two_pow]
  simp only [bfiOp, fieldPos_eq, fieldWidth_eq]
  change (d &&& ~~~(lowMask ew <<< pos) ||| a <<< pos &&& lowMask ew <<< pos).getLsbD j = _
  simp only [BitVec.getLsbD_or, BitVec.getLsbD_and, BitVec.getLsbD_not, BitVec.getLsbD_shiftLeft, getLsbD_lowMask (show ew ≤ 32 by omega), inside, decide_true, Bool.true_and]
  by_cases here : pos ≤ j ∧ j < pos + ew
  · simp [here, BitVec.getLsbD, show ¬ j < pos by omega, show j - pos < ew by omega]
  · have out : (!decide (j < pos) && decide (j - pos < ew)) = false := by simp; omega
    simp [here, BitVec.getLsbD, out]

/-! ### Bytes -/

/-- Byte j of a word, as DP4 reads it. -/
theorem ofInt_byteAt (uns : Bool) (j : Nat) :
    BitVec.ofInt 32 (if uns then ((a.toNat / 2 ^ (8 * j) % 256 : Nat) : Int) else (BitVec.ofNat 8 (a.toNat / 2 ^ (8 * j))).toInt) =
      if uns then (byteAt a j).setWidth 32 else (byteAt a j).signExtend 32 := by
  have byte : byteAt a j = BitVec.ofNat 8 (a.toNat / 2 ^ (8 * j)) := by rw [byteAt, BitVec.extractLsb', Nat.shiftRight_eq_div_pow]
  rw [byte]
  cases uns with
  | false => rfl
  | true => rw [if_pos rfl, if_pos rfl, BitVec.ofInt_natCast, ← BitVec.ofNat_toNat, BitVec.toNat_ofNat]

theorem dp4Op_eq (uns : Bool) : dp4Op uns a b d =
    let v := fun (x : Word) (i : Nat) => if uns then ((x.toNat / 2 ^ (8 * i) % 256 : Nat) : Int) else (BitVec.ofNat 8 (x.toNat / 2 ^ (8 * i))).toInt
    BitVec.ofInt 32 (d.toInt + v a 0 * v b 0 + v a 1 * v b 1 + v a 2 * v b 2 + v a 3 * v b 3) := by
  simp only [BitVec.ofInt_add, BitVec.ofInt_mul, ofInt_byteAt, BitVec.ofInt_toInt]
  cases uns <;> rfl

/-- The bytes of four bytes in a row, the last one lowest. -/
theorem extractLsb'_bytes (p q r t : BitVec 8) :
    (p ++ q ++ r ++ t).extractLsb' 0 8 = t ∧ (p ++ q ++ r ++ t).extractLsb' 8 8 = r ∧ (p ++ q ++ r ++ t).extractLsb' 16 8 = q ∧ (p ++ q ++ r ++ t).extractLsb' 24 8 = p := by
  refine ⟨?_, ?_, ?_, ?_⟩
  · exact BitVec.extractLsb'_append_eq_right
  · rw [BitVec.extractLsb'_append_eq_of_le (by decide)]
    exact BitVec.extractLsb'_append_eq_right
  · rw [BitVec.extractLsb'_append_eq_of_le (by decide), BitVec.extractLsb'_append_eq_of_le (by decide)]
    exact BitVec.extractLsb'_append_eq_right
  · rw [BitVec.extractLsb'_append_eq_of_le (by decide), BitVec.extractLsb'_append_eq_of_le (by decide), BitVec.extractLsb'_append_eq_of_le (by decide)]
    exact BitVec.extractLsb'_eq_self

theorem extractLsb'_bswapOp {j : Nat} (inside : j < 4) : (bswapOp a).extractLsb' (8 * j) 8 = a.extractLsb' (8 * (3 - j)) 8 := by
  obtain ⟨zero, one, two, three⟩ := extractLsb'_bytes (byteAt a 0) (byteAt a 1) (byteAt a 2) (byteAt a 3)
  obtain rfl | rfl | rfl | rfl : j = 0 ∨ j = 1 ∨ j = 2 ∨ j = 3 := by omega
  · exact zero
  · exact one
  · exact two
  · exact three

/-! ### One-source functions -/

theorem absOp_eq : absOp a = BitVec.ofNat 32 a.toInt.natAbs := by
  rw [absOp, BitVec.msb_eq_toInt, ← BitVec.ofInt_natCast]
  by_cases neg : a.toInt < 0
  · rw [if_pos (decide_eq_true neg), Int.natCast_natAbs, abs_of_neg neg, BitVec.ofInt_neg, BitVec.ofInt_toInt]
  · rw [if_neg (by simpa using neg), Int.natCast_natAbs, abs_of_nonneg (Int.not_lt.mp neg), BitVec.ofInt_toInt]

theorem clzOp_eq : clzOp a = BitVec.ofNat 32 (if a = 0#32 then 32 else 31 - Nat.log2 a.toNat) := by
  by_cases zero : a = 0#32
  · subst zero; rfl
  · have nonzero : a.toNat ≠ 0 := by simpa using (BitVec.toNat_ne).mp zero
    have small : a.toNat.log2 < 32 := (Nat.log2_lt nonzero).mpr a.isLt
    have first : (List.range 32).find? (fun i => a.getLsbD (31 - i)) = some (31 - a.toNat.log2) := by
      refine List.find?_range_eq_some.mpr ⟨?_, List.mem_range.mpr (by omega), fun j before => ?_⟩
      · rw [show 31 - (31 - a.toNat.log2) = a.toNat.log2 by omega]
        exact Nat.testBit_log2 nonzero
      · rw [BitVec.getLsbD, Nat.testBit_lt_two_pow ((Nat.log2_lt nonzero).mp (by omega))]
        rfl
    rw [clzOp, first, if_neg zero]
    rfl

/-- A word with a bit has a lowest one. -/
theorem ctzOp_lowest {a : Word} (some : a ≠ 0#32) : (ctzOp a).toNat < 32 ∧ a.getLsbD (ctzOp a).toNat = true ∧ ∀ j, j < (ctzOp a).toNat → a.getLsbD j = false := by
  cases first : (List.range 32).find? (fun i => a.getLsbD i) with
  | none =>
    refine absurd (BitVec.eq_of_getLsbD_eq fun j inside => ?_) some
    simpa using List.find?_eq_none.mp first j (List.mem_range.mpr inside)
  | some k =>
    obtain ⟨on, inside, before⟩ := List.find?_range_eq_some.mp first
    have inside := List.mem_range.mp inside
    have place : (ctzOp a).toNat = k := by rw [ctzOp, first, Option.getD_some, BitVec.toNat_ofNat, Nat.mod_eq_of_lt (by omega)]
    rw [place]
    exact ⟨inside, on, fun j low => by simpa using before j low⟩

/-! ### Constants and addresses -/

theorem movhi_eq (old : DWord) (imm : BitVec 16) :
    old &&& ~~~0xFFFF0000#64 ||| imm.setWidth 64 <<< 16 = BitVec.ofNat 64 (old.toNat % 2 ^ 16 + imm.toNat * 2 ^ 16 + old.toNat / 2 ^ 32 * 2 ^ 32) := by
  have field : 0xFFFF0000#64 = BitVec.ofNat 64 (2 ^ 16 - 1) <<< 16 := rfl
  refine BitVec.eq_of_getLsbD_eq fun j inside => ?_
  rw [BitVec.getLsbD_ofNat, testBit_insert old.toNat 16 16 j imm.isLt, field]
  simp only [BitVec.getLsbD_or, BitVec.getLsbD_and, BitVec.getLsbD_not, BitVec.getLsbD_shiftLeft, BitVec.getLsbD_setWidth, BitVec.getLsbD_ofNat, Nat.testBit_two_pow_sub_one, inside,
    decide_true, Bool.true_and]
  by_cases here : 16 ≤ j ∧ j < 32
  · simp [here, BitVec.getLsbD, show ¬ j < 16 by omega, show j - 16 < 16 by omega, show j - 16 < 64 by omega]
  · obtain low | high : j < 16 ∨ 32 ≤ j := by omega
    · simp [here, BitVec.getLsbD, low]
    · have none : imm.toNat.testBit (j - 16) = false := imm.getLsbD_of_ge _ (by omega)
      simp [here, none, BitVec.getLsbD, show ¬ j - 16 < 16 by omega]

theorem leaOp_eq (x : Bool) (p : DWord) : leaOp x p b = BitVec.ofInt 64 (p.toInt + b.toInt * (if x then 4 else 1)) := by
  rw [leaOp, BitVec.ofInt_add, BitVec.ofInt_toInt]
  cases x with
  | false => simp [BitVec.signExtend]
  | true => simp [signExtend_shiftLeft_two, Int.mul_comm]

/-! ### The words -/

variable {w : FmtA}

/-- MOV delivers a register, or with x = 1 a pair (07 R169, Table 7.3). -/
theorem givesTwo_mov (narrow : w.x = false) : GivesTwo (.mov w) w (fun a _ => a) := by
  cases w
  subst narrow
  exact gives_of_put32 (fun _ => rfl) fun _ _ => rfl

theorem gives_mov_pair (wide : w.x = true) : Gives (.mov w) w.u w.n w.d 2 (fun c l => op64 c w.a l) := by
  cases w
  subst wide
  exact gives_of_putResult (fun _ => rfl) fun _ _ _ _ => rfl

theorem gives_movhi (w : FmtL) : Gives (.movhi w) w.u false w.d 1 (fun c l =>
    let old := if w.u then (op64 c w.d l).toNat else (op32 c w.d l).toNat
    BitVec.ofNat 64 (old % 2 ^ 16 + w.imm.toNat * 2 ^ 16 + old / 2 ^ 32 * 2 ^ 32)) := by
  refine gives_of_putResult (fun _ => rfl) fun s c _ l => (movhi_eq _ w.imm).trans ?_
  cases w.u with
  | true => rfl
  | false =>
    have low : ((op32 c w.d l).setWidth 64).toNat = (op32 c w.d l).toNat := BitVec.toNat_setWidth_of_le (by decide)
    simp only [Bool.false_eq_true, if_false, low]

theorem gives_sel (w : FmtQ) : Gives (.sel w) false false w.d 1 (fun c l => (if (pget c.g w.ps.toNat).getLsbD l = w.n then op32 c w.b l else op32 c w.a l).setWidth 64) :=
  gives_of_put32 (fun _ => rfl) fun c l => by simp [ite_not]

/-- Settles O11: each word delivers its operation on values, which is the one that R165-R170 and R172 give. -/
theorem otherIntegerResults : Obligations.OtherIntegerResults := by
  unfold Obligations.OtherIntegerResults
  refine ⟨fun w => ⟨?mad, ?addmin, ?dp4, ?bfx, ?bfi, givesTwo_mov, gives_mov_pair, ?add64, ?lea⟩, fun w => ⟨?neg, ?abs, ?not, ?popc, ?clz, ?sextb, ?sexth⟩, fun w => ⟨?movi, gives_movhi w⟩,
    gives_sel, fun w => ⟨?brev, ?bswap, ?ctz⟩⟩
  case mad => exact gives_of_put32 (fun _ => rfl) fun c l => by rw [BitVec.ofInt_add, ofInt_mul_toInt, BitVec.ofInt_toInt]; rfl
  case addmin => exact gives_of_put32 (fun _ => rfl) fun c l => iminOp_eq _ _
  case dp4 => exact gives_of_put32 (fun _ => rfl) fun c l => dp4Op_eq _ _ _ _
  case bfx => exact gives_of_put32 (fun _ => rfl) fun c l => bfxOp_eq _ _ _
  case bfi => exact gives_of_put32 (fun _ => rfl) fun c l => bfiOp_eq _ _ _
  case add64 => exact gives_of_putResult (fun _ => rfl) fun _ _ _ _ => rfl
  case lea => exact gives_of_putResult (fun _ => rfl) fun _ c _ l => leaOp_eq _ _ _
  case neg => exact givesX_of_one (fun _ => rfl) fun a => (BitVec.zero_sub a).symm
  case abs => exact givesX_of_one (fun _ => rfl) absOp_eq
  case popc => exact givesX_of_one (fun _ => rfl) fun a => by rw [popcOp, List.countP_eq_length_filter]
  case clz => exact givesX_of_one (fun _ => rfl) clzOp_eq
  case not | sextb | sexth => exact givesX_of_one (fun _ => rfl) fun _ => rfl
  case movi => exact gives_of_putResult (fun _ => rfl) fun _ _ _ _ => rfl
  case brev =>
    refine ⟨brevOp, givesX_of_one (fun _ => rfl) fun _ => rfl, fun a j inside => ?_⟩
    rw [brevOp, BitVec.getLsbD_reverse, BitVec.getMsbD_eq_getLsbD, decide_eq_true inside, Bool.true_and]
  case bswap => exact ⟨bswapOp, givesX_of_one (fun _ => rfl) fun _ => rfl, fun a j inside => extractLsb'_bswapOp a inside⟩
  case ctz => exact ⟨ctzOp, givesX_of_one (fun _ => rfl) fun _ => rfl, rfl, fun a some => ctzOp_lowest some⟩

end Sys2Proof.Machine
end

section
/-! The integer compares: the predicate's bits, and the conditions on values (04 R80, R97; 07 R171, Table 7.4). -/

namespace Sys2Proof.Machine

variable {i : Instr} {s : State} {c : Ctx} {u : Bool} {pd : BitVec 3}

/-- The bits that a word writes to its predicate. -/
theorem getLsbD_putPred (writes : pd ≠ 0#3) {x : Nat → Bool} {l : Nat} (inside : l < 32) (on : c.f.mask.getLsbD l = true) :
    (pget (putPred c u pd x).g pd.toNat).getLsbD l = x (if u then leader c.f.mask else l) := by
  have some : pd.toNat ≠ 0 := (BitVec.toNat_ne).mp writes
  rw [putPred, Laws.pget_pset, if_pos ⟨rfl, some, on⟩, getLsbD_maskOf, decide_eq_true inside, Bool.true_and]
  cases u <;> rfl

/-- A legal word meets the conditions of its own description. -/
theorem own_of_legal (legal : legal i = true) : (shape i).own = true := by
  simp only [Machine.legal, Bool.and_eq_true] at legal
  obtain ⟨⟨-, own⟩, -⟩ := legal
  exact own

/-- What the group of a word that has written and fallen through reads: the registers and latches as the word has left them. -/
theorem found_finish {c' : Ctx} {R U P : List Nat} {fl : BitVec 64} (h : Chosen i s c) (writes : Laws.Writes c c' R U P fl) :
    ∃ g, findGroup c'.finish c.g.gid = some g ∧ g.v = c'.g.v ∧ g.s = c'.g.s ∧ g.p = c'.g.p ∧ ∃ f, g.frags[c.fi]? = some f ∧ f.latches = c'.f.latches := by
  have gid : c'.g.gid = c.g.gid := by rw [writes.rest]
  have frags : c'.g.frags = c.g.frags := by rw [writes.rest]
  refine ⟨_, Laws.findGroup_setGroup_at gid (writes.state ▸ findGroup_chosen h), rfl, rfl, rfl, ?_⟩
  simp only [Ctx.group, setAt, frags, writes.fi]
  exact ⟨_, List.getElem?_set_self (inside_of_chosen h), rfl⟩

/-- A word whose effect is a write to a predicate gives the bits that it writes of an issuing word. -/
theorem givesBit_of_putPred {x y : Ctx → Nat → Bool} (run : ∀ s, exec i s = plain i s (fun c => putPred c u pd (x c)))
    (value : ∀ c, legal i = true → ∀ l, x c l = y c l) : GivesBit i u pd y := by
  intro s c h
  rw [← funext (value c (Laws.legal_of_firstTrap h.noTrap))]
  have writes := Laws.Writes.putPred c u pd (x c) [] [] [pd.toNat] 0 (List.mem_singleton_self _)
  obtain ⟨g, found, -, -, preds, f, here, latches⟩ := found_finish h.toChosen writes
  refine ⟨_, g, by rw [run, Laws.plain_of_issues h], found, fun some l inside on => ?_, rfl, f, here, latches⟩
  rw [← getLsbD_putPred (x := x c) some inside on, pget, pget, preds]

/-! ### Conditions -/

variable {n : Nat} (a b : BitVec n)

theorem bne_eq_decide_ne : (a != b) = decide (a ≠ b) := by rw [bne, beq_eq_decide, decide_not]

/-- A condition, in the order that the word compares in. -/
theorem icond_eq (uns : Bool) (cond : BitVec 4) : icond uns cond a b =
    match cond.toNat with
    | 0 => decide (a = b) | 1 => decide (a ≠ b)
    | 2 => if uns then decide (a.toNat < b.toNat) else decide (a.toInt < b.toInt) | 3 => if uns then decide (a.toNat ≤ b.toNat) else decide (a.toInt ≤ b.toInt)
    | 4 => if uns then decide (b.toNat < a.toNat) else decide (b.toInt < a.toInt) | 5 => if uns then decide (b.toNat ≤ a.toNat) else decide (b.toInt ≤ a.toInt)
    | 6 => decide (a &&& b ≠ 0#n) | 7 => decide (a &&& b = 0#n)
    | 8 => decide (a.toNat < b.toNat) | 9 => decide (a.toNat ≤ b.toNat) | 10 => decide (b.toNat < a.toNat) | _ => decide (b.toNat ≤ a.toNat) := by
  obtain ⟨k, small⟩ := cond
  simp only [icond, bne_eq_decide_ne, beq_eq_decide, BitVec.slt_eq_decide, BitVec.ult_eq_decide]
  cases uns
  all_goals
    simp only [Bool.false_eq_true, if_false, if_true, ← decide_not, Int.not_lt, Nat.not_lt]
    interval_cases k
    all_goals rfl

/-- A legal compare names a condition up to the last that its word has (07 R171). -/
theorem cond_le_of_own {w : FmtP} {imm : Bool} {top : Nat} (own : (shapeP w 1 imm top).own = true) : w.cond.toNat ≤ top :=
  of_decide_eq_true (Bool.and_eq_true_iff.mp own).1

/-- Settles O12: each word writes its condition's outcome, which codes 0 to 7 name for ICMP and ICMPU, the other codes being illegal. -/
theorem compareResults : Obligations.CompareResults := by
  unfold Obligations.CompareResults
  intro w
  refine ⟨?icmp, ?icmpu, ?icmp64⟩
  case icmp | icmpu =>
    refine givesBit_of_putPred (fun _ => rfl) fun c legal l => (icond_eq _ _ _ _).trans ?_
    have known := cond_le_of_own (own_of_legal legal)
    generalize w.cond.toNat = k at known ⊢
    interval_cases k
    all_goals rfl
  case icmp64 => exact givesBit_of_putPred (fun _ => rfl) fun c legal l => icond_eq _ _ _ _

end Sys2Proof.Machine
end

section
/-! Lane moves and scans: the lane that each lane takes from, and the fold over the active lanes below (07 R173, R174, R176). -/

namespace Sys2Proof.Machine

/-- What lane l takes from lane j. -/
theorem fromLane_some (c : Ctx) (a : BitVec 7) (self : Bool) (j l : Nat) :
    fromLane c a self (some j) l = if c.f.mask.getLsbD j = true then op32 c a j else if self then op32 c a l else 0#32 := by
  rw [fromLane]
  by_cases on : c.f.mask.getLsbD j = true
  · simp [on, BitVec.lt_of_getLsbD on]
  · simp [on]

/-- The source lane of BCAST, of which a legal immediate is a lane. -/
theorem bcast_imm {w : FmtA} (legal : legal (.bcast w) = true) (imm : w.x = true) : w.b.toNat % 32 = w.b.toNat := by
  have own : (!w.x || decide (w.b.toNat < 32)) = true := own_of_legal legal
  rw [imm] at own
  exact Nat.mod_eq_of_lt (of_decide_eq_true own)

/-! ### Scans -/

/-- Scans, seen through a map under which the operation is another. -/
theorem into_scanAt {β : Type} {into : Word → β} {op : Word → Word → Word} {op' : β → β → β} (hom : ∀ p q, into (op p q) = op' (into p) (into q)) (z : Word) (m : Mask) (v : Nat → Word)
    (e : BitVec 1) (l : Nat) :
    into (scanAt op z m v (e == 1#1) l) =
      (((List.range 32).filter (fun j => m.getLsbD j && (decide (j < l) || (e == 0#1 && j == l)))).map (fun j => into (v j))).foldl op' (into z) := by
  have lanes : (lanesOf m).filter (fun j => if e == 1#1 then decide (j < l) else decide (j ≤ l)) =
      (List.range 32).filter (fun j => m.getLsbD j && (decide (j < l) || (e == 0#1 && j == l))) := by
    rw [lanesOf, List.filter_filter]
    refine List.filter_congr fun j _ => ?_
    obtain rfl | rfl := e.eq_zero_or_eq_one
    · simp [Nat.le_iff_lt_or_eq, Bool.and_comm, beq_eq_decide]
    · simp [Bool.and_comm]
  rw [scanAt, lanes, List.foldl_map]
  exact (List.foldl_hom into fun _ _ => (hom _ _).symm).symm

/-- Settles O13: a lane move selects the lane that R173 and R174 name, and a scan folds the lanes that R176 names, minima and maxima on the integers. -/
theorem laneMoveAndScanResults : Obligations.LaneMoveAndScanResults := by
  unfold Obligations.LaneMoveAndScanResults
  refine ⟨fun w f k => ⟨?shup, ?shdn, ?xor⟩, fun w => ?laneidx, fun w => ?bcast, fun w e => ⟨?add, ?min, ?max⟩⟩
  case shup =>
    refine gives_of_put32 (fun _ => rfl) fun c l => ?_
    by_cases lane : k.toNat ≤ l
    · simp only [lane, if_true, true_and, fromLane_some, beq_iff_eq]
    · simp only [lane, if_false, false_and, fromLane, beq_iff_eq]
  case shdn =>
    refine gives_of_put32 (fun _ => rfl) fun c l => ?_
    simp only [fromLane_some, and_iff_right_of_imp BitVec.lt_of_getLsbD, beq_iff_eq]
  case xor => exact gives_of_put32 (fun _ => rfl) fun c l => (fromLane_some _ _ _ _ _).trans (by simp)
  case laneidx => exact gives_of_put32 (fun _ => rfl) fun c l => fromLane_some _ _ _ _ _
  case bcast =>
    refine gives_of_putResult (fun _ => rfl) fun s c h l => congrArg _ ((fromLane_some _ _ _ _ _).trans ?_)
    by_cases imm : w.x = true
    · simp [imm, bcast_imm (Laws.legal_of_firstTrap h.noTrap) imm]
    · simp [imm]
  case add => exact gives_of_put32 (fun _ => rfl) fun c l => into_scanAt (into := id) (op' := fun p q => p + q) (fun _ _ => rfl) _ _ _ _ _
  case min => exact gives_of_put32 (fun _ => rfl) fun c l => by rw [← BitVec.ofInt_toInt (x := scanAt ..), into_scanAt toInt_iminOp]; rfl
  case max => exact gives_of_put32 (fun _ => rfl) fun c l => by rw [← BitVec.ofInt_toInt (x := scanAt ..), into_scanAt toInt_imaxOp]; rfl

end Sys2Proof.Machine
end

section
/-! Identities and queries: what they read of the package beside their group (06 R156; 07 R177-R179; 11 R281, R283; 16 R424). -/

namespace Sys2Proof.Machine

variable {i : Instr} {s : State} {c : Ctx} {n : Bool} {d : BitVec 7} {v : Vd} {tm : Team}

/-! ### What an issuing word reads -/

theorem teamOf_issuing (h : Issues i s c) (found : findTeam s c.g.team = some tm) : teamOf c = some tm := (reads_chosen h.toChosen (findTeam · c.g.team) fun _ _ _ => rfl).trans found
theorem findVd_issuing (h : Issues i s c) (found : findVd s c.g.vd = some v) : findVd c.s c.g.vd = some v := (reads_chosen h.toChosen (findVd · c.g.vd) fun _ _ _ => rfl).trans found

theorem teamField_issuing (h : Issues i s c) (found : findTeam s c.g.team = some tm) (f : Team → Nat) : teamField c f = f tm := by
  rw [teamField, teamOf_issuing h found]
  rfl

/-- GETID of a field of the team. -/
theorem next_of_teamField {f : Team → Nat} (run : ∀ s, exec i s = plain i s (fun c => putResult c false n d 1 (fun _ => BitVec.ofNat 64 (teamField c f)))) (s : State) (c : Ctx) (tm : Team)
    (found : findTeam s c.g.team = some tm) (h : Issues i s c) :
    ∃ t g, exec i s = .next t ∧ findGroup t c.g.gid = some g ∧ Delivers c g false n d 1 (fun _ => BitVec.ofNat 64 (f tm)) :=
  next_of_putResult h (run s) fun _ => by rw [teamField_issuing h found]

/-! ### Hops -/

/-- The dies of a package stand in two rows of four. -/
theorem dieHops_eq (p q : Nat) : dieHops p q = ((p / 4 : Int) - (q / 4 : Int)).natAbs + ((p % 4 : Int) - (q % 4 : Int)).natAbs := by
  unfold dieHops
  omega

theorem dieHops_lt {p q : Nat} (left : p < 8) (right : q < 8) : dieHops p q < 2 ^ 32 := by
  unfold dieHops
  omega

theorem vdhopVal_eq (found : findVd c.s c.g.vd = some v) (dies : ∀ i, i ∈ v.insts → i.pdie < 8) (a b : Word) :
    (vdhopVal c a b).setWidth 64 =
      match v.inst a.toNat, v.inst b.toNat with
      | some i, some j =>
        if i.failed || j.failed then 0xFFFFFFFF#64
        else BitVec.ofNat 64 (((i.pdie / 4 : Int) - (j.pdie / 4 : Int)).natAbs + ((i.pdie % 4 : Int) - (j.pdie % 4 : Int)).natAbs)
      | _, _ => 0xFFFFFFFF#64 := by
  simp only [vdhopVal, liveDie, found, Option.bind_some]
  cases left : v.inst a.toNat with
  | none => rfl
  | some i =>
    cases right : v.inst b.toNat with
    | none =>
      simp only [Option.bind_some]
      cases i.failed <;> rfl
    | some j =>
      have hops := dieHops_lt (dies i (List.mem_of_find?_eq_some left)) (dies j (List.mem_of_find?_eq_some right))
      simp only [Option.bind_some]
      cases i.failed with
      | true => rfl
      | false =>
        cases j.failed with
        | true => rfl
        | false => exact (BitVec.setWidth_ofNat_of_le_of_lt (by decide) hops).trans (congrArg _ (dieHops_eq _ _))

/-! ### PWR -/

/-- The next state of a word that falls through differs in its group alone. -/
theorem onlyGroup_of_next {fl : BitVec 64} {t : State} (falls : FallsThrough i fl) (h : Issues i s c) (next : exec i s = .next t) : OnlyGroup s t c.g.gid := by
  obtain ⟨t', -, next', -, only, -⟩ := falls s c h
  obtain rfl : t = t' := Host.Outcome.next.inj (next.symm.trans next')
  exact only

/-- The word of ISLIM and IMEAS of a field (03 Table 3.3). -/
theorem islimWord_issuing (h : Issues i s c) {f : Nat} {x : FieldSt} (field : s.fields[f]? = some x) :
    islimWord c.s f = BitVec.ofNat 64 ((if x.pll then x.imeas.toNat else 0) * 2 ^ 32 + x.ilim.toNat) := by
  rw [islimWord, reads_chosen h.toChosen State.fields, field]
  rfl

/-- Settles O18: each word delivers what its group, its team, its virtual device, its cluster or the field that it names holds. -/
theorem identityAndQueryResults : Obligations.IdentityAndQueryResults := by
  unfold Obligations.IdentityAndQueryResults
  refine ⟨fun w => ?words, fun w s c v found dies h => ?vdhop, fun w k s c x field h => ?islq, fun w s c v found h => ?wakeq⟩
  case words =>
    refine ⟨?lane, ?group, ?role, ?vdie, ?bay, ?cluster, ?teamx, ?teamy, ?teamz, ?gridx, ?gridy, ?gridz, fun s c v found h => ?nvdie, ?cycle, ?depth, ?cntG, ?cntS, ?cntF, ?cntW,
      fun s c tm found h => ?split⟩
    case lane | group | role | vdie | bay | cycle => exact gives_of_putResult (fun _ => rfl) fun _ _ _ _ => rfl
    case cluster => exact gives_of_putResult (fun _ => rfl) fun _ c _ _ => by cases c.g.site <;> rfl
    case teamx | teamy | teamz | gridx | gridy | gridz => exact next_of_teamField fun _ => rfl
    case nvdie => exact next_of_putResult h rfl fun _ => by rw [nvdie, findVd_issuing h found]; rfl
    case split =>
      refine next_of_putUni h (fun _ => rfl) ?_
      rw [scratchSize, teamOf_issuing h found, reads_chosen h.toChosen (clusterOf · c.g.site) fun _ _ _ => rfl]
      rfl
    case depth | cntG | cntS | cntF | cntW => exact givesOne_of_putUni fun _ => rfl
  case vdhop => exact next_of_putResult h rfl fun l => vdhopVal_eq (findVd_issuing h found) dies _ _
  case islq =>
    obtain ⟨t, g, next, here, delivers⟩ := next_of_putUni h (fun _ => rfl) (islimWord_issuing h field)
    exact ⟨t, g, next, here, delivers, onlyGroup_of_next (fallsThrough_pwrIslq w k) h next⟩
  case wakeq =>
    obtain ⟨t, g, next, here, delivers⟩ := next_of_putUni h (fun _ => rfl) rfl
    rw [findVd_issuing h found] at delivers
    exact ⟨t, g, next, here, onlyGroup_of_next (fallsThrough_pwrWakeq w) h next, delivers⟩

end Sys2Proof.Machine
end

section
/-! The flags that a floating-point word sets, and what a word that sets them delivers and leaves alone (04 R78-R81, R87, R88; 08 R186, R187, Table 8.5). -/

namespace Sys2Proof.Machine

variable {i : Instr} {s : State} {c : Ctx} {u n : Bool} {d : BitVec 7} {k : Nat}

/-! ### Flags as bits -/

/-- The flags as the low five bits of GSTAT. -/
def FFlags.low (a : FFlags) : BitVec 5 := a.bits.setWidth 5

theorem bits_eq_low (a : FFlags) : a.bits = a.low.setWidth 64 := by
  obtain ⟨nv, dz, of, uf, nx⟩ := a
  revert nv dz of uf nx
  decide

theorem bits_and_not (a : FFlags) : a.bits &&& ~~~0x1F#64 = 0#64 := by
  obtain ⟨nv, dz, of, uf, nx⟩ := a
  revert nv dz of uf nx
  decide

/-- Table 8.5. -/
theorem getLsbD_low (a : FFlags) (j : Nat) :
    a.low.getLsbD j = match j with | 0 => a.nx | 1 => a.uf | 2 => a.of | 3 => a.dz | 4 => a.nv | _ => false := by
  rcases Nat.lt_or_ge j 5 with inside | outside
  · obtain ⟨nv, dz, of, uf, nx⟩ := a
    revert nv dz of uf nx
    interval_cases j
    all_goals decide
  · obtain ⟨j, rfl⟩ := Nat.exists_eq_add_of_le' outside
    exact BitVec.getLsbD_of_ge _ _ outside

theorem low_nx (a : FFlags) : a.low.getLsbD 0 = a.nx := getLsbD_low a 0
theorem low_uf (a : FFlags) : a.low.getLsbD 1 = a.uf := getLsbD_low a 1
theorem low_of (a : FFlags) : a.low.getLsbD 2 = a.of := getLsbD_low a 2
theorem low_dz (a : FFlags) : a.low.getLsbD 3 = a.dz := getLsbD_low a 3
theorem low_nv (a : FFlags) : a.low.getLsbD 4 = a.nv := getLsbD_low a 4

theorem low_or (a b : FFlags) : (a.or b).low = a.low ||| b.low := by
  refine BitVec.eq_of_getLsbD_eq fun j inside => ?_
  rw [BitVec.getLsbD_or, getLsbD_low, getLsbD_low, getLsbD_low]
  interval_cases j
  all_goals rfl

theorem getLsbD_bits (a : FFlags) (j : Nat) : a.bits.getLsbD j = a.low.getLsbD j := by
  rw [bits_eq_low, BitVec.getLsbD_setWidth]
  by_cases inside : j < 64
  · simp [inside]
  · simp [inside, BitVec.getLsbD_of_ge _ j (show 5 ≤ j by omega)]

theorem low_none : ({} : FFlags).low = 0#5 := rfl

/-- The union over lanes, bit by bit. -/
theorem getLsbD_flagsOver (ls : List Nat) (f : Nat → FFlags) (j : Nat) : (flagsOver ls f).bits.getLsbD j = ls.any (fun l => (f l).low.getLsbD j) := by
  have from_ (a : FFlags) : (ls.foldl (fun a l => a.or (f l)) a).low.getLsbD j = (a.low.getLsbD j || ls.any (fun l => (f l).low.getLsbD j)) := by
    induction ls generalizing a with
    | nil => simp
    | cons l ls ih => rw [List.foldl_cons, ih, low_or, BitVec.getLsbD_or, List.any_cons, Bool.or_assoc]
  rw [flagsOver, getLsbD_bits, from_, low_none, BitVec.getLsbD_zero, Bool.false_or]

/-! ### What a word that sets flags leaves alone -/

/-- A context whose group has flags set. -/
def Ctx.raise (c : Ctx) (a : FFlags) : Ctx := { c with g := setStat c.g a.bits }

theorem writes_raise {R U P : List Nat} (c : Ctx) (a : FFlags) : Laws.Writes c (c.raise a) R U P 0x1F#64 := Laws.Writes.setStat c a.bits R U P 0x1F#64 (bits_and_not a)

/-- A word that sets flags and then writes to its own destinations changes nothing else. -/
theorem fallsThrough_of_raise {a : Ctx → FFlags} {op : Ctx → Ctx → Ctx} (run : ∀ s, exec i s = plain i s (fun c => op c (c.raise (a c))))
    (writes : ∀ c c', legal i = true → Laws.Writes c' (op c c') (destRegs i c'.g) (destUnis i) (destPreds i) 0x1F#64) : FallsThrough i 0x1F#64 :=
  fallsThrough_of_writes run fun c legal => (writes_raise c (a c)).trans (writes c (c.raise (a c)) legal)

theorem fallsThrough_of_raise_putResult {a : Ctx → FFlags} {x : Ctx → Nat → DWord} (run : ∀ s, exec i s = plain i s (fun c => putResult (c.raise (a c)) u n d k (x c)))
    (size : k = 1 ∨ k = 2) (dest : n = false → ∃ o, Laws.IsDest i d k o) : FallsThrough i 0x1F#64 :=
  fallsThrough_of_raise (op := fun c c' => putResult c' u n d k (x c)) run fun c c' legal => Laws.writes_putResult c' u n d k (x c) _ size legal dest

/-- The words of one register a lane, by the destination in their operand list. -/
theorem fallsThrough_of_putF32 {x : Ctx → Nat → Word × FFlags} {before : List Opd} {uniOk vecOk reads : Bool} (run : ∀ s, exec i s = plain i s (fun c => putF32 c u n d (x c)))
    (opds : (shape i).opds = before ++ dstOpds u n d 1 uniOk vecOk reads) : FallsThrough i 0x1F#64 :=
  fallsThrough_of_raise_putResult run (.inl rfl) (Laws.isDest_dstOpds opds)

/-- A reduction. -/
theorem fallsThrough_of_gredF {w : FmtX} {f : Word → Word → Word × FFlags} {before : List Opd} {uniOk vecOk reads : Bool} (run : ∀ s, exec i s = plain i s (gredF w f))
    (opds : (shape i).opds = before ++ dstOpds w.u w.n w.d 1 uniOk vecOk reads) : FallsThrough i 0x1F#64 := by
  let tree := fun (c : Ctx) => (treeReduce (fun (p q : Word × FFlags) => ((f p.1 q.1).1, (p.2.or q.2).or (f p.1 q.1).2)) c.f.mask (fun l => (op32 c w.a l, ({} : FFlags)))).getD (0#32, {})
  exact fallsThrough_of_raise (a := fun c => (tree c).2) (op := fun c c' => putUni c' w.n w.d 1 ((tree c).1.setWidth 64)) run
    fun _ c' legal => Laws.writes_putUni c' w.n w.d 1 _ _ (.inl rfl) legal (Laws.isDest_dstOpds opds)

theorem fallsThrough_fcmp (w : FmtP) : FallsThrough (.fcmp w) 0x1F#64 :=
  fallsThrough_of_raise (a := fun c => flagsOver (workLanes c w.u) (fun l => (fCond w.cond (op32 c w.a l) (op32 c w.b l)).2))
    (op := fun c c' => putPred c' w.u w.pd (fun l => (fCond w.cond (op32 c w.a l) (op32 c w.b l)).1)) (fun _ => rfl)
    fun _ c' _ => Laws.Writes.putPred c' w.u w.pd _ _ _ _ _ (List.mem_singleton_self _)

theorem cvtRegs_eq (t : BitVec 3) : cvtRegs t = 1 ∨ cvtRegs t = 2 := by
  unfold cvtRegs
  split
  · exact .inr rfl
  · exact .inl rfl

theorem fallsThrough_cvt (w : FmtX) (t q : BitVec 3) (m : BitVec 2) : FallsThrough (.cvt w t q m) 0x1F#64 :=
  fallsThrough_of_raise_putResult (k := cvtRegs t) (fun _ => rfl) (cvtRegs_eq t) (Laws.isDest_dstOpds (before := [_]) rfl)

/-- Settles O9: each word's effect is to set flags and to write to the destination that its shape lists. -/
theorem floatWordsChangeOnlyTheirDestinationsAndFlags : Obligations.FloatWordsChangeOnlyTheirDestinationsAndFlags := by
  unfold Obligations.FloatWordsChangeOnlyTheirDestinationsAndFlags
  simp only [List.forall_mem_cons, List.not_mem_nil, false_implies, implies_true, and_true]
  refine ⟨fun w => ?twoSources, fun w => ⟨?_, ?_, ?_, ?_, ?_, ?_, ?_, ?_, ?_, ?_, ?_, ?_, ?_, ?_, ?sum, ?least, ?greatest⟩, fallsThrough_cvt, fallsThrough_fcmp, fun w => ?codebook⟩
  case twoSources =>
    refine ⟨?_, ?_, ?_, ?_, ?_, ?_, ?_, ?_, ?_, ?_, ?_, ?_, ?_, ?magnitude, ?narrow, ?scale⟩
    case magnitude | scale => exact fallsThrough_of_putF32 (before := [_]) (fun _ => rfl) rfl
    case narrow => exact fallsThrough_of_putF32 (before := [_, _]) (fun _ => rfl) rfl
    all_goals exact fallsThrough_of_putF32 (fun _ => rfl) rfl
  case sum | least | greatest => exact fallsThrough_of_gredF (fun _ => rfl) rfl
  case codebook => exact fallsThrough_of_putPair (before := [_]) (fun _ => rfl) rfl
  all_goals exact fallsThrough_of_putF32 (fun _ => rfl) rfl

end Sys2Proof.Machine
end

section
/-! What the words that set flags deliver, lane by lane, as one value of the fragment, and to a predicate (04 R78-R81, R87, R88; 07 R175; 08 R186, R187). -/

namespace Sys2Proof.Machine

variable {i : Instr} {s : State} {c : Ctx} {u n : Bool} {d : BitVec 7} {k : Nat}

/-! ### A group whose flags have risen -/

/-- Flags raised before a result is written stand beside it. -/
theorem push_raise (c : Ctx) (a : FFlags) (x : Latch) : (c.raise a).push x = (c.push x).raise a := rfl

theorem setStat_vset (g : Group) (b : BitVec 64) (r : Nat) (m : Mask) (f : Nat → Word) : vset (setStat g b) r m f = setStat (vset g r m f) b := rfl
theorem setStat_sset (g : Group) (b : BitVec 64) (j : Nat) (x : DWord) : sset (setStat g b) j x = setStat (sset g j x) b := by
  unfold sset; split <;> rfl

theorem writeDst_raise (c : Ctx) (a : FFlags) (n : Bool) (d : BitVec 7) (k : Nat) (f : Nat → DWord) : writeDst (c.raise a) n d k f = (writeDst c n d k f).raise a := by
  unfold writeDst
  cases n with
  | true => rfl
  | false =>
    simp only [Bool.false_eq_true, if_false]
    split
    · simp only [Ctx.raise, setStat_vset]
      split <;> rfl
    · simp only [Ctx.raise, setStat_sset]

theorem putResult_raise (c : Ctx) (a : FFlags) (u n : Bool) (d : BitVec 7) (k : Nat) (x : Nat → DWord) : putResult (c.raise a) u n d k x = (putResult c u n d k x).raise a := by
  simp only [putResult, writeDst_raise, push_raise]
  split <;> rfl

theorem putUni_raise (c : Ctx) (a : FFlags) (n : Bool) (d : BitVec 7) (k : Nat) (x : DWord) : putUni (c.raise a) n d k x = (putUni c n d k x).raise a := by
  rw [putUni, writeDst_raise, push_raise, putUni]

theorem putPred_raise (c : Ctx) (a : FFlags) (u : Bool) (pd : BitVec 3) (x : Nat → Bool) : putPred (c.raise a) u pd x = (putPred c u pd x).raise a := by
  unfold putPred pset
  by_cases zero : pd.toNat = 0
  · simp only [zero, if_true]
  · simp only [zero, if_false]; rfl
/-- The group that a word which falls through puts back. -/
def Ctx.passed (c : Ctx) : Group :=
  { c.g with lastFrag := c.fi, frags := setAt c.g.frags c.fi { c.f with pc := c.f.pc + 4#64, chain := c.chain, run := c.f.run + 1, bonded := c.bond, age := c.cycle } }

theorem finish_eq (c : Ctx) : c.finish = setGroup c.s c.passed := rfl
theorem passed_raise (c : Ctx) (a : FFlags) : (c.raise a).passed = setStat c.passed a.bits := rfl
theorem passed_gid (c : Ctx) : c.passed.gid = c.g.gid := rfl
theorem passed_gstat (c : Ctx) : c.passed.gstat = c.g.gstat := rfl

/-- The group of a word that has written and raised flags is the one that it would have left without them, with the flags risen. -/
theorem next_of_raise {op : Ctx → Ctx} {a : Ctx → FFlags} {g : Group} {R U P : List Nat} (h : Issues i s c) (run : exec i s = plain i s (fun c => (op c).raise (a c)))
    (writes : Laws.Writes c (op c) R U P 0) (found : findGroup (op c).finish c.g.gid = some g) :
    ∃ t, exec i s = .next t ∧ findGroup t c.g.gid = some (setStat g (a c).bits) ∧ g.gstat = c.g.gstat := by
  have gid : (op c).passed.gid = c.g.gid := by rw [passed_gid, writes.rest]
  have before : findGroup (op c).s c.g.gid = some c.g := writes.state ▸ findGroup_chosen h.toChosen
  have left : g = (op c).passed := Option.some.inj (found.symm.trans (Laws.findGroup_setGroup_at gid before))
  have after : findGroup ((op c).raise (a c)).finish c.g.gid = some (setStat g (a c).bits) := by
    rw [left, ← passed_raise, finish_eq]
    exact Laws.findGroup_setGroup_at gid before
  obtain ⟨b, none, stat⟩ := writes.stat
  have none : b = 0#64 := by rwa [show ~~~(0 : BitVec 64) = BitVec.allOnes 64 from rfl, BitVec.and_allOnes] at none
  exact ⟨_, by rw [run, Laws.plain_of_issues h], after, by rw [left, passed_gstat, stat, none, BitVec.or_zero]⟩

/-- Risen flags are no part of what has been delivered. -/
theorem delivers_setStat {g : Group} {x : Nat → DWord} (h : Delivers c g u n d k x) (b : BitVec 64) : Delivers c (setStat g b) u n d k x := ⟨h.vec, h.unif, h.zero, h.silent, h.latch⟩

/-- Flags of the lanes that a word computes in. -/
theorem getLsbD_setStat_flagsOver {g : Group} (same : g.gstat = c.g.gstat) (f : Nat → FFlags) (j : Nat) :
    (setStat g (flagsOver (workLanes c u) f).bits).gstat.getLsbD j =
      (c.g.gstat.getLsbD j || (if u then [leader c.f.mask] else (List.range 32).filter (fun l => c.f.mask.getLsbD l)).any (fun l => (f l).low.getLsbD j)) := by
  rw [setStat, BitVec.getLsbD_or, getLsbD_flagsOver, same]
  rfl

/-! ### Results lane by lane -/

/-- A result with its flags as a statement writes them. -/
def withLow {α : Type} (r : α × FFlags) : α × BitVec 5 := (r.1, r.2.low)

theorem withLow_none {α : Type} (x : α) : withLow (x, ({} : FFlags)) = (x, 0#5) := by rw [withLow, low_none]

theorem givesFlags_of_putResult {x : Ctx → Nat → DWord × FFlags} {y : Ctx → Nat → DWord × BitVec 5}
    (run : ∀ s, exec i s = plain i s (fun c => putResult (c.raise (flagsOver (workLanes c u) (fun l => (x c l).2))) u n d k (fun l => (x c l).1))) (size : k = 1 ∨ k = 2)
    (value : ∀ c l, withLow (x c l) = y c l) : GivesFlags i u n d k y := by
  obtain rfl : (fun c l => withLow (x c l)) = y := funext fun c => funext (value c)
  have left (s c) (h : Issues i s c) : ∃ t g, exec i s = .next t ∧ findGroup t c.g.gid = some (setStat g (flagsOver (workLanes c u) (fun l => (x c l).2)).bits) ∧
      g.gstat = c.g.gstat ∧ Delivers c g u n d k (fun l => (x c l).1) := by
    obtain ⟨g, found, delivers⟩ := delivers_putResult (uni := u) (n := n) (d := d) (k := k) h (fun l => (x c l).1)
    have writes := Laws.Writes.putResult c u n d k (fun l => (x c l).1) ((List.range k).map (regOf c.g d + ·)) [d.toNat - 96] [] 0 size
      (fun _ _ j inside => List.mem_map_of_mem (List.mem_range.mpr inside)) (fun _ _ _ => List.mem_singleton_self _)
    obtain ⟨t, next, here, same⟩ := next_of_raise (op := fun c => putResult c u n d k (fun l => (x c l).1)) (a := fun c => flagsOver (workLanes c u) (fun l => (x c l).2)) h ((run s).trans (by simp only [putResult_raise])) writes found
    exact ⟨t, g, next, here, same, delivers⟩
  constructor
  · intro s c h
    obtain ⟨t, g, next, here, -, delivers⟩ := left s c h
    exact ⟨t, _, next, here, delivers_setStat delivers _⟩
  · intro s c h
    obtain ⟨t, g, next, here, same, -⟩ := left s c h
    exact ⟨t, _, next, here, getLsbD_setStat_flagsOver same _⟩

/-- The words of one register a lane. -/
theorem givesFlags_of_putF32 {x : Ctx → Nat → Word × FFlags} {y : Ctx → Nat → DWord × BitVec 5} (run : ∀ s, exec i s = plain i s (fun c => putF32 c u n d (x c)))
    (value : ∀ c l, ((x c l).1.setWidth 64, (x c l).2.low) = y c l) : GivesFlags i u n d 1 y :=
  givesFlags_of_putResult (x := fun c l => ((x c l).1.setWidth 64, (x c l).2)) run (.inl rfl) value

theorem givesFloat_of_fOne {w : FmtX} {f : Word → Word × FFlags} (run : ∀ s, exec i s = plain i s (fOne w f)) : GivesFloat i w (fun a => withLow (f a)) :=
  givesFlags_of_putF32 run fun _ _ => rfl

theorem givesFloats_of_putF32 {w : FmtA} {f : Word → Word → Word → Word × FFlags}
    (run : ∀ s, exec i s = plain i s (fun c => putF32 c w.u w.n w.d (fun l => f (op32 c w.a l) (op32 c w.b l) (op32 c w.d l)))) : GivesFloats i w (fun a b d => withLow (f a b d)) :=
  givesFlags_of_putF32 run fun _ _ => rfl

/-! ### A predicate -/

theorem givesBit_and_setsFlags_of_putPred {pd : BitVec 3} {x : Ctx → Nat → Bool × FFlags} {y : Ctx → Nat → Bool × BitVec 5}
    (run : ∀ s, exec i s = plain i s (fun c => putPred (c.raise (flagsOver (workLanes c u) (fun l => (x c l).2))) u pd (fun l => (x c l).1)))
    (value : ∀ c, legal i = true → ∀ l, withLow (x c l) = y c l) : GivesBit i u pd (fun c l => (y c l).1) ∧ SetsFlags i u (fun c l => (y c l).2) := by
  have left (s c) (h : Issues i s c) : ∃ t g, exec i s = .next t ∧ findGroup t c.g.gid = some (setStat g (flagsOver (workLanes c u) (fun l => (x c l).2)).bits) ∧
      g.gstat = c.g.gstat ∧ g.p = (putPred c u pd (fun l => (x c l).1)).g.p ∧ ∃ f, g.frags[c.fi]? = some f ∧ f.latches = c.f.latches := by
    have writes := Laws.Writes.putPred c u pd (fun l => (x c l).1) [] [] [pd.toNat] 0 (List.mem_singleton_self _)
    obtain ⟨g, found, -, -, preds, frag⟩ := found_finish h.toChosen writes
    obtain ⟨t, next, here, same⟩ := next_of_raise (op := fun c => putPred c u pd (fun l => (x c l).1)) (a := fun c => flagsOver (workLanes c u) (fun l => (x c l).2)) h ((run s).trans (by simp only [putPred_raise])) writes found
    exact ⟨t, g, next, here, same, preds, frag⟩
  constructor
  · intro s c h
    obtain ⟨t, g, next, here, -, preds, frag⟩ := left s c h
    refine ⟨t, _, next, here, fun some l inside on => ?_, rfl, frag⟩
    have bit := getLsbD_putPred (u := u) (x := fun l => (x c l).1) some inside on
    rw [pget, ← preds] at bit
    exact bit.trans (congrArg Prod.fst (value c (Laws.legal_of_firstTrap h.noTrap) _))
  · intro s c h
    obtain ⟨t, g, next, here, same, -⟩ := left s c h
    refine ⟨t, _, next, here, fun j => (getLsbD_setStat_flagsOver same _ j).trans ?_⟩
    simp only [← value c (Laws.legal_of_firstTrap h.noTrap)]
    rfl

/-! ### The tree of a reduction (07 R175) -/

section tree

variable {α β : Type}

theorem getD_treeStep_eq_merge (f : α → α → α) (b : Nat) (xs : List (Option α)) {l : Nat} (inside : l < 32) (start : l % (2 * b) = 0) :
    (treeStep f b xs).getD l none = Option.merge f (xs.getD l none) (xs.getD (l + b) none) := by
  simp only [treeStep, List.getD_eq_getElem?_getD, List.getElem?_map, List.getElem?_range inside, Option.map_some, Option.getD_some, start, if_true]
  split <;> simp [*]

theorem map_merge {f : α → α → α} {g : β → β → β} {into : α → β} (hom : ∀ p q, into (f p q) = g (into p) (into q)) (p q : Option α) :
    (Option.merge f p q).map into = Option.merge g (p.map into) (q.map into) := by
  cases p <;> cases q <;> simp [hom]

/-- Combining two lanes' values and flags. -/
def combine (f : Word → Word → Word × BitVec 5) (p q : Word × BitVec 5) : Word × BitVec 5 := ((f p.1 q.1).1, p.2 ||| q.2 ||| (f p.1 q.1).2)

theorem treeOver_succ (f : Word → Word → Word × BitVec 5) (x : Nat → Option Word) (k l : Nat) :
    treeOver f x (k + 1) l = Option.merge (combine f) (treeOver f x k l) (treeOver f x k (l + 2 ^ k)) := by
  rw [treeOver]
  cases treeOver f x k l <;> cases treeOver f x k (l + 2 ^ k) <;> rfl

/-- What blocks of 2 ^ k lanes hold after k steps. -/
theorem treeOver_step {f : Word → Word → Word × BitVec 5} {g : α → α → α} {into : α → Word × BitVec 5} (hom : ∀ p q, into (g p q) = combine f (into p) (into q)) {x : Nat → Option Word}
    {xs : List (Option α)} (k : Nat) (blocks : ∀ l, l + 2 ^ k ≤ 32 → l % 2 ^ k = 0 → (xs.getD l none).map into = treeOver f x k l) (l : Nat) (inside : l + 2 ^ (k + 1) ≤ 32)
    (start : l % 2 ^ (k + 1) = 0) : ((treeStep g (2 ^ k) xs).getD l none).map into = treeOver f x (k + 1) l := by
  rw [Nat.pow_succ'] at start inside
  have positive : 0 < 2 ^ k := Nat.two_pow_pos k
  have left : l % 2 ^ k = 0 := Nat.mod_eq_zero_of_dvd ((Nat.dvd_mul_left _ 2).trans (Nat.dvd_of_mod_eq_zero start))
  have right : (l + 2 ^ k) % 2 ^ k = 0 := by rw [Nat.add_mod_right, left]
  rw [getD_treeStep_eq_merge g _ xs (by omega) start, map_merge hom, blocks l (by omega) left, blocks _ (by omega) right, treeOver_succ]

theorem map_treeReduce {f : Word → Word → Word × BitVec 5} {g : α → α → α} {into : α → Word × BitVec 5} (hom : ∀ p q, into (g p q) = combine f (into p) (into q)) (m : Mask) (a : Nat → α)
    (v : Nat → Word) (leaf : ∀ l, into (a l) = (v l, 0#5)) : (treeReduce g m a).map into = treeOver f (fun l => if m.getLsbD l then some (v l) else none) 5 0 := by
  have leaves : ∀ l, l + 2 ^ 0 ≤ 32 → l % 2 ^ 0 = 0 →
      (((List.range 32).map (fun l => if m.getLsbD l then some (a l) else none)).getD l none).map into = treeOver f (fun l => if m.getLsbD l then some (v l) else none) 0 l := by
    intro l inside _
    rw [List.getD_eq_getElem?_getD, List.getElem?_map, List.getElem?_range inside, treeOver]
    cases on : m.getLsbD l <;> simp [on, leaf]
  have pairs := treeOver_step hom 0 leaves
  have fours := treeOver_step hom 1 pairs
  have eights := treeOver_step hom 2 fours
  have halves := treeOver_step hom 3 eights
  exact treeOver_step hom 4 halves 0 (by decide) rfl

end tree

/-- A floating-point reduction combines the lanes by its tree. -/
theorem combines_of_gredF {w : FmtX} {f : Word → Word → Word × FFlags} (run : ∀ s, exec i s = plain i s (gredF w f)) : Combines i w (fun a b => withLow (f a b)) := by
  let join := fun (p q : Word × FFlags) => ((f p.1 q.1).1, (p.2.or q.2).or (f p.1 q.1).2)
  let result := fun (c : Ctx) => (treeReduce join c.f.mask (fun l => (op32 c w.a l, ({} : FFlags)))).getD (0#32, {})
  have hom : ∀ p q, withLow (join p q) = combine (fun a b => withLow (f a b)) (withLow p) (withLow q) := fun p q => by simp [withLow, combine, join, low_or]
  have tree (c : Ctx) : (treeOver (fun a b => withLow (f a b)) (fun l => if c.f.mask.getLsbD l then some (op32 c w.a l) else none) 5 0).getD (0#32, 0#5) = withLow (result c) := by
    rw [← map_treeReduce hom c.f.mask (fun l => (op32 c w.a l, ({} : FFlags))) _ fun _ => withLow_none _, ← withLow_none]
    exact Option.getD_map withLow _ _
  have left (s c) (h : Issues i s c) : ∃ t g, exec i s = .next t ∧ findGroup t c.g.gid = some (setStat g (result c).2.bits) ∧ g.gstat = c.g.gstat ∧
      Delivers c g true w.n w.d 1 (fun _ => (result c).1.setWidth 64) := by
    obtain ⟨g, found, delivers⟩ := delivers_finish (uni := true) (n := w.n) (d := w.d) (k := 1) (f := fun _ => (result c).1.setWidth 64) (k' := .uni ((result c).1.setWidth 64)) h (by simp)
    have writes := Laws.Writes.putUni c w.n w.d 1 ((result c).1.setWidth 64) ((List.range 1).map (regOf c.g w.d + ·)) [w.d.toNat - 96] [] 0 (.inl rfl)
      (fun _ _ j inside => List.mem_map_of_mem (List.mem_range.mpr inside)) (fun _ _ _ => List.mem_singleton_self _)
    obtain ⟨t, next, here, same⟩ := next_of_raise (op := fun c => putUni c w.n w.d 1 ((result c).1.setWidth 64)) (a := fun c => (result c).2) h
      ((run s).trans (by simp only [← putUni_raise]; rfl)) writes found
    exact ⟨t, g, next, here, same, delivers⟩
  constructor
  · intro s c active h
    obtain ⟨t, g, next, here, -, delivers⟩ := left s c h
    simp only [tree]
    exact ⟨t, _, next, here, delivers_setStat delivers _⟩
  · intro s c h
    obtain ⟨t, g, next, here, same, -⟩ := left s c h
    refine ⟨t, _, next, here, fun j => ?_⟩
    rw [setStat, BitVec.getLsbD_or, same, getLsbD_bits, if_pos rfl, List.any_cons, List.any_nil, Bool.or_false]
    exact congrArg (fun r => c.g.gstat.getLsbD j || r.2.getLsbD j) (tree c).symm

end Sys2Proof.Machine
end

section
/-! Rounding on a grid: the three ways in which the directions of 08 R182 round a magnitude, the point of a rising sequence that each picks, and the model's rounding of a dyadic number to a
multiple of a power of two as such a choice. -/

namespace Sys2Proof.Machine

/-! ### Modes -/

/-- How a magnitude is rounded: to nearest with ties to even, toward zero, away from zero. -/
inductive Mode where
  | nearest
  | toward
  | away

/-- The mode of a direction for a sign (08 R182). -/
def modeOf (m : BitVec 2) (neg : Bool) : Mode :=
  match m.toNat with
  | 0 => .nearest
  | 1 => .toward
  | 2 => if neg then .away else .toward
  | _ => if neg then .toward else .away

/-- Whether v, from lo up to but not including its neighbour hi, is rounded to hi; odd says whether lo is the odd one of the two. -/
def GoesUp (mode : Mode) (odd : Prop) (lo v hi : Rat) : Prop :=
  match mode with
  | .nearest => lo + hi < 2 * v ∨ (lo + hi = 2 * v ∧ odd)
  | .toward => False
  | .away => v ≠ lo

/-- n is the number of the point of the grid g that v is rounded to. -/
def Picks (mode : Mode) (g : Nat → Rat) (v : Rat) (n : Nat) : Prop :=
  ∃ c, g c ≤ v ∧ v < g (c + 1) ∧ ((GoesUp mode (c % 2 = 1) (g c) v (g (c + 1)) ∧ n = c + 1) ∨ (¬ GoesUp mode (c % 2 = 1) (g c) v (g (c + 1)) ∧ n = c))

/-- Whether v is rounded to a bound or beyond it, the bound being even and the point below it as far as gap away. -/
def Reaches (mode : Mode) (bound gap v : Rat) : Prop :=
  match mode with
  | .nearest => bound - gap / 2 ≤ v
  | .toward => bound ≤ v
  | .away => bound - gap < v

section picks

variable {mode : Mode} {g : Nat → Rat} {v : Rat} {n b : Nat}

theorem Picks.reaches (h : Picks mode g v n) (mono : StrictMono g) (pos : 0 < b) (even : b % 2 = 0) : b ≤ n ↔ Reaches mode (g b) (g b - g (b - 1)) v := by
  obtain ⟨c, low, high, up⟩ := h
  have gap : g (b - 1) < g b := mono (by omega)
  rcases Nat.lt_trichotomy (c + 1) b with below | rfl | above
  · have under : g (c + 1) ≤ g (b - 1) := mono.monotone (by omega)
    refine iff_of_false (by omega) ?_
    cases mode
    · simp only [Reaches]; linarith
    · simp only [Reaches]; linarith
    · simp only [Reaches]; linarith
  · rw [Nat.add_sub_cancel] at gap ⊢
    have odd : c % 2 = 1 := by omega
    have goes : c + 1 ≤ n ↔ GoesUp mode (c % 2 = 1) (g c) v (g (c + 1)) := by
      rcases up with ⟨yes, rfl⟩ | ⟨no, rfl⟩
      · exact iff_of_true (Nat.le_refl _) yes
      · exact iff_of_false (by omega) no
    rw [goes]
    cases mode
    · simp only [GoesUp, Reaches, odd, and_true, ← le_iff_lt_or_eq]
      constructor <;> intro h <;> linarith
    · exact iff_of_false id (not_le.mpr high)
    · simp only [GoesUp, Reaches, sub_sub_cancel]
      exact ⟨fun apart => lt_of_le_of_ne low (Ne.symm apart), fun less => ne_of_gt less⟩
  · have beyond : g b ≤ g c := mono.monotone (by omega)
    refine iff_of_true (by rcases up with ⟨-, rfl⟩ | ⟨-, rfl⟩ <;> omega) ?_
    cases mode
    · simp only [Reaches]; linarith
    · simp only [Reaches]; linarith
    · simp only [Reaches]; linarith

/-- A point of the grid is rounded to itself. -/
theorem Picks.eq_of_mem (h : Picks mode g v n) (mono : StrictMono g) (mem : v = g b) : n = b := by
  obtain ⟨c, low, high, up⟩ := h
  subst mem
  have here : c = b := by
    have := mono.le_iff_le.mp low
    have := mono.lt_iff_lt.mp high
    omega
  subst here
  rcases up with ⟨yes, -⟩ | ⟨-, rfl⟩
  · cases mode
    · simp only [GoesUp] at yes
      rcases yes with less | ⟨same, -⟩ <;> linarith
    · exact yes.elim
    · exact absurd rfl yes
  · rfl

/-- Toward zero: the greatest point that is not beyond v. -/
theorem Picks.toward (h : Picks .toward g v n) (mono : StrictMono g) : g n ≤ v ∧ ∀ b, g b ≤ v → g b ≤ g n := by
  obtain ⟨c, low, high, ⟨no, -⟩ | ⟨-, rfl⟩⟩ := h
  · exact no.elim
  · exact ⟨low, fun b under => mono.monotone (Nat.le_of_lt_succ (mono.lt_iff_lt.mp (lt_of_le_of_lt under high)))⟩

/-- Away from zero: the least point that is not below v. -/
theorem Picks.away (h : Picks .away g v n) (mono : StrictMono g) : v ≤ g n ∧ ∀ b, v ≤ g b → g n ≤ g b := by
  obtain ⟨c, low, high, ⟨apart, rfl⟩ | ⟨same, rfl⟩⟩ := h
  · refine ⟨le_of_lt high, fun b beyond => mono.monotone (Nat.succ_le_of_lt (mono.lt_iff_lt.mp (lt_of_lt_of_le ?_ beyond)))⟩
    exact lt_of_le_of_ne low (Ne.symm apart)
  · have same : v = g n := not_not.mp same
    exact ⟨le_of_eq same, fun b beyond => same ▸ beyond⟩

/-- To nearest: no point is nearer, and one as near is this one, or this one is even. -/
theorem Picks.nearest (h : Picks .nearest g v n) (mono : StrictMono g) (b : Nat) : |g n - v| ≤ |g b - v| ∧ (|g n - v| = |g b - v| → b = n ∨ n % 2 = 0) := by
  obtain ⟨c, low, high, up⟩ := h
  have far : (b = c ∨ b = c + 1) ∨ (g b < g c ∨ g (c + 1) < g b) := by
    rcases Nat.lt_trichotomy b c with less | same | more
    · exact .inr (.inl (mono less))
    · exact .inl (.inl same)
    · rcases Nat.eq_or_lt_of_le (Nat.succ_le_of_lt more) with next | beyond
      · exact .inl (.inr next.symm)
      · exact .inr (.inr (mono beyond))
  have down : |g c - v| = v - g c := by rw [abs_sub_comm]; exact abs_of_nonneg (by linarith)
  have above : |g (c + 1) - v| = g (c + 1) - v := abs_of_nonneg (by linarith)
  rcases up with ⟨yes, rfl⟩ | ⟨no, rfl⟩
  · have closer : g (c + 1) - v ≤ v - g c := by
      rcases yes with less | ⟨same, -⟩ <;> linarith
    rw [above]
    rcases far with (rfl | rfl) | (less | more)
    · rw [down]
      refine ⟨closer, fun tie => .inr ?_⟩
      rcases yes with less | ⟨-, odd⟩
      · linarith
      · omega
    · exact ⟨le_of_eq above.symm, fun _ => .inl rfl⟩
    · have := neg_abs_le (g b - v)
      exact ⟨by linarith, fun tie => by linarith⟩
    · have := le_abs_self (g b - v)
      exact ⟨by linarith, fun tie => by linarith⟩
  · simp only [GoesUp, not_or, not_lt, not_and] at no
    obtain ⟨closer, even⟩ := no
    rw [down]
    rcases far with (rfl | rfl) | (less | more)
    · exact ⟨le_of_eq down.symm, fun _ => .inl rfl⟩
    · rw [above]
      refine ⟨by linarith, fun tie => .inr ?_⟩
      have := even (by linarith)
      omega
    · have := neg_abs_le (g b - v)
      exact ⟨by linarith, fun tie => by linarith⟩
    · have := le_abs_self (g b - v)
      exact ⟨by linarith, fun tie => by linarith⟩

end picks

/-! ### The model's rounding -/

/-- The multiples of u. -/
def multiples (u : Rat) (n : Nat) : Rat := n * u

theorem multiples_strictMono {u : Rat} (pos : 0 < u) : StrictMono (multiples u) := fun a b less => by
  unfold multiples
  exact mul_lt_mul_of_pos_right (by exact_mod_cast less) pos

/-- The value of the dyadic number a * 2 ^ e. -/
def dyadic (a : Nat) (e : Int) : Rat := a * 2 ^ e

/-- A dyadic number at unit 2 ^ x: the whole multiples q of it, and the rest r of d. -/
theorem roundFar_eq (up : Nat → Nat → Nat → Bool) (none : ∀ q, up q 0 1 = false) (m : Nat) (e x : Int) :
    ∃ q r d : Nat, r < d ∧ dyadic m e = (q + (r : Rat) / d) * 2 ^ x ∧ roundFar up m e x = (if up q r d then q + 1 else q, r != 0) := by
  unfold roundFar dyadic
  split
  case isTrue coarse =>
    refine ⟨m <<< (e - x).toNat, 0, 1, Nat.one_pos, ?_, by simp [none]⟩
    obtain ⟨j, far⟩ := Int.eq_ofNat_of_zero_le (Int.sub_nonneg_of_le coarse)
    obtain rfl : e = j + x := by omega
    rw [zpow_add₀ (by norm_num)]
    simp [Nat.shiftLeft_eq, mul_assoc]
  case isFalse fine =>
    refine ⟨m / 2 ^ (x - e).toNat, m % 2 ^ (x - e).toNat, 2 ^ (x - e).toNat, Nat.mod_lt _ (Nat.two_pow_pos _), ?_, rfl⟩
    obtain ⟨j, far⟩ := Int.eq_ofNat_of_zero_le (show 0 ≤ x - e by omega)
    obtain rfl : x = j + e := by omega
    rw [far, Int.toNat_natCast, zpow_add₀ (by norm_num), zpow_natCast]
    have whole : (m : Rat) = (m / 2 ^ j : Nat) * 2 ^ j + (m % 2 ^ j : Nat) := by exact_mod_cast (Nat.div_add_mod' m (2 ^ j)).symm
    push_cast
    field_simp
    linarith

theorem roundsUp_zero (dir : Dir) (neg : Bool) (q : Nat) : roundsUp dir neg q 0 1 = false := by
  cases dir <;> simp [roundsUp]

/-- The shortcut that roundAt takes for far shifts does not change its answer. -/
theorem roundAt_eq_roundFar (dir : Dir) (neg : Bool) {m : Nat} (pos : 0 < m) (e x : Int) : roundAt (roundsUp dir neg) m e x = roundFar (roundsUp dir neg) m e x := by
  unfold roundAt roundFar
  split
  case isTrue => rfl
  case isFalse =>
    have bound : m < 2 ^ (Nat.log2 m + 1) := Nat.lt_log2_self
    rcases Nat.le_total (x - e).toNat (Nat.log2 m + 3) with near | far
    · simp [Nat.min_eq_left near, Nat.shiftRight_eq_div_pow]
    · have less : m < 2 ^ (x - e).toNat := lt_of_lt_of_le bound (Nat.pow_le_pow_right (by decide) (by omega))
      have less' : m < 2 ^ (Nat.log2 m + 3) := lt_of_lt_of_le bound (Nat.pow_le_pow_right (by decide) (by omega))
      have quarter : 2 * m < 2 ^ (Nat.log2 m + 3) := by rw [show Nat.log2 m + 3 = (Nat.log2 m + 1) + 2 from rfl, Nat.pow_add]; omega
      have half : 2 * m < 2 ^ (x - e).toNat := lt_of_lt_of_le quarter (Nat.pow_le_pow_right (by decide) far)
      have same : roundsUp dir neg 0 m (2 ^ (Nat.log2 m + 3)) = roundsUp dir neg 0 m (2 ^ (x - e).toNat) := by
        cases dir
        · simp [roundsUp, Nat.not_lt_of_gt quarter, Nat.not_lt_of_gt half]
        all_goals rfl
      simp [Nat.min_eq_right far, Nat.shiftRight_eq_div_pow, Nat.div_eq_of_lt less, Nat.div_eq_of_lt less', Nat.mod_eq_of_lt less, Nat.mod_eq_of_lt less', same]

/-- The model's rule, on the value that it rounds. -/
theorem roundsUp_iff_goesUp (m : BitVec 2) (neg : Bool) {q r d : Nat} (part : r < d) {u : Rat} (pos : 0 < u) :
    roundsUp (dirOf m) neg q r d = true ↔ GoesUp (modeOf m neg) (q % 2 = 1) (multiples u q) ((q + (r : Rat) / d) * u) (multiples u (q + 1)) := by
  have positive : (0 : Rat) < d := by exact_mod_cast Nat.zero_lt_of_lt part
  have least : (q + (r : Rat) / d) * u ≠ multiples u q ↔ r ≠ 0 := by
    rw [multiples, ne_eq, mul_left_inj' (ne_of_gt pos), add_eq_left, div_eq_zero_iff]
    simp [ne_of_gt positive]
  have more : multiples u q + multiples u (q + 1) < 2 * ((q + (r : Rat) / d) * u) ↔ d < 2 * r := by
    rw [← Nat.cast_lt (α := Rat), multiples, multiples]
    push_cast
    rw [← one_lt_div positive, show (q : Rat) * u + (q + 1) * u = (2 * q + 1) * u by ring, show 2 * ((q + (r : Rat) / d) * u) = (2 * q + 2 * r / d) * u by ring, mul_lt_mul_iff_left₀ pos,
      add_lt_add_iff_left]
  have tie : multiples u q + multiples u (q + 1) = 2 * ((q + (r : Rat) / d) * u) ↔ 2 * r = d := by
    rw [← Nat.cast_inj (R := Rat), multiples, multiples]
    push_cast
    rw [← div_eq_one_iff_eq (ne_of_gt positive), show (q : Rat) * u + (q + 1) * u = (2 * q + 1) * u by ring, show 2 * ((q + (r : Rat) / d) * u) = (2 * q + 2 * r / d) * u by ring,
      mul_left_inj' (ne_of_gt pos), add_right_inj, eq_comm]
  have away : (r != 0) = true ↔ (q + (r : Rat) / d) * u ≠ multiples u q := by rw [least, bne_iff_ne]
  obtain ⟨j, small⟩ := m
  interval_cases j
  · simp only [dirOf, modeOf, roundsUp, GoesUp, more, tie]
    simp
  · simp [dirOf, modeOf, roundsUp, GoesUp]
  · cases neg
    · simp [dirOf, modeOf, roundsUp, GoesUp]
    · simpa [dirOf, modeOf, roundsUp, GoesUp] using away
  · cases neg
    · simpa [dirOf, modeOf, roundsUp, GoesUp] using away
    · simp [dirOf, modeOf, roundsUp, GoesUp]

/-- The model's rounding picks a multiple of its unit, and its flag says whether the value is another. -/
theorem picks_roundAt (m : BitVec 2) (neg : Bool) {a : Nat} (pos : 0 < a) (e x : Int) :
    Picks (modeOf m neg) (multiples (2 ^ x)) (dyadic a e) (roundAt (roundsUp (dirOf m) neg) a e x).1 ∧
      ((roundAt (roundsUp (dirOf m) neg) a e x).2 = true ↔ multiples (2 ^ x) (roundAt (roundsUp (dirOf m) neg) a e x).1 ≠ dyadic a e) := by
  obtain ⟨q, r, d, part, value, result⟩ := roundFar_eq _ (roundsUp_zero (dirOf m) neg) a e x
  have unit : (0 : Rat) < 2 ^ x := by positivity
  have positive : (0 : Rat) < d := by exact_mod_cast Nat.zero_lt_of_lt part
  have low : multiples (2 ^ x) q ≤ dyadic a e := by
    rw [value, multiples]
    gcongr
    exact le_add_of_nonneg_right (by positivity)
  have high : dyadic a e < multiples (2 ^ x) (q + 1) := by
    rw [value, multiples]
    push_cast
    gcongr
    exact (div_lt_one positive).mpr (by exact_mod_cast part)
  have goes := roundsUp_iff_goesUp m neg (q := q) part unit
  rw [← value] at goes
  have same : multiples (2 ^ x) q = dyadic a e ↔ r = 0 := by
    rw [value, multiples, mul_left_inj' (ne_of_gt unit), left_eq_add, div_eq_zero_iff]
    simp [ne_of_gt positive]
  rw [roundAt_eq_roundFar _ _ pos, result]
  cases up : roundsUp (dirOf m) neg q r d with
  | true =>
    have rest : r ≠ 0 := fun zero => by
      have goes := goes.mp up
      rw [← same.mpr zero] at goes
      revert goes
      cases modeOf m neg
      · have := multiples_strictMono unit (Nat.lt_succ_self q)
        simp only [GoesUp]
        rintro (less | ⟨same, -⟩) <;> linarith
      · exact id
      · exact fun apart => apart rfl
    exact ⟨⟨q, low, high, .inl ⟨goes.mp up, rfl⟩⟩, by simp [rest, ne_of_gt high]⟩
  | false => exact ⟨⟨q, low, high, .inr ⟨fun yes => by simp [goes.mpr yes] at up, rfl⟩⟩, by simp [same]⟩

end Sys2Proof.Machine
end

section
/-! The codes of a binary format: the magnitudes that they stand for rise with them, and what the model unpacks is what the statements read (08 Tables 8.1, 8.2, R180). -/

namespace Sys2Proof.Machine

variable {ew fw bias : Nat}

/-! ### Magnitudes -/

/-- The exponent of the least magnitude of a format. -/
def unitExp (fw bias : Nat) : Int := 1 - bias - fw

/-- The code of the block j of 2 ^ fw codes, in which the magnitudes are multiples of one unit. -/
theorem narrowVal_block (some : 1 ≤ bias + fw) {j q : Nat} (normal : j = 0 ∨ 2 ^ fw ≤ q) (inside : q ≤ 2 ^ (fw + 1)) :
    narrowVal fw bias (j * 2 ^ fw + q) = multiples (2 ^ (unitExp fw bias + j)) q := by
  have unit : (2 : Rat) ^ unitExp fw bias * 2 ^ (bias + fw) = 2 := by
    rw [← zpow_natCast, ← zpow_add₀ (by norm_num), unitExp, show (1 - (bias : Int) - fw + (bias + fw : Nat)) = 1 by push_cast; ring, zpow_one]
  have scale : (2 : Rat) ^ (unitExp fw bias + j) = 2 ^ (j + 1) / 2 ^ (bias + fw) := by
    rw [zpow_add₀ (by norm_num), zpow_natCast, eq_div_iff (by positivity), mul_right_comm, unit, pow_succ, mul_comm]
  have positive : 0 < 2 ^ fw := Nat.two_pow_pos fw
  have double : 2 ^ (fw + 1) = 2 ^ fw * 2 := pow_succ 2 fw
  rw [multiples, scale]
  unfold narrowVal
  rcases Nat.lt_or_ge q (2 ^ fw) with sub | full
  · obtain rfl : j = 0 := by omega
    have half : (2 : Rat) ^ (bias + fw) = 2 ^ (bias + fw - 1) * 2 := by rw [← pow_succ, Nat.sub_add_cancel some]
    rw [Nat.zero_mul, Nat.zero_add, if_pos (Nat.div_eq_of_lt sub), half]
    field_simp
    norm_num
  · rcases Nat.eq_or_lt_of_le inside with rfl | less
    · have block : (j * 2 ^ fw + 2 ^ (fw + 1)) / 2 ^ fw = j + 2 := by rw [double, Nat.mul_comm (2 ^ fw) 2, ← Nat.add_mul, Nat.mul_div_cancel _ positive]
      have part : (j * 2 ^ fw + 2 ^ (fw + 1)) % 2 ^ fw = 0 := by rw [double, Nat.mul_comm (2 ^ fw) 2, ← Nat.add_mul, Nat.mul_mod_left]
      rw [block, part, if_neg (by omega)]
      push_cast
      ring
    · obtain ⟨f, rfl⟩ := Nat.exists_eq_add_of_le full
      have small : f < 2 ^ fw := by omega
      have block : (j * 2 ^ fw + (2 ^ fw + f)) / 2 ^ fw = j + 1 := by rw [← Nat.add_assoc, ← Nat.succ_mul, Nat.mul_comm, Nat.mul_add_div positive, Nat.div_eq_of_lt small, Nat.add_zero]
      have part : (j * 2 ^ fw + (2 ^ fw + f)) % 2 ^ fw = f := by rw [← Nat.add_assoc, ← Nat.succ_mul, Nat.mul_comm, Nat.mul_add_mod, Nat.mod_eq_of_lt small]
      rw [block, part, if_neg (by omega)]
      push_cast
      ring

theorem exists_block (fw c : Nat) : ∃ j q, c = j * 2 ^ fw + q ∧ (j = 0 ∨ 2 ^ fw ≤ q) ∧ q < 2 ^ (fw + 1) := by
  have whole := Nat.div_add_mod' c (2 ^ fw)
  have part := Nat.mod_lt c (Nat.two_pow_pos fw)
  rw [Nat.pow_succ]
  cases block : c / 2 ^ fw with
  | zero => exact ⟨0, c, by omega, .inl rfl, by rw [block] at whole; omega⟩
  | succ j => exact ⟨j, 2 ^ fw + c % 2 ^ fw, by rw [block, Nat.succ_mul] at whole; omega, .inr (Nat.le_add_right _ _), by omega⟩

theorem narrowVal_strictMono (some : 1 ≤ bias + fw) : StrictMono (narrowVal fw bias) := by
  refine strictMono_nat_of_lt_succ fun c => ?_
  obtain ⟨j, q, rfl, normal, inside⟩ := exists_block fw c
  rw [Nat.add_assoc, narrowVal_block some normal (Nat.le_of_lt inside), narrowVal_block some (by omega) inside]
  exact multiples_strictMono (by positivity) (Nat.lt_succ_self q)

theorem narrowVal_zero (fw bias : Nat) : narrowVal fw bias 0 = 0 := by simp [narrowVal]

theorem narrowVal_nonneg (fw bias c : Nat) : 0 ≤ narrowVal fw bias c := by
  unfold narrowVal
  split <;> positivity

/-- Short multiples of powers of two, down to the least magnitude, are magnitudes of the format. -/
theorem exists_narrowVal (some : 1 ≤ bias + fw) (j : Nat) {q : Nat} (inside : q ≤ 2 ^ (fw + 1)) : ∃ c, narrowVal fw bias c = multiples (2 ^ (unitExp fw bias + j)) q := by
  induction j generalizing q with
  | zero => exact ⟨_, narrowVal_block some (.inl rfl) inside⟩
  | succ j ih =>
    rcases Nat.le_total (2 ^ fw) q with full | sub
    · exact ⟨_, narrowVal_block some (.inr full) inside⟩
    · obtain ⟨c, value⟩ := ih (q := 2 * q) (by rw [Nat.pow_succ]; omega)
      refine ⟨c, value.trans ?_⟩
      have double : (2 : Rat) ^ (unitExp fw bias + (j + 1 : Nat)) = 2 ^ (unitExp fw bias + j) * 2 := by rw [Nat.cast_succ, ← add_assoc, zpow_add_one₀ (by norm_num)]
      rw [multiples, multiples, double]
      push_cast
      ring

/-- Where the magnitudes are multiples of one unit, rounding to such a multiple is rounding to a magnitude. -/
theorem Picks.block {mode : Mode} {v : Rat} {n j : Nat} (h : Picks mode (multiples (2 ^ (unitExp fw bias + j))) v n) (some : 1 ≤ bias + fw) (wide : 1 ≤ fw)
    (below : v < multiples (2 ^ (unitExp fw bias + j)) (2 ^ (fw + 1))) (normal : j = 0 ∨ multiples (2 ^ (unitExp fw bias + j)) (2 ^ fw) ≤ v) :
    Picks mode (narrowVal fw bias) v (j * 2 ^ fw + n) := by
  obtain ⟨c, low, high, up⟩ := h
  have mono : StrictMono (multiples (2 ^ (unitExp fw bias + j))) := multiples_strictMono (by positivity)
  have inside : c < 2 ^ (fw + 1) := mono.lt_iff_lt.mp (lt_of_le_of_lt low below)
  have full : j = 0 ∨ 2 ^ fw ≤ c := normal.imp_right fun h => Nat.le_of_lt_succ (mono.lt_iff_lt.mp (lt_of_le_of_lt h high))
  have parity : (j * 2 ^ fw + c) % 2 = c % 2 := by
    obtain ⟨f, rfl⟩ := Nat.exists_eq_add_of_le' wide
    rw [Nat.pow_succ, ← Nat.mul_assoc]
    omega
  have here := narrowVal_block some full (Nat.le_of_lt inside)
  have next : narrowVal fw bias (j * 2 ^ fw + c + 1) = _ := narrowVal_block some (q := c + 1) (by omega) inside
  refine ⟨j * 2 ^ fw + c, by rwa [here], by rwa [next], ?_⟩
  rw [here, next, parity]
  exact up.imp (And.imp_right fun h => by omega) (And.imp_right fun h => by omega)

/-- A value up to a point of the grid is rounded no further. -/
theorem Picks.le {mode : Mode} {g : Nat → Rat} {v : Rat} {n b : Nat} (h : Picks mode g v n) (mono : StrictMono g) (under : v ≤ g b) : n ≤ b := by
  rcases eq_or_lt_of_le under with same | less
  · exact Nat.le_of_eq (h.eq_of_mem mono same)
  · obtain ⟨c, low, -, up⟩ := h
    have := mono.lt_iff_lt.mp (lt_of_le_of_lt low less)
    rcases up with ⟨-, rfl⟩ | ⟨-, rfl⟩ <;> omega

/-- A value from a point of the grid on is rounded to no lower one. -/
theorem Picks.ge {mode : Mode} {g : Nat → Rat} {v : Rat} {n b : Nat} (h : Picks mode g v n) (mono : StrictMono g) (beyond : g b ≤ v) : b ≤ n := by
  obtain ⟨c, -, high, up⟩ := h
  have := mono.lt_iff_lt.mp (lt_of_le_of_lt beyond high)
  rcases up with ⟨-, rfl⟩ | ⟨-, rfl⟩ <;> omega

/-! ### Codes -/

/-- A magnitude with a sign. -/
def signed (neg : Bool) (v : Rat) : Rat := if neg then -v else v

/-- The bias of a format with ew exponent bits, and its first code that is no finite magnitude. -/
def codeBias (ew : Nat) : Nat := 2 ^ (ew - 1) - 1
def bigCode (ew fw : Nat) : Nat := (2 ^ ew - 1) * 2 ^ fw

theorem codeExp_eq (ew fw r : Nat) : codeExp ew fw r = r % 2 ^ (ew + fw) / 2 ^ fw := by rw [codeExp, Nat.pow_add, Nat.mul_comm, Nat.mod_mul_right_div_self]
theorem mod_fraction (ew fw r : Nat) : r % 2 ^ (ew + fw) % 2 ^ fw = r % 2 ^ fw := Nat.mod_mod_of_dvd r (Nat.pow_dvd_pow 2 (Nat.le_add_left fw ew))

/-- What a code stands for. -/
theorem codeVal_eq (ew fw r : Nat) :
    codeVal ew fw r = if codeExp ew fw r = 2 ^ ew - 1 then none else some (signed (codeNeg ew fw r) (narrowVal fw (codeBias ew) (r % 2 ^ (ew + fw)))) := by
  have magnitude : (if codeExp ew fw r = 0 then ((r % 2 ^ fw : Nat) : Rat) / 2 ^ (codeBias ew + fw - 1)
      else ((2 ^ fw + r % 2 ^ fw : Nat) : Rat) * 2 ^ codeExp ew fw r / 2 ^ (codeBias ew + fw)) = narrowVal fw (codeBias ew) (r % 2 ^ (ew + fw)) := by
    rw [narrowVal, ← codeExp_eq, mod_fraction]
    split
    case isTrue sub =>
      have whole := Nat.div_add_mod' (r % 2 ^ (ew + fw)) (2 ^ fw)
      rw [← codeExp_eq, sub, mod_fraction, Nat.zero_mul, Nat.zero_add] at whole
      rw [whole]
    case isFalse => rfl
  rw [← magnitude]
  rfl

/-- The parts of a code that is put together from a sign and a magnitude. -/
theorem code_parts (neg : Bool) {c : Nat} (inside : c < 2 ^ (ew + fw)) :
    codeNeg ew fw (zeroCode ew fw neg + c) = neg ∧ (zeroCode ew fw neg + c) % 2 ^ (ew + fw) = c ∧
      zeroCode ew fw neg + c < 2 ^ (ew + fw + 1) := by
  have positive := Nat.two_pow_pos (ew + fw)
  rw [Nat.pow_succ, zeroCode]
  cases neg with
  | true => simp [codeNeg, Nat.add_div_left _ positive, Nat.div_eq_of_lt inside, Nat.mod_eq_of_lt inside]; omega
  | false => simp [codeNeg, Nat.div_eq_of_lt inside, Nat.mod_eq_of_lt inside]; omega

theorem bigCode_lt (ew fw : Nat) : bigCode ew fw < 2 ^ (ew + fw) := by
  rw [bigCode, Nat.pow_add]
  exact Nat.mul_lt_mul_of_pos_right (Nat.sub_lt (Nat.two_pow_pos ew) Nat.one_pos) (Nat.two_pow_pos fw)

/-- Codes below the infinities stand for their magnitudes. -/
theorem codeVal_code (neg : Bool) {c : Nat} (finite : c < bigCode ew fw) : codeVal ew fw (zeroCode ew fw neg + c) = some (signed neg (narrowVal fw (codeBias ew) c)) := by
  obtain ⟨sign, magnitude, -⟩ := code_parts (ew := ew) (fw := fw) neg (Nat.lt_trans finite (bigCode_lt ew fw))
  have exponent : codeExp ew fw (zeroCode ew fw neg + c) ≠ 2 ^ ew - 1 := by
    rw [codeExp_eq, magnitude]
    exact Nat.ne_of_lt (Nat.div_lt_of_lt_mul (by rwa [Nat.mul_comm]))
  rw [codeVal_eq, if_neg exponent, sign, magnitude]

/-- Every finite code is of that kind. -/
theorem exists_code {r : Nat} {x : Rat} (value : codeVal ew fw r = some x) : ∃ c, c < bigCode ew fw ∧ x = signed (codeNeg ew fw r) (narrowVal fw (codeBias ew) c) ∧ r % 2 ^ (ew + fw) = c := by
  rw [codeVal_eq] at value
  split at value
  case isTrue => exact absurd value (by simp)
  case isFalse finite =>
    refine ⟨r % 2 ^ (ew + fw), ?_, (Option.some.inj value).symm, rfl⟩
    rw [codeExp_eq] at finite
    have inside := Nat.mod_lt r (Nat.two_pow_pos (ew + fw))
    have least : r % 2 ^ (ew + fw) / 2 ^ fw < 2 ^ ew := Nat.div_lt_of_lt_mul (by rwa [← Nat.pow_add, Nat.add_comm fw])
    exact (Nat.div_lt_iff_lt_mul (Nat.two_pow_pos fw)).mp (by omega)

/-! ### What the model unpacks -/

/-- A format of the kind that the statements speak of. -/
structure Standard (k : Fmt) : Prop where
  exponent : 2 ≤ k.ew
  fraction : 1 ≤ k.fw
  bias : k.bias = codeBias k.ew

theorem standard_fp32 : Standard fp32 := ⟨by decide, by decide, by decide⟩
theorem standard_fp16 : Standard fp16 := ⟨by decide, by decide, by decide⟩
theorem standard_bf16 : Standard bf16 := ⟨by decide, by decide, by decide⟩

/-- The four classes of a code, each with what the statements read of the code. -/
inductive Reads (ew fw r : Nat) : Fp → Prop
  | nan (isNan : codeNan ew fw r = true) (isInf : codeInf ew fw r = false) (value : codeVal ew fw r = none) : Reads ew fw r (.nan (codeSig ew fw r))
  | inf (isNan : codeNan ew fw r = false) (isSig : codeSig ew fw r = false) (isInf : codeInf ew fw r = true) (value : codeVal ew fw r = none) : Reads ew fw r (.inf (codeNeg ew fw r))
  | zero (isNan : codeNan ew fw r = false) (isSig : codeSig ew fw r = false) (isInf : codeInf ew fw r = false) (value : codeVal ew fw r = some 0)
      (code : r % 2 ^ (ew + fw) = 0) : Reads ew fw r (.zero (codeNeg ew fw r))
  | fin {a : Nat} {e : Int} (isNan : codeNan ew fw r = false) (isSig : codeSig ew fw r = false) (isInf : codeInf ew fw r = false)
      (value : codeVal ew fw r = some (signed (codeNeg ew fw r) (dyadic a e))) (pos : 0 < a) (short : a < 2 ^ (fw + 1)) (least : unitExp fw (codeBias ew) ≤ e)
      (greatest : e ≤ unitExp fw (codeBias ew) + (2 ^ ew - 2 : Nat)) (full : 2 ^ fw ≤ a ∨ e = unitExp fw (codeBias ew)) : Reads ew fw r (.fin (codeNeg ew fw r) a e)

theorem reads_unpack {k : Fmt} (std : Standard k) (r : Nat) : Reads k.ew k.fw r (unpack k r) := by
  obtain ⟨exponent, fraction, bias⟩ := std
  have two : 2 ^ 2 ≤ 2 ^ k.ew := Nat.pow_le_pow_right (by decide) exponent
  have neg : (r / 2 ^ (k.fw + k.ew) % 2 == 1) = codeNeg k.ew k.fw r := by rw [Nat.add_comm]; rfl
  have part := Nat.mod_lt r (Nat.two_pow_pos k.fw)
  have whole := Nat.div_add_mod' (r % 2 ^ (k.ew + k.fw)) (2 ^ k.fw)
  rw [← codeExp_eq, mod_fraction] at whole
  have value := codeVal_eq k.ew k.fw r
  have exponentLt : codeExp k.ew k.fw r < 2 ^ k.ew := Nat.mod_lt _ (Nat.two_pow_pos k.ew)
  unfold unpack
  simp only [neg]
  rw [show r / 2 ^ k.fw % 2 ^ k.ew = codeExp k.ew k.fw r from rfl]
  split
  case isTrue special =>
    rw [if_pos special] at value
    split
    case isTrue none => exact .inf (by simp [codeNan, none]) (by simp [codeSig, codeNan, none]) (by simp [codeInf, special, none]) value
    case isFalse some =>
      have isNan : codeNan k.ew k.fw r = true := by simp [codeNan, special, some]
      have sig : decide (r % 2 ^ k.fw < 2 ^ (k.fw - 1)) = codeSig k.ew k.fw r := by rw [codeSig, isNan, Bool.true_and]
      rw [sig]
      exact .nan isNan (by simp [codeInf, some]) value
  case isFalse finite =>
    rw [if_neg finite] at value
    have isNan : codeNan k.ew k.fw r = false := by simp [codeNan, finite]
    have isInf : codeInf k.ew k.fw r = false := by simp [codeInf, finite]
    have isSig : codeSig k.ew k.fw r = false := by rw [codeSig, isNan, Bool.false_and]
    have some' : 1 ≤ codeBias k.ew + k.fw := by omega
    have double : 2 ^ (k.fw + 1) = 2 ^ k.fw * 2 := pow_succ 2 k.fw
    split
    case isTrue sub =>
      rw [sub, Nat.zero_mul, Nat.zero_add] at whole
      split
      case isTrue none =>
        refine .zero isNan isSig isInf ?_ (by rw [← whole, none])
        rw [value, ← whole, none, narrowVal_zero, signed, neg_zero, ite_self]
      case isFalse some =>
        have here := narrowVal_block (bias := codeBias k.ew) some' (j := 0) (q := r % 2 ^ k.fw) (.inl rfl) (by omega)
        have unit : (1 - (k.bias : Int) - k.fw) = unitExp k.fw (codeBias k.ew) := by rw [bias]; rfl
        rw [unit]
        refine .fin isNan isSig isInf ?_ (Nat.pos_of_ne_zero some) (by omega) (le_refl _) (by omega) (.inr rfl)
        rw [value, ← whole, ← Nat.zero_add (r % 2 ^ k.fw), ← Nat.zero_mul (2 ^ k.fw), here, Nat.cast_zero, add_zero, Nat.zero_mul, Nat.zero_add]
        rfl
    case isFalse normal =>
      obtain ⟨j, block⟩ := Nat.exists_eq_succ_of_ne_zero normal
      have here := narrowVal_block (bias := codeBias k.ew) some' (j := j) (q := 2 ^ k.fw + r % 2 ^ k.fw) (.inr (Nat.le_add_right _ _)) (by omega)
      have unit : ((codeExp k.ew k.fw r : Int) - k.bias - k.fw) = unitExp k.fw (codeBias k.ew) + j := by rw [bias, block, unitExp]; push_cast; ring
      rw [unit]
      refine .fin isNan isSig isInf ?_ (by have := Nat.two_pow_pos k.fw; omega) (by omega) (by omega) (by omega) (.inl (Nat.le_add_right _ _))
      rw [value, ← whole, block, Nat.succ_mul, Nat.add_assoc, here]
      rfl

end Sys2Proof.Machine
end

section
/-! The exact result rounded once: the model's rounding of a dyadic number to a format, and its flags, as the statements have them (08 R182-R184, Tables 8.4, 8.5). -/

namespace Sys2Proof.Machine

variable {ew fw c : Nat} {m : BitVec 2} {neg : Bool} {v : Rat}

/-! ### Signs -/

theorem signed_neg_iff (pos : 0 < v) : signed neg v < 0 ↔ neg = true := by
  cases neg <;> simp [signed, pos, le_of_lt pos]

theorem signed_pos_iff (pos : 0 < v) : 0 < signed neg v ↔ neg = false := by
  cases neg <;> simp [signed, pos, le_of_lt pos]

theorem signed_ne_zero (pos : 0 < v) : signed neg v ≠ 0 := by
  cases neg <;> simp [signed, ne_of_gt pos]

theorem signed_inj {a b : Rat} : signed neg a = signed neg b ↔ a = b := by
  cases neg <;> simp [signed]

theorem abs_signed (nonneg : 0 ≤ v) : |signed neg v| = v := by
  cases neg <;> simp [signed, abs_of_nonneg nonneg]

theorem abs_signed_sub (a b : Rat) : |signed neg a - signed neg b| = |a - b| := by
  cases neg
  · rfl
  · simp only [signed, if_true]
    rw [← abs_neg]
    congr 1
    ring

theorem abs_signed_sub_opposite {a b : Rat} (left : 0 ≤ a) (right : 0 ≤ b) : |signed (!neg) a - signed neg b| = a + b := by
  cases neg
  · simp only [signed, Bool.not_false, if_true, Bool.false_eq_true, if_false]
    rw [abs_of_nonpos (by linarith)]
    ring
  · simp only [signed, Bool.not_true, if_true, Bool.false_eq_true, if_false]
    rw [abs_of_nonneg (by linarith)]
    ring

/-! ### The ends of the range -/

/-- Twice the greatest power of two of a format, and its least normal number. -/
def topVal (ew : Nat) : Rat := 2 ^ (2 ^ (ew - 1))
def smallVal (ew : Nat) : Rat := 1 / 2 ^ (2 ^ (ew - 1) - 2)

theorem overflows_signed (pos : 0 < v) : Overflows ew fw m (signed neg v) ↔ Reaches (modeOf m neg) (topVal ew) (topVal ew / 2 ^ (fw + 1)) v := by
  have half : topVal ew / 2 ^ (fw + 1) / 2 = topVal ew / 2 ^ (fw + 2) := by rw [div_div, ← pow_succ]
  have top : 0 < topVal ew := by unfold topVal; positivity
  have gap : topVal ew / 2 ^ (fw + 1) < topVal ew := div_lt_self top (one_lt_pow₀ (by norm_num) (Nat.succ_ne_zero fw))
  unfold Overflows
  rw [← topVal]
  obtain ⟨j, small⟩ := m
  interval_cases j
  · change _ ≤ |signed neg v| ↔ topVal ew - topVal ew / 2 ^ (fw + 1) / 2 ≤ v
    rw [abs_signed (le_of_lt pos), half]
  · change _ ≤ |signed neg v| ↔ topVal ew ≤ v
    rw [abs_signed (le_of_lt pos)]
  · cases neg
    · change (topVal ew ≤ v ∨ v < -(topVal ew - topVal ew / 2 ^ (fw + 1))) ↔ topVal ew ≤ v
      exact or_iff_left (by linarith)
    · change (topVal ew ≤ -v ∨ -v < -(topVal ew - topVal ew / 2 ^ (fw + 1))) ↔ topVal ew - topVal ew / 2 ^ (fw + 1) < v
      rw [neg_lt_neg_iff]
      exact or_iff_right (by linarith)
  · cases neg
    · change (topVal ew - topVal ew / 2 ^ (fw + 1) < v ∨ v ≤ -topVal ew) ↔ topVal ew - topVal ew / 2 ^ (fw + 1) < v
      exact or_iff_left (by linarith)
    · change (topVal ew - topVal ew / 2 ^ (fw + 1) < -v ∨ -v ≤ -topVal ew) ↔ topVal ew ≤ v
      rw [neg_le_neg_iff]
      exact or_iff_right (by linarith)

theorem tiny_signed (pos : 0 < v) : Tiny ew fw m (signed neg v) ↔ ¬ Reaches (modeOf m neg) (smallVal ew) (smallVal ew / 2 ^ (fw + 1)) v := by
  have half : smallVal ew / 2 ^ (fw + 1) / 2 = smallVal ew / 2 ^ (fw + 2) := by rw [div_div, ← pow_succ]
  have small : 0 < smallVal ew := by unfold smallVal; positivity
  have gap : smallVal ew / 2 ^ (fw + 1) < smallVal ew := div_lt_self small (one_lt_pow₀ (by norm_num) (Nat.succ_ne_zero fw))
  unfold Tiny
  rw [← smallVal, and_iff_right (signed_ne_zero pos)]
  obtain ⟨j, inside⟩ := m
  interval_cases j
  · change |signed neg v| < _ ↔ ¬ smallVal ew - smallVal ew / 2 ^ (fw + 1) / 2 ≤ v
    rw [abs_signed (le_of_lt pos), half, not_le]
  · change |signed neg v| < _ ↔ ¬ smallVal ew ≤ v
    rw [abs_signed (le_of_lt pos), not_le]
  · cases neg
    · change (-(smallVal ew - smallVal ew / 2 ^ (fw + 1)) ≤ v ∧ v < smallVal ew) ↔ ¬ smallVal ew ≤ v
      rw [not_le]
      exact and_iff_right (by linarith)
    · change (-(smallVal ew - smallVal ew / 2 ^ (fw + 1)) ≤ -v ∧ -v < smallVal ew) ↔ ¬ smallVal ew - smallVal ew / 2 ^ (fw + 1) < v
      rw [not_lt, neg_le_neg_iff]
      exact and_iff_left (by linarith)
  · cases neg
    · change (-smallVal ew < v ∧ v ≤ smallVal ew - smallVal ew / 2 ^ (fw + 1)) ↔ ¬ smallVal ew - smallVal ew / 2 ^ (fw + 1) < v
      rw [not_lt]
      exact and_iff_right (by linarith)
    · change (-smallVal ew < -v ∧ -v ≤ smallVal ew - smallVal ew / 2 ^ (fw + 1)) ↔ ¬ smallVal ew ≤ v
      rw [not_le, neg_lt_neg_iff]
      exact and_iff_left (by linarith)

theorem two_pow_exponent (exponent : 2 ≤ ew) : 2 ^ ew = 2 * 2 ^ (ew - 1) ∧ 2 ≤ 2 ^ (ew - 1) := by
  obtain ⟨j, rfl⟩ := Nat.exists_eq_add_of_le' exponent
  refine ⟨?_, ?_⟩
  · rw [show j + 2 - 1 = j + 1 from rfl, Nat.pow_succ, Nat.mul_comm]
  · rw [show j + 2 - 1 = j + 1 from rfl, Nat.pow_succ]
    have := Nat.two_pow_pos j
    omega

theorem smallVal_eq (exponent : 2 ≤ ew) : smallVal ew = 2 ^ (1 - (codeBias ew : Int)) := by
  obtain ⟨-, two⟩ := two_pow_exponent exponent
  rw [smallVal, one_div, ← zpow_natCast, ← zpow_neg, codeBias]
  congr 1
  omega

theorem topVal_eq (exponent : 2 ≤ ew) : topVal ew = 2 ^ ((codeBias ew : Int) + 1) := by
  obtain ⟨-, two⟩ := two_pow_exponent exponent
  rw [topVal, ← zpow_natCast, codeBias]
  congr 1
  omega

theorem smallVal_lt_topVal (exponent : 2 ≤ ew) : smallVal ew < topVal ew := by
  rw [smallVal_eq exponent, topVal_eq exponent]
  exact zpow_lt_zpow_right₀ (by norm_num) (by have := two_pow_exponent exponent; unfold codeBias; omega)

theorem narrowVal_bigCode (exponent : 2 ≤ ew) (fraction : 1 ≤ fw) : narrowVal fw (codeBias ew) (bigCode ew fw) = topVal ew := by
  obtain ⟨double, two⟩ := two_pow_exponent exponent
  have block : bigCode ew fw = (2 ^ ew - 2) * 2 ^ fw + 2 ^ fw := by rw [bigCode, ← Nat.succ_mul]; congr 1; omega
  rw [block, narrowVal_block (by omega) (.inr (Nat.le_refl _)) (Nat.pow_le_pow_right (by decide) (Nat.le_succ fw)), multiples, topVal_eq exponent, Nat.cast_pow, ← zpow_natCast, Nat.cast_ofNat,
    ← zpow_add₀ (by norm_num), unitExp, codeBias]
  congr 1
  omega

theorem narrowVal_bigCode_pred (exponent : 2 ≤ ew) (fraction : 1 ≤ fw) : narrowVal fw (codeBias ew) (bigCode ew fw - 1) = topVal ew - topVal ew / 2 ^ (fw + 1) := by
  obtain ⟨double, two⟩ := two_pow_exponent exponent
  have positive := Nat.two_pow_pos fw
  have succ : 2 ^ (fw + 1) = 2 ^ fw + 2 ^ fw := by rw [pow_succ]; omega
  have block : bigCode ew fw - 1 = (2 ^ ew - 3) * 2 ^ fw + (2 ^ (fw + 1) - 1) := by
    rw [bigCode, show 2 ^ ew - 1 = (2 ^ ew - 3) + 1 + 1 by omega, Nat.succ_mul, Nat.succ_mul]
    omega
  have unit : (2 : Rat) ^ (unitExp fw (codeBias ew) + (2 ^ ew - 3 : Nat)) * 2 ^ (fw + 1) = topVal ew := by
    rw [topVal_eq exponent, ← zpow_natCast, ← zpow_add₀ (by norm_num), unitExp, codeBias]
    congr 1
    omega
  rw [block, narrowVal_block (by omega) (.inr (by omega)) (Nat.sub_le _ _), multiples, Nat.cast_sub (Nat.one_le_two_pow), ← unit]
  push_cast
  field_simp

theorem even_bigCode (fraction : 1 ≤ fw) : bigCode ew fw % 2 = 0 := by
  obtain ⟨f, rfl⟩ := Nat.exists_eq_add_of_le' fraction
  rw [bigCode, Nat.pow_succ, ← Nat.mul_assoc, Nat.mul_mod_left]

theorem bigCode_pos (exponent : 2 ≤ ew) : 0 < bigCode ew fw := by
  obtain ⟨double, two⟩ := two_pow_exponent exponent
  exact Nat.mul_pos (by omega) (Nat.two_pow_pos fw)

/-- A value overflows when it is rounded to a code past the finite ones. -/
theorem overflows_iff_of_picks (exponent : 2 ≤ ew) (fraction : 1 ≤ fw) (pos : 0 < v) (picks : Picks (modeOf m neg) (narrowVal fw (codeBias ew)) v c) :
    Overflows ew fw m (signed neg v) ↔ bigCode ew fw ≤ c := by
  rw [overflows_signed pos, picks.reaches (narrowVal_strictMono (by omega)) (bigCode_pos exponent) (even_bigCode fraction), narrowVal_bigCode exponent fraction,
    narrowVal_bigCode_pred exponent fraction, sub_sub_cancel]

/-! ### Rounding -/

/-- The magnitude that a value is rounded to, with its sign, is the value rounded to the format. -/
theorem nearest_of_picks (picks : Picks .nearest (narrowVal fw (codeBias ew)) v c) (mono : StrictMono (narrowVal fw (codeBias ew))) (pos : 0 < v) (sign : Bool) (b : Nat) :
    |signed neg (narrowVal fw (codeBias ew) c) - signed neg v| ≤ |signed sign (narrowVal fw (codeBias ew) b) - signed neg v| ∧
      (|signed neg (narrowVal fw (codeBias ew) c) - signed neg v| = |signed sign (narrowVal fw (codeBias ew) b) - signed neg v| →
        signed sign (narrowVal fw (codeBias ew) b) = signed neg (narrowVal fw (codeBias ew) c) ∨ c % 2 = 0) := by
  by_cases same : sign = neg
  · subst same
    obtain ⟨closest, tie⟩ := picks.nearest mono b
    rw [abs_signed_sub, abs_signed_sub]
    exact ⟨closest, fun h => (tie h).imp_left fun h => by rw [h]⟩
  · obtain rfl : sign = !neg := by cases sign <;> cases neg <;> simp_all
    obtain ⟨closest, tie⟩ := picks.nearest mono 0
    rw [narrowVal_zero, zero_sub, abs_neg, abs_of_pos pos] at closest tie
    have nonneg := narrowVal_nonneg fw (codeBias ew) b
    rw [abs_signed_sub, abs_signed_sub_opposite nonneg (le_of_lt pos)]
    refine ⟨by linarith, fun h => (tie (by linarith)).imp_left ?_⟩
    rintro rfl
    have zero : narrowVal fw (codeBias ew) b = 0 := by linarith
    rw [zero, narrowVal_zero]
    cases neg <;> simp [signed]

/-- A finite value between the numbers of the format. -/
theorem roundsTo_of_picks (exponent : 2 ≤ ew) (fraction : 1 ≤ fw) (pos : 0 < v) (picks : Picks (modeOf m neg) (narrowVal fw (codeBias ew)) v c) (finite : c < bigCode ew fw) :
    RoundsTo ew fw m (signed neg v) (zeroCode ew fw neg + c) := by
  have mono : StrictMono (narrowVal fw (codeBias ew)) := narrowVal_strictMono (by omega)
  obtain ⟨sign, -, width⟩ := code_parts (ew := ew) (fw := fw) neg (Nat.lt_trans finite (bigCode_lt ew fw))
  have nonneg := narrowVal_nonneg fw (codeBias ew)
  have parity : (zeroCode ew fw neg + c) % 2 = c % 2 := by
    obtain ⟨f, rfl⟩ := Nat.exists_eq_add_of_le' fraction
    unfold zeroCode
    split
    · rw [← Nat.add_assoc, Nat.pow_succ]; omega
    · rw [Nat.zero_add]
  refine ⟨width, ?_, fun large => absurd ((overflows_iff_of_picks exponent fraction pos picks).mp large) (by omega), fun _ => ⟨_, codeVal_code neg finite, fun k x value => ?_⟩⟩
  · rw [sign, Bool.eq_iff_iff, decide_eq_true_iff, signed_neg_iff pos]
  · obtain ⟨b, -, rfl, -⟩ := exists_code value
    generalize codeNeg ew fw k = other
    rw [parity]
    obtain ⟨j, inside⟩ := m
    interval_cases j
    · exact nearest_of_picks picks mono pos other b
    · obtain ⟨under, greatest⟩ := Picks.toward picks mono
      change |signed neg _| ≤ |signed neg v| ∧ (|signed other _| ≤ |signed neg v| → |signed other _| ≤ |signed neg _|)
      rw [abs_signed (nonneg c), abs_signed (le_of_lt pos), abs_signed (nonneg b)]
      exact ⟨under, greatest b⟩
    · cases neg with
      | false =>
        obtain ⟨under, greatest⟩ := Picks.toward picks mono
        refine ⟨under, ?_⟩
        cases other with
        | false => exact greatest b
        | true => exact fun _ => le_trans (neg_nonpos.mpr (nonneg b)) (nonneg c)
      | true =>
        obtain ⟨above, least⟩ := Picks.away picks mono
        refine ⟨neg_le_neg above, fun low => ?_⟩
        cases other with
        | false => exact absurd (le_trans (nonneg b) low) (by simpa [signed] using pos)
        | true => exact neg_le_neg (least b (neg_le_neg_iff.mp low))
    · cases neg with
      | false =>
        obtain ⟨above, least⟩ := Picks.away picks mono
        refine ⟨above, fun high => ?_⟩
        cases other with
        | false => exact least b high
        | true => exact absurd (le_trans high (neg_nonpos.mpr (nonneg b))) (by simpa [signed] using pos)
      | true =>
        obtain ⟨under, greatest⟩ := Picks.toward picks mono
        refine ⟨neg_le_neg under, ?_⟩
        cases other with
        | false => exact fun _ => le_trans (neg_nonpos.mpr (nonneg c)) (nonneg b)
        | true => exact fun high => neg_le_neg (greatest b (neg_le_neg_iff.mp high))

/-- What Table 8.4 delivers on overflow. -/
def overflowCode (ew fw : Nat) (m : BitVec 2) (neg : Bool) : Nat :=
  match modeOf m neg with
  | .toward => infCode ew fw neg - 1
  | _ => infCode ew fw neg

theorem infCode_eq (ew fw : Nat) (neg : Bool) : infCode ew fw neg = zeroCode ew fw neg + bigCode ew fw := rfl

/-- Its parts: the greatest finite magnitude or an infinity, with the sign. -/
theorem overflowCode_parts (exponent : 2 ≤ ew) (fraction : 1 ≤ fw) : codeNeg ew fw (overflowCode ew fw m neg) = neg ∧ overflowCode ew fw m neg < 2 ^ (ew + fw + 1) ∧
    ∀ y, codeVal ew fw (overflowCode ew fw m neg) = some (signed neg y) → y < topVal ew ∧ modeOf m neg = .toward := by
  have positive := bigCode_pos (fw := fw) exponent
  have top : 0 < topVal ew := by unfold topVal; positivity
  have infinite : codeNeg ew fw (infCode ew fw neg) = neg ∧ infCode ew fw neg < 2 ^ (ew + fw + 1) ∧ codeVal ew fw (infCode ew fw neg) = none := by
    obtain ⟨sign, magnitude, width⟩ := code_parts (ew := ew) (fw := fw) neg (bigCode_lt ew fw)
    rw [infCode_eq]
    refine ⟨sign, width, ?_⟩
    rw [codeVal_eq, if_pos]
    rw [codeExp_eq, magnitude, bigCode, Nat.mul_div_cancel _ (Nat.two_pow_pos fw)]
  have greatest : infCode ew fw neg - 1 = zeroCode ew fw neg + (bigCode ew fw - 1) := by rw [infCode_eq]; omega
  have last : bigCode ew fw - 1 < bigCode ew fw := by omega
  obtain ⟨sign, -, width⟩ := code_parts (ew := ew) (fw := fw) neg (Nat.lt_trans last (bigCode_lt ew fw))
  have finite := codeVal_code (ew := ew) (fw := fw) neg last
  unfold overflowCode
  cases modeOf m neg with
  | toward =>
    rw [greatest]
    refine ⟨sign, width, fun y value => ?_⟩
    rw [finite, Option.some_inj, signed_inj, narrowVal_bigCode_pred exponent fraction] at value
    have : 0 < topVal ew / 2 ^ (fw + 1) := by positivity
    exact ⟨by linarith, rfl⟩
  | nearest | away =>
    obtain ⟨sign, width, none⟩ := infinite
    exact ⟨sign, width, fun y value => by rw [none] at value; exact absurd value (by simp)⟩

/-- A value beyond the numbers of the format. -/
theorem roundsTo_of_overflows (exponent : 2 ≤ ew) (fraction : 1 ≤ fw) (pos : 0 < v) (large : Overflows ew fw m (signed neg v)) :
    RoundsTo ew fw m (signed neg v) (overflowCode ew fw m neg) ∧ codeVal ew fw (overflowCode ew fw m neg) ≠ some (signed neg v) := by
  obtain ⟨sign, width, value⟩ := overflowCode_parts (m := m) (neg := neg) exponent fraction
  have negative : decide (signed neg v < 0) = neg := by rw [Bool.eq_iff_iff, decide_eq_true_iff, signed_neg_iff pos]
  refine ⟨⟨width, by rw [sign, negative], fun _ => ?_, absurd large⟩, fun same => ?_⟩
  · simp only [signed_neg_iff pos, signed_pos_iff pos]
    obtain ⟨j, inside⟩ := m
    cases neg
    all_goals
      interval_cases j
      all_goals rfl
  · obtain ⟨less, toward⟩ := value v same
    rw [overflows_signed pos, toward] at large
    exact absurd large (not_le.mpr less)

/-! ### The model's rounding to a format -/

section fin

variable {k : Fmt} {a : Nat} {e : Int}

theorem dyadic_pos (pos : 0 < a) (e : Int) : 0 < dyadic a e := by
  have : (0 : Rat) < a := by exact_mod_cast pos
  unfold dyadic
  positivity

/-- The leading exponent of a dyadic number. -/
theorem leadExp_bounds (pos : 0 < a) (e : Int) : (2 : Rat) ^ leadExp a e ≤ dyadic a e ∧ dyadic a e < 2 ^ (leadExp a e + 1) := by
  have unit : (0 : Rat) < 2 ^ e := by positivity
  have low : ((2 ^ Nat.log2 a : Nat) : Rat) ≤ a := by exact_mod_cast Nat.log2_self_le (Nat.ne_of_gt pos)
  have high : (a : Rat) < (2 ^ (Nat.log2 a + 1) : Nat) := by exact_mod_cast Nat.lt_log2_self
  rw [leadExp, dyadic, add_assoc, zpow_add₀ (by norm_num), zpow_add₀ (by norm_num), mul_comm, mul_comm (2 ^ e : Rat)]
  constructor
  · exact mul_le_mul_of_nonneg_right (by exact_mod_cast low) (le_of_lt unit)
  · exact mul_lt_mul_of_pos_right (by exact_mod_cast high) unit

theorem two_zpow_le {x y : Int} : (2 : Rat) ^ x ≤ 2 ^ y ↔ x ≤ y := zpow_le_zpow_iff_right₀ (by norm_num)
theorem two_zpow_lt {x y : Int} : (2 : Rat) ^ x < 2 ^ y ↔ x < y := zpow_lt_zpow_iff_right₀ (by norm_num)

theorem multiples_two_pow (x : Int) (j : Nat) : multiples (2 ^ x) (2 ^ j) = 2 ^ (x + j) := by
  rw [multiples, Nat.cast_pow, Nat.cast_ofNat, ← zpow_natCast, ← zpow_add₀ (by norm_num), add_comm]

/-- The model's test of a tiny result is the statements' (08 R184). -/
theorem tiny_iff (std : Standard k) (m : BitVec 2) (neg : Bool) (pos : 0 < a) :
    (leadExp a e < 1 - k.bias ∧ ¬ (leadExp a e = 1 - k.bias - 1 ∧ (roundAt (roundsUp (dirOf m) neg) a e (1 - k.bias - 1 - k.fw)).1 = 2 ^ (k.fw + 1))) ↔
      Tiny k.ew k.fw m (signed neg (dyadic a e)) := by
  obtain ⟨exponent, fraction, bias⟩ := std
  obtain ⟨low, high⟩ := leadExp_bounds pos e
  obtain ⟨picks, -⟩ := picks_roundAt m neg pos e (1 - k.bias - 1 - k.fw)
  have mono : StrictMono (multiples ((2 : Rat) ^ (1 - (k.bias : Int) - 1 - k.fw))) := multiples_strictMono (by positivity)
  have small : multiples ((2 : Rat) ^ (1 - (k.bias : Int) - 1 - k.fw)) (2 ^ (k.fw + 1)) = smallVal k.ew := by
    rw [multiples_two_pow, smallVal_eq exponent, ← bias]
    congr 1
    push_cast
    ring
  have gap : smallVal k.ew - multiples ((2 : Rat) ^ (1 - (k.bias : Int) - 1 - k.fw)) (2 ^ (k.fw + 1) - 1) = smallVal k.ew / 2 ^ (k.fw + 1) := by
    rw [← small, multiples, multiples, Nat.cast_sub Nat.one_le_two_pow]
    push_cast
    field_simp
    ring
  have reaches := picks.reaches mono (Nat.two_pow_pos (k.fw + 1)) (by rw [pow_succ, Nat.mul_mod_left])
  rw [small, gap] at reaches
  rw [tiny_signed (dyadic_pos pos e)]
  have least : smallVal k.ew = 2 ^ (1 - (k.bias : Int)) := by rw [smallVal_eq exponent, bias]
  have part : smallVal k.ew / 2 ^ (k.fw + 1) ≤ smallVal k.ew / 4 := by
    have : (4 : Rat) ≤ 2 ^ (k.fw + 1) := by
      calc (4 : Rat) = 2 ^ 2 := by norm_num
        _ ≤ 2 ^ (k.fw + 1) := pow_le_pow_right₀ (by norm_num) (by omega)
    have : 0 < smallVal k.ew := by rw [least]; positivity
    gcongr
  rcases lt_trichotomy (leadExp a e) (1 - k.bias - 1) with below | here | above
  · have quarter : dyadic a e < smallVal k.ew / 2 := by
      refine lt_of_lt_of_le high ?_
      rw [least, div_eq_mul_inv, ← zpow_neg_one, ← zpow_add₀ (by norm_num), two_zpow_le]
      omega
    have : 0 < smallVal k.ew := by rw [least]; positivity
    refine iff_of_true ⟨by omega, fun h => by omega⟩ ?_
    cases modeOf m neg <;> simp only [Reaches, not_le, not_lt] <;> linarith
  · have under : dyadic a e ≤ multiples (2 ^ (1 - (k.bias : Int) - 1 - k.fw)) (2 ^ (k.fw + 1)) := by
      rw [small, least]
      refine le_of_lt (lt_of_lt_of_le high ?_)
      rw [two_zpow_le]
      omega
    have most := picks.le mono under
    rw [← reaches, and_iff_right (by omega), and_iff_right here]
    omega
  · have beyond : smallVal k.ew ≤ dyadic a e := by
      rw [least]
      refine le_trans ?_ low
      rw [two_zpow_le]
      omega
    have positive : 0 < smallVal k.ew / 2 ^ (k.fw + 1) := by rw [least]; positivity
    refine iff_of_false (by omega) (not_not.mpr ?_)
    cases modeOf m neg <;> simp only [Reaches] <;> linarith

theorem signBit_eq (k : Fmt) (neg : Bool) : signBit k neg = zeroCode k.ew k.fw neg := by rw [signBit, zeroCode, Nat.add_comm]
theorem infBits_eq (k : Fmt) (neg : Bool) : infBits k neg = infCode k.ew k.fw neg := by rw [infBits, signBit_eq]; rfl

/-- What the model delivers on overflow. -/
theorem tooBig_eq (k : Fmt) (m : BitVec 2) (neg : Bool) :
    (match dirOf m with
      | .rne => infBits k neg
      | .rz => maxBits k neg
      | .rdn => if neg then infBits k neg else maxBits k neg
      | .rup => if neg then maxBits k neg else infBits k neg) = overflowCode k.ew k.fw m neg := by
  have greatest : maxBits k neg = infCode k.ew k.fw neg - 1 := by rw [← infBits_eq]; rfl
  rw [greatest, infBits_eq]
  obtain ⟨j, inside⟩ := m
  cases neg
  all_goals
    interval_cases j
    all_goals rfl

/-- The unit that a value is rounded to a multiple of: the format's precision below its leading bit, and no less than the least magnitude. -/
def roundUnit (k : Fmt) (a : Nat) (e : Int) : Int := max (leadExp a e - k.fw) (1 - (k.bias : Int) - k.fw)

theorem roundFin_eq (k : Fmt) (m : BitVec 2) (neg : Bool) (a : Nat) (e : Int) :
    roundFin k (dirOf m) neg a e =
      if (k.bias : Int) + 1 < leadExp a e then (overflowCode k.ew k.fw m neg, { of := true, nx := true })
      else
        let r := roundAt (roundsUp (dirOf m) neg) a e (roundUnit k a e)
        let c := (roundUnit k a e - (1 - (k.bias : Int) - k.fw)).toNat * 2 ^ k.fw + r.1
        let tiny := decide (leadExp a e < 1 - k.bias) &&
          !(decide (leadExp a e = 1 - k.bias - 1) && decide ((roundAt (roundsUp (dirOf m) neg) a e (leadExp a e - k.fw)).1 = 2 ^ (k.fw + 1)))
        if bigCode k.ew k.fw ≤ c then (overflowCode k.ew k.fw m neg, { of := true, nx := true }) else (zeroCode k.ew k.fw neg + c, { uf := tiny && r.2, nx := r.2 }) := by
  rw [← tooBig_eq, ← signBit_eq]
  rfl

/-- A dyadic number that overflows, and one that is rounded to a finite magnitude. -/
theorem roundFin_cases (std : Standard k) (m : BitVec 2) (neg : Bool) (pos : 0 < a) (e : Int) :
    (Overflows k.ew k.fw m (signed neg (dyadic a e)) ∧ roundFin k (dirOf m) neg a e = (overflowCode k.ew k.fw m neg, { of := true, nx := true })) ∨
    ∃ c fl, c < bigCode k.ew k.fw ∧ Picks (modeOf m neg) (narrowVal k.fw (codeBias k.ew)) (dyadic a e) c ∧ roundFin k (dirOf m) neg a e = (zeroCode k.ew k.fw neg + c, fl) ∧
      (fl.nx = true ↔ narrowVal k.fw (codeBias k.ew) c ≠ dyadic a e) ∧
      (fl.uf = true ↔ Tiny k.ew k.fw m (signed neg (dyadic a e)) ∧ narrowVal k.fw (codeBias k.ew) c ≠ dyadic a e) ∧ fl.of = false ∧ fl.dz = false ∧ fl.nv = false := by
  have tiny := tiny_iff (e := e) std m neg pos
  obtain ⟨exponent, fraction, bias⟩ := std
  obtain ⟨low, high⟩ := leadExp_bounds pos e
  rw [roundFin_eq]
  split
  case isTrue far =>
    refine .inl ⟨?_, rfl⟩
    have large : topVal k.ew ≤ dyadic a e := by
      rw [topVal_eq exponent, ← bias]
      exact le_trans (two_zpow_le.mpr (by omega)) low
    have gap : 0 < topVal k.ew / 2 ^ (k.fw + 1) := by unfold topVal; positivity
    rw [overflows_signed (dyadic_pos pos e)]
    cases modeOf m neg <;> simp only [Reaches] <;> linarith
  case isFalse near =>
    obtain ⟨j, block⟩ : ∃ j : Nat, roundUnit k a e = unitExp k.fw (codeBias k.ew) + j := by
      refine ⟨(roundUnit k a e - (1 - (k.bias : Int) - k.fw)).toNat, ?_⟩
      rw [unitExp, ← bias, roundUnit]
      omega
    have shift : (roundUnit k a e - (1 - (k.bias : Int) - k.fw)).toNat = j := by
      rw [block, unitExp, ← bias]
      omega
    have unit : leadExp a e - k.fw ≤ unitExp k.fw (codeBias k.ew) + j ∧ (j = 0 ∨ leadExp a e - k.fw = unitExp k.fw (codeBias k.ew) + j) := by
      rw [← block, ← shift, roundUnit]
      omega
    obtain ⟨multiple, inexact⟩ := picks_roundAt m neg pos e (unitExp k.fw (codeBias k.ew) + j)
    dsimp only
    rw [shift, block]
    have mono : StrictMono (multiples ((2 : Rat) ^ (unitExp k.fw (codeBias k.ew) + j))) := multiples_strictMono (by positivity)
    have below : dyadic a e < multiples (2 ^ (unitExp k.fw (codeBias k.ew) + j)) (2 ^ (k.fw + 1)) := by
      rw [multiples_two_pow]
      refine lt_of_lt_of_le high (two_zpow_le.mpr ?_)
      push_cast
      omega
    have normal : j = 0 ∨ multiples (2 ^ (unitExp k.fw (codeBias k.ew) + j)) (2 ^ k.fw) ≤ dyadic a e := by
      rcases Nat.eq_zero_or_pos j with zero | some
      · exact .inl zero
      · refine .inr ?_
        rw [multiples_two_pow]
        refine le_trans (two_zpow_le.mpr ?_) low
        omega
    have picks := multiple.block (by omega) fraction below normal
    have value : narrowVal k.fw (codeBias k.ew) (j * 2 ^ k.fw + (roundAt (roundsUp (dirOf m) neg) a e (unitExp k.fw (codeBias k.ew) + j)).1) =
        multiples (2 ^ (unitExp k.fw (codeBias k.ew) + j)) (roundAt (roundsUp (dirOf m) neg) a e (unitExp k.fw (codeBias k.ew) + j)).1 :=
      narrowVal_block (by omega) (normal.imp_right fun h => multiple.ge mono h) (multiple.le mono (le_of_lt below))
    rw [← value] at inexact
    have overflows := overflows_iff_of_picks exponent fraction (dyadic_pos pos e) picks
    split
    case isTrue large => exact .inl ⟨overflows.mpr large, rfl⟩
    case isFalse finite =>
      refine .inr ⟨_, _, Nat.lt_of_not_le finite, picks, rfl, inexact, ?_, rfl, rfl, rfl⟩
      rw [← tiny, Bool.and_eq_true, inexact, Bool.and_eq_true, Bool.not_eq_true', Bool.and_eq_false_iff]
      refine and_congr_left fun _ => ?_
      simp only [decide_eq_true_eq, decide_eq_false_iff_not, ← not_and_or]
      exact and_congr_right fun _ => not_congr (and_congr_right fun here => by rw [here])

/-- The model's rounding gives the exact result rounded once, with its flags. -/
theorem exactly_roundFin (std : Standard k) (m : BitVec 2) (neg : Bool) (pos : 0 < a) (e : Int) :
    RoundsTo k.ew k.fw m (signed neg (dyadic a e)) (roundFin k (dirOf m) neg a e).1 ∧
      Flagged k.ew k.fw m (signed neg (dyadic a e)) (roundFin k (dirOf m) neg a e).1 (roundFin k (dirOf m) neg a e).2.low := by
  have positive := dyadic_pos pos e
  rcases roundFin_cases std m neg pos e with ⟨large, result⟩ | ⟨c, fl, finite, picks, result, nx, uf, of, dz, nv⟩
  · obtain ⟨rounds, differs⟩ := roundsTo_of_overflows std.exponent std.fraction positive large
    have notTiny : ¬ Tiny k.ew k.fw m (signed neg (dyadic a e)) := by
      have less := smallVal_lt_topVal std.exponent
      rw [tiny_signed positive, not_not]
      rw [overflows_signed positive] at large
      have small : 0 < smallVal k.ew / 2 ^ (k.fw + 1) := by unfold smallVal; positivity
      have part : topVal k.ew / 2 ^ (k.fw + 1) - smallVal k.ew / 2 ^ (k.fw + 1) < topVal k.ew - smallVal k.ew := by
        rw [← sub_div]
        exact div_lt_self (by linarith) (one_lt_pow₀ (by norm_num) (Nat.succ_ne_zero k.fw))
      revert large
      cases modeOf m neg
      all_goals
        simp only [Reaches]
        intro large
        linarith
    rw [result]
    exact ⟨rounds, by rw [low_nx]; simp [differs], by rw [low_uf]; simp [notTiny], by rw [low_of]; simp [large], by rw [low_dz], by rw [low_nv]⟩
  · have value : codeVal k.ew k.fw (zeroCode k.ew k.fw neg + c) ≠ some (signed neg (dyadic a e)) ↔ narrowVal k.fw (codeBias k.ew) c ≠ dyadic a e := by
      rw [codeVal_code neg finite, ne_eq, Option.some_inj, signed_inj]
    have overflows := overflows_iff_of_picks std.exponent std.fraction positive picks
    rw [result]
    refine ⟨roundsTo_of_picks std.exponent std.fraction positive picks finite, ?_, ?_, ?_, ?_, ?_⟩
    · rw [low_nx, value, nx]
    · rw [low_uf, value, uf]
    · rw [low_of, overflows, of]
      exact iff_of_false (by simp) (by omega)
    · rw [low_dz, dz]
    · rw [low_nv, nv]

end fin

end Sys2Proof.Machine
end

section
/-! Exact sums and products, and what delivers them: the results of the arithmetic words as the statements have them (08 R183, R185, R188, R189). -/

namespace Sys2Proof.Machine

variable {ew fw r : Nat} {m : BitVec 2} {neg : Bool} {x y : Fp} {p q : Rat} {s t : Bool}

/-! ### Finite values -/

/-- x holds the finite number p, whose sign is neg, that of a zero included. -/
def Holds (x : Fp) (p : Rat) (neg : Bool) : Prop := (p = 0 ∧ x = .zero neg) ∨ ∃ a e, 0 < a ∧ x = .fin neg a e ∧ p = signed neg (dyadic a e)

/-- x is an exact result p; neg is the sign that a zero has. -/
def IsResult (x : Fp) (p : Rat) (neg : Bool) : Prop := (p = 0 ∧ x = .zero neg) ∨ ∃ sign a e, 0 < a ∧ x = .fin sign a e ∧ p = signed sign (dyadic a e)

theorem Holds.isResult (h : Holds x p neg) : IsResult x p neg := by
  obtain zero | ⟨a, e, pos, rfl, rfl⟩ := h
  · exact .inl zero
  · exact .inr ⟨neg, a, e, pos, rfl, rfl⟩

theorem Holds.eq_zero (h : Holds x 0 neg) : x = .zero neg := by
  obtain ⟨-, rfl⟩ | ⟨a, e, pos, rfl, zero⟩ := h
  · rfl
  · exact absurd zero.symm (signed_ne_zero (dyadic_pos pos e))

theorem scaled_eq {a : Nat} {e k : Int} (below : k ≤ e) : (scaled (.fin neg a e) k : Rat) * 2 ^ k = signed neg (dyadic a e) := by
  obtain ⟨j, apart⟩ := Int.eq_ofNat_of_zero_le (Int.sub_nonneg_of_le below)
  obtain rfl : e = k + j := by omega
  have unit : (2 : Rat) ^ (k + (j : Int)) = 2 ^ j * 2 ^ k := by rw [add_comm, zpow_add₀ (by norm_num), zpow_natCast]
  rw [scaled, apart, Int.toNat_natCast, dyadic, unit, Nat.shiftLeft_eq]
  cases neg <;> simp [signed, mul_assoc]

theorem isResult_ofScaled (v k : Int) (neg : Bool) : IsResult (ofScaled v k neg) (v * 2 ^ k) neg := by
  unfold ofScaled
  split
  case isTrue zero => exact .inl ⟨by simp [zero], rfl⟩
  case isFalse some =>
    refine .inr ⟨_, _, _, Int.natAbs_pos.mpr some, rfl, ?_⟩
    rw [dyadic, Nat.cast_natAbs]
    by_cases less : v < 0
    · simp [signed, less, abs_of_neg less]
    · simp [signed, less, abs_of_nonneg (not_lt.mp less)]

theorem dirOf_beq_rdn (m : BitVec 2) : (dirOf m == .rdn) = decide (m = 2#2) := by
  obtain ⟨j, inside⟩ := m
  interval_cases j
  all_goals rfl

/-- The exact sum of two finite values; of values that cancel the zero is negative when rounding down (08 R183). -/
theorem isResult_addV (left : Holds x p s) (right : Holds y q t) :
    (addV (dirOf m) x y).2 = false ∧ IsResult (addV (dirOf m) x y).1 (p + q) (if s = t then s else decide (m = 2#2)) := by
  obtain ⟨rfl, rfl⟩ | ⟨a, e, apos, rfl, rfl⟩ := left
  · obtain ⟨rfl, rfl⟩ | ⟨b, f, bpos, rfl, rfl⟩ := right
    · refine ⟨rfl, .inl ⟨add_zero 0, ?_⟩⟩
      simp only [addV, dirOf_beq_rdn]
      split <;> rfl
    · rw [zero_add]
      exact ⟨rfl, .inr ⟨t, b, f, bpos, rfl, rfl⟩⟩
  · obtain ⟨rfl, rfl⟩ | ⟨b, f, bpos, rfl, rfl⟩ := right
    · rw [add_zero]
      exact ⟨rfl, .inr ⟨s, a, e, apos, rfl, rfl⟩⟩
    · refine ⟨rfl, ?_⟩
      have sum := isResult_ofScaled (scaled (.fin s a e) (min e f) + scaled (.fin t b f) (min e f)) (min e f) (dirOf m == .rdn)
      rw [Int.cast_add, add_mul, scaled_eq (min_le_left e f), scaled_eq (min_le_right e f)] at sum
      obtain ⟨zero, result⟩ | some := sum
      · refine .inl ⟨zero, result.trans (congrArg _ ?_)⟩
        by_cases same : s = t
        · subst same
          have left := dyadic_pos apos e
          have right := dyadic_pos bpos f
          cases s
          · simp only [signed, Bool.false_eq_true, if_false] at zero; linarith
          · simp only [signed, if_true] at zero; linarith
        · rw [if_neg same, dirOf_beq_rdn]
      · exact .inr some

theorem signed_mul_signed (a b : Rat) : signed s a * signed t b = signed (s != t) (a * b) := by
  cases s <;> cases t <;> simp [signed]

/-- The exact product of two finite values. -/
theorem holds_mulV (left : Holds x p s) (right : Holds y q t) : (mulV x y).2 = false ∧ Holds (mulV x y).1 (p * q) (s != t) := by
  obtain ⟨rfl, rfl⟩ | ⟨a, e, apos, rfl, rfl⟩ := left
  · obtain ⟨rfl, rfl⟩ | ⟨b, f, bpos, rfl, rfl⟩ := right
    · exact ⟨rfl, .inl ⟨zero_mul _, rfl⟩⟩
    · exact ⟨rfl, .inl ⟨zero_mul _, rfl⟩⟩
  · obtain ⟨rfl, rfl⟩ | ⟨b, f, bpos, rfl, rfl⟩ := right
    · exact ⟨rfl, .inl ⟨mul_zero _, rfl⟩⟩
    · refine ⟨rfl, .inr ⟨a * b, e + f, Nat.mul_pos apos bpos, rfl, ?_⟩⟩
      rw [signed_mul_signed]
      congr 1
      simp only [dyadic, Nat.cast_mul]
      rw [zpow_add₀ (by norm_num)]
      ring

/-! ### Delivering -/

theorem deliver_nv (k : Fmt) (dir : Dir) (x : Fp) : (deliver k dir x).2.nv = false := by
  cases x with
  | fin neg a e =>
    simp only [deliver, roundFin]
    split
    · rfl
    · split <;> rfl
  | nan | inf | zero => rfl

/-- Nothing but the invalid flag is added to what is delivered. -/
theorem deliverNv_false (k : Fmt) (dir : Dir) (x : Fp) : deliverNv k dir (x, false) = deliver k dir x := by
  have flag := deliver_nv k dir x
  unfold deliverNv
  generalize deliver k dir x = d at flag
  obtain ⟨r, nv, dz, of, uf, nx⟩ := d
  cases flag
  rfl

theorem low_invalid (inv : Bool) : ({ nv := inv } : FFlags).low = if inv then 0x10#5 else 0#5 := by
  cases inv <;> rfl

/-- A NaN, and an infinity. -/
theorem invalid_deliverNv (k : Fmt) (dir : Dir) (sig inv : Bool) : Invalid k.ew k.fw inv (deliverNv k dir (.nan sig, inv)).1 (deliverNv k dir (.nan sig, inv)).2.low := ⟨rfl, low_invalid inv⟩

theorem infinite_deliverNv (k : Fmt) (dir : Dir) (neg : Bool) : Infinite k.ew k.fw neg (deliverNv k dir (.inf neg, false)).1 (deliverNv k dir (.inf neg, false)).2.low :=
  ⟨infBits_eq k neg, low_none⟩

variable {k : Fmt}

/-- An exact result is delivered rounded once. -/
theorem exactly_deliver (std : Standard k) (h : IsResult x p neg) : Exactly k.ew k.fw m p neg (deliver k (dirOf m) x).1 (deliver k (dirOf m) x).2.low := by
  obtain ⟨zero, rfl⟩ | ⟨sign, a, e, pos, rfl, rfl⟩ := h
  · exact ⟨fun _ => ⟨signBit_eq k neg, low_none⟩, absurd zero⟩
  · exact ⟨fun zero => absurd zero (signed_ne_zero (dyadic_pos pos e)), fun _ => exactly_roundFin std m sign pos e⟩

theorem quietNan_lt (std : Standard k) : quietNan k.ew k.fw < 2 ^ (k.ew + k.fw) := by
  have half : 2 ^ (k.fw - 1) < 2 ^ k.fw := Nat.pow_lt_pow_right (by decide) (Nat.sub_lt std.fraction Nat.one_pos)
  have whole : (2 ^ k.ew - 1) * 2 ^ k.fw + 2 ^ k.fw = 2 ^ (k.ew + k.fw) := by rw [← Nat.succ_mul, Nat.succ_eq_add_one, Nat.sub_add_cancel Nat.one_le_two_pow, Nat.pow_add]
  unfold quietNan
  omega

/-- Every delivered code fits its format. -/
theorem deliver_lt (std : Standard k) (m : BitVec 2) {x : Fp} (some : ∀ neg a e, x = .fin neg a e → 0 < a) : (deliver k (dirOf m) x).1 < 2 ^ (k.ew + k.fw + 1) := by
  have code (neg : Bool) {c : Nat} (inside : c < 2 ^ (k.ew + k.fw)) : zeroCode k.ew k.fw neg + c < 2 ^ (k.ew + k.fw + 1) := (code_parts neg inside).2.2
  cases x with
  | nan => exact Nat.lt_trans (quietNan_lt std) (Nat.pow_lt_pow_right (by decide) (Nat.lt_succ_self _))
  | inf neg => exact lt_of_eq_of_lt (infBits_eq k neg) (code neg (bigCode_lt k.ew k.fw))
  | zero neg => exact lt_of_eq_of_lt (signBit_eq k neg) (code neg (Nat.two_pow_pos _))
  | fin neg a e => exact (exactly_roundFin std m neg (some neg a e rfl) e).1.width

/-! ### What the model reads of a code -/

theorem Reads.isNan_eq (h : Reads ew fw r x) : isNan x = codeNan ew fw r := by
  cases h <;> simp [*, isNan]

theorem Reads.isSig_eq (h : Reads ew fw r x) : isSig x = codeSig ew fw r := by
  cases h <;> simp [*, isSig]

theorem Reads.eq_nan (h : Reads ew fw r x) (nan : codeNan ew fw r = true) : x = .nan (codeSig ew fw r) := by
  cases h with
  | nan => rfl
  | inf isNan | zero isNan | fin isNan => simp [nan] at isNan

theorem Reads.eq_inf (h : Reads ew fw r x) (inf : codeInf ew fw r = true) : x = .inf (codeNeg ew fw r) := by
  cases h with
  | inf => rfl
  | nan _ isInf | zero _ _ isInf | fin _ _ isInf => simp [inf] at isInf

theorem Reads.holds (h : Reads ew fw r x) (value : codeVal ew fw r = some p) : Holds x p (codeNeg ew fw r) := by
  cases h with
  | nan _ _ none | inf _ _ _ none => simp [none] at value
  | zero _ _ _ zero => exact .inl ⟨by simpa [zero] using value.symm, rfl⟩
  | @fin a e _ _ _ some pos => exact .inr ⟨a, e, pos, rfl, by simpa [some] using value.symm⟩

theorem Reads.exists_value (h : Reads ew fw r x) (nan : codeNan ew fw r = false) (inf : codeInf ew fw r = false) : ∃ p, codeVal ew fw r = some p := by
  cases h with
  | nan isNan => simp [nan] at isNan
  | inf _ _ isInf => simp [inf] at isInf
  | zero _ _ _ value | fin _ _ _ value => exact ⟨_, value⟩

theorem Holds.isSig_eq (h : Holds x p neg) : isSig x = false := by
  obtain ⟨-, rfl⟩ | ⟨a, e, -, rfl, -⟩ := h
  all_goals rfl

theorem Reads.pos (h : Reads ew fw r x) {neg : Bool} {a : Nat} {e : Int} (fin : x = .fin neg a e) : 0 < a := by
  subst fin
  cases h
  assumption

/-! ### Sums -/

theorem addV_nan (dir : Dir) (nan : isNan x = true ∨ isNan y = true) : addV dir x y = (.nan false, isSig x || isSig y) := by
  cases x with
  | nan => rfl
  | inf | zero | fin =>
    cases y with
    | nan => simp [addV, isSig]
    | inf | zero | fin => simp [isNan] at nan

theorem addV_inf_finite (dir : Dir) (s : Bool) (right : Holds y q t) : addV dir (.inf s) y = (.inf s, false) := by
  obtain ⟨-, rfl⟩ | ⟨a, e, -, rfl, -⟩ := right
  all_goals rfl

theorem addV_finite_inf (dir : Dir) (left : Holds x p s) (t : Bool) : addV dir x (.inf t) = (.inf t, false) := by
  obtain ⟨-, rfl⟩ | ⟨a, e, -, rfl, -⟩ := left
  all_goals rfl

theorem isSum_of_reads (std : Standard k) {a b : Nat} (left : Reads k.ew k.fw a x) (right : Reads k.ew k.fw b y) :
    IsSum k.ew k.fw m a b (deliverNv k (dirOf m) (addV (dirOf m) x y)).1 (deliverNv k (dirOf m) (addV (dirOf m) x y)).2.low where
  nan h := by
    rw [addV_nan _ (by rwa [left.isNan_eq, right.isNan_eq]), left.isSig_eq, right.isSig_eq]
    exact invalid_deliverNv ..
  infs ha hb := by
    rw [left.eq_inf ha, right.eq_inf hb]
    simp only [addV]
    split
    · exact infinite_deliverNv ..
    · exact invalid_deliverNv ..
  left ha hb := by
    obtain ⟨q, value⟩ := Option.isSome_iff_exists.mp hb
    rw [left.eq_inf ha, addV_inf_finite _ _ (right.holds value)]
    exact infinite_deliverNv ..
  right ha hb := by
    obtain ⟨p, value⟩ := Option.isSome_iff_exists.mp ha
    rw [right.eq_inf hb, addV_finite_inf _ (left.holds value)]
    exact infinite_deliverNv ..
  fin p q hp hq := by
    obtain ⟨valid, sum⟩ := isResult_addV (m := m) (left.holds hp) (right.holds hq)
    rw [show addV (dirOf m) x y = ((addV (dirOf m) x y).1, false) from Prod.ext rfl valid, deliverNv_false]
    exact exactly_deliver std sum

/-! ### Products -/

theorem mulV_nan (nan : isNan x = true ∨ isNan y = true) : mulV x y = (.nan false, isSig x || isSig y) := by
  cases x with
  | nan => rfl
  | inf | zero | fin =>
    cases y with
    | nan => simp [mulV, isSig]
    | inf | zero | fin => simp [isNan] at nan

theorem mulV_infByZero {a b : Nat} (left : Reads ew fw a x) (right : Reads ew fw b y) (zero : infByZero ew fw a b = true) : mulV x y = (.nan false, true) := by
  simp only [infByZero, Bool.or_eq_true, Bool.and_eq_true, beq_iff_eq] at zero
  rcases zero with ⟨inf, zero⟩ | ⟨inf, zero⟩
  · rw [left.eq_inf inf, (right.holds zero).eq_zero]
    rfl
  · rw [right.eq_inf inf, (left.holds zero).eq_zero]
    rfl

theorem mulV_infProduct {a b : Nat} (left : Reads ew fw a x) (right : Reads ew fw b y) (inf : infProduct ew fw a b = true) : mulV x y = (.inf (codeNeg ew fw a != codeNeg ew fw b), false) := by
  simp only [infProduct, Bool.and_eq_true, Bool.or_eq_true, Bool.not_eq_true'] at inf
  obtain ⟨⟨⟨some, leftNan⟩, rightNan⟩, byZero⟩ := inf
  simp only [infByZero, Bool.or_eq_false_iff, Bool.and_eq_false_iff, beq_eq_false_iff_ne] at byZero
  cases left with
  | nan isNan => simp [leftNan] at isNan
  | inf _ _ isInf =>
    cases right with
    | nan isNan => simp [rightNan] at isNan
    | zero _ _ _ zero => simp [isInf, zero] at byZero
    | inf | fin => rfl
  | zero _ _ isInf value =>
    cases right with
    | inf _ _ isInf' => simp [isInf', value] at byZero
    | nan _ isInf' | zero _ _ isInf' | fin _ _ isInf' => simp [isInf, isInf'] at some
  | fin _ _ isInf =>
    cases right with
    | inf => rfl
    | nan _ isInf' | zero _ _ isInf' | fin _ _ isInf' => simp [isInf, isInf'] at some

theorem isProduct_of_reads (std : Standard k) {a b : Nat} (left : Reads k.ew k.fw a x) (right : Reads k.ew k.fw b y) :
    IsProduct k.ew k.fw m a b (deliverNv k (dirOf m) (mulV x y)).1 (deliverNv k (dirOf m) (mulV x y)).2.low where
  nan h := by
    rw [mulV_nan (by rwa [left.isNan_eq, right.isNan_eq]), left.isSig_eq, right.isSig_eq]
    exact invalid_deliverNv ..
  zero h := by
    rw [mulV_infByZero left right h]
    exact invalid_deliverNv ..
  inf h := by
    rw [mulV_infProduct left right h]
    exact infinite_deliverNv ..
  fin p q hp hq := by
    obtain ⟨valid, product⟩ := holds_mulV (left.holds hp) (right.holds hq)
    rw [show mulV x y = ((mulV x y).1, false) from Prod.ext rfl valid, deliverNv_false]
    exact exactly_deliver std product.isResult

/-! ### Fused products and sums -/

theorem not_infByZero_of_nan {a b : Nat} (nan : codeNan ew fw a = true ∨ codeNan ew fw b = true) : infByZero ew fw a b = false := by
  have apart (r : Nat) (h : codeNan ew fw r = true) : codeInf ew fw r = false ∧ codeVal ew fw r ≠ some 0 := by
    simp only [codeNan, Bool.and_eq_true, bne_iff_ne, beq_iff_eq] at h
    obtain ⟨special, fraction⟩ := h
    exact ⟨by simp [codeInf, fraction], by rw [codeVal_eq, if_pos special]; simp⟩
  rcases nan with h | h
  · obtain ⟨inf, value⟩ := apart a h
    simp [infByZero, inf, value]
  · obtain ⟨inf, value⟩ := apart b h
    simp [infByZero, inf, value]

/-- A product of numbers is invalid only where an infinity meets a zero, and never a signalling NaN. -/
theorem mulV_number {a b : Nat} (left : Reads ew fw a x) (right : Reads ew fw b y) (leftNan : codeNan ew fw a = false) (rightNan : codeNan ew fw b = false) :
    (mulV x y).2 = infByZero ew fw a b ∧ isSig (mulV x y).1 = false := by
  cases zero : infByZero ew fw a b with
  | true =>
    rw [mulV_infByZero left right zero]
    exact ⟨rfl, rfl⟩
  | false =>
    cases inf : codeInf ew fw a || codeInf ew fw b with
    | true =>
      rw [mulV_infProduct left right (by simp [infProduct, inf, leftNan, rightNan, zero])]
      exact ⟨rfl, rfl⟩
    | false =>
      obtain ⟨leftInf, rightInf⟩ := Bool.or_eq_false_iff.mp inf
      obtain ⟨p, hp⟩ := left.exists_value leftNan leftInf
      obtain ⟨q, hq⟩ := right.exists_value rightNan rightInf
      obtain ⟨valid, product⟩ := holds_mulV (left.holds hp) (right.holds hq)
      exact ⟨valid, product.isSig_eq⟩

theorem isFused_of_reads (std : Standard k) {a b d : Nat} {z : Fp} (left : Reads k.ew k.fw a x) (right : Reads k.ew k.fw b y) (third : Reads k.ew k.fw d z) :
    IsFused k.ew k.fw m a b d (deliverNv k (dirOf m) ((addV (dirOf m) (mulV x y).1 z).1, (mulV x y).2 || (addV (dirOf m) (mulV x y).1 z).2)).1
      (deliverNv k (dirOf m) ((addV (dirOf m) (mulV x y).1 z).1, (mulV x y).2 || (addV (dirOf m) (mulV x y).1 z).2)).2.low where
  nan h := by
    by_cases factors : codeNan k.ew k.fw a = true ∨ codeNan k.ew k.fw b = true
    · rw [mulV_nan (by rwa [left.isNan_eq, right.isNan_eq]), addV_nan _ (.inl rfl), left.isSig_eq, right.isSig_eq, third.isSig_eq, not_infByZero_of_nan factors, Bool.or_false]
      exact invalid_deliverNv ..
    · have last : codeNan k.ew k.fw d = true := by tauto
      have quiet (r : Nat) (no : ¬ codeNan k.ew k.fw r = true) : codeSig k.ew k.fw r = false := by rw [codeSig, Bool.eq_false_iff.mpr no, Bool.false_and]
      rw [quiet a fun h => factors (.inl h), quiet b fun h => factors (.inr h), Bool.false_or, Bool.false_or, addV_nan _ (.inr (third.isNan_eq.trans last)), third.isSig_eq]
      have valid := mulV_number left right (Bool.eq_false_iff.mpr fun h => factors (.inl h)) (Bool.eq_false_iff.mpr fun h => factors (.inr h))
      obtain ⟨invalid, quietProduct⟩ := valid
      rw [invalid, quietProduct, Bool.false_or, Bool.or_comm]
      exact invalid_deliverNv ..
  zero h := by
    rw [mulV_infByZero left right h, addV_nan _ (.inl rfl)]
    exact invalid_deliverNv ..
  infs h hd := by
    rw [mulV_infProduct left right h, third.eq_inf hd]
    simp only [addV]
    split
    case isTrue same =>
      rw [← same]
      exact infinite_deliverNv ..
    case isFalse => exact invalid_deliverNv ..
  left h hd := by
    obtain ⟨q, value⟩ := Option.isSome_iff_exists.mp hd
    rw [mulV_infProduct left right h, addV_inf_finite _ _ (third.holds value)]
    exact infinite_deliverNv ..
  right ha hb hd := by
    obtain ⟨p, hp⟩ := Option.isSome_iff_exists.mp ha
    obtain ⟨q, hq⟩ := Option.isSome_iff_exists.mp hb
    obtain ⟨valid, product⟩ := holds_mulV (left.holds hp) (right.holds hq)
    rw [valid, third.eq_inf hd, addV_finite_inf _ product]
    exact infinite_deliverNv ..
  fin p q z hp hq hz := by
    obtain ⟨valid, product⟩ := holds_mulV (left.holds hp) (right.holds hq)
    obtain ⟨valid', sum⟩ := isResult_addV (m := m) product (third.holds hz)
    rw [valid, valid', Bool.or_false, deliverNv_false]
    have sign : (if (codeNeg k.ew k.fw a != codeNeg k.ew k.fw b) = codeNeg k.ew k.fw d then codeNeg k.ew k.fw d else decide (m = 2#2)) =
        if (codeNeg k.ew k.fw a != codeNeg k.ew k.fw b) = codeNeg k.ew k.fw d then (codeNeg k.ew k.fw a != codeNeg k.ew k.fw b) else decide (m = 2#2) := by
      split
      case isTrue same => rw [same]
      case isFalse => rfl
    rw [sign]
    exact exactly_deliver std sum

end Sys2Proof.Machine
end

section
/-! The arithmetic words: sums, products and fused product-sums in FP32 and in both halves of packed words, FSCALE, GRED.FADD (08 R182-R189, R191, R195; 07 R175). -/

namespace Sys2Proof.Machine

variable {k : Fmt} {m : BitVec 2}

/-! ### FP32 words -/

theorem toNat_ofNat_of_lt {n : Nat} (inside : n < 2 ^ 32) : (BitVec.ofNat 32 n).toNat = n := by rw [BitVec.toNat_ofNat, Nat.mod_eq_of_lt inside]

/-- Of a word with its sign bit turned over the rest is as it was. -/
theorem toNat_xor_sign (b : Word) : (b ^^^ 0x80000000#32).toNat % 2 ^ 31 = b.toNat % 2 ^ 31 ∧ (b ^^^ 0x80000000#32).toNat / 2 ^ 31 = 1 - b.toNat / 2 ^ 31 := by
  have bit : b.toNat / 2 ^ 31 < 2 := Nat.div_lt_of_lt_mul b.isLt
  rw [BitVec.toNat_xor]
  refine ⟨by rw [Nat.xor_mod_two_pow]; exact Nat.xor_zero _, ?_⟩
  rw [Nat.xor_div_two_pow]
  change b.toNat / 2 ^ 31 ^^^ 1 = _
  interval_cases b.toNat / 2 ^ 31 <;> rfl

theorem negate_unpack (b : Word) : negate (unpack fp32 b.toNat) = unpack fp32 (b ^^^ 0x80000000#32).toNat := by
  obtain ⟨low, high⟩ := toNat_xor_sign b
  have bit : b.toNat / 2 ^ 31 < 2 := Nat.div_lt_of_lt_mul b.isLt
  generalize (b ^^^ 0x80000000#32).toNat = r at *
  have fraction : r % 2 ^ 23 = b.toNat % 2 ^ 23 := by omega
  have exponent : r / 2 ^ 23 % 2 ^ 8 = b.toNat / 2 ^ 23 % 2 ^ 8 := by omega
  have sign : (r / 2 ^ (23 + 8) % 2 == 1) = !(b.toNat / 2 ^ (23 + 8) % 2 == 1) := by
    rw [high]
    interval_cases b.toNat / 2 ^ 31 <;> rfl
  simp only [unpack, fp32, fraction, exponent, sign]
  by_cases none : b.toNat % 2 ^ 23 = 0 <;> by_cases special : b.toNat / 2 ^ 23 % 2 ^ 8 = 2 ^ 8 - 1 <;> by_cases sub : b.toNat / 2 ^ 23 % 2 ^ 8 = 0
  all_goals simp only [none, special, sub, if_true, if_false, negate]
  all_goals rfl

theorem toNat_toW {r : Nat × FFlags} (inside : r.1 < 2 ^ 32) : (toW r).1.toNat = r.1 := toNat_ofNat_of_lt inside

/-- What holds of a code and its flags holds of the word. -/
theorem of_toW {P : Nat → BitVec 5 → Prop} {r : Nat × FFlags} (inside : r.1 < 2 ^ 32) (holds : P r.1 r.2.low) : P (withLow (toW r)).1.toNat (withLow (toW r)).2 := by
  rw [show (withLow (toW r)).1.toNat = r.1 from toNat_toW inside]
  exact holds

theorem deliverNv_lt (std : Standard k) (m : BitVec 2) {x : Fp × Bool} (some : ∀ neg a e, x.1 = .fin neg a e → 0 < a) : (deliverNv k (dirOf m) x).1 < 2 ^ (k.ew + k.fw + 1) :=
  deliver_lt std m some

/-! ### Exact results have no empty magnitude -/

theorem IsResult.pos {x : Fp} {p : Rat} {neg : Bool} (h : IsResult x p neg) : ∀ sign a e, x = .fin sign a e → 0 < a := by
  rintro sign a e rfl
  obtain ⟨-, zero⟩ | ⟨_, _, _, pos, same, -⟩ := h
  · cases zero
  · cases same
    exact pos

/-- x is not a finite number without a magnitude. -/
def Proper (x : Fp) : Prop := ∀ neg a e, x = .fin neg a e → 0 < a

theorem Reads.proper {ew fw r : Nat} {x : Fp} (h : Reads ew fw r x) : Proper x := fun _ _ _ fin => h.pos fin

theorem proper_ofScaled (v k : Int) (neg : Bool) : Proper (ofScaled v k neg) := (isResult_ofScaled v k neg).pos

theorem proper_addV (dir : Dir) {x y : Fp} (left : Proper x) (right : Proper y) : Proper (addV dir x y).1 := by
  intro neg a e fin
  cases x with
  | nan => cases fin
  | inf p =>
    cases y with
    | inf q => simp only [addV] at fin; split at fin <;> cases fin
    | nan | zero | fin => cases fin
  | zero p =>
    cases y with
    | zero q => simp only [addV] at fin; split at fin <;> cases fin
    | fin => exact right _ _ _ fin
    | nan | inf => cases fin
  | fin p b f =>
    cases y with
    | fin => exact proper_ofScaled _ _ _ _ _ _ fin
    | zero => exact left _ _ _ fin
    | nan | inf => cases fin

theorem proper_mulV {x y : Fp} (left : Proper x) (right : Proper y) : Proper (mulV x y).1 := by
  intro neg a e fin
  cases x with
  | nan => cases fin
  | inf | zero =>
    cases y with
    | nan | inf | zero | fin => cases fin
  | fin p b f =>
    cases y with
    | fin q c g => cases fin; exact Nat.mul_pos (left _ _ _ rfl) (right _ _ _ rfl)
    | nan | inf | zero => cases fin

theorem fAdd_lt (std : Standard k) (m : BitVec 2) (a b : Nat) : (fAdd k (dirOf m) a b).1 < 2 ^ (k.ew + k.fw + 1) :=
  deliverNv_lt std m (proper_addV _ (reads_unpack std a).proper (reads_unpack std b).proper)

theorem fMul_lt (std : Standard k) (m : BitVec 2) (a b : Nat) : (fMul k (dirOf m) a b).1 < 2 ^ (k.ew + k.fw + 1) :=
  deliverNv_lt std m (proper_mulV (reads_unpack std a).proper (reads_unpack std b).proper)

theorem fFma_lt (std : Standard k) (m : BitVec 2) (a b d : Nat) : (fFma k (dirOf m) a b d).1 < 2 ^ (k.ew + k.fw + 1) :=
  deliverNv_lt std m (proper_addV _ (proper_mulV (reads_unpack std a).proper (reads_unpack std b).proper) (reads_unpack std d).proper)

theorem isSum_fAdd (std : Standard k) (m : BitVec 2) (a b : Nat) : IsSum k.ew k.fw m a b (fAdd k (dirOf m) a b).1 (fAdd k (dirOf m) a b).2.low :=
  isSum_of_reads std (reads_unpack std a) (reads_unpack std b)

theorem isProduct_fMul (std : Standard k) (m : BitVec 2) (a b : Nat) : IsProduct k.ew k.fw m a b (fMul k (dirOf m) a b).1 (fMul k (dirOf m) a b).2.low :=
  isProduct_of_reads std (reads_unpack std a) (reads_unpack std b)

theorem isFused_fFma (std : Standard k) (m : BitVec 2) (a b d : Nat) : IsFused k.ew k.fw m a b d (fFma k (dirOf m) a b d).1 (fFma k (dirOf m) a b d).2.low :=
  isFused_of_reads std (reads_unpack std a) (reads_unpack std b) (reads_unpack std d)

theorem fSub_eq_fAdd (m : BitVec 2) (a b : Word) : fSub fp32 (dirOf m) a.toNat b.toNat = fAdd fp32 (dirOf m) a.toNat (b ^^^ 0x80000000#32).toNat := by rw [fSub, fAdd, negate_unpack]

/-! ### Both halves -/

/-- What holds of an operation on codes of 16 bits holds of both halves of the packed word. -/
theorem bothHalves_packed {op : Nat → Nat → Nat → Nat × FFlags} {P : Nat → Nat → Nat → Nat → BitVec 5 → Prop} (short : ∀ a b d, (op a b d).1 < 2 ^ 16)
    (holds : ∀ a b d, P a b d (op a b d).1 (op a b d).2.low) (a b d : Word) : BothHalves a b d (withLow (packed op a b d)).1 (withLow (packed op a b d)).2 P := by
  have first (x : Word) : x.toNat / 2 ^ (16 * 0) % 2 ^ 16 = x.toNat % 2 ^ 16 := by rw [Nat.mul_zero, Nat.pow_zero, Nat.div_one]
  have second (x : Word) : x.toNat / 2 ^ (16 * 1) % 2 ^ 16 = x.toNat / 2 ^ 16 := Nat.mod_eq_of_lt (Nat.div_lt_of_lt_mul x.isLt)
  simp only [packed, withLow, first, second]
  have low := short (a.toNat % 2 ^ 16) (b.toNat % 2 ^ 16) (d.toNat % 2 ^ 16)
  have high := short (a.toNat / 2 ^ 16) (b.toNat / 2 ^ 16) (d.toNat / 2 ^ 16)
  refine ⟨_, _, low_or _ _, ?_, ?_⟩
  · rw [toNat_ofNat_of_lt (by omega), Nat.mul_add_mod', Nat.mod_eq_of_lt low]
    exact holds ..
  · rw [toNat_ofNat_of_lt (by omega), Nat.mul_comm, Nat.mul_add_div (by decide), Nat.div_eq_of_lt low, Nat.add_zero]
    exact holds ..

/-! ### FSCALE -/

/-- A code by its sign and its magnitude. -/
theorem code_eq {ew fw r : Nat} (width : r < 2 ^ (ew + fw + 1)) : r = zeroCode ew fw (codeNeg ew fw r) + r % 2 ^ (ew + fw) := by
  have whole := Nat.div_add_mod r (2 ^ (ew + fw))
  have bit : r / 2 ^ (ew + fw) < 2 := Nat.div_lt_of_lt_mul (by rwa [← pow_succ])
  unfold zeroCode codeNeg
  generalize 2 ^ (ew + fw) = n at *
  generalize r / n = d at *
  interval_cases d
  · rw [Nat.mul_zero, Nat.zero_add] at whole
    exact whole.symm.trans (Nat.zero_add _).symm
  · rw [Nat.mul_one] at whole
    exact whole.symm

theorem eq_infCode {ew fw r : Nat} (width : r < 2 ^ (ew + fw + 1)) (inf : codeInf ew fw r = true) : r = infCode ew fw (codeNeg ew fw r) := by
  simp only [codeInf, Bool.and_eq_true, beq_iff_eq] at inf
  obtain ⟨special, fraction⟩ := inf
  have whole := Nat.div_add_mod' (r % 2 ^ (ew + fw)) (2 ^ fw)
  rw [← codeExp_eq, mod_fraction, special, fraction, Nat.add_zero] at whole
  rw [infCode_eq, bigCode, whole]
  exact code_eq width

theorem eq_zeroCode {ew fw r : Nat} (width : r < 2 ^ (ew + fw + 1)) {x : Fp} (reads : Reads ew fw r x) (zero : codeVal ew fw r = some 0) : r = zeroCode ew fw (codeNeg ew fw r) := by
  cases reads with
  | nan _ _ value | inf _ _ _ value => simp [value] at zero
  | zero _ _ _ _ code =>
    have split := code_eq width
    rwa [code, Nat.add_zero] at split
  | fin _ _ _ value pos => exact absurd (Option.some.inj (value.symm.trans zero)) (signed_ne_zero (dyadic_pos pos _))

theorem fScale_spec (a n : Word) :
    (codeNan 8 23 a.toNat = true → Invalid 8 23 (codeSig 8 23 a.toNat) (fScale a n).1.toNat (fScale a n).2.low) ∧
    (codeInf 8 23 a.toNat = true → Infinite 8 23 (codeNeg 8 23 a.toNat) (fScale a n).1.toNat (fScale a n).2.low) ∧
    ∀ p, codeVal 8 23 a.toNat = some p → Exactly 8 23 0#2 (p * (2 : Rat) ^ n.toInt) (codeNeg 8 23 a.toNat) (fScale a n).1.toNat (fScale a n).2.low := by
  have reads : Reads 8 23 a.toNat (unpack fp32 a.toNat) := reads_unpack standard_fp32 a.toNat
  refine ⟨fun nan => ?_, fun inf => ?_, fun p value => ?_⟩
  · rw [fScale, reads.eq_nan nan]
    exact ⟨rfl, low_invalid _⟩
  · rw [fScale, reads.eq_inf inf]
    exact ⟨eq_infCode a.isLt inf, low_none⟩
  · obtain ⟨rfl, code⟩ | ⟨b, e, pos, code, rfl⟩ := reads.holds value
    · rw [fScale, code, zero_mul]
      exact ⟨fun _ => ⟨eq_zeroCode a.isLt reads value, low_none⟩, absurd rfl⟩
    · have scale : signed (codeNeg 8 23 a.toNat) (dyadic b e) * 2 ^ n.toInt = signed (codeNeg 8 23 a.toNat) (dyadic b (e + n.toInt)) := by
        rw [dyadic, dyadic, zpow_add₀ (by norm_num)]
        cases codeNeg 8 23 a.toNat <;> simp [signed, mul_assoc]
      have rounds := exactly_roundFin standard_fp32 0#2 (codeNeg 8 23 a.toNat) pos (e + n.toInt)
      have short : (roundFin fp32 (dirOf 0#2) (codeNeg 8 23 a.toNat) b (e + n.toInt)).1 < 2 ^ 32 := rounds.1.width
      rw [fScale, code, scale]
      refine ⟨fun zero => absurd zero (signed_ne_zero (dyadic_pos pos _)), fun _ => ?_⟩
      exact of_toW (P := fun r fl => RoundsTo 8 23 0#2 _ r ∧ Flagged 8 23 0#2 _ r fl) short rounds

/-! ### The words -/

theorem dirA_eq (c : Ctx) (x : Bool) : dirA c x = dirOf (if x then c.g.gcfg.extractLsb' 0 2 else 0#2) := by
  cases x <;> rfl

/-- A word that rounds in the direction that its x bit selects. -/
theorem givesFlags_of_dirA {i : Instr} {w : FmtA} {f : BitVec 2 → Word → Word → Word → Word × FFlags} {op : Dir → Word → Word → Word → Word × FFlags} (same : ∀ m, op (dirOf m) = f m)
    (run : ∀ s, exec i s = plain i s (fun c => putF32 c w.u w.n w.d (fun l => op (dirA c w.x) (op32 c w.a l) (op32 c w.b l) (op32 c w.d l)))) :
    GivesFlags i w.u w.n w.d 1 (fun c l =>
      let r := withLow (f (if w.x then c.g.gcfg.extractLsb' 0 2 else 0#2) (op32 c w.a l) (op32 c w.b l) (op32 c w.d l))
      (r.1.setWidth 64, r.2)) :=
  givesFlags_of_putF32 run fun c l => by rw [dirA_eq, same]; rfl

/-- Settles O15: each word delivers an exact sum, product or fused product-sum rounded once, of codes, of halves of codes, of the values of a tree's combinations; FSCALE rounds its scaled operand. -/
theorem floatArithmeticRoundsTheExactResult : Obligations.FloatArithmeticRoundsTheExactResult := by
  unfold Obligations.FloatArithmeticRoundsTheExactResult
  have add := isSum_fAdd standard_fp32
  have width := fAdd_lt standard_fp32
  refine ⟨fun w => ?_, fun w => ⟨_, combines_of_gredF (fun _ => rfl), fun a b => ?_⟩⟩
  · dsimp only
    refine ⟨⟨fun m a b _ => withLow (toW (fAdd fp32 (dirOf m) a.toNat b.toNat)), ?_, fun m a b _ => ?_⟩,
      ⟨fun m a b _ => withLow (toW (fSub fp32 (dirOf m) a.toNat b.toNat)), ?_, fun m a b _ => ?_⟩,
      ⟨fun m a b _ => withLow (toW (fMul fp32 (dirOf m) a.toNat b.toNat)), ?_, fun m a b _ => ?_⟩,
      ⟨fun m a b d => withLow (toW (fFma fp32 (dirOf m) a.toNat b.toNat d.toNat)), ?_, fun m a b d => ?_⟩,
      ⟨_, givesFloats_of_putF32 (f := fun a b _ => packed (fun a b _ => fAdd fp16 .rne a b) a b 0#32) (fun _ => rfl), fun a b d => ?_⟩,
      ⟨_, givesFloats_of_putF32 (f := fun a b _ => packed (fun a b _ => fMul fp16 .rne a b) a b 0#32) (fun _ => rfl), fun a b d => ?_⟩,
      ⟨_, givesFloats_of_putF32 (f := packed (fFma fp16 .rne)) (fun _ => rfl), fun a b d => ?_⟩,
      ⟨_, givesFloats_of_putF32 (f := fun a b _ => packed (fun a b _ => fAdd bf16 .rne a b) a b 0#32) (fun _ => rfl), fun a b d => ?_⟩,
      ⟨_, givesFloats_of_putF32 (f := fun a b _ => packed (fun a b _ => fMul bf16 .rne a b) a b 0#32) (fun _ => rfl), fun a b d => ?_⟩,
      ⟨_, givesFloats_of_putF32 (f := packed (fFma bf16 .rne)) (fun _ => rfl), fun a b d => ?_⟩,
      ⟨fun a n => withLow (fScale a n), givesFlags_of_putF32 (fun _ => rfl) fun _ _ => rfl, fScale_spec⟩⟩
    · exact givesFlags_of_dirA (op := fun dir a b _ => toW (fAdd fp32 dir a.toNat b.toNat)) (fun _ => rfl) fun _ => rfl
    · exact of_toW (width m _ _) (add m _ _)
    · exact givesFlags_of_dirA (op := fun dir a b _ => toW (fSub fp32 dir a.toNat b.toNat)) (fun _ => rfl) fun _ => rfl
    · dsimp only
      rw [fSub_eq_fAdd]
      exact of_toW (width m _ _) (add m _ _)
    · exact givesFlags_of_dirA (op := fun dir a b _ => toW (fMul fp32 dir a.toNat b.toNat)) (fun _ => rfl) fun _ => rfl
    · exact of_toW (fMul_lt standard_fp32 m _ _) (isProduct_fMul standard_fp32 m _ _)
    · exact givesFlags_of_dirA (op := fun dir a b d => toW (fFma fp32 dir a.toNat b.toNat d.toNat)) (fun _ => rfl) fun _ => rfl
    · exact of_toW (fFma_lt standard_fp32 m _ _ _) (isFused_fFma standard_fp32 m _ _ _)
    · exact bothHalves_packed (fun a b _ => fAdd_lt standard_fp16 0#2 a b) (fun a b _ => isSum_fAdd standard_fp16 0#2 a b) a b d
    · exact bothHalves_packed (fun a b _ => fMul_lt standard_fp16 0#2 a b) (fun a b _ => isProduct_fMul standard_fp16 0#2 a b) a b d
    · exact bothHalves_packed (fFma_lt standard_fp16 0#2) (isFused_fFma standard_fp16 0#2) a b d
    · exact bothHalves_packed (fun a b _ => fAdd_lt standard_bf16 0#2 a b) (fun a b _ => isSum_fAdd standard_bf16 0#2 a b) a b d
    · exact bothHalves_packed (fun a b _ => fMul_lt standard_bf16 0#2 a b) (fun a b _ => isProduct_fMul standard_bf16 0#2 a b) a b d
    · exact bothHalves_packed (fFma_lt standard_bf16 0#2) (isFused_fFma standard_bf16 0#2) a b d
  · exact of_toW (width 0#2 _ _) (add 0#2 _ _)

end Sys2Proof.Machine
end

section
/-! Minima, maxima and compares: the codes in the order of minimumNumber, the values in their order (08 R190, R192, Table 8.6; 07 R175). -/

namespace Sys2Proof.Machine

theorem reads_fp32 (a : Nat) : Reads 8 23 a (unpack fp32 a) := reads_unpack standard_fp32 a

/-! ### Minima and maxima -/

/-- The model's key of a code is its place in the order of minimumNumber. -/
theorem fkey_eq (v : Word) : fkey v = order32 v := by
  simp only [fkey, order32, BitVec.msb_eq_decide, decide_eq_true_eq]
  split <;> split <;> omega

theorem fMinMax_flags (isMax : Bool) (a b : Word) : (fMinMax isMax a b).2.low = if codeSig 8 23 a.toNat || codeSig 8 23 b.toNat then 0x10#5 else 0#5 := by
  rw [← (reads_fp32 a.toNat).isSig_eq, ← (reads_fp32 b.toNat).isSig_eq, ← low_invalid]
  unfold fMinMax
  dsimp only
  split
  · rfl
  · split
    · rfl
    · split <;> rfl

/-- What is delivered where an operand is a NaN, and where none is. -/
theorem fMinMax_value (isMax : Bool) (a b : Word) : (fMinMax isMax a b).1 =
    if codeNan 8 23 a.toNat && codeNan 8 23 b.toNat then 0x7FC00000#32 else if codeNan 8 23 a.toNat then b else if codeNan 8 23 b.toNat then a
    else if isMax then (if order32 a ≤ order32 b then b else a) else (if order32 a ≤ order32 b then a else b) := by
  rw [← fkey_eq, ← fkey_eq, ← (reads_fp32 a.toNat).isNan_eq, ← (reads_fp32 b.toNat).isNan_eq]
  unfold fMinMax
  dsimp only
  split
  · rfl
  · split
    · rfl
    · split <;> rfl

/-- The greater operand and the lesser one. -/
theorem fMinMax_number (isMax : Bool) {a b : Word} (left : codeNan 8 23 a.toNat = false) (right : codeNan 8 23 b.toNat = false) :
    (fMinMax isMax a b).1 = if isMax then (if order32 a ≤ order32 b then b else a) else (if order32 a ≤ order32 b then a else b) := by
  rw [fMinMax_value, left, right]
  rfl

/-! ### Compares -/

/-- A finite code's place in the order of the values: the zeros are equal. -/
def valueKey (neg : Bool) (c : Nat) : Int := if c = 0 then 0 else if neg then -(c : Int) - 1 else c

theorem signed_lt_signed {g : Nat → Rat} (mono : StrictMono g) (zero : g 0 = 0) (s t : Bool) (c d : Nat) : signed s (g c) < signed t (g d) ↔ valueKey s c < valueKey t d := by
  have nonneg (j : Nat) : 0 ≤ g j := zero ▸ mono.monotone (Nat.zero_le j)
  have pos (j : Nat) : 0 < g j ↔ 0 < j := by rw [← zero, mono.lt_iff_lt]
  have less : g c < g d ↔ c < d := mono.lt_iff_lt
  have more : g d < g c ↔ d < c := mono.lt_iff_lt
  have ofC := nonneg c
  have ofD := nonneg d
  unfold valueKey
  cases s <;> cases t <;> simp only [signed, if_true, if_false, Bool.false_eq_true]
  · rw [less]
    split <;> split <;> omega
  · refine iff_of_false (by linarith) ?_
    split <;> split <;> omega
  · rw [show -g c < g d ↔ 0 < g c ∨ 0 < g d by
      constructor
      · intro h
        by_contra none
        rw [not_or, not_lt, not_lt] at none
        linarith
      · rintro (h | h) <;> linarith, pos, pos]
    split <;> split <;> omega
  · rw [neg_lt_neg_iff, more]
    split <;> split <;> omega

/-- The model's key of a code, with the zeros equal. -/
theorem zeroKey_eq (a : Word) : (if a.setWidth 31 = 0#31 then 0 else fkey a) = valueKey (codeNeg 8 23 a.toNat) (a.toNat % 2 ^ 31) := by
  have zero : a.setWidth 31 = 0#31 ↔ a.toNat % 2 ^ 31 = 0 := by rw [← BitVec.toNat_inj, BitVec.toNat_setWidth]; rfl
  have bit : a.toNat / 2 ^ 31 < 2 := Nat.div_lt_of_lt_mul a.isLt
  have sign : codeNeg 8 23 a.toNat = decide (2 ^ 31 ≤ a.toNat) := by
    unfold codeNeg
    rw [Bool.eq_iff_iff, beq_iff_eq, decide_eq_true_iff]
    omega
  simp only [zero, valueKey, sign, fkey_eq, order32, decide_eq_true_eq]
  split
  · rfl
  · split <;> split <;> omega

theorem lt_iff_of_codeVal {a b : Word} {p q : Rat} (left : codeVal 8 23 a.toNat = some p) (right : codeVal 8 23 b.toNat = some q) :
    p < q ↔ (if a.setWidth 31 = 0#31 then 0 else fkey a) < (if b.setWidth 31 = 0#31 then 0 else fkey b) := by
  obtain ⟨c, -, rfl, partA⟩ := exists_code left
  obtain ⟨d, -, rfl, partB⟩ := exists_code right
  rw [zeroKey_eq, zeroKey_eq, show a.toNat % 2 ^ 31 = c from partA, show b.toNat % 2 ^ 31 = d from partB]
  exact signed_lt_signed (narrowVal_strictMono (by decide)) (narrowVal_zero _ _) _ _ c d

/-- The outcome of the model's comparison of two finite codes. -/
theorem fcompare_eq {a b : Word} {p q : Rat} (left : codeVal 8 23 a.toNat = some p) (right : codeVal 8 23 b.toNat = some q) :
    fcompare a b = if p < q then -1 else if p = q then 0 else 1 := by
  have less := lt_iff_of_codeVal left right
  have more := lt_iff_of_codeVal right left
  have same : p = q ↔ ¬ p < q ∧ ¬ q < p := by rw [not_lt, not_lt, le_antisymm_iff, and_comm]
  simp only [fcompare, same, less, more]
  generalize (if a.setWidth 31 = 0#31 then 0 else fkey a) = x
  generalize (if b.setWidth 31 = 0#31 then 0 else fkey b) = y
  exact if_congr Iff.rfl rfl (if_congr (by omega) rfl rfl)

/-- A code of a number is no NaN. -/
theorem codeNan_of_codeVal {ew fw r : Nat} {p : Rat} (value : codeVal ew fw r = some p) : codeNan ew fw r = false := by
  rw [codeVal_eq] at value
  split at value
  · exact absurd value (by simp)
  case isFalse finite => simp [codeNan, finite]

theorem fCond_flags (cond : BitVec 4) (a b : Word) : (fCond cond a b).2.low =
    if codeSig 8 23 a.toNat || codeSig 8 23 b.toNat || ((codeNan 8 23 a.toNat || codeNan 8 23 b.toNat) && decide (cond.toNat ∈ [2, 3, 4, 5])) then 0x10#5 else 0#5 := by
  have signalling : (decide (2 ≤ cond.toNat) && decide (cond.toNat ≤ 5)) = decide (cond.toNat ∈ [2, 3, 4, 5]) := by
    rw [Bool.eq_iff_iff, Bool.and_eq_true, decide_eq_true_iff, decide_eq_true_iff, decide_eq_true_iff]
    simp only [List.mem_cons, List.not_mem_nil, or_false]
    omega
  rw [← (reads_fp32 a.toNat).isSig_eq, ← (reads_fp32 b.toNat).isSig_eq, ← (reads_fp32 a.toNat).isNan_eq, ← (reads_fp32 b.toNat).isNan_eq, ← signalling, Bool.and_comm (isNan _ || isNan _),
    ← low_invalid]
  rfl

theorem fCond_unordered {cond : BitVec 4} {a b : Word} (known : cond.toNat < 12) (nan : (codeNan 8 23 a.toNat || codeNan 8 23 b.toNat) = true) :
    (fCond cond a b).1 = decide (cond.toNat ∈ [1, 6, 8, 9, 10, 11]) := by
  rw [← (reads_fp32 a.toNat).isNan_eq, ← (reads_fp32 b.toNat).isNan_eq] at nan
  obtain ⟨j, inside⟩ := cond
  simp only [fCond, nan, Bool.not_true, Bool.false_and, Bool.true_or]
  replace known : j < 12 := known
  interval_cases j
  all_goals rfl

theorem fCond_ordered {cond : BitVec 4} {a b : Word} {p q : Rat} (left : codeVal 8 23 a.toNat = some p) (right : codeVal 8 23 b.toNat = some q) :
    (fCond cond a b).1 = (match cond.toNat with
      | 0 => decide (p = q) | 1 => decide (p ≠ q) | 2 => decide (p < q) | 3 => decide (p ≤ q) | 4 => decide (q < p) | 5 => decide (q ≤ p)
      | 6 => false | 7 => true | 8 => decide (p < q) | 9 => decide (p ≤ q) | 10 => decide (q < p) | _ => decide (q ≤ p)) := by
  have ordered : (isNan (unpack fp32 a.toNat) || isNan (unpack fp32 b.toNat)) = false := by
    rw [(reads_fp32 a.toNat).isNan_eq, (reads_fp32 b.toNat).isNan_eq, codeNan_of_codeVal left, codeNan_of_codeVal right]
    rfl
  obtain ⟨j, inside⟩ := cond
  simp only [fCond, ordered, fcompare_eq left right, Bool.not_false, Bool.true_and, Bool.false_or]
  rcases lt_trichotomy p q with less | rfl | more
  · simp only [less, if_true, ne_eq, not_false_eq_true, ne_of_lt less, le_of_lt less, not_lt_of_ge (le_of_lt less), not_le_of_gt less]
    interval_cases j
    all_goals rfl
  · simp only [lt_irrefl, if_false, if_true, le_refl, ne_eq, not_true_eq_false]
    interval_cases j
    all_goals rfl
  · simp only [more, not_lt_of_ge (le_of_lt more), if_false, ne_eq, not_false_eq_true, ne_of_gt more, le_of_lt more, not_le_of_gt more]
    interval_cases j
    all_goals rfl

/-- FCMP's outcome; of conditions that no legal word names, none. -/
def fCondLegal (cond : BitVec 4) (a b : Word) : Bool × BitVec 5 := ((fCond cond a b).1 && decide (cond.toNat < 12), (fCond cond a b).2.low)

/-- Settles O16: the minima and maxima choose by the key that orders the codes, the compares by the order of the values. -/
theorem floatOrderResults : Obligations.FloatOrderResults := by
  unfold Obligations.FloatOrderResults
  refine ⟨⟨fun a b => withLow (fMinMax false a b), fun a b => withLow (fMinMax true a b), fun w => ⟨?_, ?_, ?_⟩, fun w => ⟨?_, ?_⟩, fun f which a b => ?_, fun a b left right => ?_⟩,
    fun w => ⟨fCondLegal w.cond, ?_⟩⟩
  · exact givesFloats_of_putF32 (f := fun a b _ => fMinMax false a b) fun _ => rfl
  · exact givesFloats_of_putF32 (f := fun a b _ => fMinMax true a b) fun _ => rfl
  · exact givesFloats_of_putF32 (f := fun a _ d => fMinMax true d (a &&& 0x7FFFFFFF#32)) fun _ => rfl
  · exact combines_of_gredF fun _ => rfl
  · exact combines_of_gredF fun _ => rfl
  · obtain ⟨isMax, rfl⟩ : ∃ isMax, f = fun a b => withLow (fMinMax isMax a b) := which.elim (fun h => ⟨false, h⟩) (fun h => ⟨true, h⟩)
    have value := fMinMax_value isMax a b
    refine ⟨fMinMax_flags isMax a b, fun left right => ?_, fun left right => ?_, fun left right => ?_, fun left right => ?_⟩
    · dsimp only at left right
      rwa [left, right] at value
    · dsimp only at left right
      rwa [left, right] at value
    · dsimp only at left right
      rwa [left, right] at value
    · dsimp only at left right
      rw [left, right] at value
      change (fMinMax isMax a b).1 = a ∨ (fMinMax isMax a b).1 = b
      rw [value]
      cases isMax <;> by_cases below : order32 a ≤ order32 b <;> simp [below]
  · simp only [withLow, fMinMax_number _ left right, if_true, Bool.false_eq_true, if_false]
    by_cases below : order32 a ≤ order32 b
    · simp [below]
    · simp [below, le_of_not_ge below]
  · obtain ⟨bit, flags⟩ := givesBit_and_setsFlags_of_putPred (i := .fcmp w) (u := w.u) (pd := w.pd) (x := fun c l => fCond w.cond (op32 c w.a l) (op32 c w.b l))
      (y := fun c l => fCondLegal w.cond (op32 c w.a l) (op32 c w.b l)) (fun _ => rfl) fun c legal l => by
        have known := cond_le_of_own (own_of_legal legal)
        rw [fCondLegal, decide_eq_true (Nat.lt_succ_of_le known), Bool.and_true]
        rfl
    refine ⟨bit, flags, fun a b => ⟨fCond_flags w.cond a b, fun nan => ?_, fun p q left right known => ?_⟩⟩
    · by_cases known : w.cond.toNat < 12
      · rw [fCondLegal, decide_eq_true known, Bool.and_true, fCond_unordered known nan]
      · rw [fCondLegal, decide_eq_false known, Bool.and_false]
        symm
        simp only [decide_eq_false_iff_not, List.mem_cons, List.not_mem_nil, or_false]
        omega
    · rw [fCondLegal, decide_eq_true known, Bool.and_true]
      exact fCond_ordered left right

end Sys2Proof.Machine
end

section
/-! Rounding to integers, and results that a format holds: the sign words, FLOOR, CEIL, TRUNC, RNDNE and FRACT (08 R182, R193, R194, Tables 8.7, 8.8). -/

namespace Sys2Proof.Machine

variable {m : BitVec 2} {neg : Bool} {v p : Rat} {n : Nat} {j : Int}

/-! ### Integers -/

theorem floor_eq_iff : p.floor = j ↔ (j : Rat) ≤ p ∧ p < j + 1 := by
  rw [show p.floor = ⌊p⌋ from rfl]
  exact Int.floor_eq_iff

theorem ceil_eq_iff : p.ceil = j ↔ (j : Rat) - 1 < p ∧ p ≤ j := by
  rw [Rat.ceil_eq_neg_floor_neg, neg_eq_iff_eq_neg, floor_eq_iff, Int.cast_neg, neg_le_neg_iff]
  constructor
  · rintro ⟨le, lt⟩; exact ⟨by linarith, le⟩
  · rintro ⟨lt, le⟩; exact ⟨le, by linarith⟩

/-- An integer by its sign and its magnitude. -/
def signedInt (neg : Bool) (n : Nat) : Int := if neg then -n else n

theorem cast_signedInt (neg : Bool) (n : Nat) : (signedInt neg n : Rat) = signed neg n := by
  cases neg <;> simp [signedInt, signed]

theorem multiples_one (n : Nat) : multiples (2 ^ (0 : Int)) n = n := by rw [multiples, zpow_zero, mul_one]

/-- A magnitude rounded to an integer, with its sign, is the value rounded. -/
theorem intRound_of_picks (picks : Picks (modeOf m neg) (multiples (2 ^ (0 : Int))) v n) : IntRound m (signed neg v) (signedInt neg n) := by
  obtain ⟨c, low, high, up⟩ := picks
  rw [multiples_one] at low up
  rw [multiples_one] at high up
  push_cast at high up
  have nonneg : (0 : Rat) ≤ c := Nat.cast_nonneg c
  obtain ⟨k, inside⟩ := m
  interval_cases k
  · change |(signedInt neg n : Rat) - signed neg v| ≤ 1 / 2 ∧ (|(signedInt neg n : Rat) - signed neg v| = 1 / 2 → signedInt neg n % 2 = 0)
    change (GoesUp .nearest _ _ _ _ ∧ _) ∨ (¬ GoesUp .nearest _ _ _ _ ∧ _) at up
    rw [cast_signedInt, abs_signed_sub]
    have parity : signedInt neg n % 2 = 0 ↔ n % 2 = 0 := by unfold signedInt; split <;> omega
    rw [parity]
    simp only [GoesUp, not_or, not_lt, not_and] at up
    rcases up with ⟨beyond, rfl⟩ | ⟨⟨under, tie⟩, rfl⟩
    · rw [abs_of_nonneg (by push_cast; linarith)]
      push_cast
      refine ⟨by rcases beyond with h | ⟨h, -⟩ <;> linarith, fun half => ?_⟩
      rcases beyond with h | ⟨-, odd⟩
      · linarith
      · omega
    · rw [abs_sub_comm, abs_of_nonneg (by linarith)]
      refine ⟨by linarith, fun half => ?_⟩
      have := tie (by linarith)
      omega
  · change signedInt neg n = if 0 ≤ signed neg v then (signed neg v).floor else (signed neg v).ceil
    obtain ⟨no, -⟩ | ⟨-, rfl⟩ := up
    · exact no.elim
    · cases neg
      · rw [if_pos (show 0 ≤ signed false v from le_trans nonneg low)]
        exact (floor_eq_iff.mpr ⟨low, high⟩).symm
      · split
        case isTrue zero =>
          have zero : 0 ≤ -v := zero
          refine (floor_eq_iff.mpr ⟨?_, ?_⟩).symm
          · simp only [signedInt, signed, if_true]; push_cast; linarith
          · simp only [signedInt, signed, if_true]; push_cast; linarith
        case isFalse =>
          refine (ceil_eq_iff.mpr ⟨?_, ?_⟩).symm
          · simp only [signedInt, signed, if_true]; push_cast; linarith
          · simp only [signedInt, signed, if_true]; push_cast; linarith
  · change signedInt neg n = (signed neg v).floor
    cases neg
    · obtain ⟨no, -⟩ | ⟨-, rfl⟩ := up
      · exact no.elim
      · exact (floor_eq_iff.mpr ⟨low, high⟩).symm
    · refine (floor_eq_iff.mpr ?_).symm
      change (v ≠ c ∧ _) ∨ (¬ v ≠ c ∧ _) at up
      simp only [signedInt, signed, if_true]
      obtain ⟨apart, rfl⟩ | ⟨same, rfl⟩ := up
      · have := lt_of_le_of_ne low (Ne.symm apart)
        push_cast
        constructor <;> linarith
      · rw [not_not] at same
        push_cast
        constructor <;> linarith
  · change signedInt neg n = (signed neg v).ceil
    cases neg
    · refine (ceil_eq_iff.mpr ?_).symm
      change (v ≠ c ∧ _) ∨ (¬ v ≠ c ∧ _) at up
      simp only [signedInt, signed, Bool.false_eq_true, if_false]
      obtain ⟨apart, rfl⟩ | ⟨same, rfl⟩ := up
      · have := lt_of_le_of_ne low (Ne.symm apart)
        push_cast
        constructor <;> linarith
      · rw [not_not] at same
        push_cast
        constructor <;> linarith
    · obtain ⟨no, -⟩ | ⟨-, rfl⟩ := up
      · exact no.elim
      · refine (ceil_eq_iff.mpr ?_).symm
        simp only [signedInt, signed, if_true]
        push_cast
        constructor <;> linarith

/-- An integer is rounded to itself. -/
theorem intRound_self (m : BitVec 2) (j : Int) : IntRound m (j : Rat) j := by
  have floor : (j : Rat).floor = j := floor_eq_iff.mpr ⟨le_refl _, lt_add_one _⟩
  have ceil : (j : Rat).ceil = j := ceil_eq_iff.mpr ⟨sub_one_lt _, le_refl _⟩
  obtain ⟨k, inside⟩ := m
  interval_cases k
  · change |(j : Rat) - j| ≤ 1 / 2 ∧ (|(j : Rat) - j| = 1 / 2 → j % 2 = 0)
    rw [sub_self, abs_zero]
    norm_num
  · change j = if 0 ≤ (j : Rat) then (j : Rat).floor else (j : Rat).ceil
    rw [floor, ceil, ite_self]
  · exact floor.symm
  · exact ceil.symm

/-- Rounding names one integer. -/
theorem intRound_unique {i : Int} (one : IntRound m p i) (other : IntRound m p j) : i = j := by
  obtain ⟨k, inside⟩ := m
  interval_cases k
  · change |(i : Rat) - p| ≤ 1 / 2 ∧ (|(i : Rat) - p| = 1 / 2 → i % 2 = 0) at one
    change |(j : Rat) - p| ≤ 1 / 2 ∧ (|(j : Rat) - p| = 1 / 2 → j % 2 = 0) at other
    obtain ⟨nearI, tieI⟩ := one
    obtain ⟨nearJ, tieJ⟩ := other
    by_contra apart
    wlog less : i < j generalizing i j
    · exact this nearJ tieJ nearI tieI (Ne.symm apart) (by omega)
    have step : (i : Rat) + 1 ≤ j := by exact_mod_cast less
    have lowI := neg_le_of_abs_le nearI
    have highJ := le_of_abs_le nearJ
    have next : (j : Rat) = i + 1 := by linarith
    have evenI := tieI (by rw [abs_sub_comm, abs_of_nonneg (by linarith)]; linarith)
    have evenJ := tieJ (by rw [abs_of_nonneg (by linarith)]; linarith)
    have next : j = i + 1 := by exact_mod_cast next
    omega
  · exact (show i = _ from one).trans (show j = _ from other).symm
  · exact (show i = _ from one).trans (show j = _ from other).symm
  · exact (show i = _ from one).trans (show j = _ from other).symm

/-! ### Results that a format holds -/

section holds

variable {k : Fmt} {a c : Nat} {e : Int}

/-- Short multiples of a power of two that lie in the range of a format are numbers of it. -/
theorem exists_finite_code (std : Standard k) (short : a ≤ 2 ^ (k.fw + 1)) (least : unitExp k.fw (codeBias k.ew) ≤ e) (small : dyadic a e < topVal k.ew) :
    ∃ c, c < bigCode k.ew k.fw ∧ narrowVal k.fw (codeBias k.ew) c = dyadic a e := by
  obtain ⟨exponent, fraction, -⟩ := std
  obtain ⟨j, block⟩ := Int.eq_ofNat_of_zero_le (Int.sub_nonneg_of_le least)
  obtain ⟨c, value⟩ := exists_narrowVal (bias := codeBias k.ew) (fw := k.fw) (by omega) j short
  rw [← block, add_sub_cancel] at value
  refine ⟨c, ?_, value⟩
  rw [← (narrowVal_strictMono (fw := k.fw) (bias := codeBias k.ew) (by omega)).lt_iff_lt, narrowVal_bigCode exponent fraction]
  exact lt_of_eq_of_lt value small

theorem picks_of_mem {mode : Mode} {g : Nat → Rat} (mono : StrictMono g) (c : Nat) : Picks mode g (g c) c := by
  have next := mono (Nat.lt_succ_self c)
  refine ⟨c, le_refl _, next, .inr ⟨?_, rfl⟩⟩
  cases mode with
  | nearest => rintro (h | ⟨h, -⟩) <;> linarith
  | toward => exact id
  | away => exact fun apart => apart rfl

/-- A number of a format is delivered as it is, without a flag. -/
theorem roundFin_of_mem (std : Standard k) (m : BitVec 2) (neg : Bool) (pos : 0 < a) (finite : c < bigCode k.ew k.fw) (same : narrowVal k.fw (codeBias k.ew) c = dyadic a e) :
    roundFin k (dirOf m) neg a e = (zeroCode k.ew k.fw neg + c, {}) := by
  have mono : StrictMono (narrowVal k.fw (codeBias k.ew)) := narrowVal_strictMono (by have := std.fraction; omega)
  rcases roundFin_cases std m neg pos e with ⟨large, -⟩ | ⟨d, fl, -, picks, result, nx, uf, of, dz, nv⟩
  · rw [overflows_iff_of_picks std.exponent std.fraction (dyadic_pos pos e) (same ▸ picks_of_mem mono c)] at large
    omega
  · obtain rfl := picks.eq_of_mem mono same.symm
    rw [result]
    obtain ⟨_, _, _, ufFlag, nxFlag⟩ := fl
    obtain rfl : nxFlag = false := by simpa [same] using nx
    obtain rfl : ufFlag = false := by simpa [same] using uf
    cases of
    cases dz
    cases nv
    rfl

/-- What is delivered for such a result. -/
theorem exists_roundFin (std : Standard k) (m : BitVec 2) (neg : Bool) (pos : 0 < a) (short : a ≤ 2 ^ (k.fw + 1)) (least : unitExp k.fw (codeBias k.ew) ≤ e)
    (small : dyadic a e < topVal k.ew) : ∃ r, roundFin k (dirOf m) neg a e = (r, {}) ∧ codeVal k.ew k.fw r = some (signed neg (dyadic a e)) ∧ codeNeg k.ew k.fw r = neg ∧
      r < 2 ^ (k.ew + k.fw + 1) := by
  obtain ⟨c, finite, value⟩ := exists_finite_code std short least small
  obtain ⟨sign, -, width⟩ := code_parts (ew := k.ew) (fw := k.fw) neg (Nat.lt_trans finite (bigCode_lt k.ew k.fw))
  exact ⟨_, roundFin_of_mem std m neg pos finite value, by rw [codeVal_code neg finite, value], sign, width⟩

end holds

/-- In FP32. -/
theorem exists_roundFin_fp32 (neg : Bool) {a : Nat} (pos : 0 < a) (short : a ≤ 2 ^ 24) {e : Int} (least : -149 ≤ e) (small : dyadic a e < 2 ^ 128) :
    ∃ r, roundFin fp32 .rne neg a e = (r, {}) ∧ codeVal 8 23 r = some (signed neg (dyadic a e)) ∧ codeNeg 8 23 r = neg ∧ r < 2 ^ 32 :=
  exists_roundFin standard_fp32 0#2 neg pos short least small

/-! ### One operand -/

/-- A one-operand word delivers the canonical NaN for a NaN, and its value for a number. -/
theorem oneOperand_of_fOne {i : Instr} {w : FmtX} {f : Word → Word × FFlags} {v : Nat → Nat → BitVec 5 → Prop} (run : ∀ s, exec i s = plain i s (fOne w f))
    (nan : ∀ a sig, unpack fp32 a.toNat = .nan sig → f a = (BitVec.ofNat 32 (canonNan fp32), { nv := sig }))
    (number : ∀ a, codeNan 8 23 a.toNat = false → v a.toNat (f a).1.toNat (f a).2.low) : OneOperand i w v := by
  refine ⟨_, givesFloat_of_fOne run, fun a => ⟨fun isNan => ?_, number a⟩⟩
  rw [nan a _ ((reads_fp32 a.toNat).eq_nan isNan)]
  exact ⟨rfl, low_invalid _⟩

theorem codeVal_zeroCode (neg : Bool) : codeVal 8 23 (zeroCode 8 23 neg) = some 0 := by
  have value := codeVal_code (ew := 8) (fw := 23) neg (c := 0) (by decide)
  rw [narrowVal_zero, Nat.add_zero] at value
  rw [value]
  cases neg <;> simp [signed]

theorem codeNeg_zeroCode (neg : Bool) : codeNeg 8 23 (zeroCode 8 23 neg) = neg := by
  cases neg <;> rfl

theorem toNat_signBit (neg : Bool) : (BitVec.ofNat 32 (signBit fp32 neg)).toNat = zeroCode 8 23 neg := by
  cases neg <;> rfl

theorem dyadic_zero (a : Nat) : dyadic a 0 = a := by rw [dyadic, zpow_zero, mul_one]

/-- A value whose exponent is not negative is an integer. -/
theorem exists_int_of_nonneg (neg : Bool) (a : Nat) {e : Int} (nonneg : 0 ≤ e) : signed neg (dyadic a e) = (signedInt neg (a * 2 ^ e.toNat) : Int) := by
  rw [cast_signedInt, dyadic]
  obtain ⟨d, rfl⟩ := Int.eq_ofNat_of_zero_le nonneg
  push_cast
  rw [zpow_natCast, Int.toNat_natCast]

theorem toInteger_fInt (m : BitVec 2) (a : Word) (number : codeNan 8 23 a.toNat = false) : ToInteger (IntRound m) a.toNat (fInt (dirOf m) a).1.toNat (fInt (dirOf m) a).2.low := by
  have reads := reads_fp32 a.toNat
  unfold fInt
  generalize unpack fp32 a.toNat = x at reads
  cases reads with
  | nan isNan => simp [number] at isNan
  | inf _ _ _ value => exact ⟨low_none, rfl, fun _ => rfl, fun p some => by simp [value] at some⟩
  | zero _ _ _ value =>
    refine ⟨low_none, rfl, fun _ => rfl, fun p some => ⟨0, by rw [value]; simp, ?_⟩⟩
    obtain rfl : 0 = p := Option.some.inj (value.symm.trans some)
    exact_mod_cast intRound_self m 0
  | @fin b e _ _ isInf value pos short =>
    have finite : codeInf 8 23 a.toNat = true → ∀ r : Nat, r = a.toNat := fun inf => by simp [isInf] at inf
    by_cases whole : 0 ≤ e
    · simp only [whole, if_true]
      refine ⟨low_none, rfl, fun _ => rfl, fun p some => ⟨_, by rw [value, exists_int_of_nonneg _ _ whole], ?_⟩⟩
      obtain rfl := Option.some.inj (value.symm.trans some)
      rw [exists_int_of_nonneg _ _ whole]
      exact intRound_self m _
    · simp only [whole, if_false]
      obtain ⟨picks, -⟩ := picks_roundAt m (codeNeg 8 23 a.toNat) pos e 0
      have rounds := intRound_of_picks picks
      have few : (roundAt (roundsUp (dirOf m) (codeNeg 8 23 a.toNat)) b e 0).1 ≤ 2 ^ 24 := by
        refine picks.le (multiples_strictMono (by norm_num)) ?_
        rw [multiples_one]
        calc dyadic b e ≤ b * 1 := mul_le_mul_of_nonneg_left (zpow_le_one_of_nonpos₀ (by norm_num) (by omega)) (Nat.cast_nonneg b)
          _ ≤ (2 ^ 24 : Nat) := by rw [mul_one]; exact_mod_cast le_of_lt short
      generalize (roundAt (roundsUp (dirOf m) (codeNeg 8 23 a.toNat)) b e 0).1 = n at rounds few
      have result (p : Rat) (some : codeVal 8 23 a.toNat = some p) : IntRound m p (signedInt (codeNeg 8 23 a.toNat) n) := by
        obtain rfl := Option.some.inj (value.symm.trans some)
        exact rounds
      by_cases none : n = 0
      · simp only [none, if_true, toNat_signBit]
        refine ⟨low_none, codeNeg_zeroCode _, fun inf => finite inf _, fun p some => ⟨_, ?_, result p some⟩⟩
        rw [codeVal_zeroCode, cast_signedInt, none]
        cases codeNeg 8 23 a.toNat <;> simp [signed]
      · simp only [none, if_false]
        obtain ⟨r, rounded, held, sign, width⟩ := exists_roundFin_fp32 (codeNeg 8 23 a.toNat) (Nat.pos_of_ne_zero none) few (e := 0) (by decide) (by
          rw [dyadic_zero]
          exact lt_of_le_of_lt (b := ((2 ^ 24 : Nat) : Rat)) (by exact_mod_cast few) (by norm_num))
        rw [rounded, toNat_toW width]
        refine ⟨low_none, sign, fun inf => finite inf _, fun p some => ⟨_, ?_, result p some⟩⟩
        rw [held, cast_signedInt, dyadic_zero]

/-! ### FRACT -/

/-- An integer number of units of 2 ^ e, for a negative e, and the part of it above its floor. -/
theorem floor_and_fract {e : Int} (negative : e < 0) {x : Int} (value : (x : Rat) * 2 ^ e = p) :
    p.floor = x / (1 <<< (-e).toNat : Nat) ∧ p - p.floor = dyadic (x % (1 <<< (-e).toNat : Nat)).natAbs e := by
  obtain ⟨s, apart⟩ := Int.eq_ofNat_of_zero_le (show 0 ≤ -e by omega)
  obtain rfl : e = -s := by omega
  rw [apart, Int.toNat_natCast, Nat.one_shiftLeft]
  have unit : ((2 ^ s : Nat) : Rat) * 2 ^ (-(s : Int)) = 1 := by rw [Nat.cast_pow, zpow_neg, zpow_natCast]; exact mul_inv_cancel₀ (by positivity)
  have positive : (0 : Rat) < 2 ^ (-(s : Int)) := by positivity
  have one : (0 : Int) < (2 ^ s : Nat) := by positivity
  have split : (x : Rat) = (2 ^ s : Nat) * (x / (2 ^ s : Nat) : Int) + (x % (2 ^ s : Nat) : Int) := by exact_mod_cast (Int.mul_ediv_add_emod x (2 ^ s : Nat)).symm
  have low : (0 : Rat) ≤ (x % (2 ^ s : Nat) : Int) := by exact_mod_cast Int.emod_nonneg x (ne_of_gt one)
  have high : ((x % (2 ^ s : Nat) : Int) : Rat) < (2 ^ s : Nat) := by exact_mod_cast Int.emod_lt_of_pos x one
  have whole : p = (x / (2 ^ s : Nat) : Int) + (x % (2 ^ s : Nat) : Int) * 2 ^ (-(s : Int)) := by
    rw [← value, split, add_mul, mul_right_comm, unit, one_mul]
  have rest : ((x % (2 ^ s : Nat) : Int) : Rat) * 2 ^ (-(s : Int)) < 1 := by rw [← unit]; exact mul_lt_mul_of_pos_right high positive
  have floor : p.floor = x / (2 ^ s : Nat) := by
    refine floor_eq_iff.mpr ⟨?_, ?_⟩
    · rw [whole]; exact le_add_of_nonneg_right (mul_nonneg low (le_of_lt positive))
    · rw [whole]; linarith
  refine ⟨floor, ?_⟩
  rw [floor, dyadic, Nat.cast_natAbs, abs_of_nonneg (by exact_mod_cast low), whole, add_sub_cancel_left]

/-- The greatest code below that of 1.0 stands for 1 - 2 ^ -24. -/
theorem narrowVal_below_one : narrowVal 23 127 0x3F7FFFFF = 1 - 1 / 2 ^ 24 := by norm_num [narrowVal]

theorem not_overflows_of_lt_one {y : Rat} (low : 0 ≤ y) (high : y < 1) : ¬ Overflows 8 23 0#2 y := by
  intro more
  change (2 : Rat) ^ (2 ^ (8 - 1)) - 2 ^ (2 ^ (8 - 1)) / 2 ^ (23 + 2) ≤ |y| at more
  rw [abs_of_nonneg low] at more
  norm_num at more
  linarith

/-- What Flagged asks of a result above the greatest code below 1.0, below 1 itself. -/
theorem flagged_cap {y : Rat} (low : 1 - 1 / 2 ^ 24 < y) (high : y < 1) : Flagged 8 23 0#2 y 0x3F7FFFFF ({ nx := true } : FFlags).low := by
  have nonneg : 0 ≤ y := by norm_num at low; linarith
  have value : codeVal 8 23 0x3F7FFFFF = some (1 - 1 / 2 ^ 24) := by norm_num [codeVal, codeExp, codeNeg]
  have normal : ¬ Tiny 8 23 0#2 y := by
    rintro ⟨-, less⟩
    change |y| < 1 / 2 ^ (2 ^ (8 - 1) - 2) - 1 / 2 ^ (2 ^ (8 - 1) - 2) / 2 ^ (23 + 2) at less
    rw [abs_of_nonneg nonneg] at less
    norm_num at less low
    linarith
  have inside := not_overflows_of_lt_one nonneg high
  refine ⟨?_, ?_, ?_, rfl, rfl⟩
  · rw [low_nx, value, ne_eq, Option.some_inj]
    exact iff_of_true rfl (ne_of_lt low)
  · rw [low_uf]
    exact iff_of_false (by simp) fun h => normal h.1
  · rw [low_of]
    exact iff_of_false (by simp) inside

theorem fFract_spec (a : Word) (number : codeNan 8 23 a.toNat = false) :
    (codeInf 8 23 a.toNat = true → Invalid 8 23 true (fFract a).1.toNat (fFract a).2.low) ∧ ∀ p, codeVal 8 23 a.toNat = some p →
      (p = p.floor → (fFract a).1.toNat = 0 ∧ (fFract a).2.low = 0#5) ∧
      (p ≠ p.floor → (∃ k, RoundsTo 8 23 0#2 (p - p.floor) k ∧ (fFract a).1.toNat = min k 0x3F7FFFFF) ∧ Flagged 8 23 0#2 (p - p.floor) (fFract a).1.toNat (fFract a).2.low) := by
  have reads := reads_fp32 a.toNat
  unfold fFract
  generalize unpack fp32 a.toNat = x at reads
  cases reads with
  | nan isNan => simp [number] at isNan
  | inf _ _ _ value => exact ⟨fun _ => ⟨rfl, low_invalid true⟩, fun p some => by simp [value] at some⟩
  | zero _ _ isInf value =>
    refine ⟨fun inf => by simp [isInf] at inf, fun p some => ?_⟩
    obtain rfl : 0 = p := Option.some.inj (value.symm.trans some)
    exact ⟨fun _ => ⟨rfl, low_none⟩, fun part => absurd (by rw [show Rat.floor 0 = 0 from rfl, Int.cast_zero]) part⟩
  | @fin b e _ _ isInf value pos short =>
    refine ⟨fun inf => by simp [isInf] at inf, fun p some => ?_⟩
    obtain rfl := Option.some.inj (value.symm.trans some)
    by_cases whole : 0 ≤ e
    · simp only [whole, if_true]
      refine ⟨fun _ => ⟨rfl, low_none⟩, fun part => absurd ?_ part⟩
      rw [exists_int_of_nonneg _ _ whole, floor_eq_iff.mpr ⟨le_refl _, lt_add_one _⟩]
    · obtain ⟨-, rest⟩ := floor_and_fract (not_le.mp whole) (scaled_eq (neg := codeNeg 8 23 a.toNat) (a := b) (le_refl e))
      simp only [whole, if_false]
      generalize signed (codeNeg 8 23 a.toNat) (dyadic b e) = p at *
      generalize scaled (.fin (codeNeg 8 23 a.toNat) b e) e % _ = d at rest ⊢
      by_cases none : d = 0
      · simp only [none, if_true]
        refine ⟨fun _ => ⟨rfl, low_none⟩, fun part => absurd ?_ part⟩
        rw [none, Int.natAbs_zero, dyadic, Nat.cast_zero, zero_mul] at rest
        linarith
      · simp only [none, if_false]
        have some : 0 < d.natAbs := Int.natAbs_pos.mpr none
        have positive := dyadic_pos some e
        have exactly := exactly_roundFin standard_fp32 0#2 false some e
        have cases := roundFin_cases standard_fp32 0#2 false some e
        rw [← rest] at exactly positive cases
        obtain ⟨rounds, flags⟩ := exactly
        refine ⟨fun same => by linarith, fun _ => ?_⟩
        have width : (roundFin fp32 .rne false d.natAbs e).1 < 2 ^ 32 := rounds.width
        have below : p - p.floor < 1 := by linarith [(floor_eq_iff.mp (rfl : p.floor = p.floor)).2]
        split
        case isTrue beyond =>
          refine ⟨⟨_, rounds, (Nat.min_eq_right (le_of_lt beyond)).symm⟩, flagged_cap ?_ below⟩
          by_contra under
          rw [not_lt, ← narrowVal_below_one] at under
          rcases cases with ⟨large, -⟩ | ⟨c, fl, -, picks, result, -⟩
          · exact not_overflows_of_lt_one (le_of_lt positive) below large
          · have most := Picks.le picks (narrowVal_strictMono (by decide)) under
            rw [show Dir.rne = dirOf 0#2 from rfl, result, zeroCode, if_neg Bool.false_ne_true, Nat.zero_add] at beyond
            omega
        case isFalse within =>
          rw [toNat_toW width]
          exact ⟨⟨_, rounds, (Nat.min_eq_left (not_lt.mp within)).symm⟩, flags⟩

/-! ### NEG and ABS -/

/-- A sign word sets no flag, and gives the canonical NaN for a NaN. -/
theorem ite_isNan (a x : Word) : withLow (if isNan (unpack fp32 a.toNat) then (BitVec.ofNat 32 (canonNan fp32), ({} : FFlags)) else (x, {})) =
    (if codeNan 8 23 a.toNat then 0x7FC00000#32 else x, 0#5) := by
  rw [(reads_fp32 a.toNat).isNan_eq]
  cases codeNan 8 23 a.toNat
  · exact withLow_none x
  · exact withLow_none _

end Sys2Proof.Machine
end

section
/-! The special inputs of EXP2, LOG2, SINPI and COSPI: infinities, and numbers whose result is exact, or beyond the range (08 R193, R194, Tables 8.7, 8.8). -/

namespace Sys2Proof.Machine

variable {neg : Bool} {p : Rat} {b : Nat} {e lo n : Int}

/-! ### Units -/

/-- The number of units of 2 ^ lo in one. -/
theorem units_one (small : lo ≤ 0) : ((1 <<< (-lo).toNat : Nat) : Rat) * 2 ^ lo = 1 := by
  obtain ⟨s, apart⟩ := Int.eq_ofNat_of_zero_le (show 0 ≤ -lo by omega)
  obtain rfl : lo = -s := by omega
  rw [apart, Int.toNat_natCast, Nat.one_shiftLeft, Nat.cast_pow, zpow_neg, zpow_natCast]
  exact mul_inv_cancel₀ (by positivity)

theorem int_mul_units_le (small : lo ≤ 0) {x : Int} (value : (x : Rat) * 2 ^ lo = p) : n * ((1 <<< (-lo).toNat : Nat) : Int) ≤ x ↔ (n : Rat) ≤ p := by
  have positive : (0 : Rat) < 2 ^ lo := by positivity
  rw [← value, ← Int.cast_le (R := Rat), ← mul_le_mul_iff_left₀ positive, Int.cast_mul, Int.cast_natCast, mul_assoc, units_one small, mul_one]

theorem le_int_mul_units (small : lo ≤ 0) {x : Int} (value : (x : Rat) * 2 ^ lo = p) : x ≤ n * ((1 <<< (-lo).toNat : Nat) : Int) ↔ p ≤ (n : Rat) := by
  have positive : (0 : Rat) < 2 ^ lo := by positivity
  rw [← value, ← Int.cast_le (R := Rat), ← mul_le_mul_iff_left₀ positive, Int.cast_mul, Int.cast_natCast, mul_assoc, units_one small, mul_one]

theorem eq_int_mul_units (small : lo ≤ 0) {x : Int} (value : (x : Rat) * 2 ^ lo = p) (int : p = n) : x = n * ((1 <<< (-lo).toNat : Nat) : Int) :=
  Int.le_antisymm ((le_int_mul_units small value).mpr (le_of_eq int)) ((int_mul_units_le small value).mpr (le_of_eq int.symm))

theorem units_pos (lo : Int) : (0 : Int) < ((1 <<< (-lo).toNat : Nat) : Int) := by
  rw [Nat.one_shiftLeft]
  positivity

/-! ### EXP2 -/

theorem dyadic_one (n : Int) : dyadic 1 n = 2 ^ n := by rw [dyadic, Nat.cast_one, one_mul]

theorem fExp2_spec (a : Word) (number : codeNan 8 23 a.toNat = false) :
    (codeInf 8 23 a.toNat = true → (fExp2 a).1.toNat = (if codeNeg 8 23 a.toNat then 0 else a.toNat) ∧ (fExp2 a).2.low = 0#5) ∧ ∀ p, codeVal 8 23 a.toNat = some p →
      (∀ n : Int, p = n → -149 ≤ n → n ≤ 127 → codeVal 8 23 (fExp2 a).1.toNat = some ((2 : Rat) ^ n) ∧ (fExp2 a).2.low = 0#5) ∧
      (128 ≤ p → (fExp2 a).1.toNat = 0x7F800000 ∧ (fExp2 a).2.low = 0x05#5) ∧ (p ≤ -150 → (fExp2 a).1.toNat = 0 ∧ (fExp2 a).2.low = 0x03#5) := by
  have reads := reads_fp32 a.toNat
  unfold fExp2
  generalize unpack fp32 a.toNat = x at reads
  cases reads with
  | nan isNan => simp [number] at isNan
  | inf _ _ _ value =>
    refine ⟨fun _ => ⟨?_, low_none⟩, fun p some => by simp [value] at some⟩
    dsimp only
    split <;> rfl
  | zero _ _ isInf value =>
    refine ⟨fun inf => by simp [isInf] at inf, fun p some => ?_⟩
    obtain rfl : 0 = p := Option.some.inj (value.symm.trans some)
    refine ⟨fun n zero _ _ => ⟨?_, low_none⟩, fun high => absurd high (by norm_num), fun low => absurd low (by norm_num)⟩
    obtain rfl : 0 = n := by exact_mod_cast zero
    norm_num [codeVal, codeExp, codeNeg]
  | @fin b e _ _ isInf value pos short =>
    refine ⟨fun inf => by simp [isInf] at inf, fun p some => ?_⟩
    obtain rfl := Option.some.inj (value.symm.trans some)
    have small : min e (-160) ≤ 0 := by omega
    have units := scaled_eq (neg := codeNeg 8 23 a.toNat) (a := b) (min_le_left e (-160))
    have top := int_mul_units_le (n := 128) small units
    have bottom := le_int_mul_units (n := -150) small units
    have whole (n : Int) := eq_int_mul_units (n := n) small units
    have positive := units_pos (min e (-160))
    dsimp only
    generalize signed (codeNeg 8 23 a.toNat) (dyadic b e) = p at *
    generalize ((1 <<< (-min e (-160)).toNat : Nat) : Int) = one at *
    generalize scaled (.fin (codeNeg 8 23 a.toNat) b e) (min e (-160)) = v at *
    push_cast at top bottom
    refine ⟨fun n int least greatest => ?_, fun high => ?_, fun low => ?_⟩
    · have highest : (n : Rat) ≤ 127 := by exact_mod_cast greatest
      have lowest : (-149 : Rat) ≤ n := by exact_mod_cast least
      obtain rfl := whole n int
      have quotient : Int.fdiv (n * one) one = n := Int.mul_fdiv_cancel _ (ne_of_gt positive)
      rw [if_neg (by rw [top, int]; linarith), if_neg (by rw [bottom, int]; linarith), quotient,
        if_pos (Int.mul_emod_left n one)]
      obtain ⟨r, rounded, held, -, width⟩ := exists_roundFin_fp32 false Nat.one_pos (by decide) least (by
        rw [dyadic_one]
        exact lt_of_lt_of_eq (two_zpow_lt.mpr (show n < 128 by omega)) (zpow_natCast 2 128))
      rw [rounded, toNat_toW width, held, dyadic_one]
      exact ⟨rfl, low_none⟩
    · rw [if_pos (top.mpr high)]
      exact ⟨rfl, rfl⟩
    · rw [if_neg (by rw [top, not_le]; linarith), if_pos (bottom.mpr low)]
      exact ⟨rfl, rfl⟩

/-! ### LOG2 -/

/-- A dyadic number that is a power of two. -/
theorem eq_of_dyadic_eq_two_zpow (pos : 0 < b) (power : dyadic b e = 2 ^ n) : b = 2 ^ Nat.log2 b ∧ leadExp b e = n := by
  obtain ⟨low, high⟩ := leadExp_bounds pos e
  rw [power, two_zpow_le] at low
  rw [power, two_zpow_lt] at high
  obtain rfl : leadExp b e = n := by omega
  refine ⟨?_, rfl⟩
  rw [dyadic, leadExp, add_comm, zpow_add₀ (by norm_num), zpow_natCast, mul_left_inj' (by positivity)] at power
  exact_mod_cast power

theorem leadExp_range (pos : 0 < b) (short : b < 2 ^ 24) (least : -149 ≤ e) (greatest : e ≤ 105) : -149 ≤ leadExp b e ∧ leadExp b e ≤ 128 := by
  have few : Nat.log2 b < 24 := (Nat.log2_lt (Nat.ne_of_gt pos)).mpr short
  unfold leadExp
  omega

/-- The delivered integer. -/
theorem deliver_int (bound : n.natAbs ≤ 2 ^ 24) : ∃ r, deliver fp32 .rne (ofScaled n 0 false) = (r, {}) ∧ codeVal 8 23 r = some (n : Rat) ∧ (n = 0 → r = 0) ∧ r < 2 ^ 32 := by
  unfold ofScaled
  by_cases zero : n = 0
  · rw [if_pos zero, zero]
    exact ⟨0, rfl, codeVal_zeroCode false, fun _ => rfl, by decide⟩
  · rw [if_neg zero]
    obtain ⟨r, rounded, held, -, width⟩ := exists_roundFin_fp32 (decide (n < 0)) (Int.natAbs_pos.mpr zero) bound (e := 0) (by decide) (by
      rw [dyadic_zero]
      exact lt_of_le_of_lt (b := ((2 ^ 24 : Nat) : Rat)) (by exact_mod_cast bound) (by norm_num))
    refine ⟨r, rounded, ?_, fun h => absurd h zero, width⟩
    rw [held, dyadic_zero]
    by_cases negative : n < 0
    · simp [signed, negative, abs_of_neg, Nat.cast_natAbs]
    · simp [signed, negative, abs_of_nonneg (not_lt.mp negative), Nat.cast_natAbs]

theorem fLog2_spec (a : Word) (number : codeNan 8 23 a.toNat = false) :
    (codeInf 8 23 a.toNat = true → if codeNeg 8 23 a.toNat then Invalid 8 23 true (fLog2 a).1.toNat (fLog2 a).2.low else (fLog2 a).1.toNat = a.toNat ∧ (fLog2 a).2.low = 0#5) ∧
    ∀ p, codeVal 8 23 a.toNat = some p →
      (p = 0 → (fLog2 a).1.toNat = 0xFF800000 ∧ (fLog2 a).2.low = 0x08#5) ∧ (p < 0 → Invalid 8 23 true (fLog2 a).1.toNat (fLog2 a).2.low) ∧
      ∀ n : Int, p = (2 : Rat) ^ n → codeVal 8 23 (fLog2 a).1.toNat = some (n : Rat) ∧ (fLog2 a).2.low = 0#5 ∧ (n = 0 → (fLog2 a).1.toNat = 0) := by
  have reads := reads_fp32 a.toNat
  unfold fLog2
  generalize unpack fp32 a.toNat = x at reads
  cases reads with
  | nan isNan => simp [number] at isNan
  | inf _ _ _ value =>
    refine ⟨fun _ => ?_, fun p some => by simp [value] at some⟩
    dsimp only
    split
    · exact ⟨rfl, low_invalid true⟩
    · exact ⟨rfl, low_none⟩
  | zero _ _ isInf value =>
    refine ⟨fun inf => by simp [isInf] at inf, fun p some => ?_⟩
    obtain rfl : 0 = p := Option.some.inj (value.symm.trans some)
    exact ⟨fun _ => ⟨rfl, (by decide : ({ dz := true } : FFlags).low = 0x08#5)⟩, fun less => absurd less (lt_irrefl 0), fun n power => absurd power (ne_of_lt (by positivity))⟩
  | @fin b e _ _ isInf value pos short least greatest =>
    refine ⟨fun inf => by simp [isInf] at inf, fun p some => ?_⟩
    obtain rfl := Option.some.inj (value.symm.trans some)
    have positive := dyadic_pos pos e
    refine ⟨fun zero => absurd zero (signed_ne_zero positive), fun less => ?_, fun n power => ?_⟩
    · simp only [(signed_neg_iff positive).mp less, if_true]
      exact ⟨rfl, low_invalid true⟩
    · have sign : codeNeg 8 23 a.toNat = false := (signed_pos_iff positive).mp (power ▸ by positivity)
      rw [sign] at power ⊢
      obtain ⟨whole, lead⟩ := eq_of_dyadic_eq_two_zpow pos power
      obtain ⟨low, high⟩ := leadExp_range pos short least greatest
      obtain ⟨r, rounded, held, zero, width⟩ := deliver_int (n := leadExp b e) (by omega)
      simp only [Bool.false_eq_true, if_false, if_pos whole, rounded]
      rw [toNat_toW (r := (r, {})) width, ← lead]
      exact ⟨held, low_none, zero⟩

/-! ### SINPI and COSPI -/

/-- The number of units that an integer's magnitude has, and that a half-integer's has. -/
theorem units_of_int {x s : Nat} (units : (x : Rat) * 2 ^ (-(s : Int)) = dyadic b e) (value : signed neg (dyadic b e) = n) : x = n.natAbs * 2 ^ s := by
  have nonneg : 0 ≤ dyadic b e := units ▸ by positivity
  have magnitude : dyadic b e = (n.natAbs : Rat) := by rw [← abs_signed (neg := neg) nonneg, value, Nat.cast_natAbs, Int.cast_abs]
  rw [magnitude, zpow_neg, zpow_natCast, ← div_eq_mul_inv, div_eq_iff (by positivity)] at units
  exact_mod_cast units

theorem sign_of_value {i : Int} (pos : 0 < b) {c : Rat} (more : 0 < c) (value : signed neg (dyadic b e) = i * c) : neg = decide (i < 0) := by
  rw [Bool.eq_iff_iff, decide_eq_true_iff, ← signed_neg_iff (dyadic_pos pos e), value, ← Int.cast_lt_zero (R := Rat)]
  exact ⟨fun h => by by_contra none; exact absurd h (not_lt.mpr (mul_nonneg (not_lt.mp none) (le_of_lt more))), fun h => mul_neg_of_neg_of_pos h more⟩

/-- Numbers from 2 ^ 24 on are even integers. -/
theorem even_of_leadExp (pos : 0 < b) (short : b < 2 ^ 24) (large : 24 ≤ leadExp b e) : ∃ i : Int, signed neg (dyadic b e) = (2 * i : Int) := by
  have few : Nat.log2 b < 24 := (Nat.log2_lt (Nat.ne_of_gt pos)).mpr short
  unfold leadExp at large
  obtain ⟨d, above⟩ := Int.eq_ofNat_of_zero_le (show 0 ≤ e - 1 by omega)
  obtain rfl : e = d + 1 := by omega
  refine ⟨signedInt neg (b * 2 ^ d), ?_⟩
  rw [Int.cast_mul, cast_signedInt, dyadic, zpow_add_one₀ (by norm_num), zpow_natCast]
  cases neg
  all_goals
    simp only [signed, if_true, if_false, Bool.false_eq_true]
    push_cast
    ring

/-- The units that the words count in: at least four in one. -/
theorem turn_units (b : Nat) (e : Int) : ∃ t : Nat, -min e (-2) = ((t + 1 : Nat) : Int) ∧ 1 ≤ t ∧ ((b <<< (e - min e (-2)).toNat : Nat) : Rat) * 2 ^ (-((t + 1 : Nat) : Int)) = dyadic b e := by
  obtain ⟨t, count⟩ := Int.eq_ofNat_of_zero_le (show 0 ≤ -min e (-2) - 1 by omega)
  have count : -min e (-2) = ((t + 1 : Nat) : Int) := by push_cast; omega
  refine ⟨t, count, by omega, ?_⟩
  have units := scaled_eq (neg := false) (a := b) (min_le_left e (-2))
  rw [← count, neg_neg]
  exact_mod_cast units

theorem fSinpi_of_int {a : Word} (code : unpack fp32 a.toNat = .fin neg b e) (pos : 0 < b) (short : b < 2 ^ 24) (value : signed neg (dyadic b e) = n) (cos : Bool) :
    fSinpi cos a = (if cos then (if n % 2 = 0 then 0x3F800000#32 else 0xBF800000#32) else BitVec.ofNat 32 (signBit fp32 neg), {}) := by
  unfold fSinpi
  rw [code]
  dsimp only
  split
  case isTrue large =>
    obtain ⟨i, even⟩ := even_of_leadExp (neg := neg) pos short large
    have same : n = 2 * i := by exact_mod_cast value.symm.trans even
    cases cos
    · rfl
    · simp [same]
  case isFalse =>
    obtain ⟨t, count, -, units⟩ := turn_units b e
    have whole := units_of_int units value
    rw [count, Int.toNat_natCast, Nat.one_shiftLeft, whole, Nat.mul_mod_left, Nat.mul_div_cancel _ (Nat.two_pow_pos _)]
    cases cos
    · rfl
    · have parity : (n.natAbs % 2 == 1) = !decide (n % 2 = 0) := by
        rw [Bool.eq_iff_iff, beq_iff_eq, Bool.not_eq_true', decide_eq_false_iff_not]
        omega
      rw [parity]
      by_cases even : n % 2 = 0 <;> simp [even]

theorem fSinpi_of_half {a : Word} (code : unpack fp32 a.toNat = .fin neg b e) (pos : 0 < b) (short : b < 2 ^ 24) (value : signed neg (dyadic b e) = n + 1 / 2) (cos : Bool) :
    fSinpi cos a = (if cos then 0#32 else if n % 2 = 0 then 0x3F800000#32 else 0xBF800000#32, {}) := by
  have twice : signed neg (dyadic b e) = ((2 * n + 1 : Int) : Rat) * (1 / 2) := by rw [value]; push_cast; ring
  unfold fSinpi
  rw [code]
  dsimp only
  split
  case isTrue large =>
    obtain ⟨i, even⟩ := even_of_leadExp (neg := neg) pos short large
    have same : ((2 * (2 * i) : Int) : Rat) = (2 * n + 1 : Int) := by
      rw [Int.cast_mul, ← even, twice]
      push_cast
      ring
    have same : 2 * (2 * i) = 2 * n + 1 := by exact_mod_cast same
    omega
  case isFalse =>
    obtain ⟨t, count, -, units⟩ := turn_units b e
    have double : (((b <<< (e - min e (-2)).toNat : Nat)) : Rat) * 2 ^ (-(t : Int)) = dyadic b (e + 1) := by
      have next : dyadic b (e + 1) = dyadic b e * 2 := by rw [dyadic, dyadic, zpow_add_one₀ (by norm_num), mul_assoc]
      rw [next, ← units, mul_assoc, ← zpow_add_one₀ (by norm_num), show -((t + 1 : Nat) : Int) + 1 = -t by push_cast; ring]
    have odd := units_of_int (n := 2 * n + 1) double (neg := neg) (by
      have scale : signed neg (dyadic b (e + 1)) = signed neg (dyadic b e) * 2 := by
        rw [dyadic, dyadic, zpow_add_one₀ (by norm_num), ← mul_assoc]
        cases neg <;> simp [signed]
      rw [scale, twice]
      ring)
    have sign := sign_of_value pos (by norm_num) twice
    obtain ⟨q, half⟩ : ∃ q, (2 * n + 1).natAbs = 2 * q + 1 := ⟨(2 * n + 1).natAbs / 2, by omega⟩
    have positive := Nat.two_pow_pos t
    have split : (2 * q + 1) * 2 ^ t = 2 ^ (t + 1) * q + 2 ^ t := by ring
    have less : 2 ^ t < 2 ^ (t + 1) := Nat.pow_lt_pow_right (by decide) (Nat.lt_succ_self t)
    have whole : 2 * ((2 * q + 1) * 2 ^ t) = 2 ^ (t + 1) * (2 * q + 1) := by ring
    rw [count, Int.toNat_natCast, Nat.one_shiftLeft, odd, half, whole, Nat.mul_mod_right, split, Nat.mul_add_mod, Nat.mod_eq_of_lt less, Nat.mul_add_div (Nat.two_pow_pos _),
      Nat.div_eq_of_lt less, Nat.add_zero]
    have part : (2 ^ t == 0) = false := by rw [beq_eq_false_iff_ne]; omega
    cases cos
    · have parity : ((q % 2 == 1) != neg) = !decide (n % 2 = 0) := by
        rw [Bool.eq_iff_iff, bne_iff_ne, ne_eq, Bool.eq_iff_iff, beq_iff_eq, sign, decide_eq_true_iff, Bool.not_eq_true', decide_eq_false_iff_not]
        omega
      rw [part, parity]
      by_cases even : n % 2 = 0 <;> simp [even]
    · simp [part]

/-- SINPI and COSPI of infinities, and of zeros, integers and half-integers. -/
theorem fSinpi_spec (cos : Bool) (a : Word) (number : codeNan 8 23 a.toNat = false) :
    (codeInf 8 23 a.toNat = true → Invalid 8 23 true (fSinpi cos a).1.toNat (fSinpi cos a).2.low) ∧ ∀ p, codeVal 8 23 a.toNat = some p → ∀ n : Int,
      (p = n → fSinpi cos a = (if cos then (if n % 2 = 0 then 0x3F800000#32 else 0xBF800000#32) else BitVec.ofNat 32 (signBit fp32 (codeNeg 8 23 a.toNat)), {})) ∧
      (p = n + 1 / 2 → fSinpi cos a = (if cos then 0#32 else if n % 2 = 0 then 0x3F800000#32 else 0xBF800000#32, {})) := by
  have reads := reads_fp32 a.toNat
  generalize code : unpack fp32 a.toNat = x at reads
  cases reads with
  | nan isNan => simp [number] at isNan
  | inf _ _ _ value =>
    refine ⟨fun _ => ?_, fun p some => by simp [value] at some⟩
    rw [fSinpi, code]
    exact ⟨rfl, low_invalid true⟩
  | zero _ _ isInf value =>
    refine ⟨fun inf => by simp [isInf] at inf, fun p some n => ?_⟩
    obtain rfl : 0 = p := Option.some.inj (value.symm.trans some)
    refine ⟨fun int => ?_, fun half => ?_⟩
    · obtain rfl : 0 = n := by exact_mod_cast int
      rw [fSinpi, code]
      rfl
    · have odd : (2 * n + 1 : Int) = 0 := by
        have : ((2 * n + 1 : Int) : Rat) = 0 := by push_cast; linarith
        exact_mod_cast this
      omega
  | fin _ _ isInf value pos short =>
    refine ⟨fun inf => by simp [isInf] at inf, fun p some n => ?_⟩
    obtain rfl := Option.some.inj (value.symm.trans some)
    exact ⟨fun int => fSinpi_of_int code pos short int cos, fun half => fSinpi_of_half code pos short half cos⟩

theorem codeVal_one (n : Int) : codeVal 8 23 (if n % 2 = 0 then 0x3F800000#32 else 0xBF800000#32).toNat = some (if n % 2 = 0 then 1 else -1) := by
  split
  · norm_num [codeVal, codeExp, codeNeg]
  · norm_num [codeVal, codeExp, codeNeg]

end Sys2Proof.Machine
end

section
/-! Square roots and reciprocals: a dyadic number with a sticky last bit stands in the same cell of a grid as the number that it approximates (08 R193, R194, Tables 8.7, 8.8). -/

namespace Sys2Proof.Machine

/-! ### Grids -/

/-- x is a multiple of 2 ^ g. -/
def Multiple (g : Int) (x : Rat) : Prop := ∃ k : Int, x = k * 2 ^ g

section multiple

variable {g h : Int} {x y : Rat} {c r : Nat}

theorem Multiple.add (left : Multiple g x) (right : Multiple g y) : Multiple g (x + y) := by
  obtain ⟨i, rfl⟩ := left
  obtain ⟨j, rfl⟩ := right
  exact ⟨i + j, by push_cast; ring⟩

theorem Multiple.sub (left : Multiple g x) (right : Multiple g y) : Multiple g (x - y) := by
  obtain ⟨i, rfl⟩ := left
  obtain ⟨j, rfl⟩ := right
  exact ⟨i - j, by push_cast; ring⟩

theorem Multiple.neg (h : Multiple g x) : Multiple g (-x) := by
  obtain ⟨i, rfl⟩ := h
  exact ⟨-i, by push_cast; ring⟩

theorem Multiple.half (h : Multiple g x) : Multiple (g - 1) (x / 2) := by
  obtain ⟨i, rfl⟩ := h
  exact ⟨i, by rw [zpow_sub_one₀ (by norm_num)]; ring⟩

/-- A finer grid holds the points of a coarser one. -/
theorem Multiple.mono (h : Multiple g x) {f : Int} (finer : f ≤ g) : Multiple f x := by
  obtain ⟨i, rfl⟩ := h
  obtain ⟨d, apart⟩ := Int.eq_ofNat_of_zero_le (Int.sub_nonneg_of_le finer)
  obtain rfl : g = d + f := by omega
  exact ⟨i * 2 ^ d, by push_cast; rw [zpow_add₀ (by norm_num), zpow_natCast]; ring⟩

theorem multiple_two_zpow (g : Int) : Multiple g (2 ^ g) := ⟨1, by simp⟩

/-- An FP32 magnitude from 2 ^ j on is a multiple of 2 ^ (j - 23), and any is one of 2 ^ -149. -/
theorem multiple_narrowVal (large : 2 ^ h ≤ narrowVal 23 127 c) : Multiple (h - 23) (narrowVal 23 127 c) := by
  obtain ⟨j, q, rfl, normal, inside⟩ := exists_block 23 c
  have value := narrowVal_block (fw := 23) (bias := 127) (by decide) normal (Nat.le_of_lt inside)
  rw [value] at large ⊢
  have less : (2 : Rat) ^ h < 2 ^ (unitExp 23 127 + j + (24 : Nat)) := lt_of_le_of_lt large (by
    have below := multiples_strictMono (u := 2 ^ (unitExp 23 127 + (j : Int))) (by positivity) (show q < 2 ^ 24 from inside)
    rwa [multiples_two_pow] at below)
  rw [two_zpow_lt] at less
  exact Multiple.mono ⟨q, by rw [multiples]; push_cast; rfl⟩ (by push_cast at less; omega)

theorem multiple_narrowVal_least (c : Nat) : Multiple (-149) (narrowVal 23 127 c) := by
  obtain ⟨j, q, rfl, normal, inside⟩ := exists_block 23 c
  rw [narrowVal_block (fw := 23) (bias := 127) (by decide) normal (Nat.le_of_lt inside)]
  exact Multiple.mono (g := unitExp 23 127 + j) ⟨q, by rw [multiples]; push_cast; rfl⟩ (by rw [unitExp]; omega)

theorem multiple_codeVal_least (value : codeVal 8 23 r = some x) : Multiple (-149) x := by
  obtain ⟨c, -, rfl, -⟩ := exists_code value
  have grid := multiple_narrowVal_least c
  cases codeNeg 8 23 r
  · exact grid
  · exact grid.neg

theorem multiple_codeVal (value : codeVal 8 23 r = some x) (large : 2 ^ h ≤ |x|) : Multiple (h - 23) x := by
  obtain ⟨c, -, rfl, -⟩ := exists_code value
  rw [abs_signed (narrowVal_nonneg _ _ _)] at large
  have grid := multiple_narrowVal large
  cases codeNeg 8 23 r
  · exact grid
  · exact grid.neg

end multiple

/-! ### Cells -/

/-- No point of the grid of 2 ^ g parts d and z. -/
structure SameCell (g : Int) (d : Rat) (z : Real) : Prop where
  le : ∀ x, Multiple g x → (x ≤ d ↔ (x : Real) ≤ z)
  ge : ∀ x, Multiple g x → (d ≤ x ↔ z ≤ (x : Real))

section cell

variable {g h : Int} {d x : Rat} {z : Real} {t : Nat}

theorem SameCell.lt (cell : SameCell g d z) (grid : Multiple g x) : d < x ↔ z < (x : Real) := by rw [← not_le, cell.le x grid, not_le]

theorem SameCell.eq (cell : SameCell g d z) (grid : Multiple g x) : x = d ↔ (x : Real) = z := by rw [le_antisymm_iff, le_antisymm_iff, cell.le x grid, cell.ge x grid]

/-- Moreover d is z when b holds, as it does when z is a point of the grid. -/
structure Sticky (g : Int) (d : Rat) (z : Real) (b : Prop) : Prop extends SameCell g d z where
  exact : b → (d : Real) = z
  point : ∀ x, Multiple g x → (x : Real) = z → b

/-- What is known of a number up to a unit, and whether it is the lower of the two bounds, puts the dyadic number with a sticky last bit into its cell. -/
theorem sticky_dyadic {b : Prop} [Decidable b] (low : (t : Real) * 2 ^ (h + 1) ≤ z) (high : z < (t + 1) * 2 ^ (h + 1)) (exact : b ↔ z = t * 2 ^ (h + 1)) :
    Sticky (h + 1) (dyadic (2 * t + if b then 0 else 1) h) z b := by
  have unit : (0 : Real) < 2 ^ (h + 1) := by positivity
  have unit' : (0 : Rat) < 2 ^ h := by positivity
  have double : (2 : Real) ^ (h + 1) = 2 ^ h * 2 := zpow_add_one₀ (by norm_num) h
  have point (k : Int) : (((k * 2 ^ (h + 1) : Rat)) : Real) = k * 2 ^ (h + 1) := by push_cast; rfl
  have below (k : Int) : (k * 2 ^ (h + 1) : Real) ≤ z ↔ k ≤ t := by
    constructor
    · intro le
      have less := lt_of_mul_lt_mul_right (lt_of_le_of_lt le high) (le_of_lt unit)
      exact Int.le_of_lt_add_one (by exact_mod_cast less)
    · intro le
      exact le_trans (mul_le_mul_of_nonneg_right (by exact_mod_cast le) (le_of_lt unit)) low
  have below' (k : Int) (s : Nat) (one : s < 2) : (k * 2 ^ (h + 1) : Rat) ≤ dyadic (2 * t + s) h ↔ k ≤ t := by
    rw [dyadic, zpow_add_one₀ (by norm_num), show (k : Rat) * (2 ^ h * 2) = (2 * k : Int) * 2 ^ h by push_cast; ring, mul_le_mul_iff_left₀ unit', ← Int.cast_natCast, Int.cast_le]
    push_cast
    omega
  have above' (k : Int) (s : Nat) : dyadic (2 * t + s) h ≤ (k * 2 ^ (h + 1) : Rat) ↔ 2 * (t : Int) + s ≤ 2 * k := by
    rw [dyadic, zpow_add_one₀ (by norm_num), show (k : Rat) * (2 ^ h * 2) = (2 * k : Int) * 2 ^ h by push_cast; ring, mul_le_mul_iff_left₀ unit', ← Int.cast_natCast, Int.cast_le]
    push_cast
    rfl
  have only (x : Rat) (grid : Multiple (h + 1) x) (same : (x : Real) = z) : b := by
    obtain ⟨k, rfl⟩ := grid
    rw [point] at same
    have most := (below k).mp (le_of_eq same)
    have least : (t : Int) ≤ k := by
      rw [← same] at low
      exact_mod_cast le_of_mul_le_mul_right low unit
    rw [exact, ← same, le_antisymm most least, Int.cast_natCast]
  by_cases whole : b
  · have same := exact.mp whole
    simp only [whole, if_true]
    refine ⟨⟨?_, ?_⟩, fun _ => ?_, fun _ _ _ => trivial⟩
    · rintro _ ⟨k, rfl⟩
      rw [point, below, below' k 0 (by decide)]
    · rintro _ ⟨k, rfl⟩
      rw [point, above' k 0, same, mul_le_mul_iff_left₀ unit, ← Int.cast_natCast (R := Real), Int.cast_le]
      push_cast
      omega
    · rw [same, dyadic, double]
      push_cast
      ring
  · have less := lt_of_le_of_ne low fun h => whole (exact.mpr h.symm)
    simp only [whole, if_false]
    refine ⟨⟨?_, ?_⟩, fun no => no.elim, fun x grid same => whole (only x grid same)⟩
    · rintro _ ⟨k, rfl⟩
      rw [point, below, below' k 1 (by decide)]
    · rintro _ ⟨k, rfl⟩
      rw [point, above' k 1]
      constructor
      · intro le
        refine le_of_lt (lt_of_lt_of_le high (mul_le_mul_of_nonneg_right ?_ (le_of_lt unit)))
        exact_mod_cast show (t : Int) + 1 ≤ k by omega
      · intro le
        have some := lt_of_mul_lt_mul_right (lt_of_lt_of_le less le) (le_of_lt unit)
        have some : (t : Int) < k := by exact_mod_cast some
        push_cast
        omega

/-- Both lie beyond a bound, or neither, when the grid is fine beside them. -/
theorem SameCell.threshold {a : Nat} {e b : Int} {bound : Rat} (cell : SameCell g (dyadic a e) z) (pos : 0 < a) (fine : g ≤ leadExp a e - 25) (grid : Multiple b bound) (small : bound ≤ 2 ^ (b + 25)) :
    bound ≤ dyadic a e ↔ (bound : Real) ≤ z := by
  rcases le_or_gt g b with finer | coarse
  · exact cell.le _ (grid.mono finer)
  · obtain ⟨low, -⟩ := leadExp_bounds pos e
    have under : bound ≤ 2 ^ leadExp a e := le_trans small (two_zpow_le.mpr (by omega))
    have lead := (cell.le _ ((multiple_two_zpow (leadExp a e)).mono (by omega))).mp low
    exact iff_of_true (le_trans under low) (le_trans (by exact_mod_cast under) lead)

/-- The leading exponent of z. -/
theorem SameCell.leadExp_bounds {a : Nat} {e : Int} (cell : SameCell g (dyadic a e) z) (pos : 0 < a) (fine : g ≤ leadExp a e - 25) :
    (2 : Real) ^ leadExp a e ≤ z ∧ z < 2 ^ (leadExp a e + 1) := by
  obtain ⟨low, high⟩ := Machine.leadExp_bounds pos e
  have low := (cell.le _ ((multiple_two_zpow (leadExp a e)).mono (by omega))).mp low
  have high := (cell.lt ((multiple_two_zpow (leadExp a e + 1)).mono (by omega))).mp high
  push_cast at low high
  exact ⟨low, high⟩

end cell

/-! ### Integer square roots -/

/-- The root that the bits from n down add to r. -/
theorem isqrt_spec (m : Nat) (n : Nat) : ∀ r, r * r ≤ m → m < (r + 2 ^ (n + 1)) * (r + 2 ^ (n + 1)) → isqrt m n r * isqrt m n r ≤ m ∧ m < (isqrt m n r + 1) * (isqrt m n r + 1) := by
  induction n with
  | zero =>
    intro r low high
    rw [isqrt]
    split
    case isTrue next => exact ⟨next, high⟩
    case isFalse last => exact ⟨low, not_le.mp last⟩
  | succ n ih =>
    intro r low high
    rw [isqrt]
    split
    case isTrue next =>
      refine ih _ next ?_
      rwa [Nat.add_assoc, ← Nat.two_mul, ← Nat.pow_succ']
    case isFalse last => exact ih r low (not_le.mp last)

theorem isqrt_zero {m n : Nat} (enough : m < 2 ^ (n + 1) * 2 ^ (n + 1)) : isqrt m n 0 * isqrt m n 0 ≤ m ∧ m < (isqrt m n 0 + 1) * (isqrt m n 0 + 1) :=
  isqrt_spec m n 0 (Nat.zero_le m) (by rwa [Nat.zero_add])

/-! ### The model's dyadic numbers -/

section dyadics

variable {m : Nat} {e : Int}

/-- The last bit costs no precision. -/
theorem fine_of_le {t s : Nat} (many : 2 ^ 25 ≤ t) (h : Int) : h + 1 ≤ leadExp (2 * t + s) h - 25 := by
  have bits : 26 ≤ Nat.log2 (2 * t + s) := (Nat.le_log2 (by omega)).mpr (by omega)
  unfold leadExp
  omega

theorem sticky_sqrt {y : Real} {t : Nat} {b : Prop} [Decidable b] (low : (t * t : Nat) ≤ y) (high : y < ((t + 1) * (t + 1) : Nat)) (exact : b ↔ ((t * t : Nat) : Real) = y) (j : Int) :
    Sticky j (dyadic (2 * t + if b then 0 else 1) (j - 1)) √(y * 2 ^ (2 * j)) b := by
  have nonneg : 0 ≤ y := le_trans (Nat.cast_nonneg _) low
  have scale : √(y * 2 ^ (2 * j)) = √y * 2 ^ j := by
    rw [Real.sqrt_mul nonneg, two_mul, zpow_add₀ (by norm_num), Real.sqrt_mul_self (by positivity)]
  have unit : (0 : Real) < 2 ^ j := by positivity
  push_cast at low high exact
  have sticky := sticky_dyadic (b := b) (t := t) (h := j - 1) (z := √y * 2 ^ j)
  rw [sub_add_cancel] at sticky
  rw [scale]
  refine sticky ?_ ?_ ?_
  · exact mul_le_mul_of_nonneg_right (Real.le_sqrt_of_sq_le (by rwa [sq])) (le_of_lt unit)
  · exact mul_lt_mul_of_pos_right ((Real.sqrt_lt' (by positivity)).mpr (by rwa [sq])) unit
  · rw [exact, mul_left_inj' (ne_of_gt unit), Real.sqrt_eq_iff_mul_self_eq nonneg (Nat.cast_nonneg t), eq_comm]

/-- The even exponent that the model takes a root at. -/
theorem even_exponent (pos : 0 < m) (e : Int) : ∃ i, (if e % 2 = 0 then e else e - 1) = 2 * i ∧ 0 < (if e % 2 = 0 then m else 2 * m) ∧ dyadic (if e % 2 = 0 then m else 2 * m) (2 * i) = dyadic m e := by
  split
  case isTrue even =>
    obtain ⟨i, rfl⟩ := Int.dvd_of_emod_eq_zero even
    exact ⟨i, rfl, pos, rfl⟩
  case isFalse odd =>
    obtain ⟨i, half⟩ : ∃ i, e = 2 * i + 1 := ⟨e / 2, by omega⟩
    subst half
    refine ⟨i, by omega, by omega, ?_⟩
    rw [dyadic, dyadic, zpow_add_one₀ (by norm_num)]
    push_cast
    ring

theorem cast_dyadic (m : Nat) (e : Int) : ((dyadic m e : Rat) : Real) = m * 2 ^ e := by
  rw [dyadic]
  push_cast
  rfl

theorem sticky_sqrtDyadic (pos : 0 < m) (e : Int) : ∃ g, Sticky g (dyadic (sqrtDyadic m e).1 (sqrtDyadic m e).2.1) √((dyadic m e : Rat) : Real) ((sqrtDyadic m e).2.2 = true) ∧
    g ≤ leadExp (sqrtDyadic m e).1 (sqrtDyadic m e).2.1 - 25 ∧ 0 < (sqrtDyadic m e).1 := by
  obtain ⟨i, even, some, same⟩ := even_exponent pos e
  unfold sqrtDyadic
  rw [← same, even]
  dsimp only
  generalize (if e % 2 = 0 then m else 2 * m) = n at some
  have big : n <<< 120 = n * 2 ^ 120 := Nat.shiftLeft_eq n 120
  have many : 2 ^ 120 ≤ n * 2 ^ 120 := Nat.le_mul_of_pos_left _ some
  have enough : n * 2 ^ 120 < 2 ^ (Nat.log2 (n * 2 ^ 120) / 2 + 1 + 1) * 2 ^ (Nat.log2 (n * 2 ^ 120) / 2 + 1 + 1) := by
    rw [← Nat.pow_add]
    exact lt_of_lt_of_le Nat.lt_log2_self (Nat.pow_le_pow_right (by decide) (by omega))
  obtain ⟨low, high⟩ := isqrt_zero enough
  rw [big, Int.mul_ediv_cancel_left i (by decide)]
  generalize isqrt (n * 2 ^ 120) (Nat.log2 (n * 2 ^ 120) / 2 + 1) 0 = t at low high
  have long : 2 ^ 25 ≤ t := by
    by_contra short
    have : (t + 1) * (t + 1) ≤ 2 ^ 25 * 2 ^ 25 := Nat.mul_le_mul (by omega) (by omega)
    omega
  have value : ((dyadic n (2 * i) : Rat) : Real) = ((n * 2 ^ 120 : Nat) : Real) * 2 ^ (2 * (i - 60)) := by
    rw [cast_dyadic, show 2 * (i - 60) = 2 * i - (120 : Nat) by push_cast; ring, zpow_sub₀ (by norm_num), zpow_natCast, Nat.cast_mul, Nat.cast_pow, Nat.cast_ofNat]
    field_simp
  refine ⟨i - 60, ?_, ?_, by omega⟩
  · rw [value, show i - 61 = i - 60 - 1 by ring]
    have sticky := sticky_sqrt (y := ((n * 2 ^ 120 : Nat) : Real)) (t := t) (b := t * t = n * 2 ^ 120) (by exact_mod_cast low) (by exact_mod_cast high) Nat.cast_inj.symm (i - 60)
    simpa only [beq_iff_eq] using sticky
  · have fine := fine_of_le (s := if t * t = n * 2 ^ 120 then 0 else 1) long (i - 61)
    omega

theorem sticky_rsqDyadic (pos : 0 < m) (e : Int) : ∃ g, Sticky g (dyadic (rsqDyadic m e).1 (rsqDyadic m e).2.1) √((1 / dyadic m e : Rat) : Real) ((rsqDyadic m e).2.2 = true) ∧
    g ≤ leadExp (rsqDyadic m e).1 (rsqDyadic m e).2.1 - 25 ∧ 0 < (rsqDyadic m e).1 := by
  obtain ⟨i, even, some, same⟩ := even_exponent pos e
  unfold rsqDyadic
  rw [← same, even]
  dsimp only
  generalize (if e % 2 = 0 then m else 2 * m) = n at some
  rw [Int.mul_ediv_cancel_left i (by decide)]
  have self : n < 2 ^ (Nat.log2 n + 1) := Nat.lt_log2_self
  generalize Nat.log2 n = l at self
  have enough : 2 ^ (2 * (60 + l)) / n < 2 ^ (60 + l + 1 + 1) * 2 ^ (60 + l + 1 + 1) := by
    rw [← Nat.pow_add]
    exact lt_of_le_of_lt (Nat.div_le_self _ _) (Nat.pow_lt_pow_right (by decide) (by omega))
  obtain ⟨low, high⟩ := isqrt_zero enough
  generalize isqrt (2 ^ (2 * (60 + l)) / n) (60 + l + 1) 0 = t at low high
  rw [Nat.le_div_iff_mul_le some] at low
  rw [Nat.div_lt_iff_lt_mul some] at high
  have long : 2 ^ 25 ≤ t := by
    by_contra short
    have half : t + 1 ≤ 2 ^ 25 := by omega
    have root : (t + 1) * (t + 1) ≤ 2 ^ 50 := (Nat.mul_le_mul half half).trans_eq (by norm_num)
    have less : 2 ^ (2 * (60 + l)) < 2 ^ 50 * 2 ^ (l + 1) := lt_of_lt_of_le high (Nat.mul_le_mul root (le_of_lt self))
    rw [← Nat.pow_add] at less
    have := (Nat.pow_lt_pow_iff_right (by decide)).mp less
    omega
  have positive : (0 : Real) < n := by exact_mod_cast some
  have value : ((1 / dyadic n (2 * i) : Rat) : Real) = (2 ^ (2 * (60 + l)) : Nat) / (n : Real) * 2 ^ (2 * (-i - (60 + l : Nat))) := by
    rw [Rat.cast_div, cast_dyadic, show 2 * (-i - (60 + l : Nat)) = -(2 * i) - (2 * (60 + l) : Nat) by push_cast; ring, zpow_sub₀ (by norm_num), zpow_neg, zpow_natCast]
    push_cast
    field_simp
  refine ⟨-i - (60 + l : Nat), ?_, ?_, by omega⟩
  · rw [value]
    have sticky := sticky_sqrt (y := (2 ^ (2 * (60 + l)) : Nat) / (n : Real)) (t := t) (b := t * t * n = 2 ^ (2 * (60 + l))) (by rw [le_div_iff₀ positive]; exact_mod_cast low)
      (by rw [div_lt_iff₀ positive]; exact_mod_cast high) (by rw [eq_div_iff (ne_of_gt positive)]; exact_mod_cast Iff.rfl) (-i - (60 + l : Nat))
    simpa only [beq_iff_eq] using sticky
  · have fine := fine_of_le (s := if t * t * n = 2 ^ (2 * (60 + l)) then 0 else 1) long (-i - (60 + l : Nat) - 1)
    omega

theorem sticky_rcpDyadic (pos : 0 < m) (e : Int) : ∃ g, Sticky g (dyadic (rcpDyadic m e).1 (rcpDyadic m e).2.1) ((1 / dyadic m e : Rat) : Real) ((rcpDyadic m e).2.2 = true) ∧
    g ≤ leadExp (rcpDyadic m e).1 (rcpDyadic m e).2.1 - 25 ∧ 0 < (rcpDyadic m e).1 := by
  unfold rcpDyadic
  dsimp only
  have self : m < 2 ^ (Nat.log2 m + 1) := Nat.lt_log2_self
  generalize Nat.log2 m = l at self
  have split := Nat.div_add_mod (2 ^ (100 + l)) m
  have part := Nat.mod_lt (2 ^ (100 + l)) pos
  generalize 2 ^ (100 + l) % m = r at split part
  generalize whole : 2 ^ (100 + l) / m = t at split
  have long : 2 ^ 25 ≤ t := by
    rw [← whole, Nat.le_div_iff_mul_le pos]
    calc 2 ^ 25 * m ≤ 2 ^ 25 * 2 ^ (l + 1) := Nat.mul_le_mul_left _ (le_of_lt self)
      _ = 2 ^ (25 + (l + 1)) := (Nat.pow_add ..).symm
      _ ≤ 2 ^ (100 + l) := Nat.pow_le_pow_right (by decide) (by omega)
  have positive : (0 : Real) < m := by exact_mod_cast pos
  have unit : (0 : Real) < 2 ^ (-e - (100 + l : Nat)) := by positivity
  have value : ((1 / dyadic m e : Rat) : Real) = (2 ^ (100 + l) : Nat) / (m : Real) * 2 ^ (-e - (100 + l : Nat)) := by
    rw [Rat.cast_div, cast_dyadic, zpow_sub₀ (by norm_num), zpow_neg, zpow_natCast]
    push_cast
    field_simp
  have sticky := sticky_dyadic (b := r = 0) (t := t) (h := -e - (100 + l : Nat) - 1) (z := (2 ^ (100 + l) : Nat) / (m : Real) * 2 ^ (-e - (100 + l : Nat)))
  rw [sub_add_cancel] at sticky
  refine ⟨-e - (100 + l : Nat), ?_, ?_, by omega⟩
  · rw [value]
    simp only [beq_iff_eq]
    refine sticky ?_ ?_ ?_
    · refine mul_le_mul_of_nonneg_right ?_ (le_of_lt unit)
      rw [le_div_iff₀ positive]
      exact_mod_cast show t * m ≤ 2 ^ (100 + l) by rw [← split, Nat.mul_comm]; exact Nat.le_add_right _ _
    · refine mul_lt_mul_of_pos_right ?_ unit
      rw [div_lt_iff₀ positive]
      exact_mod_cast show 2 ^ (100 + l) < (t + 1) * m by rw [← split, Nat.add_mul, Nat.one_mul, Nat.mul_comm]; omega
    · rw [mul_left_inj' (ne_of_gt unit), div_eq_iff (ne_of_gt positive), ← split]
      rw [← Nat.cast_mul, Nat.cast_inj, Nat.mul_comm t m]
      omega
  · have fine := fine_of_le (s := if r = 0 then 0 else 1) long (-e - (100 + l : Nat) - 1)
    omega

end dyadics

end Sys2Proof.Machine
end

section
/-! SQRT, RCP and RSQ, from the cells that the model's dyadic numbers stand in (08 R193, R194, Tables 8.7, 8.8). -/

namespace Sys2Proof.Machine

variable {g : Int} {z : Real} {a c : Nat} {e : Int} {neg : Bool} {v : Rat}

theorem modeOf_nearest (neg : Bool) : modeOf 0#2 neg = .nearest := rfl
theorem strictMono_fp32 : StrictMono (narrowVal 23 127) := narrowVal_strictMono (by decide)

/-! ### Rounding to nearest, beside the number approximated -/

/-- Of neighbours the upper of which lies above d, neither lies below the power of two below d: both are points of the grid. -/
theorem grid_of_floor (pos : 0 < a) (least : -149 ≤ leadExp a e) (high : dyadic a e < narrowVal 23 127 (c + 1)) :
    Multiple (leadExp a e - 23) (narrowVal 23 127 c) ∧ Multiple (leadExp a e - 23) (narrowVal 23 127 (c + 1)) ∧ 0 < narrowVal 23 127 c := by
  obtain ⟨lead, -⟩ := leadExp_bounds pos e
  obtain ⟨j, apart⟩ := Int.eq_ofNat_of_zero_le (show 0 ≤ leadExp a e + 149 by omega)
  obtain ⟨b, power⟩ := exists_narrowVal (fw := 23) (bias := 127) (by decide) j (q := 1) (by decide)
  rw [multiples, Nat.cast_one, one_mul, show unitExp 23 127 + (j : Int) = leadExp a e by rw [unitExp]; omega] at power
  have under : b ≤ c := Nat.le_of_lt_succ (strictMono_fp32.lt_iff_lt.mp (lt_of_le_of_lt (power ▸ lead) high))
  have large : 2 ^ leadExp a e ≤ narrowVal 23 127 c := power ▸ strictMono_fp32.monotone under
  have larger : 2 ^ leadExp a e ≤ narrowVal 23 127 (c + 1) := le_trans large (le_of_lt (strictMono_fp32 (Nat.lt_succ_self c)))
  exact ⟨multiple_narrowVal large, multiple_narrowVal larger, lt_of_lt_of_le (by positivity) large⟩

/-- The number picked for d is a nearest one to z: the middle between it and any other lies on the other's side of z. -/
theorem nearest_of_cell (cell : SameCell g (dyadic a e) z) (pos : 0 < a) (fine : g ≤ leadExp a e - 25) (least : -149 ≤ leadExp a e) (picks : Picks .nearest (narrowVal 23 127) (dyadic a e) c) :
    Multiple g (narrowVal 23 127 c) ∧ 0 < narrowVal 23 127 c ∧ ∀ d, (narrowVal 23 127 d < narrowVal 23 127 c → (((narrowVal 23 127 d + narrowVal 23 127 c) / 2 : Rat) : Real) ≤ z) ∧
      (narrowVal 23 127 c < narrowVal 23 127 d → z ≤ (((narrowVal 23 127 c + narrowVal 23 127 d) / 2 : Rat) : Real)) := by
  obtain ⟨b, low, high, up⟩ := picks
  obtain ⟨here, next, positive⟩ := grid_of_floor pos least high
  have middle := (here.add next).half
  have rise := strictMono_fp32 (Nat.lt_succ_self b)
  have before := (cell.le _ (here.mono (by omega))).mp low
  have after := (cell.ge _ (next.mono (by omega))).mp (le_of_lt high)
  rcases up with ⟨beyond, rfl⟩ | ⟨under, rfl⟩
  · have half : (narrowVal 23 127 b + narrowVal 23 127 (b + 1)) / 2 ≤ dyadic a e := by rcases beyond with h | ⟨h, -⟩ <;> linarith
    have half := (cell.le _ (middle.mono (by omega))).mp half
    refine ⟨next.mono (by omega), lt_trans positive rise, fun d => ⟨fun less => le_trans ?_ half, fun more => le_trans after ?_⟩⟩
    · have most := strictMono_fp32.monotone (Nat.le_of_lt_succ (strictMono_fp32.lt_iff_lt.mp less))
      exact_mod_cast show (narrowVal 23 127 d + narrowVal 23 127 (b + 1)) / 2 ≤ (narrowVal 23 127 b + narrowVal 23 127 (b + 1)) / 2 by linarith
    · exact_mod_cast show narrowVal 23 127 (b + 1) ≤ (narrowVal 23 127 (b + 1) + narrowVal 23 127 d) / 2 by linarith
  · simp only [GoesUp, not_or, not_lt, not_and] at under
    have half : dyadic a e ≤ (narrowVal 23 127 c + narrowVal 23 127 (c + 1)) / 2 := by linarith [under.1]
    have half := (cell.ge _ (middle.mono (by omega))).mp half
    refine ⟨here.mono (by omega), positive, fun d => ⟨fun less => le_trans ?_ before, fun more => le_trans half ?_⟩⟩
    · exact_mod_cast show (narrowVal 23 127 d + narrowVal 23 127 c) / 2 ≤ narrowVal 23 127 c by linarith
    · have least := strictMono_fp32.monotone (Nat.succ_le_of_lt (strictMono_fp32.lt_iff_lt.mp more))
      exact_mod_cast show (narrowVal 23 127 c + narrowVal 23 127 (c + 1)) / 2 ≤ (narrowVal 23 127 c + narrowVal 23 127 d) / 2 by linarith

/-! ### The ends of FP32's range -/

/-- What overflows, and what is tiny, when rounded to nearest. -/
def overBound : Rat := 2 ^ (128 : Int) - 2 ^ (103 : Int)
def tinyBound : Rat := 2 ^ (-126 : Int) - 2 ^ (-151 : Int)

theorem overflows_fp32 (pos : 0 < v) : Overflows 8 23 0#2 (signed neg v) ↔ overBound ≤ v := by
  rw [overflows_signed pos, modeOf_nearest, Reaches]
  norm_num [topVal, overBound]

theorem tiny_fp32 (pos : 0 < v) : Tiny 8 23 0#2 (signed neg v) ↔ v < tinyBound := by
  rw [tiny_signed pos, modeOf_nearest, Reaches, not_le]
  norm_num [smallVal, tinyBound]

theorem multiple_overBound : Multiple 103 overBound := ((multiple_two_zpow 128).mono (by decide)).sub (multiple_two_zpow 103)
theorem multiple_tinyBound : Multiple (-151) tinyBound := ((multiple_two_zpow (-126)).mono (by decide)).sub (multiple_two_zpow (-151))

theorem overflows_iff_of_cell (cell : SameCell g (dyadic a e) z) (pos : 0 < a) (fine : g ≤ leadExp a e - 25) : Overflows 8 23 0#2 (signed neg (dyadic a e)) ↔ (overBound : Real) ≤ z := by
  rw [overflows_fp32 (dyadic_pos pos e)]
  exact cell.threshold pos fine multiple_overBound (by norm_num [overBound])

theorem tiny_iff_of_cell (cell : SameCell g (dyadic a e) z) (pos : 0 < a) (fine : g ≤ leadExp a e - 25) : Tiny 8 23 0#2 (signed neg (dyadic a e)) ↔ z < (tinyBound : Real) := by
  rw [tiny_fp32 (dyadic_pos pos e), ← not_le, ← not_le]
  exact not_congr (cell.threshold pos fine multiple_tinyBound (by norm_num [tinyBound]))

/-! ### SQRT -/

/-- Numbers that FP32 codes stand for lie in this range. -/
theorem dyadic_range (pos : 0 < a) (short : a < 2 ^ 24) (least : -149 ≤ e) (greatest : e ≤ 105) : (2 : Rat) ^ (-149 : Int) ≤ dyadic a e ∧ dyadic a e < 2 ^ (129 : Int) := by
  obtain ⟨low, high⟩ := leadExp_bounds pos e
  obtain ⟨least, greatest⟩ := leadExp_range pos short least greatest
  exact ⟨le_trans (two_zpow_le.mpr least) low, lt_of_lt_of_le high (two_zpow_le.mpr (by omega))⟩

theorem low_of_nx {fl : FFlags} (of : fl.of = false) (dz : fl.dz = false) (nv : fl.nv = false) (uf : fl.uf = false) : fl.low = if fl.nx = true then 1#5 else 0#5 := by
  obtain ⟨_, _, _, _, nx⟩ := fl
  cases of
  cases dz
  cases nv
  cases uf
  cases nx <;> rfl

/-- How a root compares with a number. -/
theorem le_sqrt_cast {x p : Rat} (pos : 0 < x) : (x : Real) ≤ √(p : Real) ↔ x ^ 2 ≤ p := by
  rw [Real.le_sqrt' (by exact_mod_cast pos)]
  exact_mod_cast Iff.rfl

theorem sqrt_cast_le {x p : Rat} (nonneg : 0 ≤ x) : √(p : Real) ≤ (x : Real) ↔ p ≤ x ^ 2 := by
  rw [Real.sqrt_le_left (show (0 : Real) ≤ x by exact_mod_cast nonneg)]
  exact_mod_cast Iff.rfl

theorem sqrt_cast_lt {x p : Rat} (pos : 0 < x) : √(p : Real) < (x : Real) ↔ p < x ^ 2 := by
  rw [Real.sqrt_lt' (by exact_mod_cast pos)]
  exact_mod_cast Iff.rfl

theorem eq_sqrt_cast {x p : Rat} (pos : 0 < x) : (x : Real) = √(p : Real) ↔ x ^ 2 = p := by
  rw [le_antisymm_iff, le_sqrt_cast pos, sqrt_cast_le (le_of_lt pos), ← le_antisymm_iff]

/-- The leading exponent of a root. -/
theorem two_zpow_sq (n : Int) : ((2 : Rat) ^ n) ^ 2 = 2 ^ (2 * n) := by rw [mul_comm, zpow_mul]; rfl

theorem leadExp_sqrt {p : Rat} {i j : Int} (low : 2 ^ i ≤ p) (high : p < 2 ^ j) (cell : SameCell g (dyadic a e) √(p : Real)) (pos : 0 < a) (fine : g ≤ leadExp a e - 25) :
    i < 2 * leadExp a e + 2 ∧ 2 * leadExp a e < j ∧ (2 ^ leadExp a e) ^ 2 ≤ p ∧ p < (2 ^ (leadExp a e + 1)) ^ 2 := by
  obtain ⟨least, most⟩ := cell.leadExp_bounds pos fine
  have cast (n : Int) : ((2 ^ n : Rat) : Real) = 2 ^ n := by push_cast; rfl
  have least : (2 ^ leadExp a e) ^ 2 ≤ p := (le_sqrt_cast (by positivity)).mp (by rwa [cast])
  have most : p < (2 ^ (leadExp a e + 1)) ^ 2 := (sqrt_cast_lt (by positivity)).mp (by rwa [cast])
  have above := lt_of_le_of_lt low most
  have below := lt_of_le_of_lt least high
  rw [two_zpow_sq, two_zpow_lt] at above below
  exact ⟨by omega, below, least, most⟩

theorem fSqrt_fin {m : Nat} (pos : 0 < m) (short : m < 2 ^ 24) (least : -149 ≤ e) (greatest : e ≤ 105) :
    ∃ q r fl, roundFin fp32 .rne false (sqrtDyadic m e).1 (sqrtDyadic m e).2.1 = (r, fl) ∧ r < 2 ^ 32 ∧ codeVal 8 23 r = some q ∧ 0 < q ∧ fl.low = (if q * q = dyadic m e then 0#5 else 1#5) ∧
      ∀ k x, codeVal 8 23 k = some x → 0 ≤ x → (x < q → ((x + q) / 2) ^ 2 ≤ dyadic m e) ∧ (q < x → dyadic m e ≤ ((q + x) / 2) ^ 2) := by
  obtain ⟨g, sticky, fine, some⟩ := sticky_sqrtDyadic pos e
  obtain ⟨low, high⟩ := dyadic_range pos short least greatest
  have cell := sticky.toSameCell
  generalize (sqrtDyadic m e).1 = b at *
  generalize (sqrtDyadic m e).2.1 = f at *
  obtain ⟨above, below, lead, top⟩ := leadExp_sqrt low high cell some fine
  obtain ⟨leadLow, leadHigh⟩ := leadExp_bounds some f
  have inside : ¬ Overflows 8 23 0#2 (signed false (dyadic b f)) := by
    rw [overflows_fp32 (dyadic_pos some f), not_le]
    refine lt_of_lt_of_le leadHigh (le_trans (two_zpow_le.mpr (show leadExp b f + 1 ≤ 66 by omega)) ?_)
    norm_num [overBound]
  have normal : ¬ Tiny 8 23 0#2 (signed false (dyadic b f)) := by
    rw [tiny_fp32 (dyadic_pos some f), not_lt]
    refine le_trans ?_ leadLow
    refine le_trans ?_ (two_zpow_le.mpr (show -76 ≤ leadExp b f by omega))
    norm_num [tinyBound]
  rcases roundFin_cases standard_fp32 0#2 false some f with ⟨large, -⟩ | ⟨c, fl, finite, picks, result, nx, uf, of, dz, nv⟩
  · exact absurd large inside
  · obtain ⟨grid, positive, nearest⟩ := nearest_of_cell cell some fine (by omega) picks
    obtain ⟨-, -, width⟩ := code_parts (ew := 8) (fw := 23) false (Nat.lt_trans finite (bigCode_lt 8 23))
    have exact : narrowVal 23 127 c = dyadic b f ↔ narrowVal 23 127 c * narrowVal 23 127 c = dyadic m e := by
      rw [cell.eq grid, eq_sqrt_cast positive, sq]
    refine ⟨narrowVal 23 127 c, _, fl, result, width, codeVal_code false finite, positive, ?_, fun k x value nonneg => ?_⟩
    · rw [low_of_nx of dz nv (by rw [Bool.eq_false_iff]; exact fun h => normal (uf.mp h).1)]
      simp only [← exact]
      by_cases same : narrowVal 23 127 c = dyadic b f
      · rw [if_pos same, if_neg (fun h => nx.mp h same)]
      · rw [if_neg same, if_pos (nx.mpr same)]
    · obtain ⟨d, -, rfl, -⟩ := exists_code value
      have magnitude : signed (codeNeg 8 23 k) (narrowVal 23 (codeBias 8) d) = narrowVal 23 127 d := by
        rw [← abs_of_nonneg nonneg, abs_signed (narrowVal_nonneg _ _ _)]
        rfl
      rw [magnitude] at nonneg ⊢
      obtain ⟨lower, upper⟩ := nearest d
      exact ⟨fun less => (le_sqrt_cast (by linarith)).mp (lower less), fun more => (sqrt_cast_le (by linarith)).mp (upper more)⟩

theorem fSqrt_spec (a : Word) (number : codeNan 8 23 a.toNat = false) :
    (codeInf 8 23 a.toNat = true → if codeNeg 8 23 a.toNat then Invalid 8 23 true (fSqrt a).1.toNat (fSqrt a).2.low else (fSqrt a).1.toNat = a.toNat ∧ (fSqrt a).2.low = 0#5) ∧
    ∀ p, codeVal 8 23 a.toNat = some p →
      (p = 0 → (fSqrt a).1.toNat = a.toNat ∧ (fSqrt a).2.low = 0#5) ∧ (p < 0 → Invalid 8 23 true (fSqrt a).1.toNat (fSqrt a).2.low) ∧
      (0 < p → ∃ q, codeVal 8 23 (fSqrt a).1.toNat = some q ∧ 0 < q ∧ ((fSqrt a).2.low = if q * q = p then 0#5 else 1#5) ∧ ∀ k x, codeVal 8 23 k = some x → 0 ≤ x →
        (x < q → ((x + q) / 2) ^ 2 ≤ p) ∧ (q < x → p ≤ ((q + x) / 2) ^ 2)) := by
  have reads := reads_fp32 a.toNat
  unfold fSqrt
  generalize unpack fp32 a.toNat = x at reads
  cases reads with
  | nan isNan => simp [number] at isNan
  | inf _ _ _ value =>
    refine ⟨fun _ => ?_, fun p some => by simp [value] at some⟩
    dsimp only
    split
    · exact ⟨rfl, low_invalid true⟩
    · exact ⟨rfl, low_none⟩
  | zero _ _ isInf value =>
    refine ⟨fun inf => by simp [isInf] at inf, fun p some => ?_⟩
    obtain rfl : 0 = p := Option.some.inj (value.symm.trans some)
    exact ⟨fun _ => ⟨rfl, low_none⟩, fun less => absurd less (lt_irrefl 0), fun more => absurd more (lt_irrefl 0)⟩
  | @fin b e _ _ isInf value pos short least greatest =>
    refine ⟨fun inf => by simp [isInf] at inf, fun p some => ?_⟩
    obtain rfl := Option.some.inj (value.symm.trans some)
    have positive := dyadic_pos pos e
    refine ⟨fun zero => absurd zero (signed_ne_zero positive), fun less => ?_, fun more => ?_⟩
    · simp only [(signed_neg_iff positive).mp less, if_true]
      exact ⟨rfl, low_invalid true⟩
    · have sign := (signed_pos_iff positive).mp more
      obtain ⟨q, r, fl, rounded, width, held, root⟩ := fSqrt_fin pos short least greatest
      simp only [sign, Bool.false_eq_true, if_false, rounded]
      rw [toNat_toW (r := (r, fl)) width]
      exact ⟨q, held, root⟩

end Sys2Proof.Machine
end

section
/-! RCP and RSQ: whatever value within one ulp is delivered, its distance and its flags are judged alike from the number and from the model's dyadic number (08 R193, R194, Tables 8.7, 8.8). -/

namespace Sys2Proof.Machine

variable {g : Int} {z : Real} {m : Nat} {e : Int} {neg : Bool} {v q : Rat}

/-! ### Values within a bound -/

/-- Whether a value is a signed dyadic number. -/
def sameValue (neg : Bool) (m : Nat) (e : Int) : Fp → Bool
  | .fin n2 m2 e2 => n2 == neg && scaled (.fin false m2 e2) (min e e2) == scaled (.fin false m e) (min e e2)
  | _ => false

/-- The model's test of a tiny exact result. -/
def tinyTest (neg : Bool) (m : Nat) (e : Int) : Bool :=
  decide (leadExp m e < -126) && !(decide (leadExp m e = -127) && decide ((roundAt (roundsUp .rne neg) m e (-150)).1 = 2 ^ 24))

/-- The code that an approximate function delivers short of overflow. -/
def approxCode (fn : BitVec 8) (k : Nat) (a : Word) (neg : Bool) (m : Nat) (e : Int) : Word :=
  if withinUlp k neg m e (unpack fp32 (Config.approx fn a).toNat) then Config.approx fn a else BitVec.ofNat 32 (roundFin fp32 .rne neg m e).1

theorem approxV_eq (fn : BitVec 8) (k : Nat) (a : Word) (neg : Bool) (m : Nat) (e : Int) (exact : Bool) : approxV fn k a neg m e exact =
    if (roundFin fp32 .rne neg m e).2.of then toW (roundFin fp32 .rne neg m e)
    else (approxCode fn k a neg m e,
      { nx := !(exact && sameValue neg m e (unpack fp32 (approxCode fn k a neg m e).toNat)),
        uf := tinyTest neg m e && !(exact && sameValue neg m e (unpack fp32 (approxCode fn k a neg m e).toNat)) }) := rfl

theorem scaled_eq_scaled_iff {a b : Nat} {f : Int} : scaled (.fin false a e) (min f e) = scaled (.fin false b f) (min f e) ↔ dyadic a e = dyadic b f := by
  have left := scaled_eq (neg := false) (a := a) (min_le_right f e)
  have right := scaled_eq (neg := false) (a := b) (min_le_left f e)
  change _ = dyadic a e at left
  change _ = dyadic b f at right
  rw [← left, ← right, mul_left_inj' (by positivity), Int.cast_inj]

theorem sameValue_iff (pos : 0 < m) (e : Int) (r : Nat) : sameValue neg m e (unpack fp32 r) = true ↔ codeVal 8 23 r = some (signed neg (dyadic m e)) := by
  have positive := dyadic_pos pos e
  have reads := reads_fp32 r
  generalize unpack fp32 r = x at reads
  cases reads with
  | nan _ _ value | inf _ _ _ value => simp [sameValue, value]
  | zero _ _ _ value =>
    rw [value, Option.some_inj]
    exact iff_of_false (by simp [sameValue]) (signed_ne_zero positive).symm
  | fin _ _ _ value pos' =>
    rw [value, Option.some_inj, sameValue, Bool.and_eq_true, beq_iff_eq, beq_iff_eq, scaled_eq_scaled_iff]
    have positive' := dyadic_pos pos' (by assumption)
    constructor
    · rintro ⟨sign, magnitude⟩
      rw [sign, magnitude]
    · intro same
      have sign : codeNeg 8 23 r = neg := by rw [Bool.eq_iff_iff, ← signed_neg_iff positive', same, signed_neg_iff positive]
      rw [sign, signed_inj] at same
      exact ⟨sign, same⟩

theorem tinyTest_iff (pos : 0 < m) (e : Int) : tinyTest neg m e = true ↔ Tiny 8 23 0#2 (signed neg (dyadic m e)) := by
  rw [← show _ ↔ Tiny 8 23 0#2 (signed neg (dyadic m e)) from tiny_iff standard_fp32 0#2 neg pos, tinyTest, Bool.and_eq_true, Bool.not_eq_true', Bool.and_eq_false_iff]
  simp only [decide_eq_true_eq, decide_eq_false_iff_not, ← not_and_or]
  rfl

/-- One unit in the last place of FP32, beside a magnitude with this leading exponent. -/
def ulp (lead : Int) : Rat := 2 ^ (max lead (-126) - 23)

theorem ulp_pos (lead : Int) : 0 < ulp lead := by
  unfold ulp
  positivity

theorem withinUlp_spec {k r : Nat} (within : withinUlp k neg m e (unpack fp32 r) = true) : ∃ q, codeVal 8 23 r = some q ∧ |q - signed neg (dyadic m e)| ≤ k * ulp (leadExp m e) := by
  have reads := reads_fp32 r
  unfold withinUlp at within
  generalize unpack fp32 r = x at reads within
  dsimp only at within
  have exact (lo : Int) (q : Rat) (below : lo ≤ e) (least : lo ≤ max (leadExp m e) (-126) - 23) (value : (scaled x lo : Rat) * 2 ^ lo = q)
      (less : (scaled x lo - scaled (.fin neg m e) lo).natAbs ≤ k <<< (max (leadExp m e) (-126) - 23 - lo).toNat) : |q - signed neg (dyadic m e)| ≤ k * ulp (leadExp m e) := by
    have unit := scaled_eq (neg := false) (a := k) least
    change _ = dyadic k _ at unit
    have less : |((scaled x lo - scaled (.fin neg m e) lo : Int) : Rat)| ≤ (scaled (.fin false k (max (leadExp m e) (-126) - 23)) lo : Rat) := by
      rw [← Int.cast_abs, Int.cast_le, Int.abs_eq_natAbs]
      exact Int.ofNat_le.mpr less
    rw [← value, ← scaled_eq below, ← sub_mul, abs_mul, abs_of_pos (by positivity : (0 : Rat) < 2 ^ lo), ← Int.cast_sub]
    calc _ ≤ (scaled (.fin false k (max (leadExp m e) (-126) - 23)) lo : Rat) * 2 ^ lo := mul_le_mul_of_nonneg_right less (by positivity)
      _ = _ := unit
  cases reads with
  | nan _ _ value | inf _ _ _ value => simp at within
  | zero _ _ _ value => exact ⟨0, value, exact _ 0 (by omega) (by omega) (by simp [scaled]) (of_decide_eq_true within)⟩
  | fin _ _ _ value => exact ⟨_, value, exact _ _ (by omega) (by omega) (scaled_eq (by simp only [expOf]; omega)) (of_decide_eq_true within)⟩

/-- The nearest number is within one unit too. -/
theorem near_within (pos : 0 < m) {c : Nat} (picks : Picks .nearest (narrowVal 23 127) (dyadic m e) c) : |narrowVal 23 127 c - dyadic m e| ≤ ulp (leadExp m e) := by
  obtain ⟨-, high⟩ := leadExp_bounds pos e
  have unit := ulp_pos (leadExp m e)
  have nonneg : 0 ≤ dyadic m e / ulp (leadExp m e) := div_nonneg (le_of_lt (dyadic_pos pos e)) (le_of_lt unit)
  obtain ⟨j, apart⟩ := Int.eq_ofNat_of_zero_le (show 0 ≤ max (leadExp m e) (-126) - 23 + 149 by omega)
  have place : unitExp 23 127 + (j : Int) = max (leadExp m e) (-126) - 23 := by rw [unitExp]; omega
  have few : ⌊dyadic m e / ulp (leadExp m e)⌋₊ ≤ 2 ^ 24 := by
    refine Nat.floor_le_of_le ((div_le_iff₀ unit).mpr (le_trans (le_of_lt high) ?_))
    rw [ulp, Nat.cast_pow, Nat.cast_ofNat, ← zpow_natCast, ← zpow_add₀ (by norm_num), two_zpow_le]
    push_cast
    omega
  obtain ⟨b, value⟩ := exists_narrowVal (fw := 23) (bias := 127) (by decide) j few
  rw [place, multiples, ← ulp] at value
  obtain ⟨closest, -⟩ := picks.nearest strictMono_fp32 b
  refine le_trans closest ?_
  have low := Nat.floor_le nonneg
  have above := Nat.lt_floor_add_one (dyadic m e / ulp (leadExp m e))
  rw [le_div_iff₀ unit, ← value] at low
  rw [div_lt_iff₀ unit, add_mul, one_mul, ← value] at above
  rw [abs_sub_comm, abs_of_nonneg (by linarith)]
  linarith

theorem signed_signed (neg : Bool) (v : Rat) : signed neg (signed neg v) = v := by
  cases neg <;> simp [signed]

/-- The code delivered short of overflow. -/
theorem approxCode_spec (fn : BitVec 8) (a : Word) (pos : 0 < m) (inside : ¬ Overflows 8 23 0#2 (signed neg (dyadic m e))) :
    ∃ q, codeVal 8 23 (approxCode fn 1 a neg m e).toNat = some (signed neg q) ∧ |q - dyadic m e| ≤ ulp (leadExp m e) := by
  unfold approxCode
  split
  case isTrue within =>
    obtain ⟨q, value, near⟩ := withinUlp_spec within
    refine ⟨signed neg q, by rw [value, signed_signed], ?_⟩
    rw [Nat.cast_one, one_mul, ← signed_signed neg q, abs_signed_sub] at near
    exact near
  case isFalse =>
    rcases roundFin_cases standard_fp32 0#2 neg pos e with ⟨large, -⟩ | ⟨c, fl, finite, picks, result, -⟩
    · exact absurd large inside
    · obtain ⟨-, -, width⟩ := code_parts (ew := 8) (fw := 23) neg (Nat.lt_trans finite (bigCode_lt 8 23))
      have code : (roundFin fp32 .rne neg m e).1 = zeroCode 8 23 neg + c := congrArg Prod.fst result
      exact ⟨narrowVal 23 127 c, by rw [code, toNat_ofNat_of_lt width]; exact codeVal_code neg finite, near_within pos picks⟩

/-! ### The number that the dyadic number stands for -/

/-- A value within one unit of d is a point of the grid, and as near to z. -/
theorem within_of_cell (cell : SameCell g (dyadic m e) z) (pos : 0 < m) (fine : g ≤ leadExp m e - 25) {r : Nat} (value : codeVal 8 23 r = some (signed neg q))
    (near : |q - dyadic m e| ≤ ulp (leadExp m e)) : Multiple g q ∧ ((q - ulp (leadExp m e) : Rat) : Real) ≤ z ∧ z ≤ ((q + ulp (leadExp m e) : Rat) : Real) := by
  obtain ⟨lead, -⟩ := leadExp_bounds pos e
  obtain ⟨below, above⟩ := abs_le.mp near
  have unsigned {f : Int} (h : Multiple f (signed neg q)) : Multiple f q := by
    cases neg
    · exact h
    · rw [← neg_neg q]
      exact h.neg
  have grid : Multiple (max (leadExp m e) (-126) - 24) q := by
    rcases le_total (leadExp m e) (-126) with small | large
    · exact unsigned ((multiple_codeVal_least value).mono (by omega))
    · have half : ulp (leadExp m e) ≤ 2 ^ (leadExp m e - 1) := by rw [ulp, two_zpow_le]; omega
      have double : (2 : Rat) ^ leadExp m e = 2 ^ (leadExp m e - 1) * 2 := by rw [← zpow_add_one₀ (by norm_num), sub_add_cancel]
      have positive : (0 : Rat) < 2 ^ (leadExp m e - 1) := by positivity
      refine unsigned ((multiple_codeVal value (h := leadExp m e - 1) ?_).mono (by omega))
      have magnitude : |signed neg q| = |q| := by
        cases neg
        · rfl
        · exact abs_neg q
      rw [magnitude, abs_of_nonneg (by linarith)]
      linarith
  have unit : Multiple (max (leadExp m e) (-126) - 24) (ulp (leadExp m e)) := (multiple_two_zpow _).mono (by omega)
  exact ⟨grid.mono (by omega), (cell.le _ ((grid.sub unit).mono (by omega))).mp (by linarith), (cell.ge _ ((grid.add unit).mono (by omega))).mp (by linarith)⟩

/-- What an approximate function delivers for the number z that a dyadic number stands for: an infinity, or a value within one ulp. -/
theorem approxV_sticky {exact : Bool} (sticky : Sticky g (dyadic m e) z (exact = true)) (pos : 0 < m) (fine : g ≤ leadExp m e - 25) (fn : BitVec 8) (a : Word) (neg : Bool) :
    ((overBound : Real) ≤ z → approxV fn 1 a neg m e exact = (BitVec.ofNat 32 (infCode 8 23 neg), { of := true, nx := true })) ∧
    (z < overBound → ∃ q fl, (approxV fn 1 a neg m e exact).2 = fl ∧ codeVal 8 23 (approxV fn 1 a neg m e exact).1.toNat = some (signed neg q) ∧
      ((q - ulp (leadExp m e) : Rat) : Real) ≤ z ∧ z ≤ ((q + ulp (leadExp m e) : Rat) : Real) ∧
      ((q : Real) = z → exact = true) ∧ (fl.nx = true ↔ (q : Real) ≠ z) ∧ (fl.uf = true ↔ z < tinyBound ∧ (q : Real) ≠ z) ∧ fl.of = false ∧ fl.dz = false ∧ fl.nv = false) := by
  have overflows := overflows_iff_of_cell (neg := neg) sticky.toSameCell pos fine
  have tiny := tiny_iff_of_cell (neg := neg) sticky.toSameCell pos fine
  have rounds := roundFin_cases standard_fp32 0#2 neg pos e
  rw [approxV_eq]
  constructor
  · intro large
    rcases rounds with ⟨-, result⟩ | ⟨c, fl, finite, picks, -⟩
    · have result : roundFin fp32 .rne neg m e = (overflowCode 8 23 0#2 neg, { of := true, nx := true }) := result
      rw [result]
      rfl
    · have past := (overflows_iff_of_picks (ew := 8) (fw := 23) (by decide) (by decide) (dyadic_pos pos e) picks).mp (overflows.mpr large)
      exact absurd past (not_le.mpr finite)
  · intro small
    have inside := fun h => not_le.mpr small (overflows.mp h)
    obtain ⟨q, value, near⟩ := approxCode_spec fn a pos inside
    obtain ⟨grid, low, high⟩ := within_of_cell sticky.toSameCell pos fine value near
    have flag : (roundFin fp32 .rne neg m e).2.of = false := by
      rcases rounds with ⟨large, -⟩ | ⟨c, fl, -, -, result, -, -, of, -⟩
      · exact absurd large inside
      · have result : roundFin fp32 .rne neg m e = (_, fl) := result
        rw [result, of]
    have same : (exact && sameValue neg m e (unpack fp32 (approxCode fn 1 a neg m e).toNat)) = true ↔ (q : Real) = z := by
      rw [Bool.and_eq_true, sameValue_iff pos, value, Option.some_inj, signed_inj, sticky.eq grid]
      exact and_iff_right_of_imp (sticky.point q grid)
    refine ⟨q, _, rfl, ?_, low, high, sticky.point q grid, ?_, ?_, ?_⟩
    · rw [if_neg (by rw [flag]; decide)]
      exact value
    · rw [if_neg (by rw [flag]; decide), ne_eq, ← same, Bool.not_eq_true, Bool.not_eq_true']
    · rw [if_neg (by rw [flag]; decide), ne_eq, ← same, ← tiny, ← tinyTest_iff pos, Bool.and_eq_true, Bool.not_eq_true, Bool.not_eq_true']
    · rw [if_neg (by rw [flag]; decide)]
      exact ⟨rfl, rfl, rfl⟩

/-! ### RCP -/

theorem signed_inv (neg : Bool) (v : Rat) : 1 / signed neg v = signed neg (1 / v) := by
  cases neg
  · rfl
  · exact one_div_neg_eq_neg_one_div v

/-- An infinity with overflow's flags. -/
theorem overflow_infCode (neg : Bool) : (BitVec.ofNat 32 (infCode 8 23 neg)).toNat = infCode 8 23 neg ∧ ({ of := true, nx := true } : FFlags).low = 0x05#5 := by
  cases neg <;> exact ⟨rfl, rfl⟩

/-- What RCP promises of the reciprocal of a number other than zero. -/
def IsRcp (neg : Bool) (p : Rat) (r : Nat) (fl : BitVec 5) : Prop :=
  (Overflows 8 23 0#2 (1 / p) → r = infCode 8 23 neg ∧ fl = 0x05#5) ∧
  (¬ Overflows 8 23 0#2 (1 / p) → ∃ q, codeVal 8 23 r = some q ∧ Flagged 8 23 0#2 (1 / p) r fl ∧ ((∃ n : Int, |p| = (2 : Rat) ^ n) → q = 1 / p) ∧
    ∀ e : Int, (2 : Rat) ^ e ≤ |1 / p| → |1 / p| < (2 : Rat) ^ (e + 1) → |q - 1 / p| ≤ (2 : Rat) ^ (max e (-126) - 23))

/-- Of a power of two: the reciprocal is exact, or it overflows. -/
theorem isRcp_of_power (neg : Bool) {n : Int} (least : -149 ≤ n) : IsRcp neg (signed neg (2 ^ (-n))) (toW (roundFin fp32 .rne neg 1 n)).1.toNat (toW (roundFin fp32 .rne neg 1 n)).2.low := by
  have inverse : 1 / signed neg (2 ^ (-n)) = signed neg (dyadic 1 n) := by rw [signed_inv, dyadic_one, zpow_neg, one_div, inv_inv]
  have positive := dyadic_pos Nat.one_pos n
  rw [IsRcp, inverse, overflows_fp32 positive]
  refine ⟨fun large => ?_, fun small => ?_⟩
  · rcases roundFin_cases standard_fp32 0#2 neg Nat.one_pos n with ⟨-, result⟩ | ⟨c, fl, finite, picks, -⟩
    · have result : roundFin fp32 .rne neg 1 n = (overflowCode 8 23 0#2 neg, { of := true, nx := true }) := result
      rw [result]
      exact overflow_infCode neg
    · have past := (overflows_iff_of_picks (ew := 8) (fw := 23) (by decide) (by decide) positive picks).mp ((overflows_fp32 positive).mpr large)
      exact absurd past (not_le.mpr finite)
  · have top : (2 : Rat) ^ n < 2 ^ (128 : Int) := by
      rw [not_le, dyadic_one] at small
      refine lt_trans small ?_
      norm_num [overBound]
    obtain ⟨r, rounded, held, -, width⟩ := exists_roundFin_fp32 neg Nat.one_pos (by decide) least (by rw [dyadic_one]; exact_mod_cast top)
    obtain ⟨-, flags⟩ := exactly_roundFin standard_fp32 0#2 neg Nat.one_pos n
    have flags : Flagged 8 23 0#2 (signed neg (dyadic 1 n)) (roundFin fp32 .rne neg 1 n).1 (roundFin fp32 .rne neg 1 n).2.low := flags
    rw [rounded] at flags ⊢
    rw [toNat_toW (r := (r, {})) width]
    refine ⟨_, held, flags, fun _ => rfl, fun e _ _ => ?_⟩
    rw [sub_self, abs_zero]
    positivity

/-- A reciprocal that ends is that of a power of two. -/
theorem eq_two_pow_of_rcp_exact (exact : (rcpDyadic m e).2.2 = true) : m = 2 ^ Nat.log2 m := by
  have divides : m ∣ 2 ^ (100 + Nat.log2 m) := Nat.dvd_of_mod_eq_zero (beq_iff_eq.mp exact)
  obtain ⟨j, -, power⟩ := (Nat.dvd_prime_pow Nat.prime_two).mp divides
  rw [power, Nat.log2_two_pow]

/-- Of any other number. -/
theorem isRcp_of_sticky (pos : 0 < m) (other : m ≠ 2 ^ Nat.log2 m) (e : Int) (a : Word) (neg : Bool) :
    IsRcp neg (signed neg (dyadic m e)) (approxV 0x02#8 1 a neg (rcpDyadic m e).1 (rcpDyadic m e).2.1 (rcpDyadic m e).2.2).1.toNat
      (approxV 0x02#8 1 a neg (rcpDyadic m e).1 (rcpDyadic m e).2.1 (rcpDyadic m e).2.2).2.low := by
  obtain ⟨g, sticky, fine, some⟩ := sticky_rcpDyadic pos e
  obtain ⟨beyond, within⟩ := approxV_sticky sticky some fine 0x02#8 a neg
  obtain ⟨leadLow, leadHigh⟩ := sticky.leadExp_bounds some fine
  have positive : 0 < 1 / dyadic m e := one_div_pos.mpr (dyadic_pos pos e)
  rw [IsRcp, signed_inv, overflows_fp32 positive]
  refine ⟨fun large => ?_, fun small => ?_⟩
  · rw [beyond (by exact_mod_cast large)]
    exact overflow_infCode neg
  · obtain ⟨q, fl, flags, value, low, high, exact, nx, uf, of, dz, nv⟩ := within (by exact_mod_cast not_le.mp small)
    have inexact : (q : Real) ≠ ((1 / dyadic m e : Rat) : Real) := fun same => other (eq_two_pow_of_rcp_exact (exact same))
    have apart : signed neg q ≠ signed neg (1 / dyadic m e) := fun same => inexact (by rw [signed_inj.mp same])
    rw [flags]
    refine ⟨_, value, ⟨?_, ?_, ?_, by rw [low_dz, dz], by rw [low_nv, nv]⟩, ?_, fun f least most => ?_⟩
    · rw [low_nx, nx, value, ne_eq, ne_eq, Option.some_inj]
      exact iff_of_true inexact apart
    · rw [low_uf, uf, tiny_fp32 positive, value, ne_eq, ne_eq, Option.some_inj]
      exact and_congr (by exact_mod_cast Iff.rfl) (iff_of_true inexact apart)
    · rw [low_of, of, overflows_fp32 positive]
      exact iff_of_false Bool.false_ne_true small
    · rintro ⟨n, power⟩
      rw [abs_signed (le_of_lt (dyadic_pos pos e))] at power
      exact absurd (eq_of_dyadic_eq_two_zpow pos power).1 other
    · rw [abs_signed (le_of_lt positive)] at least most
      have cast (n : Int) : ((2 ^ n : Rat) : Real) = 2 ^ n := by push_cast; rfl
      rw [← cast, Rat.cast_le] at leadLow
      rw [← cast, Rat.cast_lt] at leadHigh
      have lower := two_zpow_lt.mp (lt_of_le_of_lt least leadHigh)
      have upper := two_zpow_lt.mp (lt_of_le_of_lt leadLow most)
      obtain rfl : f = leadExp (rcpDyadic m e).1 (rcpDyadic m e).2.1 := by omega
      rw [Rat.cast_le] at low high
      rw [abs_signed_sub, abs_le, ← ulp]
      constructor <;> linarith

theorem fRcp_spec (a : Word) (number : codeNan 8 23 a.toNat = false) :
    (codeInf 8 23 a.toNat = true → (fRcp a).1.toNat = zeroCode 8 23 (codeNeg 8 23 a.toNat) ∧ (fRcp a).2.low = 0#5) ∧ ∀ p, codeVal 8 23 a.toNat = some p →
      (p = 0 → (fRcp a).1.toNat = infCode 8 23 (codeNeg 8 23 a.toNat) ∧ (fRcp a).2.low = 0x08#5) ∧
      (p ≠ 0 → IsRcp (codeNeg 8 23 a.toNat) p (fRcp a).1.toNat (fRcp a).2.low) := by
  have reads := reads_fp32 a.toNat
  unfold fRcp
  generalize unpack fp32 a.toNat = x at reads
  cases reads with
  | nan isNan => simp [number] at isNan
  | inf _ _ _ value => exact ⟨fun _ => ⟨toNat_signBit _, low_none⟩, fun p some => by simp [value] at some⟩
  | zero _ _ isInf value =>
    refine ⟨fun inf => by simp [isInf] at inf, fun p some => ?_⟩
    obtain rfl : 0 = p := Option.some.inj (value.symm.trans some)
    refine ⟨fun _ => ⟨?_, (by decide : ({ dz := true } : FFlags).low = 0x08#5)⟩, fun more => absurd rfl more⟩
    exact (overflow_infCode _).1
  | @fin b e _ _ isInf value pos short least greatest =>
    refine ⟨fun inf => by simp [isInf] at inf, fun p some => ?_⟩
    obtain rfl := Option.some.inj (value.symm.trans some)
    refine ⟨fun zero => absurd zero (signed_ne_zero (dyadic_pos pos e)), fun _ => ?_⟩
    obtain ⟨-, high⟩ := leadExp_range pos short least greatest
    by_cases power : b = 2 ^ Nat.log2 b
    · have same : dyadic b e = 2 ^ (- -leadExp b e) := by
        rw [neg_neg, leadExp, add_comm, zpow_add₀ (by norm_num), zpow_natCast, dyadic]
        congr 1
        exact_mod_cast power
      simp only [if_pos power, same]
      exact isRcp_of_power _ (by omega)
    · simp only [if_neg power]
      exact isRcp_of_sticky pos power e a _

/-! ### RSQ -/

theorem fRsq_fin (pos : 0 < m) (short : m < 2 ^ 24) (least : -149 ≤ e) (greatest : e ≤ 105) (a : Word) :
    ∃ q, codeVal 8 23 (approxV 0x03#8 1 a false (rsqDyadic m e).1 (rsqDyadic m e).2.1 (rsqDyadic m e).2.2).1.toNat = some q ∧ 0 < q ∧
      (approxV 0x03#8 1 a false (rsqDyadic m e).1 (rsqDyadic m e).2.1 (rsqDyadic m e).2.2).2.low = (if q * q * dyadic m e = 1 then 0#5 else 1#5) ∧
      ∀ f : Int, ((2 : Rat) ^ f) ^ 2 * dyadic m e ≤ 1 → 1 < ((2 : Rat) ^ (f + 1)) ^ 2 * dyadic m e →
        (q - (2 : Rat) ^ (f - 23)) ^ 2 * dyadic m e ≤ 1 ∧ 1 ≤ (q + (2 : Rat) ^ (f - 23)) ^ 2 * dyadic m e := by
  obtain ⟨g, sticky, fine, some⟩ := sticky_rsqDyadic pos e
  obtain ⟨low, high⟩ := dyadic_range pos short least greatest
  have positive := dyadic_pos pos e
  obtain ⟨-, within⟩ := approxV_sticky sticky some fine 0x03#8 a false
  have lowest : (2 : Rat) ^ (-129 : Int) ≤ 1 / dyadic m e := by
    rw [le_div_iff₀ positive, ← mul_comm, ← le_div_iff₀ (by positivity), one_div, ← zpow_neg]
    exact le_of_lt high
  have highest : 1 / dyadic m e < (2 : Rat) ^ (150 : Int) := by
    rw [div_lt_iff₀ positive, ← div_lt_iff₀' (by positivity), one_div, ← zpow_neg]
    exact lt_of_lt_of_le (two_zpow_lt.mpr (by decide)) low
  obtain ⟨above, below, leadLow, leadHigh⟩ := leadExp_sqrt lowest highest sticky.toSameCell some fine
  generalize (rsqDyadic m e).1 = b at *
  generalize (rsqDyadic m e).2.1 = h at *
  have small : √((1 / dyadic m e : Rat) : Real) < overBound := (sqrt_cast_lt (by norm_num [overBound])).mpr (lt_trans highest (by norm_num [overBound]))
  have normal : ¬ √((1 / dyadic m e : Rat) : Real) < tinyBound := by
    rw [sqrt_cast_lt (by norm_num [tinyBound]), not_lt]
    exact le_trans (by norm_num [tinyBound]) lowest
  obtain ⟨q, fl, flags, value, under, beyond, -, nx, uf, of, dz, nv⟩ := within small
  have unit : ulp (leadExp b h) = 2 ^ (leadExp b h - 23) := by rw [ulp, max_eq_left (by omega)]
  rw [unit] at under beyond
  have quarter : (2 : Rat) ^ (leadExp b h - 23) ≤ 2 ^ (leadExp b h - 2) := two_zpow_le.mpr (by omega)
  have four : (2 : Rat) ^ leadExp b h = 2 ^ (leadExp b h - 2) * 4 := by rw [show (4 : Rat) = 2 ^ (2 : Int) by norm_num, ← zpow_add₀ (by norm_num), sub_add_cancel]
  have some : (0 : Rat) < 2 ^ (leadExp b h - 2) := by positivity
  have lead : (2 : Rat) ^ leadExp b h ≤ q + 2 ^ (leadExp b h - 23) := by
    have root := ((le_sqrt_cast (x := 2 ^ leadExp b h) (by positivity)).mpr leadLow).trans beyond
    exact_mod_cast root
  have pos : 0 < q := by linarith
  rw [le_sqrt_cast (by linarith)] at under
  rw [sqrt_cast_le (by linarith)] at beyond
  refine ⟨q, value, pos, ?_, fun f least most => ?_⟩
  · have root : (q : Real) = √((1 / dyadic m e : Rat) : Real) ↔ q * q * dyadic m e = 1 := by
      rw [eq_sqrt_cast pos, sq, eq_div_iff (ne_of_gt positive)]
    rw [flags, low_of_nx of dz nv (by rw [Bool.eq_false_iff]; exact fun h => normal (uf.mp h).1)]
    simp only [← root, nx, ne_eq, ite_not]
  · rw [← le_div_iff₀ positive] at least
    rw [← div_lt_iff₀ positive] at most
    have lower := lt_of_le_of_lt least leadHigh
    have upper := lt_of_le_of_lt leadLow most
    rw [two_zpow_sq, two_zpow_sq, two_zpow_lt] at lower upper
    obtain rfl : f = leadExp b h := by omega
    rw [← le_div_iff₀ positive, ← div_le_iff₀ positive]
    exact ⟨under, beyond⟩

theorem fRsq_spec (a : Word) (number : codeNan 8 23 a.toNat = false) :
    (codeInf 8 23 a.toNat = true → if codeNeg 8 23 a.toNat then Invalid 8 23 true (fRsq a).1.toNat (fRsq a).2.low else (fRsq a).1.toNat = 0 ∧ (fRsq a).2.low = 0#5) ∧
    ∀ p, codeVal 8 23 a.toNat = some p →
      (p = 0 → (fRsq a).1.toNat = infCode 8 23 (codeNeg 8 23 a.toNat) ∧ (fRsq a).2.low = 0x08#5) ∧ (p < 0 → Invalid 8 23 true (fRsq a).1.toNat (fRsq a).2.low) ∧
      (0 < p → ∃ q, codeVal 8 23 (fRsq a).1.toNat = some q ∧ 0 < q ∧ ((fRsq a).2.low = if q * q * p = 1 then 0#5 else 1#5) ∧
        ∀ f : Int, ((2 : Rat) ^ f) ^ 2 * p ≤ 1 → 1 < ((2 : Rat) ^ (f + 1)) ^ 2 * p → (q - (2 : Rat) ^ (f - 23)) ^ 2 * p ≤ 1 ∧ 1 ≤ (q + (2 : Rat) ^ (f - 23)) ^ 2 * p) := by
  have reads := reads_fp32 a.toNat
  unfold fRsq
  generalize unpack fp32 a.toNat = x at reads
  cases reads with
  | nan isNan => simp [number] at isNan
  | inf _ _ _ value =>
    refine ⟨fun _ => ?_, fun p some => by simp [value] at some⟩
    dsimp only
    split
    · exact ⟨rfl, low_invalid true⟩
    · exact ⟨rfl, low_none⟩
  | zero _ _ isInf value =>
    refine ⟨fun inf => by simp [isInf] at inf, fun p some => ?_⟩
    obtain rfl : 0 = p := Option.some.inj (value.symm.trans some)
    refine ⟨fun _ => ⟨?_, (by decide : ({ dz := true } : FFlags).low = 0x08#5)⟩, fun less => absurd less (lt_irrefl 0), fun more => absurd more (lt_irrefl 0)⟩
    exact (overflow_infCode _).1
  | @fin b e _ _ isInf value pos short least greatest =>
    refine ⟨fun inf => by simp [isInf] at inf, fun p some => ?_⟩
    obtain rfl := Option.some.inj (value.symm.trans some)
    have positive := dyadic_pos pos e
    refine ⟨fun zero => absurd zero (signed_ne_zero positive), fun less => ?_, fun more => ?_⟩
    · simp only [(signed_neg_iff positive).mp less, if_true]
      exact ⟨rfl, low_invalid true⟩
    · have sign := (signed_pos_iff positive).mp more
      simp only [sign, Bool.false_eq_true, if_false]
      exact fRsq_fin pos short least greatest a

end Sys2Proof.Machine
end

section
/-! CVT: between floating types through the exact value, from integers, and to integers rounded and saturated (08 R196-R198, Table 8.10). -/

namespace Sys2Proof.Machine

variable {m : BitVec 2} {neg : Bool} {p : Rat} {j : Int}

/-! ### Types -/

/-- A floating type's format, as the statements have it. -/
theorem cvtFmt_spec {t : BitVec 3} (float : t.toNat < 3) : Standard (cvtFmt t) ∧ (cvtFmt t).ew = (floatType t).1 ∧ (cvtFmt t).fw = (floatType t).2 ∧
    2 ^ ((cvtFmt t).ew + (cvtFmt t).fw + 1) ≤ 2 ^ 32 := by
  obtain ⟨n, inside⟩ := t
  replace float : n < 3 := float
  interval_cases n
  · exact ⟨standard_fp32, rfl, rfl, (by decide : 2 ^ (8 + 23 + 1) ≤ 2 ^ 32)⟩
  · exact ⟨standard_fp16, rfl, rfl, (by decide : 2 ^ (5 + 10 + 1) ≤ 2 ^ 32)⟩
  · exact ⟨standard_bf16, rfl, rfl, (by decide : 2 ^ (8 + 7 + 1) ≤ 2 ^ 32)⟩

/-- An integer type's signedness and width. -/
theorem intRange_spec {t : BitVec 3} (int : 3 ≤ t.toNat) : intRange t = intType t ∧ ((intType t).2 = 32 ∨ (intType t).2 = 64) := by
  obtain ⟨n, inside⟩ := t
  replace int : 3 ≤ n := int
  interval_cases n
  · exact ⟨rfl, .inl rfl⟩
  · exact ⟨rfl, .inl rfl⟩
  · exact ⟨rfl, .inr rfl⟩
  · exact ⟨rfl, .inr rfl⟩
  · exact ⟨rfl, .inr rfl⟩

/-! ### To a floating type -/

theorem cvtOp_float {t : BitVec 3} (float : t.toNat < 3) (s : BitVec 3) (dir : Dir) (x : BitVec 64) {v : Fp}
    (operand : (if s.toNat < 3 then unpack (cvtFmt s) (x.toNat % 2 ^ ((cvtFmt s).ew + (cvtFmt s).fw + 1)) else intValue s x) = v) :
    cvtOp t s dir x = (BitVec.ofNat 64 (deliver (cvtFmt t) dir v).1, { (deliver (cvtFmt t) dir v).2 with nv := isSig v }) := by
  unfold cvtOp
  simp only [operand, if_pos float]

/-- What holds of the code delivered for a value, and of its flags, holds of the word. -/
theorem of_cvtOp {t : BitVec 3} (float : t.toNat < 3) {v : Fp} (proper : Proper v) {P : Nat → BitVec 5 → Prop}
    (holds : P (deliver (cvtFmt t) (dirOf m) v).1 ({ (deliver (cvtFmt t) (dirOf m) v).2 with nv := isSig v } : FFlags).low) :
    P (BitVec.ofNat 64 (deliver (cvtFmt t) (dirOf m) v).1).toNat ({ (deliver (cvtFmt t) (dirOf m) v).2 with nv := isSig v } : FFlags).low := by
  obtain ⟨std, -, -, width⟩ := cvtFmt_spec float
  rwa [BitVec.toNat_ofNat, Nat.mod_eq_of_lt (lt_of_lt_of_le (deliver_lt std m proper) (le_trans width (by decide)))]

/-- A number's flags are those of its rounding. -/
theorem deliver_flags (k : Fmt) (dir : Dir) {v : Fp} (quiet : isSig v = false) : ({ (deliver k dir v).2 with nv := isSig v } : FFlags) = (deliver k dir v).2 := by
  rw [quiet, ← deliver_nv k dir v]

theorem IsResult.isSig_eq {x : Fp} (h : IsResult x p neg) : isSig x = false := by
  obtain ⟨-, rfl⟩ | ⟨_, _, _, -, rfl, -⟩ := h
  all_goals rfl

/-- A finite value, however it was held. -/
theorem cvt_exactly {t : BitVec 3} (float : t.toNat < 3) {v : Fp} (result : IsResult v p neg) :
    Exactly (floatType t).1 (floatType t).2 m p neg (BitVec.ofNat 64 (deliver (cvtFmt t) (dirOf m) v).1).toNat
      ({ (deliver (cvtFmt t) (dirOf m) v).2 with nv := isSig v } : FFlags).low := by
  refine of_cvtOp (P := fun r fl => Exactly (floatType t).1 (floatType t).2 m p neg r fl) float result.pos ?_
  obtain ⟨std, ew, fw, -⟩ := cvtFmt_spec float
  rw [deliver_flags _ _ result.isSig_eq, ← ew, ← fw]
  exact exactly_deliver std result

theorem cvt_float_float {t s : BitVec 3} (float : t.toNat < 3) (source : s.toNat < 3) (x : BitVec 64) :
    let a := x.toNat % 2 ^ ((floatType s).1 + (floatType s).2 + 1)
    let r := (cvtOp t s (dirOf m) x).1.toNat
    let fl := (cvtOp t s (dirOf m) x).2.low
    (codeNan (floatType s).1 (floatType s).2 a = true → Invalid (floatType t).1 (floatType t).2 (codeSig (floatType s).1 (floatType s).2 a) r fl) ∧
    (codeInf (floatType s).1 (floatType s).2 a = true → Infinite (floatType t).1 (floatType t).2 (codeNeg (floatType s).1 (floatType s).2 a) r fl) ∧
    ∀ p, codeVal (floatType s).1 (floatType s).2 a = some p → Exactly (floatType t).1 (floatType t).2 m p (codeNeg (floatType s).1 (floatType s).2 a) r fl := by
  obtain ⟨std, ew, fw, -⟩ := cvtFmt_spec source
  obtain ⟨-, ew', fw', -⟩ := cvtFmt_spec float
  have reads := reads_unpack std (x.toNat % 2 ^ ((cvtFmt s).ew + (cvtFmt s).fw + 1))
  rw [cvtOp_float float s _ x (if_pos source)]
  dsimp only
  rw [← ew, ← fw]
  refine ⟨fun nan => ?_, fun inf => ?_, fun p value => cvt_exactly float (reads.holds value).isResult⟩
  · rw [reads.eq_nan nan]
    refine of_cvtOp float (fun _ _ _ fin => by cases fin) ⟨?_, low_invalid _⟩
    rw [← ew', ← fw']
    rfl
  · rw [reads.eq_inf inf]
    refine of_cvtOp float (fun _ _ _ fin => by cases fin) ⟨?_, low_none⟩
    rw [← ew', ← fw']
    exact infBits_eq _ _

/-- The integer that an operand of an integer type holds. -/
theorem intValue_eq {s : BitVec 3} (int : 3 ≤ s.toNat) (x : BitVec 64) :
    intValue s x = ofScaled (if (intType s).1 then (x.setWidth (intType s).2).toInt else ((x.setWidth (intType s).2).toNat : Int)) 0 false := by
  obtain ⟨n, inside⟩ := s
  replace int : 3 ≤ n := int
  have whole : x.setWidth 64 = x := BitVec.setWidth_eq x
  interval_cases n
  · rfl
  · rfl
  · exact congrArg (fun y : BitVec 64 => ofScaled y.toInt 0 false) whole.symm
  · exact congrArg (fun y : BitVec 64 => ofScaled y.toNat 0 false) whole.symm
  · exact congrArg (fun y : BitVec 64 => ofScaled y.toNat 0 false) whole.symm

theorem cvt_int_float {t s : BitVec 3} (float : t.toNat < 3) (source : 3 ≤ s.toNat) (x : BitVec 64) :
    Exactly (floatType t).1 (floatType t).2 m
      ((if (intType s).1 then (x.setWidth (intType s).2).toInt else ((x.setWidth (intType s).2).toNat : Int) : Int) : Rat) false
      (cvtOp t s (dirOf m) x).1.toNat (cvtOp t s (dirOf m) x).2.low := by
  rw [cvtOp_float float s _ x (if_neg (not_lt.mpr source)), intValue_eq source]
  have result := isResult_ofScaled (if (intType s).1 then (x.setWidth (intType s).2).toInt else ((x.setWidth (intType s).2).toNat : Int)) 0 false
  rw [zpow_zero, mul_one] at result
  exact cvt_exactly float result

/-! ### To an integer type -/

/-- A rounded number lies less than one away. -/
theorem intRound_near (rounds : IntRound m p j) : (j : Rat) < p + 1 ∧ p < j + 1 := by
  obtain ⟨k, inside⟩ := m
  have floor : p.floor = j → (j : Rat) < p + 1 ∧ p < j + 1 := fun same => by
    obtain ⟨low, high⟩ := floor_eq_iff.mp same
    constructor <;> linarith
  have ceil : p.ceil = j → (j : Rat) < p + 1 ∧ p < j + 1 := fun same => by
    obtain ⟨low, high⟩ := ceil_eq_iff.mp same
    constructor <;> linarith
  interval_cases k
  · obtain ⟨close, -⟩ : |(j : Rat) - p| ≤ 1 / 2 ∧ _ := rounds
    obtain ⟨low, high⟩ := abs_le.mp close
    constructor <;> linarith
  · have rounds : j = if 0 ≤ p then p.floor else p.ceil := rounds
    split at rounds
    · exact floor rounds.symm
    · exact ceil rounds.symm
  · exact floor (show j = p.floor from rounds).symm
  · exact ceil (show j = p.ceil from rounds).symm

/-- The ends of an integer type. -/
def intLow (sg : Bool) (w : Nat) : Int := if sg then -(2 ^ (w - 1)) else 0
def intHigh (sg : Bool) (w : Nat) : Int := if sg then 2 ^ (w - 1) - 1 else 2 ^ w - 1

theorem int_ends (sg : Bool) {w : Nat} (width : w = 32 ∨ w = 64) : -(2 ^ 63) ≤ intLow sg w ∧ intLow sg w ≤ 0 ∧ 0 ≤ intHigh sg w ∧ intHigh sg w < 2 ^ 64 := by
  obtain rfl | rfl := width
  all_goals
    cases sg
    · exact ⟨by decide, by decide, by decide, by decide⟩
    · exact ⟨by decide, by decide, by decide, by decide⟩

/-- An integer put into a word of its type. -/
theorem toNat_put {w : Nat} (width : w = 32 ∨ w = 64) (v : Int) : (((BitVec.ofInt 64 v).setWidth w).setWidth 64).toNat = (v % 2 ^ w).toNat := by
  rw [BitVec.toNat_setWidth, BitVec.toNat_setWidth, BitVec.toNat_ofInt]
  obtain rfl | rfl := width
  · norm_num
    omega
  · norm_num
    omega

/-- The model's conversion of a finite number: its rounding, clamped. -/
theorem intConvert_fin {t : BitVec 3} (width : (intRange t).2 = 32 ∨ (intRange t).2 = 64) {a : Nat} (pos : 0 < a) {e : Int} (rounds : IntRound m (signed neg (dyadic a e)) j) :
    intConvert t (dirOf m) (.fin neg a e) =
      (((BitVec.ofInt 64 (max (intLow (intRange t).1 (intRange t).2) (min (intHigh (intRange t).1 (intRange t).2) j))).setWidth (intRange t).2).setWidth 64,
        if j < intLow (intRange t).1 (intRange t).2 ∨ intHigh (intRange t).1 (intRange t).2 < j then { nv := true } else { nx := decide (signed neg (dyadic a e) ≠ j) }) := by
  obtain ⟨lowest, low, high, highest⟩ := int_ends (intRange t).1 width
  obtain ⟨lead, -⟩ := leadExp_bounds pos e
  unfold intConvert
  dsimp only
  rw [← intLow, ← intHigh]
  generalize intLow (intRange t).1 (intRange t).2 = lo at *
  generalize intHigh (intRange t).1 (intRange t).2 = hi at *
  split
  case isTrue far =>
    have large : (2 : Rat) ^ 71 ≤ dyadic a e := le_trans (by rw [← zpow_natCast]; exact two_zpow_le.mpr (by push_cast; omega)) lead
    obtain ⟨under, beyond⟩ := intRound_near rounds
    have lowest : (-(2 ^ 63) : Rat) ≤ lo := by exact_mod_cast lowest
    have highest : (hi : Rat) < 2 ^ 64 := by exact_mod_cast highest
    cases neg
    · simp only [signed, Bool.false_eq_true, if_false] at under beyond ⊢
      have above : (hi : Rat) < j := by norm_num at large highest; linarith
      have above : hi < j := by exact_mod_cast above
      rw [if_pos (.inr above), min_eq_left (le_of_lt above), max_eq_right (by omega)]
    · simp only [signed, if_true] at under beyond ⊢
      have below : (j : Rat) < lo := by norm_num at large lowest; linarith
      have below : j < lo := by exact_mod_cast below
      rw [if_pos (.inl below), min_eq_right (by omega), max_eq_left (le_of_lt below)]
  case isFalse =>
    obtain ⟨picks, inexact⟩ := picks_roundAt m neg pos e 0
    have same : j = signedInt neg (roundAt (roundsUp (dirOf m) neg) a e 0).1 := intRound_unique rounds (intRound_of_picks picks)
    have flag : (roundAt (roundsUp (dirOf m) neg) a e 0).2 = decide (signed neg (dyadic a e) ≠ j) := by
      rw [Bool.eq_iff_iff, decide_eq_true_iff, inexact, multiples_one, same, cast_signedInt, ne_eq, ne_eq, signed_inj, eq_comm]
    have value : (if neg = true then -((roundAt (roundsUp (dirOf m) neg) a e 0).1 : Int) else ((roundAt (roundsUp (dirOf m) neg) a e 0).1 : Int)) = j := same.symm
    rw [value, flag]
    split
    case isTrue above => rw [if_pos (.inr above), min_eq_left (le_of_lt above), max_eq_right (by omega)]
    case isFalse notAbove =>
      split
      case isTrue below => rw [if_pos (.inl below), min_eq_right (by omega), max_eq_left (le_of_lt below)]
      case isFalse notBelow => rw [if_neg (by omega), min_eq_right (by omega), max_eq_right (by omega)]

theorem cvt_float_int {t s : BitVec 3} (int : 3 ≤ t.toNat) (source : s.toNat < 3) (x : BitVec 64) :
    let a := x.toNat % 2 ^ ((floatType s).1 + (floatType s).2 + 1)
    let r := (cvtOp t s (dirOf m) x).1.toNat
    let fl := (cvtOp t s (dirOf m) x).2.low
    let lo := intLow (intType t).1 (intType t).2
    let hi := intHigh (intType t).1 (intType t).2
    let put := fun (n : Int) => (n % 2 ^ (intType t).2).toNat
    (codeNan (floatType s).1 (floatType s).2 a = true → r = 0 ∧ fl = 0x10#5) ∧
    (codeInf (floatType s).1 (floatType s).2 a = true → r = put (if codeNeg (floatType s).1 (floatType s).2 a then lo else hi) ∧ fl = 0x10#5) ∧
    ∀ p k, codeVal (floatType s).1 (floatType s).2 a = some p → IntRound m p k →
      r = put (max lo (min hi k)) ∧ fl = if k < lo ∨ hi < k then 0x10#5 else if p = k then 0#5 else 1#5 := by
  obtain ⟨std, ew, fw, -⟩ := cvtFmt_spec source
  obtain ⟨same, width⟩ := intRange_spec int
  obtain ⟨-, low, high, -⟩ := int_ends (intType t).1 width
  have reads := reads_unpack std (x.toNat % 2 ^ ((cvtFmt s).ew + (cvtFmt s).fw + 1))
  have run : cvtOp t s (dirOf m) x = intConvert t (dirOf m) (unpack (cvtFmt s) (x.toNat % 2 ^ ((cvtFmt s).ew + (cvtFmt s).fw + 1))) := by
    unfold cvtOp
    simp only [if_pos source, if_neg (not_lt.mpr int)]
  dsimp only
  rw [run, ← ew, ← fw]
  have invalid : ({ nv := true } : FFlags).low = 0x10#5 := rfl
  refine ⟨fun nan => ?_, fun inf => ?_, fun p k value rounds => ?_⟩
  · rw [reads.eq_nan nan]
    exact ⟨rfl, invalid⟩
  · rw [reads.eq_inf inf]
    refine ⟨(toNat_put (same ▸ width) _).trans ?_, invalid⟩
    rw [same]
    rfl
  · obtain ⟨rfl, code⟩ | ⟨b, e, pos, code, rfl⟩ := reads.holds value
    · obtain rfl : k = 0 := intRound_unique rounds (by exact_mod_cast intRound_self m 0)
      rw [code, if_neg (by omega), min_eq_right high, max_eq_right low, Int.cast_zero, if_pos rfl, Int.zero_emod]
      exact ⟨rfl, low_none⟩
    · rw [code, intConvert_fin (same ▸ width) pos rounds, same]
      refine ⟨toNat_put width _, ?_⟩
      dsimp only
      split
      · exact invalid
      · by_cases exact : signed (codeNeg (cvtFmt s).ew (cvtFmt s).fw (x.toNat % 2 ^ ((cvtFmt s).ew + (cvtFmt s).fw + 1))) (dyadic b e) = k
        · rw [if_pos exact, exact]
          simp [low_none]
        · rw [if_neg exact, decide_eq_true exact]
          rfl

end Sys2Proof.Machine
end

section
/-! CVTN and QSCALE: rounding to narrow formats by either rule, the merge into the old word, and the scales of both rules (09 R212-R215, Tables 9.6, 9.7). -/

namespace Sys2Proof.Machine

variable {sr : Bool} {rnd m : Nat} {e x : Int} {neg : Bool}

/-! ### Rounding -/

theorem narrowUp_zero (sr : Bool) (rnd q : Nat) : narrowUp sr rnd q 0 1 = false := by
  cases sr
  · exact roundsUp_zero .rne false q
  · rfl

/-- The model's rounding of a magnitude is that of the statements, and its flag says whether the magnitude is another. -/
theorem roundFar_narrowUp (random : rnd < 4096) (m : Nat) (e x : Int) :
    roundMag sr rnd (2 ^ x) (dyadic m e) = multiples (2 ^ x) (roundFar (narrowUp sr rnd) m e x).1 ∧
    ((roundFar (narrowUp sr rnd) m e x).2 = true ↔ roundMag sr rnd (2 ^ x) (dyadic m e) ≠ dyadic m e) ∧
    ∃ q, multiples (2 ^ x) q ≤ dyadic m e ∧ dyadic m e < multiples (2 ^ x) (q + 1) ∧ q ≤ (roundFar (narrowUp sr rnd) m e x).1 ∧ (roundFar (narrowUp sr rnd) m e x).1 ≤ q + 1 := by
  obtain ⟨q, r, d, part, value, result⟩ := roundFar_eq (narrowUp sr rnd) (narrowUp_zero sr rnd) m e x
  have unit : (0 : Rat) < 2 ^ x := by positivity
  have positive : (0 : Rat) < d := by exact_mod_cast Nat.zero_lt_of_lt part
  have nonneg : (0 : Rat) ≤ (r : Rat) / d := by positivity
  have less : (r : Rat) / d < 1 := (div_lt_one positive).mpr (by exact_mod_cast part)
  have ratio : dyadic m e / 2 ^ x = q + (r : Rat) / d := by rw [value, mul_div_cancel_right₀ _ (ne_of_gt unit)]
  have floor : ⌊dyadic m e / 2 ^ x⌋ = (q : Int) := by
    rw [ratio, Int.floor_eq_iff]
    push_cast
    constructor <;> linarith
  have up : (if sr then decide (4096 ≤ ⌊4096 * (dyadic m e / 2 ^ x - (q : Int))⌋ + rnd)
      else decide (1 / 2 < dyadic m e / 2 ^ x - (q : Int)) || (decide (dyadic m e / 2 ^ x - (q : Int) = 1 / 2) && (q : Int) % 2 == 1)) = narrowUp sr rnd q r d := by
    rw [ratio, Int.cast_natCast, add_sub_cancel_left]
    cases sr
    · have half : (1 : Rat) / 2 < r / d ↔ d < 2 * r := by
        rw [div_lt_div_iff₀ (by norm_num) positive, one_mul, mul_comm]
        exact_mod_cast Iff.rfl
      have tie : (r : Rat) / d = 1 / 2 ↔ 2 * r = d := by
        rw [div_eq_div_iff (ne_of_gt positive) (by norm_num), one_mul, mul_comm]
        exact_mod_cast Iff.rfl
      have parity : ((q : Int) % 2 == 1) = (q % 2 == 1) := by
        rw [Bool.eq_iff_iff, beq_iff_eq, beq_iff_eq]
        omega
      simp only [narrowUp, roundsUp, half, tie, parity, Bool.false_eq_true, if_false]
    · have whole : ⌊4096 * ((r : Rat) / d)⌋ = ((4096 * r / d : Nat) : Int) := by
        rw [← mul_div_assoc, show (4096 : Rat) * r = ((4096 * r : Nat) : Rat) by push_cast; ring, Rat.floor_natCast_div_natCast]
        rfl
      simp only [narrowUp, if_true, whole]
      rw [Bool.eq_iff_iff, Bool.and_eq_true, bne_iff_ne, decide_eq_true_iff, decide_eq_true_iff]
      constructor
      · intro h
        refine ⟨?_, by exact_mod_cast h⟩
        rintro rfl
        simp at h
        omega
      · rintro ⟨-, h⟩
        exact_mod_cast h
  have mag : roundMag sr rnd (2 ^ x) (dyadic m e) = multiples (2 ^ x) (roundFar (narrowUp sr rnd) m e x).1 := by
    unfold roundMag
    simp only [floor, up, result, multiples]
    split
    · push_cast; rfl
    · push_cast; rfl
  have low : multiples (2 ^ x) q ≤ dyadic m e := by
    rw [value, multiples]
    gcongr
    exact le_add_of_nonneg_right nonneg
  have high : dyadic m e < multiples (2 ^ x) (q + 1) := by
    rw [value, multiples]
    push_cast
    gcongr
  refine ⟨mag, ?_, q, low, high, ?_⟩
  · rw [mag, result, bne_iff_ne]
    by_cases none : r = 0
    · have stays : narrowUp sr rnd q r d = false := by
        cases sr <;> simp [narrowUp, roundsUp, none, (Nat.zero_lt_of_lt part).ne]
      rw [stays, if_neg Bool.false_ne_true, value, none, Nat.cast_zero, zero_div, add_zero, multiples]
      exact iff_of_false (not_not.mpr rfl) (not_not.mpr rfl)
    · have above : multiples (2 ^ x) q < dyadic m e := by
        rw [value, multiples]
        gcongr
        exact lt_add_of_pos_right _ (div_pos (by exact_mod_cast Nat.pos_of_ne_zero none) positive)
      refine iff_of_true none ?_
      split
      · exact ne_of_gt high
      · exact ne_of_lt above
  · rw [result]
    dsimp only
    split <;> omega

/-! ### Narrow codes -/

/-- What is asked of a narrow format. -/
structure Sound (k : NFmt) : Prop where
  fraction : 1 ≤ k.fw
  top : k.top < 2 ^ (k.bits - 1)
  bits : 1 ≤ k.bits
  nan : k.nan < 2 ^ k.bits
  inf : ∀ i, k.inf = some i → i < 2 ^ (k.bits - 1)
  most : narrowVal k.fw k.bias k.top ≤ 2 ^ (20 : Int)

theorem sound_e4m3 : Sound e4m3 := ⟨by decide, by decide, by decide, by decide, fun _ h => (by cases h), by norm_num [narrowVal, e4m3]⟩
theorem sound_e5m2 : Sound e5m2 := ⟨by decide, by decide, by decide, by decide, fun _ h => (by cases h; decide), by norm_num [narrowVal, e5m2]⟩
theorem sound_e2m1 : Sound e2m1 := ⟨by decide, by decide, by decide, by decide, fun _ h => (by cases h), by norm_num [narrowVal, e2m1]⟩

/-- The code beyond the range, and the sign bit in place (Table 9.7). -/
def narrowSign (k : NFmt) (neg : Bool) : Nat := if neg then 2 ^ (k.bits - 1) else 0
def narrowBeyond (k : NFmt) (sat neg : Bool) : Nat :=
  if sat || k.bits == 4 then narrowSign k neg + k.top else match k.inf with
    | some i => narrowSign k neg + i
    | none => k.nan

/-- The model's test of a tiny result. -/
def narrowTiny (sr : Bool) (rnd fw bias m : Nat) (e : Int) : Bool :=
  decide (leadExp m e < 1 - bias) && !(decide (leadExp m e = 1 - bias - 1) && decide ((roundFar (narrowUp sr rnd) m e (leadExp m e - fw)).1 = 2 ^ (fw + 1)))

theorem narrow_fin_eq (k : NFmt) (sr : Bool) (rnd : Nat) (sat neg : Bool) (m : Nat) (e : Int) : narrow k sr rnd sat (.fin neg m e) =
    if 20 < leadExp m e then (narrowBeyond k sat neg, { of := true, nx := true })
    else
      let r := roundFar (narrowUp sr rnd) m e (max (leadExp m e) (1 - (k.bias : Int)) - k.fw)
      let c := (max (leadExp m e) (1 - (k.bias : Int)) - k.fw - (1 - (k.bias : Int) - k.fw)).toNat * 2 ^ k.fw + r.1
      if k.top < c then (narrowBeyond k sat neg, { of := true, nx := true }) else (narrowSign k neg + c, { uf := narrowTiny sr rnd k.fw k.bias m e && r.2, nx := r.2 }) := rfl

/-- It is the statements' test. -/
theorem narrowTiny_eq (random : rnd < 4096) (pos : 0 < m) (fw bias : Nat) :
    narrowTiny sr rnd fw bias m e = decide (roundMag sr rnd ((2 : Rat) ^ (leadExp m e - fw)) (dyadic m e) < 2 ^ (1 - (bias : Int))) := by
  rw [Bool.eq_iff_iff, narrowTiny, decide_eq_true_iff, Bool.and_eq_true, Bool.not_eq_true', Bool.and_eq_false_iff]
  simp only [decide_eq_true_eq, decide_eq_false_iff_not, ← not_and_or]
  obtain ⟨mag, -, q, low, high, least, most⟩ := roundFar_narrowUp (sr := sr) random m e (leadExp m e - fw)
  obtain ⟨leadLow, leadHigh⟩ := leadExp_bounds pos e
  have mono : StrictMono (multiples ((2 : Rat) ^ (leadExp m e - fw))) := multiples_strictMono (by positivity)
  have start : multiples ((2 : Rat) ^ (leadExp m e - fw)) (2 ^ fw) = 2 ^ leadExp m e := by rw [multiples_two_pow, sub_add_cancel]
  have stop : multiples ((2 : Rat) ^ (leadExp m e - fw)) (2 ^ (fw + 1)) = 2 ^ (leadExp m e + 1) := by
    rw [multiples_two_pow]
    congr 1
    push_cast
    ring
  have full : 2 ^ fw ≤ q := Nat.le_of_lt_succ (mono.lt_iff_lt.mp (start ▸ lt_of_le_of_lt leadLow high))
  have inside : q < 2 ^ (fw + 1) := mono.lt_iff_lt.mp (stop ▸ lt_of_le_of_lt low leadHigh)
  rw [mag]
  generalize (roundFar (narrowUp sr rnd) m e (leadExp m e - fw)).1 = n at *
  have lower : (2 : Rat) ^ leadExp m e ≤ multiples (2 ^ (leadExp m e - fw)) n := start ▸ mono.monotone (by omega)
  have upper : multiples (2 ^ (leadExp m e - fw)) n ≤ (2 : Rat) ^ (leadExp m e + 1) := stop ▸ mono.monotone (by omega)
  rcases lt_trichotomy (leadExp m e) (1 - bias - 1) with below | here | above
  · exact iff_of_true ⟨by omega, fun h => by omega⟩ (lt_of_le_of_lt upper (two_zpow_lt.mpr (by omega)))
  · rw [show (1 - (bias : Int)) = leadExp m e + 1 by omega, ← stop, mono.lt_iff_lt]
    constructor
    · rintro ⟨-, other⟩
      have := fun h => other ⟨by omega, h⟩
      omega
    · intro less
      exact ⟨by omega, fun h => by omega⟩
  · exact iff_of_false (fun h => by omega) (not_lt.mpr (le_trans (two_zpow_le.mpr (by omega)) lower))

/-- A rounded magnitude is the magnitude of the code that the model makes of it. -/
theorem narrowVal_roundFar (random : rnd < 4096) (pos : 0 < m) {fw bias : Nat} (fraction : 1 ≤ fw) :
    narrowVal fw bias ((max (leadExp m e) (1 - (bias : Int)) - fw - (1 - (bias : Int) - fw)).toNat * 2 ^ fw +
      (roundFar (narrowUp sr rnd) m e (max (leadExp m e) (1 - (bias : Int)) - fw)).1) = roundMag sr rnd ((2 : Rat) ^ (max (leadExp m e) (1 - (bias : Int)) - fw)) (dyadic m e) := by
  obtain ⟨j, apart⟩ := Int.eq_ofNat_of_zero_le (show 0 ≤ max (leadExp m e) (1 - (bias : Int)) - fw - (1 - (bias : Int) - fw) by omega)
  have unit : max (leadExp m e) (1 - (bias : Int)) - fw = unitExp fw bias + j := by rw [unitExp]; omega
  obtain ⟨mag, -, q, low, high, least, most⟩ := roundFar_narrowUp (sr := sr) random m e (unitExp fw bias + j)
  obtain ⟨leadLow, leadHigh⟩ := leadExp_bounds pos e
  have mono : StrictMono (multiples ((2 : Rat) ^ (unitExp fw bias + j))) := multiples_strictMono (by positivity)
  rw [apart, Int.toNat_natCast, unit, mag]
  refine narrowVal_block (by omega) ?_ ?_
  · rcases Nat.eq_zero_or_pos j with zero | some
    · exact .inl zero
    · refine .inr (le_trans (Nat.le_of_lt_succ (mono.lt_iff_lt.mp (lt_of_le_of_lt ?_ high))) least)
      rw [multiples_two_pow]
      exact le_trans (two_zpow_le.mpr (by omega)) leadLow
  · refine le_trans most (Nat.succ_le_of_lt (mono.lt_iff_lt.mp (lt_of_le_of_lt low ?_)))
    rw [multiples_two_pow]
    exact lt_of_lt_of_le leadHigh (two_zpow_le.mpr (by push_cast; omega))

theorem narrow_fin (k : NFmt) (sound : Sound k) (random : rnd < 4096) (sat : Bool) (pos : 0 < m) :
    let mag := roundMag sr rnd ((2 : Rat) ^ (max (leadExp m e) (1 - (k.bias : Int)) - k.fw)) (dyadic m e)
    let tiny := decide (roundMag sr rnd ((2 : Rat) ^ (leadExp m e - k.fw)) (dyadic m e) < (2 : Rat) ^ (1 - (k.bias : Int)))
    (narrowVal k.fw k.bias k.top < mag → narrow k sr rnd sat (.fin neg m e) = (narrowBeyond k sat neg, { of := true, nx := true })) ∧
    (mag ≤ narrowVal k.fw k.bias k.top → ∃ c fl, c ≤ k.top ∧ narrow k sr rnd sat (.fin neg m e) = (narrowSign k neg + c, fl) ∧ narrowVal k.fw k.bias c = mag ∧
      fl.low = if mag = dyadic m e then 0#5 else if tiny then 0x03#5 else 0x01#5) := by
  obtain ⟨leadLow, -⟩ := leadExp_bounds pos e
  have fraction := sound.fraction
  obtain ⟨value, inexact, q, low, high, least, most⟩ := roundFar_narrowUp (sr := sr) random m e (max (leadExp m e) (1 - (k.bias : Int)) - k.fw)
  have code := narrowVal_roundFar (sr := sr) (e := e) (bias := k.bias) random pos fraction
  have tiny := narrowTiny_eq (sr := sr) (e := e) random pos k.fw k.bias
  have mono : StrictMono (narrowVal k.fw k.bias) := narrowVal_strictMono (by omega)
  rw [narrow_fin_eq]
  dsimp only
  rw [← tiny]
  generalize (max (leadExp m e) (1 - (k.bias : Int)) - k.fw - (1 - (k.bias : Int) - k.fw)).toNat * 2 ^ k.fw +
    (roundFar (narrowUp sr rnd) m e (max (leadExp m e) (1 - (k.bias : Int)) - k.fw)).1 = c at code ⊢
  split
  case isTrue far =>
    refine ⟨fun _ => rfl, fun small => ?_⟩
    have some : (2 : Rat) ^ leadExp m e ≤ roundMag sr rnd (2 ^ (max (leadExp m e) (1 - (k.bias : Int)) - k.fw)) (dyadic m e) := by
      have finest : max (leadExp m e) (1 - (k.bias : Int)) = leadExp m e := by omega
      rw [finest] at value high least ⊢
      have grid : StrictMono (multiples ((2 : Rat) ^ (leadExp m e - k.fw))) := multiples_strictMono (by positivity)
      have start : multiples ((2 : Rat) ^ (leadExp m e - k.fw)) (2 ^ k.fw) = 2 ^ leadExp m e := by rw [multiples_two_pow, sub_add_cancel]
      rw [value, ← start]
      exact grid.monotone (le_trans (Nat.le_of_lt_succ (grid.lt_iff_lt.mp (start ▸ lt_of_le_of_lt leadLow high))) least)
    have large : (2 : Rat) ^ (20 : Int) < 2 ^ leadExp m e := two_zpow_lt.mpr far
    have := sound.most
    linarith
  case isFalse =>
    rw [← code, mono.lt_iff_lt, mono.le_iff_le]
    rw [← code] at inexact
    refine ⟨fun past => if_pos past, fun inside => ⟨c, _, inside, if_neg (not_lt.mpr inside), rfl, ?_⟩⟩
    generalize (roundFar (narrowUp sr rnd) m e (max (leadExp m e) (1 - (k.bias : Int)) - k.fw)).2 = flag at *
    by_cases same : narrowVal k.fw k.bias c = dyadic m e
    · obtain rfl : flag = false := Bool.eq_false_iff.mpr fun h => inexact.mp h same
      rw [if_pos same, Bool.and_false]
      exact low_none
    · obtain rfl : flag = true := inexact.mpr same
      rw [if_neg same, Bool.and_true]
      cases narrowTiny sr rnd k.fw k.bias m e <;> rfl

/-- A narrow code fits its width. -/
theorem narrow_lt (k : NFmt) (sound : Sound k) (sr : Bool) (rnd : Nat) (sat : Bool) (v : Fp) : (narrow k sr rnd sat v).1 < 2 ^ k.bits := by
  have double : 2 ^ k.bits = 2 ^ (k.bits - 1) + 2 ^ (k.bits - 1) := by
    have := Nat.two_pow_pred_add_two_pow_pred sound.bits
    omega
  have sign (neg : Bool) {c : Nat} (inside : c < 2 ^ (k.bits - 1)) : narrowSign k neg + c < 2 ^ k.bits := by
    unfold narrowSign
    split <;> omega
  have beyond (neg : Bool) : narrowBeyond k sat neg < 2 ^ k.bits := by
    unfold narrowBeyond
    split
    · exact sign neg sound.top
    · split
      case h_1 i some => exact sign neg (sound.inf i some)
      case h_2 => exact sound.nan
  cases v with
  | nan => exact sound.nan
  | inf neg => exact beyond neg
  | zero neg => exact sign neg (Nat.two_pow_pos _)
  | fin neg m e =>
    rw [narrow_fin_eq]
    dsimp only
    split
    · exact beyond neg
    · split
      · exact beyond neg
      case isFalse inside => exact sign neg (lt_of_le_of_lt (not_lt.mp inside) sound.top)

/-- The model's narrow code of an FP32 code. -/
theorem isNarrow_narrow (k : NFmt) (sound : Sound k) (random : rnd < 4096) (sr sat : Bool) (v : Nat) :
    IsNarrow k.fw k.bias k.bits k.top k.nan k.inf sr rnd sat v (narrow k sr rnd sat (unpack fp32 v)).1 (narrow k sr rnd sat (unpack fp32 v)).2.low := by
  have reads := reads_fp32 v
  generalize unpack fp32 v = x at reads
  unfold IsNarrow
  dsimp only
  rw [show (if codeNeg 8 23 v = true then 2 ^ (k.bits - 1) else 0) = narrowSign k (codeNeg 8 23 v) from rfl]
  refine ⟨fun nan => ?_, fun inf => ?_, fun zero => ?_, fun p e value low high => ?_⟩
  · rw [reads.eq_nan nan]
    exact ⟨rfl, low_invalid true⟩
  · rw [reads.eq_inf inf]
    exact ⟨rfl, low_invalid _⟩
  · rw [(reads.holds zero).eq_zero]
    exact ⟨rfl, low_none⟩
  · obtain ⟨rfl, -⟩ | ⟨b, f, pos, code, rfl⟩ := reads.holds value
    · rw [abs_zero] at low
      exact absurd low (not_le.mpr (by positivity))
    · rw [abs_signed (le_of_lt (dyadic_pos pos f))] at low high ⊢
      obtain ⟨leadLow, leadHigh⟩ := leadExp_bounds pos f
      have lower := two_zpow_lt.mp (lt_of_le_of_lt low leadHigh)
      have upper := two_zpow_lt.mp (lt_of_le_of_lt leadLow high)
      obtain rfl : e = leadExp b f := by omega
      rw [code]
      obtain ⟨past, inside⟩ := narrow_fin (sr := sr) (neg := codeNeg 8 23 v) (e := f) k sound random sat pos
      constructor
      · intro large
        rw [past large]
        exact ⟨rfl, (by decide : ({ of := true, nx := true } : FFlags).low = 0x05#5)⟩
      · intro small
        obtain ⟨c, fl, most, result, same, flags⟩ := inside small
        rw [result]
        exact ⟨c, most, rfl, same, flags⟩

/-! ### CVTN -/

/-- The bits of a word into which others have been put. -/
theorem getLsbD_insertBits (d : Word) (pos n x : Nat) {j : Nat} (inside : j < 32) :
    (insertBits d pos n x).getLsbD j = if pos ≤ j ∧ j < pos + n then x.testBit (j - pos) else d.getLsbD j := by
  have field : (j - pos < n ∧ pos ≤ j) ↔ (pos ≤ j ∧ j < pos + n) := by omega
  unfold insertBits
  simp only [BitVec.getLsbD_or, BitVec.getLsbD_and, BitVec.getLsbD_not, BitVec.getLsbD_ofNat, Nat.testBit_mul_two_pow, Nat.testBit_two_pow_sub_one, inside, decide_true, Bool.true_and]
  by_cases here : pos ≤ j
  · by_cases last : j - pos < n
    · simp [here, last, show j < pos + n by omega]
    · simp [here, last, show ¬ j < pos + n by omega]
  · simp [here]

theorem getLsbD_insertPair (d : Word) (pos n : Nat) {q0 : Nat} (first : q0 < 2 ^ n) (q1 : Nat) {j : Nat} (inside : j < 32) :
    (insertBits d pos (2 * n) (q0 + q1 * 2 ^ n)).getLsbD j =
      if j < pos then d.getLsbD j else if j < pos + n then q0.testBit (j - pos) else if j < pos + 2 * n then q1.testBit (j - pos - n) else d.getLsbD j := by
  rw [getLsbD_insertBits d pos _ _ inside, Nat.add_comm q0, Nat.mul_comm q1, Nat.testBit_two_pow_mul_add q1 first]
  by_cases before : j < pos
  · rw [if_pos before, if_neg (by omega)]
  · rw [if_neg before]
    by_cases low : j < pos + n
    · rw [if_pos low, if_pos (by omega), if_pos (by omega)]
    · rw [if_neg low]
      by_cases high : j < pos + 2 * n
      · rw [if_pos high, if_pos (by omega), if_neg (by omega)]
      · rw [if_neg high, if_neg (by omega)]

/-- The format and the place that a control word names. -/
def ctlFormat (ctl : Word) : NFmt := if ctl.getLsbD 1 then e2m1 else if ctl.getLsbD 0 then e5m2 else e4m3

theorem sound_ctlFormat (ctl : Word) : Sound (ctlFormat ctl) := by
  unfold ctlFormat
  split
  · exact sound_e2m1
  · split
    · exact sound_e5m2
    · exact sound_e4m3

theorem cvtnOp_spec (sat : Bool) (p : DWord) (ctl d : Word) : ∃ q0 q1 f0 f1,
    let is := fun (rnd v q : Nat) (fl : BitVec 5) =>
      IsNarrow (ctlFormat ctl).fw (ctlFormat ctl).bias (ctlFormat ctl).bits (ctlFormat ctl).top (ctlFormat ctl).nan (ctlFormat ctl).inf (ctl.getLsbD 4) rnd sat v q fl
    let n := (ctlFormat ctl).bits
    let pos := if ctl.getLsbD 1 then 8 * (ctl.toNat / 4 % 4) else 16 * (ctl.toNat / 4 % 2)
    is (ctl.toNat / 2 ^ 8 % 2 ^ 12) (p.toNat % 2 ^ 32) q0 f0 ∧ is (ctl.toNat / 2 ^ 20) (p.toNat / 2 ^ 32) q1 f1 ∧
    (cvtnOp sat (p.setWidth 32) (p.extractLsb' 32 32) ctl d).2.low = f0 ||| f1 ∧
    ∀ j, j < 32 → (cvtnOp sat (p.setWidth 32) (p.extractLsb' 32 32) ctl d).1.getLsbD j =
      (if j < pos then d.getLsbD j else if j < pos + n then q0.testBit (j - pos) else if j < pos + 2 * n then q1.testBit (j - pos - n) else d.getLsbD j) := by
  have sound := sound_ctlFormat ctl
  have first : (ctl.extractLsb' 8 12).toNat = ctl.toNat / 2 ^ 8 % 2 ^ 12 := by rw [BitVec.extractLsb'_toNat, Nat.shiftRight_eq_div_pow]
  have second : (ctl.extractLsb' 20 12).toNat = ctl.toNat / 2 ^ 20 := by
    rw [BitVec.extractLsb'_toNat, Nat.shiftRight_eq_div_pow, Nat.mod_eq_of_lt (show ctl.toNat / 2 ^ 20 < 2 ^ 12 from Nat.div_lt_of_lt_mul ctl.isLt)]
  have left : (p.setWidth 32).toNat = p.toNat % 2 ^ 32 := BitVec.toNat_setWidth ..
  have right : (p.extractLsb' 32 32).toNat = p.toNat / 2 ^ 32 := by
    rw [BitVec.extractLsb'_toNat, Nat.shiftRight_eq_div_pow, Nat.mod_eq_of_lt (show p.toNat / 2 ^ 32 < 2 ^ 32 from Nat.div_lt_of_lt_mul p.isLt)]
  have pair : (ctl.extractLsb' 2 2).toNat = ctl.toNat / 4 % 4 := by rw [BitVec.extractLsb'_toNat, Nat.shiftRight_eq_div_pow]
  have single : (if ctl.getLsbD 2 = true then 16 else 0) = 16 * (ctl.toNat / 4 % 2) := by
    have bit : ctl.getLsbD 2 = decide (ctl.toNat / 4 % 2 = 1) := by rw [BitVec.getLsbD, Nat.testBit_eq_decide_div_mod_eq]
    rw [bit]
    rcases Nat.mod_two_eq_zero_or_one (ctl.toNat / 4) with h | h <;> simp [h]
  have randomFirst : ctl.toNat / 2 ^ 8 % 2 ^ 12 < 4096 := Nat.mod_lt _ (by decide)
  have randomSecond : ctl.toNat / 2 ^ 20 < 4096 := Nat.div_lt_of_lt_mul ctl.isLt
  refine ⟨_, _, _, _, isNarrow_narrow _ sound randomFirst (ctl.getLsbD 4) sat _, isNarrow_narrow _ sound randomSecond (ctl.getLsbD 4) sat _, ?_, fun j inside => ?_⟩
  · rw [← low_or, ← first, ← second, ← left, ← right]
    rfl
  · rw [← getLsbD_insertPair d _ _ (narrow_lt _ sound ..) _ inside, ← first, ← second, ← left, ← right, ← pair, ← single]
    rfl

/-! ### QSCALE -/

/-- A type's largest finite value by its mantissa and its exponent. -/
theorem qscaleType_spec (type : Nat) : (qscaleType type).1 = (if type = 2 then 8 else if type = 3 then 15 else 2) ∧
    (if type = 2 then 448 else if type = 3 then 57344 else 6 : Rat) = (qscaleType type).2 / 8 * 2 ^ (qscaleType type).1 ∧ 8 ≤ (qscaleType type).2 ∧ (qscaleType type).2 < 16 := by
  unfold qscaleType
  by_cases two : type = 2
  · norm_num [two]
  · by_cases three : type = 3
    · norm_num [three]
    · norm_num [two, three]

theorem qscaleOp_spec (fit : Bool) (type : Nat) (a : Word) :
    (qscaleOp fit type a).2.low = (if codeSig 8 23 a.toNat then 0x10#5 else 0#5) ∧ (codeVal 8 23 a.toNat = none → (qscaleOp fit type a).1 = 0xFF#32) ∧
    (codeVal 8 23 a.toNat = some 0 → (qscaleOp fit type a).1 = 0x7F#32) ∧
    (∀ p, codeVal 8 23 a.toNat = some p → p ≠ 0 → ∃ e : Int, (qscaleOp fit type a).1 = BitVec.ofInt 32 (max (-127) (min 127 e) + 127) ∧
      (fit = false → (2 : Rat) ^ (e + (if type = 2 then 8 else if type = 3 then 15 else 2)) ≤ |p| ∧ |p| < (2 : Rat) ^ (e + (if type = 2 then 8 else if type = 3 then 15 else 2) + 1)) ∧
      (fit = true →
        let most : Rat := if type = 2 then 448 else if type = 3 then 57344 else 6
        most * (2 : Rat) ^ (e - 1) < |p| ∧ |p| ≤ most * (2 : Rat) ^ e)) := by
  have reads := reads_fp32 a.toNat
  unfold qscaleOp
  generalize unpack fp32 a.toNat = x at reads
  cases reads with
  | nan _ _ value => exact ⟨low_invalid _, fun _ => rfl, fun some => by simp [value] at some, fun p some => by simp [value] at some⟩
  | inf _ isSig _ value => exact ⟨by rw [isSig]; exact low_none, fun _ => rfl, fun some => by simp [value] at some, fun p some => by simp [value] at some⟩
  | zero _ isSig _ value =>
    refine ⟨by rw [isSig]; exact low_none, fun none => by simp [value] at none, fun _ => rfl, fun p some other => ?_⟩
    obtain rfl : 0 = p := Option.some.inj (value.symm.trans some)
    exact absurd rfl other
  | @fin b f _ isSig _ value pos =>
    have positive := dyadic_pos pos f
    refine ⟨by rw [isSig]; exact low_none, fun none => by simp [value] at none, fun some => absurd (Option.some.inj (value.symm.trans some)) (signed_ne_zero positive), fun p some other => ?_⟩
    obtain rfl := Option.some.inj (value.symm.trans some)
    rw [abs_signed (le_of_lt positive)]
    obtain ⟨low, high⟩ := leadExp_bounds pos f
    obtain ⟨exponent, largest, least, most⟩ := qscaleType_spec type
    dsimp only
    rw [largest, ← exponent]
    generalize (qscaleType type).1 = g at *
    generalize (qscaleType type).2 = q at *
    have clamp (i : Int) : min (max i (-127)) 127 + 127 = max (-127) (min 127 i) + 127 := by omega
    refine ⟨_, by rw [clamp], fun rule => ?_, fun rule => ?_⟩
    · rw [rule, Bool.false_and, if_neg Bool.false_ne_true, sub_add_cancel]
      exact ⟨low, high⟩
    · have least : (8 : Rat) ≤ q := by exact_mod_cast least
      have most : (q : Rat) < 16 := by exact_mod_cast most
      have place (i : Int) : (q : Rat) / 8 * 2 ^ g * 2 ^ (leadExp b f - g + i) = q / 8 * 2 ^ i * 2 ^ leadExp b f := by
        rw [mul_assoc, ← zpow_add₀ (by norm_num), show g + (leadExp b f - g + i) = i + leadExp b f by ring, zpow_add₀ (by norm_num), mul_assoc]
      have lead : (0 : Rat) < 2 ^ leadExp b f := by positivity
      have test : q * 2 ^ Nat.log2 b < b * 8 ↔ (q : Rat) / 8 * 2 ^ (0 : Int) * 2 ^ leadExp b f < dyadic b f := by
        have scale : (q : Rat) / 8 * 2 ^ (0 : Int) * 2 ^ leadExp b f = (q * 2 ^ Nat.log2 b : Nat) * (2 ^ f / 8) := by
          rw [leadExp, zpow_zero, zpow_add₀ (by norm_num), zpow_natCast]
          push_cast
          ring
        have scale' : dyadic b f = (b * 8 : Nat) * (2 ^ f / 8) := by
          rw [dyadic]
          push_cast
          ring
        rw [scale, scale', mul_lt_mul_iff_left₀ (by positivity), Nat.cast_lt]
      rw [rule, Bool.true_and]
      by_cases more : q * 2 ^ Nat.log2 b < b * 8
      · rw [decide_eq_true more, if_pos rfl, add_sub_cancel_right, ← add_zero (leadExp b f - g), place, add_assoc, place]
        refine ⟨test.mp more, ?_⟩
        have double : (q : Rat) / 8 * 2 ^ ((0 : Int) + 1) * 2 ^ leadExp b f = q / 8 * 2 ^ (leadExp b f + 1) := by rw [zero_add, zpow_one, zpow_add_one₀ (by norm_num)]; ring
        have wide : (1 : Rat) * 2 ^ (leadExp b f + 1) ≤ q / 8 * 2 ^ (leadExp b f + 1) := mul_le_mul_of_nonneg_right (by linarith) (by positivity)
        rw [double]
        linarith
      · rw [decide_eq_false more, if_neg Bool.false_ne_true, sub_eq_add_neg (leadExp b f - g), place, ← add_zero (leadExp b f - g), place]
        refine ⟨?_, not_lt.mp fun h => more (test.mpr h)⟩
        have part : (q : Rat) / 8 * 2 ^ (-1 : Int) * 2 ^ leadExp b f < 1 * 2 ^ leadExp b f := by
          refine mul_lt_mul_of_pos_right ?_ lead
          rw [zpow_neg_one]
          linarith
        linarith

end Sys2Proof.Machine
end

section
/-! The sign, rounding, one-operand, conversion and scale words (08 R193, R194, R196-R198; 09 R212-R215). -/

namespace Sys2Proof.Machine

/-- CVT's flags and results are those of its operation on the operand. -/
theorem givesFlags_cvt (w : FmtX) (t s : BitVec 3) (m : BitVec 2) :
    GivesFlags (.cvt w t s m) w.u w.n w.d (if 5 ≤ t.toNat then 2 else 1) (fun c l => withLow (cvtOp t s (dirOf m) (if 5 ≤ s.toNat then op64 c w.a l else (op32 c w.a l).setWidth 64))) :=
  givesFlags_of_putResult (x := fun c l => cvtOp t s (dirOf m) (if 5 ≤ s.toNat then op64 c w.a l else (op32 c w.a l).setWidth 64)) (fun _ => rfl) (by split <;> simp) fun _ _ => rfl

/-- The narrow formats as a control word's bits choose them. -/
theorem isNarrow_ctlFormat (ctl : Word) (sr : Bool) (rnd : Nat) (sat : Bool) (v q : Nat) (fl : BitVec 5) :
    IsNarrow (ctlFormat ctl).fw (ctlFormat ctl).bias (ctlFormat ctl).bits (ctlFormat ctl).top (ctlFormat ctl).nan (ctlFormat ctl).inf sr rnd sat v q fl =
      if ctl.getLsbD 1 then IsNarrow 1 1 4 0x7 0x0 none sr rnd sat v q fl
      else if ctl.getLsbD 0 then IsNarrow 2 15 8 0x7B 0x7E (some 0x7C) sr rnd sat v q fl
      else IsNarrow 3 7 8 0x7E 0x7F none sr rnd sat v q fl := by
  unfold ctlFormat
  split
  · rfl
  · split
    · rfl
    · rfl

theorem bits_ctlFormat (ctl : Word) : (ctlFormat ctl).bits = if ctl.getLsbD 1 then 4 else 8 := by
  unfold ctlFormat
  split
  · rfl
  · split
    · rfl
    · rfl

/-- Settles O17: each word delivers the value of its function, and the model's value is the one the statement names, code class by code class. -/
theorem floatToIntegerAndSignResults : Obligations.FloatToIntegerAndSignResults := by
  unfold Obligations.FloatToIntegerAndSignResults
  refine ⟨fun w => ⟨?neg, ?abs, ?floor, ?ceil, ?trunc, ?rndne, ?fract, ?sqrt, ?rcp, ?rsq, ?exp2, ?log2, ?sinpi, ?cospi, ?cvt⟩, fun w => ⟨?cvtn, ?qscale⟩⟩
  case neg => exact ⟨_, givesFloat_of_fOne (f := fNeg) fun _ => rfl, fun a => ite_isNan a _⟩
  case abs => exact ⟨_, givesFloat_of_fOne (f := fAbs) fun _ => rfl, fun a => ite_isNan a _⟩
  case floor => exact oneOperand_of_fOne (f := fInt .rdn) (fun _ => rfl) (fun a sig nan => by rw [fInt, nan]) (toInteger_fInt 2#2)
  case ceil => exact oneOperand_of_fOne (f := fInt .rup) (fun _ => rfl) (fun a sig nan => by rw [fInt, nan]) (toInteger_fInt 3#2)
  case trunc => exact oneOperand_of_fOne (f := fInt .rz) (fun _ => rfl) (fun a sig nan => by rw [fInt, nan]) (toInteger_fInt 1#2)
  case rndne => exact oneOperand_of_fOne (f := fInt .rne) (fun _ => rfl) (fun a sig nan => by rw [fInt, nan]) (toInteger_fInt 0#2)
  case fract => exact oneOperand_of_fOne (f := fFract) (fun _ => rfl) (fun a sig nan => by rw [fFract, nan]) fFract_spec
  case sqrt => exact oneOperand_of_fOne (f := fSqrt) (fun _ => rfl) (fun a sig nan => by rw [fSqrt, nan]) fSqrt_spec
  case rcp =>
    refine oneOperand_of_fOne (f := fRcp) (fun _ => rfl) (fun a sig nan => by rw [fRcp, nan]) fun a number => ?_
    obtain ⟨inf, fin⟩ := fRcp_spec a number
    refine ⟨inf, fun p value => ?_⟩
    obtain ⟨zero, other⟩ := fin p value
    exact ⟨zero, fun some => (other some).1, fun some => (other some).2⟩
  case rsq => exact oneOperand_of_fOne (f := fRsq) (fun _ => rfl) (fun a sig nan => by rw [fRsq, nan]) fRsq_spec
  case exp2 => exact oneOperand_of_fOne (f := fExp2) (fun _ => rfl) (fun a sig nan => by rw [fExp2, nan]) fExp2_spec
  case log2 => exact oneOperand_of_fOne (f := fLog2) (fun _ => rfl) (fun a sig nan => by rw [fLog2, nan]) fLog2_spec
  case sinpi =>
    refine oneOperand_of_fOne (f := fSinpi false) (fun _ => rfl) (fun a sig nan => by rw [fSinpi, nan]) fun a number => ?_
    obtain ⟨inf, fin⟩ := fSinpi_spec false a number
    refine ⟨inf, fun p value n => ⟨fun int => ?_, fun half => ?_⟩⟩
    · rw [(fin p value n).1 int]
      exact ⟨toNat_signBit _, low_none⟩
    · rw [(fin p value n).2 half]
      exact ⟨codeVal_one n, low_none⟩
  case cospi =>
    refine oneOperand_of_fOne (f := fSinpi true) (fun _ => rfl) (fun a sig nan => by rw [fSinpi, nan]) fun a number => ?_
    obtain ⟨inf, fin⟩ := fSinpi_spec true a number
    refine ⟨inf, fun p value n => ⟨fun int => ?_, fun half => ?_⟩⟩
    · rw [(fin p value n).1 int]
      exact ⟨codeVal_one n, low_none⟩
    · rw [(fin p value n).2 half]
      exact ⟨rfl, low_none⟩
  case cvt =>
    intro t s m _
    exact ⟨fun x => withLow (cvtOp t s (dirOf m) x), givesFlags_cvt w t s m, fun x => ⟨fun float source => cvt_float_float float source x, fun float source => cvt_int_float float source x,
      fun int source => cvt_float_int int source x⟩⟩
  case cvtn =>
    refine ⟨fun p ctl d => withLow (cvtnOp w.x (p.setWidth 32) (p.extractLsb' 32 32) ctl d), givesFlags_of_putF32 (fun _ => rfl) fun _ _ => rfl, fun p ctl d => ?_⟩
    obtain ⟨q0, q1, f0, f1, first, second, flags, bits⟩ := cvtnOp_spec w.x p ctl d
    refine ⟨q0, q1, f0, f1, ?_⟩
    rw [isNarrow_ctlFormat] at first second
    simp only [bits_ctlFormat] at bits
    exact ⟨first, second, flags, bits⟩
  case qscale => exact ⟨fun a => withLow (qscaleOp w.x w.b.toNat a), givesFlags_of_putF32 (fun _ => rfl) fun _ _ => rfl, qscaleOp_spec w.x w.b.toNat⟩

end Sys2Proof.Machine
end
